-- ==== Sys2Proof/Word.lean ====
section
/-! DEFINITION. The word types of the ZV8 and the sparse map every table of the machine is held in.
Nothing here computes: bit fields, sign extension and byte order are in `Decode.lean` and `Machine/`. -/

namespace Sys2Proof

/-- One byte of memory (R5). -/
abbrev Byte := BitVec 8
/-- A 32-bit lane word (R212). -/
abbrev Word := BitVec 32
/-- A 64-bit scalar register value (R114). -/
abbrev DWord := BitVec 64
/-- A 64-byte sector of a line: byte `i` is bits `[8i+7:8i]` (R169). -/
abbrev Sector := BitVec 512
/-- A B16 bound (R229). -/
abbrev Bound := BitVec 16
/-- One bit per lane slot, slot `i` at bit `i` (R113). -/
abbrev Mask := BitVec 32
/-- The number of a scalar register, s0 to s63 (R114). -/
abbrev SNum := Fin 64
/-- A finite table from numbers to records, sparse: strictly rising keys, and no entry that
equals what an unlisted key stands for. Its operations are in `Machine/KMap.lean`. -/
abbrev KMap (α : Type) := List (Nat × α)

end Sys2Proof
end

