-- ==== Sys2Proof/Syntax.lean ====
section
/-! DEFINITION. The syntax of everything the ZV8 can do in one step: the scalar instructions of Table 12-6,
the lane words of Table 12-14 and the device, host and link events, one constructor per row of
spec/opcode_table.json. Nothing here has a meaning; `Machine/Dispatch.lean` gives each constructor its own. -/

namespace Sys2Proof

/-- A source field of a lane word (Table 12-10). In the immediate, memory and control formats the same 21
bits are read by the accessors of `Machine/Operands.lean`. -/
structure Src where
  reg : BitVec 7
  neg : Bool
  abs : Bool
  fe : Bool
  sub : BitVec 3
  route : BitVec 3
  arg : BitVec 5
deriving DecidableEq, Repr

/-- The fields of a 96-bit lane word but its opcode (Table 12-9). -/
structure LaneWord where
  pair : Bool
  pred : BitVec 3
  pneg : Bool
  gsel : BitVec 2
  dst : BitVec 7
  clamp : BitVec 2
  scale : BitVec 3
  nar : BitVec 3
  rnd : BitVec 3
  a : Src
  b : Src
  c : Src
deriving DecidableEq, Repr

/-- An issuer of instructions: a group of a team on a core, or a control stream of a context (R194). Teams
and streams are named by their handles in the state. -/
inductive Party where
  | group (team : Nat) (gid : Fin 16)
  | stream (k : Nat)
deriving DecidableEq, Repr

/-- Where a distributor puts one team (R98): the core, its first group slot, the base of its scratch in the
core and the accumulator slots it is given. Which core is chosen is not architectural, so an event says it. -/
structure Place where
  core : Nat
  slots : List (Fin 16)
  scr : Nat
  acc : List Nat
deriving DecidableEq, Repr

/-- A translation (R188): the virtual and physical base of `2^bits` bytes of one address space, with its
permissions, the half or halves of an 8 KiB entry that it fills, and the Tirsol peer whose memory it names. -/
structure Trans where
  pasid : BitVec 20
  va : Nat
  pa : Nat
  bits : Nat
  lo : Bool
  hi : Bool
  rd : Bool
  wr : Bool
  peer : Option (BitVec 12)
deriving DecidableEq, Repr

/-- A Tirsol request as its home receives it (Table 2-3, R39). `op` is 0 read, 1 write, 2 posted write,
3 atomic, 4 fence probe, 5 a lane word's atomic on a 32-bit word, with the function of an atomic in [7:4] (log 15). -/
structure TReq where
  src : BitVec 12
  dst : BitVec 12
  seq : BitVec 24
  ackt : BitVec 24
  op : BitVec 8
  len : BitVec 4
  pa : BitVec 52
  ord : BitVec 8
  opnd : BitVec 304
  data : List Byte
  md : List DWord
deriving DecidableEq, Repr

/-- What an access of the management cores names (03 R66, R67): what the access filter admits, what only the security
core writes, and the memories that the filter blocks. -/
inductive MgmtTarget where
  | sram
  | devicePage
  | contextTables
  | linkTables
  | invalLogs
  | errorRing
  | counters
  | placement
  | offer
  | slots
  | ideKeys
  | debugEnables
  | accessFilter
  | startCounters
  | hbm
  | hostMemory
  | saveArea
deriving DecidableEq, Repr

/-- A request of the host or of the management interface that has reached the package (03 R51, R65, 01 R28). The
host and management events take their operands from the first one (log 9). -/
inductive HostReq where
  /-- CXL.io write of `size` bytes at an offset of BAR0 -/
  | write (off size : Nat) (v : DWord)
  /-- CXL.io read of `size` bytes at an offset of BAR0 -/
  | read (off size : Nat)
  /-- CXL.mem write of bytes at a device physical address -/
  | memWrite (pa : Nat) (data : List Byte)
  /-- CXL.mem read -/
  | memRead (pa len : Nat)
  /-- the host has written a line of its own memory -/
  | line (pa : Nat) (data : List Byte)
  /-- the management interface sets the power limit in W -/
  | power (limit : Nat)
  /-- a read of n bytes by the management cores (R67) -/
  | mgmtRead (t : MgmtTarget) (a n : Nat)
  /-- a write by the management cores (R66, R67) -/
  | mgmtWrite (t : MgmtTarget) (a : Nat) (data : List Byte)
deriving DecidableEq, Repr

/-- Everything that happens in one step. Constructors without operands stand last. -/
inductive Instr where
  -- device, host, link and engine events
  /-- CTX_SETUP_COMPLETE (R53). -/
  | ctxSetupComplete (n : BitVec 8)
  /-- CTX_KILL_COMPLETE (R54). -/
  | ctxKillComplete (n : BitVec 8)
  /-- SEAM_FLIT (R13). -/
  | seamFlit (seam : Fin 10) (crcOk : Bool) (bytes : Nat)
  /-- HUB_SEAM_LOSS (R14). -/
  | hubSeamLoss (die : Fin 6)
  /-- SLICE_RETIREMENT (R22). -/
  | sliceRetirement (slice : Fin 576)
  /-- CXL_PORT_LOSS (R34). -/
  | cxlPortLoss (port : Fin 4)
  /-- ATS_INVALIDATION_REQUEST (R190). -/
  | atsInvalidationRequest (pasid : BitVec 20) (va size : Nat)
  /-- INVALIDATION_LOG_APPLY (R190). -/
  | invalidationLogApply (die : Fin 6)
  /-- TIRSOL_FLIT_RECEIVE (R36). -/
  | tirsolFlitReceive (port : Fin 12) (flit : Sector)
  /-- RETRAIN_END (R37). -/
  | retrainEnd (port : Fin 12) (ok : Bool)
  /-- LOSS_OF_SIGNAL (R37). -/
  | lossOfSignal (port : Fin 12)
  /-- TIRSOL_REQUEST_ARRIVAL (R41). -/
  | tirsolRequestArrival (port : Fin 12) (q : TReq)
  /-- TIRSOL_RESPONSE_ARRIVAL (R43). -/
  | tirsolResponseArrival (peer : BitVec 12) (seq : BitVec 24) (status : BitVec 2) (applied : Bool) (data : List Byte)
  /-- RETRANSMIT_TIMEOUT (R42). -/
  | retransmitTimeout (peer : BitVec 12) (seq : BitVec 24)
  /-- DEPENDENCE_COUNTER_WRITE (R92). -/
  | dependenceCounterWrite (grid : Nat) (i : Fin 4)
  /-- STEAL_MESSAGE (R94). -/
  | stealMessage (grid : Nat) (thief victim : Fin 6)
  /-- TEAM_PLACEMENT (R99). -/
  | teamPlacement (grid : Nat) (die : Fin 6) (places : List Place)
  /-- PREEMPTION_REQUEST (R106). -/
  | preemptionRequest (die : Fin 6) (grid : Nat)
  /-- TEAM_HALT (R263). -/
  | teamHalt (team : Nat)
  /-- TEAM_SAVE_COMPLETE (R107). -/
  | teamSaveComplete (team : Nat)
  /-- TEAM_RESUME (R108). -/
  | teamResume (team : Nat) (place : Place)
  /-- TEAM_SWAP (R110). -/
  | teamSwap (team grid : Nat)
  /-- GRID_END (R88). -/
  | gridEnd (grid : Nat)
  /-- SPOOL_ENTRY_START (R119). -/
  | spoolEntryStart (team : Nat) (gid : Fin 16)
  /-- TRAP_DELIVERY (R255). -/
  | trapDelivery (team : Nat) (gid : Fin 16)
  /-- WATCH_ENTRY_WAKE (R134). -/
  | watchEntryWake (p : Party)
  /-- SUSP_POLL (R134). -/
  | suspPoll (p : Party)
  /-- SLEEPU_WAKE (R312). -/
  | sleepuWake (p : Party)
  /-- DEMOTION_END (R310). -/
  | demotionEnd (p : Party)
  /-- MESSAGE_ARRIVAL (R136). -/
  | messageArrival (i : Nat)
  /-- SEND_STATUS_ARRIVAL (R135). -/
  | sendStatusArrival (i : Nat)
  /-- OVFQ_RAISE (R138). -/
  | ovfqRaise (team : Nat)
  /-- COALESCING_BUFFER_DRAIN (R170). -/
  | coalescingBufferDrain (core i : Nat)
  /-- ATOMIC_AT_HOME (R200). -/
  | atomicAtHome (i : Nat)
  /-- MEMORY_RESPONSE_ARRIVAL (R243). -/
  | memoryResponseArrival (p : Party) (i : Nat)
  /-- ATS_TRANSLATION_COMPLETION (R188). -/
  | atsTranslationCompletion (die : Fin 7) (t : Trans) (granted : Bool)
  /-- PAGE_RESPONSE (R192). -/
  | pageResponse (die : Fin 7) (t : Trans) (granted : Bool)
  /-- COPY_PACKET (R183). -/
  | copyPacket (core i : Nat)
  /-- COPY_COMPLETION (R184). -/
  | copyCompletion (core i : Nat)
  /-- SACQP_PROBE (R202). -/
  | sacqpProbe (i : Nat)
  /-- REACH_WALK_STEP (R208). -/
  | reachWalkStep (w : Fin 7) (i : Nat)
  /-- REACH_WALK_END (R208). -/
  | reachWalkEnd (w : Fin 7) (i : Nat)
  /-- SEQUENCER_COMMAND_START (R365). -/
  | sequencerCommandStart (core : Nat)
  /-- K_STEP (R149). -/
  | kStep (core : Nat)
  /-- CB3_TABLE_ARRIVAL (R158). -/
  | cb3TableArrival (core : Nat)
  /-- AUTOMATIC_REFRESH (R160). -/
  | automaticRefresh (core : Nat) (bank : Fin 16)
  /-- RFSH_COMPLETE (R161). -/
  | rfshComplete (core : Nat)
  /-- GANG_SHARE_START (R163). -/
  | gangShareStart (core : Nat)
  /-- GANG_COMPLETION (R164). -/
  | gangCompletion (gang : Nat)
  -- scalar instructions (R274)
  /-- SADD (R293). -/
  | sadd (d a b : SNum)
  /-- SSUB (R293). -/
  | ssub (d a b : SNum)
  /-- SAND (R293). -/
  | sand (d a b : SNum)
  /-- SOR (R293). -/
  | sor (d a b : SNum)
  /-- SXOR (R293). -/
  | sxor (d a b : SNum)
  /-- SANDN (R293). -/
  | sandn (d a b : SNum)
  /-- SSHL (R293). -/
  | sshl (d a b : SNum)
  /-- SSHR (R293). -/
  | sshr (d a b : SNum)
  /-- SSRA (R293). -/
  | ssra (d a b : SNum)
  /-- SSLT (R293). -/
  | sslt (d a b : SNum)
  /-- SSLTU (R293). -/
  | ssltu (d a b : SNum)
  /-- SMIN (R293). -/
  | smin (d a b : SNum)
  /-- SMAX (R293). -/
  | smax (d a b : SNum)
  /-- SMINU (R293). -/
  | sminu (d a b : SNum)
  /-- SMAXU (R293). -/
  | smaxu (d a b : SNum)
  /-- SMUL (R293). -/
  | smul (d a b : SNum)
  /-- SMULH (R293). -/
  | smulh (d a b : SNum)
  /-- SMULHU (R293). -/
  | smulhu (d a b : SNum)
  /-- SDIV (R294). -/
  | sdiv (d a b : SNum)
  /-- SDIVU (R294). -/
  | sdivu (d a b : SNum)
  /-- SREM (R294). -/
  | srem (d a b : SNum)
  /-- SREMU (R294). -/
  | sremu (d a b : SNum)
  /-- SPOPC (R293). -/
  | spopc (d a : SNum)
  /-- SCLZ (R293). -/
  | sclz (d a : SNum)
  /-- SCTZ (R293). -/
  | sctz (d a : SNum)
  /-- SADDI (R295). -/
  | saddi (d a : SNum) (imm : BitVec 14)
  /-- SANDI (R295). -/
  | sandi (d a : SNum) (imm : BitVec 14)
  /-- SORI (R295). -/
  | sori (d a : SNum) (imm : BitVec 14)
  /-- SXORI (R295). -/
  | sxori (d a : SNum) (imm : BitVec 14)
  /-- SSHLI (R295). -/
  | sshli (d a : SNum) (imm : BitVec 6)
  /-- SSHRI (R295). -/
  | sshri (d a : SNum) (imm : BitVec 6)
  /-- SSRAI (R295). -/
  | ssrai (d a : SNum) (imm : BitVec 6)
  /-- SLTI (R295). -/
  | slti (d a : SNum) (imm : BitVec 14)
  /-- SLTIU (R295). -/
  | sltiu (d a : SNum) (imm : BitVec 14)
  /-- SLUI (R296). -/
  | slui (d : SNum) (imm : BitVec 20)
  /-- SADDPC (R296). -/
  | saddpc (d : SNum) (imm : BitVec 20)
  /-- SBR (R297). -/
  | sbr (cnd : BitVec 3) (a b : SNum) (off : BitVec 11)
  /-- SJ (R298). -/
  | sj (off : BitVec 26)
  /-- SJL (R298). -/
  | sjl (off : BitVec 26)
  /-- SJR (R298). -/
  | sjr (d a : SNum)
  /-- SLD (R299). -/
  | sld (t base : SNum) (sz : BitVec 2) (off : BitVec 10)
  /-- SLDS (R302). -/
  | slds (t base : SNum) (sz : BitVec 2) (off : BitVec 10)
  /-- SST (R301). -/
  | sst (t base : SNum) (sz : BitVec 2) (off : BitVec 10)
  /-- SLDA (R300). -/
  | slda (t base : SNum) (sz sc : BitVec 2) (off : BitVec 10)
  /-- SSTL (R300). -/
  | sstl (t base : SNum) (sz sc : BitVec 2) (off : BitVec 10)
  /-- SATOM (R303). -/
  | satom (d a b : SNum) (op : BitVec 4) (ord sc : BitVec 2)
  /-- SFENCE (R304). -/
  | sfence (kind : BitVec 2) (lanes : Bool) (sc : BitVec 2)
  /-- SACQP (R305). -/
  | sacqp (d a b : SNum) (sc : BitVec 2)
  /-- LRUN (R306). -/
  | lrun (a b : SNum)
  /-- SETFMT (R308). -/
  | setfmt (a : SNum)
  /-- SETALW (R309). -/
  | setalw (a : SNum)
  /-- PAUSE (R310). -/
  | pause (n : BitVec 20)
  /-- SUSP (R311). -/
  | susp (a b : SNum) (off : BitVec 11)
  /-- SLEEPU (R312). -/
  | sleepu (a : SNum)
  /-- REGATHER (R130). -/
  | regather (key : BitVec 7)
  /-- ELECT (R382). -/
  | elect (d : SNum)
  /-- SEND (R135). -/
  | send (d a : SNum)
  /-- SENDM (R138). -/
  | sendm (d a b : SNum)
  /-- RECV (R136). -/
  | recv (d a : SNum)
  /-- RPROBE (R385). -/
  | rprobe (d a : SNum)
  /-- RCANCEL (R385). -/
  | rcancel (d a : SNum)
  /-- COPY (R362). -/
  | copy (d a : SNum) (x : Bool)
  /-- COPYM (R363). -/
  | copym (d a b : SNum) (x peer : Bool)
  /-- CWAIT (R364). -/
  | cwait (a : SNum) (p : Bool)
  /-- MLOOP (R366). -/
  | mloop (a : SNum)
  /-- MGANG (R368). -/
  | mgang (a b : SNum)
  /-- MWAIT (R370). -/
  | mwait (n : BitVec 6)
  /-- MZERO (R371). -/
  | mzero (n : BitVec 6)
  /-- MOUT (R372). -/
  | mout (a : SNum)
  /-- MLDC (R373). -/
  | mldc (a : SNum)
  /-- WLOAD (R375). -/
  | wload (d a : SNum)
  /-- WDIR (R376). -/
  | wdir (a b : SNum)
  /-- ECRD (R378). -/
  | ecrd (d a : SNum)
  /-- ECCLR (R378). -/
  | ecclr (a : SNum)
  /-- PUB (R208). -/
  | pub (d a : SNum)
  /-- MKOBJ (R386). -/
  | mkobj (a : SNum)
  /-- STREF (R387). -/
  | stref (a : SNum) (rel : Bool) (sc : BitVec 2)
  /-- LDHDR (R389). -/
  | ldhdr (d a : SNum)
  /-- LAUNCH (R390). -/
  | launch (a : SNum)
  /-- JOIN (R140). -/
  | join (d a : SNum)
  /-- TRAP (R392). -/
  | trap (imm : BitVec 16)
  /-- CSRR (R393). -/
  | csrr (d : SNum) (csr : BitVec 12)
  /-- CSRW (R393). -/
  | csrw (d : SNum) (csr : BitVec 12)
  /-- CWB (R394). -/
  | cwb (a b : SNum)
  /-- ICINV (R394). -/
  | icinv (c : BitVec 6) (a b : SNum)
  -- lane words (R278)
  /-- FADD (R317). -/
  | fadd (w : LaneWord)
  /-- FSUB (R317). -/
  | fsub (w : LaneWord)
  /-- FMUL (R317). -/
  | fmul (w : LaneWord)
  /-- FFMA (R317). -/
  | ffma (w : LaneWord)
  /-- FMIN (R318). -/
  | fmin (w : LaneWord)
  /-- FMAX (R318). -/
  | fmax (w : LaneWord)
  /-- FCMP (R319). -/
  | fcmp (w : LaneWord)
  /-- FCLASS (R320). -/
  | fclass (w : LaneWord)
  /-- FRND (R321). -/
  | frnd (w : LaneWord)
  /-- FFRAC (R321). -/
  | ffrac (w : LaneWord)
  /-- FLDEXP (R317). -/
  | fldexp (w : LaneWord)
  /-- FDOT2 (R322). -/
  | fdot2 (w : LaneWord)
  /-- FDOT4 (R322). -/
  | fdot4 (w : LaneWord)
  /-- FADDI (R317). -/
  | faddi (w : LaneWord)
  /-- FMULI (R317). -/
  | fmuli (w : LaneWord)
  /-- FFMAI (R317). -/
  | ffmai (w : LaneWord)
  /-- ICMPI (R324). -/
  | icmpi (w : LaneWord)
  /-- IADDI (R323). -/
  | iaddi (w : LaneWord)
  /-- IANDI (R323). -/
  | iandi (w : LaneWord)
  /-- IORI (R323). -/
  | iori (w : LaneWord)
  /-- IXORI (R323). -/
  | ixori (w : LaneWord)
  /-- ISHLI (R323). -/
  | ishli (w : LaneWord)
  /-- ISHRI (R323). -/
  | ishri (w : LaneWord)
  /-- ISRAI (R323). -/
  | israi (w : LaneWord)
  /-- MOVI (R328). -/
  | movi (w : LaneWord)
  /-- IADD (R323). -/
  | iadd (w : LaneWord)
  /-- ISUB (R323). -/
  | isub (w : LaneWord)
  /-- IMUL (R323). -/
  | imul (w : LaneWord)
  /-- IMULH (R323). -/
  | imulh (w : LaneWord)
  /-- IMULHU (R323). -/
  | imulhu (w : LaneWord)
  /-- IMAD (R323). -/
  | imad (w : LaneWord)
  /-- IMIN (R323). -/
  | imin (w : LaneWord)
  /-- IMAX (R323). -/
  | imax (w : LaneWord)
  /-- IMINU (R323). -/
  | iminu (w : LaneWord)
  /-- IMAXU (R323). -/
  | imaxu (w : LaneWord)
  /-- AND (R323). -/
  | vand (w : LaneWord)
  /-- OR (R323). -/
  | vor (w : LaneWord)
  /-- XOR (R323). -/
  | vxor (w : LaneWord)
  /-- ANDN (R323). -/
  | vandn (w : LaneWord)
  /-- SHL (R325). -/
  | vshl (w : LaneWord)
  /-- SHR (R325). -/
  | vshr (w : LaneWord)
  /-- SRA (R325). -/
  | vsra (w : LaneWord)
  /-- POPC (R323). -/
  | popc (w : LaneWord)
  /-- CLZ (R323). -/
  | clz (w : LaneWord)
  /-- BREV (R323). -/
  | brev (w : LaneWord)
  /-- BFE (R326). -/
  | bfe (w : LaneWord)
  /-- BFI (R326). -/
  | bfi (w : LaneWord)
  /-- PRMT (R326). -/
  | prmt (w : LaneWord)
  /-- ICMP (R324). -/
  | icmp (w : LaneWord)
  /-- ICMPU (R324). -/
  | icmpu (w : LaneWord)
  /-- MOV (R328). -/
  | vmov (w : LaneWord)
  /-- SEL (R328). -/
  | vsel (w : LaneWord)
  /-- LUT (R327). -/
  | lut (w : LaneWord)
  /-- PLOP (R329). -/
  | plop (w : LaneWord)
  /-- PMOV_TO_WORD (R329). -/
  | pmovToWord (w : LaneWord)
  /-- PMOV_TO_PREDICATE (R329). -/
  | pmovToPredicate (w : LaneWord)
  /-- FRCP (R330). -/
  | frcp (w : LaneWord)
  /-- FRSQ (R330). -/
  | frsq (w : LaneWord)
  /-- FSQRT (R330). -/
  | fsqrt (w : LaneWord)
  /-- FDIV (R330). -/
  | fdiv (w : LaneWord)
  /-- FEXP2 (R330). -/
  | fexp2 (w : LaneWord)
  /-- FLOG2 (R330). -/
  | flog2 (w : LaneWord)
  /-- FSIN (R330). -/
  | fsin (w : LaneWord)
  /-- FCOS (R330). -/
  | fcos (w : LaneWord)
  /-- FTANH (R330). -/
  | ftanh (w : LaneWord)
  /-- FSIGM (R330). -/
  | fsigm (w : LaneWord)
  /-- CVTFI (R331). -/
  | cvtfi (w : LaneWord)
  /-- CVTIF (R332). -/
  | cvtif (w : LaneWord)
  /-- CVTFF (R332). -/
  | cvtff (w : LaneWord)
  /-- QBLK (R333). -/
  | qblk (w : LaneWord)
  /-- SCALEBLK (R334). -/
  | scaleblk (w : LaneWord)
  /-- VOTE (R350). -/
  | vote (w : LaneWord)
  /-- MATCH (R351). -/
  | vmatch (w : LaneWord)
  /-- REDUCE (R352). -/
  | vreduce (w : LaneWord)
  /-- SCAN (R352). -/
  | vscan (w : LaneWord)
  /-- LID (R353). -/
  | lid (w : LaneWord)
  /-- LSLOT (R354). -/
  | lslot (w : LaneWord)
  /-- PLEAT (R355). -/
  | pleat (w : LaneWord)
  /-- BND (R335). -/
  | bnd (w : LaneWord)
  /-- SETB (R335). -/
  | setb (w : LaneWord)
  /-- CLRB (R335). -/
  | clrb (w : LaneWord)
  /-- CHKB (R336). -/
  | chkb (w : LaneWord)
  /-- EFCLR (R337). -/
  | efclr (w : LaneWord)
  /-- EFGET (R337). -/
  | efget (w : LaneWord)
  /-- EFSET (R337). -/
  | efset (w : LaneWord)
  /-- LD (R343). -/
  | vld (w : LaneWord)
  /-- LDX (R343). -/
  | ldx (w : LaneWord)
  /-- ST (R344). -/
  | vst (w : LaneWord)
  /-- STX (R344). -/
  | stx (w : LaneWord)
  /-- LDS (R343). -/
  | lds (w : LaneWord)
  /-- STS (R344). -/
  | sts (w : LaneWord)
  /-- ATOM (R345). -/
  | atom (w : LaneWord)
  /-- ATOMS (R345). -/
  | atoms (w : LaneWord)
  /-- ATOMAGG (R346). -/
  | atomagg (w : LaneWord)
  /-- LANE_STREF (R347). -/
  | laneStref (w : LaneWord)
  /-- TLDA (R348). -/
  | tlda (w : LaneWord)
  /-- LBR (R125). -/
  | lbr (w : LaneWord)
  /-- LJMP (R127). -/
  | ljmp (w : LaneWord)
  /-- LEND (R127). -/
  | lend (w : LaneWord)
  /-- LEXIT (R127). -/
  | lexit (w : LaneWord)
  /-- LFMT (R357). -/
  | lfmt (w : LaneWord)
  /-- LNOP (R356). -/
  | lnop (w : LaneWord)
  -- device, host, link and engine events
  /-- UNASSIGNED_OPCODE (R276). -/
  | unassignedOpcode (lane : Bool) (op : BitVec 8)
  /-- MOUT_AON_RETRY (R205). -/
  | moutAonRetry (core : Nat)
  /-- MEMORY_SCRUB (R81). -/
  | memoryScrub (pa : Nat)
  /-- CORRECTED_ERROR_REPORT (R79). -/
  | correctedErrorReport (slice : Fin 576)
  /-- FATAL_DIE_ERROR (R75). -/
  | fatalDieError (die : Fin 6)
  -- device, host, link and engine events, without operands
  /-- CONVENTIONAL_RESET (R74). -/
  | conventionalReset
  /-- FUNCTION_LEVEL_RESET (R74). -/
  | functionLevelReset
  /-- WARM_START_REQUEST (R74). -/
  | warmStartRequest
  /-- COLD_START_REQUEST (R74). -/
  | coldStartRequest
  /-- START_TIMEOUT (R75). -/
  | startTimeout
  /-- FEATURE_COMMIT (R63). -/
  | featureCommit
  /-- MDCFG_WRITE (R182). -/
  | mdcfgWrite
  /-- MDRGN_WRITE (R182). -/
  | mdrgnWrite
  /-- ERQ_BASE_WRITE (R80). -/
  | erqBaseWrite
  /-- ERQ_SIZE_WRITE (R80). -/
  | erqSizeWrite
  /-- ERDROP_READ (R51). -/
  | erdropRead
  /-- ATT_REQ (R71). -/
  | attReq
  /-- ATTESTATION_REPORT_WRITTEN (R71). -/
  | attestationReportWritten
  /-- MBOX_EXT (R72). -/
  | mboxExt
  /-- MBOX_EXTENSION_MADE (R72). -/
  | mboxExtensionMade
  /-- FWREQ_DEVICE_NUMBER (R73). -/
  | fwreqDeviceNumber
  /-- FWREQ_PORT_SET (R73). -/
  | fwreqPortSet
  /-- FWREQ_PARTITION_ENTRY (R73). -/
  | fwreqPartitionEntry
  /-- FWREQ_TENANT_BUDGET (R95). -/
  | fwreqTenantBudget
  /-- FWREQ_PORT_RETRAIN (R73). -/
  | fwreqPortRetrain
  /-- FWREQ_SLICE_THRESHOLD (R22). -/
  | fwreqSliceThreshold
  /-- CTX_ENABLE (R53). -/
  | ctxEnable
  /-- CTX_KILL (R54). -/
  | ctxKill
  /-- STREAM_START (R55). -/
  | streamStart
  /-- DOORBELL (R60). -/
  | doorbell
  /-- REGISTER_WRITE (R51). -/
  | registerWrite
  /-- MGMT_WATCHDOG_MISS (R67). -/
  | mgmtWatchdogMiss
  /-- MGMT_RESTART_COMPLETE (R67). -/
  | mgmtRestartComplete
  /-- DEVICE_STOP (R412). -/
  | deviceStop
  /-- POWER_LIMIT_WRITE (R28). -/
  | powerLimitWrite
  /-- THROT_N_ASSERT (R28). -/
  | throtNAssert
  /-- THROT_N_RELEASE (R28). -/
  | throtNRelease
  /-- COOLANT_EXCURSION (R29). -/
  | coolantExcursion
  /-- THERMAL_SHUTDOWN (R29). -/
  | thermalShutdown
  /-- HOST_PORT_LOSS (R34). -/
  | hostPortLoss
  /-- CXL_MEM_HOST_WRITE (R33). -/
  | cxlMemHostWrite
  /-- CXL_MEM_HOST_READ (R65). -/
  | cxlMemHostRead
  /-- WATCHED_LINE_INVALIDATION (R59). -/
  | watchedLineInvalidation
  /-- REMAINING_COUNT_REPORT (R94). -/
  | remainingCountReport
  -- scalar instructions (R274), without operands
  /-- LDRAIN (R307). -/
  | ldrain
  /-- BAR (R379). -/
  | bar
  /-- CBAR (R380). -/
  | cbar
  /-- CBAR_L (R380). -/
  | cbarL
  /-- MREADY (R369). -/
  | mready
  /-- MREADY_GANG (R369). -/
  | mreadyGang
  /-- MWAIT_ALL (R370). -/
  | mwaitAll
  /-- RFSH (R161). -/
  | rfsh
  /-- NOP (R392). -/
  | nop
  /-- RFT (R260). -/
  | rft
  /-- IFENCE (R394). -/
  | ifence
  /-- GEND (R141). -/
  | gend
deriving DecidableEq, Repr

end Sys2Proof
end

