-- ==== Sys2Proof/Machine/Shape.lean ====
section
/-! DEFINITION. The fields of every instruction: which operand positions and which of clamp, scale, nar and
rnd a lane opcode uses (R278-R288 and the tables of 14 and 15), which values of its fields an encoding may
have whatever the state (R274-R277, R279, R282, R360), and the feature it needs (R62, Table 16-1).
What depends on the state (formats, register counts, declared destinations) is in `Machine/Operands.lean`. -/

namespace Sys2Proof

/-- The 21 bits of a source field (Table 12-10). -/
def Src.bits (x : Src) : BitVec 21 :=
  x.arg ++ x.route ++ x.sub ++ BitVec.ofBool x.fe ++ BitVec.ofBool x.abs ++ BitVec.ofBool x.neg ++ x.reg

/-- The source field with the given 21 bits (Table 12-10). -/
def Src.ofBits (b : BitVec 21) : Src where
  reg := b.extractLsb' 0 7
  neg := b.getLsbD 7
  abs := b.getLsbD 8
  fe := b.getLsbD 9
  sub := b.extractLsb' 10 3
  route := b.extractLsb' 13 3
  arg := b.extractLsb' 16 5

/-- Class of a lane word (Table 12-14): the A pipe, the B pipe, memory, control. -/
inductive LaneClass where
  | a | b | m | c
deriving DecidableEq, Repr

/-- Domain of a source position (Table 14-1); `raw` positions hold what the opcode's own rule says. -/
inductive SrcUse where
  | none | float | int | bits | pred | raw
deriving DecidableEq, Repr

/-- What the dst field names: a vector register or declared scalar, a predicate, nothing, or what the opcode's own rule says. -/
inductive DstUse where
  | vec | pred | none | raw
deriving DecidableEq, Repr

/-- How an opcode uses clamp, scale, nar and rnd (R279, R282, R315, R316 and its own rule). -/
inductive ResUse where
  /-- float result, every rounding mode -/
  | float
  /-- float result, modes 0 to 4 (R321) -/
  | plain
  /-- integer result, clamp 0 or 1 (R316) -/
  | int
  /-- integer result rounded from a float (R331) -/
  | toInt
  /-- QBLK (R333) -/
  | block
  /-- all four unused -/
  | bits
  /-- condition in rnd, 0 to 7 (R319) -/
  | cond
  /-- condition in rnd, 0 to 5 (R324) -/
  | icond
  /-- an 8-bit table in [31:24] (R327, R329) -/
  | table
  /-- a mode in rnd, checked by the opcode's own rule; the rest unused -/
  | mode
  /-- REDUCE and SCAN (R352) -/
  | fold
  /-- memory words: hint, scope, ord and aop (R287) -/
  | mem
deriving DecidableEq, Repr

/-- A row of the lane opcode map (Table 12-14) with its operand domains. -/
structure LaneRow where
  op : BitVec 8
  cls : LaneClass
  a : SrcUse
  b : SrcUse
  c : SrcUse
  dst : DstUse
  res : ResUse
deriving DecidableEq, Repr

/-- The row of a lane instruction, with its word (Tables 12-14, 14-2, 14-3, 15-1, 15-7). -/
def laneRow (i : Instr) : Option (LaneRow × LaneWord) :=
  match i with
  | .fadd w => some (⟨0x00, .a, .float, .float, .none, .vec, .float⟩, w)
  | .fsub w => some (⟨0x01, .a, .float, .float, .none, .vec, .float⟩, w)
  | .fmul w => some (⟨0x02, .a, .float, .float, .none, .vec, .float⟩, w)
  | .ffma w => some (⟨0x03, .a, .float, .float, .float, .vec, .float⟩, w)
  | .fmin w => some (⟨0x04, .a, .float, .float, .none, .vec, .float⟩, w)
  | .fmax w => some (⟨0x05, .a, .float, .float, .none, .vec, .float⟩, w)
  | .fcmp w => some (⟨0x06, .a, .float, .float, .none, .pred, .cond⟩, w)
  | .fclass w => some (⟨0x07, .a, .float, .none, .none, .vec, .bits⟩, w)
  | .frnd w => some (⟨0x08, .a, .float, .none, .none, .vec, .plain⟩, w)
  | .ffrac w => some (⟨0x09, .a, .float, .none, .none, .vec, .plain⟩, w)
  | .fldexp w => some (⟨0x0A, .a, .float, .int, .none, .vec, .float⟩, w)
  | .fdot2 w => some (⟨0x0B, .a, .float, .float, .float, .vec, .float⟩, w)
  | .fdot4 w => some (⟨0x0C, .a, .float, .float, .float, .vec, .float⟩, w)
  | .faddi w => some (⟨0x10, .a, .float, .none, .raw, .vec, .float⟩, w)
  | .fmuli w => some (⟨0x11, .a, .float, .none, .raw, .vec, .float⟩, w)
  | .ffmai w => some (⟨0x12, .a, .float, .float, .raw, .vec, .float⟩, w)
  | .icmpi w => some (⟨0x14, .b, .int, .none, .raw, .pred, .icond⟩, w)
  | .iaddi w => some (⟨0x18, .b, .int, .none, .raw, .vec, .int⟩, w)
  | .iandi w => some (⟨0x19, .b, .bits, .none, .raw, .vec, .bits⟩, w)
  | .iori w => some (⟨0x1A, .b, .bits, .none, .raw, .vec, .bits⟩, w)
  | .ixori w => some (⟨0x1B, .b, .bits, .none, .raw, .vec, .bits⟩, w)
  | .ishli w => some (⟨0x1C, .b, .bits, .none, .raw, .vec, .bits⟩, w)
  | .ishri w => some (⟨0x1D, .b, .bits, .none, .raw, .vec, .bits⟩, w)
  | .israi w => some (⟨0x1E, .b, .bits, .none, .raw, .vec, .bits⟩, w)
  | .movi w => some (⟨0x1F, .b, .none, .raw, .raw, .vec, .bits⟩, w)
  | .iadd w => some (⟨0x40, .b, .int, .int, .none, .vec, .int⟩, w)
  | .isub w => some (⟨0x41, .b, .int, .int, .none, .vec, .int⟩, w)
  | .imul w => some (⟨0x42, .a, .int, .int, .none, .vec, .int⟩, w)
  | .imulh w => some (⟨0x43, .a, .bits, .bits, .none, .vec, .bits⟩, w)
  | .imulhu w => some (⟨0x44, .a, .bits, .bits, .none, .vec, .bits⟩, w)
  | .imad w => some (⟨0x45, .a, .int, .int, .int, .vec, .int⟩, w)
  | .imin w => some (⟨0x46, .b, .int, .int, .none, .vec, .int⟩, w)
  | .imax w => some (⟨0x47, .b, .int, .int, .none, .vec, .int⟩, w)
  | .iminu w => some (⟨0x48, .b, .bits, .bits, .none, .vec, .bits⟩, w)
  | .imaxu w => some (⟨0x49, .b, .bits, .bits, .none, .vec, .bits⟩, w)
  | .vand w => some (⟨0x50, .b, .bits, .bits, .none, .vec, .bits⟩, w)
  | .vor w => some (⟨0x51, .b, .bits, .bits, .none, .vec, .bits⟩, w)
  | .vxor w => some (⟨0x52, .b, .bits, .bits, .none, .vec, .bits⟩, w)
  | .vandn w => some (⟨0x53, .b, .bits, .bits, .none, .vec, .bits⟩, w)
  | .vshl w => some (⟨0x54, .b, .bits, .bits, .none, .vec, .bits⟩, w)
  | .vshr w => some (⟨0x55, .b, .bits, .bits, .none, .vec, .bits⟩, w)
  | .vsra w => some (⟨0x56, .b, .bits, .bits, .none, .vec, .bits⟩, w)
  | .popc w => some (⟨0x57, .b, .bits, .none, .none, .vec, .bits⟩, w)
  | .clz w => some (⟨0x58, .b, .bits, .none, .none, .vec, .bits⟩, w)
  | .brev w => some (⟨0x59, .b, .bits, .none, .none, .vec, .bits⟩, w)
  | .bfe w => some (⟨0x5A, .b, .bits, .bits, .none, .vec, .bits⟩, w)
  | .bfi w => some (⟨0x5B, .b, .bits, .bits, .bits, .vec, .bits⟩, w)
  | .prmt w => some (⟨0x5C, .b, .bits, .bits, .bits, .vec, .bits⟩, w)
  | .icmp w => some (⟨0x5D, .b, .int, .int, .none, .pred, .icond⟩, w)
  | .icmpu w => some (⟨0x5E, .b, .bits, .bits, .none, .pred, .icond⟩, w)
  | .vmov w => some (⟨0x60, .b, .bits, .none, .none, .vec, .bits⟩, w)
  | .vsel w => some (⟨0x61, .b, .bits, .bits, .pred, .vec, .bits⟩, w)
  | .lut w => some (⟨0x62, .b, .bits, .bits, .bits, .vec, .table⟩, w)
  | .plop w => some (⟨0x63, .b, .pred, .pred, .pred, .pred, .table⟩, w)
  | .pmovToWord w => some (⟨0x64, .b, .pred, .none, .none, .vec, .mode⟩, w)
  | .pmovToPredicate w => some (⟨0x64, .b, .bits, .none, .none, .pred, .mode⟩, w)
  | .frcp w => some (⟨0x80, .b, .float, .none, .none, .vec, .float⟩, w)
  | .frsq w => some (⟨0x81, .b, .float, .none, .none, .vec, .float⟩, w)
  | .fsqrt w => some (⟨0x82, .b, .float, .none, .none, .vec, .float⟩, w)
  | .fdiv w => some (⟨0x83, .b, .float, .float, .none, .vec, .float⟩, w)
  | .fexp2 w => some (⟨0x84, .b, .float, .none, .none, .vec, .float⟩, w)
  | .flog2 w => some (⟨0x85, .b, .float, .none, .none, .vec, .float⟩, w)
  | .fsin w => some (⟨0x86, .b, .float, .none, .none, .vec, .float⟩, w)
  | .fcos w => some (⟨0x87, .b, .float, .none, .none, .vec, .float⟩, w)
  | .ftanh w => some (⟨0x88, .b, .float, .none, .none, .vec, .float⟩, w)
  | .fsigm w => some (⟨0x89, .b, .float, .none, .none, .vec, .float⟩, w)
  | .cvtfi w => some (⟨0x90, .b, .float, .none, .none, .vec, .toInt⟩, w)
  | .cvtif w => some (⟨0x91, .b, .int, .none, .none, .vec, .float⟩, w)
  | .cvtff w => some (⟨0x92, .b, .float, .none, .none, .vec, .float⟩, w)
  | .qblk w => some (⟨0x93, .b, .float, .none, .none, .vec, .block⟩, w)
  | .scaleblk w => some (⟨0x94, .b, .float, .bits, .none, .vec, .float⟩, w)
  | .vote w => some (⟨0xA0, .b, .pred, .none, .none, .raw, .mode⟩, w)
  | .vmatch w => some (⟨0xA1, .b, .bits, .none, .none, .vec, .mode⟩, w)
  | .vreduce w => some (⟨0xA2, .b, .raw, .none, .raw, .vec, .fold⟩, w)
  | .vscan w => some (⟨0xA3, .b, .raw, .none, .raw, .vec, .fold⟩, w)
  | .lid w => some (⟨0xA4, .b, .none, .none, .none, .vec, .mode⟩, w)
  | .lslot w => some (⟨0xA5, .b, .bits, .none, .none, .vec, .bits⟩, w)
  | .pleat w => some (⟨0xA6, .b, .none, .none, .raw, .raw, .bits⟩, w)
  | .bnd w => some (⟨0xB0, .b, .bits, .none, .none, .vec, .bits⟩, w)
  | .setb w => some (⟨0xB1, .b, .bits, .float, .none, .vec, .bits⟩, w)
  | .clrb w => some (⟨0xB2, .b, .bits, .none, .none, .vec, .bits⟩, w)
  | .chkb w => some (⟨0xB3, .b, .bits, .none, .none, .vec, .bits⟩, w)
  | .efclr w => some (⟨0xB8, .b, .none, .none, .none, .raw, .bits⟩, w)
  | .efget w => some (⟨0xB9, .b, .raw, .none, .none, .vec, .bits⟩, w)
  | .efset w => some (⟨0xBA, .b, .float, .none, .none, .raw, .bits⟩, w)
  | .vld w => some (⟨0xC0, .m, .bits, .none, .raw, .vec, .mem⟩, w)
  | .ldx w => some (⟨0xC1, .m, .bits, .none, .raw, .vec, .mem⟩, w)
  | .vst w => some (⟨0xC2, .m, .bits, .bits, .raw, .none, .mem⟩, w)
  | .stx w => some (⟨0xC3, .m, .bits, .bits, .raw, .none, .mem⟩, w)
  | .lds w => some (⟨0xC4, .m, .bits, .none, .raw, .vec, .mem⟩, w)
  | .sts w => some (⟨0xC5, .m, .bits, .bits, .raw, .none, .mem⟩, w)
  | .atom w => some (⟨0xC6, .m, .bits, .bits, .raw, .vec, .mem⟩, w)
  | .atoms w => some (⟨0xC7, .m, .bits, .bits, .raw, .vec, .mem⟩, w)
  | .atomagg w => some (⟨0xC8, .m, .bits, .bits, .raw, .vec, .mem⟩, w)
  | .laneStref w => some (⟨0xC9, .m, .bits, .bits, .raw, .raw, .mem⟩, w)
  | .tlda w => some (⟨0xCA, .m, .bits, .raw, .raw, .vec, .mem⟩, w)
  | .lbr w => some (⟨0xE0, .c, .none, .raw, .raw, .none, .bits⟩, w)
  | .ljmp w => some (⟨0xE1, .c, .none, .raw, .none, .none, .bits⟩, w)
  | .lend w => some (⟨0xE2, .c, .none, .none, .none, .none, .bits⟩, w)
  | .lexit w => some (⟨0xE3, .c, .none, .none, .none, .none, .bits⟩, w)
  | .lfmt w => some (⟨0xE4, .c, .raw, .none, .none, .none, .bits⟩, w)
  | .lnop w => some (⟨0xE5, .c, .none, .none, .none, .none, .bits⟩, w)
  | _ => none

/-! ### Fields of the memory and control formats (R287, R288) -/

/-- imm21 of an immediate form (R286). -/
def LaneWord.imm21 (w : LaneWord) : BitVec 21 := w.c.bits
/-- hint (Table 12-13). -/
def LaneWord.hint (w : LaneWord) : BitVec 2 := w.clamp
/-- scope of a memory word (Table 12-13). -/
def LaneWord.scope (w : LaneWord) : BitVec 2 := w.scale.extractLsb' 0 2
/-- ord of a memory word (Table 12-13). -/
def LaneWord.ordBit (w : LaneWord) : Bool := w.scale.getLsbD 2
/-- aop, word bits [32:27] (Table 12-13). -/
def LaneWord.aop (w : LaneWord) : BitVec 6 := w.rnd ++ w.nar
/-- Operation of an atomic, aop [30:27] of the word. -/
def LaneWord.atomOp (w : LaneWord) : BitVec 4 := w.aop.extractLsb' 0 4
/-- Order of an atomic, [32:31] of the word. -/
def LaneWord.atomOrd (w : LaneWord) : BitVec 2 := w.aop.extractLsb' 4 2
def LaneWord.kb (w : LaneWord) : BitVec 4 := w.c.bits.extractLsb' 0 4
def LaneWord.osc (w : LaneWord) : BitVec 2 := w.c.bits.extractLsb' 4 2
def LaneWord.imm12 (w : LaneWord) : BitVec 12 := w.c.bits.extractLsb' 6 12
def LaneWord.width (w : LaneWord) : BitVec 3 := w.c.bits.extractLsb' 18 3
/-- The 8-bit table of LUT and PLOP, word bits [31:24] (R327). -/
def LaneWord.table (w : LaneWord) : BitVec 8 := w.rnd.extractLsb' 0 2 ++ w.nar ++ w.scale
/-- Target word of LBR and LJMP (R288). -/
def LaneWord.target (w : LaneWord) : BitVec 16 := w.b.bits.extractLsb' 0 16
/-- Reconvergence word of LBR (R288). -/
def LaneWord.reconv (w : LaneWord) : BitVec 16 := w.c.bits.extractLsb' 0 16
/-- The predicate named by dst[17:15] (R282). -/
def LaneWord.pdst (w : LaneWord) : BitVec 3 := w.dst.extractLsb' 0 3

/-! ### Static checks of a lane word (rank 1 of Table 11-3 whatever the state) -/

/-- A k source has no sub element, route or argument (R280). -/
def Src.kOk (x : Src) : Bool := x.reg.toNat < 112 || (x.sub == 0 && x.route == 0 && x.arg == 0)

/-- A source field agrees with its position's domain (R279, R280, R283, Table 14-1). -/
def srcOk (u : SrcUse) (x : Src) : Bool :=
  match u with
  | .none => x.bits == 0
  | .float | .int => x.kOk && x.route != 7
  | .bits => x.kOk && x.route != 7 && !x.neg && !x.abs && x.sub == 0
  | .pred => x.reg.toNat < 8 && !x.neg && !x.abs && !x.fe && x.sub == 0 && x.route != 7
  | .raw => true

/-- The dst field agrees with its use (R279, R282). -/
def dstOk (u : DstUse) (w : LaneWord) : Bool :=
  match u with
  | .vec | .raw => true
  | .pred => w.dst.toNat < 7
  | .none => w.dst == 0

/-- clamp, scale, nar and rnd agree with their use (R279, R282, R315, R316). -/
def resOk (u : ResUse) (w : LaneWord) : Bool :=
  match u with
  | .float => w.rnd.toNat ≤ 5
  | .plain => w.rnd.toNat ≤ 4
  | .int => w.rnd == 0 && w.scale == 0 && w.clamp.toNat ≤ 1
  | .toInt => w.rnd.toNat ≤ 4 && w.scale == 0 && w.clamp.toNat ≤ 1
  | .block => w.rnd.toNat ≤ 5 && w.scale == 0 && w.nar == 0 && w.gsel == 0
  | .bits => w.rnd == 0 && w.scale == 0 && w.nar == 0 && w.clamp == 0
  | .cond => w.scale == 0 && w.nar == 0 && w.clamp == 0
  | .icond => w.rnd.toNat ≤ 5 && w.scale == 0 && w.nar == 0 && w.clamp == 0
  | .table => !w.rnd.getLsbD 2 && w.clamp == 0
  | .mode => w.scale == 0 && w.nar == 0 && w.clamp == 0
  | .fold => w.scale == 0 && w.clamp == 0
  | .mem => true

/-- The domain in which REDUCE and SCAN read A, by operation (Table 15-6). -/
def foldUse (op : BitVec 4) : SrcUse :=
  if op.toNat ≤ 2 then .float else if op.toNat ≤ 5 then .int else .bits

/-- REDUCE and SCAN (R352): operation, flag, and the fields its result uses. -/
def foldOk (scan : Bool) (w : LaneWord) : Bool :=
  let op := w.c.bits.extractLsb' 0 4
  op.toNat ≤ 10 && (scan || !w.c.bits.getLsbD 4) && w.c.bits.extractLsb' 5 16 == 0 && srcOk (foldUse op) w.a &&
    (if op.toNat ≤ 2 then decide (w.rnd.toNat ≤ 4) else w.rnd == 0) && (op.toNat ≤ 5 || w.nar == 0)

/-- ord 0 has no scope (Table 12-13). -/
def ordOk (w : LaneWord) : Bool := w.ordBit || w.scope == 0

/-- The destination registers of a w2 or w4 load (R287, R339). -/
def wideOk (width : BitVec 3) (reg : BitVec 7) : Bool :=
  (width != 5 || reg.toNat % 2 == 0) && (width != 6 || reg.toNat % 4 == 0)

/-- A load or store (R287, R339): `pair` for LDX and STX, `scratch` for LDS and STS. -/
def memOk (store pair scratch : Bool) (w : LaneWord) : Bool :=
  w.width != 7 && w.aop == 0 && ordOk w && (!scratch || w.hint == 0) &&
  (if pair then w.a.reg.toNat % 2 == 0 && w.kb == 0 && w.osc == 0 else scratch || w.kb.toNat % 2 == 0) &&
  (if store then w.width != 1 && w.width != 3 && wideOk w.width w.b.reg
   else wideOk w.width w.dst && (w.dst.toNat < 112 || w.width.toNat ≤ 4))

/-- An atomic (R345, R346): the highest operation, `scratch` for ATOMS. -/
def atomOk (top : Nat) (scratch : Bool) (w : LaneWord) : Bool :=
  w.width == 4 && !w.ordBit && w.atomOp.toNat ≤ top && (!scratch || w.hint == 0) &&
  (scratch || w.kb.toNat % 2 == 0) && (w.atomOp != 9 || w.b.reg.toNat % 2 == 0)

/-- The checks that an opcode's own rule adds. -/
def ownOk (i : Instr) : Bool :=
  match i with
  | .fdot2 w => w.a.sub == 0 && w.b.sub == 0
  | .fdot4 w => (w.a.sub == 0 || w.a.sub == 4) && (w.b.sub == 0 || w.b.sub == 4)
  | .faddi w | .fmuli w | .ffmai w => w.imm21.extractLsb' 16 5 == 0
  | .ishli w | .ishri w | .israi w => w.imm21.extractLsb' 5 16 == 0
  | .movi w => w.b.bits.extractLsb' 11 10 == 0
  | .pmovToWord w => w.rnd == 0
  | .pmovToPredicate w => w.rnd == 1
  | .vote w => w.rnd.toNat ≤ 3 && (w.rnd == 3 || w.dst.toNat < 7)
  | .vmatch w => w.rnd.toNat ≤ 2
  | .lid w => w.rnd.toNat ≤ 4
  | .vreduce w => foldOk false w
  | .vscan w => foldOk true w
  | .pleat w => w.dst.toNat < 4 && w.dst != 0 && w.c.bits.extractLsb' 2 19 == 0 && w.pred == 7 && !w.pneg
  | .efclr w | .efset w => w.dst.toNat < 8
  | .efget w => w.a.bits.toNat < 8
  | .vld w => memOk false false false w
  | .ldx w => memOk false true false w
  | .lds w => memOk false false true w
  | .vst w => memOk true false false w
  | .stx w => memOk true true false w
  | .sts w => memOk true false true w
  | .atom w => atomOk 10 false w
  | .atoms w => atomOk 10 true w
  | .atomagg w => atomOk 7 false w
  | .laneStref w => w.aop == 0 && w.hint == 0 && ordOk w && w.a.reg.toNat % 2 == 0 && w.b.reg.toNat % 2 == 0 &&
      (w.dst.toNat < 112 || w.dst == 127) && w.c.bits.extractLsb' 0 6 == 0 && w.c.bits.extractLsb' 18 3 == 0
  | .tlda w => w.aop == 0 && w.ordBit && w.b.bits.toNat < 7 && w.kb.toNat % 2 == 0 && 4 ≤ w.width.toNat && w.width != 7 &&
      wideOk w.width w.dst && (w.dst.toNat < 112 || w.width == 4)
  | .lbr w => w.b.bits.extractLsb' 16 5 == 0 && w.c.bits.extractLsb' 16 5 == 0 && w.gsel == 0
  | .ljmp w => w.b.bits.extractLsb' 16 5 == 0 && w.gsel == 0 && w.pred == 7
  | .lend w | .lexit w | .lnop w => w.gsel == 0 && w.pred == 7
  | .lfmt w => w.gsel == 0 && w.pred == 7 && 112 ≤ w.a.bits.toNat && w.a.bits.toNat < 128
  | _ => true

/-! ### Scalar instructions -/

/-- The control registers of Table 16-9. -/
def csrListed (r : BitVec 12) : Bool :=
  [0x000, 0x001, 0x002, 0x003, 0x004, 0x005, 0x006, 0x010, 0x011, 0x012, 0x013, 0x014, 0x015, 0x020, 0x021, 0x022,
    0x023, 0x030, 0x031, 0x032, 0x033].contains r.toNat

/-- Read-only control registers of Table 16-9. -/
def csrReadOnly (r : BitVec 12) : Bool :=
  [0x000, 0x001, 0x002, 0x003, 0x004, 0x005, 0x006, 0x023, 0x030].contains r.toNat

/-- A parameter block of n registers from s(a) ends at or before s63 (R360). -/
def blockFits (a : SNum) (n : Nat) : Bool := a.val + n ≤ 64

/-- The field values a scalar encoding may have (R275, R276, R277, R359, R360, R378). -/
def scalarOk (i : Instr) : Bool :=
  match i with
  | .sbr cnd _ _ _ => cnd != 7
  | .satom _ _ b op _ _ => op.toNat ≤ 12 && ((op != 9 && op != 12) || (b.val % 2 == 0 && b.val != 62))
  | .sfence kind _ _ => kind != 3
  | .sacqp _ _ _ sc => sc != 0
  | .pause n => n.toNat ≤ 16383
  | .regather key => key.toNat < 112
  | .recv _ a => blockFits a 2
  | .copy _ a x => blockFits a (if x then 6 else 5)
  | .copym _ a _ x _ => blockFits a (if x then 6 else 5)
  | .cwait a p => p || a == 0
  | .mloop a => blockFits a 6
  | .mgang a _ => blockFits a 7
  | .mwait n | .mzero n => n.toNat ≤ 15
  | .mout a => blockFits a 3
  | .wload _ a => blockFits a 3
  | .ecrd d _ => d.val % 2 == 0
  | .pub _ a => blockFits a 4
  | .mkobj a => blockFits a 2
  | .stref a rel sc => blockFits a 3 && (rel || sc == 0)
  | .join _ a => blockFits a 3
  | .csrr _ r => csrListed r
  | .csrw _ r => csrListed r
  | .icinv c _ _ => c.toNat ≤ 2
  | _ => true

/-- An opcode that Table 12-6, or Table 12-14 for a lane word, leaves unassigned, or one whose fn selects no instruction (R276, R290). -/
def unassignedOk (lane : Bool) (op : BitVec 8) : Bool :=
  if lane then
    !(op.toNat ≤ 0x0C || (0x10 ≤ op.toNat && op.toNat ≤ 0x12) || op == 0x14 || (0x18 ≤ op.toNat && op.toNat ≤ 0x1F) ||
      (0x40 ≤ op.toNat && op.toNat ≤ 0x49) || (0x50 ≤ op.toNat && op.toNat ≤ 0x5E) || (0x60 ≤ op.toNat && op.toNat ≤ 0x64) ||
      (0x80 ≤ op.toNat && op.toNat ≤ 0x89) || (0x90 ≤ op.toNat && op.toNat ≤ 0x94) || (0xA0 ≤ op.toNat && op.toNat ≤ 0xA6) ||
      (0xB0 ≤ op.toNat && op.toNat ≤ 0xB3) || (0xB8 ≤ op.toNat && op.toNat ≤ 0xBA) || (0xC0 ≤ op.toNat && op.toNat ≤ 0xCA) ||
      (0xE0 ≤ op.toNat && op.toNat ≤ 0xE5))
  else
    [0x00, 0x0C, 0x0D, 0x0E, 0x0F, 0x14, 0x15, 0x16, 0x17, 0x27, 0x2F, 0x3A, 0x3B, 0x3C, 0x3D, 0x3E, 0x3F].contains op.toNat

/-- No field of the instruction breaks a rule that holds whatever the state (rank 1 of Table 11-3, ILLFLD). Events have no encoding. -/
def fieldsOk (i : Instr) : Bool :=
  match i with
  | .unassignedOpcode lane op => unassignedOk lane op
  | _ =>
    match laneRow i with
    | some (r, w) =>
      !(w.pred == 7 && w.pneg) && srcOk r.a w.a && srcOk r.b w.b && srcOk r.c w.c && dstOk r.dst w && resOk r.res w && ownOk i
    | none => scalarOk i

/-! ### Features (R62 Table 3-8, R10) -/

/-- The feature bit an instruction needs, whatever its operands hold. -/
def featureOf (i : Instr) : Option Nat :=
  match i with
  | .mkobj _ | .stref _ _ _ | .pub _ _ | .ldhdr _ _ | .laneStref _ => some 0
  | .regather _ | .lslot _ => some 1
  | .mgang _ _ | .mreadyGang => some 4
  | .cbarL => some 5
  | .susp _ _ _ => some 6
  | .efclr _ | .efget _ | .efset _ => some 7
  | .wload _ _ | .wdir _ _ | .rfsh => some 8
  | .tlda _ => some 9
  | .copym _ _ _ _ true => some 10
  | .ecrd _ _ | .ecclr _ => some 11
  | _ =>
    match laneRow i with
    | some (r, w) => if (r.res == .float) && w.rnd == 5 then some 7 else none
    | none => none

end Sys2Proof
end

