-- ==== Sys2Proof/WellFormed.lean ====
section
/-! DEFINITION. Well-formed instructions: the terms whose encoding raises no ILLFLD whatever the state
(rank 1 of Table 11-3; R275-R277, R279, R282, R287, R288, R360). The rules are in `Machine/Shape.lean`. -/

namespace Sys2Proof

/-- No field of the instruction breaks a rule that holds in every state. -/
abbrev WellFormed (i : Instr) : Prop := fieldsOk i = true

end Sys2Proof
end

