-- ==== Sys2Proof/Decode.lean ====
section
/-! DEFINITION. Decoding of a scalar word (R274-R277, Tables 12-5 to 12-8, 16-1) and of a lane word (R278,
Tables 12-9, 12-10, 12-14), the encoder written from the same tables, and the byte-order and bit-field
helpers they use. Decoding is total: an opcode the tables leave unassigned is `Instr.unassignedOpcode`, and a
word whose unused or reserved bits are not zero, or whose field is out of range, is rejected as `illField`. -/

namespace Sys2Proof

/-- What a word decodes to: an instruction, or an instruction whose encoding raises ILLFLD (R275, R279). -/
inductive Decoded where
  | ok (i : Instr)
  | illField (i : Instr)
deriving DecidableEq, Repr

/-- Little-endian value of a list of bytes, the first the lowest (R5). -/
def leBytes : List Byte → Nat
  | [] => 0
  | b :: bs => b.toNat + 256 * leBytes bs

/-- The n little-endian bytes of a number (R5). -/
def bytesLE (n : Nat) (v : Nat) : List Byte :=
  (List.range n).map fun i => BitVec.ofNat 8 (v >>> (8 * i))

/-! ### Scalar words (Table 12-5) -/

/-- Field [25:20] as a register. -/
def fd (w : BitVec 32) : SNum := (w.extractLsb' 20 6).toFin
/-- Field [19:14] as a register. -/
def fa (w : BitVec 32) : SNum := (w.extractLsb' 14 6).toFin
/-- Field [13:8] as a register. -/
def fb (w : BitVec 32) : SNum := (w.extractLsb' 8 6).toFin
/-- Field [7:0]. -/
def fn (w : BitVec 32) : BitVec 8 := w.extractLsb' 0 8
/-- Field [31:26]. -/
def fop (w : BitVec 32) : BitVec 6 := w.extractLsb' 26 6

/-- SALU by fn (Table 12-7): the instruction and the bits it leaves unused. -/
def decodeSalu (w : BitVec 32) : Instr × BitVec 32 :=
  match (fn w).toNat with
  | 0x00 => (.sadd (fd w) (fa w) (fb w), 0)
  | 0x01 => (.ssub (fd w) (fa w) (fb w), 0)
  | 0x02 => (.sand (fd w) (fa w) (fb w), 0)
  | 0x03 => (.sor (fd w) (fa w) (fb w), 0)
  | 0x04 => (.sxor (fd w) (fa w) (fb w), 0)
  | 0x05 => (.sandn (fd w) (fa w) (fb w), 0)
  | 0x06 => (.sshl (fd w) (fa w) (fb w), 0)
  | 0x07 => (.sshr (fd w) (fa w) (fb w), 0)
  | 0x08 => (.ssra (fd w) (fa w) (fb w), 0)
  | 0x09 => (.sslt (fd w) (fa w) (fb w), 0)
  | 0x0A => (.ssltu (fd w) (fa w) (fb w), 0)
  | 0x0B => (.smin (fd w) (fa w) (fb w), 0)
  | 0x0C => (.smax (fd w) (fa w) (fb w), 0)
  | 0x0D => (.sminu (fd w) (fa w) (fb w), 0)
  | 0x0E => (.smaxu (fd w) (fa w) (fb w), 0)
  | 0x10 => (.smul (fd w) (fa w) (fb w), 0)
  | 0x11 => (.smulh (fd w) (fa w) (fb w), 0)
  | 0x12 => (.smulhu (fd w) (fa w) (fb w), 0)
  | 0x13 => (.sdiv (fd w) (fa w) (fb w), 0)
  | 0x14 => (.sdivu (fd w) (fa w) (fb w), 0)
  | 0x15 => (.srem (fd w) (fa w) (fb w), 0)
  | 0x16 => (.sremu (fd w) (fa w) (fb w), 0)
  | 0x18 => (.spopc (fd w) (fa w), 0x00003F00)
  | 0x19 => (.sclz (fd w) (fa w), 0x00003F00)
  | 0x1A => (.sctz (fd w) (fa w), 0x00003F00)
  | _ => (.unassignedOpcode false 0x00, 0)

/-- A scalar word by op (Tables 12-6, 12-8, 16-1): the instruction its op and fn name, and the bits that instruction leaves unused. -/
def decodeScalarRaw (w : BitVec 32) : Instr × BitVec 32 :=
  match (fop w).toNat with
  | 0x00 => decodeSalu w
  | 0x01 => (.saddi (fd w) (fa w) (w.extractLsb' 0 14), 0x00000000)
  | 0x02 => (.sandi (fd w) (fa w) (w.extractLsb' 0 14), 0x00000000)
  | 0x03 => (.sori (fd w) (fa w) (w.extractLsb' 0 14), 0x00000000)
  | 0x04 => (.sxori (fd w) (fa w) (w.extractLsb' 0 14), 0x00000000)
  | 0x05 => (.sshli (fd w) (fa w) (w.extractLsb' 0 6), 0x00003FC0)
  | 0x06 => (.sshri (fd w) (fa w) (w.extractLsb' 0 6), 0x00003FC0)
  | 0x07 => (.ssrai (fd w) (fa w) (w.extractLsb' 0 6), 0x00003FC0)
  | 0x08 => (.slti (fd w) (fa w) (w.extractLsb' 0 14), 0x00000000)
  | 0x09 => (.sltiu (fd w) (fa w) (w.extractLsb' 0 14), 0x00000000)
  | 0x0A => (.slui (fd w) (w.extractLsb' 0 20), 0x00000000)
  | 0x0B => (.saddpc (fd w) (w.extractLsb' 0 20), 0x00000000)
  | 0x10 => (.sbr (w.extractLsb' 11 3) (fd w) (fa w) (w.extractLsb' 0 11), 0x00000000)
  | 0x11 => (.sj (w.extractLsb' 0 26), 0x00000000)
  | 0x12 => (.sjl (w.extractLsb' 0 26), 0x00000000)
  | 0x13 => (.sjr (fd w) (fa w), 0x00003FFF)
  | 0x18 => (.sld (fd w) (fa w) (w.extractLsb' 12 2) (w.extractLsb' 0 10), 0x00000C00)
  | 0x19 => (.slds (fd w) (fa w) (w.extractLsb' 12 2) (w.extractLsb' 0 10), 0x00000C00)
  | 0x1A => (.sst (fd w) (fa w) (w.extractLsb' 12 2) (w.extractLsb' 0 10), 0x00000C00)
  | 0x1B => (.slda (fd w) (fa w) (w.extractLsb' 12 2) (w.extractLsb' 10 2) (w.extractLsb' 0 10), 0x00000000)
  | 0x1C => (.sstl (fd w) (fa w) (w.extractLsb' 12 2) (w.extractLsb' 10 2) (w.extractLsb' 0 10), 0x00000000)
  | 0x1D => (.satom (fd w) (fa w) (fb w) (w.extractLsb' 4 4) (w.extractLsb' 2 2) (w.extractLsb' 0 2), 0x00000000)
  | 0x1E => (.sfence (w.extractLsb' 0 2) (w.getLsbD 2) (w.extractLsb' 3 2), 0x03FFFFE0)
  | 0x1F => (.sacqp (fd w) (fa w) (fb w) (w.extractLsb' 0 2), 0x000000FC)
  | 0x20 => (.lrun (fa w) (fb w), 0x03F000FF)
  | 0x21 => (.ldrain, 0x03FFFFFF)
  | 0x22 => (.setfmt (fa w), 0x03F03FFF)
  | 0x23 => (.setalw (fa w), 0x03F03FFF)
  | 0x24 => (.pause (w.extractLsb' 0 20), 0x03F00000)
  | 0x25 => (.susp (fd w) (fa w) (w.extractLsb' 0 11), 0x00003800)
  | 0x26 => (.sleepu (fa w), 0x03F03FFF)
  | 0x28 => (.bar, 0x03FFFFFF)
  | 0x29 => ((if w.getLsbD 0 then .cbarL else .cbar), 0x03FFFFFE)
  | 0x2A => (.regather (w.extractLsb' 0 7), 0x03FFFF80)
  | 0x2B => (.elect (fd w), 0x000FFFFF)
  | 0x2C => (.send (fd w) (fa w), 0x00003FFF)
  | 0x2D => (.sendm (fd w) (fa w) (fb w), 0x000000FF)
  | 0x2E => (.recv (fd w) (fa w), 0x00003FFF)
  | 0x30 => (.copy (fd w) (fa w) (w.getLsbD 4), 0x00003FEF)
  | 0x31 => (.copym (fd w) (fa w) (fb w) (w.getLsbD 4) (w.getLsbD 5), 0x000000CF)
  | 0x32 => (.cwait (fa w) (w.getLsbD 4), 0x03F03FEF)
  | 0x33 => (.mloop (fa w), 0x03F03FFF)
  | 0x34 => (.mgang (fa w) (fb w), 0x03F000FF)
  | 0x35 => ((if w.getLsbD 4 then .mreadyGang else .mready), 0x03FFFFEF)
  | 0x36 => if w.getLsbD 4 then (.mwaitAll, 0x03FFFFEF) else (.mwait (w.extractLsb' 8 6), 0x03FFC0EF)
  | 0x37 => (.mzero (w.extractLsb' 8 6), 0x03FFC0FF)
  | 0x38 => (.mout (fa w), 0x03F03FFF)
  | 0x39 => (.mldc (fa w), 0x03F03FFF)
  | 0x2F =>
    match (w.extractLsb' 0 4).toNat with
    | 0 => (.rprobe (fd w) (fa w), 0x00003FF0)
    | 1 => (.rcancel (fd w) (fa w), 0x00003FF0)
    | _ => (.unassignedOpcode false 0x2F, 0)
  | 0x3A =>
    match (w.extractLsb' 0 4).toNat with
    | 0 => (.wload (fd w) (fa w), 0x00003FF0)
    | 1 => (.wdir (fa w) (fb w), 0x03F000F0)
    | 2 => (.rfsh, 0x03FFFFF0)
    | _ => (.unassignedOpcode false 0x3A, 0)
  | 0x3B =>
    match (w.extractLsb' 0 4).toNat with
    | 0 => (.ecrd (fd w) (fa w), 0x00003FF0)
    | 1 => (.ecclr (fa w), 0x03F03FF0)
    | _ => (.unassignedOpcode false 0x3B, 0)
  | 0x3C =>
    match (w.extractLsb' 0 4).toNat with
    | 0 => (.pub (fd w) (fa w), 0x00003FF0)
    | 1 => (.mkobj (fa w), 0x03F03FF0)
    | 2 => (.stref (fa w) (w.getLsbD 4) (w.extractLsb' 5 2), 0x03F03F80)
    | 3 => (.ldhdr (fd w) (fa w), 0x00003FF0)
    | _ => (.unassignedOpcode false 0x3C, 0)
  | 0x3D =>
    match (w.extractLsb' 0 4).toNat with
    | 0 => (.launch (fa w), 0x03F03FF0)
    | 1 => (.join (fd w) (fa w), 0x00003FF0)
    | _ => (.unassignedOpcode false 0x3D, 0)
  | 0x3E =>
    match (fn w).toNat with
    | 0 => (.nop, 0x03FFFF00)
    | 1 => (.trap (w.extractLsb' 8 16), 0x03000000)
    | 2 => (.rft, 0x03FFFF00)
    | 3 => (.csrr (fd w) (w.extractLsb' 8 12), 0x00000000)
    | 4 => (.csrw (fd w) (w.extractLsb' 8 12), 0x00000000)
    | 5 => (.cwb (fa w) (fb w), 0x03F00000)
    | 6 => (.icinv (w.extractLsb' 20 6) (fa w) (fb w), 0x00000000)
    | 7 => (.ifence, 0x03FFFF00)
    | 8 => (.gend, 0x03FFFF00)
    | _ => (.unassignedOpcode false 0x3E, 0)
  | _ => (.unassignedOpcode false ((fop w).setWidth 8), 0)

/-- A scalar word (R275): rejected when an unused bit is not zero or a field is out of range. -/
def decodeScalar (w : BitVec 32) : Decoded :=
  let (i, unused) := decodeScalarRaw w
  if w &&& unused = 0 ∧ fieldsOk i then .ok i else .illField i

/-! ### Lane words (Table 12-9) -/

/-- The fields of a lane word but its opcode (Table 12-9). -/
def laneFields (w : BitVec 96) : LaneWord where
  pair := w.getLsbD 8
  pred := w.extractLsb' 9 3
  pneg := w.getLsbD 12
  gsel := w.extractLsb' 13 2
  dst := w.extractLsb' 15 7
  clamp := w.extractLsb' 22 2
  scale := w.extractLsb' 24 3
  nar := w.extractLsb' 27 3
  rnd := w.extractLsb' 30 3
  a := Src.ofBits (w.extractLsb' 33 21)
  b := Src.ofBits (w.extractLsb' 54 21)
  c := Src.ofBits (w.extractLsb' 75 21)

/-- The 96 bits of a lane word (Table 12-9). -/
def laneBits (op : BitVec 8) (w : LaneWord) : BitVec 96 :=
  w.c.bits ++ w.b.bits ++ w.a.bits ++ w.rnd ++ w.nar ++ w.scale ++ w.clamp ++ w.dst ++ w.gsel ++
    BitVec.ofBool w.pneg ++ w.pred ++ BitVec.ofBool w.pair ++ op

/-- The instruction of a lane opcode (Table 12-14); PMOV by its direction (R329). -/
def laneInstr (op : BitVec 8) (w : LaneWord) : Instr :=
  match op.toNat with
  | 0x00 => .fadd w
  | 0x01 => .fsub w
  | 0x02 => .fmul w
  | 0x03 => .ffma w
  | 0x04 => .fmin w
  | 0x05 => .fmax w
  | 0x06 => .fcmp w
  | 0x07 => .fclass w
  | 0x08 => .frnd w
  | 0x09 => .ffrac w
  | 0x0A => .fldexp w
  | 0x0B => .fdot2 w
  | 0x0C => .fdot4 w
  | 0x10 => .faddi w
  | 0x11 => .fmuli w
  | 0x12 => .ffmai w
  | 0x14 => .icmpi w
  | 0x18 => .iaddi w
  | 0x19 => .iandi w
  | 0x1A => .iori w
  | 0x1B => .ixori w
  | 0x1C => .ishli w
  | 0x1D => .ishri w
  | 0x1E => .israi w
  | 0x1F => .movi w
  | 0x40 => .iadd w
  | 0x41 => .isub w
  | 0x42 => .imul w
  | 0x43 => .imulh w
  | 0x44 => .imulhu w
  | 0x45 => .imad w
  | 0x46 => .imin w
  | 0x47 => .imax w
  | 0x48 => .iminu w
  | 0x49 => .imaxu w
  | 0x50 => .vand w
  | 0x51 => .vor w
  | 0x52 => .vxor w
  | 0x53 => .vandn w
  | 0x54 => .vshl w
  | 0x55 => .vshr w
  | 0x56 => .vsra w
  | 0x57 => .popc w
  | 0x58 => .clz w
  | 0x59 => .brev w
  | 0x5A => .bfe w
  | 0x5B => .bfi w
  | 0x5C => .prmt w
  | 0x5D => .icmp w
  | 0x5E => .icmpu w
  | 0x60 => .vmov w
  | 0x61 => .vsel w
  | 0x62 => .lut w
  | 0x63 => .plop w
  | 0x64 => if w.rnd == 0 then .pmovToWord w else .pmovToPredicate w
  | 0x80 => .frcp w
  | 0x81 => .frsq w
  | 0x82 => .fsqrt w
  | 0x83 => .fdiv w
  | 0x84 => .fexp2 w
  | 0x85 => .flog2 w
  | 0x86 => .fsin w
  | 0x87 => .fcos w
  | 0x88 => .ftanh w
  | 0x89 => .fsigm w
  | 0x90 => .cvtfi w
  | 0x91 => .cvtif w
  | 0x92 => .cvtff w
  | 0x93 => .qblk w
  | 0x94 => .scaleblk w
  | 0xA0 => .vote w
  | 0xA1 => .vmatch w
  | 0xA2 => .vreduce w
  | 0xA3 => .vscan w
  | 0xA4 => .lid w
  | 0xA5 => .lslot w
  | 0xA6 => .pleat w
  | 0xB0 => .bnd w
  | 0xB1 => .setb w
  | 0xB2 => .clrb w
  | 0xB3 => .chkb w
  | 0xB8 => .efclr w
  | 0xB9 => .efget w
  | 0xBA => .efset w
  | 0xC0 => .vld w
  | 0xC1 => .ldx w
  | 0xC2 => .vst w
  | 0xC3 => .stx w
  | 0xC4 => .lds w
  | 0xC5 => .sts w
  | 0xC6 => .atom w
  | 0xC7 => .atoms w
  | 0xC8 => .atomagg w
  | 0xC9 => .laneStref w
  | 0xCA => .tlda w
  | 0xE0 => .lbr w
  | 0xE1 => .ljmp w
  | 0xE2 => .lend w
  | 0xE3 => .lexit w
  | 0xE4 => .lfmt w
  | 0xE5 => .lnop w
  | _ => .unassignedOpcode true op

/-- A lane word (R279, R290). -/
def decodeLane (w : BitVec 96) : Decoded :=
  let i := laneInstr (w.extractLsb' 0 8) (laneFields w)
  if fieldsOk i then .ok i else .illField i

/-! ### Encoding -/

def sr (op : BitVec 6) (d a b : SNum) (f : BitVec 8) : BitVec 32 :=
  op ++ BitVec.ofFin (w := 6) d ++ BitVec.ofFin (w := 6) a ++ BitVec.ofFin (w := 6) b ++ f
def si (op : BitVec 6) (d a : SNum) (imm : BitVec 14) : BitVec 32 :=
  op ++ BitVec.ofFin (w := 6) d ++ BitVec.ofFin (w := 6) a ++ imm
def su (op : BitVec 6) (d : SNum) (imm : BitVec 20) : BitVec 32 := op ++ BitVec.ofFin (w := 6) d ++ imm
def sb (op : BitVec 6) (a b : SNum) (cnd : BitVec 3) (off : BitVec 11) : BitVec 32 :=
  op ++ BitVec.ofFin (w := 6) a ++ BitVec.ofFin (w := 6) b ++ cnd ++ off
def sj (op : BitVec 6) (off : BitVec 26) : BitVec 32 := op ++ off
def sm (op : BitVec 6) (t base : SNum) (sz sc : BitVec 2) (off : BitVec 10) : BitVec 32 :=
  op ++ BitVec.ofFin (w := 6) t ++ BitVec.ofFin (w := 6) base ++ sz ++ sc ++ off

/-- The word of a scalar instruction (Tables 12-5 to 12-8, 16-1); 0 for what is not one. -/
def encodeScalar (i : Instr) : BitVec 32 :=
  match i with
  | .sadd d a b => sr 0x00 d a b 0x00
  | .ssub d a b => sr 0x00 d a b 0x01
  | .sand d a b => sr 0x00 d a b 0x02
  | .sor d a b => sr 0x00 d a b 0x03
  | .sxor d a b => sr 0x00 d a b 0x04
  | .sandn d a b => sr 0x00 d a b 0x05
  | .sshl d a b => sr 0x00 d a b 0x06
  | .sshr d a b => sr 0x00 d a b 0x07
  | .ssra d a b => sr 0x00 d a b 0x08
  | .sslt d a b => sr 0x00 d a b 0x09
  | .ssltu d a b => sr 0x00 d a b 0x0A
  | .smin d a b => sr 0x00 d a b 0x0B
  | .smax d a b => sr 0x00 d a b 0x0C
  | .sminu d a b => sr 0x00 d a b 0x0D
  | .smaxu d a b => sr 0x00 d a b 0x0E
  | .smul d a b => sr 0x00 d a b 0x10
  | .smulh d a b => sr 0x00 d a b 0x11
  | .smulhu d a b => sr 0x00 d a b 0x12
  | .sdiv d a b => sr 0x00 d a b 0x13
  | .sdivu d a b => sr 0x00 d a b 0x14
  | .srem d a b => sr 0x00 d a b 0x15
  | .sremu d a b => sr 0x00 d a b 0x16
  | .spopc d a => sr 0x00 d a 0 0x18
  | .sclz d a => sr 0x00 d a 0 0x19
  | .sctz d a => sr 0x00 d a 0 0x1A
  | .saddi d a imm => si 0x01 d a imm
  | .sandi d a imm => si 0x02 d a imm
  | .sori d a imm => si 0x03 d a imm
  | .sxori d a imm => si 0x04 d a imm
  | .sshli d a imm => si 0x05 d a ((0 : BitVec 8) ++ imm)
  | .sshri d a imm => si 0x06 d a ((0 : BitVec 8) ++ imm)
  | .ssrai d a imm => si 0x07 d a ((0 : BitVec 8) ++ imm)
  | .slti d a imm => si 0x08 d a imm
  | .sltiu d a imm => si 0x09 d a imm
  | .slui d imm => su 0x0A d imm
  | .saddpc d imm => su 0x0B d imm
  | .sbr cnd a b off => sb 0x10 a b cnd off
  | .sj off => sj 0x11 off
  | .sjl off => sj 0x12 off
  | .sjr d a => sr 0x13 d a 0 0
  | .sld t base sz off => sm 0x18 t base sz 0 off
  | .slds t base sz off => sm 0x19 t base sz 0 off
  | .sst t base sz off => sm 0x1A t base sz 0 off
  | .slda t base sz sc off => sm 0x1B t base sz sc off
  | .sstl t base sz sc off => sm 0x1C t base sz sc off
  | .satom d a b op ord sc => sr 0x1D d a b (op ++ ord ++ sc)
  | .sfence kind lanes sc => sr 0x1E 0 0 0 ((0 : BitVec 3) ++ sc ++ BitVec.ofBool lanes ++ kind)
  | .sacqp d a b sc => sr 0x1F d a b ((0 : BitVec 6) ++ sc)
  | .lrun a b => sr 0x20 0 a b 0
  | .ldrain => sr 0x21 0 0 0 0
  | .setfmt a => sr 0x22 0 a 0 0
  | .setalw a => sr 0x23 0 a 0 0
  | .pause n => su 0x24 0 n
  | .susp a b off => sb 0x25 a b 0 off
  | .sleepu a => sr 0x26 0 a 0 0
  | .bar => sr 0x28 0 0 0 0
  | .cbar => sr 0x29 0 0 0 0
  | .cbarL => sr 0x29 0 0 0 1
  | .regather key => sr 0x2A 0 0 0 ((0 : BitVec 1) ++ key)
  | .elect d => sr 0x2B d 0 0 0
  | .send d a => sr 0x2C d a 0 0
  | .sendm d a b => sr 0x2D d a b 0
  | .recv d a => sr 0x2E d a 0 0
  | .rprobe d a => sr 0x2F d a 0 0
  | .rcancel d a => sr 0x2F d a 0 1
  | .copy d a x => sr 0x30 d a 0 ((0 : BitVec 3) ++ BitVec.ofBool x ++ (0 : BitVec 4))
  | .copym d a b x peer => sr 0x31 d a b ((0 : BitVec 2) ++ BitVec.ofBool peer ++ BitVec.ofBool x ++ (0 : BitVec 4))
  | .cwait a p => sr 0x32 0 a 0 ((0 : BitVec 3) ++ BitVec.ofBool p ++ (0 : BitVec 4))
  | .mloop a => sr 0x33 0 a 0 0
  | .mgang a b => sr 0x34 0 a b 0
  | .mready => sr 0x35 0 0 0 0
  | .mreadyGang => sr 0x35 0 0 0 0x10
  | .mwait n => sr 0x36 0 0 n.toFin 0
  | .mwaitAll => sr 0x36 0 0 0 0x10
  | .mzero n => sr 0x37 0 0 n.toFin 0
  | .mout a => sr 0x38 0 a 0 0
  | .mldc a => sr 0x39 0 a 0 0
  | .wload d a => sr 0x3A d a 0 0
  | .wdir a b => sr 0x3A 0 a b 1
  | .rfsh => sr 0x3A 0 0 0 2
  | .ecrd d a => sr 0x3B d a 0 0
  | .ecclr a => sr 0x3B 0 a 0 1
  | .pub d a => sr 0x3C d a 0 0
  | .mkobj a => sr 0x3C 0 a 0 1
  | .stref a rel sc => sr 0x3C 0 a 0 ((0 : BitVec 1) ++ sc ++ BitVec.ofBool rel ++ (2 : BitVec 4))
  | .ldhdr d a => sr 0x3C d a 0 3
  | .launch a => sr 0x3D 0 a 0 0
  | .join d a => sr 0x3D d a 0 1
  | .nop => sr 0x3E 0 0 0 0
  | .trap imm => (0x3E : BitVec 6) ++ (0 : BitVec 2) ++ imm ++ (1 : BitVec 8)
  | .rft => sr 0x3E 0 0 0 2
  | .csrr d r => (0x3E : BitVec 6) ++ BitVec.ofFin (w := 6) d ++ r ++ (3 : BitVec 8)
  | .csrw d r => (0x3E : BitVec 6) ++ BitVec.ofFin (w := 6) d ++ r ++ (4 : BitVec 8)
  | .cwb a b => sr 0x3E 0 a b 5
  | .icinv c a b => sr 0x3E c.toFin a b 6
  | .ifence => sr 0x3E 0 0 0 7
  | .gend => sr 0x3E 0 0 0 8
  | .unassignedOpcode false op => op.extractLsb' 0 6 ++ (0xFF : BitVec 26)
  | _ => 0

/-- The word of a lane instruction (Tables 12-9, 12-14); 0 for what is not one. -/
def encodeLane (i : Instr) : BitVec 96 :=
  match i with
  | .unassignedOpcode true op => (0 : BitVec 88) ++ op
  | _ =>
    match laneRow i with
    | some (r, w) => laneBits r.op w
    | none => 0

/-- Which code section an instruction's words stand in. -/
inductive Side where
  | scalar | lane | event
deriving DecidableEq, Repr

/-- Scalar instruction, lane word, or an event without words. -/
def sideOf (i : Instr) : Side :=
  match i with
  | .unassignedOpcode lane _ => if lane then .lane else .scalar
  | _ => if (laneRow i).isSome then .lane else if (fop (encodeScalar i)).toNat != 0 then .scalar
    else match i with
      | .sadd _ _ _ | .ssub _ _ _ | .sand _ _ _ | .sor _ _ _ | .sxor _ _ _ | .sandn _ _ _ | .sshl _ _ _ | .sshr _ _ _
      | .ssra _ _ _ | .sslt _ _ _ | .ssltu _ _ _ | .smin _ _ _ | .smax _ _ _ | .sminu _ _ _ | .smaxu _ _ _ | .smul _ _ _
      | .smulh _ _ _ | .smulhu _ _ _ | .sdiv _ _ _ | .sdivu _ _ _ | .srem _ _ _ | .sremu _ _ _ | .spopc _ _ | .sclz _ _
      | .sctz _ _ => .scalar
      | _ => .event

/-- The bytes of an instruction's words as memory holds them (R271); events have none. -/
def encode (i : Instr) : List Byte :=
  match sideOf i with
  | .scalar => bytesLE 4 (encodeScalar i).toNat
  | .lane => bytesLE 12 (encodeLane i).toNat
  | .event => []

/-- Decodes the bytes of a scalar instruction, or of a lane word, as memory holds them (R271). -/
def decodeBytes (lane : Bool) (bs : List Byte) : Decoded :=
  if lane then decodeLane (BitVec.ofNat 96 (leBytes bs)) else decodeScalar (BitVec.ofNat 32 (leBytes bs))

/-- The instruction of a table word: up to 32 bits a scalar instruction, more a lane word; bit 0 is the lowest bit of its first byte. -/
def decodeTableWord (nbits w : Nat) : Option Instr :=
  let lane := decide (32 < nbits)
  match decodeBytes lane (bytesLE (if lane then 12 else 4) (w % 2 ^ nbits)) with
  | .ok i => some i
  | .illField _ => none

end Sys2Proof
end

