-- ==== Sys2Proof/Machine/KMap.lean ====
section
/-! DEFINITION. The operations of the sparse tables (`KMap`): a table lists its entries with strictly rising
keys and never lists the value that an unlisted key stands for, so that equal tables are equal lists. Memory,
metadata, registers of rare units and every handle table of the device are held so. -/

namespace Sys2Proof

/-- The value at a key; `d` is what an unlisted key stands for. -/
def KMap.get {α : Type} (d : α) : KMap α → Nat → α
  | [], _ => d
  | (j, v) :: m, k => if j = k then v else KMap.get d m k

/-- The table with an entry put in its place; an entry with the key is replaced. -/
def KMap.ins {α : Type} : KMap α → Nat → α → KMap α
  | [], k, v => [(k, v)]
  | (j, u) :: m, k, v =>
    if k < j then (k, v) :: (j, u) :: m
    else if k = j then (k, v) :: m
    else (j, u) :: KMap.ins m k v

/-- The table with one value changed, in canonical form: the value `d` is not listed. -/
def KMap.set {α : Type} [DecidableEq α] (d : α) (m : KMap α) (k : Nat) (v : α) : KMap α :=
  if v = d then m.filter (fun e => e.1 != k) else KMap.ins m k v

/-- Every listed key lies above `lo`, keys rise strictly, and no listed value is `d`. -/
def KMap.wfAbove {α : Type} [DecidableEq α] (d : α) : Option Nat → KMap α → Bool
  | _, [] => true
  | lo, (j, v) :: m => (match lo with | none => true | some l => decide (l < j)) && decide (v ≠ d) && KMap.wfAbove d (some j) m

/-- Canonical form. -/
def KMap.wf {α : Type} [DecidableEq α] (d : α) (m : KMap α) : Bool := KMap.wfAbove d none m

/-- The table with one value replaced by its image. -/
def KMap.modify {α : Type} [DecidableEq α] (d : α) (m : KMap α) (k : Nat) (f : α → α) : KMap α :=
  KMap.set d m k (f (KMap.get d m k))

/-- Values written at the keys k, k+1, … -/
def KMap.setRange {α : Type} [DecidableEq α] (d : α) : KMap α → Nat → List α → KMap α
  | m, _, [] => m
  | m, k, v :: vs => KMap.setRange d (KMap.set d m k v) (k + 1) vs

/-- The n values from key k. -/
def KMap.getRange {α : Type} (d : α) (m : KMap α) (k n : Nat) : List α :=
  (List.range n).map fun i => KMap.get d m (k + i)

/-- The keys listed. -/
def KMap.keys {α : Type} (m : KMap α) : List Nat := m.map (·.1)

/-! ### Bytes -/

/-- The byte at an address; an unlisted byte reads 0. -/
def readByte (m : List Host.Cell) (a : Nat) : Byte := KMap.get 0 m a
/-- n bytes from an address. -/
def readBytes (m : List Host.Cell) (a n : Nat) : List Byte := KMap.getRange 0 m a n
/-- Bytes written from an address. -/
def writeBytes (m : List Host.Cell) (a : Nat) (bs : List Byte) : List Host.Cell := KMap.setRange 0 m a bs
/-- A little-endian number of n bytes (R5). -/
def readLE (m : List Host.Cell) (a n : Nat) : Nat := leBytes (readBytes m a n)
/-- A number stored in n little-endian bytes (R5). -/
def writeLE (m : List Host.Cell) (a n v : Nat) : List Host.Cell := writeBytes m a (bytesLE n v)

/-- The 64 bytes of a sector (R169). -/
def sectorOfBytes (bs : List Byte) : Sector := BitVec.ofNat 512 (leBytes bs)
/-- The bytes of a sector (R169). -/
def bytesOfSector (x : Sector) : List Byte := bytesLE 64 x.toNat
/-- Sector number n of a memory (R169). -/
def readSector (m : List Host.Cell) (n : Nat) : Sector := sectorOfBytes (readBytes m (64 * n) 64)
/-- Byte i of a sector. -/
def Sector.byte (x : Sector) (i : Nat) : Byte := x.extractLsb' (8 * i) 8
/-- 32-bit word i of a sector (R175). -/
def Sector.word (x : Sector) (i : Nat) : Word := x.extractLsb' (32 * i) 32

/-- A field of a register: bits [lo + n - 1 : lo]. -/
def fieldN {w : Nat} (x : BitVec w) (lo n : Nat) : Nat := (x.extractLsb' lo n).toNat
/-- A value with the bits [lo + n - 1 : lo] replaced. -/
def setField {w : Nat} (x : BitVec w) (lo n v : Nat) : BitVec w :=
  (x &&& ~~~(BitVec.ofNat w ((2 ^ n - 1) <<< lo))) ||| BitVec.ofNat w ((v % 2 ^ n) <<< lo)
/-- Signed value of a field. -/
def fieldI {w : Nat} (x : BitVec w) (lo n : Nat) : Int := (x.extractLsb' lo n).toInt
/-- The smallest number at or above a / b. -/
def ceilDiv (a b : Nat) : Nat := (a + b - 1) / b
/-- Replaces the element at a position of a list. -/
def listSet {α : Type} (l : List α) (i : Nat) (v : α) : List α := l.set i v

end Sys2Proof
end

