-- ==== Sys2Proof/Machine/Num.lean ====
section
/-! DEFINITION. Exact values, the number formats and their rounding (09 R212-R227), and the B16 bound format
(10 R229, R230). Every operation computes in exact rational arithmetic and narrows once at the end. -/

namespace Sys2Proof.Machine

/-- An exact value of a float operation: NaN, an infinity or a zero with its sign, or a non-zero real. -/
inductive FVal where
  | nan
  | inf (neg : Bool)
  | zero (neg : Bool)
  | num (q : Rat)
deriving DecidableEq, Repr

/-- A float format (Table 9-3): field widths, bias, whether it has infinities, and which codes are NaN. -/
structure FFmt where
  exp : Nat
  man : Nat
  bias : Nat
  hasInf : Bool
  hasNan : Bool
deriving DecidableEq, Repr

/-- The float format of a code 0 to 7 (Tables 9-2, 9-3); any other code reads as FP32. -/
def ffmt (code : Nat) : FFmt :=
  match code with
  | 1 => ⟨8, 7, 127, true, true⟩
  | 2 => ⟨5, 10, 15, true, true⟩
  | 3 => ⟨4, 3, 7, false, true⟩
  | 4 => ⟨5, 2, 15, true, true⟩
  | 5 => ⟨3, 2, 3, false, false⟩
  | 6 => ⟨2, 3, 1, false, false⟩
  | 7 => ⟨2, 1, 1, false, false⟩
  | _ => ⟨8, 23, 127, true, true⟩

/-- Width in bits of a format code (Table 9-2). -/
def fmtWidth (code : Nat) : Nat :=
  match code with
  | 0 | 8 | 9 => 32
  | 1 | 2 => 16
  | 3 | 4 | 10 | 11 => 8
  | 5 | 6 => 6
  | 14 => 3
  | _ => 4

/-- Elements of a format in one 32-bit word (R214). -/
def fmtElems (code : Nat) : Nat := 32 / fmtWidth code

/-- Codes of the float domain (Table 9-2). -/
def isFloatFmt (code : Nat) : Bool := code ≤ 7
/-- Codes of the integer domain (Table 9-2). -/
def isIntFmt (code : Nat) : Bool := 8 ≤ code && code ≤ 13
/-- Signed integer formats (R217). -/
def isSignedFmt (code : Nat) : Bool := code == 8 || code == 10 || code == 12

/-- 2 to an integer power. -/
def pow2 (n : Int) : Rat := if 0 ≤ n then (2 ^ n.toNat : Nat) else 1 / ((2 ^ (-n).toNat : Nat) : Rat)

/-- The integer n with 2^n ≤ q < 2^(n+1), for q > 0 (R224). -/
def floorLog2 (q : Rat) : Int :=
  let e : Int := (Nat.log2 q.num.natAbs : Int) - (Nat.log2 q.den : Int)
  if pow2 e ≤ q then e else e - 1

/-- Magnitude of a rational. -/
def qabs (q : Rat) : Rat := if q < 0 then -q else q
/-- Larger of two rationals. -/
def qmax (a b : Rat) : Rat := if a ≤ b then b else a
/-- Smaller of two rationals. -/
def qmin (a b : Rat) : Rat := if a ≤ b then a else b
/-- Value with a sign. -/
def qsign (neg : Bool) (q : Rat) : Rat := if neg then -q else q

/-- The sign of a value, for a zero and an infinity too; NaN is positive (R218). -/
def FVal.neg : FVal → Bool
  | .nan => false
  | .inf s => s
  | .zero s => s
  | .num q => decide (q < 0)

/-- A rational as a value; an exact zero is +0. -/
def FVal.ofRat (q : Rat) : FVal := if q = 0 then .zero false else .num q

/-- The finite real a value stands for (0 for NaN and infinities). -/
def FVal.toRat : FVal → Rat
  | .num q => q
  | _ => 0

def FVal.isFinite : FVal → Bool
  | .nan => false
  | .inf _ => false
  | _ => true

/-- Value with the sign bit changed (R218). -/
def FVal.negate : FVal → FVal
  | .nan => .nan
  | .inf s => .inf (!s)
  | .zero s => .zero (!s)
  | .num q => .num (-q)

/-- Value with the sign bit cleared (R218). -/
def FVal.abs : FVal → FVal
  | .nan => .nan
  | .inf _ => .inf false
  | .zero _ => .zero false
  | .num q => .num (qabs q)

/-- Value times 2^s, exactly (R215). -/
def FVal.scale (v : FVal) (s : Int) : FVal :=
  match v with
  | .num q => .num (q * pow2 s)
  | v => v

/-! ### Codes (R216, R218) -/

/-- Largest exponent field of a finite number in a format with infinities or NaNs there. -/
def FFmt.emax (f : FFmt) : Nat := 2 ^ f.exp - 1

/-- Largest finite value (Table 9-3). -/
def FFmt.largest (f : FFmt) : Rat :=
  if f.hasInf then ((2 ^ (f.man + 1) - 1 : Nat) : Rat) * pow2 ((f.emax : Int) - 1 - f.bias - f.man)
  else if f.hasNan then ((2 ^ (f.man + 1) - 2 : Nat) : Rat) * pow2 ((f.emax : Int) - f.bias - f.man)
  else ((2 ^ (f.man + 1) - 1 : Nat) : Rat) * pow2 ((f.emax : Int) - f.bias - f.man)

/-- Value of a code (R216). -/
def decodeF (f : FFmt) (code : Nat) : FVal :=
  let s := decide (code / 2 ^ (f.exp + f.man) % 2 = 1)
  let e := code / 2 ^ f.man % 2 ^ f.exp
  let m := code % 2 ^ f.man
  if e = f.emax ∧ f.hasInf = true then (if m = 0 then .inf s else .nan)
  else if e = f.emax ∧ f.hasNan = true ∧ m = 2 ^ f.man - 1 then .nan
  else if e = 0 then (if m = 0 then .zero s else .num (qsign s ((m : Rat) * pow2 (1 - f.bias - f.man))))
  else .num (qsign s (((2 ^ f.man + m : Nat) : Rat) * pow2 ((e : Int) - f.bias - f.man)))

/-- The canonical NaN of a format (Table 9-3); formats without NaN have none and give +0 (Table 9-4). -/
def FFmt.nanCode (f : FFmt) : Nat :=
  if f.hasInf then f.emax * 2 ^ f.man + 2 ^ (f.man - 1) else if f.hasNan then 2 ^ (f.exp + f.man) - 1 else 0

/-- The code of a value that the format can represent (R216). -/
def encodeF (f : FFmt) (v : FVal) : Nat :=
  let sgn (s : Bool) : Nat := if s then 2 ^ (f.exp + f.man) else 0
  match v with
  | .nan => f.nanCode
  | .inf s => sgn s + f.emax * 2 ^ f.man
  | .zero s => sgn s
  | .num q =>
    let a := qabs q
    let e := floorLog2 a
    if e < 1 - (f.bias : Int) then sgn (decide (q < 0)) + (a * pow2 (f.bias + f.man - 1)).num.natAbs
    else sgn (decide (q < 0)) + (e + f.bias).toNat * 2 ^ f.man + ((a * pow2 (f.man - e)).num.natAbs - 2 ^ f.man)

/-! ### Rounding (R219-R222) -/

/-- Rounding modes of Table 9-5 but EF. -/
inductive RMode where
  | rne | rtz | rup | rdn | rna
deriving DecidableEq, Repr

/-- The mode of a code 0 to 4; EF rounds an intermediate as RNE (R330, R222). -/
def rmode (code : Nat) : RMode :=
  match code with
  | 1 => .rtz
  | 2 => .rup
  | 3 => .rdn
  | 4 => .rna
  | _ => .rne

/-- A non-negative real rounded to an integer under a mode, for a result of the given sign (Table 9-5). -/
def roundNat (mode : RMode) (neg : Bool) (a : Rat) : Nat :=
  let n := a.floor.toNat
  let r := a - (n : Rat)
  let up : Bool :=
    match mode with
    | .rne => decide (r > 1 / 2) || (decide (r = 1 / 2) && n % 2 == 1)
    | .rtz => false
    | .rup => decide (r > 0) && !neg
    | .rdn => decide (r > 0) && neg
    | .rna => decide (r ≥ 1 / 2)
  if up then n + 1 else n

/-- A real rounded to an integer under a mode. -/
def roundInt (mode : RMode) (q : Rat) : Int :=
  let n := roundNat mode (decide (q < 0)) (qabs q)
  if q < 0 then -(n : Int) else n

/-- A real rounded to the mantissa width of a format with unbounded exponent above (R221): the exponent of its unit, and the result. -/
def roundUnbounded (f : FFmt) (mode : RMode) (q : Rat) : Rat :=
  let a := qabs q
  let e := floorLog2 a
  let u := (if e < 1 - (f.bias : Int) then 1 - (f.bias : Int) else e) - f.man
  qsign (decide (q < 0)) ((roundNat mode (decide (q < 0)) (a / pow2 u) : Rat) * pow2 u)

/-- Rounding to a destination format (R219, R221): `sat` is clamp 1. -/
def roundF (f : FFmt) (mode : RMode) (sat : Bool) (v : FVal) : FVal :=
  let huge (neg : Bool) : FVal := .num (qsign neg f.largest)
  match v with
  | .nan => if f.hasNan then .nan else .zero false
  | .inf s => if f.hasInf then .inf s else if f.hasNan then .nan else huge s
  | .zero s => .zero s
  | .num q =>
    let neg := decide (q < 0)
    let y := roundUnbounded f mode q
    if y = 0 then .zero neg
    else if qabs y ≤ f.largest then .num y
    else if sat then huge neg
    else if f.hasInf then
      match mode with
      | .rtz => huge neg
      | .rup => if neg then huge neg else .inf neg
      | .rdn => if neg then .inf neg else huge neg
      | _ => .inf neg
    else if f.hasNan then .nan else huge neg

/-- A value as an element code of a destination: −0 destined for E2M1 is written 0000 (R219). -/
def elemCode (code : Nat) (v : FVal) : Nat :=
  if code = 7 then (match v with | .zero _ => 0 | v => encodeF (ffmt code) v) else encodeF (ffmt code) v

/-- round_away_fp32 of R222: the nearest FP32 value with at least the magnitude of z, an infinity beyond the largest finite one. -/
def roundAwayFp32 (z : Rat) : FVal :=
  if z = 0 then .zero false else roundF (ffmt 0) (if z < 0 then .rdn else .rup) false (.num z)

/-! ### Elements of a word (R214, R215) -/

/-- The code of element n of a word. -/
def elem (code : Nat) (x : Word) (n : Nat) : Nat := x.toNat / 2 ^ (fmtWidth code * n) % 2 ^ fmtWidth code

/-- The word with element n replaced; bits [31:30] of 6-bit words are written as zero (R214). -/
def setElem (code : Nat) (x : Word) (n : Nat) (v : Nat) : Word :=
  let w := fmtWidth code
  let y := setField x (w * n) w v
  if w = 6 then y &&& 0x3FFFFFFF else y

/-- Value of a float element (R215, R216). -/
def elemF (code : Nat) (x : Word) (n : Nat) : FVal := decodeF (ffmt code) (elem code x n)

/-- Value of an integer element (R217). -/
def elemI (code : Nat) (x : Word) (n : Nat) : Int :=
  let v := elem code x n
  let w := fmtWidth code
  if isSignedFmt code ∧ 2 ^ (w - 1) ≤ v then (v : Int) - 2 ^ w else v

/-- Range of an integer format (R217). -/
def intLo (code : Nat) : Int := if isSignedFmt code then -(2 ^ (fmtWidth code - 1)) else 0
def intHi (code : Nat) : Int := if isSignedFmt code then 2 ^ (fmtWidth code - 1) - 1 else 2 ^ fmtWidth code - 1
def inIntRange (code : Nat) (r : Int) : Bool := intLo code ≤ r && r ≤ intHi code
def satInt (code : Nat) (r : Int) : Int := if r < intLo code then intLo code else if intHi code < r then intHi code else r

/-! ### Exact sums and products (R218, R315) -/

/-- Exact product with the IEEE sign of a zero (R315). -/
def FVal.mul (a b : FVal) : FVal :=
  match a, b with
  | .nan, _ | _, .nan => .nan
  | .inf s, b => (match b with | .zero _ => .nan | b => .inf (s != b.neg))
  | a, .inf s => (match a with | .zero _ => .nan | a => .inf (a.neg != s))
  | .num p, .num q => .num (p * q)
  | a, b => .zero (a.neg != b.neg)

/-- Exact sum of addends: NaN and inf − inf by R218; an exact zero is +0, or −0 when every addend is −0 or the mode is RDN (R315). -/
def sumF (rdn : Bool) (l : List FVal) : FVal :=
  if l.any (· == .nan) then .nan
  else
    let p := l.any (· == .inf false)
    let n := l.any (· == .inf true)
    if p && n then .nan
    else if p then .inf false
    else if n then .inf true
    else
      let q := (l.map FVal.toRat).foldl (· + ·) 0
      if q = 0 then .zero (rdn || l.all (fun x => x == .zero true))
      else .num q

/-- IEEE comparison of two values that are not NaN. -/
def FVal.lt (a b : FVal) : Bool :=
  match a, b with
  | .nan, _ | _, .nan => false
  | .inf true, .inf true => false
  | .inf true, _ => true
  | _, .inf true => false
  | .inf false, _ => false
  | _, .inf false => true
  | a, b => decide (a.toRat < b.toRat)

/-- IEEE equality: −0 equals +0, NaN equals nothing. -/
def FVal.eq (a b : FVal) : Bool :=
  match a, b with
  | .nan, _ | _, .nan => false
  | .inf s, .inf t => s == t
  | .inf _, _ | _, .inf _ => false
  | a, b => decide (a.toRat = b.toRat)

/-- FMIN (`mx` false) or FMAX of R318: −0 below +0, one NaN ignored. -/
def selMinMax (mx : Bool) (a b : FVal) : FVal :=
  let less (a b : FVal) : Bool :=
    match a, b with
    | .zero s, .zero t => s && !t
    | a, b => a.lt b
  match a, b with
  | .nan, b => b
  | a, .nan => a
  | a, b => if mx then (if less a b then b else a) else (if less b a then b else a)

/-! ### B16 bounds (R229, R230) -/

/-- Value of a B16 code; `none` is ∞. -/
def bval (c : Bound) : Option Rat :=
  let e := fieldN c 8 8
  let f := fieldN c 0 8
  if e = 255 then none
  else if e = 0 then some ((f : Rat) * pow2 (-134))
  else some (((256 + f : Nat) : Rat) * pow2 ((e : Int) - 127 - 8))

/-- The ∞ the device writes. -/
def bInf : Bound := 0xFFFF

/-- round_up_b16 (R230). -/
def roundUpB16 (x : Option Rat) : Bound :=
  match x with
  | none => bInf
  | some x =>
    if x ≤ 0 then 0
    else if x > 511 * pow2 119 then bInf
    else if x < pow2 (-126) then
      let f := (x * pow2 134).ceil.toNat
      if f < 256 then BitVec.ofNat 16 f else 0x0100
    else
      let n := floorLog2 x
      let f := ((x / pow2 n - 1) * 256).ceil.toNat
      let n' := if f = 256 then n + 1 else n
      let f' := if f = 256 then 0 else f
      if n' + 127 ≥ 255 then bInf else BitVec.ofNat 16 ((n' + 127).toNat * 256 + f')

/-- Sum of two terms; any ∞ makes the result ∞ (R230). -/
def badd (a b : Option Rat) : Option Rat :=
  match a, b with
  | some a, some b => some (a + b)
  | _, _ => none
/-- Product of two terms; any ∞ makes the result ∞ (R230). -/
def bmul (a b : Option Rat) : Option Rat :=
  match a, b with
  | some a, some b => some (a * b)
  | _, _ => none
/-- Larger of two terms. -/
def bmax (a b : Option Rat) : Option Rat :=
  match a, b with
  | some a, some b => some (qmax a b)
  | _, _ => none
/-- Comparison with ∞ ≤ ∞ (R238). -/
def ble (a b : Option Rat) : Bool :=
  match a, b with
  | _, none => true
  | none, some _ => false
  | some a, some b => decide (a ≤ b)

/-- ulp of R233. -/
def ulpF (f : FFmt) (y : Rat) : Rat :=
  if y = 0 ∨ qabs y < pow2 (1 - (f.bias : Int)) then pow2 (1 - (f.bias : Int) - f.man)
  else pow2 (floorLog2 (qabs y) - f.man)

/-- The conversion term |t − y| of R233: 0 for an equal result, ∞ when t or y is not finite. -/
def convTerm (t y : FVal) : Option Rat :=
  if t.isFinite && y.isFinite then some (qabs (t.toRat - y.toRat)) else none

end Sys2Proof.Machine
end

