-- ==== Sys2Proof/Config.lean ====
section
/-! DEFINITION. The constants of the device (R3, R16) and the free values: what the spec leaves open is an
`opaque` constant without a body, so no proof can know it (log 5). -/

namespace Sys2Proof.Config

/-- Part code of `dev.id` (03 Table 3-1). -/
def partCode : Nat := 0x2A08
/-- Cores per die and compute dies (00 R3). -/
def coresPerDie : Nat := 288
def coreCount : Nat := 1728
/-- Bytes of scratch a core gives to teams, and where the overflow queue begins (04 R82). -/
def teamScratch : Nat := 480 * 1024
def overflowBase : Nat := 480 * 1024
/-- Bytes of one column slice of the weight store (06 R153). -/
def sliceBytes : Nat := 393216
/-- 8 KiB pages per stack without a carve-out (01 Table 1-4). -/
def pagesPerStack : Nat := 8388608
/-- Units of time in a microsecond: a cycle of 800 to 1600 MHz in steps of 100 takes a whole number of them (01 R28). -/
def usUnit : Nat := 72072000
/-- Capacities (07 R170, R183, R188, R191; 16 R365; 05 R118, R134, R136, R138; 03 R59; 08 R209). -/
def cbufEntries : Nat := 64
def copyQueue : Nat := 32
def seqQueue : Nat := 16
def ologEntries : Nat := 32
def spoolEntries : Nat := 16
def trapQueue : Nat := 4
def sliceWatches : Nat := 64
def hubWatches : Nat := 128
def postedMax : Nat := 64
def overflowPlaces : Nat := 128
def bobbinMax : Nat := 4096
def walksMax : Nat := 16
def gridsPerContext : Nat := 64
def depTable : Nat := 1024

/-- FREE. An unpredictable 32-bit word (R7), by number. -/
opaque freeWord : Nat → BitVec 32
/-- FREE. How many cycles beyond the first a step takes, by number (log 7). -/
opaque freeCycles : Nat → Nat
/-- FREE. The fused device secret, and the package identity key and its certificate, as functions of the secret alone (03 R69, log 8). -/
opaque secretByte : Nat → BitVec 8
opaque idKeyByte : List (BitVec 8) → Nat → BitVec 8
opaque idCertByte : List (BitVec 8) → Nat → BitVec 8
opaque idCertLength : List (BitVec 8) → Nat
/-- FREE. The attestation key, a function of the device secret and measurement slot 0, and its certificate, one of the
identity key and the attestation key (03 R69, R71, log 8). -/
opaque attKeyByte : List (BitVec 8) → List (List (BitVec 8)) → Nat → BitVec 8
opaque attCertByte : List (BitVec 8) → List (BitVec 8) → Nat → BitVec 8
opaque attCertLength : List (BitVec 8) → List (BitVec 8) → Nat
/-- FREE. A signature's bytes: of a key, the bytes it covers, and a number for the nonce (03 R71, log 8). -/
opaque signByte : List (BitVec 8) → List (BitVec 8) → Nat → Nat → BitVec 8
/-- FREE. The 64-byte digest that extends a measurement slot, of the contents Table 3-9 names (03 R70, log 8). -/
opaque digestByte : Nat → List Nat → Nat → BitVec 8
/-- FREE. Package serial number and stepping (03 Table 3-1, 3-10; log 8). -/
opaque serialByte : Nat → BitVec 8
opaque stepping : BitVec 8
end Sys2Proof.Config
end

