-- ==== Sys2Proof/Machine/State.lean ====
section
/-! DEFINITION. The state of the whole ZV8 device as plain data: every register, memory, queue and table the
spec names, and the machine right after reset. Each field's docstring gives its meaning, the file and rule of
spec/ that names it, and its reset value; INVENTORY.md lists them all. Tables are sparse (`KMap`). -/

namespace Sys2Proof.Machine

/-! ### Lane and scalar registers of a group -/

/-- One lane of a vector register (05 R114): the 32-bit value and its B16 bound. -/
structure LaneVal where
  /-- The value, 32 bits (05 R114). Reset: 0 (R85). -/
  val : Word
  /-- The bound, B16 (05 R114, 10 R229). Reset: 0x0000, exact (R85). -/
  bnd : Bound
deriving DecidableEq, Repr

/-- A vector register (05 R114): 32 lanes and a full/empty bit. -/
structure VReg where
  /-- 1 full, 0 empty, 1 bit (05 R114, R116). Reset: full (R85). -/
  full : Bool
  /-- The 32 lanes (05 R114). Reset: value 0, bound exact (R85). -/
  lanes : Vector LaneVal 32
deriving DecidableEq, Repr

/-- Why a scalar register is full or empty (05 R115): full, emptied by a pending scalar result, or emptied by a lane block. -/
inductive RegFill where
  | full
  | pending
  | lane
deriving DecidableEq, Repr

/-- A scalar register (05 R114). -/
structure SReg where
  /-- The value, 64 bits (05 R114). Reset: 0 (R85, R55). -/
  val : DWord
  /-- The full/empty bit with the cause of emptiness (05 R114, R115). Reset: full (R85, R55). -/
  fill : RegFill
deriving DecidableEq, Repr

/-- A split record (05 R124, Table 5-6). -/
structure Split where
  /-- Word index in the block, 16 bits (05 R124). Reset: no record. -/
  pc : Nat
  /-- Lane mask (05 R124). Reset: no record. -/
  mask : Mask
  /-- Reconvergence word (05 R124). Reset: no record. -/
  rpc : Nat
  /-- The record's format register (05 R124). Reset: no record. -/
  fmt : Word
  /-- 1: shares rpc and parent with the record below (05 R124). Reset: no record. -/
  sib : Bool
  /-- After RFT: the lanes in which the record's next word is performed again (11 R260). Reset: none. -/
  redo : Option Mask
  /-- Its next word is the second of a pair whose first has issued (12 R289). Reset: no record. -/
  second : Bool
  /-- It reached its next word by a jump (12 R289). Reset: no record. -/
  jumped : Bool
  /-- Lane traps that its words have raised and whose handlers have not ended, by their numbers (11 R260). Reset: none. -/
  traps : List Nat
deriving DecidableEq, Repr

/-- A spool entry or trap-block queue entry (05 R118, Table 5-4). -/
structure SpoolEntry where
  /-- Tells its block from others, for results that arrive later (model's own). Reset: no entry. -/
  id : Nat
  /-- Address of the block header, 57 bits (05 R118). Reset: no entry. -/
  blk : BitVec 57
  /-- LRUN mask and live lanes at push (05 R118). Reset: no entry. -/
  mask : Mask
  /-- s16 to s31 [31:0] at push, read as k0 to k15 (05 R118). Reset: no entry. -/
  ksnap : Vector Word 16
  /-- Format register at push (05 R118). Reset: no entry. -/
  fmt : Word
  /-- `alw` at push (05 R118). Reset: no entry. -/
  alw : DWord
  /-- Destination mask of the header (05 R118). Reset: no entry. -/
  dmask : BitVec 16
  /-- Block length in words, from the header (12 R272). Reset: no entry. -/
  len : Nat
  /-- Trap block flag of the header (11 R259). Reset: no entry. -/
  trap : Bool
  /-- Sectors of lane code fetched for this block, by virtual sector number (16 R394). Reset: no entry. -/
  code : KMap Sector
  /-- A handler that has not ended pushed it, so that it starts only after RFT (13 R306). Reset: no entry. -/
  late : Bool
deriving DecidableEq, Repr

/-- A running block: its entry and its split stack, top first (05 R119, R124). All but the runnable records lie in the bobbin (R128). -/
structure Block where
  /-- The entry it runs (05 R119). Reset: no block. -/
  entry : SpoolEntry
  /-- The split stack, top first; the records below the runnable ones are the bobbin (05 R124, R128). Reset: no block. -/
  stack : List Split
deriving DecidableEq, Repr

/-- A trap raised on the lane side, not yet delivered (11 R255, R257). -/
structure LaneTrap where
  /-- Its number, by which the trapped record is found again (11 R260; model's own). Reset: no trap. -/
  id : Nat
  /-- Cause code (11 R251). Reset: no trap. -/
  cause : BitVec 8
  /-- `c.tinfo` value (11 R250). Reset: no trap. -/
  info : DWord
  /-- Lanes that raised the cause (11 R250). Reset: no trap. -/
  mask : Mask
  /-- Lanes that did not perform the word (11 R256). Reset: no trap. -/
  redo : Mask
  /-- Word index in the block (11 R250). Reset: no trap. -/
  word : Nat
  /-- Split slot, 0 or 1 (11 R250). Reset: no trap. -/
  slot : Nat
  /-- The trapped word is the second of a pair (11 R250). Reset: no trap. -/
  second : Bool
  /-- The trapped word is the first of a pair (11 R260). Reset: no trap. -/
  first : Bool
  /-- Vector registers it left empty (11 R260). Reset: no trap. -/
  empties : List Nat
  /-- The other split's word of the same cycle has not ended, and may still raise a trap (11 R255, R257). Reset: no trap. -/
  twin : Bool
deriving DecidableEq, Repr

/-- What the device remembers of the trap whose handler runs (11 R256, R259, R260). -/
structure TrapCtx where
  /-- It was a lane trap (11 R260). Reset: no handler runs. -/
  lane : Bool
  /-- Number of the lane trap, and the trapped word (11 R260). Reset: no handler runs. -/
  id : Nat
  word : Nat
  /-- The `c.tredo` value the device wrote (11 R256). Reset: no handler runs. -/
  allowed : Mask
  /-- The trapped word was the first of a pair (11 R260). Reset: no handler runs. -/
  first : Bool
  /-- The trapped word was the second of a pair (11 R260). Reset: no handler runs. -/
  second : Bool
  /-- Vector registers the trapped word left empty (11 R260). Reset: no handler runs. -/
  empties : List Nat
  /-- Scalar registers the trapped instruction left empty (11 R259). Reset: no handler runs. -/
  sempties : List SNum
deriving DecidableEq, Repr

/-- What a scalar stream waits for after an instruction that has issued (05 R133, Table 5-10). -/
inductive Wait where
  /-- nothing -/
  | none
  /-- SUSP: counter, target, continuation, and whether a watch entry is held (R134, R311) -/
  | susp (ea target : DWord) (cont : BitVec 57) (entry : Bool)
  /-- JOIN: counter, target, status address, destination, watch entry (R140, R391) -/
  | join (ea target stat : DWord) (d : SNum) (entry : Bool)
  /-- SLEEPU until the cycle (R312) -/
  | sleep (till : DWord)
  /-- LAUNCH stalled at a limit of R92: the record's address, completion counter and status address (04 R92, 03 R54) -/
  | launch (a ccnt stat : DWord)
  /-- a control stream that has ended, whose status word (kind, cause) is not yet written (03 R58) -/
  | ending (kind cause : Nat)
deriving DecidableEq, Repr

/-- Where a late result goes (05 R115, R116). -/
inductive Dest where
  | none
  /-- one scalar register -/
  | sreg (d : SNum)
  /-- two scalar registers, ECRD (R378) -/
  | spair (d : SNum)
  /-- consecutive vector registers from `base`, one per word -/
  | vec (base : Nat)
  /-- a declared s16 to s31 of a lane word (R120) -/
  | laneS (i : Fin 16)
deriving DecidableEq, Repr

/-- The lane word that asked for a result (11 R250, R256); a scalar instruction leaves it all 0. -/
structure Origin where
  /-- Word index in the block (11 R250). Reset: none outstanding. -/
  word : Nat
  /-- Split slot (11 R250). Reset: none outstanding. -/
  slot : Nat
  /-- The block, by its entry's `id` (model's own). Reset: none outstanding. -/
  blk : Nat
  /-- Effective lanes of its split at the word (11 R256). Reset: none outstanding. -/
  eff : Mask
  /-- The word is the first of a pair (11 R260). Reset: none outstanding. -/
  first : Bool
  /-- The word is the second of a pair (11 R250). Reset: none outstanding. -/
  second : Bool
deriving DecidableEq, Repr

/-- What a memory request does at each lane (15 R339). -/
inductive MemKind where
  | load
  | store
  /-- atomic, with the op of R277 and whether it is 8 bytes wide -/
  | atomic (op : BitVec 4) (wide : Bool)
  /-- ATOMAGG (R346) -/
  | agg (op : BitVec 4)
  /-- STREF: `addr` is the container's header, the word offset and the reference are `data`, or `x` and `y` (08 R207) -/
  | ref
  /-- the loop of a TLDA (15 R348) -/
  | tile
  /-- a COPY or COPYM whose extension's page has no translation: `addr` is the extension (16 R361) -/
  | command (i : Instr)
  /-- the rows of an MOUT whose page has no translation, from `addr` on (16 R372) -/
  | rows
deriving DecidableEq, Repr

/-- A memory request with its captured operands: the contents of an operand-log entry (07 R191), and of an atomic on its way to its home (08 R200). A scalar request uses lane 0. -/
structure MemReq where
  /-- Links it to its `Outst` (model's own). Reset: no request. -/
  id : Nat
  /-- The issuer (07 R191). Reset: no request. -/
  party : Party
  /-- What it does (07 R191). Reset: no request. -/
  kind : MemKind
  /-- It is a lane word's (07 R191). Reset: no request. -/
  lane : Bool
  /-- Width code of R287 (lane) or sz (scalar). Reset: no request. -/
  width : BitVec 3
  /-- Bytes of the access per lane (13 R299, 15 R343). Reset: no request. -/
  bytes : Nat
  /-- Lanes still to be performed (07 R191). Reset: no request. -/
  lanes : Mask
  /-- Virtual address of each lane (15 R287). Reset: no request. -/
  addr : Vector DWord 32
  /-- Physical address of each lane, as translated (07 R188). Reset: no request. -/
  pa : Vector Nat 32
  /-- The peer whose memory each lane names (02 R38). Reset: no request. -/
  peer : Vector (Option (BitVec 12)) 32
  /-- Store data, one vector per register, with bounds (07 R191). Reset: no request. -/
  data : List (Vector LaneVal 32)
  /-- First operand of a scalar atomic (13 R303). Reset: no request. -/
  x : DWord
  /-- New value of a compare-and-swap (13 R303). Reset: no request. -/
  y : DWord
  /-- Cache hint (15 R342). Reset: no request. -/
  hint : BitVec 2
  /-- Acquire at the scope when it completes (08 R198). Reset: no request. -/
  acq : Option (BitVec 2)
  /-- Scope and order code, as a request to a peer carries them (02 Table 2-3 `ord`). Reset: no request. -/
  ord : BitVec 8
  /-- Captured registers of a command: its parameter block, then its mask (07 R191). Reset: no request. -/
  ops : List DWord
deriving DecidableEq, Repr

/-- A load or atomic result on its way (05 R115, R116; 11 R243): not spec-named as a register, it is the emptiness of the destination. -/
structure Outst where
  /-- Number that ties it to its log entry or atomic in flight (model's own; 07 R191). Reset: none outstanding. -/
  id : Nat
  /-- Destination (05 R115). Reset: none outstanding. -/
  dest : Dest
  /-- A lane word asked for it (11 R254, R255). Reset: none outstanding. -/
  lane : Bool
  /-- Lanes performed (05 R116). Reset: none outstanding. -/
  lanes : Mask
  /-- Scalar result (05 R115). Reset: none outstanding. -/
  sval : DWord
  /-- Second scalar result, ECRD (16 R378). Reset: none outstanding. -/
  sval2 : DWord
  /-- Lane results, one vector per register (15 R343). Reset: none outstanding. -/
  words : List (Vector LaneVal 32)
  /-- `alw` and format for the check on arrival (10 R243), with the word and split slot that issued it. Reset: none outstanding. -/
  check : Option (DWord × Word)
  /-- The issuing stream ran its trap handler, or the issuing block was a trap block (11 R258). Reset: none outstanding. -/
  inh : Bool
  /-- Word index, split slot and block of the issuing lane word (11 R250). Reset: none outstanding. -/
  origin : Origin
  /-- The scalar pc of the issuing instruction (11 R254). Reset: none outstanding. -/
  pc : BitVec 57
  /-- Physical address of poison consumed (11 R261). Reset: none outstanding. -/
  poison : Option Nat
  /-- RMTERR information of a failed remote atomic, and its lanes (02 R45). Reset: none outstanding. -/
  rmt : Option (DWord × Mask)
  /-- Cause, information and lanes of a check that failed when a logged STREF or command was performed (07 R192, 08 R207). Reset: none outstanding. -/
  fault : Option (BitVec 8 × DWord × Mask)
  /-- Failure predicate of a TLDA, and whether its loop failed (15 R348). Reset: none outstanding. -/
  pred : Option (Nat × Bool)
  /-- Lanes whose value is unpredictable, so that no check is made on it (00 R7, 05 R128). Reset: none outstanding. -/
  free : Mask
deriving DecidableEq, Repr

/-- A rendezvous a group waits at (05 R130, 16 R379, R380). -/
inductive Rdv where
  | bar
  | cbar
  | cbarL
  | regather (key : Fin 112)
deriving DecidableEq, Repr

/-- A sequencer command that stopped and whose trap the matching MWAIT raises (16 R370). -/
structure SeqFault where
  /-- Order of issue of the command (16 R370). Reset: none. -/
  id : Nat
  slot : Nat
  cause : BitVec 8
  info : DWord
deriving DecidableEq, Repr

/-- The loop of a TLDA that is being performed (08 R205, 15 R348): one phase after another, the reads of a peer's memory by messages. -/
structure TileTry where
  /-- Its loads: of the elements, and of the version word, which both carry the number of its result (07 R191). Reset: none. -/
  q : MemReq
  qv : MemReq
  /-- Attempts that have failed (15 R348). Reset: none. -/
  fails : Nat
  /-- The even version that this attempt has read (08 R205). Reset: none. -/
  v1 : Option DWord
  /-- The words this attempt has read, and those of the last attempt that read any (08 R205). Reset: none. -/
  words : Option (List (Vector LaneVal 32))
  last : Option (List (Vector LaneVal 32))
  /-- Poison that a read consumed (03 R81). Reset: none. -/
  poison : Option Nat
  /-- Sectors that peers have sent for the phase, by virtual sector number (02 R43). Reset: none. -/
  got : List (Nat × Sector × Vector Bound 16)
deriving DecidableEq, Repr

/-- Registers, by number with their lanes, and 32-bit words of scratch, by 2097152 × core + word, that a group has written (08 R204). -/
structure Touched where
  /-- Lanes written of each register (08 R204). Reset: none. -/
  regs : KMap Mask
  /-- Words of scratch written (08 R204). Reset: none. -/
  words : List Nat
deriving DecidableEq, Repr

/-- The state of a group, Table 5-2 with the trap registers of Table 11-1; a control stream uses its scalar part (03 R55). -/
structure Group where
  /-- The group slot is in use (04 R98). Reset: 0, no team (R75). -/
  used : Bool
  /-- The group has ended by GEND (05 R141). Reset: 0. -/
  ended : Bool
  /-- Group slot of the core, 0 to 15 (04 R98, 16 R396). Reset: 0. -/
  slotNo : Fin 16
  /-- s0 to s63, 64 bits each with full/empty; s0 reads as 0 (05 R114). Reset: 0, full (R75, R85). -/
  sregs : Vector SReg 64
  /-- Scalar program counter, 57 bits (05 R114). Reset: 0. -/
  pc : BitVec 57
  /-- `c.fe`, 64 bits (05 R115 Table 5-3). Reset: 0 (R75). -/
  fe : DWord
  /-- `c.fstat`, 64 bits (02 R46 Table 2-6). Reset: 0 (R75). -/
  fstat : DWord
  /-- `gstat`, 64 bits (05 R117 Table 5-5). Reset: 0 (R85). -/
  gstat : DWord
  /-- `alw`, the allowance of the scalar stream, 64 bits (10 R237). Reset: 0 (R75); the launch ceiling at team start (R85). -/
  alw : DWord
  /-- Format register of the scalar stream, 32 bits (09 R212). Reset: 0 (R85). -/
  fmt : Word
  /-- `c.tvec`, 64 bits (11 R250). Reset: 0 (R75); the record's `tvec` at start (R85). -/
  tvec : DWord
  /-- `c.tcause`, 64 bits; [12] is `inh` (11 R250). Reset: 0 (R75). -/
  tcause : DWord
  /-- `c.tinfo`, 64 bits (11 R250). Reset: 0 (R75). -/
  tinfo : DWord
  /-- `c.tmask`, [31:0] (11 R250). Reset: 0 (R75). -/
  tmask : DWord
  /-- `c.tredo`, [31:0] (11 R250). Reset: 0 (R75). -/
  tredo : DWord
  /-- `c.tret`, [56:2] (11 R250). Reset: 0 (R75). -/
  tret : DWord
  /-- The trap whose handler runs (11 R260). Reset: none. -/
  trap : Option TrapCtx
  /-- Lane traps raised and not delivered, slot 0's first: the next to be delivered and one pending (11 R255, R257). Reset: none. -/
  laneTraps : List LaneTrap
  /-- OVFQ informations waiting for a boundary, oldest first (05 R138, 11 R258). Reset: none. -/
  ovfq : List DWord
  /-- Registers per group, 16 to 112 (04 R82). Reset: 0. -/
  nreg : Nat
  /-- v0 to v111; only the first `nreg` exist (05 R114). Reset: value 0, bound exact, full (R85). -/
  vregs : Vector VReg 112
  /-- p0 to p6, one bit per lane (05 R114). Reset: false (R85). -/
  preds : Vector Mask 7
  /-- g0 to g3, 2 bits each; g0 is always 0 (05 R114, R129). Reset: 0 (R85). -/
  pleats : Vector (BitVec 2) 4
  /-- e0 to e7, 32 bits per lane (05 R114, 09 R222). Reset: 0 (R85). -/
  resid : Vector (Vector Word 32) 8
  /-- Live-lane mask, `c.live` (05 R124). Reset: 0 (no team); all ones at team start (R113). -/
  live : Mask
  /-- Finished-lane mask of the running block (05 R124). Reset: 0. -/
  fin : Mask
  /-- Finished-lane mask of the held block (05 R124, 11 R259). Reset: 0. -/
  heldFin : Mask
  /-- vtid of the thread in each slot, 9 bits (05 R113). Reset: 0. -/
  vtids : Vector (BitVec 9) 32
  /-- The spool, up to 16 entries, oldest first; the running block keeps its place (05 R118, R119). Reset: empty (R85). -/
  spool : List SpoolEntry
  /-- Trap-block queue, up to 4 (13 R306, 11 R259). Reset: empty. -/
  trapq : List SpoolEntry
  /-- The running block (05 R119). Reset: none. -/
  block : Option Block
  /-- The block held while a trap block runs (11 R259). Reset: none. -/
  held : Option Block
  /-- Scalar fetch buffer: virtual sector number and sector; 1 where ICINV ran over it, 2 while it is used once more (16 R394). Reset: empty. -/
  sfetch : Option (Nat × Sector × Nat)
  /-- Lane fetch buffer, up to four sectors, each with a mark that ICINV ran over it (16 R394). Reset: empty. -/
  lfetch : List (Nat × Sector × Bool)
  /-- `c.cbstall`, 64 bits (06 R158). Reset: 0 (R75). -/
  cbstall : DWord
  /-- `c.wrstall`, 64 bits (06 R160). Reset: 0 (R75). -/
  wrstall : DWord
  /-- `c.pairser`, 64 bits (12 R289). Reset: 0 (R75). -/
  pairser : DWord
  /-- What the scalar stream waits for (05 R133). Reset: nothing. -/
  wait : Wait
  /-- Cycle at which the PAUSE demotion ends (13 R310). Reset: 0. -/
  demoteEnd : DWord
  /-- Cycle from which a wait without a watch entry reads its counter again (05 R134). Reset: 0. -/
  pollAt : DWord
  /-- Ready token, with what the group has written since it set it and no later token watches (16 R369, 08 R204). Reset: clear. -/
  ready : Option Touched
  /-- What the group has written since it last set a token, while a loop may still read it: a write that races leaves its rows unpredictable (08 R204). Reset: nothing watched. -/
  watched : Option Touched
  /-- TLDA loops in progress (15 R348). Reset: none. -/
  tiles : List TileTry
  /-- Sectors of headers that peers have sent for an STREF or LDHDR, by virtual sector number, with their metadata, or the RMTERR of one that could not be read (08 R207, 16 R389). Reset: none. -/
  hdrs : List (Nat × Sector × DWord × Option DWord)
  /-- The rendezvous at which the group has arrived (05 R130, 16 R379). Reset: none. -/
  rdv : Option Rdv
  /-- Loads and atomics whose results have not arrived (05 R115, R116). Reset: none. -/
  outst : List Outst
  /-- Stopped sequencer commands not yet reported by MWAIT (16 R370). Reset: none. -/
  seqFaults : List SeqFault
  /-- A page the host refused to the stream at an instruction that had not issued (13 R292, 04 R83). Reset: none. -/
  refused : Option Nat
  /-- Fence LINKDN pending: bits found set by a system fence (02 R47). Reset: 0. -/
  lost : BitVec 16
  /-- Cycle of a SLEEPU wake whose checks are not finished: those after an XLATE of R187 (07 R186, 13 R312). Reset: none. -/
  wakeAt : Option DWord
  /-- An acquire at device or system scope completes once the die's invalidation log holds no entry numbered below this (07 R190). Reset: 0. -/
  invalTill : Nat
deriving DecidableEq, Repr

/-! ### Memory requests -/

/-- An operand-log entry (07 R191): the request, and the lanes whose pages the host refused. -/
structure LogEntry where
  /-- Encoding, operands and remaining lanes (07 R191). Reset: log empty. -/
  req : MemReq
  /-- Lanes whose page was refused, reported when every page is answered (07 R192). Reset: log empty. -/
  refused : Mask
  /-- Position of a lane word, for its trap (11 R250). Reset: log empty. -/
  origin : Origin
  /-- Scalar pc of the instruction, and whether its stream ran a handler (11 R254, R258). Reset: log empty. -/
  pc : BitVec 57
  inh : Bool
deriving DecidableEq, Repr

/-- A store to one sector (07 R170, R177): byte mask, data, the bound of each 32-bit word, the 8-byte words last written by STREF (R179), and whether it is MKOBJ's header write (R206). -/
structure SecStore where
  mask : BitVec 64
  data : Sector
  bnds : Vector Bound 16
  tset : BitVec 8
  hset : Bool
deriving DecidableEq, Repr

/-- A coalescing-buffer entry (07 R170): one sector, with the stores it has merged byte by byte. -/
structure CbEntry where
  /-- Address space (07 R169). Reset: buffer empty. -/
  pasid : BitVec 20
  /-- Virtual sector number (07 R170). Reset: buffer empty. -/
  va : Nat
  /-- Physical sector number (07 R188). Reset: buffer empty. -/
  pa : Nat
  /-- Peer, when the sector lies in a peer's memory (02 R38). Reset: buffer empty. -/
  peer : Option (BitVec 12)
  /-- The merged stores (07 R170). Reset: buffer empty. -/
  store : SecStore
  /-- The parties whose stores it holds (02 R46, R47). Reset: buffer empty. -/
  by_ : List Party
deriving DecidableEq, Repr

/-- A valid L1 data sector (07 R169): tag (context number and virtual sector, whose line is `va / 4`), data, the bound of each word, and state W or V. -/
structure L1Sector where
  ctx : Nat
  va : Nat
  data : Sector
  bnds : Vector Bound 16
  dirty : Bool
  /-- In which order it is evicted: 0 last, 1 by age, 2 first (15 R342). -/
  rank : Nat
deriving DecidableEq, Repr

/-- A sector of an instruction cache (07 R171, 16 R394). -/
structure CodeSector where
  pasid : BitVec 20
  va : Nat
  data : Sector
deriving DecidableEq, Repr

/-! ### Engines of a core -/

/-- What a copy does (16 R361, R363, R375). -/
inductive CopyKind where
  | copy
  /-- multicast into the scratch of the members -/
  | multi (mask : BitVec 12)
  /-- multicast to the peers that the partition entries named at issue -/
  | peers (devs : List (BitVec 12))
  /-- WLOAD: offset in 64-byte units and columns minus one -/
  | wload (off nm1 : Nat)
deriving DecidableEq, Repr

/-- A queued copy (07 R183, 16 R361). -/
structure Copy where
  /-- Order of issue (16 R364). Reset: queue empty. -/
  id : Nat
  /-- Issuing team and group (07 R183). Reset: queue empty. -/
  team : Nat
  gid : Fin 16
  /-- The command (16 R361). Reset: queue empty. -/
  kind : CopyKind
  /-- Source and destination addresses and spaces (16 Table 16-2). Reset: queue empty. -/
  sadr : Int
  dadr : Int
  sspc : Bool
  dspc : Bool
  /-- Counts of the four dimensions (16 Table 16-2, 16-3). Reset: queue empty. -/
  xlen : Nat
  ny : Nat
  nz : Nat
  nw : Nat
  /-- Strides of y, z and w at the source and the destination (16 Table 16-2, 16-3). Reset: queue empty. -/
  sstr : Int
  dstr : Int
  szs : Int
  dzs : Int
  sws : Int
  dws : Int
  /-- Event counter and the scope of its release (16 R361). Reset: queue empty. -/
  ev : Option (DWord × BitVec 2)
  /-- Promised cycle (07 R185). Reset: queue empty. -/
  promise : DWord
  /-- Its bytes/rate term, counted in the promises of later copies (07 R185). Reset: queue empty. -/
  term : Nat
  /-- Bytes already moved, in row-major order (07 R183). Reset: queue empty. -/
  pos : Nat
  /-- Peers whose replica has no response yet (02 R50). Reset: queue empty. -/
  waiting : List (BitVec 12)
  /-- Cause and information of a copy that stopped (07 R187). Reset: queue empty. -/
  stopped : Option (BitVec 8 × DWord)
  /-- Issued before a save of the team, so MISSP never fires (05 R142). Reset: queue empty. -/
  resumed : Bool
  /-- It met a translation that had to be fetched, a retraining or a refusal, so its promise does not bound it (07 R185). Reset: queue empty. -/
  unbound : Bool
  /-- The first replica of a multicast to peers that was not delivered: cause and information, for the CWAIT (16 R363). Reset: queue empty. -/
  failed : Option (BitVec 8 × DWord)
deriving DecidableEq, Repr

/-- The parameters of a matrix loop (16 R366, R368), captured at issue. -/
structure LoopParams where
  m : Nat
  n : Nat
  sp : Bool
  tag : Option (BitVec 12)
  asrcReg : Bool
  kn : Nat
  abase : Nat
  astride : Nat
  vbase : Nat
  ga : Fin 16
  gb : Fin 16
  ascl : Nat
  cmask : BitVec 16
  bimg : DWord
  bstride : Nat
  tbl : DWord
  evoff : Nat
deriving DecidableEq, Repr

/-- The parameters of an MOUT (16 R372), captured at issue. -/
structure MoutParams where
  m : Nat
  n : Nat
  ofmt : BitVec 4
  rnd : BitVec 3
  sat : Bool
  aon : Bool
  sc : BitVec 2
  dspc : Bool
  dadr : DWord
  rstr : Int
deriving DecidableEq, Repr

/-- A matrix sequencer command (16 R365). -/
inductive SeqKind where
  | loop (p : LoopParams)
  /-- a share of the gang -/
  | share (gang : Nat) (p : LoopParams)
  | zero
  | mout (p : MoutParams)
deriving DecidableEq, Repr

/-- A queued or running sequencer command (16 R365, R367). -/
structure SeqCmd where
  /-- Order of issue (16 R370). Reset: queue empty. -/
  id : Nat
  /-- Issuing party's team and group; a share names the issuing group (06 R163). Reset: queue empty. -/
  team : Nat
  gid : Fin 16
  /-- The team whose core performs it (06 R163). Reset: queue empty. -/
  onTeam : Nat
  /-- Accumulator slot number of the team (06 R147). Reset: queue empty. -/
  slot : Nat
  /-- The command (16 R365). Reset: queue empty. -/
  kind : SeqKind
  /-- Format register and `alw` of the issuing group at issue (06 R163, 10 R237). Reset: queue empty. -/
  fmt : Word
  alw : DWord
  /-- It has started (16 R365). Reset: queue empty. -/
  started : Bool
  /-- The directory entry it hit, decided at start (16 R367). Reset: queue empty. -/
  hit : Option DWord
  /-- Next K-step (16 R367). Reset: queue empty. -/
  step : Nat
  /-- Codebook tables that have arrived, by block (06 R158). Reset: queue empty. -/
  tables : KMap (List Byte)
  /-- The cycle since which it stalls at a late table; of a team that is halted the cycles stalled so far (06 R158, R165). Reset: queue empty. -/
  tableStall : Option Nat
  /-- The core's cycles at which its stall at a busy bank began and at which the bank will be free, while it is stalled (06 R160). Reset: queue empty. -/
  bankStall : Option (Nat × Nat)
  /-- The groups whose tokens the loop took, by gid, with what each wrote before it set its next token (08 R204). Reset: queue empty. -/
  snaps : KMap Touched
  /-- Positions of A that its steps have read (08 R204). Reset: queue empty. -/
  reads : List Nat
  /-- Of a share whose gang is complete: the groups of its team that have acquired at cluster scope or wider since (19 R406). Reset: queue empty. -/
  seen : List Nat
  /-- The odd version that an all-or-nothing MOUT has made (08 R205). Reset: queue empty. -/
  locked : Option DWord
  /-- Rows of an MOUT already stored (16 R372). Reset: queue empty. -/
  rows : Nat
  /-- The tile an MOUT read at the head of the sequencer (16 R365). Reset: queue empty. -/
  tile : List (List LaneVal)
deriving DecidableEq, Repr

/-- A message of the overflow queue (05 R138): place, receiving team, length, source, die bit, tag. -/
structure QMsg where
  place : Nat
  team : Nat
  len : Nat
  src : Nat
  dieBit : Bool
  tag : BitVec 16
deriving DecidableEq, Repr

/-- A posted receive (05 R136). -/
structure Posted where
  team : Nat
  src : BitVec 4
  tag : BitVec 16
  buf : Nat
  ctr : Nat
deriving DecidableEq, Repr

/-- A core (06): everything that belongs to the core and not to one of its groups. -/
structure Core where
  /-- Offset of `c.cyc` from the device's cycle count, 64 bits (00 R4). Reset: 0. -/
  cycOff : DWord
  /-- Scratch, 512 KiB: a team's bytes from its `scrBase` on, the overflow places at 480 KiB (07 R166, 05 R138; log 40). Reset: 0 (R75). -/
  scratch : List Host.Cell
  /-- Sector metadata of scratch, 64 bits per sector (07 R175). Reset: 0 (R75). -/
  scrMeta : KMap DWord
  /-- Accumulator memory: word 4096 × slot + 64 × row + column, 32 bits (06 R147). Reset: 0 (R75). -/
  acc : KMap Word
  /-- Row bounds: 64 × slot + row, B16 (06 R147). Reset: 0 (R75). -/
  accBnd : KMap Bound
  /-- L1 data cache: the valid sectors of at most 512 lines, newest first (07 R169). Reset: empty. -/
  l1 : List L1Sector
  /-- Scalar instruction cache (07 R171). Reset: empty. -/
  icS : List CodeSector
  /-- Lane instruction cache (07 R171). Reset: empty. -/
  icL : List CodeSector
  /-- Coalescing buffer, at most 64 entries (07 R170). Reset: empty. -/
  cbuf : List CbEntry
  /-- Core TLB, at most 256 entries (07 R188). Reset: empty. -/
  tlb : List Trans
  /-- Operand log, at most 32 entries (07 R191). Reset: empty. -/
  olog : List LogEntry
  /-- Copy engine queue, at most 32 (07 R183). Reset: empty. -/
  copies : List Copy
  /-- Matrix sequencer queue, at most 16 (16 R365). Reset: empty. -/
  seq : List SeqCmd
  /-- Loops, shares and MZEROs that have completed and whose MWAIT has not (08 R204: until then the slot is unpredictable to others). Reset: none. -/
  past : List SeqCmd
  /-- Weight directory, 64 entries of 64 bits (06 R153). Reset: 0, invalid (R75). -/
  wdir : KMap DWord
  /-- Weight store, 24 MiB: byte 393216 × slice + offset (06 R152, R153). Reset: 0 (R75). -/
  wstore : List Host.Cell
  /-- Poisoned 64-byte units of the weight store, by number (06 R162). Reset: none. -/
  wpoison : List Nat
  /-- `c.wrsched`, 64 bits (06 R160). Reset: 0 (R160). -/
  wrsched : DWord
  /-- Cycle at which the last RFSH completes (06 R161). Reset: none. -/
  rfshEnd : Option DWord
  /-- Cycle of the last scrub of each bank by automatic refresh (06 R162). Reset: 0. -/
  scrubbed : KMap Nat
  /-- Corrected errors that scrub has written back and counted (06 R162). Reset: 0. -/
  wcorrected : Nat
  /-- The weight-phase grid the core belongs to (04 R102). Reset: none. -/
  wphase : Option Nat
  /-- Overflow queue's message table, 128 entries, oldest first (05 R138). Reset: empty. -/
  msgq : List QMsg
  /-- Posted receives, at most 64, oldest first (05 R136). Reset: empty. -/
  posted : List Posted
  /-- Stores drained and errors: a pre-emption halt request is outstanding for these teams (04 R107). Reset: none. -/
  haltReq : List Nat
deriving DecidableEq, Repr

/-! ### Teams, grids, contexts -/

/-- Where a team is in its life (04 R98, R107, R108). -/
inductive TeamState where
  | running
  | saving
  | saved
  | ended
deriving DecidableEq, Repr

/-- A team (05 R113, 04 R85). -/
structure Team where
  /-- Running, saving, saved or ended (04 R107). Reset: no team. -/
  life : TeamState
  /-- Handle of its grid (04 R82). Reset: no team. -/
  grid : Nat
  /-- Linear team number (04 R84). Reset: no team. -/
  t : Nat
  /-- Core in package (01 R15). Reset: no team. -/
  core : Nat
  /-- Where its scratch begins in `Core.scratch`: each team of a core has a range of 512 KiB of its own there (04 R98; log 40). Reset: no team. -/
  scrBase : Nat
  /-- Physical accumulator slots of its slots 0 to nacc − 1 (06 R147). Reset: no team. -/
  accMap : List Nat
  /-- Core-in-cluster number (04 R84). Reset: no team. -/
  cc : Nat
  /-- It lies in the far half of a straddled cluster (04 R101). Reset: no team. -/
  far : Bool
  /-- Handles of the cluster's teams by core-in-cluster number (04 R84). Reset: no team. -/
  cluster : List Nat
  /-- Its groups (05 R114). Reset: no team. -/
  groups : Vector Group 16
  /-- Remap table, 512 entries of 10 bits (05 R132). Reset: no team. -/
  remap : KMap (BitVec 10)
  /-- A group has won ELECT since the last rendezvous (16 R382). Reset: no team. -/
  elected : Bool
  /-- Gang token (16 R369): the group that set it, with what it has written since and no later token watches (08 R204). Reset: no team. -/
  gangToken : Option (Fin 16 × Touched)
  /-- Save slot of a saved team, and the order of saving (11 R264). Reset: no team. -/
  saveSlot : Nat
  saveSeq : Nat
  /-- State byte of its directory entry, 0 where it has none (11 Table 11-6). Reset: no team. -/
  dirState : Nat
  /-- Saved by a swap and not by a pre-emption (11 Table 11-6). Reset: no team. -/
  swapped : Bool
  /-- Its scratch, its metadata, accumulators, engine work and messages while it is saved (11 R264 Table 11-7). Reset: no team. -/
  image : Option Core
  /-- When it was placed last, counted as `State.moment` is (04 R110). Reset: no team. -/
  since : Nat
  /-- When it was started (04 R106). Reset: no team. -/
  started : Nat
  /-- When it was saved last (04 R108). Reset: no team. -/
  savedAt : Nat
deriving DecidableEq, Repr

/-- How a grid ended or will end (04 R87). -/
inductive GridEnd where
  | running
  | faulted (cause : BitVec 8)
  | killed
deriving DecidableEq, Repr

/-- A launched grid (04 R82, R87). -/
structure Grid where
  /-- Context (04 R82). Reset: no grid. -/
  ctx : BitVec 8
  /-- Address of the launch record (11 Table 11-6). Reset: no grid. -/
  recAddr : DWord
  /-- Fields of the launch record (04 Table 4-1). Reset: no grid. -/
  gx : Nat
  gy : Nat
  gz : Nat
  cfg : DWord
  sentry : DWord
  lentry : DWord
  arg : DWord
  alw : DWord
  ccnt : DWord
  stat : DWord
  tvec : DWord
  deps : List (DWord × Nat)
  /-- Dependences not met yet, by index (04 R91, R92). Reset: no grid. -/
  unmet : List Nat
  /-- Handed to the distributors (04 R92). Reset: no grid. -/
  handed : Bool
  /-- Clusters left to dispense per die, as ranges (first, count), lowest first (04 R93, R94). Reset: no grid. -/
  ranges : KMap (List (Nat × Nat))
  /-- Count each distributor last reported (04 R94). Reset: no grid. -/
  reported : KMap Nat
  /-- Teams that have ended normally, and by a fatal trap (04 R87, R88). Reset: no grid. -/
  done : Nat
  nfail : Nat
  /-- First fatal cause or kill (04 R87, R89). Reset: no grid. -/
  fate : GridEnd
  /-- It ran no team because it was refused (04 R88). Reset: no grid. -/
  refused : Bool
  /-- Some team did not end by GEND in all its groups (04 R88). Reset: no grid. -/
  incomplete : Bool
  /-- Its status word and counter have been written (04 R88). Reset: no grid. -/
  closed : Bool
  /-- Bytes on seams and Tirsol links in the last 10 µs (04 R97). Reset: no grid. -/
  seamBytes : Nat
  tirsBytes : Nat
  /-- Bytes on seams and Tirsol links since the last exchange (01 R13, 04 R97). Reset: no grid. -/
  seamAcc : Nat
  tirsAcc : Nat
  /-- Bytes on seams and on Tirsol links at each exchange of the last 10 µs, with its moment (04 R97). Reset: no grid. -/
  traffic : List (Nat × Nat × Nat)
  /-- Dies whose steal a victim answered empty since the last report (04 R94). Reset: no grid. -/
  turnedAway : List Nat
  /-- Its status word has been written or sent, and its counter not yet incremented (04 R88). Reset: no grid. -/
  statDone : Bool
deriving DecidableEq, Repr

/-- A write held while its context is set up (03 R53). -/
inductive HeldWrite where
  | strt (i : Fin 4) (a : DWord)
  | evadd (i : Fin 16) (v : DWord)
deriving DecidableEq, Repr

/-- A context window's registers and the context's device-side state (03 R51 Table 3-3). -/
structure Ctx where
  /-- `ctx.ctl` state: 0 disabled, 1 enabled, 2 killing, 3 setting up (03 R53). Reset: 0 (R76). -/
  state : Fin 4
  /-- `ctx.ctl.en` (03 R53). Reset: 0 (R76). -/
  en : Bool
  /-- `ctx.ctl.err`, 4 bits (03 Table 3-4). Reset: 0 (R76). -/
  err : BitVec 4
  /-- `ctx.pasid`, 20 bits (03 Table 3-3). Reset: 0 (R76). -/
  pasid : BitVec 20
  /-- `ctx.tenant`, 6 bits (03 Table 3-3). Reset: 0 (R76). -/
  tenant : BitVec 6
  /-- `ctx.prio`, 3 bits (03 Table 3-3). Reset: 0 (R76). -/
  prio : BitVec 3
  /-- `ctx.quantum`, 16 bits (03 Table 3-3). Reset: 0 (R76). -/
  quantum : BitVec 16
  /-- `ctx.save`, [56:12] (03 Table 3-3). Reset: 0 (R76). -/
  save : DWord
  /-- `ctx.evaddr[0..15]`, 64 bits (03 Table 3-3). Reset: 0 (R76). -/
  evaddr : Vector DWord 16
  /-- Writes held in state 3, oldest first (03 R53). Reset: none. -/
  heldWrites : List HeldWrite
  /-- Partition table, 64 entries of 16 bits: [11:0] device, [15] valid (03 R73, 16 R363). Reset: empty (R76). -/
  partition : KMap (BitVec 16)
  /-- Next save order number (11 Table 11-6). Reset: 0. -/
  saveSeq : Nat
  /-- 8 KiB pages that the host refused to the hub for a start record, a doorbell, a status word or a counter (03 R55, R60, 04 R88). Reset: none. -/
  refused : List Nat
  /-- Doorbells taken and not yet performed, oldest first: counter's address and value (03 R60). Reset: none. -/
  bells : List (Nat × DWord)
  /-- Starts of streams whose records have not been read, oldest first: stream and record's address (03 R55). Reset: none. -/
  starts : List (Fin 4 × DWord)
  /-- Sectors of a stream start record that a peer has sent: sector of the address, and its bytes if it could be read (03 R55). Reset: none. -/
  record : List (Nat × Option Sector)
deriving DecidableEq, Repr

/-- A control stream (03 R55): a scalar program on a slot of a control core. -/
structure Stream where
  /-- Context and stream number (03 R55). Reset: no stream. -/
  ctx : BitVec 8
  i : Fin 4
  /-- Control core and stream slot (03 R55, 16 R396). Reset: no stream. -/
  ccore : Nat
  slot : Nat
  /-- Its scalar registers, pc and trap registers (03 R55). Reset: no stream. -/
  g : Group
  /-- Status word and end counter addresses (03 Table 3-5). Reset: no stream. -/
  stat : DWord
  endc : DWord
  /-- Its status word has been written or sent, and its counter not yet incremented (03 R58). Reset: no stream. -/
  statDone : Bool
deriving DecidableEq, Repr

/-! ### Hub, dies, links -/

/-- A watch entry at a home (05 R134, 03 R59): the home (slice 0 to 575, or 576 the hub cache), who waits, the counter and its target, and whether a write has reached it. -/
structure Watch where
  home : Nat
  party : Party
  pa : Nat
  target : DWord
  hit : Bool
deriving DecidableEq, Repr

/-- An entry of the launch unit's dependence table (04 R92). -/
structure DepEntry where
  /-- Grid and number of the dependence (04 R91). Reset: table empty. -/
  grid : Nat
  index : Nat
  /-- Physical address of the counter (04 R92). Reset: table empty. -/
  pa : Nat
  /-- Target (04 R91). Reset: table empty. -/
  target : Nat
  /-- Its home has reported a write after which the counter had its target (04 R91, R92). Reset: table empty. -/
  met : Bool
deriving DecidableEq, Repr

/-- A message or message answer on the control network (05 R135). -/
structure Msg where
  /-- Sender (05 R135). Reset: none in flight. -/
  team : Nat
  gid : Fin 16
  /-- Destination register of the SEND or SENDM and the issue it belongs to (05 R135). Reset: none in flight. -/
  id : Nat
  /-- Receiver's core-in-cluster number (05 R135). Reset: none in flight. -/
  cc : Nat
  /-- Data and their length (05 R135). Reset: none in flight. -/
  data : List Byte
  /-- Tag (05 R135). Reset: none in flight. -/
  tag : BitVec 16
  /-- The answer, once the receiving core has given it: 0, 1 or 2 (05 R135). Reset: none in flight. -/
  status : Option Nat
  /-- It is a member of a SENDM (05 R138). Reset: none in flight. -/
  multi : Bool
deriving DecidableEq, Repr

/-- A publication walk (08 R208). -/
structure Walk where
  /-- Walk sequence number (08 R208). Reset: no walk. -/
  seq : Nat
  /-- Issuing party and destination's result number (08 R208). Reset: no walk. -/
  party : Party
  id : Nat
  pasid : BitVec 20
  /-- Scope, root store address, version counter (08 R208). Reset: no walk. -/
  sigma : Nat
  root : DWord
  rst : DWord
  ver : DWord
  /-- Objects still to be examined (08 R208). Reset: no walk. -/
  queue : List DWord
  /-- The object whose words are being read: its address, length, and next sector (08 R208). Reset: no walk. -/
  scan : Option (DWord × Nat × Nat)
  /-- Objects stamped (08 R208). Reset: no walk. -/
  n : Nat
  /-- Walks whose stamping it waits for: (walker, sequence) (08 R208). Reset: no walk. -/
  deps : List (Nat × Nat)
  /-- Stamping is done (08 R208). Reset: no walk. -/
  stamped : Bool
  /-- The host refused a page or MEMERR was met (08 R209). Reset: no walk. -/
  failed : Bool
  /-- The root store has been made, and the request that carries it to a peer: peer and sequence number (08 R208, 03 R65). Reset: no walk. -/
  rooted : Bool
  rootAt : Option (Nat × BitVec 24)
deriving DecidableEq, Repr

/-- A gang (06 R163, R164): its members, those whose share has completed, the counter offset, and what stopped. -/
structure Gang where
  team : Nat
  gid : Fin 16
  slot : Nat
  members : List Nat
  pending : List Nat
  evoff : Nat
  faults : List (BitVec 8 × DWord)
deriving DecidableEq, Repr

/-- A page request or translation request of a die that has no answer yet (07 R188, R191). -/
structure PageReq where
  pasid : BitVec 20
  page : Nat
  write : Bool
  /-- The ATS reply gave no permission, so the request is a PRI page request (07 R191). -/
  pri : Bool
  /-- The parties whose instruction or command asked for the page (07 R191). -/
  waiters : List Party
  /-- The launch unit or a host write needs it (03 R55, R60, 04 R83, R88). -/
  unit : Bool
deriving DecidableEq, Repr

/-- An invalidation-log entry (07 R190). -/
structure Inval where
  pasid : BitVec 20
  va : Nat
  size : Nat
  seq : Nat
  /-- Its translations and L1 sectors are removed: step 3 of applying it goes on (07 R190). -/
  removed : Bool
  /-- Requests on their way when they were removed: `Outst` ids, and requests to peers by device and sequence number (07 R190 step 3). -/
  ids : List Nat
  posted : List (Nat × BitVec 24)
deriving DecidableEq, Repr

/-- A compute die; index 6 of the table stands for the hub's own walker and translations. -/
structure Die where
  /-- Translation cache, at most 65,536 entries (07 R188). Reset: empty (R75). -/
  tcache : List Trans
  /-- Block TLBs by block number, at most 4096 entries each (07 R188). Reset: empty (R75). -/
  btlb : KMap (List Trans)
  /-- Requests without an answer (07 R191). Reset: none. -/
  reqs : List PageReq
  /-- Invalidation log, at most 4096 entries (07 R190). Reset: empty. -/
  invlog : List Inval
  /-- Expert counter pairs by tag: invocations and row-steps, 64 bits each (06 R156). Reset: 0 (R75). -/
  experts : KMap (DWord × DWord)
  /-- The walker's sequence number last used, 28 bits (08 R208). Reset: 0. -/
  walkSeq : Nat
  /-- Walks of the walker, at most 16 stamping (08 R209). Reset: none. -/
  walks : List Walk
  /-- The number after the grid of the distributor's last placement, by priority: the grids from there on come next in turn (04 R99). Reset: none. -/
  lastGrid : KMap Nat
  /-- The grids for which the distributor frees room by pre-emption or a swap, with the cores that their victims leave (04 R106, R110). Reset: none. -/
  claims : List (Nat × List Nat)
deriving DecidableEq, Repr

/-- A Tirsol port (02 R36, R37). -/
structure Port where
  /-- It trained at start (03 R62). Reset: trained, DESIGN CHOICE (log 1). -/
  trained : Bool
  /-- Retraining (02 R36). Reset: 0. -/
  retraining : Bool
  /-- Declared down (02 R37). Reset: 0. -/
  down : Bool
  /-- Sequence of the last flit received in order, `lack`, modulo 256 (02 R35). Reset: 0xFF, DESIGN CHOICE (log 2). -/
  lack : BitVec 8
  /-- Last link sequence sent (02 R35). Reset: 0xFF, DESIGN CHOICE (log 2). -/
  lseq : BitVec 8
  /-- Replay buffer, at most 128 flits, oldest first (02 R36). Reset: empty. -/
  replay : List Sector
  /-- Consecutive replays asked for without progress (02 R36). Reset: 0. -/
  replays : Nat
  /-- Consecutive replays made without progress (02 R36). Reset: 0. -/
  resent : Nat
  /-- Consecutive failed retrainings (02 R37). Reset: 0. -/
  failed : Nat
  /-- A replay has been asked for and not yet answered (02 R36). Reset: 0. -/
  asked : Bool
  /-- Flits discarded and counted for their type or length (02 R35). Reset: 0. -/
  discarded : Nat
  /-- Flits of requests received in order and not yet taken as a transaction (02 R39). Reset: empty. -/
  rx : List Sector
  /-- Flits waiting to be sent, oldest first: type and payload bytes 4 to 59 (02 R35, R36). Reset: empty. -/
  txq : List (Nat × List Byte)
  /-- Flits that the port has put on the link, newest last (02 R35). Reset: none. -/
  wire : List Sector
deriving DecidableEq, Repr

/-- A request of this device to a peer that has no response (02 R40, R42). -/
structure TSent where
  seq : BitVec 24
  /-- Read, write, posted write, atomic: the kind in Table 2-3 `op`. -/
  op : BitVec 8
  /-- The function of an atomic (Table 2-3 `op`). -/
  fn : BitVec 4
  /-- The header's `ord` and `opnd` fields (Table 2-3); a write's `opnd` is its byte mask. -/
  ord : BitVec 8
  opnd : BitVec 304
  pa : Nat
  /-- The coalescing entry, atomic or copy it comes from: the `Outst` id of an atomic or read. -/
  id : Nat
  /-- The core and the party it comes from; a posted write comes from the core's buffer. -/
  core : Nat
  party : Party
  /-- The parties whose writes it carries, or that wait for it; none once an acquire has made a read too old (02 R46, R47, 08 R199). -/
  by_ : List Party
  tries : Nat
  port : Nat
  /-- Virtual address of the sector a code or parameter read is for, and whether it is lane code (model's own). -/
  va : Nat
  lane : Bool
  /-- The bytes of a write, kept for a retransmission (R42). -/
  data : Option SecStore
  /-- The operands of a lane atomic for two lanes or more at one address: both words of each, and the bound that its op stores (15 R341). -/
  many : List (Word × Word × Bound)
deriving DecidableEq, Repr

/-- An entry of a home's window (02 R41): sequence number, status, and the saved response. -/
structure WinEntry where
  seq : BitVec 24
  status : BitVec 2
  applied : Bool
  data : List Byte
deriving DecidableEq, Repr

/-- A Tirsol peer (02 R38 to R48). -/
structure Peer where
  /-- Port set (02 R38, 03 R73). Reset: empty (R76). -/
  ports : BitVec 12
  /-- The peer is lost (02 R46). Reset: 0. -/
  lost : Bool
  /-- Next request sequence number (02 R38). Reset: 0 (R48). -/
  seqNext : BitVec 24
  /-- Every sequence up to this one has a response (02 Table 2-3 `ackt`). Reset: 2^24 − 1, DESIGN CHOICE (log 2). -/
  ackt : BitVec 24
  /-- Requests without a response, oldest first, at most 1024 (02 R40). Reset: none. -/
  sent : List TSent
  /-- Window for this source, at most 1024 entries (02 R41). Reset: empty (R48). -/
  window : List WinEntry
  /-- Highest acknowledged sequence received from the source (02 R41). Reset: none. -/
  acked : Option (BitVec 24)
deriving DecidableEq, Repr

/-- A seam's link-utilisation counters (01 R13, R14). -/
structure Seam where
  /-- It passed built-in test and was not lost (01 R14). Reset: up, DESIGN CHOICE (log 1). -/
  up : Bool
  /-- Retried flits (01 R13). Reset: 0. -/
  retried : Nat
  /-- Consecutive failed retries (01 R14). Reset: 0. -/
  failed : Nat
  /-- Carried bytes (01 R13). Reset: 0. -/
  carried : Nat
deriving DecidableEq, Repr

/-- A firmware image in a flash slot (03 R68). -/
structure FwImage where
  /-- Its contents, by a number of the model's (log 8). -/
  image : Nat
  /-- Its security version, 0 to 255. -/
  svn : BitVec 8
  /-- Its signature verifies against the fused root. -/
  good : Bool
  /-- Its raise-minimum flag. -/
  raise : Bool
deriving DecidableEq, Repr

/-- The physical world as the next start finds it (03 R75, R77; 01 R14, R26): what tests pass and which ports train. Not registers of the device. -/
structure Env where
  /-- The images of the trusted and of the untrusted firmware in the two flash slots, primary first (03 R68). Reset: good images of security version 0, DESIGN CHOICE (log 1). -/
  fw : Vector FwImage 2
  ufw : Vector FwImage 2
  /-- The hub passes built-in test (03 R77). Reset: 1, DESIGN CHOICE (log 1). -/
  hubOk : Bool
  /-- Dies that pass step 3 (03 R77). Reset: all, DESIGN CHOICE (log 1). -/
  dieOk : BitVec 6
  /-- Stacks that pass step 4 (03 R77). Reset: all, DESIGN CHOICE (log 1). -/
  stackOk : BitVec 18
  /-- A stack lies outside its stored temperature or voltage window, so that a warm start trains the stacks (03 Table 3-11). Reset: 0, DESIGN CHOICE (log 1). -/
  drifted : Bool
  /-- Slices that the built-in test takes out of service (01 R25). Reset: none, DESIGN CHOICE (log 1). -/
  sliceBad : List Nat
  /-- Horizontal seams that pass built-in test (01 R14). Reset: all, DESIGN CHOICE (log 1). -/
  seamOk : BitVec 4
  /-- Tirsol ports that train (03 R62). Reset: all, DESIGN CHOICE (log 1). -/
  tirsolOk : BitVec 12
  /-- CXL ports that train as a link of a host root port, and as a pool port (02 R31). Reset: port 0 host, ports 1 to 3 pool, DESIGN CHOICE (log 1). -/
  cxlHost : BitVec 4
  cxlPool : BitVec 4
  /-- Physical ranges of host memory and of pool memory: base and size (01 R16). Reset: 2^50 bytes each, from 2^51, DESIGN CHOICE (log 3). -/
  hostRanges : List (Nat × Nat)
  poolRanges : List (Nat × Nat)
  /-- Features the device implements (03 R62). Reset: bits 0 to 11, DESIGN CHOICE (log 1). -/
  implemented : BitVec 12
  /-- 64-byte units of weight stores that hold an uncorrectable error no scrub has found: core and unit (06 R162). Reset: none, DESIGN CHOICE (log 1). -/
  wfaults : List (Nat × Nat)
  /-- Units of weight stores that hold an error scrub corrects: core and unit (06 R162). Reset: none, DESIGN CHOICE (log 1). -/
  wsoft : List (Nat × Nat)
deriving DecidableEq, Repr

/-- The device page and the security core's retained state (03 R51 Table 3-1). -/
structure Dev where
  /-- `dev.status.state`, 4 bits (03 R52). Reset: 7 (R76). -/
  state : BitVec 4
  /-- `dev.status.dmap`, live compute dies (03 R52). Reset: all six, DESIGN CHOICE (log 1). -/
  dmap : BitVec 6
  /-- Live stacks, 18 bits; N of `dev.status.nstk` and `mp.nstk` is their number (03 R52, 01 R19). Reset: all eighteen, DESIGN CHOICE (log 1). -/
  stackMap : BitVec 18
  /-- `dev.status.wfail`, 2 bits (03 R78). Reset: 0 (R78). -/
  wfail : Nat
  /-- `dev.status.cfail`, 6 bits (03 R77). Reset: 0 (R78). -/
  cfail : BitVec 6
  /-- `dev.status.serr`, 8 bits (03 R52). Reset: 0, DESIGN CHOICE (log 4). -/
  serr : BitVec 8
  /-- Excluded dies (01 R26, 03 R77). Reset: none. -/
  excluded : BitVec 6
  /-- Readmission mask of the last write of `dev.ctl` that was not ignored (03 R77). Reset: 0, DESIGN CHOICE (log 4). -/
  readmit : BitVec 6
  /-- `dev.offer`, feature bits 0 to 11 (03 R62). Reset: all twelve, DESIGN CHOICE (log 1). -/
  offer : BitVec 12
  /-- `dev.accept_lo` as written, 64 bits (03 R63). Reset: 0 (R76). -/
  acceptLo : DWord
  /-- `dev.accept_hi` as written, 64 bits (03 R63). Reset: 0 (R76). -/
  acceptHi : DWord
  /-- Accepted feature vector (03 R63). Reset: 0 (R76). -/
  accepted : BitVec 12
  /-- `dev.mdcfg` as written, 4 bits (07 R182). Reset: 0, DESIGN CHOICE (log 4). -/
  mdcfg : BitVec 4
  /-- `dev.mdcfg` in effect (07 R182). Reset: 0, DESIGN CHOICE (log 4). -/
  mdcfgEff : BitVec 4
  /-- `dev.mdrgn[0..15]`, 64 bits (07 R181). Reset: 0 (R76). -/
  mdrgn : Vector DWord 16
  /-- `dev.erq_base`, 64 bits (03 R80). Reset: 0 (R76). -/
  erqBase : DWord
  /-- `dev.erq_size` (03 R80). Reset: 0 (R76). -/
  erqSize : DWord
  /-- `dev.erq_head` (03 R79). Reset: 0 (R76). -/
  erqHead : DWord
  /-- `dev.erq_tail` (03 R79). Reset: 0 (R76). -/
  erqTail : DWord
  /-- `dev.erdrop` (03 R79). Reset: 0 (R76). -/
  erdrop : Nat
  /-- The error ring is set (03 R80). Reset: 0 (R76). -/
  erqSet : Bool
  /-- Start buffer of records reported while the ring is unset, at most 64 (03 R80). Reset: empty. -/
  startBuf : List (List Byte)
  /-- Next error record number (03 Table 3-12). Reset: 0. -/
  recSeq : Nat
  /-- `State.moment` at step 1 of the last start, from which error records count their time (03 Table 3-12). Reset: 0. -/
  stepOne : Nat
  /-- `dev.att_nonce`, 64 bytes (03 R71). Reset: 0 (R76). -/
  attNonce : Vector DWord 8
  /-- `dev.att_addr` (03 R71). Reset: 0 (R76). -/
  attAddr : DWord
  /-- `dev.att_req` pending (03 R71). Reset: 0 (R76). -/
  attReq : Bool
  /-- `dev.mbox[0..7]` (03 R72). Reset: 0 (R76). -/
  mbox : Vector DWord 8
  /-- `dev.mbox_ext` pending (03 R72). Reset: 0 (R76). -/
  mboxExt : Bool
  /-- `dev.fwreq_data[0..31]` (03 R73). Reset: 0 (R76). -/
  fwData : Vector DWord 32
  /-- `dev.fwreq` pending (03 R73). Reset: 0 (R76). -/
  fwReq : Bool
  /-- `dev.fwrsp`[7:0] (03 R73). Reset: 0 (R76). -/
  fwRsp : BitVec 8
  /-- Measurement slots 0 to 7: the 64-byte digests extended into each since it was cleared, oldest first; its 64-byte value is their SHA-512 chain (03 R70). Reset: the digest of Table 3-9 in slots 0 to 5, none in 6 and 7 (R75, log 8). -/
  meas : Vector (List (List Byte)) 8
  /-- Fused minimum security version (03 R68). Reset: 0, DESIGN CHOICE (log 4). -/
  minSvn : BitVec 8
  /-- Firmware images that run: the trusted and the untrusted one (03 R68). Reset: the primary images of `Env` (log 1). -/
  trusted : FwImage
  untrusted : FwImage
  /-- The fused device secret, 66 bytes (03 R69). Reset: free bytes (log 8). -/
  secret : List Byte
  /-- Private half of the package identity key, derived from the secret alone, and its certificate in package flash (03 R69). Reset: free values of the secret (log 8). -/
  idKey : List Byte
  idCert : List Byte
  /-- Private half of the attestation key, derived at each start from the secret and measurement slot 0, and its certificate by the identity key (03 R69, R71). Reset: as the start derives them (log 8). -/
  attKey : List Byte
  attCert : List Byte
  /-- CXL IDE keys and debug enables, which only the security core writes (03 R66). Reset: none set, DESIGN CHOICE (log 4). -/
  ideKeys : List Byte
  debugEnables : List Byte
  /-- What the access filter of the management cores admits (03 R67). Reset: what R67 names. -/
  accessFilter : List MgmtTarget
  /-- The 64 MiB of hub SRAM of the management cores (03 R67). Reset: every byte 0, DESIGN CHOICE (log 4). -/
  sram : List Host.Cell
  /-- What reads of the management cores returned, newest last (03 R67). Reset: none. -/
  mgmtReads : List (List Byte)
  /-- Starts since manufacture (03 Table 3-10). Reset: 0, DESIGN CHOICE (log 4). -/
  starts : Word
  /-- The management cores restart (03 R67). Reset: 0. -/
  mgmtRestart : Bool
  /-- MSI-X vectors signalled, newest last (03 R71, R79). Reset: none. -/
  msix : List Nat
  /-- The host's read data, newest last: what `dev.erdrop` reads and CXL.mem reads returned (03 R51, R65). Reset: none. -/
  reads : List (List Byte)
  /-- A hub seam or the host port was lost at run time, so the next start is cold (01 R14, 02 R34, 03 R74). Reset: 0. -/
  stopped : Bool
  /-- A start that waits for the last grid and stream to end, or is running: whether it is cold, and whether it repeats one that failed (03 R74, R75, R77). Reset: none. -/
  startReq : Option (Bool × Bool)
  /-- Dies that reported a fatal die error since the last test (03 R75). Reset: none. -/
  dieErr : BitVec 6
  /-- Host port number (02 R31). Reset: 0, DESIGN CHOICE (log 1). -/
  hostPort : Fin 4
  /-- CXL ports that are trained (02 R31, R34). Reset: all, DESIGN CHOICE (log 1). -/
  cxlUp : BitVec 4
  /-- Power limit in W of the management interface (01 R28). Reset: 3000, DESIGN CHOICE (log 4). -/
  powerLimit : Nat
  /-- THROT_N is asserted (01 R28). Reset: 0. -/
  throt : Bool
  /-- Arithmetic clock in MHz, 800 to 1600 in steps of 100 (01 R28). Reset: 1600 (R4). -/
  clock : Nat
  /-- The device's Tirsol number, when set (03 R73). Reset: none (R76). -/
  devNum : Option (BitVec 12)
  /-- Corrected-error threshold of every slice (01 R22). Reset: 64 (R76). -/
  threshold : Nat
  /-- Link status of the hub: lost ports [11:0] Tirsol, [15:12] CXL (02 R46). Reset: 0. -/
  linkLost : BitVec 16
  /-- Writes to lost peers dropped (02 R48). Reset: 0. -/
  dropped : Nat
  /-- Numbers of the invalidation requests whose completion the host has received, newest last (07 R190). Reset: none. -/
  invalDone : List Nat
  /-- Invalidation requests that wait in the link's flow control while some die's log is full, oldest first: PASID, address, size (07 R190). Reset: none. -/
  invalWait : List (BitVec 20 × Nat × Nat)
deriving DecidableEq, Repr

/-- Physical placement tables (01 R18, R19, R22). -/
structure Place3 where
  /-- `mp.bkt[0..4095]`, 32 bits each, sparse (01 R18). Reset: built over the live stacks (R18). -/
  bkt : List Word
  /-- `mp.q` (01 R19). Reset: Q of R19. -/
  q : Nat
  /-- `mp.nstk` (01 R19). Reset: N of R19. -/
  nstk : Nat
  /-- `mp.slt[n][c]`, 8 bits, by slice 32n + c where not the identity (01 R23). Reset: identity, DESIGN CHOICE (log 1). -/
  slt : KMap (BitVec 8)
  /-- Corrected-error count of each slice (01 R22). Reset: 0. -/
  corrected : KMap Nat
  /-- Corrected errors of each slice that its records have reported (03 Table 3-12). Reset: 0. -/
  reported : KMap Nat
  /-- Slices whose retirement was refused (01 R23). Reset: none. -/
  turnedDown : List Nat
  /-- Lines, by physical sector number, that an uncorrectable error has taken out of use (03 R81). Reset: none. -/
  badLines : List Nat
  /-- Retirements recorded by the security core (01 R25). Reset: none. -/
  retired : List Nat
deriving DecidableEq, Repr

/-- A tenant's admission state (04 R95, R96). -/
structure Tenant where
  /-- Budget record, 256 bits (04 R95). Reset: 0, empty (R76). -/
  budget : BitVec 256
  /-- Tokens in the bucket, as last exchanged (04 R96). Reset: 0. -/
  tokens : Int
  /-- The bucket itself, in bytes × `Config.usUnit`, and the moment up to which it has filled (04 R96). Reset: 0. -/
  level : Int
  levelAt : Nat
  /-- Power estimate in W averaged over the last 100 µs, as last exchanged (04 R96). Reset: 0. -/
  power : Nat
  /-- The estimates of its cores at each exchange of the last 100 µs, with its moment (04 R96). Reset: none. -/
  powers : List (Nat × Nat)
  /-- Cores holding a team, as last exchanged (04 R96). Reset: 0. -/
  cores : Nat
deriving DecidableEq, Repr

/-- A fault: the machine stops where no rule of the spec gives it a next state. Every one of these is raised only in a state that no run reaches, and is safe: a claim about such a state cannot be proved from it. -/
inductive Fault where
  /-- A lane word is executed where its group runs no block (raised by the lane words; safe). -/
  | noBlock
deriving DecidableEq, Repr

/-- A refusal: an instruction or event whose meaning has not been written. -/
inductive Refusal where
  /-- No meaning has been written (raised by `exec` alone; safe). -/
  | notModelled (mnemonic : String)
deriving DecidableEq, Repr

/-- The device. -/
structure State where
  /-- Cycles of the arithmetic clock since step 1 of the last start (00 R4). Reset: 0. -/
  time : Nat
  /-- Time since reset in units of 1/`Config.usUnit` µs, at the clock of each cycle (01 R28; 04 R94, R96, R109). Reset: 0. -/
  moment : Nat
  /-- Moment of the distributors' last exchange of counts (04 R94, R96). Reset: 0. -/
  exchanged : Nat
  /-- Counter of free values, the model's own (log 5). Reset: 0, DESIGN CHOICE (log 5). -/
  fresh : Nat
  /-- Events that happen next, first first: the model's own schedule (log 6). Reset: none, DESIGN CHOICE (log 6). -/
  agenda : List Instr
  /-- Whose stream issues at the next step, and on which side, the model's own schedule (log 6; 04 R103, R104). Reset: none. -/
  turn : Option (Party × Bool × Nat)
  /-- Whose streams issue after that in the same cycle, the model's own schedule (log 6; 04 R103, R104). Reset: none. -/
  plan : List (Party × Bool × Nat)
  /-- Streams that had to wait when they were last looked at, the latest first: the model's own schedule (log 6). Reset: none. -/
  looked : List (Party × Bool × Nat)
  /-- The instruction that issued last has to wait, so an event of the device comes next: the model's own schedule (log 6). Reset: false. -/
  stalled : Bool
  /-- Scalar streams and splits whose next instruction can issue, with the cycle since which it can: a split's age (04 R103, R104). Reset: none. -/
  ready : List ((Party × Bool × Nat) × Nat)
  /-- Group slot whose scalar stream issued last, by core (04 R103). Reset: 0. -/
  lastSlot : KMap Nat
  /-- The instruction that issued last waits at an empty register, a full spool, CWAIT or MWAIT (04 R109). Reset: false. -/
  starved : Bool
  /-- Groups one of whose streams waits so (04 R109). Reset: none. -/
  starving : List (Party × Bool × Nat)
  /-- The times within the last quantum in which each group waited, by 16 × team + group, newest first: from and to (04 R109). Reset: none. -/
  waits : KMap (List (Nat × Nat))
  /-- The party whose instruction is being executed (model's own, log 6). Reset: stream 0. -/
  who : Party
  /-- The split slot of the lane word being executed (12 R288, model's own, log 6). Reset: 0. -/
  lslot : Nat
  /-- Requests of the host that have reached the package and have not been performed, oldest first (03 R51; log 9). Reset: none. -/
  hostq : List HostReq
  /-- The physical world (log 1). Reset: as its fields. -/
  env : Env
  /-- Device page, firmware and hub registers (03 R51). Reset: as its fields. -/
  dev : Dev
  /-- Placement tables (01 R18). Reset: as its fields. -/
  mp : Place3
  /-- Contexts 0 to 255 (03 R51). Reset: all in state 0 (R76). -/
  ctxs : KMap Ctx
  /-- Control streams by 4 × context + stream (03 R55). Reset: none (R76). -/
  streams : KMap Stream
  /-- Tenants 0 to 63 (04 R95). Reset: empty (R76). -/
  tenants : KMap Tenant
  /-- Grids by handle (04 R82). Reset: none. -/
  grids : KMap Grid
  /-- Teams by handle (05 R113). Reset: none. -/
  teams : KMap Team
  /-- Handles given so far to grids, teams, requests (model's own). Reset: 0. -/
  handles : Nat
  /-- Cores by core in package (01 R15). Reset: as `Core`. -/
  cores : KMap Core
  /-- Compute dies 0 to 5, and the hub as 6 (01). Reset: as `Die`. -/
  dies : KMap Die
  /-- Seams: hub seams 0 to 5, horizontal seams 6 to 9 (01 R11). Reset: as `Seam`. -/
  seams : Vector Seam 10
  /-- Tirsol ports 0 to 11 (02). Reset: as `Port`. -/
  ports : Vector Port 12
  /-- Tirsol peers by device number (02 R38). Reset: none (R76). -/
  peers : KMap Peer
  /-- Watch entries of the L2 slices and the hub cache (05 R134, 03 R59). Reset: none. -/
  watches : List Watch
  /-- The dependence table, at most 1024 entries; `pa` is where the counter lay at the launch (04 R92). Reset: empty. -/
  deptab : List DepEntry
  /-- Messages and answers on the control network, oldest first (05 R135). Reset: none. -/
  msgs : List Msg
  /-- Atomics on their way to their homes, and loads from peers' memory (08 R200, 02 R38). Reset: none. -/
  atoms : List MemReq
  /-- Gangs in progress (06 R163). Reset: none. -/
  gangs : KMap Gang
  /-- SACQP probes in flight: the named core, the party, and the load that follows (08 R202). Reset: none. -/
  probes : List (Nat × MemReq)
  /-- HBM, host and pool memory by physical address (01 R16, 07 R166). Reset: nothing listed; every byte reads 0 (R75; host memory DESIGN CHOICE, log 3). -/
  mem : List Host.Cell
  /-- Sector metadata by physical sector number (07 R175, R182). Reset: 0 (R75, R182). -/
  md : KMap DWord
  /-- Poisoned 64-byte units of memory, by physical sector number (03 R81). Reset: none. -/
  poison : List Nat
  /-- Dirty lines of the hub cache, by physical sector of host or pool memory, each with what the memory behind it holds (03 R59, R75). Reset: none. -/
  hubCache : KMap Sector
  /-- The function's own I/O address space as the device has written it (03 R80). Reset: nothing written. -/
  iomem : List Host.Cell
deriving DecidableEq, Repr

/-! ### The machine after reset -/

/-- The origin of a scalar request. -/
def Origin.scalar : Origin := ⟨0, 0, 0, 0, false, false⟩

def LaneVal.zero : LaneVal := ⟨0, 0⟩

def VReg.zero : VReg := ⟨true, Vector.replicate 32 LaneVal.zero⟩

def SReg.zero : SReg := ⟨0, .full⟩

/-- A group slot that no team holds (R75). -/
def Group.empty : Group where
  used := false
  ended := false
  slotNo := 0
  sregs := Vector.replicate 64 SReg.zero
  pc := 0
  fe := 0
  fstat := 0
  gstat := 0
  alw := 0
  fmt := 0
  tvec := 0
  tcause := 0
  tinfo := 0
  tmask := 0
  tredo := 0
  tret := 0
  trap := none
  laneTraps := []
  ovfq := []
  nreg := 0
  vregs := Vector.replicate 112 VReg.zero
  preds := Vector.replicate 7 0
  pleats := Vector.replicate 4 0
  resid := Vector.replicate 8 (Vector.replicate 32 0)
  live := 0
  fin := 0
  heldFin := 0
  vtids := Vector.replicate 32 0
  spool := []
  trapq := []
  block := none
  held := none
  sfetch := none
  lfetch := []
  cbstall := 0
  wrstall := 0
  pairser := 0
  wait := .none
  demoteEnd := 0
  pollAt := 0
  ready := none
  watched := none
  tiles := []
  hdrs := []
  rdv := none
  outst := []
  seqFaults := []
  refused := none
  lost := 0
  wakeAt := none
  invalTill := 0

/-- A core after start-up clearing (R75). -/
def Core.empty : Core where
  cycOff := 0
  scratch := []
  scrMeta := []
  acc := []
  accBnd := []
  l1 := []
  icS := []
  icL := []
  cbuf := []
  tlb := []
  olog := []
  copies := []
  seq := []
  past := []
  wdir := []
  wstore := []
  wpoison := []
  wrsched := 0
  rfshEnd := none
  scrubbed := []
  wcorrected := 0
  wphase := none
  msgq := []
  posted := []
  haltReq := []

/-- What an unlisted team handle stands for. -/
def Team.empty : Team where
  life := .ended
  grid := 0
  t := 0
  core := 0
  scrBase := 0
  accMap := []
  cc := 0
  far := false
  cluster := []
  groups := Vector.replicate 16 Group.empty
  remap := []
  elected := false
  gangToken := none
  saveSlot := 0
  saveSeq := 0
  swapped := false
  image := none
  dirState := 0
  since := 0
  started := 0
  savedAt := 0

/-- What an unlisted grid handle stands for. -/
def Grid.empty : Grid where
  ctx := 0
  recAddr := 0
  gx := 0
  gy := 0
  gz := 0
  cfg := 0
  sentry := 0
  lentry := 0
  arg := 0
  alw := 0
  ccnt := 0
  stat := 0
  tvec := 0
  deps := []
  unmet := []
  handed := false
  ranges := []
  reported := []
  done := 0
  nfail := 0
  fate := .running
  refused := false
  incomplete := false
  closed := true
  seamBytes := 0
  tirsBytes := 0
  seamAcc := 0
  tirsAcc := 0
  traffic := []
  turnedAway := []
  statDone := false

/-- A disabled context (R76). -/
def Ctx.empty : Ctx where
  state := 0
  en := false
  err := 0
  pasid := 0
  tenant := 0
  prio := 0
  quantum := 0
  save := 0
  evaddr := Vector.replicate 16 0
  heldWrites := []
  partition := []
  saveSeq := 0
  refused := []
  bells := []
  starts := []
  record := []

/-- What an unlisted stream stands for. -/
def Stream.empty : Stream := ⟨0, 0, 0, 0, Group.empty, 0, 0, false⟩

/-- A die after start-up clearing (R75). -/
def Die.empty : Die := ⟨[], [], [], [], [], 0, [], [], []⟩

def Tenant.empty : Tenant := ⟨0, 0, 0, 0, 0, [], 0⟩

def Peer.empty : Peer := ⟨0, false, 0, 0xFFFFFF, [], [], none⟩

def Port.reset : Port := ⟨true, false, false, 0xFF, 0xFF, [], 0, 0, 0, false, 0, [], [], []⟩

def Seam.reset : Seam := ⟨true, 0, 0, 0⟩

/-- A good image of security version 0 (log 1). -/
def FwImage.first : FwImage := ⟨0, 0, true, false⟩

/-- The physical world of an undamaged module (log 1, log 3). -/
def Env.good : Env where
  fw := Vector.replicate 2 FwImage.first
  ufw := Vector.replicate 2 FwImage.first
  hubOk := true
  dieOk := 0x3F
  stackOk := 0x3FFFF
  drifted := false
  sliceBad := []
  seamOk := 0xF
  tirsolOk := 0xFFF
  cxlHost := 1
  cxlPool := 0xE
  hostRanges := [(2 ^ 51, 2 ^ 50)]
  poolRanges := [(2 ^ 51 + 2 ^ 50, 2 ^ 50)]
  implemented := 0xFFF
  wfaults := []
  wsoft := []

/-- `mp.bkt[b]` dealt over the live stacks (R18): valid, die and sector of the stack, slot b div N. -/
def bucketEntry (live : List Nat) (b : Nat) : Word :=
  let n := live.length
  let stack := live.getD (b % n) 0
  BitVec.ofNat 32 (2 ^ 31 + (stack / 3) * 2 ^ 28 + (stack % 3) * 2 ^ 26 + b / n)

/-- Placement tables of the live stacks, with `mdcfg` GiB of carve-out per stack (R18, R19). -/
def Place3.build (live : List Nat) (mdcfg : Nat) (slt : KMap (BitVec 8)) (retired : List Nat) : Place3 where
  bkt := (List.range 4096).map (bucketEntry live)
  q := (8388608 - mdcfg * 131072) / ((4096 + live.length - 1) / live.length)
  nstk := live.length
  slt := slt
  corrected := []
  reported := []
  turnedDown := []
  badLines := []
  retired := retired

/-! ### Keys and measurements (R69, R70) -/

/-- The package identity key and its certificate, from the device secret alone (R69). -/
def deviceSecret : List Byte := (List.range 66).map Config.secretByte
def identityKey (secret : List Byte) : List Byte := (List.range 66).map (Config.idKeyByte secret)
def identityCert (secret : List Byte) : List Byte := (List.range (Config.idCertLength secret)).map (Config.idCertByte secret)
/-- The attestation key, from the device secret and measurement slot 0, and the certificate that the identity key gives it (R69). -/
def attestKey (secret : List Byte) (slot0 : List (List Byte)) : List Byte := (List.range 66).map (Config.attKeyByte secret slot0)
def attestCert (idKey attKey : List Byte) : List Byte := (List.range (Config.attCertLength idKey attKey)).map (Config.attCertByte idKey attKey)
/-- The SHA-512 digest with which a slot is extended, of the contents that Table 3-9 names (log 8). -/
def digestOf (slot : Nat) (contents : List Nat) : List Byte := (List.range 64).map (Config.digestByte slot contents)
/-- The contents of slots 1 and 4 (Table 3-9). -/
def fuseContents (minSvn : BitVec 8) (enables : List Byte) : List Nat := minSvn.toNat :: enables.map (·.toNat)
def placeContents (dmap : BitVec 6) (stackMap : BitVec 18) (mdcfg : BitVec 4) (bkt : List Word) : List Nat :=
  dmap.toNat :: stackMap.toNat :: mdcfg.toNat :: bkt.map (·.toNat)

/-- What the access filter admits (R67). -/
def mgmtAdmitted : List MgmtTarget := [.sram, .devicePage, .contextTables, .linkTables, .invalLogs, .errorRing, .counters]

/-- Device registers when a start reaches state 7 (R76). -/
def Dev.reset : Dev where
  state := 7
  dmap := 0x3F
  stackMap := 0x3FFFF
  wfail := 0
  cfail := 0
  serr := 0
  excluded := 0
  readmit := 0
  offer := 0xFFF
  acceptLo := 0
  acceptHi := 0
  accepted := 0
  mdcfg := 0
  mdcfgEff := 0
  mdrgn := Vector.replicate 16 0
  erqBase := 0
  erqSize := 0
  erqHead := 0
  erqTail := 0
  erdrop := 0
  erqSet := false
  startBuf := []
  recSeq := 0
  stepOne := 0
  attNonce := Vector.replicate 8 0
  attAddr := 0
  attReq := false
  mbox := Vector.replicate 8 0
  mboxExt := false
  fwData := Vector.replicate 32 0
  fwReq := false
  fwRsp := 0
  meas := #v[[digestOf 0 [0]], [digestOf 1 (fuseContents 0 [])], [digestOf 2 [0]], [digestOf 3 [0]],
    [digestOf 4 (placeContents 0x3F 0x3FFFF 0 (Place3.build (List.range 18) 0 [] []).bkt)], [digestOf 5 [0xFFF]], [], []]
  minSvn := 0
  trusted := FwImage.first
  untrusted := FwImage.first
  secret := deviceSecret
  idKey := identityKey deviceSecret
  idCert := identityCert deviceSecret
  attKey := attestKey deviceSecret [digestOf 0 [0]]
  attCert := attestCert (identityKey deviceSecret) (attestKey deviceSecret [digestOf 0 [0]])
  ideKeys := []
  debugEnables := []
  accessFilter := mgmtAdmitted
  sram := []
  mgmtReads := []
  starts := 0
  mgmtRestart := false
  msix := []
  reads := []
  stopped := false
  startReq := none
  dieErr := 0
  hostPort := 0
  cxlUp := 0xF
  powerLimit := 3000
  throt := false
  clock := 1600
  devNum := none
  threshold := 64
  linkLost := 0
  dropped := 0
  invalDone := []
  invalWait := []

/-- The device when a cold start with every die and stack live has reached state 7 (R75, R76; log 1). -/
def State.reset : State where
  time := 0
  moment := 0
  exchanged := 0
  fresh := 0
  agenda := []
  turn := none
  plan := []
  looked := []
  stalled := false
  ready := []
  lastSlot := []
  starved := false
  starving := []
  waits := []
  who := .stream 0
  lslot := 0
  hostq := []
  env := Env.good
  dev := Dev.reset
  mp := Place3.build (List.range 18) 0 [] []
  ctxs := []
  streams := []
  tenants := []
  grids := []
  teams := []
  handles := 0
  cores := []
  dies := []
  seams := Vector.replicate 10 Seam.reset
  ports := Vector.replicate 12 Port.reset
  peers := []
  watches := []
  deptab := []
  msgs := []
  atoms := []
  gangs := []
  probes := []
  mem := []
  md := []
  poison := []
  hubCache := []
  iomem := []

end Sys2Proof.Machine
end

