-- ==== Sys2Proof/Machine/Access.lean ====
section
/-! DEFINITION. Reading and changing one part of the device: the tables by key, the group or stream whose
instruction runs (`cur`), its scalar registers (05 R114, R115), and the arithmetic of core, die and cluster numbers (01 R15). -/

namespace Sys2Proof

def Party.isStream : Party → Bool
  | .stream _ => true
  | .group _ _ => false
/-- The team's handle (0 for a stream). -/
def Party.teamOf : Party → Nat
  | .group t _ => t
  | .stream _ => 0
def Party.gidOf : Party → Fin 16
  | .group _ g => g
  | .stream _ => 0

end Sys2Proof

namespace Sys2Proof.Machine

/-- The outcome of a meaning. -/
abbrev Out := Host.Outcome State Fault Refusal

/-! ### Tables -/

def State.team (s : State) (h : Nat) : Team := KMap.get Team.empty s.teams h
def State.setTeam (s : State) (h : Nat) (t : Team) : State := { s with teams := KMap.set Team.empty s.teams h t }
def State.core (s : State) (c : Nat) : Core := KMap.get Core.empty s.cores c
def State.setCore (s : State) (c : Nat) (x : Core) : State := { s with cores := KMap.set Core.empty s.cores c x }
def State.die (s : State) (d : Nat) : Die := KMap.get Die.empty s.dies d
def State.setDie (s : State) (d : Nat) (x : Die) : State := { s with dies := KMap.set Die.empty s.dies d x }
def State.grid (s : State) (h : Nat) : Grid := KMap.get Grid.empty s.grids h
def State.setGrid (s : State) (h : Nat) (x : Grid) : State := { s with grids := KMap.set Grid.empty s.grids h x }
def State.ctx (s : State) (n : Nat) : Ctx := KMap.get Ctx.empty s.ctxs n
def State.setCtx (s : State) (n : Nat) (x : Ctx) : State := { s with ctxs := KMap.set Ctx.empty s.ctxs n x }
def State.stream (s : State) (k : Nat) : Stream := KMap.get Stream.empty s.streams k
def State.setStream (s : State) (k : Nat) (x : Stream) : State := { s with streams := KMap.set Stream.empty s.streams k x }
def State.tenant (s : State) (n : Nat) : Tenant := KMap.get Tenant.empty s.tenants n
def State.setTenant (s : State) (n : Nat) (x : Tenant) : State := { s with tenants := KMap.set Tenant.empty s.tenants n x }
def State.peer (s : State) (n : Nat) : Peer := KMap.get Peer.empty s.peers n
def State.setPeer (s : State) (n : Nat) (x : Peer) : State := { s with peers := KMap.set Peer.empty s.peers n x }

/-! ### Groups -/

/-- A group of a team with one group replaced. -/
def Team.setGroup (t : Team) (g : Fin 16) (x : Group) : Team := { t with groups := t.groups.set g x }

/-- The group of a party: a group of a team, or the scalar part of a control stream (03 R55). -/
def State.grp (s : State) (p : Party) : Group :=
  match p with
  | .group t g => (s.team t).groups.get g
  | .stream k => (s.stream k).g

/-- The group of a party replaced. -/
def State.setGrp (s : State) (p : Party) (x : Group) : State :=
  match p with
  | .group t g => s.setTeam t ((s.team t).setGroup g x)
  | .stream k => s.setStream k { s.stream k with g := x }

/-- The group whose instruction is executed. -/
def State.cur (s : State) : Group := s.grp s.who
/-- The group whose instruction is executed, replaced. -/
def State.setCur (s : State) (x : Group) : State := s.setGrp s.who x
/-- The group whose instruction is executed, changed. -/
def State.updCur (s : State) (f : Group → Group) : State := s.setCur (f s.cur)
/-- The group of a party, changed. -/
def State.updGrp (s : State) (p : Party) (f : Group → Group) : State := s.setGrp p (f (s.grp p))

/-- A free value's number; the counter is advanced by `bump`. -/
def State.bump (s : State) : State := { s with fresh := s.fresh + 1 }

/-- Free values from the counter, n of them used up. -/
def State.bumpBy (s : State) (n : Nat) : State := { s with fresh := s.fresh + n }

/-! ### Where a party runs -/

/-- Core in package of a party; a control stream's control core counts from 2048 (model's number of no compute core). -/
def State.coreOf (s : State) (p : Party) : Nat :=
  match p with
  | .group t _ => (s.team t).core
  | .stream k => 2048 + (s.stream k).ccore

/-- Die of a core in package (01 R15); 6 for the hub. -/
def dieOfCore (c : Nat) : Nat := if c < Config.coreCount then c / Config.coresPerDie else 6

/-- Die of a party. -/
def State.dieOf (s : State) (p : Party) : Nat := dieOfCore (s.coreOf p)

/-- Context of a party. -/
def State.ctxOf (s : State) (p : Party) : Nat :=
  match p with
  | .group t _ => (s.grid (s.team t).grid).ctx.toNat
  | .stream k => k / 4

/-- Address space of a party (03 Table 3-3). -/
def State.pasidOf (s : State) (p : Party) : BitVec 20 := (s.ctx (s.ctxOf p)).pasid

/-- The team of the party whose instruction is executed, and its core. -/
def State.curTeam (s : State) : Team := s.team s.who.teamOf
def State.curCore (s : State) : Core := s.core (s.coreOf s.who)
def State.setCurCore (s : State) (c : Core) : State := s.setCore (s.coreOf s.who) c
def State.updCore (s : State) (n : Nat) (f : Core → Core) : State := s.setCore n (f (s.core n))

/-- `cfg` fields of a grid (04 Table 4-2). -/
def Grid.ngrp (g : Grid) : Nat := fieldN g.cfg 0 4 + 1

/-- A feature is accepted (03 R62, R10). -/
def State.feature (s : State) (n : Nat) : Bool := s.dev.accepted.getLsbD n

/-! ### Scalar registers (05 R114, R115) -/

/-- s(i); s0 reads as 0. -/
def Group.sreg (g : Group) (i : SNum) : DWord := if i = 0 then 0 else (g.sregs.get i).val
/-- s(i) is full; s0 is always full. -/
def Group.sfull (g : Group) (i : SNum) : Bool := i = 0 || (g.sregs.get i).fill == .full
/-- s(i) was emptied by a lane block (R115). -/
def Group.slaneEmpty (g : Group) (i : SNum) : Bool := i != 0 && (g.sregs.get i).fill == .lane
/-- s(i) written and full; a write to s0 is discarded. -/
def Group.ws (g : Group) (i : SNum) (v : DWord) : Group :=
  if i = 0 then g else { g with sregs := g.sregs.set i ⟨v, .full⟩ }
/-- s(i) made empty; its value is kept until a result is written. -/
def Group.sempty (g : Group) (i : SNum) (why : RegFill) : Group :=
  if i = 0 then g else { g with sregs := g.sregs.set i ⟨(g.sregs.get i).val, why⟩ }
/-- s(i) made full with its contents. -/
def Group.sfill (g : Group) (i : SNum) : Group :=
  if i = 0 then g else { g with sregs := g.sregs.set i ⟨(g.sregs.get i).val, .full⟩ }

/-- s(i) of the current group. -/
def State.rs (s : State) (i : SNum) : DWord := s.cur.sreg i
/-- s(i) of the current group written. -/
def State.ws (s : State) (i : SNum) (v : DWord) : State := s.updCur (·.ws i v)
/-- The scalar pc moved past the instruction. -/
def State.advance (s : State) : State := s.updCur fun g => { g with pc := g.pc + 4 }
/-- The scalar pc set. A sector of code over which ICINV ran is used once more only: a jump back over what has been used
of it leaves it (16 R394). -/
def Group.goTo (g : Group) (a : BitVec 57) : Group :=
  { g with pc := a, sfetch := g.sfetch.filter fun f => f.2.2 == 0 || g.pc.ult a }
/-- The scalar pc of the current group set. -/
def State.jumpTo (s : State) (a : BitVec 57) : State := s.updCur (·.goTo a)

/-- The n-th register of a parameter block (R360). -/
def blockReg (a : SNum) (n : Nat) : SNum := ⟨(a.val + n) % 64, Nat.mod_lt _ (by decide)⟩
/-- The registers of a parameter block of n (R360). -/
def blockRegs (a : SNum) (n : Nat) : List SNum := (List.range n).map (blockReg a)
/-- Value of the n-th register of a parameter block. -/
def State.par (s : State) (a : SNum) (n : Nat) : DWord := s.rs (blockReg a n)

/-! ### Vector registers (05 R114) -/

/-- v(r), or what an absent register number reads (never used: R86 refuses it). -/
def Group.vreg (g : Group) (r : Nat) : VReg := if h : r < 112 then g.vregs.get ⟨r, h⟩ else VReg.zero
def Group.setV (g : Group) (r : Nat) (x : VReg) : Group :=
  if h : r < 112 then { g with vregs := g.vregs.set r x } else g
/-- Lanes of a register noted as written, where a loop may still read them (08 R204). -/
def Group.touch (g : Group) (r : Nat) (lanes : Mask) : Group :=
  { g with watched := g.watched.map fun w => { w with regs := KMap.set 0 w.regs r (KMap.get 0 w.regs r ||| lanes) } }
/-- Words of scratch noted as written. -/
def Group.touchWords (g : Group) (l : List Nat) : Group :=
  { g with watched := g.watched.map fun w => { w with words := w.words ++ l.filter fun k => !w.words.contains k } }
/-- Some lanes of a register written. -/
def Group.putV (g : Group) (r : Nat) (lanes : Mask) (x : VReg) : Group := (g.setV r x).touch r lanes
/-- One lane of a register. -/
def Group.lane (g : Group) (r : Nat) (s : Nat) : LaneVal := (g.vreg r).lanes[s]?.getD LaneVal.zero
/-- p(n) in every lane; p7 reads as true (R114). -/
def Group.predMask (g : Group) (n : Nat) : Mask := if h : n < 7 then g.preds.get ⟨n, h⟩ else 0xFFFFFFFF
def Group.setPred (g : Group) (n : Nat) (m : Mask) : Group :=
  if h : n < 7 then { g with preds := g.preds.set n m } else g
/-- Bits of `new` where `mask` is set, of `old` elsewhere. -/
def blend (mask old new : Mask) : Mask := (old &&& ~~~mask) ||| (new &&& mask)
/-- The lanes of a mask, lowest first. -/
def lanesOf (m : Mask) : List Nat := (List.range 32).filter fun i => m.getLsbD i
/-- A mask from a test on slots. -/
def maskOf (f : Nat → Bool) : Mask := BitVec.ofNat 32 ((List.range 32).foldl (fun a i => if f i then a + 2 ^ i else a) 0)
/-- Lowest lane of a mask. -/
def lowestLane (m : Mask) : Nat := ((lanesOf m).head?).getD 0
/-- e(n) (R114). -/
def Group.res (g : Group) (n : Nat) (s : Nat) : Word := (g.resid[n]?.bind (fun v => v[s]?)).getD 0
/-- Width of a pleat code (05 R129). -/
def pleatWidth (c : BitVec 2) : Nat :=
  match c.toNat with
  | 1 => 4
  | 2 => 8
  | 3 => 16
  | _ => 32
/-- Width of the pleat named by gsel; g0 is always the whole group. -/
def Group.pleatW (g : Group) (n : BitVec 2) : Nat := if n = 0 then 32 else pleatWidth (g.pleats.get n.toFin)

/-- The handler of a trap runs: `c.tcause`.inh (11 R250). -/
def Group.inh (g : Group) : Bool := g.tcause.getLsbD 12

/-! ### A core's cycles and its refresh (00 R4, 06 R160, R161) -/

/-- A core's own cycle counter (R4). -/
def State.coreCyc (s : State) (core : Nat) : DWord := BitVec.ofNat 64 s.time + (s.core core).cycOff

/-- The RFSH last issued on a core is over (R161). -/
def State.rfshOver (s : State) (core : Nat) : Option DWord :=
  match (s.core core).rfshEnd with
  | some e => if e.ule (s.coreCyc core) then some e else none
  | none => none
/-- `c.wrsched` (R160, R161). -/
def State.wrschedOf (s : State) (core : Nat) : DWord := match s.rfshOver core with | some e => e + 65536 | none => (s.core core).wrsched
/-- An RFSH keeps every bank of a core busy (R161). -/
def State.refreshing (s : State) (core : Nat) : Bool := (s.core core).rfshEnd.isSome && (s.rfshOver core).isNone

end Sys2Proof.Machine
end

