-- ==== Sys2Proof/Machine/Elem.lean ====
section
/-! DEFINITION. The special functions of the B pipe (14 R330, Table 14-5) and the suprema of their derivatives
(10 R235, Table 10-6). A value that is no rational is enclosed between two fixed-point integers and the precision is
raised until both ends round alike, so that the rounding is that of the exact mathematical value (R330; log 10). -/

namespace Sys2Proof.Machine

/-! ### Fixed-point series: every result is within `slack` units of 2^-p of the exact value -/

/-- Bound on the accumulated error of a series or a product below, in units of 2^-p. -/
def slack : Int := 2 ^ 24

/-- Σ x^k / k! for |x| ≤ 1, k from the given index on, with `fuel` terms: the running term and sum. -/
def expSeries (p : Nat) (x : Int) : Nat → Nat → Int → Int → Int
  | 0, _, _, acc => acc
  | n + 1, k, term, acc => expSeries p x n (k + 1) (term * x / 2 ^ p / (k : Int)) (acc + term)

/-- e^x, |x| ≤ 1. -/
def fixExp (p : Nat) (x : Int) : Int := expSeries p x (p / 4 + 40) 1 (2 ^ p) 0

/-- Σ ± z^(2k+1) / (2k+1), with sign `s` per step: atanh for s = 1, atan for s = −1. -/
def oddSeries (p : Nat) (z2 s : Int) : Nat → Nat → Int → Int → Int
  | 0, _, _, acc => acc
  | n + 1, k, pw, acc => oddSeries p z2 s n (k + 2) (s * (pw * z2 / 2 ^ p)) (acc + pw / (k : Int))

/-- atanh z, 0 ≤ z ≤ 1/3. -/
def fixAtanh (p : Nat) (z : Int) : Int := oddSeries p (z * z / 2 ^ p) 1 (p / 3 + 8) 1 z 0
/-- atan z, 0 ≤ z ≤ 1/5. -/
def fixAtan (p : Nat) (z : Int) : Int := oddSeries p (z * z / 2 ^ p) (-1) (p / 4 + 8) 1 z 0
/-- ln 2. -/
def fixLn2 (p : Nat) : Int := 2 * fixAtanh p (2 ^ p / 3)
/-- π, by Machin's formula. -/
def fixPi (p : Nat) : Int := 16 * fixAtan p (2 ^ p / 5) - 4 * fixAtan p (2 ^ p / 239)

/-- A rational in fixed point, rounded down. -/
def fixOf (p : Nat) (q : Rat) : Int := (q * ((2 ^ p : Nat) : Rat)).floor

/-- Mantissa in [2^(p-1), 2^(p+1)) and exponent of e^y for a fixed-point y. -/
def fixExpAny (p : Nat) (y : Int) : Int × Int :=
  let l := fixLn2 p
  let n := y / l
  (fixExp p (y - n * l), n)

/-- e^−m in fixed point for m ≥ 0; 0 when it lies below the precision. -/
def fixExpNeg (p : Nat) (m : Rat) : Int :=
  if m > (2 * p : Nat) then 0
  else
    let (a, n) := fixExpAny p (-(fixOf p m))
    a / 2 ^ (-n).toNat

/-- Sum of the sine (`odd`) or cosine series. -/
def trigSeries (p : Nat) (x2 : Int) : Nat → Nat → Int → Int → Int
  | 0, _, _, acc => acc
  | n + 1, k, term, acc => trigSeries p x2 n (k + 2) (-(term * x2 / 2 ^ p / ((k : Int) * (k + 1)))) (acc + term)

def fixSin (p : Nat) (x : Int) : Int := trigSeries p (x * x / 2 ^ p) (p / 8 + 30) 2 x 0
def fixCos (p : Nat) (x : Int) : Int := trigSeries p (x * x / 2 ^ p) (p / 8 + 30) 1 (2 ^ p) 0

/-- sin a (`cos` false) or cos a for a rational a of magnitude below 2^128, reduced by π/2 with 160 more bits. -/
def fixTrig (p : Nat) (cos : Bool) (a : Rat) : Int :=
  let g := p + 160
  let h := fixPi g / 2
  let x := fixOf g a
  let k := (2 * x + h) / (2 * h)
  let r := (x - k * h) / 2 ^ 160
  match (k + (if cos then 1 else 0)) % 4 with
  | 0 => fixSin p r
  | 1 => fixCos p r
  | 2 => -(fixSin p r)
  | _ => -(fixCos p r)

/-- log2 a for a rational a > 0. -/
def fixLog2 (p : Nat) (a : Rat) : Int :=
  let e := floorLog2 a
  let m := a / pow2 e
  e * 2 ^ p + 2 * fixAtanh p (fixOf p ((m - 1) / (m + 1))) * 2 ^ p / fixLn2 p

/-! ### Rounding an enclosed value -/

/-- FP32 toward zero of a positive real between two fixed-point numbers, when both ends agree. -/
def rtzBetween (p : Nat) (lo hi : Int) : Option FVal :=
  let f (x : Int) : FVal := if x ≤ 0 then .zero false else roundF (ffmt 0) .rtz true (.num ((x : Rat) / ((2 ^ p : Nat) : Rat)))
  if f lo == f hi then some (f lo) else none

/-- The first precision that decides. -/
def decideAt {α : Type} (f : Nat → Option α) : List Nat → Option α
  | [] => none
  | p :: ps => match f p with | some y => some y | none => decideAt f ps

/-- The precisions tried, in bits. -/
def precisions : List Nat := [256, 640, 1280]

/-- FP32 toward zero of the magnitude of a real given by an approximation at each precision; `cap` true when the magnitude is below 1. -/
def rtzOf (cap : Bool) (approx : Nat → Int) : FVal :=
  let f (p : Nat) : Option FVal :=
    let a := approx p
    let hi := a + slack
    rtzBetween p (a - slack) (if cap ∧ 2 ^ p ≤ hi then 2 ^ p - 1 else hi)
  (decideAt f precisions).getD (.zero false)

/-- Value with the sign given. -/
def FVal.withSign (neg : Bool) (v : FVal) : FVal := if neg then v.negate else v

/-- Square root of a positive rational with a sticky bit: it rounds to FP32 as the exact root does. -/
def sqrtSticky (q : Rat) : Rat :=
  let e := floorLog2 q
  let k : Int := 80 - e / 2
  let n := q * pow2 (2 * k)
  let s := Nat.sqrt n.floor.toNat
  if ((s * s : Nat) : Rat) = n then (s : Rat) / pow2 k else ((2 * s + 1 : Nat) : Rat) / pow2 (k + 1)

/-! ### The functions (R330, Table 14-5) -/

/-- Which special function (Table 14-5). -/
inductive SpFn where
  | rcp | rsq | sqrt | div | exp2 | log2 | sin | cos | tanh | sigm
deriving DecidableEq, Repr

/-- FRCP and FDIV: the exact quotient with the special values of Table 14-5. -/
def fquot (a b : FVal) : FVal :=
  match a, b with
  | .nan, _ | _, .nan => .nan
  | .inf _, .inf _ => .nan
  | .inf s, b => .inf (s != b.neg)
  | a, .inf s => .zero (a.neg != s)
  | .zero _, .zero _ => .nan
  | .zero s, b => .zero (s != b.neg)
  | a, .zero s => .inf (a.neg != s)
  | .num p, .num q => .num (p / q)

/-- Round to FP32 in a mode (R330: correctly rounded functions). -/
def toFp32 (mode : RMode) (v : FVal) : FVal := roundF (ffmt 0) mode false v

/-- r32 of R330. -/
def spValue (fnc : SpFn) (mode : RMode) (a b : FVal) : FVal :=
  match fnc with
  | .rcp => toFp32 mode (fquot (.num 1) a)
  | .div => toFp32 mode (fquot a b)
  | .sqrt =>
    match a with
    | .nan | .inf true => .nan
    | .inf false => .inf false
    | .zero s => .zero s
    | .num q => if q < 0 then .nan else toFp32 mode (.num (sqrtSticky q))
  | .rsq =>
    match a with
    | .nan | .inf true => .nan
    | .inf false => .zero false
    | .zero s => .inf s
    | .num q => if q < 0 then .nan else toFp32 .rtz (.num (sqrtSticky (1 / q)))
  | .exp2 =>
    match a with
    | .nan => .nan
    | .inf s => if s then .zero false else .inf false
    | .zero _ => .num 1
    | .num q =>
      if q ≥ 128 then .inf false
      else if q < -149 then .zero false
      else if q.den = 1 then .num (pow2 q.num)
      else
        let n := q.floor
        match rtzOf false (fun p => fixExp p (fixOf p (q - n) * fixLn2 p / 2 ^ p)) with
        | .num m => toFp32 .rtz (.num (m * pow2 n))
        | v => v
  | .log2 =>
    match a with
    | .nan | .inf true => .nan
    | .inf false => .inf false
    | .zero _ => .inf true
    | .num q =>
      if q < 0 then .nan
      else if q = pow2 (floorLog2 q) then toFp32 .rtz (FVal.ofRat (floorLog2 q))
      else if q < 1 then (rtzOf false (fun p => -(fixLog2 p q))).negate
      else rtzOf false (fun p => fixLog2 p q)
  | .sin =>
    match a with
    | .nan | .inf _ => .nan
    | .zero s => .zero s
    | .num q =>
      let neg := decide (fixTrig 640 false q < 0)
      (rtzOf true (fun p => if neg then -(fixTrig p false q) else fixTrig p false q)).withSign neg
  | .cos =>
    match a with
    | .nan | .inf _ => .nan
    | .zero _ => .num 1
    | .num q =>
      let neg := decide (fixTrig 640 true q < 0)
      (rtzOf true (fun p => if neg then -(fixTrig p true q) else fixTrig p true q)).withSign neg
  | .tanh =>
    match a with
    | .nan => .nan
    | .inf s => .num (qsign s 1)
    | .zero s => .zero s
    | .num q =>
      (rtzOf true (fun p => let t := fixExpNeg p (2 * qabs q); (2 ^ p - t) * 2 ^ p / (2 ^ p + t))).withSign (decide (q < 0))
  | .sigm =>
    match a with
    | .nan => .nan
    | .inf s => if s then .zero false else .num 1
    | .zero _ => .num (1 / 2)
    | .num q =>
      rtzOf true (fun p =>
        let t := fixExpNeg p (qabs q)
        if q < 0 then t * 2 ^ p / (2 ^ p + t) else 2 ^ p * 2 ^ p / (2 ^ p + t))

/-! ### Suprema of the derivatives (R235, Table 10-6) -/

/-- Bounds of the codes in rising order: the least B16 code whose value satisfies a test that large values satisfy; `n` is the search interval's logarithm. -/
def leastB16 (ok : Rat → Bool) : Nat → Nat → Nat → Bound
  | 0, _, hi => if hi ≥ 0xFF00 then bInf else BitVec.ofNat 16 hi
  | n + 1, lo, hi =>
    let mid := (lo + hi) / 2
    match bval (BitVec.ofNat 16 mid) with
    | none => leastB16 ok n lo mid
    | some v => if ok v then leastB16 ok n lo mid else leastB16 ok n (mid + 1) hi

/-- round_up_b16 of a positive real enclosed between two fixed-point numbers times 2^n. -/
def roundUpOf (n : Int) (approx : Nat → Int) : Bound :=
  let f (p : Nat) : Option Bound :=
    let r (x : Int) : Bound := roundUpB16 (some ((if x ≤ 0 then (1 : Rat) else (x : Rat)) / ((2 ^ p : Nat) : Rat) * pow2 n))
    let a := approx p
    if r (a - slack) == r (a + slack) then some (r (a + slack)) else none
  (decideAt f precisions).getD bInf

/-- L_f over [x − b, x + b] (Table 10-6); `none` at a pole or outside the domain. -/
def lipschitz (fnc : SpFn) (x b : Rat) : Option Rat :=
  let lo := x - b
  let hi := x + b
  let m : Rat := if lo ≤ 0 ∧ 0 ≤ hi then 0 else qmin (qabs lo) (qabs hi)
  match fnc with
  | .rcp | .div => if m = 0 then none else bval (roundUpB16 (some (1 / (m * m))))
  | .sqrt => if lo ≤ 0 then none else bval (leastB16 (fun v => decide (4 * v * v * lo ≥ 1)) 17 0 0xFF00)
  | .rsq => if lo ≤ 0 then none else bval (leastB16 (fun v => decide (4 * v * v * lo * lo * lo ≥ 1)) 17 0 0xFF00)
  | .exp2 =>
    if hi ≥ 130 then none
    else if hi < -140 then bval 1
    else bval (roundUpOf hi.floor (fun p => fixExp p (fixOf p (hi - hi.floor) * fixLn2 p / 2 ^ p) * fixLn2 p / 2 ^ p))
  | .log2 => if lo ≤ 0 then none else
      bval (roundUpOf (-(floorLog2 lo)) (fun p => fixOf p (pow2 (floorLog2 lo) / lo) * 2 ^ p / fixLn2 p))
  | .sin | .cos => some 1
  | .tanh => if m = 0 then some 1 else
      bval (roundUpOf 0 (fun p => let t := fixExpNeg p (2 * m); 4 * t * 2 ^ p / (2 ^ p + t) * 2 ^ p / (2 ^ p + t)))
  | .sigm => if m = 0 then some (1 / 4) else
      bval (roundUpOf 0 (fun p => let t := fixExpNeg p m; t * 2 ^ p / (2 ^ p + t) * 2 ^ p / (2 ^ p + t)))

/-- u_f of Table 10-6, on the FP32 value r32. -/
def spUnit (fnc : SpFn) (mode : RMode) (a b r : FVal) : Rat :=
  let u := ulpF (ffmt 0) r.toRat
  let rterm : Rat := match mode with | .rne | .rna => u / 2 | _ => u
  let quot (t : FVal) : Rat :=
    match t with
    | .num q => if qabs (roundUnbounded (ffmt 0) mode q) > (ffmt 0).largest then qabs (q - r.toRat) else rterm
    | _ => rterm
  match fnc with
  | .rcp => quot (fquot (.num 1) a)
  | .div => quot (fquot a b)
  | .sqrt => rterm
  | .rsq | .exp2 | .log2 => u
  | .sin | .cos => u + pow2 (-24)
  | .tanh | .sigm => 2 * u

/-- Propagated bound L_f × b_x + u_f, or the two-operand formula of FDIV (R235), before scaling and the conversion term. -/
def spBound (fnc : SpFn) (mode : RMode) (a b r : FVal) (ba bb : Option Rat) : Option Rat :=
  if !r.isFinite then none
  else
    let prop : Option Rat :=
      match fnc, ba, bb with
      | .div, some xa, some xb =>
        if !(a.isFinite && b.isFinite) then (if xa = 0 ∧ xb = 0 then some 0 else none)
        else if qabs b.toRat ≤ xb then none
        else some ((xa + qabs (a.toRat / b.toRat) * xb) / (qabs b.toRat - xb))
      | .div, _, _ => none
      | f, some xa, _ => if xa = 0 then some 0 else if !a.isFinite then none else (lipschitz f a.toRat xa).map (· * xa)
      | f, none, _ => (match f with | .sin | .cos => none | _ => none)
    prop.map (· + spUnit fnc mode a b r)

end Sys2Proof.Machine
end

