-- ==== Sys2Proof/Machine/Flags.lean ====
section
/-! DEFINITION. What an instruction computes beside its value: the allowance and its limit (10 R237-R240), the
unit values and error terms (R232, R233), the writing of float, integer and bits results with their bounds
(14 R315, R316; 10 R234), error feedback (09 R222), and the uncertain comparisons that set `gstat`.unc (R245). -/

namespace Sys2Proof.Machine

/-! ### The allowance (R237-R240) -/

/-- Register `alw` decoded (Table 10-7). -/
structure Allow where
  rel : Nat
  flr : Nat
  abs : Option Rat
  sel : Nat
  head : Nat
  bte : Bool
  ute : Bool
  chkall : Bool
  chkst : Bool
deriving DecidableEq, Repr

/-- Fields of `alw` (Table 10-7); an ABS code with e = 255 is no limit. -/
def allow (a : DWord) : Allow where
  rel := fieldN a 0 8
  flr := fieldN a 8 8
  abs := bval (a.extractLsb' 16 16)
  sel := fieldN a 32 4
  head := fieldN a 36 4
  bte := a.getLsbD 40
  ute := a.getLsbD 41
  chkall := a.getLsbD 42
  chkst := a.getLsbD 43

/-- L(y) of R238; `y` is none for NaN and infinities. -/
def limitOf (a : Allow) (y : Option Rat) : Option Rat :=
  let floor := pow2 ((a.flr : Int) - 127)
  let rel : Option Rat :=
    if a.rel = 0 then none
    else some (pow2 (-(a.rel : Int)) * (match y with | some q => qmax (qabs q) floor | none => floor))
  match a.abs, rel with
  | none, r => r
  | some x, none => some x
  | some x, some r => some (qmin x r)

/-- SEL values within a ceiling's (Table 10-8). -/
def selWithin (sel sel' : Nat) : Bool :=
  match sel with
  | 0 => sel' == 0
  | 1 => sel' ≤ 2
  | 2 => sel' == 0 || sel' == 2
  | 3 => sel' ≤ 3
  | _ => sel' ≤ 4

/-- A value of `alw` that breaks no rule of Table 10-7. -/
def allowLegal (a : DWord) : Bool := fieldN a 32 4 ≤ 4 && fieldN a 44 20 == 0

/-- `x` is within the ceiling `c` (R239). -/
def allowWithin (x c : DWord) : Bool :=
  let a := allow x
  let b := allow c
  ble a.abs b.abs && (b.rel == 0 || (b.rel ≤ a.rel && a.rel != 0)) && (a.flr ≤ b.flr || a.rel == 0) &&
    b.head ≤ a.head && selWithin b.sel a.sel && (!b.bte || a.bte) && (!b.ute || a.ute) &&
    (!b.chkall || a.chkall) && (!b.chkst || a.chkst)

/-- The arithmetic units of the A pipe (R232). -/
inductive FUnit where
  | full | short | trunc
deriving DecidableEq, Repr

/-- Lane order of Table 10-8; true marks an unconditional step. -/
def lanePolicy (sel : Nat) : List (FUnit × Bool) :=
  match sel with
  | 0 => [(.full, true)]
  | 1 => [(.trunc, false), (.short, false), (.full, true)]
  | 2 => [(.short, false), (.full, true)]
  | 3 => [(.short, true), (.full, true)]
  | _ => [(.trunc, true), (.short, true), (.full, true)]

/-- Matrix row order of Table 10-8. -/
def matrixPolicy (sel : Nat) : List (FUnit × Bool) :=
  match sel with
  | 0 => [(.full, true)]
  | 1 | 2 => [(.short, false), (.full, true)]
  | _ => [(.short, true)]

/-! ### Units (R232, R220) -/

/-- trunc_tz of R232. -/
def truncTz (x q : Rat) : Rat := qsign (decide (x < 0)) (((qabs x / q).floor : Rat) * q)

/-- A unit's value before scaling and rounding, and its internal term (Table 10-4): exact products and addends. What truncation
brings to zero has the sign of the exact value (R315). -/
def unitValue (u : FUnit) (mulOnly : Bool) (rdn : Bool) (prods adds : List FVal) : FVal × Rat :=
  let exact : FVal := if mulOnly then prods.headD (.zero false) else sumF rdn (prods ++ adds)
  if !exact.isFinite then (exact, 0)
  else
    let trunc20 (p : FVal) : FVal × Rat :=
      match p with
      | .num q => let e := pow2 (floorLog2 (qabs q) - 20); (FVal.ofRat (truncTz q e), e)
      | p => (p, 0)
    match u with
    | .full => (exact, 0)
    | .short | .trunc =>
      let tp := prods.map trunc20
      let ps := if u == .trunc then tp.map (·.1) else prods
      let pterm : Rat := if u == .trunc then (tp.map (·.2)).foldl (· + ·) 0 else 0
      if mulOnly then
        (match ps.headD (.zero false) with | .zero _ => .zero exact.neg | v => v, pterm)
      else
        let all := (ps ++ adds).map FVal.toRat
        let big := all.foldl (fun m x => qmax m (qabs x)) 0
        if big = 0 then (exact, pterm)
        else
          let q := pow2 (floorLog2 big - 21)
          let t := truncTz (all.foldl (· + ·) 0) q
          (if t ≠ 0 then .num t else .zero exact.neg, q + pterm)

/-! ### Writing a result (R315, R316, R222, R233) -/

/-- A lane's result before it is written: element code (or whole word), its bound, its value for the limit, and the residue EF leaves. -/
structure LaneRes where
  code : Nat
  bnd : Bound
  y : Option Rat
  res : Option Word
deriving DecidableEq, Repr

/-- Value for the limit L(y) (R238). -/
def limY (v : FVal) : Option Rat := if v.isFinite then some v.toRat else none

/-- Clamp 2 and 3 (R315). -/
def clampF (clamp : Nat) (y : FVal) : FVal :=
  let lo : Rat := if clamp = 2 then 0 else -1
  if clamp < 2 then y
  else
    match y with
    | .nan => .zero false
    | .inf s => if s then (if clamp = 2 then .zero false else .num (-1)) else .num 1
    | .zero s => .zero s
    | .num q => FVal.ofRat (qmin (qmax q lo) 1)

/-- write_float of R315 for a value t already scaled: `prop` the scaled propagated terms with the unit's term, `elig` for
unit-eligible opcodes, `flush` for SHORT and TRUNC, `base` the value the conversion term is taken from, `ein` the residue under EF.
Under EF the sum with the residue is a sum of addends of R315, so that −0 and a residue +0 give +0: DEDUCED (log 17). -/
def writeFloat (fdc : Nat) (rnd clamp : Nat) (elig flush : Bool) (t base : FVal) (prop : Option Rat) (ein : Word) : LaneRes :=
  let f := ffmt fdc
  let ef := rnd = 5
  let e : FVal := decodeF (ffmt 0) ein.toNat
  let x : FVal := if ef then sumF false [t, e] else t
  let y0 := roundF f (rmode rnd) (clamp = 1) x
  let ok := x.isFinite && y0.isFinite
  let eout : FVal := if ok then roundAwayFp32 (x.toRat - y0.toRat) else .zero false
  let overflow : Bool := match x with | .num q => decide (qabs (roundUnbounded f (rmode rnd) q) > f.largest) | _ => false
  let u := ulpF f y0.toRat
  let term : Option Rat :=
    if !(base.isFinite && y0.isFinite) then none
    else if elig && overflow then some (qabs (t.toRat - y0.toRat))
    else if ef then (if e.isFinite && eout.isFinite then some (qabs e.toRat + qabs eout.toRat) else none)
    else if elig then some (match rmode rnd with | .rne | .rna => u / 2 | _ => u)
    else some (qabs (base.toRat - y0.toRat))
  let sub : Bool := flush && fdc = 0 && (match y0 with | .num q => decide (qabs q < pow2 (-126)) | _ => false)
  let y1 := if sub then .zero y0.neg else y0
  let bnd := if y1.isFinite then roundUpB16 (badd (badd prop term) (some (if sub then qabs y0.toRat else 0))) else bInf
  let y := clampF clamp y1
  { code := elemCode fdc y, bnd := bnd, y := limY y,
    res := if ef then some (BitVec.ofNat 32 (encodeF (ffmt 0) eout)) else none }

/-- An integer result (R316) with propagated terms: saturated under clamp 1, wrapped with bound ∞ under clamp 0. -/
def writeInt (fdc : Nat) (clamp : Nat) (r : Int) (prop : Option Rat) : LaneRes :=
  let w := fmtWidth fdc
  let y := if clamp = 1 then satInt fdc r else r
  let code := (y % (2 ^ w : Int)).toNat
  let yv : Int := if isSignedFmt fdc ∧ 2 ^ (w - 1) ≤ code then (code : Int) - 2 ^ w else code
  let bnd :=
    if inIntRange fdc r then roundUpB16 prop
    else if clamp = 1 then roundUpB16 (badd prop (some (qabs ((r : Rat) - (y : Rat)))))
    else bInf
  { code := code, bnd := bnd, y := some (yv : Rat), res := none }

/-- The finite element of smallest magnitude of a word read in a format; the whole word for a 32-bit one (R242). -/
def wordY (fc : Nat) (x : Word) : Option Rat :=
  let vals : List (Option Rat) := (List.range (fmtElems fc)).map fun n =>
    if isIntFmt fc then some ((elemI fc x n : Int) : Rat) else limY (elemF fc x n)
  vals.foldl (fun m v =>
    match m, v with
    | none, v => v
    | m, none => m
    | some a, some b => some (if qabs b < qabs a then b else a)) none

/-- A bits result (R316): the word with its bound; y is the word read as fd (R242). -/
def writeBits (fdc : Nat) (x : Word) (b : Bound) : LaneRes :=
  { code := x.toNat, bnd := b, y := wordY fdc x, res := none }

/-- Exact when every source bound is 0, ∞ otherwise (Table 10-5). -/
def exactOr (bs : List Bound) : Bound := if bs.all (fun b => b == 0) then 0 else bInf

/-- Product term |a|·b_b + |b|·b_a + b_a·b_b (Table 10-5). -/
def prodTerm (a b : FVal) (ba bb : Option Rat) : Option Rat :=
  let m (v : FVal) : Option Rat := if v.isFinite then some (qabs v.toRat) else none
  badd (badd (bmul (m a) bb) (bmul (m b) ba)) (bmul ba bb)

/-- The unit-eligible opcodes (R241): the first unit of the policy the lane's bound admits, and its result. -/
def selectUnit (a : Allow) (units : List FUnit) (mulOnly : Bool) (fdc rnd clamp : Nat) (sc : Int)
    (prods adds : List FVal) (prop : Option Rat) (ein : Word) : LaneRes :=
  let result (u : FUnit) : LaneRes :=
    let (t, i) := unitValue u mulOnly (rnd = 3) prods adds
    writeFloat fdc rnd clamp true (u != .full) (t.scale sc) (t.scale sc)
      (bmul (some (pow2 sc)) (badd prop (some i))) ein
  let rec go : List (FUnit × Bool) → LaneRes
    | [] => result .full
    | (u, star) :: rest =>
      if !units.contains u then go rest
      else
        let r := result u
        if star || u == .full || ble (bval r.bnd) (bmul (some (pow2 (-(a.head : Int)))) (limitOf a r.y)) then r else go rest
  go (lanePolicy a.sel)

/-! ### Comparisons (R245, Table 10-12) -/

/-- Value comparison of FCMP and the integer comparisons: conditions 0 to 7 (R319, R324). -/
def condHolds (cond : Nat) (lt eq nan : Bool) : Bool :=
  match cond with
  | 0 => eq
  | 1 => !eq
  | 2 => lt
  | 3 => lt || eq
  | 4 => !lt && !eq && !nan
  | 5 => !lt && !nan
  | 6 => nan
  | _ => !nan

/-- The outcome of a condition on two values with bounds is uncertain (R245). -/
def uncertain (cond : Nat) (a b : Option Rat) (ba bb : Option Rat) : Bool :=
  match a, b, ba, bb with
  | some x, some y, some p, some q =>
    let ltT := decide (x + p < y - q)
    let ltF := decide (x - p ≥ y + q)
    let leT := decide (x + p ≤ y - q)
    let leF := decide (x - p > y + q)
    let eqT := decide (p = 0 ∧ q = 0 ∧ x = y)
    let eqF := decide (x + p < y - q) || decide (y + q < x - p)
    match cond with
    | 0 | 1 => !(eqT || eqF)
    | 2 => !(ltT || ltF)
    | 3 => !(leT || leF)
    | 4 => !(decide (y + q < x - p) || decide (y - q ≥ x + p))
    | 5 => !(decide (y + q ≤ x - p) || decide (y - q > x + p))
    | _ => false
  | _, _, _, _ => true

/-! ### Checked writes (R242, R243, Table 10-10) -/

/-- The write of a result with bound b and value y breaches the allowance (R242). -/
def breaches (a : Allow) (b : Bound) (y : Option Rat) : Bool := !ble (bval b) (limitOf a y)

/-- `c.tinfo` of a BREACH from the breaching lanes, lowest slot first (Table 10-10). -/
def breachInfo (a : Allow) (kind row : Nat) (l : List (Bound × Option Rat)) : DWord :=
  let key (b : Bound) : Nat := if fieldN b 8 8 = 255 then 0xFFFF else b.toNat
  let best := l.foldl (fun m x => match m with | none => some x | some y => if key y.1 < key x.1 then some x else some y) (none : Option (Bound × Option Rat))
  match best with
  | none => 0
  | some (b, y) =>
    BitVec.ofNat 64 (key b + 2 ^ 16 * (roundUpB16 (limitOf a y)).toNat + 2 ^ 32 * kind + 2 ^ 34 * row)

/-- `gstat` with a flag set (Table 5-5): 0 unc, 1 bre, 2 rgsp. -/
def Group.setStat (g : Group) (bit : Nat) : Group := { g with gstat := g.gstat ||| BitVec.ofNat 64 (2 ^ bit) }

/-- A bound that the spec leaves open: any but another code of ∞ than 0xFFFF (10 R229). -/
def freeBound (n : Nat) : Bound := let b : Bound := (Config.freeWord n).setWidth 16; if 0xFF00 ≤ b.toNat then bInf else b

end Sys2Proof.Machine
end

