-- ==== Sys2Proof/Machine/Bounds.lean ====
section
/-! DEFINITION. Sector metadata: the bounds of a sector's words as codes, their decoding, and what a store does to
them (07 R175-R180). -/

namespace Sys2Proof.Machine

/-- Bound of word i (R176). -/
def mdBound (m : DWord) (i : Nat) : Bound :=
  let sx : Int := (fieldN m 48 7 : Int) - 96
  match fieldN m (3 * i) 3 with
  | 0 => 0
  | 7 => bInf
  | c => BitVec.ofNat 16 (256 * (sx - 3 * (6 - (c : Int)) + 127).toNat)

/-- Bounds of the 16 words of a sector (R176). -/
def mdBounds (m : DWord) : Vector Bound 16 := Vector.ofFn fun i => mdBound m i.val

/-- The smallest n with x ≤ 2^n (R177). -/
def ceilLog2 (x : Rat) : Int := let n := floorLog2 x; if x = pow2 n then n else n + 1

/-- store_meta of R177: E and the codes. -/
def storeMeta (b : Vector Bound 16) : Nat :=
  let vals := b.toList.map bval
  let fin := vals.filterMap fun v => match v with | some q => if q ≠ 0 ∧ q ≤ pow2 31 then some q else none | none => none
  let mx := fin.foldl qmax 0
  let sx : Int := if mx = 0 then -96 else (let n := ceilLog2 mx; if n < -96 then -96 else if 31 < n then 31 else n)
  let code (v : Option Rat) : Nat :=
    match v with
    | none => 7
    | some q =>
      if q = 0 then 0
      else if q > pow2 31 then 7
      else ([1, 2, 3, 4, 5].find? fun (c : Nat) => decide (q ≤ pow2 (sx - 3 * (6 - (c : Int))))).getD 6
  (sx + 96).toNat * 2 ^ 48 + ((vals.zipIdx.map fun (v, i) => code v * 2 ^ (3 * i)).foldl (· + ·) 0)

/-- Metadata with H, T and the codes of the given bounds. -/
def mdMake (h : Bool) (t : BitVec 8) (b : Vector Bound 16) : DWord :=
  BitVec.ofNat 64 (storeMeta b + t.toNat * 2 ^ 55 + (if h then 2 ^ 63 else 0))

def mdH (m : DWord) : Bool := m.getLsbD 63
def mdT (m : DWord) : BitVec 8 := m.extractLsb' 55 8

/-- The metadata that carries the bounds of a sector's words, with H and T clear. -/
def mdWord (b : Vector Bound 16) : DWord := mdMake false 0 b

/-- The larger of two bounds. -/
def bndMax (a b : Bound) : Bound := if ble (bval a) (bval b) then b else a

/-- Bounds of a sector's words after a store (R177, R178). -/
def mergeBounds (old : Vector Bound 16) (st : SecStore) : Vector Bound 16 :=
  Vector.ofFn fun i =>
    match fieldN st.mask (4 * i.val) 4 with
    | 0 => old[i]
    | 15 => st.bnds[i]
    | _ => bndMax old[i] st.bnds[i]

/-- T bits after a store (R179). -/
def mergeT (old : BitVec 8) (st : SecStore) : BitVec 8 :=
  BitVec.ofNat 8 ((List.range 8).foldl (fun a i =>
    a + 2 ^ i * ((if fieldN st.mask (8 * i) 8 = 0 then old.getLsbD i else st.tset.getLsbD i).toNat)) 0)

/-- Metadata of a sector after a store; `copy` for the copy engine's (R177-R180). -/
def mergeMd (m : DWord) (st : SecStore) (copy : Bool) : DWord :=
  let h := if copy then mdH m && st.mask == 0 else if fieldN st.mask 0 8 = 0 then mdH m else st.hset
  mdMake h (mergeT (mdT m) st) (mergeBounds (mdBounds m) st)

end Sys2Proof.Machine
end

