-- ==== Sys2Proof/Machine/Links.lean ====
section
/-! DEFINITION. The Tirsol links at their sending side: flits and the replay buffer of a port (02 R35, R36, R39), port
sets, sequence numbers and the requests without a response (02 R38, R40, R42, R46-R48). -/

namespace Sys2Proof.Machine

/-! ### Flits (R35, R36) -/

/-- CRC-32C over bytes, least significant bit first. -/
def crc32c (bs : List Byte) : Word :=
  ~~~(bs.foldl (fun (c : Word) b =>
    (List.range 8).foldl (fun c _ => if c.getLsbD 0 then (c >>> 1) ^^^ 0x82F63B78#32 else c >>> 1) (c ^^^ b.setWidth 32)) 0xFFFFFFFF#32)

def flitType (f : Sector) : Nat := (Sector.byte f 0).toNat
def flitSeq (f : Sector) : BitVec 8 := Sector.byte f 1
def flitAck (f : Sector) : BitVec 8 := Sector.byte f 2
/-- The CRC of a flit is right (R35). -/
def flitOk (f : Sector) : Bool := crc32c ((bytesOfSector f).take 60) == BitVec.ofNat 32 (leBytes ((bytesOfSector f).drop 60))

/-- A flit of a type with its link sequence, its acknowledgement and a payload (Table 2-2); payload bytes not given are zero (R39). -/
def mkFlit (type : Nat) (lseq lack : BitVec 8) (payload : List Byte) : Sector :=
  let head := [BitVec.ofNat 8 type, lseq, lack, 0] ++ (payload ++ List.replicate (56 - payload.length) 0).take 56
  sectorOfBytes (head ++ bytesLE 4 (crc32c head).toNat)

/-- The first link flits of a queue put on the link, each kept in the replay buffer of 128 flits until it is acknowledged (R36). -/
def Port.sendAll (p : Port) : List (Nat × List Byte) → Port
  | [] => { p with txq := [] }
  | f :: rest =>
    if 128 ≤ p.replay.length then { p with txq := f :: rest }
    else
      let x := mkFlit f.1 (p.lseq + 1) p.lack f.2
      { p with lseq := p.lseq + 1, replay := p.replay ++ [x], wire := p.wire ++ [x] }.sendAll rest

/-- The waiting flits of a port sent; a port that retrains or is down carries none, and they stay queued (R36). -/
def Port.flush (p : Port) : Port := if !p.trained || p.down || p.retraining then p else p.sendAll p.txq

/-- Flits queued at a port, which sends them as it can. -/
def Port.queue (p : Port) (l : List (Nat × List Byte)) : Port := { p with txq := p.txq ++ l }.flush

/-- The flits in the replay buffer sent again in their order: what the other end asked for. After 32 replays upon which it has
acknowledged nothing, the port retrains (R36). -/
def Port.replayAll (p : Port) : Port :=
  if !p.trained || p.down || p.retraining then p
  else { p with wire := p.wire ++ p.replay, resent := p.resent + 1, retraining := 32 ≤ p.resent + 1 }

/-- A port changed. -/
def State.updPort (s : State) (i : Fin 12) (f : Port → Port) : State := { s with ports := s.ports.set i (f (s.ports.get i)) }

/-- The port of a number. -/
def portFin (n : Nat) : Fin 12 := ⟨n % 12, Nat.mod_lt _ (by decide)⟩

/-! ### Transactions as flits (Table 2-3, R39) -/

/-- Data bytes cut into the payloads of data flits, type 3 (R39). -/
def dataFlits (bs : List Byte) : List (Nat × List Byte) :=
  (List.range (ceilDiv bs.length 56)).map fun k => (3, (bs.drop (56 * k)).take 56)

/-- A store's data carry bounds (R39). -/
def SecStore.bounded (st : SecStore) : Bool := st.bnds.toList.any (· != 0)

/-- Bytes with zeros after them up to a length. -/
def padTo (n : Nat) (bs : List Byte) : List Byte := bs ++ List.replicate (n - bs.length) 0

/-- The operands of a lane atomic for several lanes as data: 8 bytes for each lane, in whole units (log 15). -/
def manyData (l : List (Word × Word × Bound)) : List Byte :=
  padTo (64 * ceilDiv l.length 8) (l.flatMap fun e => bytesLE 4 e.1.toNat ++ bytesLE 4 e.2.1.toNat)
/-- Bounds of its lanes from the 17th on, in the metadata of those units. -/
def manyMeta (l : List (Word × Word × Bound)) : List Byte := padTo (8 * ceilDiv l.length 8) ((l.drop 16).flatMap fun e => bytesLE 2 e.2.2.toNat)
/-- The number of lanes, and the bounds of the first sixteen, in `opnd`. -/
def manyOpnd (l : List (Word × Word × Bound)) : BitVec 304 :=
  BitVec.ofNat 304 (leBytes ((l.take 16).flatMap fun e => bytesLE 2 e.2.2.toNat) + l.length * 2 ^ 256)

/-- What follows a request's head: the length of its data in units, whether metadata follows, and the bytes (R39). -/
def TSent.tail (t : TSent) : Nat × Bool × List Byte :=
  match t.data with
  | some st => (1, st.bounded, bytesOfSector st.data ++ if st.bounded then bytesLE 8 (mdWord st.bnds).toNat else [])
  | none =>
    if t.op = 0 then (1, false, [])
    else (ceilDiv t.many.length 8, 16 < t.many.length, manyData t.many ++ if 16 < t.many.length then manyMeta t.many else [])

/-- The flits of a request to a peer: its head, and the data and metadata of a write or of a lane atomic for several lanes (Table 2-3, R39). -/
def TSent.flits (t : TSent) (src dst : BitVec 12) (ackt : BitVec 24) : List (Nat × List Byte) :=
  let (len, md, bytes) := t.tail
  let opnd : Nat := match t.data with | some st => st.mask.toNat | none => (if t.many.isEmpty then t.opnd else manyOpnd t.many).toNat
  let head : Nat := src.toNat + dst.toNat * 2 ^ 12 + t.seq.toNat * 2 ^ 24 + ackt.toNat * 2 ^ 48 + (t.op.toNat + 16 * t.fn.toNat) % 256 * 2 ^ 72 +
    len * 2 ^ 80 + t.pa % 2 ^ 52 * 2 ^ 84 + (t.ord.toNat % 16 + 16 * md.toNat) * 2 ^ 136 + opnd * 2 ^ 144
  (1, bytesLE 56 head) :: dataFlits bytes

/-- The flits of a response: status and applied flag of Table 2-4, the old value of an atomic with its bound in the head,
and the data of a read with the metadata of each sector in data flits, with `md` and the length in units in the head (R39);
the head's layout is the model's (log 15). -/
def respFlits (src dst : BitVec 12) (seq : BitVec 24) (status : Nat) (applied : Bool) (read : Bool) (data : List Byte) : List (Nat × List Byte) :=
  let n := if read then 0 else data.length
  let md : Bool := read && data.length % 64 != 0
  let len := if read then data.length / (if md then 72 else 64) else 0
  let head : Nat := src.toNat + dst.toNat * 2 ^ 12 + seq.toNat * 2 ^ 24 + status * 2 ^ 48 + applied.toNat * 2 ^ 50 + md.toNat * 2 ^ 51 +
    len * 2 ^ 52 + n * 2 ^ 56 + (if read then 0 else leBytes (data.take 12)) * 2 ^ 64
  (2, bytesLE 56 head) :: (if read then dataFlits data else [])

/-! ### Requests of this device (R38, R40, R42) -/

/-- Kinds in `op` of Table 2-3 as the model numbers them (log 15): a write is a copy's, a posted write comes from a coalescing buffer. -/
def opRead : BitVec 8 := 0
def opWrite : BitVec 8 := 1
def opPosted : BitVec 8 := 2
def opAtomic : BitVec 8 := 3
def opProbe : BitVec 8 := 4
/-- A lane word's atomic: on a 32-bit word, with the function of R277. -/
def opLaneAtomic : BitVec 8 := 5

/-- This device's Tirsol number (R38). While the driver has set none, requests carry 0, and one that arrives is taken whatever
device it names: a DESIGN CHOICE (log 45), the spec gives no number for that time. -/
def State.ownDev (s : State) : BitVec 12 := s.dev.devNum.getD 0

/-- A port that can carry requests (R36, R37); one that retrains keeps them queued. -/
def State.portLive (s : State) (i : Nat) : Bool := match s.ports[i]? with | some p => p.trained && !p.down | none => false
/-- The live ports of a peer's set, lowest first (R42). -/
def State.livePorts (s : State) (p : BitVec 12) : List Nat := (List.range 12).filter fun i => (s.peer p.toNat).ports.getLsbD i && s.portLive i
/-- The peer is lost (R46). A peer to which no port leads, because the driver has set none, is treated as lost: a
DESIGN CHOICE (log 45), the spec names no other outcome of an access to it. -/
def State.peerLost (s : State) (p : BitVec 12) : Bool := (s.peer p.toNat).lost || (s.livePorts p).isEmpty
/-- A port of the peer's set retrains (R47). -/
def State.peerRetrains (s : State) (p : BitVec 12) : Bool :=
  (List.range 12).any fun i => (s.peer p.toNat).ports.getLsbD i && (match s.ports[i]? with | some x => x.retraining | none => false)

/-- A write to a lost peer is dropped and counted in the hub's link status, and marked for the next system-scope fence (R48). -/
def State.dropWrite (s : State) (p : BitVec 12) : State :=
  { s with dev := { s.dev with dropped := s.dev.dropped + 1, linkLost := s.dev.linkLost ||| (s.peer p.toNat).ports.setWidth 16 } }

/-- No further request to the sector may be sent now (R40). -/
def State.peerBusy (s : State) (p : BitVec 12) (pa : Nat) : Bool :=
  let x := s.peer p.toNat
  1024 ≤ x.sent.length || x.sent.any fun t => t.pa / 64 == pa / 64

/-- Bytes of a grid's traffic on the Tirsol ports, which the scheduler reads (01 R13, 04 R97). -/
def State.countTirsol (s : State) (p : Party) (n : Nat) : State :=
  match p with
  | .group t _ => let g := s.grid (s.team t).grid; if g = Grid.empty then s else s.setGrid (s.team t).grid { g with tirsAcc := g.tirsAcc + n }
  | .stream _ => s

/-- A request put on the link at its port (R38, R42). -/
def State.transmit (s : State) (p : BitVec 12) (t : TSent) : State :=
  let l := t.flits s.ownDev p (s.peer p.toNat).ackt
  (s.updPort (portFin t.port) fun x => x.queue l).countTirsol t.party (64 * l.length)

/-- A request to a peer is sent (R38, R40, R42): it takes the next sequence number and is kept until it has its response. -/
def State.sendReq (s : State) (p : BitVec 12) (t : TSent) : State :=
  let x := s.peer p.toNat
  let t := { t with seq := x.seqNext, tries := 0, port := ((s.livePorts p).head?).getD 0 }
  (s.setPeer p.toNat { x with sent := x.sent ++ [t], seqNext := x.seqNext + 1 }).transmit p t

/-- A request without operands, data or order. -/
def TSent.make (op : BitVec 8) (pa id core : Nat) (party : Party) : TSent :=
  { seq := 0, op := op, fn := 0, ord := 0, opnd := 0, pa := pa, id := id, core := core, party := party, by_ := [party], tries := 0, port := 0,
    va := 0, lane := false, data := none, many := [] }

/-- A read of a peer's sector, or a write whose bytes are kept until it has its response. -/
def State.sendPeer (s : State) (p : BitVec 12) (op : BitVec 8) (pa id core : Nat) (party : Party) (data : Option SecStore := none)
    (va : Nat := 0) (lane : Bool := false) : State :=
  s.sendReq p { TSent.make op pa id core party with data := data, va := va, lane := lane }

/-- An 8-byte atomic at a peer: function, operands (R38), for a virtual address. -/
def State.sendAtom64 (s : State) (p : BitVec 12) (fn : Nat) (x y : DWord) (pa id core : Nat) (party : Party) (va : Nat := 0) : State :=
  s.sendReq p { TSent.make opAtomic pa id core party with fn := BitVec.ofNat 4 fn, opnd := x.setWidth 304 ||| (y.setWidth 304 <<< 64), va := va }

/-- Posted writes of a party to peers without a response (R47). -/
def State.postedOf (s : State) (p : Party) : List TSent :=
  s.peers.flatMap fun e => e.2.sent.filter fun t => t.op == opPosted && t.by_.contains p

/-- Posted writes that a core's buffer has sent and that have no response, of those that satisfy `f` (R47). -/
def State.postedFrom (s : State) (core : Nat) (f : TSent → Bool) : Bool :=
  s.peers.any fun e => e.2.sent.any fun t => t.op == opPosted && t.core == core && f t

/-- The `c.fstat` bits of a peer's ports (Table 2-6). -/
def State.peerBits (s : State) (p : BitVec 12) : DWord := (s.peer p.toNat).ports.setWidth 64

end Sys2Proof.Machine
end

