-- ==== Sys2Proof/Machine/Mem.lean ====
section
/-! DEFINITION. Memory: the physical map and homes (01 R16-R23), sector metadata and bound compression (07 R175-R181),
stores and loads at a home, scratch (07 R168), the coalescing buffer and L1 (R169-R171), and translation (R188-R191). -/

namespace Sys2Proof.Machine

/-! ### The physical map -/

/-- End of the HBM window in bytes (R19). -/
def State.hbmEnd (s : State) : Nat := 4096 * s.mp.q * 8192
/-- A host memory address (R16). -/
def State.isHostMem (s : State) (pa : Nat) : Bool := s.env.hostRanges.any fun (b, n) => b ≤ pa && pa < b + n
/-- A host or pool address (R16). -/
def State.isHost (s : State) (pa : Nat) : Bool := s.isHostMem pa || s.env.poolRanges.any fun (b, n) => b ≤ pa && pa < b + n
def State.isHbm (s : State) (pa : Nat) : Bool := pa < s.hbmEnd
/-- A physical address that exists (R20). -/
def State.paOk (s : State) (pa : Nat) : Bool := s.isHbm pa || s.isHost pa

/-- Bits [hi:lo] of an address. -/
def paBits (pa hi lo : Nat) : Nat := pa / 2 ^ lo % 2 ^ (hi - lo + 1)
/-- Bucket of a page (R17). -/
def bucketOf (pa : Nat) : Nat := paBits pa 24 13 ^^^ paBits pa 36 25 ^^^ paBits pa 48 37 ^^^ paBits pa 51 49
/-- Bucket table entry of an address (R18). -/
def State.bktOf (s : State) (pa : Nat) : Word := (s.mp.bkt[bucketOf pa]?).getD 0
/-- HBM4 stack of an address (R16, R18). -/
def State.stackOf (s : State) (pa : Nat) : Nat := 3 * fieldN (s.bktOf pa) 28 3 + fieldN (s.bktOf pa) 26 2
/-- Frame of a page in its stack (R19). -/
def State.frameOf (s : State) (pa : Nat) : Nat := fieldN (s.bktOf pa) 0 12 * s.mp.q + paBits pa 51 25
/-- Address within the stack (R19). -/
def State.stackAddr (s : State) (pa : Nat) : Nat := s.frameOf pa * 8192 + pa % 8192
/-- Channel of a line (R21). -/
def channelOf (pa : Nat) : Nat :=
  (List.range 5).foldl (fun a i =>
    a + 2 ^ i * ((List.range 9).foldl (fun x k => if 8 + i + 5 * k ≤ 51 then x ^^^ paBits pa (8 + i + 5 * k) (8 + i + 5 * k) else x) 0)) 0
/-- Home slice before retirement (R21); 576 for the hub cache. -/
def State.sliceOf (s : State) (pa : Nat) : Nat := if s.isHbm pa then 32 * s.stackOf pa + channelOf pa else 576
/-- `mp.slt` of a slice (R23): [7] retired, [4:0] serving channel. -/
def State.sltOf (s : State) (sl : Nat) : BitVec 8 := KMap.get (BitVec.ofNat 8 (sl % 32)) s.mp.slt sl
/-- Home of an address after retirement (R22, R23). -/
def State.homeOf (s : State) (pa : Nat) : Nat :=
  let sl := s.sliceOf pa
  if sl < 576 ∧ (s.sltOf sl).getLsbD 7 then sl - sl % 32 + fieldN (s.sltOf sl) 0 5 else sl
/-- Die of a home; 6 for the hub. -/
def dieOfHome (h : Nat) : Nat := if h < 576 then h / 96 else 6

/-! ### Seams (R11-R13) -/

/-- The seams that traffic between two dies crosses, the hub being 6 (R12): the horizontal ones of its row when every die
on the way is live and their seams are up, else the hub seams of both ends. -/
def State.route (s : State) (a b : Nat) : List Nat :=
  let row (d : Nat) : Nat := d / 3
  let across : List Nat := (List.range 2).filterMap fun k => if min a b % 3 ≤ k ∧ k < max a b % 3 then some (6 + 2 * row a + k) else none
  let up (i : Nat) : Bool := match s.seams[i]? with | some x => x.up | none => false
  if a = b then []
  else if a < 6 ∧ b < 6 ∧ row a = row b ∧ across.all up ∧
      ((List.range 6).all fun d => !(min a b < d && d < max a b) || s.dev.dmap.getLsbD d) then across
  else [a, b].filter (· < 6)

/-- The tenant of a party's context. -/
def State.tenantOf (s : State) (p : Party) : Nat := (s.ctx (s.ctxOf p)).tenant.toNat

/-- The level of a tenant's token bucket now (04 R96): it fills at `bw` up to 10 µs of fill. -/
def State.bucket (s : State) (n : Nat) : Int :=
  let t := s.tenant n
  let bw : Int := 256 * fieldN t.budget 16 24
  min (10 * bw * Config.usUnit) (t.level + bw * (s.moment - t.levelAt))

/-- Bytes moved at a stack for a tenant with a limit on them (04 R96). -/
def State.drainTokens (s : State) (n bytes : Nat) : State :=
  if fieldN (s.tenant n).budget 16 24 = 0 then s
  else s.setTenant n { s.tenant n with level := s.bucket n - bytes * Config.usUnit, levelAt := s.moment }

/-- Bytes carried from one die to another, the hub being 6 (R12), counted at each seam they cross (R13). -/
def State.carry (s : State) (a b bytes : Nat) : State :=
  let l := s.route a b
  if l.isEmpty then s
  else { s with seams := Vector.ofFn fun i => if l.contains i.val then { s.seams[i] with carried := s.seams[i].carried + bytes } else s.seams[i] }

/-- The same for a party, whose grid they are counted for too (04 R97). -/
def State.carryFor (s : State) (p : Party) (a b bytes : Nat) : State :=
  let n := (s.route a b).length
  let t := s.carry a b bytes
  match p with
  | .group h _ =>
    let g := t.grid (t.team h).grid
    if n = 0 ∨ g = Grid.empty then t else t.setGrid (t.team h).grid { g with seamAcc := g.seamAcc + bytes * n }
  | .stream _ => t

/-- Bytes of a party's traffic between its core and a die, and at a stack for its tenant (04 R96). -/
def State.haul (s : State) (p : Party) (core to_ bytes : Nat) : State :=
  (if to_ < 6 then s.drainTokens (s.tenantOf p) bytes else s).carryFor p (dieOfCore core) to_ bytes

/-- Bytes of a party's traffic between two cores: the scratch window and messages across a straddled seam (R168, 05 R135). -/
def State.haulCores (s : State) (p : Party) (a b bytes : Nat) : State := s.carryFor p (dieOfCore a) (dieOfCore b) bytes

/-- One sector carried between a core and the home of an address. -/
def State.haulSector (s : State) (p : Party) (core pa : Nat) : State := s.haul p core (dieOfHome (s.homeOf pa)) 64

/-! ### Metadata (R175-R178) -/

/-- A metadata region covers the address (R181). -/
def State.inRegion (s : State) (pa : Nat) : Bool :=
  s.isHbm pa && s.dev.mdrgn.toList.any fun e =>
    e.getLsbD 63 && fieldN e 0 31 * 2 ^ 21 ≤ pa && pa < (fieldN e 0 31 + fieldN e 32 31 + 1) * 2 ^ 21

/-- Metadata of a physical sector; outside every region none (R181). -/
def State.mdOf (s : State) (sec : Nat) : DWord := if s.inRegion (64 * sec) then KMap.get 0 s.md sec else 0

/-- The bytes a store names written into a memory. -/
def writeMasked (m : List Host.Cell) (base : Nat) (st : SecStore) : List Host.Cell :=
  (List.range 64).foldl (fun m i => if st.mask.getLsbD i then KMap.set 0 m (base + i) (st.data.byte i) else m) m

/-- Bytes of a sector after a store. -/
def mergeData (old : Sector) (st : SecStore) : Sector :=
  sectorOfBytes ((List.range 64).map fun i => if st.mask.getLsbD i then st.data.byte i else old.byte i)

/-! ### Stores and loads at a home -/

/-- 8-byte value at a physical address. -/
def State.read64 (s : State) (pa : Nat) : DWord := BitVec.ofNat 64 (readLE s.mem pa 8)

/-- Event-watch entries and entries of the dependence table in a sector marked where their counter has reached its target
(05 R134, 04 R91, R92). -/
def State.noteWatches (s : State) (sec : Nat) : State :=
  { s with
    watches := s.watches.map fun x => if x.pa / 64 = sec ∧ x.target.toNat ≤ (s.read64 x.pa).toNat then { x with hit := true } else x
    deptab := s.deptab.map fun x => if x.pa / 64 = sec ∧ x.target ≤ (s.read64 x.pa).toNat then { x with met := true } else x }

/-- A line of host or pool memory becomes dirty in the hub cache (03 R59, R75): what the memory behind it holds is kept. -/
def State.hubDirty (s : State) (sec : Nat) : KMap Sector :=
  if s.isHbm (64 * sec) || s.hubCache.any (·.1 == sec) then s.hubCache else KMap.ins s.hubCache sec (readSector s.mem sec)

/-- A line of the hub cache is written back (03 R75). -/
def State.settleHub (s : State) (sec : Nat) : State := { s with hubCache := s.hubCache.filter (·.1 != sec) }

/-- A store performed at its home (R177-R181); a store of all 64 bytes replaces poisoned data. -/
def State.homeStore (s : State) (sec : Nat) (st : SecStore) (copy : Bool) : State :=
  let md := if s.inRegion (64 * sec) then KMap.set 0 s.md sec (mergeMd (KMap.get 0 s.md sec) st copy) else s.md
  let poison := if st.mask = BitVec.allOnes 64 then s.poison.filter (· != sec) else s.poison
  ({ s with mem := writeMasked s.mem (64 * sec) st, md := md, poison := poison, hubCache := s.hubDirty sec }).noteWatches sec

/-- A sector's bytes and bounds at its home (R176, R181). -/
def State.homeLoad (s : State) (sec : Nat) : Sector × Vector Bound 16 := (readSector s.mem sec, mdBounds (s.mdOf sec))

/-- A store of n bytes at an offset of a sector, with one bound for every word it touches. -/
def secStore (off n : Nat) (v : Nat) (b : Bound) : SecStore where
  mask := BitVec.ofNat 64 ((2 ^ n - 1) * 2 ^ off)
  data := BitVec.ofNat 512 (v % 2 ^ (8 * n) * 2 ^ (8 * off))
  bnds := Vector.ofFn fun i => if off < 4 * i.val + 4 ∧ 4 * i.val < off + n then b else 0
  tset := 0
  hset := false

/-- A store of words with their bounds at an offset of a sector. -/
def secWords (off : Nat) (l : List LaneVal) : SecStore where
  mask := BitVec.ofNat 64 ((2 ^ (4 * l.length) - 1) * 2 ^ off)
  data := BitVec.ofNat 512 ((l.foldr (fun x a => x.val.toNat + 2 ^ 32 * a) 0) * 2 ^ (8 * off))
  bnds := Vector.ofFn fun i => if off ≤ 4 * i.val ∧ 4 * i.val < off + 4 * l.length then ((l[i.val - off / 4]?).getD LaneVal.zero).bnd else 0
  tset := 0
  hset := false

/-- An aligned store of n ≤ 8 bytes with an exact bound, performed at its home. -/
def State.homeWrite (s : State) (pa n v : Nat) : State := s.homeStore (pa / 64) (secStore (pa % 64) n v 0) false

/-! ### Scratch (R168, R175) -/

/-- A store to a scratch sector of a core, performed at the core (R177-R180). -/
def Core.scrStore (c : Core) (sec : Nat) (st : SecStore) (copy : Bool) : Core :=
  { c with scratch := writeMasked c.scratch (64 * sec) st,
           scrMeta := KMap.set 0 c.scrMeta sec (mergeMd (KMap.get 0 c.scrMeta sec) st copy) }
def Core.scrLoad (c : Core) (sec : Nat) : Sector × Vector Bound 16 := (readSector c.scratch sec, mdBounds (KMap.get 0 c.scrMeta sec))

/-- Bytes of scratch of a team of a grid (04 R82). -/
def Grid.scrBytes (g : Grid) : Nat := fieldN g.cfg 16 7 * 4096

/-- The team and offset a scratch address names, or none where it raises ACCESS (R168). A team of the cluster that has ended is
named like another, on the range of its core's scratch that it had, which a later team may hold by then: a DESIGN CHOICE
(log 45), the spec gives neither an effect nor a cause for that access. -/
def State.scratchTarget (s : State) (team : Nat) (a : Nat) : Option (Nat × Nat) :=
  let t := s.team team
  let size := (s.grid t.grid).scrBytes
  let win := paBits a 24 24
  let die := paBits a 23 23
  let cc := paBits a 22 19
  let off := a % 2 ^ 19
  if 2 ^ 25 ≤ a ∨ size ≤ off then none
  else if win = 0 then (if die = 0 ∧ cc = 0 then some (team, off) else none)
  else
    match t.cluster[cc]? with
    | none => none
    | some h => if (s.team h).far = decide (die = 1) then some (h, off) else none

/-- Offset in its core's scratch of a team's scratch offset. -/
def Team.scrAddr (t : Team) (off : Nat) : Nat := t.scrBase + off

/-- Number of a word of a core's scratch among the words a group has written. -/
def wordKey (core w : Nat) : Nat := 2097152 * core + w

/-- A store of the executing party to a sector of a core's scratch: its words are noted as written (08 R204). -/
def State.scrPut (s : State) (core sec : Nat) (st : SecStore) (copy : Bool) : State :=
  let t := s.updCore core fun c => c.scrStore sec st copy
  match s.who with
  | .group _ _ => t.updCur (·.touchWords (((List.range 16).filter fun i => fieldN st.mask (4 * i) 4 != 0).map fun i => wordKey core (16 * sec + i)))
  | .stream _ => t

/-- A store of one sector's bytes into a team's scratch. -/
def State.scrStore (s : State) (team off : Nat) (f : Nat → SecStore) (copy : Bool) : State :=
  let t := s.team team
  let a := t.scrAddr off
  s.scrPut t.core (a / 64) (f (a % 64)) copy

/-- n bytes of a team's scratch. -/
def State.scrBytes (s : State) (team off n : Nat) : List Byte :=
  let t := s.team team
  readBytes (s.core t.core).scratch (t.scrAddr off) n
/-- The bound of the word at an offset of a team's scratch. -/
def State.scrBound (s : State) (team off : Nat) : Bound :=
  let t := s.team team
  let a := t.scrAddr off
  mdBound (KMap.get 0 (s.core t.core).scrMeta (a / 64)) (a % 64 / 4)

/-! ### Translation (R188, R189) -/

/-- A translation maps an address with the permission asked for. -/
def transCovers (t : Trans) (pasid : BitVec 20) (va : Nat) (write : Bool) : Bool :=
  t.pasid == pasid && t.va ≤ va && va < t.va + 2 ^ t.bits && (if va / 4096 % 2 = 0 then t.lo else t.hi) && (if write then t.wr else t.rd)

/-- Physical address under a translation. -/
def transAddr (t : Trans) (va : Nat) : Nat := t.pa + (va - t.va)

/-- Block of a core in its package: 24 per die (R15). -/
def blockOf (core : Nat) : Nat :=
  let c := core % 288
  24 * (core / 288) + 8 * (c / 24 / 4) + c % 24 / 3

/-- The first n entries of a table of translations: the halves that two 4 KiB completions fill are one entry of 8 KiB (R188). -/
def keepEntries (n : Nat) (l : List Trans) : List Trans :=
  let key (t : Trans) : BitVec 20 × Nat × Nat := (t.pasid, max 13 t.bits, t.va / 2 ^ max 13 t.bits)
  let keys := (l.map key).eraseDups.take n
  l.filter fun t => keys.contains (key t)

/-- The translation held for an address, in lookup order: core TLB, block TLB, translation cache (R188). -/
def State.translate (s : State) (core : Nat) (pasid : BitVec 20) (va : Nat) (write : Bool) : Option Trans :=
  let d := s.die (dieOfCore core)
  let hit := fun t => transCovers t pasid va write
  match (s.core core).tlb.find? hit with
  | some t => some t
  | none =>
    match (KMap.get [] d.btlb (blockOf core)).find? hit with
    | some t => some t
    | none => d.tcache.find? hit

/-- Cores of a block. -/
def coresOfBlock (b : Nat) : List Nat :=
  let d := b / 24
  let y0 := b % 24 / 8 * 4
  let x0 := b % 8 * 3
  (List.range 12).map fun i => 288 * d + 24 * (y0 + i / 3) + x0 + i % 3

/-- The core TLB and block TLB filled with a translation, oldest entry dropped (R188). An older alias of the physical page
in the block loses its translations and its L1 sectors, so that no two aliases are resident at once (R189). -/
def State.fillTlbs (s : State) (core : Nat) (t : Trans) : State :=
  if Config.coreCount ≤ core then s
  else
    let dn := dieOfCore core
    let d := s.die dn
    let b := blockOf core
    let bt := KMap.get [] d.btlb b
    let s :=
      if bt.contains t then s
      else
        let olds := bt.filter fun o => o.pasid == t.pasid && o.peer == t.peer && (o.va : Int) - o.pa != (t.va : Int) - t.pa &&
          o.pa < t.pa + 2 ^ t.bits && t.pa < o.pa + 2 ^ o.bits
        let s := s.setDie dn { d with btlb := KMap.set [] d.btlb b (keepEntries 4096 (t :: bt.filter fun o => !olds.contains o)) }
        if olds.isEmpty then s
        else (coresOfBlock b).foldl (fun s c => s.updCore c fun x =>
          { x with tlb := x.tlb.filter fun o => !olds.contains o,
                   l1 := x.l1.filter fun l => !(olds.any fun o => (s.ctx l.ctx).pasid == o.pasid && o.va ≤ 64 * l.va && 64 * l.va < o.va + 2 ^ o.bits) }) s
    if (s.core core).tlb.contains t then s else s.updCore core fun c => { c with tlb := keepEntries 256 (t :: c.tlb) }

/-- A request for a page recorded at a die when none is outstanding for it (R188, R191), with the parties whose instruction
waits for it at issue; `unit` where the launch unit or a host write waits. What asks for write permission while a read
request is outstanding, or for a page beyond 512 requests, asks again when one has been answered. -/
def State.askPageFor (s : State) (ps : List Party) (die : Nat) (pasid : BitVec 20) (va : Nat) (write : Bool) (unit : Bool := ps.isEmpty) : State :=
  let d := s.die die
  let page := va / 8192
  let here (r : PageReq) : Bool := r.pasid == pasid && r.page == page
  let same (r : PageReq) : Bool := here r && (r.write || !write)
  if d.reqs.any here then
    s.setDie die { d with reqs := d.reqs.map fun r => if same r then { r with waiters := r.waiters ++ ps.filter (fun p => !r.waiters.contains p), unit := r.unit || unit } else r }
  else if 512 ≤ d.reqs.length then s
  else s.setDie die { d with reqs := d.reqs ++ [⟨pasid, page, write, false, ps, unit⟩] }

/-- A page asked for by the operand log, an engine or a walker: what waits for it is found by its address. -/
def State.askEngine (s : State) (die : Nat) (pasid : BitVec 20) (va : Nat) (write : Bool) : State := s.askPageFor [] die pasid va write false

/-- The page has been asked for already. -/
def State.asked (s : State) (die : Nat) (pasid : BitVec 20) (va : Nat) (write unit : Bool) : Bool :=
  (s.die die).reqs.any fun r => r.pasid == pasid && r.page == va / 8192 && (r.write || !write) && (r.unit || !unit)

/-- A page asked for on behalf of the party whose instruction is executed. -/
def State.askPage (s : State) (die : Nat) (pasid : BitVec 20) (va : Nat) (write : Bool) : State := s.askPageFor [s.who] die pasid va write

/-- Result of looking up one global address: a page to wait for, an address that does not exist (R20), or a place. -/
inductive Look where
  | miss
  | bad
  | here (pa : Nat)
  | peer (p : BitVec 12) (pa : Nat)
deriving DecidableEq, Repr

/-- Where an address of a party's space lies. -/
def State.look (s : State) (core : Nat) (pasid : BitVec 20) (va : Nat) (write : Bool) : Look :=
  match s.translate core pasid va write with
  | none => .miss
  | some t =>
    match t.peer with
    | some p => .peer p (transAddr t va)
    | none => if s.paOk (transAddr t va) then .here (transAddr t va) else .bad

/-- Where an address lies for a walker: its die's translation cache (R188). -/
def State.lookWalker (s : State) (w : Nat) (pasid : BitVec 20) (va : Nat) (write : Bool) : Look :=
  match (s.die w).tcache.find? fun t => transCovers t pasid va write with
  | none => .miss
  | some t =>
    match t.peer with
    | some p => .peer p (transAddr t va)
    | none => if s.paOk (transAddr t va) then .here (transAddr t va) else .bad

/-- The TLBs filled for an address that translates. -/
def State.fillFor (s : State) (core : Nat) (pasid : BitVec 20) (va : Nat) (write : Bool) : State :=
  match s.translate core pasid va write with
  | some t => s.fillTlbs core t
  | none => s

/-! ### Coalescing buffer and L1 (R169, R170) -/

/-- Two stores to one sector merged, the later's bytes taking precedence (R170). -/
def mergeStores (a b : SecStore) : SecStore where
  mask := a.mask ||| b.mask
  data := mergeData a.data b
  bnds := Vector.ofFn fun i =>
    match fieldN b.mask (4 * i.val) 4 with
    | 0 => a.bnds[i]
    | 15 => b.bnds[i]
    | _ => if fieldN a.mask (4 * i.val) 4 = 0 then b.bnds[i] else bndMax a.bnds[i] b.bnds[i]
  tset := mergeT a.tset b
  hset := if fieldN b.mask 0 8 = 0 then a.hset else b.hset

/-- Codes' bounds of an entry's own words alone (R170). -/
def ownBounds (st : SecStore) : Vector Bound 16 :=
  mdBounds (mdMake false 0 (Vector.ofFn fun i => if fieldN st.mask (4 * i.val) 4 = 0 then 0 else st.bnds[i]))

/-- A sector as a load of the core sees it under a buffered store (R170). -/
def overlay (base : Sector × Vector Bound 16) (st : SecStore) (region : Bool) : Sector × Vector Bound 16 :=
  let own := ownBounds st
  (mergeData base.1 st,
    Vector.ofFn fun i =>
      if !region then 0
      else
        match fieldN st.mask (4 * i.val) 4 with
        | 0 => base.2[i]
        | 15 => own[i]
        | _ => bndMax base.2[i] own[i])

/-- A sector is resident in a core's L1 for a party's context (R169). -/
def State.inL1 (s : State) (core : Nat) (p : Party) (sec : Nat) : Option L1Sector :=
  (s.core core).l1.find? fun l => l.ctx == s.ctxOf p && l.va == sec

/-- A buffered sector is the one at a virtual address of an address space: its own, or another alias of the physical sector (R189, 08 R196). -/
def State.isSector (s : State) (core : Nat) (pasid : BitVec 20) (sec : Nat) (e : CbEntry) : Bool :=
  let place := match s.look core pasid (64 * sec) false with | .miss => s.look core pasid (64 * sec) true | r => r
  e.pasid == pasid && (e.va == sec ||
    (match place with
     | .here a => e.peer.isNone && e.pa == a / 64
     | .peer d a => e.peer == some d && e.pa == a / 64
     | _ => false))

/-- The core's buffered stores to a sector of a party's address space (R170). -/
def State.buffered (s : State) (core : Nat) (p : Party) (sec : Nat) : Option CbEntry :=
  (s.core core).cbuf.find? (s.isSector core (s.pasidOf p) sec)

/-- Words of a sector carry bounds: in a metadata region (R181), and in a peer's memory, of which the peer knows that (02 R39). -/
def State.keepsBounds (s : State) (peer : Option (BitVec 12)) (pa : Nat) : Bool := peer.isSome || s.inRegion (64 * pa)

/-- A buffered entry laid over a sector that a load of the core would take without it (R170). -/
def State.overBuffer (s : State) (core : Nat) (p : Party) (sec : Nat) (base : Sector × Vector Bound 16) : Sector × Vector Bound 16 :=
  match s.buffered core p sec with
  | some e => overlay base e.store (s.keepsBounds e.peer e.pa)
  | none => base

/-- A core's view of a sector: its coalescing buffer over L1 or the home. -/
def State.viewSector (s : State) (core : Nat) (p : Party) (va pa : Nat) : Sector × Vector Bound 16 :=
  s.overBuffer core p va (match s.inL1 core p va with | some l => (l.data, l.bnds) | none => s.homeLoad pa)

/-- A sector put into L1, which keeps 512 lines: the line filled now, and of the others those that are evicted later, by rank
and then by age (R169, 15 R342). -/
def keepLines (x : L1Sector) (l : List L1Sector) : List L1Sector :=
  let key (y : L1Sector) : Nat × Nat := (y.ctx, y.va / 4)
  let order := [0, 1, 2].flatMap fun r => l.filter fun y => y.rank == r
  let lines := ((x :: order).map key).eraseDups.take 512
  x :: l.filter fun y => lines.contains (key y)

/-- The rank that a load's cache hint gives a line: keep, normal, stream (15 R342). -/
def hintRank (hint : BitVec 2) : Nat := if hint = 3 then 0 else if hint = 1 then 2 else 1

/-- L1 filled with a sector that a load missed, under what the core has buffered for it (R169, R170). -/
def State.fillL1With (s : State) (core : Nat) (p : Party) (va : Nat) (x : Sector × Vector Bound 16) (hint : BitVec 2 := 0) : State :=
  if Config.coreCount ≤ core ∨ (s.inL1 core p va).isSome then s
  else
    let (d, b) := s.overBuffer core p va x
    s.updCore core fun c => { c with l1 := keepLines ⟨s.ctxOf p, va, d, b, (s.buffered core p va).isSome, hintRank hint⟩ c.l1 }

/-- L1 filled with a sector of this device's memory. -/
def State.fillL1 (s : State) (core : Nat) (p : Party) (va pa : Nat) (hint : BitVec 2 := 0) : State := s.fillL1With core p va (s.homeLoad pa) hint

/-- The buffer holds the sector or has a free entry (R170). -/
def Core.cbRoom (c : Core) (pasid : BitVec 20) (va : Nat) : Bool :=
  c.cbuf.any (fun e => e.pasid == pasid && e.va == va) || c.cbuf.length < Config.cbufEntries

/-- A store entered into the core's coalescing buffer, and into L1 where the sector is resident (R170). -/
def State.bufStore (s : State) (core : Nat) (p : Party) (va pa : Nat) (peer : Option (BitVec 12)) (st : SecStore) : State :=
  let c := s.core core
  let pasid := s.pasidOf p
  let old := c.cbuf.find? fun e => e.pasid == pasid && (e.va == va || (e.peer == peer && e.pa == pa))
  let merged := match old with | some e => mergeStores e.store st | none => st
  let buf := match old with
    | some o => c.cbuf.map fun e => if e.pasid == pasid && e.va == o.va then { e with store := merged, by_ := if e.by_.contains p then e.by_ else e.by_ ++ [p] } else e
    | none => c.cbuf ++ [⟨pasid, va, pa, peer, st, [p]⟩]
  let region := s.keepsBounds peer pa
  let own := ownBounds merged
  let l1 := c.l1.map fun l =>
    if (s.ctx l.ctx).pasid == pasid && l.va == va then
      { l with data := mergeData l.data st, dirty := true,
               bnds := Vector.ofFn fun i => if !region then 0 else
                 match fieldN st.mask (4 * i.val) 4 with
                 | 0 => l.bnds[i]
                 | 15 => own[i]
                 | _ => bndMax l.bnds[i] own[i] }
    else l
  s.setCore core { c with cbuf := buf, l1 := l1 }

/-- A control core has no coalescing buffer of its own: its stores are performed at their homes (R56). -/
def State.putStore (s : State) (core : Nat) (p : Party) (va pa : Nat) (peer : Option (BitVec 12)) (st : SecStore) : State :=
  if core < Config.coreCount then s.bufStore core p va pa peer st
  else if peer.isSome then s.bufStore core p va pa peer st
  else (s.homeStore pa st false).haulSector p core (64 * pa)

/-- A write-through has been performed: the core's L1 copies of the sector are clean (R169 Table 7-3). -/
def State.cleanL1 (s : State) (core : Nat) (pasid : BitVec 20) (sec : Nat) : State :=
  s.updCore core fun c => { c with l1 := c.l1.map fun l => if (s.ctx l.ctx).pasid == pasid && l.va == sec then { l with dirty := false } else l }

/-- A buffered sector performed at its home, or sent to its peer as a posted write (R170, 02 R44): an L1 copy is clean once the
write is performed. -/
def State.drainEntry (s : State) (core : Nat) (e : CbEntry) : State :=
  let w := e.by_.headD s.who
  let s := s.updCore core fun c => { c with cbuf := c.cbuf.filter fun x => !(x.pasid == e.pasid && x.va == e.va) }
  match e.peer with
  | none => ((s.cleanL1 core e.pasid e.va).homeStore e.pa e.store false).haulSector w core (64 * e.pa)
  | some p =>
    if s.peerLost p then s.dropWrite p
    else (s.sendReq p { TSent.make opPosted (64 * e.pa) 0 core w with data := some e.store, va := 64 * e.va, by_ := e.by_ }).haul w core 6 64

/-- A buffered sector can be performed at its home, or sent to its peer, now (02 R40). -/
def State.canDrain (s : State) (e : CbEntry) : Bool := match e.peer with | some d => s.peerLost d || !s.peerBusy d (64 * e.pa) | none => true

/-- Those of some buffered sectors drained that can be. -/
def State.drainAll (s : State) (core : Nat) (l : List CbEntry) : State :=
  l.foldl (fun s e => if s.canDrain e then s.drainEntry core e else s) s

/-- Loads on their way to peers that satisfy `f`, and reads of the core's units that satisfy `g`, will not fill L1: what they bring
may be older than an acquire or an invalidation made since (08 R199, R190). -/
def State.noFills (s : State) (f : MemReq → Bool) (g : TSent → Bool) : State :=
  { s with
    atoms := s.atoms.map fun q => if f q then { q with hint := 2 } else q
    peers := s.peers.map fun (e : Nat × Peer) => (e.1, { e.2 with sent := e.2.sent.map fun t => if t.op == opRead && g t then { t with by_ := [] } else t }) }

/-- L1 of a core emptied: an acquire at cluster scope or wider (R171). -/
def State.dropL1 (s : State) (core : Nat) : State :=
  (s.updCore core fun c => { c with l1 := [] }).noFills (fun q => s.coreOf q.party == core) (·.core == core)

/-! ### Invalidations (R190) -/

/-- A translation matches an invalidation (R190). -/
def invalHits (x : Inval) (t : Trans) : Bool := t.pasid == x.pasid && t.va < x.va + x.size && x.va < t.va + 2 ^ t.bits

/-- n bytes of an address space lie in an invalidated range. -/
def Inval.covers (x : Inval) (pasid : BitVec 20) (va n : Nat) : Bool := x.pasid == pasid && va < x.va + x.size && x.va < va + n

/-- The buffered stores of a core that match an invalidation performed at their homes, or sent where they can be (R190 step 3). -/
def State.drainInvals (s : State) (core : Nat) (log : List Inval) : State :=
  s.drainAll core ((s.core core).cbuf.filter fun e => log.any fun x => x.covers e.pasid (64 * e.va) 64)

/-- Requests under way from a die through an invalidated range: those of instructions, by id. -/
def State.idsUnder (s : State) (die : Nat) (x : Inval) : List Nat :=
  (s.atoms.filter fun q => s.dieOf q.party == die && (List.range 32).any fun i => q.lanes.getLsbD i && x.covers (s.pasidOf q.party) ((q.addr[i]?).getD 0).toNat q.bytes).map (·.id)

/-- Those sent to peers, by device and sequence number. -/
def State.sentUnder (s : State) (die : Nat) (x : Inval) : List (Nat × BitVec 24) :=
  s.peers.flatMap fun e => (e.2.sent.filter fun t => dieOfCore t.core == die && x.covers (s.pasidOf t.party) (t.va / 64 * 64) 64).map fun t => (e.1, t.seq)

/-- An access translated through a removed translation has not been performed yet (R190 step 3). -/
def State.invalWaits (s : State) (die : Nat) (x : Inval) : Bool :=
  (s.atoms.any fun q => x.ids.contains q.id) ||
    (s.peers.any fun e => e.2.sent.any fun t => x.posted.contains (e.1, t.seq)) ||
    (s.cores.any fun e => dieOfCore e.1 == die && e.2.cbuf.any fun c => c.peer.isSome && x.covers c.pasid (64 * c.va) 64)

/-- Translations and L1 sectors of some log entries removed at a die, and its buffered stores drained (R190 steps 1 to 3). -/
def State.removeInvals (s : State) (die : Nat) (new : List Inval) : State :=
  let d := s.die die
  let keep := fun t => !(new.any fun x => invalHits x t)
  let s := s.setDie die { d with tcache := d.tcache.filter keep,
                                 btlb := d.btlb.filterMap (fun (k, l) => if (l.filter keep).isEmpty then none else some (k, l.filter keep)) }
  let s := s.noFills
    (fun q => s.dieOf q.party == die && (lanesOf q.lanes).any fun i => new.any fun x => x.covers (s.pasidOf q.party) ((q.addr[i]?).getD 0).toNat q.bytes)
    (fun t => dieOfCore t.core == die && new.any fun x => x.covers (s.pasidOf t.party) (t.va / 64 * 64) 64)
  (s.cores.filter fun e => dieOfCore e.1 == die).foldl (fun s (n, _) => (s.drainInvals n new).updCore n fun c =>
    { c with tlb := c.tlb.filter keep, l1 := c.l1.filter fun l => !(new.any fun x => x.covers (s.ctx l.ctx).pasid (64 * l.va) 64) }) s

/-- The log entries that every live die has applied: the host receives their completions (R190). -/
def State.completeInvals (s : State) (l : List Inval) : State :=
  { s with dev := { s.dev with invalDone := s.dev.invalDone ++
      ((l.map (·.seq)).filter fun n => !(s.dies.any fun e => e.1 < 6 && e.2.invlog.any (·.seq == n))) } }

/-- A die applies its invalidation log (R190): what is new is removed at once, and an entry leaves the log when no access
waits that was translated through what it removed. -/
def State.applyInvals (s : State) (die : Nat) : State :=
  if (s.die die).invlog.isEmpty then s
  else
    let new := (s.die die).invlog.filter (!·.removed)
    let t := if new.isEmpty then s else s.removeInvals die new
    let log := (t.die die).invlog.map fun x => if x.removed then x else { x with removed := true, ids := t.idsUnder die x, posted := t.sentUnder die x }
    let left := log.filter (t.invalWaits die)
    let u := t.setDie die { t.die die with invlog := left }
    if die < 6 then u.completeInvals (log.filter fun x => !t.invalWaits die x) else u

/-- An acquire at cluster scope or wider of a group of a gang's member: it has observed the gangs that are complete (19 R406, log 45). -/
def State.seeGangs (s : State) (p : Party) : State :=
  match p with
  | .stream _ => s
  | .group h g =>
    let done (q : SeqCmd) : Bool := match q.kind with | .share gang _ => q.onTeam == h && !(s.gangs.any fun e => e.1 == gang) && !q.seen.contains g.val | _ => false
    if (s.core (s.coreOf p)).past.any done then
      s.updCore (s.coreOf p) fun c => { c with past := c.past.map fun q => if done q then { q with seen := g.val :: q.seen } else q }
    else s

/-- The L1 and log actions of an acquire at a scope (R171 Table 7-4); at device scope or wider it completes once the
entries that its die's log holds now have been applied (R190). -/
def State.acquireAt (s : State) (p : Party) (scope : Nat) : State :=
  let core := s.coreOf p
  let s := if 1 ≤ scope then (s.dropL1 core).seeGangs p else s
  if 2 ≤ scope then
    let t := s.applyInvals (dieOfCore core)
    let log := (t.die (dieOfCore core)).invlog
    if log.isEmpty then t else t.updGrp p fun g => { g with invalTill := log.foldl (fun n x => max n (x.seq + 1)) g.invalTill }
  else s

/-! ### Atomic operations (13 R303, 14 Table 15-3, 10 R236) -/

/-- New value of an atomic on n-bit words (R277): add, and, or, xor, min, max, minu, maxu, xchg. -/
def atomInt {n : Nat} (op : Nat) (old x : BitVec n) : BitVec n :=
  match op with
  | 0 => old + x
  | 1 => old &&& x
  | 2 => old ||| x
  | 3 => old ^^^ x
  | 4 => if old.sle x then old else x
  | 5 => if old.sle x then x else old
  | 6 => if old ≤ x then old else x
  | 7 => if old ≤ x then x else old
  | _ => x

/-- FP32 add at the home: FULL, RNE (R200). -/
def atomFadd (old x : Word) (bo bx : Bound) : Word × Bound :=
  let a := decodeF (ffmt 0) old.toNat
  let b := decodeF (ffmt 0) x.toNat
  let r := writeFloat 0 0 0 true false (sumF false [a, b]) (sumF false [a, b]) (badd (bval bo) (bval bx)) 0
  (BitVec.ofNat 32 r.code, r.bnd)

/-- Bound an integer atomic stores (R236): add, bitwise, min and max, exchange. -/
def atomBound {n : Nat} (op : Nat) (old x : BitVec n) (bo bx : Bound) : Bound :=
  match op with
  | 0 => if (old.toInt + x.toInt) = (old + x).toInt then roundUpB16 (badd (bval bo) (bval bx)) else bInf
  | 1 | 2 | 3 => exactOr [bo, bx]
  | 4 | 5 | 6 | 7 => roundUpB16 (bmax (bval bo) (bval bx))
  | _ => bx

/-- One 4-byte atomic (R277 ops 0 to 12; 9 and 12 compare with `x` and store `y`): new word and bound, and whether it stores. -/
def atom32 (op : Nat) (old x y : Word) (bo bx bb : Bound) : Word × Bound × Bool :=
  match op with
  | 9 | 12 => if old = x then (y, bb, true) else (old, bo, false)
  | 10 => let (v, b) := atomFadd old x bo bx; (v, b, true)
  | 11 => (old + x, atomBound 0 old x bo bx, true)
  | _ => (atomInt op old x, atomBound op old x bo bx, true)

/-- One 8-byte atomic (R277). -/
def atom64 (op : Nat) (old x y : DWord) (bo bx : Bound) : DWord × Bound × Bool :=
  match op with
  | 9 => if old = x then (y, bx, true) else (old, bo, false)
  | _ => (atomInt op old x, atomBound op old x bo bx, true)

/-- An 8-byte atomic performed at its home: the larger of the two stored bounds enters, and its result bounds both words (R236, R303). -/
def State.homeAtom64 (s : State) (op pa : Nat) (x y : DWord) : State × DWord :=
  let (d, b) := s.homeLoad (pa / 64)
  let old : DWord := d.extractLsb' (8 * (pa % 64)) 64
  let bo := bndMax ((b[pa % 64 / 4]?).getD 0) ((b[pa % 64 / 4 + 1]?).getD 0)
  let (v, nb, st) := atom64 op old x y bo 0
  (if st then s.homeStore (pa / 64) (secStore (pa % 64) 8 v.toNat nb) false else s, old)

/-- An atomic add that the device makes at a counter's home (R58, R60, R88, R184). -/
def State.homeAdd (s : State) (pa : Nat) (v : DWord) : State := (s.homeAtom64 0 pa v 0).1

/-- A 4-byte atomic performed at its home, with the operands' bounds (R200, R236). -/
def State.homeAtom32 (s : State) (op pa : Nat) (x y : LaneVal) : State × LaneVal :=
  let (d, b) := s.homeLoad (pa / 64)
  let old : Word := d.extractLsb' (8 * (pa % 64)) 32
  let bo := (b[pa % 64 / 4]?).getD 0
  let (v, nb, st) := atom32 op old x.val y.val bo x.bnd y.bnd
  (if st then s.homeStore (pa / 64) (secStore (pa % 64) 4 v.toNat nb) false else s, ⟨old, bo⟩)

end Sys2Proof.Machine
end

