-- ==== Sys2Proof/Machine/Report.lean ====
section
/-! DEFINITION. The error ring and its records (03 R79, R80, Tables 3-12, 3-13), and MSI-X signals. -/

namespace Sys2Proof.Machine

/-- An MSI-X vector signalled. -/
def State.signal (s : State) (v : Nat) : State := { s with dev := { s.dev with msix := s.dev.msix ++ [v] } }

/-- Nanoseconds since step 1 of the last start, as the model counts time (Table 3-12; log 7). -/
def State.recordTime (s : State) : Nat := (s.moment - s.dev.stepOne) * 1000 / Config.usUnit

/-- A record without its `dropped` field (Table 3-12). -/
def recordBytes (s : State) (type source sev loc pa count ctx detail : Nat) : List Byte :=
  bytesLE 2 type ++ bytesLE 1 source ++ bytesLE 1 sev ++ bytesLE 4 s.dev.recSeq ++
    bytesLE 8 s.recordTime ++ bytesLE 8 loc ++ bytesLE 8 pa ++ bytesLE 8 count ++
    bytesLE 2 ctx ++ bytesLE 6 0 ++ bytesLE 16 detail

/-- A record with its `dropped` field, bytes 42 to 47. -/
def recordDropped (r : List Byte) (n : Nat) : List Byte :=
  r.take 42 ++ bytesLE 6 (min n (2 ^ 48 - 1)) ++ r.drop 48

/-- A record written to the set ring, or dropped and counted when it is full (R79). -/
def State.ringPut (s : State) (r : List Byte) : State :=
  let d := s.dev
  let size := d.erqSize.toNat
  if (d.erqHead.toNat + 1) % size = d.erqTail.toNat % size then { s with dev := { d with erdrop := d.erdrop + 1 } }
  else
    ({ s with iomem := writeBytes s.iomem (d.erqBase.toNat + 64 * d.erqHead.toNat) (recordDropped r d.erdrop),
              dev := { d with erqHead := BitVec.ofNat 64 ((d.erqHead.toNat + 1) % size) } }).signal 0

/-- A record put in the set ring, or in the start buffer while the ring is unset (R79, R80). -/
def State.putRecord (s : State) (r : List Byte) : State :=
  if s.dev.erqSet then s.ringPut r
  else if s.dev.startBuf.length < 64 then { s with dev := { s.dev with startBuf := s.dev.startBuf ++ [r] } }
  else { s with dev := { s.dev with erdrop := s.dev.erdrop + 1 } }

/-- An event reported (R79, R80). A record that is dropped has used up its number: a DESIGN CHOICE (log 45), the spec does not say
whether `seq` counts it. -/
def State.report (s : State) (type source sev loc pa count ctx detail : Nat) : State :=
  ({ s with dev := { s.dev with recSeq := s.dev.recSeq + 1 } }).putRecord (recordBytes s type source sev loc pa count ctx detail)

/-- `loc` of a record (Table 3-12). -/
def locOf (die sector core slice stack port : Nat) : Nat :=
  die + 2 ^ 3 * sector + 2 ^ 5 * core + 2 ^ 16 * slice + 2 ^ 26 * stack + 2 ^ 31 * port

/-- `loc` of a physical address. -/
def State.locOfPa (s : State) (pa : Nat) : Nat :=
  if s.isHbm pa then
    let st := s.stackOf pa
    locOf (st / 3) (st % 3) 0 (s.sliceOf pa) st 0
  else 0

/-- An uncorrectable error delivered as MEMERR (type 2, R81). -/
def State.reportMemErr (s : State) (pa ctx : Nat) : State := s.report 2 0 2 (s.locOfPa pa) pa 1 ctx 0

end Sys2Proof.Machine
end

