-- ==== Sys2Proof/Machine/Hub.lean ====
section
/-! DEFINITION. What the hub's own units do at addresses of a context: the launch unit, the host interface and the control
streams' ends look an address up, ask for its page, and write a status word and then a counter (03 R55, R58, R60; 04 R88). -/

namespace Sys2Proof.Machine

/-- The number that stands for the hub's own units where a request names a core. -/
def hubUnit : Nat := 2304

/-- The launch unit's view of an address of a context (R188). -/
def State.lookHub (s : State) (ctx : Nat) (va : Nat) (write : Bool) : Look := s.lookWalker 6 (s.ctx ctx).pasid va write

/-- A page refused to the hub for a context is forgotten. -/
def State.dropRefused (s : State) (n va : Nat) : State := s.setCtx n { s.ctx n with refused := (s.ctx n).refused.filter (· != va / 8192) }

/-- Where a host-given address of a context lies: to be asked for, failed, or a place. -/
def State.hubLook (s : State) (n va : Nat) (write : Bool) : Look :=
  if 2 ^ 57 ≤ va then .bad
  else
    match s.lookHub n va write with
    | .miss => if (s.ctx n).refused.contains (va / 8192) then .bad else .miss
    | r => r

/-- A page asked for at the hub on behalf of its own units; none where that asks nothing new. -/
def State.askHub (s : State) (pasid : BitVec 20) (va : Nat) (write : Bool) : Option State :=
  let t := s.askPageFor [] 6 pasid va write
  if (t.die 6).reqs = (s.die 6).reqs then none else some t

/-- Requests of the hub's units for a context that its peers have not answered, of a kind. -/
def State.hubFlying (s : State) (ctx : Nat) (op : BitVec 8) : Bool :=
  s.peers.any fun e => e.2.sent.any fun t => t.core == hubUnit && t.op == op && t.party == .stream (4 * ctx)

/-- One write of a hub unit at a context's address: a store of 8 bytes, or an atomic add. What fails translation is dropped
and recorded (R58, R88); in host memory it is written back before a start begins (R75). -/
def State.unitWrite (s : State) (ctx : Nat) (a : DWord) (v : Nat) (add : Bool) : State :=
  match s.hubLook ctx a.toNat true with
  | .here pa => ((if add then s.homeAdd pa (BitVec.ofNat 64 v) else s.homeWrite pa 8 v).settleHub (pa / 64)).carry 6 (dieOfHome (s.homeOf pa)) 8
  | .peer d pa => if s.peerLost d then s.dropWrite d
                  else if add then s.sendAtom64 d 0 (BitVec.ofNat 64 v) 0 pa 0 hubUnit (.stream (4 * ctx)) a.toNat
                  else s.sendPeer d opPosted (pa / 64 * 64) 0 hubUnit (.stream (4 * ctx)) (some (secStore (pa % 64) 8 v 0)) (va := a.toNat)
  | _ => (s.dropRefused ctx a.toNat).report 11 0 1 0 0 1 ctx a.toNat

/-- What writing a status word and then a counter comes to. -/
inductive EndWrites where
  /-- nothing can be written yet -/
  | wait
  /-- a page has been asked for -/
  | ask (s : State)
  /-- the status word is on its way to a peer -/
  | sent (s : State)
  /-- both are written -/
  | done (s : State)

/-- The end of a grid or a control stream (R58, R88): its status word, and then, once that has been performed at its home,
its counter, where it has one. -/
def State.endWrites (s : State) (ctx : Nat) (stat : DWord) (v : Nat) (cnt : Option DWord) (statDone : Bool) : EndWrites :=
  let need (a : DWord) : Bool := match s.hubLook ctx a.toNat true with | .miss => true | _ => false
  let busy (a : DWord) : Bool := match s.hubLook ctx a.toNat true with | .peer d pa => !s.peerLost d && s.peerBusy d pa | _ => false
  let away : Bool := match s.hubLook ctx stat.toNat true with | .peer d _ => !s.peerLost d | _ => false
  let ask (a : DWord) : EndWrites := match s.askHub (s.ctx ctx).pasid a.toNat true with | some t => .ask t | none => .wait
  let count (s : State) : State := match cnt with | some a => s.unitWrite ctx a 1 true | none => s
  if !statDone && need stat then ask stat
  else if cnt.any need then ask (cnt.getD 0)
  else if statDone then (if s.hubFlying ctx opPosted || cnt.any busy then .wait else .done (count s))
  else if busy stat then .wait
  else if away then .sent (s.unitWrite ctx stat v false)
  else if cnt.any busy then .wait
  else .done (count (s.unitWrite ctx stat v false))

end Sys2Proof.Machine
end

