-- ==== Sys2Proof/Machine/Operands.lean ====
section
/-! DEFINITION. The operand forms of lane words: sources with routing, sub element and modifiers (12 R280-R284,
14 Table 14-1), the fields a word may hold in the state it issues in (R86, R213, R281, R282, R314), the registers
it reads and writes, the address forms of memory words (R287), and the effective masks of split records (05 R124). -/

namespace Sys2Proof.Machine

/-! ### Split records (05 R124) -/

/-- eff(q) of R124. -/
def Group.eff (g : Group) (q : Split) : Mask := q.mask &&& g.live &&& ~~~g.fin

/-- Position in the stack of the record in a split slot: slot 1 is the top of a runnable pair, slot 0 the lower runnable record or the only one (R124). -/
def Block.posOf (b : Block) (slot : Nat) : Option Nat :=
  match b.stack with
  | [] => none
  | top :: rest =>
    if top.sib && !rest.isEmpty then (if slot = 1 then some 0 else some 1) else (if slot = 0 then some 0 else none)

/-- Split slot of a position. -/
def Block.slotOf (b : Block) (pos : Nat) : Nat :=
  match b.stack with
  | top :: _ :: _ => if top.sib && pos = 0 then 1 else 0
  | _ => 0

/-- The record at a position. -/
def Block.rec? (b : Block) (pos : Nat) : Option Split := b.stack[pos]?

/-- The record in a split slot is between the two words of a pair (12 R289). -/
def Block.secondAt (b : Block) (slot : Nat) : Bool :=
  match (b.posOf slot).bind b.rec? with | some q => q.second | none => false

/-- The position of the record whose word raised a lane trap, while it is in the stack (11 R260). -/
def Block.trapAt? (b : Block) (id : Nat) : Option Nat := b.stack.findIdx? (·.traps.contains id)

/-! ### What a lane word sees -/

/-- The context of one lane word: its group, word, formats and allowance, k registers, and the width of its pleat. -/
structure LaneCtx where
  g : Group
  w : LaneWord
  fmt : Word
  alw : DWord
  ks : Vector Word 16
  width : Nat
deriving DecidableEq, Repr

/-- Format code of a position: fa, fb, fc, fd (Table 9-1). -/
def fmtA (fmt : Word) : Nat := fieldN fmt 0 4
def fmtB (fmt : Word) : Nat := fieldN fmt 4 4
def fmtC (fmt : Word) : Nat := fieldN fmt 8 4
def fmtD (fmt : Word) : Nat := fieldN fmt 12 4
def fmtMA (fmt : Word) : Nat := fieldN fmt 16 4
def fmtMB (fmt : Word) : Nat := fieldN fmt 20 4
/-- A value the format register may hold (R212). -/
def fmtLegal (v : Word) : Bool :=
  [0, 4, 8, 12, 16].all (fun lo => fieldN v lo 4 < 14) && fieldN v 20 4 != 15 && fieldN v 24 4 == 0 && fieldN v 29 3 == 0

/-- k(n) of the running block (R118). -/
def LaneCtx.k (c : LaneCtx) (n : Nat) : Word := (c.ks[n]?).getD 0

/-- Value of the index register of an IDX route in the reading lane (R283). -/
def LaneCtx.idx (c : LaneCtx) (x : Src) (s : Nat) : Nat := (c.g.lane x.arg.toNat s).val.toNat

/-- Supplying slot of a routed source (Table 12-11). -/
def LaneCtx.supplier (c : LaneCtx) (x : Src) (s : Nat) : Nat :=
  let w := c.width
  let b0 := s - s % w
  let q := s % w
  let n := x.arg.toNat
  match x.route.toNat with
  | 1 => b0 + (q + n) % w
  | 2 => b0 + n % w
  | 3 => b0 + (q ^^^ n)
  | 4 => b0 + c.idx x s % w
  | 5 => if q + n < w then s + n else s
  | 6 => if n ≤ q then s - n else s
  | _ => s

/-- Register word and bound of a source in a reading lane; an exited supplier gives +0 with bound ∞ (R280, R284). -/
def LaneCtx.raw (c : LaneCtx) (x : Src) (s : Nat) : Word × Bound :=
  if 112 ≤ x.reg.toNat then (c.k (x.reg.toNat - 112), 0)
  else
    let t := c.supplier x s
    if c.g.live.getLsbD t then ((c.g.lane x.reg.toNat t).val, (c.g.lane x.reg.toNat t).bnd) else (0, bInf)

/-- A float-domain source, with the element `sub` given (R280, R215). -/
def LaneCtx.srcFAt (c : LaneCtx) (fc : Nat) (x : Src) (sub : Nat) (s : Nat) : FVal × Option Rat :=
  let (v, b) := c.raw x s
  let e := elemF fc v sub
  let e := if x.abs then e.abs else e
  (if x.neg then e.negate else e, bval b)
def LaneCtx.srcF (c : LaneCtx) (fc : Nat) (x : Src) (s : Nat) : FVal × Option Rat := c.srcFAt fc x x.sub.toNat s

/-- An integer-domain source: abs and neg modulo 2^32, read back in the format's signedness (R280). -/
def LaneCtx.srcI (c : LaneCtx) (fc : Nat) (x : Src) (s : Nat) : Int × Option Rat :=
  let (v, b) := c.raw x s
  let e : Word := BitVec.ofInt 32 (elemI fc v x.sub.toNat)
  let e := if x.abs && isSignedFmt fc && e.getLsbD 31 then -e else e
  let e := if x.neg then -e else e
  (if isSignedFmt fc then e.toInt else (e.toNat : Int), bval b)

/-- A bits-domain source. -/
def LaneCtx.srcX (c : LaneCtx) (x : Src) (s : Nat) : Word × Bound := c.raw x s

/-- A predicate source; an exited supplying lane gives false (Table 14-1). -/
def LaneCtx.srcP (c : LaneCtx) (x : Src) (s : Nat) : Bool :=
  let t := c.supplier x s
  c.g.live.getLsbD t && (c.g.predMask (x.reg.toNat % 8)).getLsbD t

/-- imm21 as a BF16 value (R286). -/
def LaneCtx.immF (c : LaneCtx) : FVal := decodeF (ffmt 1) (c.w.imm21.toNat % 2 ^ 16)
/-- imm21 sign-extended (R286). -/
def LaneCtx.immX (c : LaneCtx) : Word := c.w.imm21.signExtend 32
/-- scale, signed (Table 12-9). -/
def scaleOf (w : LaneWord) : Int := w.scale.toInt

/-! ### Fields against the state (rank 1: ILLFLD) -/

/-- A vector register number the group owns (R86); k registers are always there. -/
def Group.owns (g : Group) (r : Nat) : Bool := r < g.nreg || 112 ≤ r

/-- A source against formats, register count and pleat width (R86, R213, R281, R283). -/
def srcFits (g : Group) (width : Nat) (u : SrcUse) (fc : Nat) (x : Src) : Bool :=
  let route := (x.route.toNat != 3 || x.arg.toNat < width) && (x.route.toNat != 4 || x.arg.toNat < g.nreg)
  match u with
  | .none | .raw => true
  | .pred => route
  | .bits => g.owns x.reg.toNat && route
  | .float => g.owns x.reg.toNat && route && isFloatFmt fc && x.sub.toNat < fmtElems fc
  | .int => g.owns x.reg.toNat && route && isIntFmt fc && x.sub.toNat < fmtElems fc

/-- A vector or scalar destination (R86, R120, R282): `n` consecutive registers. -/
def dstFits (g : Group) (dmask : BitVec 16) (fmt : Word) (w : LaneWord) (n : Nat) : Bool :=
  let d := w.dst.toNat
  if 112 ≤ d then dmask.getLsbD (d - 112) && fmtWidth (fmtD fmt) == 32 && n == 1 else d + n ≤ g.nreg

/-- The result fields against fd (R213, R281, R282, R314). -/
def resFits (u : ResUse) (fmt : Word) (w : LaneWord) : Bool :=
  let fd := fmtD fmt
  let float := isFloatFmt fd && w.nar.toNat < fmtElems fd
  let int := isIntFmt fd && w.nar.toNat < fmtElems fd
  match u with
  | .float | .plain => float
  | .int | .toInt => int
  | .block => 3 ≤ fd && fd ≤ 7
  | .fold =>
    let op := fieldN w.c.bits 0 4
    if op ≤ 2 then float else if op ≤ 5 then int else true
  | _ => true

/-- Registers that a w, w2 or w4 memory word moves (R343, R344). -/
def widthRegs (width : BitVec 3) : Nat := if width = 5 then 2 else if width = 6 then 4 else 1

/-- Registers that an opcode's own rule reads or writes beyond its fields' first ones, and its own format rules (R322, R334, R339, R345, R347). -/
def ownFits (i : Instr) (g : Group) (dmask : BitVec 16) (fmt : Word) : Bool :=
  let fa := fmtA fmt
  let fb := fmtB fmt
  match i with
  | .fdot2 _ => (fa == 1 || fa == 2) && (fb == 1 || fb == 2)
  | .fdot4 w => 3 ≤ fa && fa ≤ 7 && 3 ≤ fb && fb ≤ 7 && (fa == 7 || w.a.sub == 0) && (fb == 7 || w.b.sub == 0)
  | .scaleblk _ => 3 ≤ fa && fa ≤ 7
  | .vreduce w | .vscan w => srcFits g (g.pleatW w.gsel) (foldUse (w.c.bits.extractLsb' 0 4)) fa w.a
  | .vote w => w.rnd != 3 || dstFits g dmask fmt w 1
  | .vld w | .lds w => dstFits g dmask fmt w (widthRegs w.width)
  | .ldx w => g.owns (w.a.reg.toNat + 1) && dstFits g dmask fmt w (widthRegs w.width)
  | .vst w | .sts w => 112 ≤ w.b.reg.toNat || w.b.reg.toNat + widthRegs w.width ≤ g.nreg
  | .stx w => g.owns (w.a.reg.toNat + 1) && (112 ≤ w.b.reg.toNat || w.b.reg.toNat + widthRegs w.width ≤ g.nreg)
  | .atom w | .atoms w => dstFits g dmask fmt w 1 && (w.atomOp != 9 || g.owns (w.b.reg.toNat + 1))
  | .atomagg w => dstFits g dmask fmt w 1
  | .laneStref w => g.owns (w.a.reg.toNat + 1) && g.owns (w.b.reg.toNat + 1) && (w.dst == 127 || w.dst.toNat < g.nreg)
  | .tlda w => dstFits g dmask fmt w (widthRegs w.width)
  | _ => true

/-- No field of a lane word raises ILLFLD in the state it issues in. -/
def laneFits (i : Instr) (r : LaneRow) (w : LaneWord) (g : Group) (dmask : BitVec 16) (fmt : Word) : Bool :=
  let width := g.pleatW w.gsel
  fieldsOk i && srcFits g width r.a (fmtA fmt) w.a && srcFits g width r.b (fmtB fmt) w.b &&
    srcFits g width r.c (fmtC fmt) w.c && resFits r.res fmt w &&
    (r.dst != .vec || (match r.res with | .mem => true | _ => dstFits g dmask fmt w 1)) && ownFits i g dmask fmt

/-! ### Registers a word reads and writes (R116, R289) -/

/-- Vector registers a source field reads, with its fe bit (R116, R283): `n` consecutive ones. -/
def srcRegs (u : SrcUse) (x : Src) (n : Nat) : List (Nat × Bool) :=
  let idx := if x.route.toNat = 4 then [(x.arg.toNat, x.fe)] else []
  match u with
  | .none | .raw => []
  | .pred => idx
  | _ => (if 112 ≤ x.reg.toNat then [] else (List.range n).map fun j => (x.reg.toNat + j, x.fe)) ++ idx

/-- Vector registers a word reads, with their fe bits. -/
def laneReads (i : Instr) (r : LaneRow) (w : LaneWord) : List (Nat × Bool) :=
  let na := match i with | .ldx _ | .stx _ | .laneStref _ => 2 | _ => 1
  let nb := match i with
    | .vst w | .stx w | .sts w => widthRegs w.width
    | .atom w | .atoms w => if w.atomOp = 9 then 2 else 1
    | .laneStref _ => 2
    | _ => 1
  let ua := match i with | .vreduce w | .vscan w => foldUse (w.c.bits.extractLsb' 0 4) | _ => r.a
  let own := match i with | .laneStref w => if w.dst.toNat < 112 then [(w.dst.toNat, false)] else [] | _ => []
  srcRegs ua w.a na ++ srcRegs r.b w.b nb ++ srcRegs r.c w.c 1 ++ own

/-- Vector registers a word writes (R116). -/
def laneWrites (i : Instr) (r : LaneRow) (w : LaneWord) : List Nat :=
  let n := match r.res with | .mem => widthRegs w.width | _ => 1
  let vec := match i with
    | .vote w => w.rnd == 3
    | .pmovToPredicate _ | .pmovToWord _ => r.dst == .vec
    | _ => r.dst == .vec
  if vec && w.dst.toNat < 112 then (List.range n).map (w.dst.toNat + ·) else []

/-- The declared scalar destination a word writes, by its index from s16 (R120). -/
def laneWritesS (i : Instr) (r : LaneRow) (w : LaneWord) : Option Nat :=
  let vec := match i with | .vote w => w.rnd == 3 | _ => r.dst == .vec
  if vec && 112 ≤ w.dst.toNat then some (w.dst.toNat - 112) else none

/-- The predicate a word writes (R282). -/
def laneWritesP (i : Instr) (r : LaneRow) (w : LaneWord) : Option Nat :=
  match i with
  | .vote w => if w.rnd == 3 then none else some w.pdst.toNat
  | .tlda w => some (w.b.bits.toNat % 8)
  | _ => if r.dst == .pred then some w.pdst.toNat else none

/-- Predicates a word reads, its own predicate field among them (R289). -/
def laneReadsP (r : LaneRow) (w : LaneWord) : List Nat :=
  (if w.pred.toNat < 7 then [w.pred.toNat] else []) ++
    [(r.a, w.a), (r.b, w.b), (r.c, w.c)].filterMap fun (u, x) => if u == .pred then some (x.reg.toNat % 8) else none

/-! ### Masks -/

/-- Lanes in which a word is performed: eff(q) where p(pred) xor pneg (R279), within the lanes of a re-execution (11 R260). -/
def performedMask (g : Group) (q : Split) (w : LaneWord) : Mask :=
  let p := g.predMask w.pred.toNat
  let p := if w.pneg then ~~~p else p
  g.eff q &&& p &&& q.redo.getD 0xFFFFFFFF

/-! ### Addresses of memory words (R287) -/

/-- 64-bit base of the global forms: k(kb) and k(kb + 1). -/
def LaneCtx.kBase (c : LaneCtx) : DWord :=
  (c.k (c.w.kb.toNat + 1) ++ c.k c.w.kb.toNat)

/-- Address of a lane in the global forms. -/
def LaneCtx.addrGlobal (c : LaneCtx) (s : Nat) : DWord :=
  c.kBase + ((c.srcX c.w.a s).1.signExtend 64 <<< c.w.osc.toNat) + c.w.imm12.signExtend 64

/-- Address of a lane in the scratch forms, modulo 2^32. -/
def LaneCtx.addrScratch (c : LaneCtx) (s : Nat) : DWord :=
  (c.k c.w.kb.toNat + ((c.srcX c.w.a s).1 <<< c.w.osc.toNat) + c.w.imm12.signExtend 32).setWidth 64

/-- A source field naming the next register. -/
def Src.next (x : Src) : Src := { x with reg := x.reg + 1 }

/-- The 64-bit value of a register pair in a lane. -/
def LaneCtx.pair (c : LaneCtx) (x : Src) (s : Nat) : DWord := (c.srcX (Src.next x) s).1 ++ (c.srcX x s).1

/-- Address of a lane of LDX and STX. -/
def LaneCtx.addrPair (c : LaneCtx) (s : Nat) : DWord := c.pair c.w.a s + c.w.imm12.signExtend 64

/-- Bytes a lane access moves (R287). -/
def widthBytes (width : BitVec 3) : Nat :=
  match width.toNat with
  | 0 | 1 => 1
  | 2 | 3 => 2
  | 5 => 8
  | 6 => 16
  | _ => 4

end Sys2Proof.Machine
end

