-- ==== Sys2Proof/Machine/LaneCalc.lean ====
section
/-! DEFINITION. What the lane instructions of chapter 14 compute in one lane: value, bound and element, from the
operand forms of `Operands.lean` and the result rules of `Flags.lean`. The families' files turn these into meanings. -/

namespace Sys2Proof.Machine

/-- The residue that accompanies the destination (R222). -/
def LaneCtx.ein (c : LaneCtx) (s : Nat) : Word := c.g.res (c.w.dst.toNat % 8) s
/-- fd of the record. -/
def LaneCtx.fd (c : LaneCtx) : Nat := fmtD c.fmt

/-- A float result of an opcode that is not unit-eligible (R315): t and its propagated terms before scaling. -/
def LaneCtx.plainF (c : LaneCtx) (s : Nat) (t : FVal) (prop : Option Rat) : LaneRes :=
  let sc := scaleOf c.w
  writeFloat c.fd c.w.rnd.toNat c.w.clamp.toNat false false (t.scale sc) (t.scale sc) (bmul (some (pow2 sc)) prop) (c.ein s)

/-- A unit-eligible result (R241). -/
def LaneCtx.unitF (c : LaneCtx) (s : Nat) (units : List FUnit) (mulOnly : Bool) (prods adds : List FVal) (prop : Option Rat) : LaneRes :=
  selectUnit (allow c.alw) units mulOnly c.fd c.w.rnd.toNat c.w.clamp.toNat (scaleOf c.w) prods adds prop (c.ein s)

/-! ### Float arithmetic (R317, R318, R321, R322) -/

def calcAdd (sub : Bool) (c : LaneCtx) (s : Nat) : LaneRes :=
  let (a, ba) := c.srcF (fmtA c.fmt) c.w.a s
  let (b, bb) := c.srcF (fmtB c.fmt) c.w.b s
  c.unitF s [.full, .short] false [] [a, if sub then b.negate else b] (badd ba bb)

def calcAddI (c : LaneCtx) (s : Nat) : LaneRes :=
  let (a, ba) := c.srcF (fmtA c.fmt) c.w.a s
  c.unitF s [.full, .short] false [] [a, c.immF] ba

def calcMul (c : LaneCtx) (s : Nat) : LaneRes :=
  let (a, ba) := c.srcF (fmtA c.fmt) c.w.a s
  let (b, bb) := c.srcF (fmtB c.fmt) c.w.b s
  c.unitF s [.full, .trunc] true [a.mul b] [] (prodTerm a b ba bb)

def calcMulI (c : LaneCtx) (s : Nat) : LaneRes :=
  let (a, ba) := c.srcF (fmtA c.fmt) c.w.a s
  c.unitF s [.full, .trunc] true [a.mul c.immF] [] (prodTerm a c.immF ba (some 0))

def calcFma (imm : Bool) (c : LaneCtx) (s : Nat) : LaneRes :=
  let (a, ba) := c.srcF (fmtA c.fmt) c.w.a s
  let (b, bb) := c.srcF (fmtB c.fmt) c.w.b s
  let (x, bx) := if imm then (c.immF, some 0) else c.srcF (fmtC c.fmt) c.w.c s
  c.unitF s [.full, .short, .trunc] false [a.mul b] [x] (badd (prodTerm a b ba bb) bx)

/-- FDOT2 and FDOT4: `n` products of the elements from `sub` on (R322). -/
def calcDot (n : Nat) (c : LaneCtx) (s : Nat) : LaneRes :=
  let prs := (List.range n).map fun q =>
    let (a, ba) := c.srcFAt (fmtA c.fmt) c.w.a (c.w.a.sub.toNat + q) s
    let (b, bb) := c.srcFAt (fmtB c.fmt) c.w.b (c.w.b.sub.toNat + q) s
    (a.mul b, prodTerm a b ba bb)
  let (x, bx) := c.srcF (fmtC c.fmt) c.w.c s
  c.unitF s [.full, .short, .trunc] false (prs.map (·.1)) [x] ((prs.map (·.2)).foldl badd bx)

def calcMinMax (mx : Bool) (c : LaneCtx) (s : Nat) : LaneRes :=
  let (a, ba) := c.srcF (fmtA c.fmt) c.w.a s
  let (b, bb) := c.srcF (fmtB c.fmt) c.w.b s
  c.plainF s (selMinMax mx a b) (bmax ba bb)

def calcLdexp (c : LaneCtx) (s : Nat) : LaneRes :=
  let (a, ba) := c.srcF (fmtA c.fmt) c.w.a s
  let (n, bn) := c.srcI (fmtB c.fmt) c.w.b s
  -- beyond these exponents every finite result has overflowed or underflowed every format
  let n := if n < -600 then -600 else if 600 < n then 600 else n
  c.plainF s (a.scale n) (if bn = some 0 then bmul (some (pow2 n)) ba else none)

/-- FRND (R321): both roundings, and the term |2^s a − y|. -/
def calcRnd (c : LaneCtx) (s : Nat) : LaneRes :=
  let (a, ba) := c.srcF (fmtA c.fmt) c.w.a s
  let sc := scaleOf c.w
  let v := a.scale sc
  let r : FVal :=
    match v with
    | .num q => let n := roundInt (rmode c.w.rnd.toNat) q; if n = 0 then .zero (decide (q < 0)) else .num (n : Rat)
    | v => v
  writeFloat c.fd c.w.rnd.toNat c.w.clamp.toNat false false r v (bmul (some (pow2 sc)) ba) 0

def calcFrac (c : LaneCtx) (s : Nat) : LaneRes :=
  let (a, ba) := c.srcF (fmtA c.fmt) c.w.a s
  if a.isFinite then
    let x := a.toRat
    let ok := match ba with | some b => decide ((x - b).floor = (x + b).floor) | none => false
    c.plainF s (FVal.ofRat (x - (x.floor : Rat))) (if ok then ba else none)
  else c.plainF s .nan none

/-- FCLASS (R320): the element in its own format. -/
def classBit (fc : Nat) (v : FVal) : Nat :=
  match v with
  | .inf true => 0
  | .inf false => 7
  | .zero true => 3
  | .zero false => 4
  | .nan => 8
  | .num q =>
    let sub := decide (qabs q < pow2 (1 - ((ffmt fc).bias : Int)))
    if q < 0 then (if sub then 2 else 1) else (if sub then 5 else 6)

def calcClass (c : LaneCtx) (s : Nat) : LaneRes :=
  let (a, _) := c.srcF (fmtA c.fmt) c.w.a s
  writeBits c.fd (BitVec.ofNat 32 (2 ^ classBit (fmtA c.fmt) a)) (exactOr [(c.raw c.w.a s).2])

/-! ### Integer and logic (R323, R325-R327) -/

/-- Integer rows of two operands: the exact result, and the propagated terms of the float rule with u = 0 (Table 10-5). -/
def calcInt2 (f : Int → Int → Int) (prop : Int → Int → Option Rat → Option Rat → Option Rat) (c : LaneCtx) (s : Nat) : LaneRes :=
  let (a, ba) := c.srcI (fmtA c.fmt) c.w.a s
  let (b, bb) := c.srcI (fmtB c.fmt) c.w.b s
  writeInt c.fd c.w.clamp.toNat (f a b) (prop a b ba bb)

def propSum (_ _ : Int) (ba bb : Option Rat) : Option Rat := badd ba bb
def propMul (a b : Int) (ba bb : Option Rat) : Option Rat :=
  badd (badd (bmul (some (qabs (a : Rat))) bb) (bmul (some (qabs (b : Rat))) ba)) (bmul ba bb)
def propMax (_ _ : Int) (ba bb : Option Rat) : Option Rat := bmax ba bb

def calcIaddI (c : LaneCtx) (s : Nat) : LaneRes :=
  let (a, ba) := c.srcI (fmtA c.fmt) c.w.a s
  writeInt c.fd c.w.clamp.toNat (a + c.immX.toInt) ba

def calcImad (c : LaneCtx) (s : Nat) : LaneRes :=
  let (a, ba) := c.srcI (fmtA c.fmt) c.w.a s
  let (b, bb) := c.srcI (fmtB c.fmt) c.w.b s
  let (x, bx) := c.srcI (fmtC c.fmt) c.w.c s
  writeInt c.fd c.w.clamp.toNat (a * b + x) (badd (propMul a b ba bb) bx)

/-- Bits rows of one, two or three sources: exact when every bound is 0 (Table 10-5). -/
def calcBits1 (f : Word → Word) (c : LaneCtx) (s : Nat) : LaneRes :=
  let (a, ba) := c.srcX c.w.a s
  writeBits c.fd (f a) (exactOr [ba])
def calcBits2 (f : Word → Word → Word) (c : LaneCtx) (s : Nat) : LaneRes :=
  let (a, ba) := c.srcX c.w.a s
  let (b, bb) := c.srcX c.w.b s
  writeBits c.fd (f a b) (exactOr [ba, bb])
def calcBits3 (f : Word → Word → Word → Word) (c : LaneCtx) (s : Nat) : LaneRes :=
  let (a, ba) := c.srcX c.w.a s
  let (b, bb) := c.srcX c.w.b s
  let (x, bx) := c.srcX c.w.c s
  writeBits c.fd (f a b x) (exactOr [ba, bb, bx])
def calcBitsI (f : Word → Word → Word) (c : LaneCtx) (s : Nat) : LaneRes :=
  let (a, ba) := c.srcX c.w.a s
  writeBits c.fd (f a c.immX) (exactOr [ba])

/-- Unsigned minimum and maximum of words: the larger bound travels (Table 10-5). -/
def calcMinMaxU (mx : Bool) (c : LaneCtx) (s : Nat) : LaneRes :=
  let (a, ba) := c.srcX c.w.a s
  let (b, bb) := c.srcX c.w.b s
  let v := if mx then (if a < b then b else a) else (if b < a then b else a)
  writeBits c.fd v (roundUpB16 (bmax (bval ba) (bval bb)))

def mulHi (a b : Word) : Word := ((a.signExtend 64 * b.signExtend 64).extractLsb' 32 32)
def mulHiU (a b : Word) : Word := ((a.setWidth 64 * b.setWidth 64).extractLsb' 32 32)
/-- Shifts by the unsigned count b (R325). -/
def shlW (a b : Word) : Word := a <<< b.toNat
def shrW (a b : Word) : Word := a >>> b.toNat
def sraW (a b : Word) : Word := a.sshiftRight b.toNat
/-- Number of ones. -/
def popcount {n : Nat} (a : BitVec n) : Nat := (List.range n).countP fun i => a.getLsbD i
/-- Leading zeros; the width for 0. -/
def clzN {n : Nat} (a : BitVec n) : Nat := ((List.range n).find? fun i => a.getLsbD (n - 1 - i)).getD n
/-- Trailing zeros; the width for 0. -/
def ctzN {n : Nat} (a : BitVec n) : Nat := ((List.range n).find? fun i => a.getLsbD i).getD n
/-- Bit reversal. -/
def brevW (a : Word) : Word := a.reverse
/-- BFE (R326). -/
def bfeW (a b : Word) : Word :=
  let len := min (fieldN b 8 6) 32
  (a >>> fieldN b 0 5) &&& BitVec.ofNat 32 (2 ^ len - 1)
/-- BFI (R326). -/
def bfiW (a b x : Word) : Word :=
  let pos := fieldN x 0 5
  let m : Word := BitVec.ofNat 32 ((2 ^ min (fieldN x 8 6) 32 - 1) <<< pos)
  (b &&& ~~~m) ||| ((a <<< pos) &&& m)
/-- PRMT (R326). -/
def prmtW (a b x : Word) : Word :=
  let y : BitVec 64 := b ++ a
  let byte (i : Nat) : Nat :=
    let v := fieldN y (8 * fieldN x (4 * i) 3) 8
    if x.getLsbD (4 * i + 3) then (if 128 ≤ v then 255 else 0) else v
  BitVec.ofNat 32 (byte 0 + 2 ^ 8 * byte 1 + 2 ^ 16 * byte 2 + 2 ^ 24 * byte 3)
/-- LUT (R327). -/
def lutW (t : BitVec 8) (a b x : Word) : Word :=
  maskOf fun j => t.getLsbD (4 * (a.getLsbD j).toNat + 2 * (b.getLsbD j).toNat + (x.getLsbD j).toNat)

/-! ### Moves and bounds (R328, R335, R336) -/

def calcMov (c : LaneCtx) (s : Nat) : LaneRes := let (a, ba) := c.srcX c.w.a s; writeBits c.fd a ba
def calcMovi (c : LaneCtx) (_ : Nat) : LaneRes :=
  writeBits c.fd (c.w.b.bits.extractLsb' 0 11 ++ c.w.imm21) 0
def calcSel (c : LaneCtx) (s : Nat) : LaneRes :=
  let (v, b) := if c.srcP c.w.c s then c.srcX c.w.a s else c.srcX c.w.b s
  writeBits c.fd v b
def calcPmovW (c : LaneCtx) (s : Nat) : LaneRes := writeBits c.fd (if c.srcP c.w.a s then 1 else 0) 0
/-- BND: the FP32 value of the bound (R335). -/
def calcBnd (c : LaneCtx) (s : Nat) : LaneRes :=
  let v : FVal := match bval (c.srcX c.w.a s).2 with | none => .inf false | some q => FVal.ofRat q
  writeBits c.fd (BitVec.ofNat 32 (encodeF (ffmt 0) v)) 0
/-- SETB: max(b_a, round_up_b16(|b| + b_b)) (R335). -/
def calcSetb (c : LaneCtx) (s : Nat) : LaneRes :=
  let (a, ba) := c.srcX c.w.a s
  let (b, bb) := c.srcF (fmtB c.fmt) c.w.b s
  let nb := roundUpB16 (if b.isFinite then badd (some (qabs b.toRat)) bb else none)
  writeBits c.fd a (roundUpB16 (bmax (bval ba) (bval nb)))
def calcClrb (c : LaneCtx) (s : Nat) : LaneRes := writeBits c.fd (c.srcX c.w.a s).1 0
def calcEfget (c : LaneCtx) (s : Nat) : LaneRes := writeBits c.fd (c.g.res (c.w.a.bits.toNat % 8) s) 0

/-! ### Special functions and conversion (R330-R334) -/

def calcSpecial (f : SpFn) (c : LaneCtx) (s : Nat) : LaneRes :=
  let (a, ba) := c.srcF (fmtA c.fmt) c.w.a s
  let (b, bb) := if f == .div then c.srcF (fmtB c.fmt) c.w.b s else (.zero false, some 0)
  let mode := rmode c.w.rnd.toNat
  let r := spValue f mode a b
  c.plainF s r (spBound f mode a b r ba bb)

def calcCvtfi (c : LaneCtx) (s : Nat) : LaneRes :=
  let (a, ba) := c.srcF (fmtA c.fmt) c.w.a s
  let r : Int :=
    match a with
    | .nan => 0
    | .inf neg => if neg then intLo c.fd else intHi c.fd
    | .zero _ => 0
    | .num q => roundInt (rmode c.w.rnd.toNat) q
  let y := satInt c.fd r
  { code := (y % (2 ^ fmtWidth c.fd : Int)).toNat,
    bnd := roundUpB16 (if a.isFinite then badd ba (some (qabs (a.toRat - (y : Rat)))) else none), y := some (y : Rat), res := none }

def calcCvtif (c : LaneCtx) (s : Nat) : LaneRes :=
  let (a, ba) := c.srcI (fmtA c.fmt) c.w.a s
  c.plainF s (FVal.ofRat (a : Rat)) ba

def calcCvtff (c : LaneCtx) (s : Nat) : LaneRes :=
  let (a, ba) := c.srcF (fmtA c.fmt) c.w.a s
  c.plainF s a ba

/-- An element of a scaled block (R223): `none` special byte use outside E2M1. -/
def widenPair (fc : Nat) (el : Nat) (pair : Nat) : FVal :=
  let e := pair / 256 % 256
  let sb := pair % 256
  if e = 255 then .nan
  else
    let v : FVal :=
      if fc = 7 ∧ el = 8 then (if sb = 0 ∨ sb = 0x80 then .zero true else decodeF (ffmt 3) sb)
      else decodeF (ffmt fc) el
    v.scale ((e : Int) - 127)

def calcScaleblk (c : LaneCtx) (s : Nat) : LaneRes :=
  let (a, ba) := c.raw c.w.a s
  let (b, bb) := c.srcX c.w.b s
  let v := widenPair (fmtA c.fmt) (elem (fmtA c.fmt) a c.w.a.sub.toNat) (fieldN b 0 16)
  let v := if c.w.a.abs then v.abs else v
  let v := if c.w.a.neg then v.negate else v
  c.plainF s v (if bb == 0 then bval ba else none)

/-- QBLK over 32 values (R224): scale byte, special byte, codes; `none` for a NaN block. -/
def qblk (x : List FVal) (fdc : Nat) (spv : Bool) : Nat × Nat × List Nat :=
  if x.any (fun v => !v.isFinite) then (0xFF, 0, x.map fun _ => 0)
  else
    let amax := x.foldl (fun m v => qmax m (qabs v.toRat)) 0
    if amax = 0 then (127, 0, x.map fun _ => 0)
    else
      let em : Int := match fdc with | 3 => 8 | 4 => 15 | 5 => 4 | _ => 2
      let e0 := floorLog2 amax - em + 127
      let e : Int := if e0 < 1 then 1 else if 254 < e0 then 254 else e0
      let t := x.map fun v => v.scale (127 - e)
      let q := t.map fun v => roundF (ffmt fdc) .rne true v
      let codes := q.map (elemCode fdc)
      let j := (x.findIdx? fun v => qabs v.toRat == amax).getD 0
      let sv := roundF (ffmt 3) .rne false (t.getD j (.zero false))
      match fdc == 7 && spv, sv with
      | true, .num w =>
        (e.toNat, encodeF (ffmt 3) sv,
          (t.zip (q.zip codes)).map fun (ti, qi, ci) =>
            if qabs (ti.toRat - w) < qabs (ti.toRat - qi.toRat) then 8 else ci)
      | _, _ => (e.toNat, 0, codes)

/-! ### Comparisons (R319, R324): the predicate, and whether the outcome is uncertain -/

def calcFcmp (c : LaneCtx) (s : Nat) : Bool × Bool :=
  let (a, ba) := c.srcF (fmtA c.fmt) c.w.a s
  let (b, bb) := c.srcF (fmtB c.fmt) c.w.b s
  let cond := c.w.rnd.toNat
  let nan := a == .nan || b == .nan
  (condHolds cond (a.lt b) (a.eq b) nan, uncertain cond (limY a) (limY b) ba bb)

def cmpInt (cond : Nat) (a b : Int) (ba bb : Option Rat) : Bool × Bool :=
  (condHolds cond (decide (a < b)) (decide (a = b)) false, uncertain cond (some (a : Rat)) (some (b : Rat)) ba bb)

def calcIcmp (c : LaneCtx) (s : Nat) : Bool × Bool :=
  let (a, ba) := c.srcI (fmtA c.fmt) c.w.a s
  let (b, bb) := c.srcI (fmtB c.fmt) c.w.b s
  cmpInt c.w.rnd.toNat a b ba bb
def calcIcmpu (c : LaneCtx) (s : Nat) : Bool × Bool :=
  let (a, ba) := c.srcX c.w.a s
  let (b, bb) := c.srcX c.w.b s
  cmpInt c.w.rnd.toNat a.toNat b.toNat (bval ba) (bval bb)
def calcIcmpi (c : LaneCtx) (s : Nat) : Bool × Bool :=
  let (a, ba) := c.srcI (fmtA c.fmt) c.w.a s
  cmpInt c.w.rnd.toNat a c.immX.toInt ba (some 0)

def calcPlop (c : LaneCtx) (s : Nat) : Bool × Bool :=
  (c.w.table.getLsbD (4 * (c.srcP c.w.a s).toNat + 2 * (c.srcP c.w.b s).toNat + (c.srcP c.w.c s).toNat), false)
def calcPmovP (c : LaneCtx) (s : Nat) : Bool × Bool := ((c.srcX c.w.a s).1 != 0, false)

end Sys2Proof.Machine
end

