-- ==== Sys2Proof/Machine/Ops.lean ====
section
/-! DEFINITION. The shared operations of every instruction: waiting, taking a trap and returning from one (11 R250-R260),
the end of a team or stream by a trap (R262, 04 R87, 03 R58), the split stack (05 R124-R128) and block end (R121),
pairing (12 R289), and the drivers through which scalar instructions and lane words run. -/

namespace Sys2Proof.Machine

/-! ### Causes (Table 11-2) -/

/-- Class of a cause (R251). -/
inductive CauseClass where
  | recoverable | fatal | gridEnding
deriving DecidableEq, Repr

def causeClass (c : Nat) : CauseClass :=
  if c = 0x13 then .gridEnding
  else if [0x04, 0x05, 0x06, 0x07, 0x08, 0x09, 0x0A, 0x0B, 0x0C, 0x0F, 0x11, 0x12, 0x16].contains c then .recoverable
  else .fatal

def cIllop : Nat := 0x01
def cIllfld : Nat := 0x02
def cFeature : Nat := 0x03
def cEmpty : Nat := 0x04
def cBreach : Nat := 0x05
def cUncert : Nat := 0x06
def cMissp : Nat := 0x07
def cEscape : Nat := 0x08
def cOvfq : Nat := 0x09
def cMcflt : Nat := 0x0A
def cLinkdn : Nat := 0x0B
def cRmterr : Nat := 0x0C
def cAlign : Nat := 0x0D
def cAccess : Nat := 0x0E
def cXlate : Nat := 0x0F
def cBobbin : Nat := 0x10
def cSwtrap : Nat := 0x11
def cDivz : Nat := 0x12
def cMemerr : Nat := 0x13
def cWsphase : Nat := 0x14
def cWaitmode : Nat := 0x15
def cAlwdeny : Nat := 0x16
def cAccslot : Nat := 0x17
def cBadblk : Nat := 0x18

/-! ### Waiting -/

/-- The instruction waits: nothing changes, and the device goes on (05 R115, R116, R118). -/
def waitOut (s : State) : Out := .next { s with stalled := true }

/-- It waits at an empty register, a full spool, CWAIT or MWAIT: the device counts such waits (04 R109). -/
def blockedOut (s : State) : Out := .next { s with stalled := true, starved := true }

/-! ### Ends by a trap -/

/-- A group of a team that has ended (05 R141, 11 R262): nothing of it runs or waits any more, and its slot is held until the
team's copies and outputs are complete. Its registers are released, not cleared. -/
def Group.freed (g : Group) : Group :=
  { g with ended := true, wait := .none, outst := [], spool := [], trapq := [], block := none, held := none, laneTraps := [], ovfq := [],
           trap := none, rdv := none, tiles := [], hdrs := [], ready := none, watched := none, seqFaults := [], refused := none,
           wakeAt := none, invalTill := 0, lost := 0, sfetch := none, lfetch := [] }

/-- A team's engine commands, messages, receives and watch entries released (04 R141, 11 R262): a matrix output that
has read its slot and the queued copies go on. -/
def State.releaseTeam (s : State) (h : Nat) : State :=
  let t := s.team h
  let s := s.updCore t.core fun c =>
    { c with seq := c.seq.filter (fun q => q.onTeam != h || (match q.kind with | .mout _ => q.started | _ => false)),
             past := c.past.filter (·.onTeam != h),
             posted := c.posted.filter (·.team != h), msgq := c.msgq.filter (·.team != h),
             olog := c.olog.filter (fun e => e.req.party.teamOf != h || e.req.party.isStream || e.req.kind == .rows),
             haltReq := c.haltReq.filter (· != h) }
  let s := { s with watches := s.watches.filter (fun w => w.party.isStream || w.party.teamOf != h),
                    gangs := s.gangs.map fun (e : Nat × Gang) => (e.1, { e.2 with pending := e.2.pending.filter (· != h) }) }
  s.setTeam h { s.team h with life := .ended, groups := t.groups.map Group.freed, remap := [], image := none }

/-! ### Rendezvous (05 R130, 16 R379, R380) -/

/-- Groups of a team that have not ended. -/
def Team.liveGroups (t : Team) : List (Fin 16) := (List.finRange 16).filter fun g => (t.groups.get g).used && !(t.groups.get g).ended

/-- Parties of a team that have not ended. -/
def State.partiesOf (s : State) (h : Nat) : List Party := (s.team h).liveGroups.map (Party.group h)

/-- A rendezvous completes: each party goes on after its instruction, having acquired at the scope. -/
def State.finishRdv (s : State) (teams : List Nat) (ps : List Party) (scope : Nat) : State :=
  let s := ps.foldl (fun s p => (s.updGrp p fun g => { g with rdv := none, pc := g.pc + 4 }).acquireAt p scope) s
  teams.foldl (fun s h => s.setTeam h { s.team h with elected := false }) s

/-- BAR completes once every group of the team that has not ended has arrived (R379). -/
def State.tryBar (s : State) (h : Nat) : State :=
  let ps := s.partiesOf h
  if ps.isEmpty ∨ ps.any (fun p => (s.grp p).rdv != some .bar) then s else s.finishRdv [h] ps 0

/-- Teams of a cluster that have not ended: all of them, or those of one half. -/
def State.clusterTeams (s : State) (h : Nat) (half : Bool) : List Nat :=
  (s.team h).cluster.filter fun k => (s.team k).life != .ended && (!half || (s.team k).far == (s.team h).far)

/-- CBAR and CBAR.L complete once every group of the cluster, or of the half, that has not ended has arrived (R380). -/
def State.tryCbarKind (s : State) (h : Nat) (half : Bool) : State :=
  let ts := s.clusterTeams h half
  let ps := ts.flatMap s.partiesOf
  if ps.isEmpty ∨ ts.any (fun k => (s.team k).life != .running) ∨ ps.any (fun p => (s.grp p).rdv != some (if half then .cbarL else .cbar)) then s
  else s.finishRdv ts ps 1

/-- A cluster straddles a seam (04 R101). -/
def State.straddled (s : State) (h : Nat) : Bool := (s.team h).cluster.any fun k => (s.team k).far

/-- Rendezvous of a team's cluster completed where the last party has arrived or ended. -/
def State.tryCbar (s : State) (h : Nat) : State :=
  let s := (s.team h).cluster.foldl (fun s k => s.tryCbarKind k true) s
  s.tryCbarKind h false

/-- Running and saved teams of a grid. -/
def State.teamsOf (s : State) (grid : Nat) : List Nat :=
  (s.teams.filter fun e => e.2.grid == grid && e.2.life != .ended).map (·.1)

/-- A team ends with a fatal cause (04 R87, R89); a grid-ending cause stops every team of the grid and starts no more. -/
def State.teamFatal (s : State) (h cause : Nat) : State :=
  let gh := (s.team h).grid
  let s := (s.releaseTeam h).tryCbar h
  let g := s.grid gh
  let fate := match g.fate with | .running => GridEnd.faulted (BitVec.ofNat 8 cause) | f => f
  let s := s.setGrid gh { g with nfail := g.nfail + 1, fate := fate, incomplete := true }
  if causeClass cause == .gridEnding then
    let s := (s.teamsOf gh).foldl (fun s h => s.releaseTeam h) s
    s.setGrid gh { s.grid gh with ranges := [] }
  else s

/-- A control stream ends (03 R58): its status word and end counter are written when its addresses translate. -/
def State.endStream (s : State) (k kind cause : Nat) : State :=
  let s := s.updGrp (.stream k) fun g => { g with wait := .ending kind cause, outst := [] }
  let s := s.updCore (s.coreOf (.stream k)) fun c => { c with olog := c.olog.filter fun e => e.req.party != .stream k }
  { s with watches := s.watches.filter fun w => w.party != .stream k }

/-- A party ends with a fatal cause (R87, R58). -/
def State.fatalEnd (s : State) (p : Party) (cause : Nat) : State :=
  match p with
  | .group h _ => s.teamFatal h cause
  | .stream k => s.endStream k 1 cause

/-! ### Taking a trap (R250, R254-R258) -/

/-- Handler address (Table 11-1). -/
def Group.vec (g : Group) : BitVec 57 := (g.tvec.extractLsb' 0 57) &&& ~~~3#57

/-- `c.tcause` at delivery (Table 11-1). -/
def tcauseOf (cause : Nat) (lane : Bool) (slot : Nat) (second pend : Bool) (word : Nat) : DWord :=
  BitVec.ofNat 64 (cause + (if lane then 2 ^ 8 else 0) + 2 ^ 9 * slot + (if second then 2 ^ 10 else 0) +
    (if pend then 2 ^ 11 else 0) + 2 ^ 12 + 2 ^ 16 * word)

/-- A wait that a trap interrupts ends; a watch entry it held is given up (R255). -/
def State.dropWait (s : State) (p : Party) : State :=
  let s1 := s.updGrp p (fun g => { g with wait := Wait.none })
  { s1 with watches := s1.watches.filter (fun x => x.party != p) }

/-- The trap registers and pc at the delivery of a scalar trap (R254, Table 11-4): `ret` names the instruction to return to, `sempties` the registers it left empty. -/
def Group.enterScalar (g : Group) (cause : Nat) (info : DWord) (ret : BitVec 57) (sempties : List SNum) : Group :=
  { g.goTo g.vec with
    tcause := tcauseOf cause false 0 false (!g.laneTraps.isEmpty) 0, tinfo := info, tmask := 0, tredo := 0,
    tret := ret.setWidth 64, wait := .none, hdrs := [],
    trap := some { lane := false, id := 0, word := 0, allowed := 0, first := false, second := false, empties := [], sempties := sempties } }

/-- Consumed uncorrectable errors are also recorded, as type 2 (R81, R261). -/
def State.noteCause (s : State) (p : Party) (cause : Nat) (info : DWord) : State :=
  if cause = cMemerr then s.reportMemErr info.toNat (s.ctxOf p) else s

/-- A scalar trap (R254): to the handler, or the end of the team or stream (R251, R258). -/
def State.scalarTrap (s : State) (p : Party) (cause : Nat) (info : DWord) (ret : BitVec 57) (sempties : List SNum) : State :=
  let s := s.noteCause p cause info
  let g := s.grp p
  if causeClass cause != .recoverable ∨ g.vec = 0 ∨ g.inh then s.fatalEnd p cause
  else (s.dropWait p).updGrp p fun g => g.enterScalar cause info ret sempties

/-- The current scalar instruction traps at issue: `c.tret` names it (Table 11-4). -/
def trapAt (s : State) (cause : Nat) (info : DWord) : Out := .next (s.scalarTrap s.who cause info s.cur.pc [])

/-- The record of a stack at a position is marked with the lane trap that its word raised (R260). -/
def Block.mark (b : Block) (pos id : Nat) : Block := { b with stack := b.stack.modify pos fun q => { q with traps := id :: q.traps } }

/-- A trap raised by a lane word (R255, R256): it waits for delivery. A cause that
ends the grid whatever `c.tvec` holds waits for no handler (R261, R265). -/
def State.raiseLane (s : State) (p : Party) (t : LaneTrap) : State :=
  let s := s.noteCause p t.cause.toNat t.info
  if causeClass t.cause.toNat == .gridEnding then s.fatalEnd p t.cause.toNat
  else s.updGrp p fun g => { g with laneTraps := if t.slot = 0 then t :: g.laneTraps else g.laneTraps ++ [t] }

/-- The trap registers and pc at the delivery of a lane trap (R255, R256). -/
def Group.enterLane (g : Group) (t : LaneTrap) (rest : List LaneTrap) : Group :=
  { g.goTo g.vec with
    tcause := tcauseOf t.cause.toNat true t.slot t.second (!rest.isEmpty) t.word, tinfo := t.info,
    tmask := t.mask.setWidth 64, tredo := t.redo.setWidth 64, tret := g.pc.setWidth 64, wait := .none, hdrs := [],
    laneTraps := rest,
    trap := some { lane := true, id := t.id, word := t.word, allowed := t.redo, first := t.first, second := t.second, empties := t.empties, sempties := [] } }

/-- Delivery of the group's first lane trap to its scalar stream (R255, R257, R258). -/
def State.deliverLane (s : State) (p : Party) : State :=
  match (s.grp p).laneTraps with
  | [] => s
  | t :: rest =>
    if causeClass t.cause.toNat != .recoverable ∨ (s.grp p).vec = 0 then s.fatalEnd p t.cause.toNat
    else (s.dropWait p).updGrp p fun g => g.enterLane t rest

/-! ### Blocks (R119-R128) -/

/-- Destination registers of a block full again, but for one whose load is still on its way (R120, R121). -/
def Group.fillDests (g : Group) (dmask : BitVec 16) : Group :=
  (List.range 16).foldl (fun g i =>
    if dmask.getLsbD i && !(g.outst.any fun o => match o.dest with | .laneS j => j.val == i | _ => false)
    then g.sfill ⟨16 + i % 16, by omega⟩ else g) g

/-- remove(q) of R126. -/
def removeAt (st : List Split) (pos : Nat) : List Split :=
  match pos, st with
  | 0, _ :: rest => rest
  | 1, top :: q :: rest => { top with sib := q.sib } :: rest
  | n, st => st.eraseIdx n

/-- Records that have arrived or have no lane are removed while they are runnable (R126); the stack shrinks at every turn. -/
def sweep (g : Group) : Nat → List Split → List Split
  | 0, st => st
  | n + 1, st =>
    let gone (q : Split) : Bool := q.pc == q.rpc || g.eff q == 0
    match st with
    | [] => []
    | top :: rest =>
      if gone top then sweep g n rest
      else
        match rest with
        | q :: _ => if top.sib && gone q then sweep g n (removeAt st 1) else st
        | [] => st

/-- A block of the group has ended (R121): its declared registers are full, and its place in the spool is free. -/
def Group.dropBlock (g : Group) (b : Block) : Group :=
  { g.fillDests b.entry.dmask with fin := 0, block := none, spool := if b.entry.trap then g.spool else g.spool.tail }

/-- The running block ends (R121). After the last trap block a held block resumes (11 R259) with the records that still have
lanes (R126); where none has, it ends too. -/
def Group.endBlock (g : Group) : Group :=
  match g.block with
  | none => g
  | some b =>
    let g := g.dropBlock b
    if g.trapq.isEmpty then
      let held := g.held
      let g := { g with held := none, fin := g.heldFin, heldFin := 0 }
      match held with
      | none => g
      | some h =>
        let st := sweep g (2 * h.stack.length) h.stack
        if st.isEmpty then g.dropBlock h else { g with block := some { h with stack := st } }
    else g

/-- The running block's stack replaced and swept; the block ends when the stack is empty (R126, R127). -/
def Group.setStack (g : Group) (b : Block) (st : List Split) : Group :=
  let st := sweep g (2 * st.length) st
  let g := { g with block := some { b with stack := st } }
  if st.isEmpty then g.endBlock else g

/-- A record's pc set; falling through word L − 1 finishes its lanes (R127). -/
def Group.moveTo (g : Group) (b : Block) (pos w : Nat) : Group :=
  match b.rec? pos with
  | none => g
  | some q =>
    let g := if b.entry.len ≤ w then { g with fin := g.fin ||| g.eff q } else g
    g.setStack b (b.stack.set pos { q with pc := w })

/-- lbr of R125: the stack after a branch of the record at `pos`, or none where it leaves more than 4096 records to the
group's bobbin, which also holds those of a held block (R128). -/
def lbrStack (g : Group) (st : List Split) (pos : Nat) (c : Mask) (w r : Nat) : Option (List Split) :=
  match st[pos]? with
  | none => some st
  | some x =>
    let m := g.eff x
    let tk := m &&& c
    let nt := m &&& ~~~c
    if tk = 0 then some (st.set pos { x with pc := x.pc + 1 })
    else if nt = 0 then some (st.set pos { x with pc := w, jumped := true })
    else
      let (x, st) : Split × List Split :=
        match pos, st with
        | 1, y :: x :: rest => ({ x with sib := true }, { x with sib := true } :: { y with sib := x.sib } :: rest)
        | _, st => (x, st)
      let base : List Split := if r = x.rpc then st.tail else { x with pc := r } :: st.tail
      let s0 := if r = x.rpc then x.sib else false
      let side (p : Nat) (k : Mask) (jump first : Bool) (acc : List Split) : List Split × Bool :=
        if p ≠ r then ({ pc := p, mask := k, rpc := r, fmt := x.fmt, sib := if first then s0 else true, redo := none, second := false, jumped := jump, traps := [] } :: acc, false)
        else (acc, first)
      let (a1, f1) := side (x.pc + 1) nt false true base
      let (a2, _) := side w tk true f1 a1
      let runnable := match a2 with | top :: _ => if top.sib then 2 else 1 | [] => 0
      if a2.length - runnable + (match g.held with | some h => h.stack.length | none => 0) > Config.bobbinMax then none else some a2

/-! ### Lane code and pairing (R289) -/

/-- Bytes of a sector list at a virtual address, when every sector is held. -/
def codeBytes (code : KMap Sector) (va n : Nat) : Option (List Byte) :=
  (List.range n).foldr (fun i acc =>
    match acc, (code.find? fun e => e.1 == (va + i) / 64) with
    | some l, some e => some (e.2.byte ((va + i) % 64) :: l)
    | _, _ => none) (some [])

/-- A word of a block, when its code has been fetched (R394). -/
def SpoolEntry.word? (e : SpoolEntry) (n : Nat) : Option Decoded :=
  (codeBytes e.code (e.blk.toNat + 12 * n) 12).map (decodeBytes true)

/-- The words n and n + 1 of a block meet rules 1 and 3 to 7 of R289 for a record. -/
def pairFits (s : State) (g : Group) (b : Block) (q : Split) (n : Nat) (i : Instr) (r : LaneRow) (w : LaneWord) : Bool :=
  match b.entry.word? (n + 1) with
  | some (.ok j) =>
    match laneRow j with
    | some (r2, w2) =>
      let reads := laneReads j r2 w2
      let writes := laneWrites i r w
      let regs := (((laneReads i r w) ++ reads).map (·.1)).dedup
      r.cls != .c && r2.cls != .c && r.cls != r2.cls && n + 1 != b.entry.len &&
        (reads.all fun x => !writes.contains x.1) &&
        (match laneWritesP i r w with | some p => !(laneReadsP r2 w2).contains p | none => true) &&
        ((writes.all fun x => !(laneWrites j r2 w2).contains x) &&
          (match laneWritesS i r w, laneWritesS j r2 w2 with | some x, some y => x != y | _, _ => true) &&
          (match laneWritesP i r w, laneWritesP j r2 w2 with | some x, some y => x != y | _, _ => true)) &&
        ([0, 1, 2, 3].all fun bank => (regs.countP fun x => x % 4 == bank) ≤ 2) &&
        n + 1 != q.rpc &&
        laneFits j r2 w2 g b.entry.dmask q.fmt &&
        (match featureOf j with | some f => s.feature f | none => true)
    | none => false
  | _ => false

/-- Word n is the second word of a pair: the word before it has P = 1, is no second word itself, and meets R289. -/
def pairSecond (s : State) (g : Group) (b : Block) (q : Split) : Nat → Bool
  | 0 => false
  | n + 1 =>
    match b.entry.word? n with
    | some (.ok i) =>
      match laneRow i with
      | some (r, w) => w.pair && pairFits s g b q n i r w && !pairSecond s g b q n
      | none => false
    | _ => false

/-- The word of a record and the next meet R289 (rules 1 to 7); a second word that a jump has reached issues alone. -/
def pairOk (s : State) (g : Group) (b : Block) (q : Split) (i : Instr) (r : LaneRow) (w : LaneWord) : Bool :=
  pairFits s g b q q.pc i r w && !q.second && !(q.jumped && pairSecond s g b q q.pc)

/-! ### The lane driver -/

/-- The word traps in the lanes of `mask` (R255, R256): `redo` are the effective lanes that have not performed it.
A trap of a trap block ends the team (R258). -/
def laneTrapOut (s : State) (b : Block) (pos : Nat) (q : Split) (cause : Nat) (info : DWord) (mask redo : Mask) (first : Bool)
    (empties : List Nat) : Out :=
  if b.entry.trap then .next ((s.noteCause s.who cause info).fatalEnd s.who cause)
  else
    let id := s.handles
    let t := { s with handles := id + 1 }.updCur fun g => { g with block := g.block.map (Block.mark · pos id) }
    .next (t.raiseLane s.who
      { id := id, cause := BitVec.ofNat 8 cause, info := info, mask := mask, redo := redo, word := q.pc, slot := b.slotOf pos,
        second := q.second, first := first, empties := empties, twin := s.cur.laneTraps.isEmpty })

/-- Everything a lane word's meaning is given: its row and fields, the block, the record's position and the record, what it sees, and the lanes in which it is performed. -/
structure LaneRun where
  i : Instr
  r : LaneRow
  w : LaneWord
  b : Block
  pos : Nat
  q : Split
  c : LaneCtx
  perf : Mask
  pairs : Bool

/-- Lanes that have not performed the word when nothing of it was performed (R256). -/
def LaneRun.allRedo (x : LaneRun) : Mask :=
  x.c.g.eff x.q &&& x.q.redo.getD 0xFFFFFFFF

/-- The word traps having performed nothing. -/
def LaneRun.trap (x : LaneRun) (s : State) (cause : Nat) (info : DWord) (mask : Mask) : Out :=
  laneTrapOut s x.b x.pos x.q cause info mask x.allRedo x.pairs []

/-- The record moves past the word (R356); pairing and re-execution state follow (R289, R260). -/
def Group.passWord (g : Group) (b : Block) (pos : Nat) (q : Split) (wantsPair pairs : Bool) : Group :=
  let redo := if pairs then q.redo else none
  let b := { b with stack := b.stack.set pos { q with redo := redo, second := pairs, jumped := false } }
  let g := if wantsPair && !pairs && g.pairser != BitVec.allOnes 64 then { g with pairser := g.pairser + 1 } else g
  g.moveTo b pos (q.pc + 1)

/-- The group after the word: `f` makes its effects, then the record moves on. -/
def LaneRun.done (x : LaneRun) (s : State) (f : Group → Group) : Out :=
  .next (s.updCur fun g => (f g).passWord x.b x.pos x.q x.w.pair x.pairs)

/-- What a lane word of the running block is given; none where the group runs no block in the split slot. -/
def laneRunOf (i : Instr) (s : State) : Option LaneRun :=
  match laneRow i, s.cur.block with
  | some (r, w), some b =>
    match b.posOf s.lslot with
    | none => none
    | some pos =>
      match b.rec? pos with
      | none => none
      | some q =>
        let g := s.cur
        some { i := i, r := r, w := w, b := b, pos := pos, q := q, perf := performedMask g q w,
               c := { g := g, w := w, fmt := q.fmt, alw := b.entry.alw, ks := b.entry.ksnap, width := g.pleatW w.gsel },
               pairs := w.pair && pairOk s g b q i r w }
  | _, _ => none

/-- The feature of an instruction is not accepted (R10). -/
def featureMissing (i : Instr) (s : State) : Bool := match featureOf i with | some f => !s.feature f | none => false

/-- An empty register a word may write all the same: in a trap block, one the trapped instruction left empty (R259). -/
def LaneRun.mayFill (x : LaneRun) (d : Nat) : Bool :=
  x.b.entry.trap && (match x.c.g.trap with | some t => t.empties.contains d | none => false)

/-- The failure predicate of a TLDA under way is read or written by a word, which waits for it (15 R348). -/
def Group.predBusy (g : Group) (i : Instr) (r : LaneRow) (w : LaneWord) : Bool :=
  g.outst.any fun o => match o.pred with | some (n, _) => (laneReadsP r w).contains n || laneWritesP i r w == some n | none => false

/-- A load into a declared scalar destination has not arrived (R120). -/
def Group.laneSBusy (g : Group) (j : Nat) : Bool := g.outst.any fun o => match o.dest with | .laneS i => i.val == j | _ => false

/-- A lane word of the running block: rank 1 checks (R253), empty sources and destinations (R116), then its own effect. -/
def laneGo (i : Instr) (s : State) (body : LaneRun → Out) : Out :=
  match laneRunOf i s with
  | none => .fault .noBlock
  | some x =>
    let g := s.cur
    if featureMissing i s then x.trap s cFeature (BitVec.ofNat 64 ((featureOf i).getD 0)) x.perf
    else if !laneFits i x.r x.w g x.b.entry.dmask x.q.fmt then x.trap s cIllfld (x.r.op.setWidth 64) x.perf
    else
      let empty := (laneReads i x.r x.w).filter fun e => !(g.vreg e.1).full
      match empty.find? (·.2) with
      | some e => x.trap s cEmpty (BitVec.ofNat 64 e.1) x.perf
      | none =>
        if !empty.isEmpty ∨ (laneWrites i x.r x.w).any (fun d => !(g.vreg d).full && !x.mayFill d) ∨
            (laneWritesS i x.r x.w).any g.laneSBusy || g.predBusy i x.r x.w then blockedOut s
        else body x

/-- A lane word one of whose unused fields is not zero (R275, R279): ILLFLD, after FEATURE. -/
def illLane (i : Instr) (s : State) : Out :=
  match laneRunOf i s with
  | none => .fault .noBlock
  | some x =>
    if featureMissing i s then x.trap s cFeature (BitVec.ofNat 64 ((featureOf i).getD 0)) x.perf
    else x.trap s cIllfld (x.r.op.setWidth 64) x.perf

/-- A vector register with the results of the performed lanes written (R215, R315, R316): element `nar` for a narrow result. -/
def writeLanes (old : VReg) (narrow : Option (Nat × Nat)) (res : Nat → Option LaneRes) : VReg :=
  { full := true,
    lanes := Vector.ofFn fun s =>
      match res s.val with
      | none => old.lanes[s]
      | some r =>
        match narrow with
        | none => ⟨BitVec.ofNat 32 r.code, r.bnd⟩
        | some (fc, n) => ⟨setElem fc old.lanes[s].val n r.code, bndMax old.lanes[s].bnd r.bnd⟩ }

/-- Residues written by EF rounding (R222). -/
def Group.setResid (g : Group) (n : Nat) (res : Nat → Option Word) : Group :=
  if h : n < 8 then
    { g with resid := g.resid.set n (Vector.ofFn fun s => (res s.val).getD (g.resid[n][s])) }
  else g

/-- A scalar destination of a block written with the lowest performed lane's word; it stays empty until the block ends (R120). -/
def Group.writeLaneS (g : Group) (i : Nat) (v : Word) : Group :=
  { g with sregs := g.sregs.set (16 + i % 16) ⟨v.setWidth 64, (g.sregs[16 + i % 16]).fill⟩ }

/-- The element a result is narrowed to, for float and integer results (R215). -/
def narrowOf (r : LaneRow) (w : LaneWord) (fmt : Word) : Option (Nat × Nat) :=
  let el : Option (Nat × Nat) := if fmtWidth (fmtD fmt) = 32 then none else some (fmtD fmt, w.nar.toNat)
  match r.res with
  | .float | .plain | .int | .toInt => el
  | .fold => if fieldN w.c.bits 0 4 ≤ 5 then el else none
  | _ => none

/-- The results of a word written to its destination, checked by R242 (`always` for CHKB, `kind` of Table 10-10). -/
def LaneRun.write (x : LaneRun) (s : State) (always : Bool) (kind : Nat) (f : Nat → LaneRes) : Out :=
  let res : Vector LaneRes 32 := Vector.ofFn fun n => if x.perf.getLsbD n.val then f n.val else ⟨0, 0, none, none⟩
  let at? (n : Nat) : Option LaneRes := if x.perf.getLsbD n then res[n]? else none
  let a := allow x.c.alw
  let scalar := 112 ≤ x.w.dst.toNat
  let low := lowestLane x.perf
  let checked := always || a.chkall
  let bad := maskOf fun n => checked && x.perf.getLsbD n && (!scalar || n == low) &&
    (match res[n]? with | some r => breaches a r.bnd r.y | none => false)
  if bad ≠ 0 ∧ a.bte then
    x.trap s cBreach (breachInfo a kind 0 ((lanesOf bad).filterMap fun n => (at? n).map fun r => (r.bnd, r.y))) bad
  else
    x.done s fun g =>
      let g := if bad ≠ 0 then g.setStat 1 else g
      let g := if x.w.rnd = 5 ∧ x.r.res = .float then g.setResid (x.w.dst.toNat % 8) (fun n => (at? n).bind (·.res)) else g
      if scalar then
        (if x.perf = 0 then g
         else g.writeLaneS (x.w.dst.toNat - 112) (BitVec.ofNat 32 ((at? low).getD ⟨0, 0, none, none⟩).code))
      else g.putV x.w.dst.toNat x.perf (writeLanes (g.vreg x.w.dst.toNat) (narrowOf x.r x.w x.c.fmt) at?)

/-- A lane word that writes one register from a function of the lane. -/
def vecOp (i : Instr) (f : LaneCtx → Nat → LaneRes) (s : State) : Out :=
  laneGo i s fun x => x.write s false 0 (f x.c)

/-- A lane word that writes a predicate: the outcome and whether it is uncertain (R245, R246); `int` for an integer comparison. -/
def predOp (i : Instr) (int : Bool) (f : LaneCtx → Nat → Bool × Bool) (s : State) : Out :=
  laneGo i s fun x =>
    let r : Vector (Bool × Bool) 32 := Vector.ofFn fun n => if x.perf.getLsbD n.val then f x.c n.val else (false, false)
    let unc := maskOf fun n => ((r[n]?).getD (false, false)).2
    let val := maskOf fun n => ((r[n]?).getD (false, false)).1
    if unc ≠ 0 ∧ (allow x.c.alw).ute then
      x.trap (s.updCur (·.setStat 0)) cUncert (BitVec.ofNat 64 (x.w.rnd.toNat + (if int then 8 else 0))) unc
    else
      x.done s fun g =>
        let g := if unc ≠ 0 then g.setStat 0 else g
        g.setPred x.w.pdst.toNat (blend x.perf (g.predMask x.w.pdst.toNat) val)

/-! ### The scalar driver -/

/-- Scalar instructions that a control stream does not have (03 Table 3-6). -/
def streamIllegal (i : Instr) : Bool :=
  match i with
  | .slds _ _ _ _ | .lrun _ _ | .ldrain | .setfmt _ | .setalw _ | .bar | .cbar | .cbarL | .regather _ | .send _ _ | .sendm _ _ _
  | .recv _ _ | .rprobe _ _ | .rcancel _ _ | .copy _ _ _ | .copym _ _ _ _ _ | .cwait _ _ | .mloop _ | .mgang _ _ | .mready
  | .mreadyGang | .mwait _ | .mwaitAll | .mzero _ | .mout _ | .mldc _ | .wload _ _ | .wdir _ _ | .rfsh => true
  | _ => false

/-- `c.tinfo` of ILLOP and ILLFLD for a scalar instruction: its op (Table 11-2). -/
def opInfo (i : Instr) : DWord := (fop (encodeScalar i)).setWidth 64

/-- Another group of the team, or of the cluster's half for CBAR, waits at a rendezvous of another kind (R130, R379, R380). -/
def State.rdvMixed (s : State) (mine : Rdv) : Bool :=
  let kind (r : Rdv) : Nat := match r with | .bar => 0 | .cbar => 1 | .cbarL => 2 | .regather _ => 3
  let h := s.who.teamOf
  (s.partiesOf h).any (fun p => match (s.grp p).rdv with | some r => kind r != kind mine | none => false) ||
    (match mine with
     | .cbar | .cbarL =>
       ((s.clusterTeams h true).flatMap s.partiesOf).any fun p =>
         match (s.grp p).rdv with | some .cbar => kind mine != 1 | some .cbarL => kind mine != 2 | _ => false
     | _ => false)

/-- CBAR.L is CBAR in a cluster that is not straddled (R380). -/
def State.halfRdv (s : State) : Rdv := if s.straddled s.who.teamOf then .cbarL else .cbar

/-- ILLOP of an instruction in the state in which it executes: a rendezvous beside one of another kind, REGATHER in a grid
without regather (R130, R379, R380), RFT outside a handler (11 R260). -/
def State.illopNow (s : State) (i : Instr) : Bool :=
  match i with
  | .bar => s.rdvMixed .bar
  | .cbar => s.rdvMixed .cbar
  | .cbarL => s.rdvMixed s.halfRdv
  | .regather _ => !(s.grid s.curTeam.grid).cfg.getLsbD 45 || s.rdvMixed (.regather 0)
  | .rft => !s.cur.inh
  | _ => false

/-- Rank 1 of a scalar instruction (R253): ILLOP, on a control stream or in the state it meets, FEATURE, ILLFLD. -/
def scalarGate (i : Instr) (s : State) (body : Out) : Out :=
  if (s.who.isStream && streamIllegal i) || s.illopNow i then trapAt s cIllop (opInfo i)
  else if featureMissing i s then trapAt s cFeature (BitVec.ofNat 64 ((featureOf i).getD 0))
  else if !fieldsOk i then trapAt s cIllfld (opInfo i)
  else body

/-- A scalar instruction one of whose unused fields is not zero (R275): ILLFLD, after ILLOP and FEATURE. -/
def illScalar (i : Instr) (s : State) : Out := scalarGate i s (trapAt s cIllfld (opInfo i))

/-- The registers an instruction reads or writes are full (R115): EMPTY under `sfe`, else it waits. In a handler a write to a register the trapped instruction left empty does not wait (11 R259). -/
def needRegs (reads writes : List SNum) (s : State) (body : Out) : Out :=
  let g := s.cur
  let own : List SNum := match g.trap with | some t => if g.inh then t.sempties else [] | none => []
  let blocked := (reads.filter fun r => !g.sfull r) ++ (writes.filter fun r => !g.sfull r && !own.contains r)
  match blocked.find? (fun r => g.fe.getLsbD 0 && g.slaneEmpty r) with
  | some r => trapAt s cEmpty (BitVec.ofNat 64 r.val)
  | none => if blocked.isEmpty then body else blockedOut s

/-- A scalar instruction that computes one register from its sources at issue. -/
def aluOp (i : Instr) (d : SNum) (reads : List SNum) (f : State → DWord) (s : State) : Out :=
  scalarGate i s (needRegs reads [d] s (.next ((s.ws d (f s)).advance)))

/-- A scalar instruction that writes no register: its effect, then the pc moves on. -/
def scalarOp (i : Instr) (reads : List SNum) (f : State → Out) (s : State) : Out :=
  scalarGate i s (needRegs reads [] s (f s))

/-- Effects complete: the pc moves past the instruction. -/
def doneAt (s : State) : Out := .next s.advance

/-! ### Return from a trap (R260) -/

/-- The split stack after RFT of a lane trap: the record that raised it performs its word again in the lanes of `c.tredo`, or
goes on after it. A record that a trap block's LEXIT has emptied is gone (R126). -/
def Group.resumeLane (g : Group) (t : TrapCtx) : Group :=
  match g.block with
  | none => g
  | some b =>
    let redo := g.tredo.setWidth 32 &&& t.allowed
    match b.trapAt? t.id with
    | none => g
    | some pos =>
      match b.rec? pos with
      | none => g
      | some q =>
        let q := { q with traps := q.traps.erase t.id, jumped := false }
        if redo ≠ 0 then g.setStack b (b.stack.set pos { q with pc := t.word, redo := some redo, second := t.second })
        else g.moveTo { b with stack := b.stack.set pos { q with redo := none, second := false } } pos (t.word + (if t.first then 2 else 1))

/-- RFT once every trap block the handler pushed has ended (R260): `inh` cleared, registers left empty become full, the pc from
`c.tret`; the spool entries that the handler pushed may start (13 R306). -/
def State.returnFromTrap (s : State) (p : Party) : State :=
  let s := s.updGrp p fun g =>
    let back (g : Group) : Group :=
      { g.goTo ((g.tret.extractLsb' 0 57) &&& ~~~3#57) with
        tcause := g.tcause &&& ~~~(BitVec.ofNat 64 (2 ^ 12)), trap := none, spool := g.spool.map fun e => { e with late := false } }
    match g.trap with
    | none => back g
    | some t =>
      let g := if t.lane then g.resumeLane t else g
      let g := t.empties.foldl (fun g r => g.setV r { g.vreg r with full := true }) g
      back (t.sempties.foldl (fun g r => g.sfill r) g)
  s.deliverLane p

end Sys2Proof.Machine
end

