-- ==== Sys2Proof/Machine/MemOps.lean ====
section
/-! DEFINITION. Issuing a memory request (07 R166-R171, R188-R193; 08 R198; 15 R339-R346): the address checks, the
lanes that translate performed at once, the others taken into the operand log, and the results on their way (`Outst`). -/

namespace Sys2Proof.Machine

/-! ### Where the lanes of a request lie -/

def MemReq.va (q : MemReq) (i : Nat) : Nat := ((q.addr[i]?).getD 0).toNat
def MemReq.paOf (q : MemReq) (i : Nat) : Nat := (q.pa[i]?).getD 0
def MemReq.peerOf (q : MemReq) (i : Nat) : Option (BitVec 12) := (q.peer[i]?).getD none
def MemReq.isStore (q : MemReq) : Bool := match q.kind with | .store => true | _ => false
def MemReq.isLoad (q : MemReq) : Bool := match q.kind with | .load => true | _ => false
/-- Loads ask for read permission, stores and atomics for write permission (R188). -/
def MemReq.writes (q : MemReq) : Bool := match q.kind with | .load | .tile | .command _ => false | _ => true

/-- A load of the lane hits L1, so that it needs no translation (R188). A no-L1 load reads the buffer or the home (15 R342), and
so does an acquire at cluster scope or wider (08 R201). -/
def State.loadHits (s : State) (q : MemReq) (i : Nat) : Bool :=
  q.isLoad && q.hint != 2 && !(q.acq.any (· != 0)) && (s.inL1 (s.coreOf q.party) q.party (q.va i / 64)).isSome

/-- Where a lane's address lies. -/
def State.lookLane (s : State) (q : MemReq) (i : Nat) : Look := s.look (s.coreOf q.party) (s.pasidOf q.party) (q.va i) q.writes

/-- The request with the physical addresses of its lanes (R188). -/
def State.placed (s : State) (q : MemReq) : MemReq :=
  { q with
    pa := Vector.ofFn fun i => match s.lookLane q i.val with | .here a => a | .peer _ a => a | _ => 0
    peer := Vector.ofFn fun i => match s.lookLane q i.val with | .peer p _ => some p | _ => none }

/-! ### Draining one sector, and reads at a home -/

/-- The core's buffered stores to a virtual sector drained, and its L1 copy set to I, as an atomic does (R303, R171). -/
def State.settleSector (s : State) (p : Party) (va : Nat) : State :=
  let core := s.coreOf p
  let s := match s.buffered core p (va / 64) with
    | some e => if s.canDrain e then s.drainEntry core e else s
    | none => s
  s.updCore core fun c => { c with l1 := c.l1.filter fun l => !((s.ctx l.ctx).pasid == s.pasidOf p && l.va == va / 64) }

/-- Where an address lies for an operation made at its home (R207, R389). -/
def State.lookAt (s : State) (p : Party) (va : Nat) (write : Bool) : Look := s.look (s.coreOf p) (s.pasidOf p) va write

/-! ### The checks of a reference (08 R207) -/

/-- Header fields (Table 8-3). -/
def hdrLenOf (h : DWord) : Nat := fieldN h 40 24
def hdrScope (h : DWord) : Nat := fieldN h 37 3

/-- A request to a lost peer is not sent: RMTERR with applied 0 and status 3 (R48). -/
def rmtLost (p : BitVec 12) : DWord := BitVec.ofNat 64 (3 * 2 ^ 2 + p.toNat * 2 ^ 16)

/-- What reading a header at its home comes to: its page is needed, its address does not exist, it lies at a peer that has not
sent it, it is poisoned, a peer could not give it, or H and the word. -/
inductive Header where
  | need
  | bad
  | away (d : BitVec 12) (pa : Nat)
  | poison (pa : Nat)
  | lost (info : DWord)
  | is (obj : Bool) (word : DWord)
deriving DecidableEq, Repr

/-- A header read at its home, the core's own buffered stores to it first; a peer's home sends its sector with its metadata (02 R39). -/
def State.header (s : State) (p : Party) (va : Nat) : Header :=
  match s.lookAt p va false with
  | .miss => .need
  | .bad => .bad
  | .here pa =>
    if s.poison.contains (pa / 64) then .poison pa
    else let t := s.settleSector p va; .is (mdH (t.mdOf (pa / 64))) (t.read64 pa)
  | .peer d pa =>
    match (s.grp p).hdrs.find? (·.1 == va / 64) with
    | some (_, _, _, some i) => .lost i
    | some (_, x, md, none) => .is (mdH md) (x.extractLsb' (8 * (va % 64)) 64)
    | none => if s.peerLost d then .lost (rmtLost d) else .away d pa

/-- Outcome of the checks of R207 for one reference: a cause with its information, a page or a peer's header it waits for, or the store. -/
inductive RefResult where
  | memerr (pa : DWord)
  | align (a : DWord)
  | access (a : DWord)
  | rmterr (info : DWord)
  | escape (info : DWord)
  | need (va : Nat) (write : Bool)
  | away (va : Nat) (d : BitVec 12) (pa : Nat)
  | store
deriving DecidableEq, Repr

/-- What a header that is not there gives an STREF. -/
def Header.miss (h : Header) (a : DWord) : RefResult :=
  match h with
  | .need => .need a.toNat false
  | .bad => .access a
  | .away d pa => .away a.toNat d pa
  | .poison pa => .memerr (BitVec.ofNat 64 pa)
  | .lost i => .rmterr i
  | .is _ _ => .store

/-- ALIGN and ACCESS of the operands (15 R347): 64-byte alignment, then bits [63:57]. -/
def refFields (h r : DWord) : RefResult :=
  if h.toNat % 64 ≠ 0 then .align h
  else if r ≠ 0 ∧ r.toNat % 64 ≠ 0 then .align r
  else if h.extractLsb' 57 7 ≠ 0 then .access h
  else if r.extractLsb' 57 7 ≠ 0 then .access r
  else .store

/-- The word h + 8w. -/
def refWord (h : DWord) (w : Nat) : DWord := h + BitVec.ofNat 64 (8 * w)

/-- Steps 1 to 3 of R207 for container h, word offset w and reference r, in their order; the page of the word is needed last. -/
def State.refCheck (s : State) (p : Party) (h : DWord) (w : Nat) (r : DWord) : RefResult :=
  let word := refWord h w
  if refFields h r ≠ .store then refFields h r
  else if w = 0 then .access h
  else
    match s.header p h.toNat with
    | .is isObj hdr =>
      if isObj ∧ hdrLenOf hdr * 64 ≤ 8 * w then .access word
      else if 2 ^ 57 ≤ h.toNat + 8 * w ∨ s.lookAt p word.toNat true = .bad then .access word
      else
        let put : RefResult := if s.lookAt p word.toNat true = .miss then .need word.toNat true else .store
        if r = 0 then put
        else
          match s.header p r.toNat with
          | .is isRef rh =>
            let sigma := if isObj then hdrScope hdr else 4
            let tau := hdrScope rh
            if !isRef then .access r
            else if tau < sigma then .escape (BitVec.ofNat 64 (sigma + 8 * tau))
            else put
          | x => x.miss r
    | x => x.miss h

/-- Container, word offset and reference of a lane of an STREF. -/
def MemReq.refOf (q : MemReq) (i : Nat) : DWord × Nat × DWord :=
  let d (k : Nat) : Word := (((q.data[k]?).bind fun v => v[i]?).getD LaneVal.zero).val
  if q.lane then ((q.addr[i]?).getD 0, (d 0).toNat + q.x.toNat, (d 2) ++ (d 1)) else ((q.addr[i]?).getD 0, q.x.toNat, q.y)

/-! ### The pages of a request -/

/-- The addresses that a lane of a request needs translated, each for writing or not. -/
def MemReq.places (q : MemReq) (i : Nat) : List (Nat × Bool) :=
  match q.kind with
  | .ref => let (h, w, r) := q.refOf i; (h.toNat, false) :: (if r = 0 then [] else [(r.toNat, false)]) ++ [((refWord h w).toNat, true)]
  | .tile => [(q.x.toNat, false), (q.va i, false)]
  | .command _ => [(q.va i, false), (max (q.va i) ((q.va i + 47) / 8192 * 8192), false)]
  | _ => [(q.va i, q.writes)]

/-- The address whose page a lane of a request lacks, and whether to write (R191). -/
def State.laneNeeds (s : State) (q : MemReq) (i : Nat) : Option (Nat × Bool) :=
  match q.kind with
  | .ref => let (h, w, r) := q.refOf i; match s.refCheck q.party h w r with | .need va write => some (va, write) | _ => none
  | _ => if s.loadHits q i then none else (q.places i).find? fun a => s.lookAt q.party a.1 a.2 == .miss

/-- Lanes whose page has no translation. -/
def State.missLanes (s : State) (q : MemReq) : Mask := maskOf fun i => q.lanes.getLsbD i && (s.laneNeeds q i).isSome
/-- Lanes in a peer's memory. -/
def State.peerLanes (s : State) (q : MemReq) : Mask :=
  maskOf fun i => q.lanes.getLsbD i && !s.loadHits q i && (match s.lookLane q i with | .peer _ _ => true | _ => false)
/-- Lanes performed at once. -/
def State.hereLanes (s : State) (q : MemReq) : Mask := q.lanes &&& ~~~(s.missLanes q) &&& ~~~(s.peerLanes q)

/-- ALIGN, then ACCESS (R167, R20, R253): the cause, the address of the lowest lane with it, and its lanes. -/
def State.addrFault (s : State) (q : MemReq) : Option (Nat × DWord × Mask) :=
  let al := maskOf fun i => q.lanes.getLsbD i && q.va i % q.bytes != 0
  let ac := maskOf fun i => q.lanes.getLsbD i && (2 ^ 57 ≤ q.va i || (!s.loadHits q i && (match s.lookLane q i with | .bad => true | _ => false)))
  if al ≠ 0 then some (cAlign, BitVec.ofNat 64 (q.va (lowestLane al) % 2 ^ 57), al)
  else if ac ≠ 0 then some (cAccess, BitVec.ofNat 64 (q.va (lowestLane ac) % 2 ^ 57), ac)
  else none

/-! ### What a memory operation waits for -/

/-- Entries of the operand log of a group (R191): one leaves the log when its lanes are performed, or its refused pages reported (R192). -/
def State.logOf (s : State) (p : Party) : List LogEntry := (s.core (s.coreOf p)).olog.filter fun e => e.req.party == p
/-- The pages of an entry's lanes that have not been performed. -/
def LogEntry.pages (e : LogEntry) : List Nat := (lanesOf (e.req.lanes ||| e.refused)).flatMap fun i => (e.req.places i).map (·.1 / 8192)
/-- Atomics of a group that have not been performed at their homes. -/
def State.atomsOf (s : State) (p : Party) : List MemReq := s.atoms.filter fun q => q.party == p

/-- An earlier request that comes before the next one of a side of the party: of the same side, or a scalar request made
before the LRUN of the running block (05 R122 items 1 to 3). -/
def State.comesBefore (s : State) (p : Party) (lane : Bool) (q : MemReq) : Bool :=
  q.lane == lane || (lane && !q.lane && (match (s.grp p).block with | some b => q.id < b.entry.id + 4 | none => false))

/-- A word of an earlier request's lane that has not been performed overlaps one of the next request's, by virtual or by physical address (R196). -/
def State.overlaps (s : State) (e q : MemReq) : Bool :=
  (lanesOf e.lanes).any fun i => (lanesOf q.lanes).any fun j =>
    (e.va i < q.va j + q.bytes && q.va j < e.va i + e.bytes) ||
      (match s.lookLane q j with
       | .here a => (e.peerOf i).isNone && e.paOf i < a + q.bytes && a < e.paOf i + e.bytes
       | .peer d a => e.peerOf i == some d && e.paOf i < a + q.bytes && a < e.paOf i + e.bytes
       | _ => false)

/-- A page of the request is in the operand log for the same group (R192), or an atomic or a peer access that comes
before it at one of its words has not been performed (R196, 05 R122). -/
def State.pageHeld (s : State) (q : MemReq) : Bool :=
  ((s.logOf q.party).any fun e => (lanesOf q.lanes).any fun j => (q.places j).any fun a => e.pages.contains (a.1 / 8192)) ||
    ((s.atomsOf q.party).any fun e => s.comesBefore q.party q.lane e && s.overlaps e q)

/-- A page of one of the addresses is in the operand log for the party (R192), or a sector of one of them belongs to an
atomic or peer access of the party that has not been performed (R196). -/
def State.pagesHeld (s : State) (p : Party) (vas : List Nat) : Bool :=
  ((s.logOf p).any fun e => vas.any fun a => e.pages.contains (a / 8192)) ||
    ((s.atomsOf p).any fun e => (lanesOf e.lanes).any fun i => vas.any fun a => e.va i / 64 == a / 64)

/-- An earlier acquire has not completed (R198, R342): one of the same side, for the lane side also a scalar one that
precedes the running block's LRUN (05 R122 item 2), the loop of a TLDA (15 R348), or one that waits for the invalidation log
(07 R190). -/
def State.acqPending (s : State) (p : Party) (lane : Bool) : Bool :=
  (s.logOf p).any (fun e => s.comesBefore p lane e.req && e.req.acq.isSome) || (s.atomsOf p).any (fun q => s.comesBefore p lane q && q.acq.isSome) ||
    s.probes.any (fun e => e.2.party == p && s.comesBefore p lane e.2) || (s.grp p).tiles.any (fun t => s.comesBefore p lane t.q) || (s.die (s.dieOf p)).invlog.any (fun x => x.seq < (s.grp p).invalTill)

/-- Every earlier access of the group has been performed at the scope (R198, R192, R204, R342, Table 7-4). -/
def State.released (s : State) (p : Party) (scope : Nat) : Bool :=
  let c := s.core (s.coreOf p)
  (s.logOf p).isEmpty && (s.atomsOf p).isEmpty && (s.grp p).tiles.isEmpty &&
    !(c.seq.any fun q => q.team == p.teamOf && q.gid == p.gidOf && !p.isStream && (match q.kind with | .mout _ => true | _ => false)) &&
    (scope == 0 || c.cbuf.isEmpty) && (scope != 3 || (s.postedOf p).isEmpty)

/-- Sectors a store would newly take in the coalescing buffer fit (R170). -/
def State.roomFor (s : State) (core : Nat) (pasid : BitVec 20) (secs : List Nat) : Bool :=
  let c := s.core core
  let new := secs.dedup.filter fun v => !(c.cbuf.any fun e => e.pasid == pasid && e.va == v)
  new.isEmpty || new.length + c.cbuf.length ≤ Config.cbufEntries || !(core < Config.coreCount)

/-! ### Loads -/

/-- A word extended by its width code (R343). -/
def extendW (width : BitVec 3) (v : Nat) : Word :=
  match width.toNat with
  | 0 => (BitVec.ofNat 8 v).signExtend 32
  | 1 => (BitVec.ofNat 8 v).setWidth 32
  | 2 => (BitVec.ofNat 16 v).signExtend 32
  | 3 => (BitVec.ofNat 16 v).setWidth 32
  | _ => BitVec.ofNat 32 v

/-- The words a lane load gives from a sector's bytes and bounds at an offset (R343). -/
def loadWords (width : BitVec 3) (sec : Sector × Vector Bound 16) (off : Nat) : List LaneVal :=
  (List.range (widthRegs width)).map fun j =>
    ⟨extendW width (fieldN sec.1 (8 * (off + 4 * j)) (8 * min 4 (widthBytes width))), (sec.2[(off + 4 * j) / 4]?).getD 0⟩

/-- The words of a request's results, with those of some lanes replaced. -/
def putWords (old : List (Vector LaneVal 32)) (lanes : Mask) (f : Nat → List LaneVal) : List (Vector LaneVal 32) :=
  old.zipIdx.map fun (v, j) => Vector.ofFn fun i => if lanes.getLsbD i.val then ((f i.val)[j]?).getD LaneVal.zero else v[i]

/-- The address lies in the save area of the party's context, which is enabled: no software reads or writes it (05 R128, 11 R264). -/
def State.inSave (s : State) (p : Party) (va : Nat) : Bool :=
  let c := s.ctx (s.ctxOf p)
  c.state != 0 && c.save.toNat ≤ va && va < c.save.toNat + 2 ^ 33

/-- Unpredictable words, with bound ∞ (00 R7): free values from a number. -/
def freeSector (n : Nat) : Sector × Vector Bound 16 :=
  (BitVec.ofNat 512 ((List.range 16).foldr (fun i a => (Config.freeWord (n + i)).toNat + 2 ^ 32 * a) 0), Vector.replicate 16 bInf)

/-- What an atomic finds in the save area of an enabled context is unpredictable, with bound ∞, and no check is made on it (05 R128, 00 R7). -/
def Outst.hideSave (o : Outst) (hidden : Mask) (n : Nat) : Outst :=
  if hidden = 0 then o
  else { o with free := o.free ||| hidden, sval := Config.freeWord n ++ Config.freeWord (n + 1),
                words := putWords o.words hidden fun i => [⟨Config.freeWord (n + 2 + i), bInf⟩] }

/-- A lane's sector as the core reads it, and the poisoned sector it consumes if any (R170, R81); in the save area it is unpredictable (05 R128). -/
def State.seeSector (s : State) (q : MemReq) (i : Nat) : (Sector × Vector Bound 16) × Option Nat :=
  let core := s.coreOf q.party
  let va := q.va i / 64
  if s.inSave q.party (q.va i) then (freeSector (s.fresh + 16 * i), none)
  else
    let covered := match s.buffered core q.party va with
      | some e => fieldN e.store.mask (q.va i % 64) q.bytes == 2 ^ q.bytes - 1
      | none => false
    if s.loadHits q i then (s.viewSector core q.party va (q.paOf i / 64), none)
    else (s.overBuffer core q.party va (s.homeLoad (q.paOf i / 64)),
      if !covered && s.poison.contains (q.paOf i / 64) then some (q.paOf i) else none)

/-- The lanes of a request in the save area of the party's context: what they read is unpredictable (05 R128). -/
def State.saveLanes (s : State) (q : MemReq) (lanes : Mask) : Mask := maskOf fun i => lanes.getLsbD i && s.inSave q.party (q.va i)

/-- The request is an instruction's of a trap handler, or a trap block's (R258). -/
def State.inHandler (s : State) (q : MemReq) : Bool :=
  if q.lane then (match (s.grp q.party).block with | some b => b.entry.trap | none => false) else (s.grp q.party).inh

/-- The result record of a request with no value yet. -/
def outstOf (s : State) (q : MemReq) (dest : Dest) (origin : Origin) (check : Option (DWord × Word)) : Outst :=
  { id := q.id, dest := dest, lane := q.lane, lanes := q.lanes, sval := 0, sval2 := 0,
    words := List.replicate (match q.kind with | .load => widthRegs q.width | _ => 1) (Vector.replicate 32 LaneVal.zero),
    check := check, inh := s.inHandler q, origin := origin, pc := (s.grp q.party).pc, poison := none, rmt := none,
    fault := none, pred := none, free := 0 }

/-- A result record changed. -/
def Group.updOutst (g : Group) (id : Nat) (f : Outst → Outst) : Group :=
  { g with outst := g.outst.map fun o => if o.id = id then f o else o }

/-- The value of a load in some lanes given to its result record. -/
def State.giveLoad (s : State) (q : MemReq) (lanes : Mask) (see : Nat → (Sector × Vector Bound 16) × Option Nat) : State :=
  s.updGrp q.party fun g => g.updOutst q.id fun o =>
    let p := (lanesOf lanes).findSome? fun i => (see i).2
    { o with
      words := if q.lane then putWords o.words lanes (fun i => loadWords q.width (see i).1 (q.va i % 64)) else o.words
      free := o.free ||| s.saveLanes q lanes
      sval := if q.lane then o.sval else BitVec.ofNat 64 (fieldN (see 0).1.1 (8 * (q.va 0 % 64)) (8 * q.bytes))
      poison := match o.poison with | some a => some a | none => p }

/-- Lanes of a load that translate are performed: the values, then the fills (R169, R343). -/
def State.doLoad (s : State) (q : MemReq) (lanes : Mask) : State :=
  let core := s.coreOf q.party
  let q := s.placed q
  let s' := s.giveLoad q lanes (fun i => s.seeSector q i)
  let s' := if s.saveLanes q lanes ≠ 0 then s'.bumpBy 512 else s'
  (lanesOf lanes).foldl (fun s i =>
    if s.loadHits q i then s
    else
      let s := (s.fillFor core (s.pasidOf q.party) (q.va i) false).haulSector q.party core (q.paOf i)
      if q.hint = 2 ∨ s.poison.contains (q.paOf i / 64) ∨ s.inSave q.party (q.va i) then s
      else s.fillL1 core q.party (q.va i / 64) (q.paOf i / 64) q.hint) s'

/-! ### Requests to peers -/

/-- The lane of an atomic whose turn it is in a peer's sector: the lowest, since one request at a time goes to a sector (R40, R341). -/
def MemReq.turnAt (q : MemReq) (p : BitVec 12) (pa : Nat) : Nat :=
  ((lanesOf q.lanes).find? fun i => q.peerOf i == some p && q.paOf i / 64 == pa / 64).getD 0

/-- First and second operand of an atomic's lane. -/
def MemReq.operand (q : MemReq) (k i : Nat) : LaneVal := ((q.data[k]?).bind fun v => v[i]?).getD LaneVal.zero

/-- The word that a lane's atomic leaves where it finds `old` (15 R345, R346; 10 R236). -/
def MemReq.after (q : MemReq) (op : Nat) (old : LaneVal) (i : Nat) : LaneVal :=
  let x := q.operand 0 i
  let y := q.operand 1 i
  let r := atom32 op old.val x.val y.val old.bnd x.bnd y.bnd
  ⟨r.1, r.2.1⟩

/-- The lanes that one request of an atomic to a peer's sector performs: all that name the address of the lane whose turn it
is, so that no other access comes between them (R341, R346). -/
def MemReq.turnLanes (q : MemReq) (p : BitVec 12) (pa : Nat) : List Nat :=
  (lanesOf q.lanes).filter fun j => q.peerOf j == some p && q.paOf j == q.paOf (q.turnAt p pa)

/-- The request that a load or atomic sends to a peer's sector: an atomic's carries its function, and the operands and bounds
of its lanes (02 Table 2-3, 10 R236). -/
def State.reqOf (s : State) (q : MemReq) (p : BitVec 12) (pa : Nat) : TSent :=
  let i := q.turnAt p pa
  let t := { TSent.make opRead (pa / 64 * 64) q.id (s.coreOf q.party) q.party with ord := q.ord, va := q.va i }
  match q.kind with
  | .atomic op _ | .agg op =>
    if q.lane then
      let of (j : Nat) : Word × Word × Bound :=
        ((q.operand 0 j).val, (q.operand 1 j).val, if op = 9 then (q.operand 1 j).bnd else (q.operand 0 j).bnd)
      let x := q.operand 0 i
      let y := q.operand 1 i
      { t with op := opLaneAtomic, fn := op, pa := q.paOf i,
               opnd := BitVec.ofNat 304 (x.val.toNat + y.val.toNat * 2 ^ 64 + x.bnd.toNat * 2 ^ 128 + y.bnd.toNat * 2 ^ 144),
               many := if (q.turnLanes p pa).length ≤ 1 then [] else (q.turnLanes p pa).map of }
    else { t with op := opAtomic, fn := op, pa := q.paOf i, opnd := q.x.setWidth 304 ||| (q.y.setWidth 304 <<< 64) }
  | _ => t

/-- The sectors of peers that a request still needs, each with a request not yet sent (02 R40). What the core has buffered
for a sector goes first, and the request follows its response (R170, R196); an atomic takes the sector from L1 (R171). -/
def State.pump (s : State) (q : MemReq) : State :=
  (lanesOf q.lanes).foldl (fun s i =>
    match q.peerOf i with
    | none => s
    | some p =>
      let core := s.coreOf q.party
      if s.peerBusy p (q.paOf i) then s
      else
        match (s.core core).cbuf.find? (fun e => e.peer == some p && e.pa == q.paOf i / 64) with
        | some e => s.drainEntry core e
        | none =>
          let s := if q.isLoad then s
            else s.updCore core fun c => { c with l1 := c.l1.filter fun l => !(l.va == q.va i / 64 && (s.ctx l.ctx).pasid == s.pasidOf q.party) }
          (s.sendReq p (s.reqOf q p (q.paOf i))).haul q.party core 6 64) s

/-- The requests that wait for a sector of a peer sent, where they can be (02 R40). -/
def State.pumpPeer (s : State) (p : BitVec 12) : State :=
  (s.atoms.filter fun q => (lanesOf q.lanes).any fun i => q.peerOf i == some p).foldl (fun s q => s.pump q) s

/-- Lanes in peers' memory: those of lost peers fail (R48), the others are sent (R38). -/
def State.doPeer (s : State) (q : MemReq) (lanes : Mask) : State :=
  if lanes = 0 then s
  else
    let q := s.placed q
    let lost := maskOf fun i => lanes.getLsbD i && (match q.peerOf i with | some p => s.peerLost p | none => false)
    let s := if lost = 0 then s else s.updGrp q.party fun g => g.updOutst q.id fun o =>
      { o with rmt := some (match q.peerOf (lowestLane lost) with | some p => rmtLost p | none => 0, lost) }
    let q := { q with lanes := lanes &&& ~~~lost }
    if q.lanes = 0 then s else ({ s with atoms := s.atoms ++ [q] }).pump q

/-! ### Stores -/

/-- A register's words at a lane: the data of a lane store. -/
def MemReq.laneData (q : MemReq) (i : Nat) : List LaneVal := q.data.map fun v => (v[i]?).getD LaneVal.zero

/-- The store of one lane to its sector (R301, R344). -/
def MemReq.storeOf (q : MemReq) (i : Nat) : SecStore :=
  let off := q.va i % 64
  if q.lane then
    if q.bytes < 4 then
      let x := ((q.laneData i).head?).getD LaneVal.zero
      secStore off q.bytes x.val.toNat x.bnd
    else secWords off (q.laneData i)
  else secStore off q.bytes q.x.toNat 0

/-- Stores of some lanes entered into the coalescing buffer, in ascending slot order (R170, R341). -/
def State.doStore (s : State) (q : MemReq) (lanes : Mask) : State :=
  let core := s.coreOf q.party
  let q := s.placed q
  (lanesOf lanes).foldl (fun s i =>
    (s.fillFor core (s.pasidOf q.party) (q.va i) true).putStore core q.party (q.va i / 64) (q.paOf i / 64) (q.peerOf i) (q.storeOf i)) s

/-! ### Issue -/

/-- What issuing a request does. -/
inductive Issued where
  /-- it waits -/
  | wait
  /-- it traps: cause, information and lanes -/
  | trap (cause : Nat) (info : DWord) (lanes : Mask)
  /-- it has issued -/
  | go (s : State)

/-- The untranslated lanes of a request taken into the operand log, and their pages asked for (R191). -/
def State.logLanes (s : State) (q : MemReq) (lanes : Mask) (origin : Origin) : State :=
  if lanes = 0 then s
  else
    let core := s.coreOf q.party
    let s := (lanesOf lanes).foldl (fun s i =>
      match s.laneNeeds q i with | some (va, write) => s.askEngine (dieOfCore core) (s.pasidOf q.party) va write | none => s) s
    s.updCore core fun c => { c with olog := c.olog ++ [⟨{ q with lanes := lanes }, 0, origin, (s.grp q.party).pc, s.inHandler q⟩] }

/-- The operand log of a core has no free entry (R191). -/
def State.logFull (s : State) (core : Nat) : Bool := Config.ologEntries ≤ (s.core core).olog.length

/-- The lanes of a request that need no operand-log entry performed or sent to their homes. -/
def State.doLanes (s : State) (q : MemReq) : State :=
  let here := s.hereLanes q
  let peer := s.peerLanes q
  match q.kind with
  | .load => (s.doPeer q peer).doLoad q here
  | .store => s.doStore q (here ||| peer)
  | _ =>
    let s := if here = 0 then s else { s with atoms := s.atoms ++ [{ s.placed q with lanes := here }] }
    s.doPeer q peer

/-- A result is pending while some part of its request is in the log, on its way, behind a probe, with a message, a walk or a loop
whose pages are there. -/
def State.pendingId (s : State) (p : Party) (id : Nat) : Bool :=
  (s.logOf p).any (fun e => e.req.id == id && e.req.lanes != 0) || (s.atomsOf p).any (fun q => q.id == id) || s.probes.any (fun e => e.2.id == id && e.2.party == p) ||
    s.msgs.any (·.id == id) || s.dies.any (fun e => e.2.walks.any (·.id == id)) ||
    ((s.grp p).tiles.any (·.q.id == id) && !(s.logOf p).any fun e => e.req.id == id && e.refused != 0)

/-- The acquire part of a request acts once, when the last of its lanes is performed (R171, R198, R342). -/
def State.acqDone (s : State) (q : MemReq) : State :=
  match q.acq with
  | some sc => if s.pendingId q.party q.id then s else s.acquireAt q.party sc.toNat
  | none => s

/-- Scope and order code of a request (Table 2-3 `ord`; 12 R277): 0 relaxed, 1 acquire, 2 release, 3 both. -/
def ordCode (rel : Option Nat) (acq : Option (BitVec 2)) : BitVec 8 :=
  let scope := match rel, acq with | some r, _ => r | none, some a => a.toNat | none, none => 0
  BitVec.ofNat 8 (scope % 4 + 4 * (acq.isSome.toNat + 2 * rel.isSome.toNat))

/-- A global request issues (R191, R192, R198): `rel` is the scope of its release part, `dest` where its result goes. -/
def State.issue (s : State) (q : MemReq) (rel : Option Nat) (dest : Dest) (origin : Origin) (check : Option (DWord × Word)) : Issued :=
  let core := s.coreOf q.party
  match s.addrFault q with
  | some (c, i, m) => .trap c i m
  | none =>
    let miss := s.missLanes q
    let secs := if q.isStore then (lanesOf (q.lanes &&& ~~~miss)).map (fun i => q.va i / 64) else []
    if s.pageHeld q || s.acqPending q.party q.lane || (match rel with | some sc => !s.released q.party sc | none => false) ||
        (miss != 0 && s.logFull core) || !s.roomFor core (s.pasidOf q.party) secs then .wait
    else
      let q := { q with id := s.handles + 4, ord := ordCode rel q.acq }
      let s := { s with handles := s.handles + 1 }
      let s := if q.isStore && miss == 0 then s else s.updGrp q.party fun g => { g with outst := g.outst ++ [outstOf s q dest origin check] }
      .go (((s.doLanes q).logLanes q miss origin).acqDone q)

/-- What a request's lanes move between the core and the cores whose scratch they name, over the seams (R168, 04 R97). -/
def State.haulWindow (s : State) (q : MemReq) : State :=
  (lanesOf q.lanes).foldl (fun s i =>
    match s.scratchTarget q.party.teamOf (q.va i) with
    | some (h, _) => s.haulCores q.party (s.coreOf q.party) (s.team h).core q.bytes
    | none => s) s

/-- A request without contents, for a party at its scalar or lane side. -/
def MemReq.blank (p : Party) (lane : Bool) : MemReq :=
  { id := 0, party := p, kind := .load, lane := lane, width := 4, bytes := 4, lanes := 1, addr := Vector.replicate 32 0,
    pa := Vector.replicate 32 0, peer := Vector.replicate 32 none, data := [], x := 0, y := 0, hint := 0, acq := none, ord := 0, ops := [] }

/-- A scalar request: lane 0 alone. -/
def scalarReq (p : Party) (kind : MemKind) (bytes : Nat) (ea : DWord) : MemReq :=
  { MemReq.blank p false with kind := kind, bytes := bytes, addr := Vector.replicate 32 ea }

/-- A result that is there at once but reaches its register later: scratch reads (R302, R343). -/
def State.late (s : State) (q : MemReq) (dest : Dest) (origin : Origin) (check : Option (DWord × Word)) (f : Outst → Outst) : State :=
  let q := { q with id := s.handles + 4 }
  let s := { s with handles := s.handles + 1 }
  s.updGrp q.party fun g => { g with outst := g.outst ++ [f (outstOf s q dest origin check)] }

/-- The destination of a result made empty (R115, R116). -/
def Group.emptyDest (g : Group) (d : Dest) (n : Nat) : Group :=
  match d with
  | .none => g
  | .sreg r => g.sempty r .pending
  | .spair r => (g.sempty r .pending).sempty (blockReg r 1) .pending
  | .vec b => (List.range n).foldl (fun g j => g.setV (b + j) { g.vreg (b + j) with full := false }) g
  | .laneS _ => g

/-- A page the host refused to the party at this address (R292, R306). -/
def State.codeRefused (s : State) (p : Party) (va : Nat) : Bool :=
  match (s.grp p).refused with | some a => a / 8192 == va / 8192 | none => false

/-- A page of the list that has no translation, and whether the host refused it. -/
def State.lacks (s : State) (p : Party) (write : Bool) (vas : List Nat) : Option (Nat × Bool) :=
  (vas.find? fun a => match s.lookAt p a write with | .miss => true | _ => false).map fun a => (a, s.codeRefused p a)

end Sys2Proof.Machine
end

