-- ==== Sys2Proof/Machine/Start.lean ====
section
/-! DEFINITION. Kills (03 R54, 04 R87, R89) and starts (03 R74-R78, R412): what ends all work, the states of Table 3-11, and what
a start leaves. -/

namespace Sys2Proof.Machine

/-! ### Kills -/

/-- Every team of a grid has ended, and none is left to start. -/
def State.gridRan (s : State) (gh : Nat) : Bool :=
  let g := s.grid gh
  g.refused || (g.handed && g.ranges.isEmpty && (s.teamsOf gh).isEmpty)

/-- A kill of a grid (R89): no effect once every team has ended. -/
def State.killGrid (s : State) (gh : Nat) : State :=
  let g := s.grid gh
  if g.closed || s.gridRan gh then s
  else
    let s := (s.teamsOf gh).foldl (fun s h => s.releaseTeam h) s
    ({ s with deptab := s.deptab.filter (·.grid != gh) }).setGrid gh { s.grid gh with fate := .killed, incomplete := true, ranges := [], unmet := [], handed := true }

/-- A control stream is killed (R58), unless it has ended. -/
def State.killStream (s : State) (k : Nat) : State :=
  match (s.grp (.stream k)).wait with
  | .ending _ _ => s
  | _ => s.endStream k 2 0

/-- Every grid and every stream of the device ends killed (R75, R87). -/
def State.killGrids (s : State) : State := (s.grids.map (·.1)).foldl (fun s h => s.killGrid h) s
def State.killAll (s : State) : State := (s.streams.map (·.1)).foldl (fun s k => s.killStream k) s.killGrids

/-- Some grid or stream has not written its status. -/
def State.unfinished (s : State) : Bool := !s.streams.isEmpty || s.grids.any fun e => !e.2.closed

/-! ### Slices (01 R22-R25) -/

/-- The slice is redirected. -/
def State.retiredSlice (s : State) (n : Nat) : Bool := (s.sltOf n).getLsbD 7

/-- The slice serves a retired channel besides its own. -/
def State.servesOther (s : State) (n : Nat) : Bool :=
  (List.range 32).any fun c => let m := n - n % 32 + c; m != n && s.retiredSlice m && fieldN (s.sltOf m) 0 5 == n % 32

/-- The nearest in-service slice above, wrapping, that serves no other channel (R23). -/
def State.servingSlice (s : State) (n : Nat) : Option Nat :=
  ((List.range 31).map fun k => n - n % 32 + (n % 32 + 1 + k) % 32).find? fun m => !s.retiredSlice m && !s.servesOther m

/-- A slice's channel redirected to another, as the security core records (R22, R25). -/
def State.redirect (s : State) (n m : Nat) : State :=
  { s with mp := { s.mp with slt := KMap.set (BitVec.ofNat 8 (n % 32)) s.mp.slt n (BitVec.ofNat 8 (0x80 + m % 32)), retired := s.mp.retired ++ [n] } }

/-- The slices that a cold start's built-in test takes out of service, redirected where one can serve them (R23, R25). -/
def State.testSlices (s : State) : State :=
  (s.env.sliceBad.filter fun n => s.dev.stackMap.getLsbD (n / 32)).foldl (fun s n =>
    if s.retiredSlice n then s else match s.servingSlice n with | some m => s.redirect n m | none => s) s

/-! ### Firmware and measurements (R68, R70) -/

/-- The image that a start runs: of the two slots, primary first, the first that verifies and is not below the fused minimum (R68). -/
def pickImage (slots : Vector FwImage 2) (minSvn : BitVec 8) : Option FwImage := slots.toList.find? fun i => i.good && decide (minSvn.toNat ≤ i.svn.toNat)

/-- The fused minimum after a start that has succeeded (R68): each image with its raise-minimum flag raises it to its own version. -/
def raisedMin (minSvn : BitVec 8) (l : List FwImage) : BitVec 8 := l.foldl (fun m i => if i.raise && m.ult i.svn then i.svn else m) minSvn

/-- A measurement slot extended with the digest of contents (R70). -/
def Dev.extend (d : Dev) (slot : Fin 8) (contents : List Nat) : Dev := { d with meas := d.meas.set slot (d.meas.get slot ++ [digestOf slot.val contents]) }

/-! ### Starts -/

/-- A start is running (R52). -/
def Dev.starting (d : Dev) : Bool := 1 ≤ d.state.toNat && d.state.toNat ≤ 6

/-- The two dies that a horizontal seam joins (01 R11). -/
def seamDies (i : Nat) : Nat × Nat :=
  match i with
  | 0 => (0, 1)
  | 1 => (1, 2)
  | 2 => (3, 4)
  | _ => (4, 5)

/-- Stacks of the live dies among a mask of stks (R26). -/
def stacksOf (live : BitVec 6) (m : BitVec 18) : List Nat := (List.range 18).filter fun n => m.getLsbD n && live.getLsbD (n / 3)

/-- The features offered (R62): straddled clusters with a seam between live dies, multicast with a trained port. -/
def offerOf (e : Env) (live : BitVec 6) (ports : Bool) : BitVec 12 :=
  let seam := (List.range 4).any fun i => e.seamOk.getLsbD i && live.getLsbD (seamDies i).1 && live.getLsbD (seamDies i).2
  e.implemented &&& (if seam then 0xFFF else ~~~(32#12)) &&& (if ports then 0xFFF else ~~~(1024#12))

/-- The placement tables that a start builds (Table 3-11 step 5): a warm one reapplies the slice retirements (R25). -/
def State.startPlace (s : State) (cold : Bool) : Place3 :=
  Place3.build (stacksOf s.dev.dmap s.dev.stackMap) s.dev.mdcfg.toNat (if cold then [] else s.mp.slt) (if cold then [] else s.mp.retired)

/-- Step 7 (R75): a warm start writes the dirty lines of the hub cache back; a cold one loses them, but for those that the
cache had written back before, a free choice. -/
def State.hubLines (s : State) (cold : Bool) : State :=
  let lost := s.hubCache.zipIdx.filter fun e => cold && (Config.freeWord (s.fresh + e.2)).getLsbD 0
  { s with mem := lost.foldl (fun m e => writeBytes m (64 * e.1.1) (bytesOfSector e.1.2)) s.mem, hubCache := [], fresh := s.fresh + s.hubCache.length }

/-- The state that a start leaves when it reaches state 7 (R75, R76, Table 3-11). `serr` keeps its value, and the starts that
count are those that reach state 7: DESIGN CHOICE (log 45). -/
def State.started (s : State) (cold : Bool) : State :=
  let s := s.hubLines cold
  let d := s.dev
  let e := s.env
  let live := d.dmap
  let stks := stacksOf live d.stackMap
  let ports := Vector.ofFn fun i : Fin 12 => if cold then { Port.reset with trained := e.tirsolOk.getLsbD i.val } else s.ports[i]
  let offer := offerOf e live (ports.toList.any (·.trained))
  let hostPort : Fin 4 := if cold then ((List.finRange 4).find? fun i => e.cxlHost.getLsbD i.val).getD 0 else d.hostPort
  let t := { State.reset with
    time := s.time, moment := s.moment, exchanged := s.exchanged, fresh := s.fresh, agenda := s.agenda, turn := s.turn, plan := s.plan, who := s.who, lslot := s.lslot, hostq := s.hostq, env := e
    handles := s.handles
    dev := { (d.extend 5 [offer.toNat]) with
      state := 7, stackMap := BitVec.ofNat 18 (stks.foldl (fun a n => a + 2 ^ n) 0), wfail := 0, cfail := 0
      offer := offer, acceptLo := 0, acceptHi := 0, accepted := 0, mdcfgEff := d.mdcfg, mdrgn := Vector.replicate 16 0
      erqBase := 0, erqSize := 0, erqHead := 0, erqTail := 0, erqSet := false
      attNonce := Vector.replicate 8 0, attAddr := 0, attReq := false, mbox := Vector.replicate 8 0, mboxExt := false
      fwData := Vector.replicate 32 0, fwReq := false, fwRsp := 0, minSvn := raisedMin d.minSvn [d.trusted, d.untrusted], starts := d.starts + 1
      mgmtRestart := false, stopped := false, startReq := none, hostPort := hostPort
      cxlUp := if cold then e.cxlPool ||| BitVec.ofNat 4 (2 ^ hostPort.val) else d.cxlUp
      devNum := none, threshold := 64, linkLost := 0, dropped := 0, invalDone := [], invalWait := [] }
    mp := s.startPlace cold
    seams := Vector.ofFn fun i : Fin 10 =>
      { Seam.reset with up := if h : i.val < 6 then live.getLsbD i.val
                              else e.seamOk.getLsbD (i.val - 6) && live.getLsbD (seamDies (i.val - 6)).1 && live.getLsbD (seamDies (i.val - 6)).2 }
    ports := ports
    mem := s.mem.filter fun c => s.isHost c.1
    poison := s.poison.filter fun n => s.isHost (64 * n)
    iomem := s.iomem }
  if cold then t.testSlices else t

/-- The start has failed: state 9 (R77). -/
def State.startFailed (s : State) : State := { s with dev := { s.dev with state := 9, startReq := none } }

/-- The dies excluded and the stacks dropped are reported (Table 3-13). -/
def State.reportLost (s : State) (dies stks : List Nat) : State :=
  let s := dies.foldl (fun s d => s.report 9 1 1 (locOf d 0 0 0 0 0) 0 1 0xFFFF 0) s
  stks.foldl (fun s n => s.report 9 1 1 (locOf (n / 3) (n % 3) 0 0 n 0) 0 1 0xFFFF 0) s

/-- A start enters state 1 (Table 3-11): the cycle count, the record numbers and the drop count begin again, and the error
ring is unset (R76, R79, R80); records that still lay in the start buffer go, DESIGN CHOICE (log 45). The measurement slots are
cleared (R70). A cold start readmits the dies that the last write of `dev.ctl` named (R77). -/
def State.beginStart (s : State) (cold again : Bool) : State :=
  let d := s.dev
  { s with time := 0, dev := { d with
      state := 1, startReq := some (cold, again), recSeq := 0, stepOne := s.moment, startBuf := [], erdrop := 0, erqSet := false, meas := Vector.replicate 8 []
      excluded := if cold then d.excluded &&& ~~~d.readmit else d.excluded } }

/-- A warm start has failed: it is repeated, after the third time as a cold start (R78). -/
def State.warmFailed (s : State) : State :=
  if s.dev.wfail < 2 then ({ s with dev := { s.dev with wfail := s.dev.wfail + 1 } }).beginStart false true else s.beginStart true false

/-- Step 3, the built-in test (R77, R78), after which a die has reported no fatal error since the last test (Table 3-11): a die
that fails it for the first time has the cold start repeated, for the second time it is excluded; a warm start that fails it is repeated. -/
def State.builtInTest (s : State) (cold again : Bool) : State :=
  let s := { s with dev := { s.dev with dieErr := 0 } }
  let d := s.dev
  let bad := ~~~s.env.dieOk &&& (if cold then ~~~d.excluded else d.dmap)
  if !s.env.hubOk then s.startFailed
  else if bad = 0 then { s with dev := { d with state := 4, dmap := if cold then ~~~d.excluded else d.dmap } }
  else if !cold then s.warmFailed
  else if !again || bad &&& ~~~d.cfail ≠ 0 then ({ s with dev := { d with cfail := bad } }).beginStart true true
  else
    let excluded := d.excluded ||| bad
    if ~~~excluded = 0 then ({ s with dev := { d with excluded := excluded } }).startFailed
    else ({ s with dev := { d with state := 4, excluded := excluded, dmap := ~~~excluded } }).reportLost ((List.range 6).filter fun n => bad.getLsbD n) []

/-- Step 4, the training of the stacks (R77): one that fails is dropped. A cold start trains the stacks of every live die; those of
the others are not live (R26). -/
def State.trainStacks (s : State) (cold : Bool) : State :=
  let d := s.dev
  let tried := if cold then 0x3FFFF else d.stackMap
  let lost := (List.range 18).filter fun n => d.dmap.getLsbD (n / 3) && tried.getLsbD n && !s.env.stackOk.getLsbD n
  ({ s with dev := { d with state := 5, stackMap := BitVec.ofNat 18 ((stacksOf d.dmap (tried &&& s.env.stackOk)).foldl (fun a n => a + 2 ^ n) 0) } }).reportLost [] lost

/-- Step 1 (R68): the ROM verifies a trusted image. -/
def State.verifyTrusted (s : State) : State :=
  match pickImage s.env.fw s.dev.minSvn with
  | some i => { s with dev := { s.dev with state := 2, trusted := i } }
  | none => s.startFailed

/-- Step 2 (R69, Table 3-11): slots 0 and 1 extended, and the attestation key derived and certified. -/
def State.deriveKeys (s : State) (next : BitVec 4) : State :=
  let d := (s.dev.extend 0 [s.dev.trusted.image]).extend 1 (fuseContents s.dev.minSvn s.dev.debugEnables)
  let key := attestKey d.secret d.meas[0]
  { s with dev := { d with state := next, attKey := key, attCert := attestCert d.idKey key } }

/-- Steps 5 and 6 (R68, R77, Table 3-11): slot 4 extended, and the untrusted firmware verified in the same way as the trusted,
failing the start where neither slot verifies (log 8), and extended into slots 2 and 3. A cold start needs a host port (R31). -/
def State.startFirmware (s : State) (cold : Bool) : State :=
  let d := s.dev
  if cold ∧ s.env.cxlHost = 0 ∨ stacksOf d.dmap d.stackMap = [] then s.startFailed
  else
    match pickImage s.env.ufw d.minSvn with
    | none => s.startFailed
    | some i =>
      let d := d.extend 4 (placeContents d.dmap d.stackMap d.mdcfg (s.startPlace cold).bkt)
      { s with dev := { (d.extend 2 [i.image]).extend 3 [d.starts.toNat] with state := 6, untrusted := i } }

/-- One state of a start (Table 3-11, R75, R77). -/
def State.startStep (s : State) : State :=
  let d := s.dev
  match d.startReq with
  | none => s
  | some (cold, again) =>
    if d.state = 1 then s.verifyTrusted
    else if d.state = 2 then s.deriveKeys (if cold || d.dieErr != 0 then 3 else if s.env.drifted then 4 else 5)
    else if d.state = 3 then
      let t := s.builtInTest cold again
      if t.dev.state = 4 ∧ !cold ∧ !s.env.drifted then { t with dev := { t.dev with state := 5 } } else t
    else if d.state = 4 then s.trainStacks cold
    else if d.state = 5 then s.startFirmware cold
    else s.started cold

/-- A start that was asked for begins once every grid and every stream has ended (R75); a hub seam or the host port that was
lost meanwhile makes it a cold one (R74). -/
def State.tryStart (s : State) : State :=
  match s.dev.startReq with
  | none => s
  | some (cold, _) => if s.dev.starting || s.unfinished then s else s.beginStart (cold || s.dev.stopped) false

/-- A start request (R74): ignored during a start; every grid and stream ends killed before the steps (R75). -/
def State.requestStart (s : State) (cold : Bool) : State :=
  let d := s.dev
  if d.starting || d.startReq.isSome then { s with dev := { d with serr := 3 } }
  else
    let s := s.killAll
    ({ s with dev := { s.dev with startReq := some (cold || d.stopped || d.state == 0 || d.state == 9, false) } }).tryStart

/-- A write of `dev.ctl` names the dies that the next cold start readmits (R77); one that is ignored during a start does not. -/
def State.nameReadmit (s : State) (v : DWord) : State :=
  if s.dev.starting || s.dev.startReq.isSome then s else { s with dev := { s.dev with readmit := v.extractLsb' 8 6 } }

/-- The start has not reached state 7 in time (R75, R78): a cold start has failed; a warm start is repeated. -/
def State.startTimedOut (s : State) : State :=
  match s.dev.startReq with
  | none => s
  | some (true, _) => s.startFailed
  | some (false, _) => s.warmFailed

end Sys2Proof.Machine
end

