-- ==== Sys2Proof/Machine/Issue.lean ====
section
/-! DEFINITION. Fetching code (13 R292, 16 R394, 11 R261), and which stream issues next: the model's own schedule of
one instruction or event a step (04 R103-R105; log 6). -/

namespace Sys2Proof.Machine

/-! ### Fetching one sector of code -/

/-- The result of fetching a sector of code. -/
inductive CodeFetch where
  | wait (s : State)
  | trap (s : State) (cause : Nat) (info : DWord)
  | got (s : State) (x : Sector)

/-- The instruction cache of a core that serves a side. -/
def Core.icOf (c : Core) (lane : Bool) : List CodeSector := if lane then c.icL else c.icS
/-- A sector put into an instruction cache, the oldest dropped: 32 KiB scalar, 96 KiB lane (07 R171). -/
def Core.icPut (c : Core) (lane : Bool) (x : CodeSector) : Core :=
  if lane then { c with icL := (x :: c.icL).take 1536 } else { c with icS := (x :: c.icS).take 512 }

/-- The virtual sector of a party that a peer's code sector answers: marked by id 0 in `TSent` (02 R38). -/
def codeId : Nat := 0

/-- A sector of code through the core's instruction cache, refilled from home (R188, R292, R394). -/
def State.fetchSector (s : State) (p : Party) (lane : Bool) (va : Nat) : CodeFetch :=
  let core := s.coreOf p
  let pasid := s.pasidOf p
  let sec := va / 64
  match ((s.core core).icOf lane).find? (fun x => x.pasid == pasid && x.va == sec) with
  | some x => .got s x.data
  | none =>
    match s.look core pasid (64 * sec) false with
    | .miss =>
      if s.codeRefused p va then .trap (s.updGrp p fun g => { g with refused := none }) cXlate (BitVec.ofNat 64 (va % 2 ^ 57))
      else .wait (s.askPage (dieOfCore core) pasid va false)
    | .bad => .trap s cAccess (BitVec.ofNat 64 (va % 2 ^ 57))
    | .peer d pa =>
      if s.peerLost d then .trap s cRmterr (rmtLost d)
      else if s.peerBusy d pa then .wait s
      else .wait (s.sendPeer d opRead pa codeId core p (va := 64 * sec) (lane := lane))
    | .here pa =>
      if s.poison.contains (pa / 64) then .trap s cMemerr (BitVec.ofNat 64 pa)
      else
        let x := readSector s.mem (pa / 64)
        .got (((s.fillFor core pasid va false).haulSector p core pa).updCore core fun c => c.icPut lane ⟨pasid, sec, x⟩) x

/-! ### Fetching an instruction -/

/-- The result of fetching an instruction. -/
inductive Fetch where
  | wait (s : State)
  | trap (s : State) (cause : Nat) (info : DWord)
  | word (s : State) (d : Decoded)

/-- The scalar instruction at the pc, through the scalar fetch buffer (R292, R394). A buffered sector over which ICINV ran is
used once more, up to the next jump back over what has been used of it, or not: a free choice. -/
def State.fetchScalar (s : State) (p : Party) : Fetch :=
  let pc := (s.grp p).pc.toNat
  let dec (x : Sector) : Decoded := decodeBytes false ((List.range 4).map fun i => x.byte (pc % 64 + i))
  let fetch (s : State) : Fetch :=
    match s.fetchSector p false pc with
    | .wait s => .wait s
    | .trap s c i => .trap s c i
    | .got s x => .word (s.updGrp p fun g => { g with sfetch := some (pc / 64, x, 0) }) (dec x)
  match (s.grp p).sfetch with
  | some (n, x, mark) =>
    if n ≠ pc / 64 then fetch s
    else if mark ≠ 1 then .word s (dec x)
    else if (Config.freeWord s.fresh).getLsbD 0 then .word (s.bump.updGrp p fun g => { g with sfetch := some (n, x, 2) }) (dec x)
    else fetch s.bump
  | none => fetch s

/-- A sector of lane code for a block: the block's own copy, the group's fetch buffer, or the cache (R394). A buffered
sector over which ICINV ran is used once more, or not: a free choice. -/
def State.fetchLaneSector (s : State) (p : Party) (va : Nat) : CodeFetch :=
  let g := s.grp p
  let sec := va / 64
  let refill (s : State) : CodeFetch :=
    match s.fetchSector p true va with
    | .got s x => .got (s.updGrp p fun g => { g with lfetch := ((sec, x, false) :: g.lfetch).take 4 }) x
    | r => r
  match g.lfetch.find? (fun e => e.1 == sec) with
  | some (_, x, false) => .got s x
  | some (_, x, true) =>
    let s' := (s.updGrp p fun g => { g with lfetch := g.lfetch.filter fun e => e.1 != sec }).bump
    if (Config.freeWord s.fresh).getLsbD 0 then .got s' x else refill s'
  | none => refill s

/-- The sectors that n bytes at an address touch. -/
def codeSectors (va n : Nat) : List Nat := (List.range ((va % 64 + n + 63) / 64)).map (va / 64 + ·)

/-- Where n bytes at an address begin in each sector that they touch. -/
def codePlaces (va n : Nat) : List Nat := (codeSectors va n).map fun sec => max va (64 * sec)

/-- The sectors of the running block's code that hold some addresses fetched into the block's entry. -/
def State.fetchBlock (s : State) (p : Party) : List Nat → CodeFetch
  | [] => .got s 0
  | va :: rest =>
    let sec := va / 64
    match (s.grp p).block with
    | none => .wait s
    | some b =>
      if b.entry.code.any (fun e => e.1 == sec) then s.fetchBlock p rest
      else
        match s.fetchLaneSector p va with
        | .got s x =>
          (s.updGrp p fun g => { g with block := g.block.map fun b =>
            { b with entry := { b.entry with code := KMap.ins b.entry.code sec x } } }).fetchBlock p rest
        | r => r

/-- The word n of a block asks for a pair with the next (R289). -/
def SpoolEntry.wantsPair (e : SpoolEntry) (n : Nat) : Bool :=
  match e.word? n with
  | some (.ok i) => (match laneRow i with | some (_, w) => w.pair && n + 1 < e.len | none => false)
  | _ => false

/-- The words before word n fetched for as long as each asks for a pair with the next: a jump may have reached the second
word of a pair (R289). -/
def State.fetchBack (s : State) (p : Party) : Nat → CodeFetch
  | 0 => .got s 0
  | n + 1 =>
    match (s.grp p).block with
    | none => .wait s
    | some b =>
      match s.fetchBlock p (codePlaces (b.entry.blk.toNat + 12 * n) 12) with
      | .got t _ => if (match (t.grp p).block with | some b => b.entry.wantsPair n | none => false) then t.fetchBack p n else .got t 0
      | .wait t => .wait t
      | .trap _ _ _ => .got s 0

/-- The lane word of the record in a split slot, with the words around it where it may be one of a pair (R289, R394). -/
def State.fetchLane (s : State) (p : Party) (slot : Nat) : Fetch :=
  match (s.grp p).block with
  | none => .wait s
  | some b =>
    match (b.posOf slot).bind b.rec? with
    | none => .wait s
    | some q =>
      let va := b.entry.blk.toNat + 12 * q.pc
      match s.fetchBlock p (codePlaces va 12) with
      | .wait s => .wait s
      | .trap s c i => .trap s c i
      | .got s _ =>
        let dec (s : State) : Decoded := decodeBytes true ((codeBytes ((s.grp p).block.map (·.entry.code)|>.getD []) va 12).getD [])
        let d := dec s
        if (match (s.grp p).block with | some b => b.entry.wantsPair q.pc | none => false) then
          match s.fetchBlock p (codePlaces (va + 12) 12) with
          | .wait s => .wait s
          | .trap _ _ _ => .word s d
          | .got t _ =>
            if !q.jumped then .word t d
            else
              match t.fetchBack p q.pc with
              | .wait s => .wait s
              | .got t _ | .trap t _ _ => .word t d
        else .word s d

/-! ### The checks of a SLEEPU wake (R185-R187) -/

/-- `c.cyc` of a party's core (00 R4). -/
def State.cyc (s : State) (p : Party) : DWord := BitVec.ofNat 64 s.time + (s.core (s.coreOf p)).cycOff

/-- Copies of a group queued on its core, oldest first. -/
def State.copiesOf (s : State) (p : Party) : List Copy :=
  (s.core (s.coreOf p)).copies.filter fun c => !p.isStream && c.team == p.teamOf && c.gid == p.gidOf

/-- A copy no longer pending (R364). -/
def State.dropCopy (s : State) (core id : Nat) : State := s.updCore core fun c => { c with copies := c.copies.filter (·.id != id) }

/-- Copies that a wake at a cycle covers (R186, R187). -/
def State.covered (s : State) (p : Party) (w : DWord) : List Copy := (s.copiesOf p).filter fun c => c.promise.ule w

/-- A wake is held while a copy within its promise is on its way: the promise bounds it (R185). -/
def State.wakeHeld (s : State) (p : Party) : Bool :=
  (s.covered p (s.cyc p)).any fun c => c.stopped.isNone && !c.unbound && !c.resumed

/-- The checks of a wake at cycle `w`, at the instruction after SLEEPU (R186, R187): one XLATE for each stopped copy, then MISSP.
Those that are left after a trap are made when its handler has ended. -/
def wakeChecks (w : DWord) (s : State) : Out :=
  match (s.covered s.who w).find? fun c => c.stopped.isSome with
  | some c =>
    let (cause, info) := c.stopped.getD (0, 0)
    .next ((s.dropCopy (s.coreOf s.who) c.id).scalarTrap s.who cause.toNat info s.cur.pc [])
  | none =>
    let s := s.updCur fun g => { g with wakeAt := none }
    match (s.covered s.who w).find? fun c => c.stopped.isNone && c.unbound && !c.resumed with
    | some c => .next (s.scalarTrap s.who cMissp c.promise s.cur.pc [])
    | none => .next (s.acquireAt s.who 0)

/-! ### The schedule -/

/-- What a step does: it runs an instruction or event in a state, or its outcome is known already. -/
inductive Todo where
  | run (i : Instr) (s : State)
  | out (o : Out)

/-- A group is part of a running team (04 R107); a stream always runs. -/
def State.runs (s : State) (p : Party) : Bool :=
  match p with
  | .group t g => (s.team t).life == .running && (s.grp (.group t g)).used && !(s.grp (.group t g)).ended
  | .stream k => s.streams.any (fun e => e.1 == k)

/-- The second word of a pair whose first has issued is still to issue: a split stops only after both (R255, R289). -/
def Group.pairOpen (g : Group) (slot : Nat) : Bool :=
  match g.block with
  | none => false
  | some b =>
    match (b.posOf slot).bind b.rec? with
    | none => false
    | some q =>
      let trapped (id word : Nat) : Bool := q.traps.contains id && q.pc == word
      q.second && !(g.laneTraps.any fun t => t.second && trapped t.id t.word) &&
        !(match g.trap with | some t => t.lane && t.second && trapped t.id t.word | none => false)

/-- The group's lane trap waits to be delivered at a scalar boundary (R255, R257). -/
def Group.trapDue (g : Group) : Bool := !g.laneTraps.isEmpty && !g.inh && g.rdv.isNone && !g.pairOpen 0 && !g.pairOpen 1
/-- OVFQ waits for a boundary outside a handler (R138, R258). -/
def Group.ovfqDue (g : Group) : Bool := !g.ovfq.isEmpty && !g.inh && g.rdv.isNone

/-- The scalar stream has something to do at a step. -/
def Group.scalarTurn (g : Group) : Bool :=
  g.trapDue || g.ovfqDue || (g.rdv.isNone && (match g.wait with | .none => true | .ending _ _ => true | .launch _ _ _ => true | _ => false))

/-- The lane side is stopped by a trap (R255, R259). -/
def Group.laneStopped (g : Group) : Bool :=
  !g.laneTraps.isEmpty || (g.inh && (match g.trap with | some t => t.lane | none => false))

/-- The next spool entry was pushed by a handler that has not returned (13 R306). -/
def Group.headLate (g : Group) : Bool := g.inh && (match g.spool with | e :: _ => e.late | [] => false)

/-- A spool entry or a trap block starts next (R119, R259). -/
def Group.startDue (g : Group) : Bool :=
  match g.block with
  | none => !g.trapq.isEmpty || (!g.spool.isEmpty && !g.laneStopped && !g.headLate)
  | some b => !g.trapq.isEmpty && !b.entry.trap && !g.pairOpen 0 && !g.pairOpen 1

/-- The other split of a trapped one ends its word of the same cycle (R255, R257). -/
def Group.twinTurn (g : Group) (slot : Nat) : Bool :=
  match g.laneTraps with | [t] => t.twin && t.slot != slot && !g.inh && g.trapq.isEmpty | _ => false

/-- A word of the lane side issues: the cycle of an earlier trap is over (R255). -/
def Group.closeTwin (g : Group) : Group := { g with laneTraps := g.laneTraps.map fun t => { t with twin := false } }

/-- The lane side has something to do in a split slot. -/
def Group.laneTurn (g : Group) (slot : Nat) : Bool :=
  (slot == 0 && g.startDue) ||
    (match g.block with
     | none => false
     | some b => (b.posOf slot).isSome && (b.entry.trap || (!g.laneStopped && g.trapq.isEmpty) || g.twinTurn slot || g.pairOpen slot))

/-- Every party of the device, teams by handle, then streams. -/
def State.parties (s : State) : List Party :=
  (s.teams.flatMap fun e => (List.finRange 16).map fun g => Party.group e.1 g) ++ s.streams.map fun e => Party.stream e.1

/-- The streams that have something to do. -/
def State.turns (s : State) : List (Party × Bool × Nat) :=
  ((s.parties.filter s.runs).flatMap fun p =>
    (if (s.grp p).scalarTurn then [(p, false, 0)] else []) ++
      (if p.isStream then [] else ([0, 1].filter (s.grp p).laneTurn).map fun n => (p, true, n)))

/-- A stream of a group within a PAUSE interval (R310). -/
def State.demoted (s : State) (t : Party × Bool × Nat) : Bool :=
  (BitVec.ofNat 64 s.time + (s.core (s.coreOf t.1)).cycOff).toNat < (s.grp t.1).demoteEnd.toNat

/-- The group slot of a party on its core, or a stream's slot on its control core (04 R98, 03 R55). -/
def State.slotNo (s : State) (p : Party) : Nat := match p with | .group _ _ => (s.grp p).slotNo.val | .stream k => (s.stream k).slot

/-- The streams of a list that are not demoted, or all of it where every one is (R103, R104). -/
def State.undemoted (s : State) (l : List ((Party × Bool × Nat) × Nat)) : List ((Party × Bool × Nat) × Nat) :=
  let up := l.filter fun e => !s.demoted e.1
  if up.isEmpty then l else up

/-- One list of numbers comes before another in the order of their first difference. -/
def firstOf : List Nat → List Nat → Bool
  | a :: l, b :: m => a < b || (a == b && firstOf l m)
  | _, _ => false

/-- The element of a list with the least key. -/
def leastOf {α : Type} (key : α → List Nat) : List α → Option α
  | [] => none
  | x :: l => match leastOf key l with | none => some x | some y => some (if firstOf (key y) (key x) then y else x)

/-- The scalar stream that a core issues next: round-robin by group slot among those that can (R103). -/
def State.scalarChoice (s : State) (core : Nat) : Option (Party × Bool × Nat) :=
  let l := s.undemoted (s.ready.filter fun e => !e.1.2.1 && s.coreOf e.1.1 == core)
  let last := KMap.get 0 s.lastSlot core
  (leastOf (fun e => [(s.slotNo e.1.1 + 16 - last - 1) % 16]) l).map (·.1)

/-- The split whose lane word a core issues next: the oldest that can, then the lower group slot, then slot 0 (R104). -/
def State.laneChoice (s : State) (core : Nat) : Option (Party × Bool × Nat) :=
  let l := s.undemoted (s.ready.filter fun e => e.1.2.1 && s.coreOf e.1.1 == core)
  (leastOf (fun e => [e.2, s.slotNo e.1.1, e.1.2.2]) l).map (·.1)

/-- What the cores can issue now: of each one scalar instruction and one lane word (R103, R104). -/
def State.choices (s : State) : List (Party × Bool × Nat) :=
  ((s.ready.map fun e => s.coreOf e.1.1).dedup).flatMap fun c => (s.scalarChoice c).toList ++ (s.laneChoice c).toList

/-- A stream that waits, to be looked at since its wait may ask for a page: the one that was looked at least recently (log 6). -/
def State.idleNext (s : State) : Option (Party × Bool × Nat) :=
  let idle := s.turns.filter fun x => !s.ready.any (·.1 == x)
  (idle.find? fun x => !s.looked.contains x).or (s.looked.reverse.find? idle.contains)

/-- Whose turns one cycle holds: one stream that waits is looked at, then one scalar instruction and one lane word of each core issue (log 6). -/
def State.cycleTurns (s : State) : List (Party × Bool × Nat) := s.idleNext.toList ++ s.choices

/-- The stream that issues next: of those left in this cycle, else of the next cycle's (log 6). -/
def State.choose (s : State) : Option (Party × Bool × Nat) := (s.plan.find? s.turns.contains).or s.cycleTurns.head?

/-- The stream that issues at this step. -/
def State.nextTurn (s : State) : Option (Party × Bool × Nat) :=
  match s.turn with
  | some t => if s.turns.contains t then some t else s.choose
  | none => s.choose

/-- A control stream that has ended writes its status word and counter, and frees its slot (03 R58). -/
def State.finishEnd (s : State) (k kind cause : Nat) : Out :=
  let x := s.stream k
  let wait (s : State) : Out := .next { s with stalled := true }
  match s.endWrites x.ctx.toNat x.stat (kind + 4 * cause) (if x.endc = 0 then none else some x.endc) x.statDone with
  | .wait => wait s
  | .ask t => wait t
  | .sent t => wait (t.setStream k { x with statDone := true })
  | .done t => .next (t.setStream k Stream.empty).tryStart

/-- A stream's turn: a due trap or start, or its next instruction. -/
def State.issueTurn (s : State) (p : Party) (lane : Bool) (slot : Nat) : Todo :=
  let g := s.grp p
  let s0 := { s with who := p, lslot := slot, stalled := false, starved := false }
  if lane then
    if slot = 0 ∧ g.startDue then .run (.spoolEntryStart p.teamOf p.gidOf) s0
    else
      match (if g.laneTraps.isEmpty then s0 else s0.updGrp p Group.closeTwin).fetchLane p slot with
      | .wait s => .out (.next { s with stalled := true })
      | .word s (.ok i) => .run i s
      | .word s (.illField i) => .out (illLane i s)
      | .trap s c info =>
        match (s.grp p).block with
        | none => .out (.next s)
        | some b =>
          match b.posOf slot with
          | none => .out (.next s)
          | some pos =>
            match b.rec? pos with
            | none => .out (.next s)
            | some q => .out (laneTrapOut s b pos q c info ((s.grp p).eff q) ((s.grp p).eff q) false [])
  else if g.trapDue then .run (.trapDelivery p.teamOf p.gidOf) s0
  else if g.ovfqDue then .run (.ovfqRaise p.teamOf) s0
  else if g.wakeAt.isSome && !g.inh then .out (wakeChecks (g.wakeAt.getD 0) s0)
  else
    match g.wait, p with
    | .ending kind cause, .stream k => .out (s0.finishEnd k kind cause)
    | _, _ =>
      match s0.fetchScalar p with
      | .wait s => .out (.next { s with stalled := true })
      | .word s (.ok i) => .run i s
      | .word s (.illField i) => .out (illScalar i s)
      | .trap s c info => .out (trapAt s c info)

/-- What a step does: the next event of the agenda, or a state of a start, or the turn of a stream, or nothing but time. -/
def State.pick (s : State) : Todo :=
  match s.agenda with
  | e :: rest => .run e { s with agenda := rest, stalled := false, starved := false }
  | [] =>
    if s.dev.starting then .out (.next s.startStep)
    else
    match s.nextTurn with
    | none => .out (.next { s with stalled := true })
    | some (p, lane, slot) => s.issueTurn p lane slot

/-- The second word of a pair issues at once (R289). -/
def State.pairNext (s : State) : Bool :=
  match s.turn with
  | some (p, true, slot) =>
    match (s.grp p).block with
    | some _ => (s.grp p).pairOpen slot
    | none => false
  | _ => false

/-- A stream has had its turn. Where it issued, its core issues no more of that side in this cycle, and the group slot whose
scalar stream issued is kept (R103); where it waits, it was looked at. -/
def State.hadTurn (s : State) (x : Party × Bool × Nat) (issued : Bool) : State :=
  let core := s.coreOf x.1
  if issued then
    { s with plan := s.plan.filter fun y => y != x && !(s.coreOf y.1 == core && y.2.1 == x.2.1)
             lastSlot := if x.2.1 then s.lastSlot else KMap.set 0 s.lastSlot core (s.slotNo x.1) }
  else { s with plan := s.plan.filter (· != x), looked := x :: s.looked.filter fun y => y != x && s.turns.contains y }

/-- Streams are left that issue in this cycle, once `ran` has had its turn (log 6). -/
def State.cycleGoesOn (s : State) (ran : Option (Party × Bool × Nat)) : Bool := s.plan.any fun x => ran != some x && s.turns.contains x

/-- Whose turn comes next, after the stream that ran if one did: the second word of a pair issues at once (R289); then who is
left of the cycle; then the next cycle begins. -/
def State.turnOver (s : State) (ran : Option (Party × Bool × Nat)) (issued : Bool) : State :=
  let held := { s with turn := ran.or s.turn }
  if held.pairNext then held
  else
    let s := match ran with | some x => s.hadTurn x issued | none => s
    let s := if s.cycleGoesOn none then s else { s with plan := s.cycleTurns }
    { s with turn := s.choose }

end Sys2Proof.Machine
end

