-- ==== Sys2Proof/Machine/ScalarMem.lean ====
section
/-! DEFINITION. Scalar loads, stores, atomics, fences and the promoted acquire (13 R299-R305). -/

namespace Sys2Proof.Machine

/-- Effective address of the SM format (R299). -/
def smAddr (b : DWord) (sz : BitVec 2) (off : BitVec 10) : DWord := b + (off.signExtend 64 <<< sz.toNat)

/-- A scalar memory instruction after its request has been put: it waits, traps, or has issued. -/
def scalarIssued (s : State) (r : Issued) (f : Group → Group) : Out :=
  match r with
  | .wait => waitOut s
  | .trap c i _ => trapAt s c i
  | .go t => .next ((t.updCur f).advance)

/-- A scalar load of the global space into t, with its acquire (R299, R300). -/
def scalarLoad (s : State) (t : SNum) (ea : DWord) (bytes : Nat) (acq : Option (BitVec 2)) : Out :=
  scalarIssued s (s.issue { scalarReq s.who .load bytes ea with acq := acq } none (.sreg t) .scalar none) (·.sempty t .pending)

/-- A scalar store of the global space, with its release (R299-R301). -/
def scalarStore (s : State) (x ea : DWord) (bytes : Nat) (rel : Option Nat) : Out :=
  match s.issue { scalarReq s.who .store bytes ea with x := x } rel .none .scalar none with
  | .wait => waitOut s
  | .trap c i _ => trapAt s c i
  | .go t => .next t.advance

/-- SLD: a plain load, zero-extended (R299). -/
def execSld (t base : SNum) (sz : BitVec 2) (off : BitVec 10) (s : State) : Out :=
  scalarGate (.sld t base sz off) s (needRegs [base] [t] s (scalarLoad s t (smAddr (s.rs base) sz off) (2 ^ sz.toNat) none))

/-- SST: a plain store of the low bytes (R299, R301). -/
def execSst (t base : SNum) (sz : BitVec 2) (off : BitVec 10) (s : State) : Out :=
  scalarGate (.sst t base sz off) s (needRegs [t, base] [] s (scalarStore s (s.rs t) (smAddr (s.rs base) sz off) (2 ^ sz.toNat) none))

/-- SLDA: an acquire load at a scope (R300). -/
def execSlda (t base : SNum) (sz sc : BitVec 2) (off : BitVec 10) (s : State) : Out :=
  scalarGate (.slda t base sz sc off) s
    (needRegs [base] [t] s (scalarLoad s t (smAddr (s.rs base) sz off) (2 ^ sz.toNat) (some sc)))

/-- SSTL: a release store at a scope (R300). -/
def execSstl (t base : SNum) (sz sc : BitVec 2) (off : BitVec 10) (s : State) : Out :=
  scalarGate (.sstl t base sz sc off) s
    (needRegs [t, base] [] s (scalarStore s (s.rs t) (smAddr (s.rs base) sz off) (2 ^ sz.toNat) (some sc.toNat)))

/-- ALIGN, then ACCESS, of one scratch access of n bytes (R168, R302). -/
def State.scratchFault (s : State) (team : Nat) (ea : DWord) (n : Nat) : Option Nat :=
  if ea.toNat % n ≠ 0 then some cAlign
  else match s.scratchTarget team ea.toNat with | none => some cAccess | some _ => none

/-- n bytes of scratch at a scratch address. -/
def State.scratchRead (s : State) (team : Nat) (ea : DWord) (n : Nat) : Nat :=
  match s.scratchTarget team ea.toNat with | none => 0 | some (h, off) => leBytes (s.scrBytes h off n)

/-- SLDS: a load from scratch (R302). -/
def execSlds (t base : SNum) (sz : BitVec 2) (off : BitVec 10) (s : State) : Out :=
  scalarGate (.slds t base sz off) s (needRegs [base] [t] s (
    let ea := smAddr (s.rs base) sz off
    match s.scratchFault s.who.teamOf ea (2 ^ sz.toNat) with
    | some c => trapAt s c ((ea.extractLsb' 0 57).setWidth 64)
    | none =>
      if s.acqPending s.who false then waitOut s
      else
        let v := BitVec.ofNat 64 (s.scratchRead s.who.teamOf ea (2 ^ sz.toNat))
        let q := scalarReq s.who .load (2 ^ sz.toNat) ea
        .next ((((s.haulWindow q).late q (.sreg t) .scalar none fun o => { o with sval := v }).updCur (·.sempty t .pending)).advance)))

/-- Release and acquire parts of an order code (R277): 1 acquire, 2 release, 3 both. -/
def relOf (ord sc : BitVec 2) : Option Nat := if ord.getLsbD 1 then some sc.toNat else none
def acqOf (ord sc : BitVec 2) : Option (BitVec 2) := if ord.getLsbD 0 then some sc else none

/-- SATOM: an atomic at its home; its result arrives later (R303). -/
def execSatom (d a b : SNum) (op : BitVec 4) (ord sc : BitVec 2) (s : State) : Out :=
  let cas := op = 9 ∨ op = 12
  scalarGate (.satom d a b op ord sc) s (needRegs ([a, b] ++ if cas then [blockReg b 1] else []) [d] s (
    let wide := op.toNat ≤ 9
    let q := { scalarReq s.who (.atomic op wide) (if wide then 8 else 4) (s.rs a) with
                x := s.rs b, y := if cas then s.par b 1 else 0, acq := acqOf ord sc }
    scalarIssued s (s.issue q (relOf ord sc) (.sreg d) .scalar none) (·.sempty d .pending)))

/-- While a handler runs, a lane trap, its own or a pending one, holds the lane side stopped (R255, R257). -/
def Group.heldByTrap (g : Group) : Bool := g.inh && (!g.laneTraps.isEmpty || (match g.trap with | some t => t.lane | none => false))

/-- Every lane block pushed so far has ended, but for what a trap holds stopped: the whole lane side, or the spool entries that
the handler itself pushed (R123, R306, R307). -/
def Group.lanesIdle (g : Group) : Bool :=
  g.trapq.isEmpty &&
    (if g.heldByTrap then (match g.block with | some b => !b.entry.trap | none => true)
     else (g.spool.all fun e => g.inh && e.late) && g.block.isNone)

/-- What LDRAIN and the lanes option wait for (R123, R192, R307): blocks ended, log entries gone, atomics performed. -/
def State.lanesDrained (s : State) (p : Party) : Bool :=
  (s.grp p).lanesIdle && (s.logOf p).isEmpty && (s.atomsOf p).isEmpty && (s.grp p).tiles.isEmpty

/-- A fence of the executing party may complete (R198, R304). -/
def State.fenceReady (s : State) (kind : Nat) (lanes : Bool) (sc : Nat) : Bool :=
  (!lanes || s.who.isStream || s.lanesDrained s.who) &&
    (if kind = 0 then !(s.atomsOf s.who).any (fun q => lanes || !q.lane) else s.released s.who sc)

/-- Lost peers and ports that a system release or full fence reports (R47, R48, Table 2-6). The hub's link status keeps its
bits until the next start, so that a fence after a retraining reports them again: the spec gives no moment at which they
clear, a DESIGN CHOICE (log 45). -/
def State.lostBits (s : State) : BitVec 16 := s.cur.lost ||| s.dev.linkLost

/-- A fence completes (R304, Table 7-4, R47): the acquire's actions, and for a system release the lost peers, with LINKDN after the fence. -/
def State.fenceDone (s : State) (kind sc : Nat) : Out :=
  let s := if kind = 1 then s else s.acquireAt s.who sc
  let bits := if kind ≠ 0 ∧ sc = 3 then s.lostBits else 0
  let s := if bits = 0 then s else s.updCur fun g => { g with lost := 0, fstat := g.fstat ||| bits.setWidth 64 }
  if bits ≠ 0 ∧ s.cur.fstat.getLsbD 63 then
    .next (s.scalarTrap s.who cLinkdn ((s.cur.fstat.extractLsb' 0 16).setWidth 64) (s.cur.pc + 4) [])
  else .next s.advance

/-- SFENCE (R304). -/
def execSfence (kind : BitVec 2) (lanes : Bool) (sc : BitVec 2) (s : State) : Out :=
  scalarGate (.sfence kind lanes sc) s
    (if s.fenceReady kind.toNat lanes sc.toNat then s.fenceDone kind.toNat sc.toNat else waitOut s)

/-- SACQP: a probe to the named core, then an acquire load; without a core to probe, the load alone (R202, R305). -/
def execSacqp (d a b : SNum) (sc : BitVec 2) (s : State) : Out :=
  scalarGate (.sacqp d a b sc) s (needRegs [a, b] [d] s (
    let n := (s.rs b).toNat
    let q := { scalarReq s.who .load 8 (s.rs a) with acq := some sc }
    if Config.coreCount ≤ n ∨ ¬ s.dev.dmap.getLsbD (dieOfCore n) then scalarLoad s d (s.rs a) 8 (some sc)
    else
      match s.addrFault q with
      | some (c, i, _) => trapAt s c i
      | none =>
        if s.pageHeld q || s.acqPending s.who false then waitOut s
        else
          let q := { q with id := s.handles + 4 }
          let t := { s with handles := s.handles + 1, probes := s.probes ++ [(n, q)] }
          .next ((t.updCur fun g =>
            { g with outst := g.outst ++ [outstOf s q (.sreg d) .scalar none] }.sempty d .pending).advance)))

end Sys2Proof.Machine
end

