-- ==== Sys2Proof/Machine/Waits.lean ====
section
/-! DEFINITION. Lane dispatch, the format and allowance of the stream, waits and rendezvous (13 R306-R312; 16 R379-R382;
05 R118, R130-R134; 07 R186, R187). -/

namespace Sys2Proof.Machine

/-! ### LRUN, LDRAIN, SETFMT, SETALW -/

/-- Fields of a block header word (Table 12-4). -/
def hdrOp (w : BitVec 96) : BitVec 8 := w.extractLsb' 0 8
def hdrDmask (w : BitVec 96) : BitVec 16 := w.extractLsb' 8 16
def hdrLen (w : BitVec 96) : Nat := fieldN w 24 16
def hdrTrap (w : BitVec 96) : Bool := w.getLsbD 40
/-- A valid header (R118). -/
def hdrOk (w : BitVec 96) : Bool := hdrOp w == 0xEF && 2 ≤ hdrLen w && fieldN w 41 55 == 0

/-- s16 to s31, their low words (R118). -/
def Group.snapshot (g : Group) : Vector Word 16 := Vector.ofFn fun i => (g.sreg ⟨16 + i.val, by omega⟩).setWidth 32
/-- s16 to s31. -/
def laneSRegs : List SNum := (List.finRange 16).map fun i => ⟨16 + i.val, by omega⟩

/-- The spool entry of an LRUN (Table 5-4). -/
def Group.entryOf (g : Group) (id : Nat) (blk : DWord) (m : Mask) (w : BitVec 96) (sec : Nat) (x : Sector) : SpoolEntry where
  id := id
  blk := blk.extractLsb' 0 57
  mask := m &&& g.live
  ksnap := g.snapshot
  fmt := g.fmt
  alw := g.alw
  dmask := hdrDmask w
  len := hdrLen w
  trap := hdrTrap w
  code := [(sec, x)]
  late := g.inh && !hdrTrap w

/-- An entry pushed: to the spool, or to the trap-block queue; its declared registers become empty (R118, R306). -/
def Group.push (g : Group) (e : SpoolEntry) : Group :=
  let g := if e.trap then { g with trapq := g.trapq ++ [e] } else { g with spool := g.spool ++ [e] }
  (List.finRange 16).foldl (fun g i => if e.dmask.getLsbD i.val then g.sempty ⟨16 + i.val, by omega⟩ .lane else g) g

/-- Trap blocks of the handler that have not ended (R306). -/
def Group.trapBlocks (g : Group) : Nat :=
  g.trapq.length + (match g.block with | some b => if b.entry.trap then 1 else 0 | none => 0)

/-- LRUN: a block pushed onto the spool (R306, R118). -/
def execLrun (a b : SNum) (s : State) : Out :=
  scalarGate (.lrun a b) s (
    let sfe := s.cur.fe.getLsbD 0
    match (if sfe then laneSRegs.find? s.cur.slaneEmpty else none) with
    | some r => trapAt s cEmpty (BitVec.ofNat 64 r.val)
    | none =>
      needRegs [a, b] [] s (
        let blk := s.rs a
        if blk.extractLsb' 0 4 ≠ 0 then trapAt s cAlign ((blk.extractLsb' 0 57).setWidth 64)
        else if blk.extractLsb' 57 7 ≠ 0 then trapAt s cAccess ((blk.extractLsb' 0 57).setWidth 64)
        else if laneSRegs.any (fun r => !s.cur.sfull r) then blockedOut s
        else
          match s.fetchLaneSector s.who blk.toNat with
          | .wait t => waitOut t
          | .trap t c i => trapAt t c i
          | .got t x =>
            let w : BitVec 96 := x.extractLsb' (8 * (blk.toNat % 64)) 96
            if (if hdrOk w && hdrTrap w && t.cur.inh then Config.trapQueue ≤ t.cur.trapBlocks else Config.spoolEntries ≤ t.cur.spool.length) then blockedOut t
            else if hdrOp w == 0xEF && hdrTrap w && !t.cur.inh then trapAt t cIllfld (opInfo (.lrun a b))
            else if !hdrOk w then trapAt t cBadblk 0
            else .next (({ t with handles := t.handles + 1 }.updCur fun g => g.push (g.entryOf t.handles blk ((t.rs b).setWidth 32) w (blk.toNat / 64) x)).advance)))

/-- LDRAIN: waits for the lane side (R307, R123). -/
def execLdrain (s : State) : Out :=
  scalarGate .ldrain s (if s.lanesDrained s.who then doneAt s else waitOut s)

/-- SETFMT: the stream's format register (R308, R212). -/
def execSetfmt (a : SNum) (s : State) : Out :=
  scalarOp (.setfmt a) [a] (fun s =>
    let v := s.rs a
    if v.extractLsb' 32 32 ≠ 0 ∨ ¬ fmtLegal (v.setWidth 32) then trapAt s cIllfld (opInfo (.setfmt a))
    else doneAt (s.updCur fun g => { g with fmt := v.setWidth 32 })) s

/-- The launch record's allowance ceiling (R239). -/
def State.ceiling (s : State) : DWord := (s.grid s.curTeam.grid).alw

/-- SETALW: the stream's allowance, within the ceiling (R309, R239). -/
def execSetalw (a : SNum) (s : State) : Out :=
  scalarOp (.setalw a) [a] (fun s =>
    let v := s.rs a
    if !allowLegal v then trapAt s cIllfld (opInfo (.setalw a))
    else if !allowWithin v s.ceiling then trapAt s cAlwdeny 0
    else doneAt (s.updCur fun g => { g with alw := v })) s

/-! ### PAUSE, SUSP, SLEEPU -/

/-- The grid of a party is in suspend mode; streams belong to none (R133, R56). -/
def State.suspendMode (s : State) (p : Party) : Bool := !p.isStream && (s.grid (s.team p.teamOf).grid).cfg.getLsbD 43

/-- PAUSE: demotion to now + n; nothing else (R310). -/
def execPause (n : BitVec 20) (s : State) : Out :=
  scalarGate (.pause n) s (
    if s.suspendMode s.who then trapAt s cWaitmode 0
    else
      let till := s.cyc s.who + n.setWidth 64
      doneAt (if n = 0 then s else s.updCur fun g => { g with demoteEnd := if g.demoteEnd.ult till then till else g.demoteEnd }))

/-- The counter of a wait, read at its home under the core's own stores, as an acquire at system scope (R134). -/
def State.readCounter (s : State) (p : Party) (ea pa : Nat) : State × DWord :=
  let s := s.acquireAt p 3
  let x := s.viewSector (s.coreOf p) p (ea / 64) (pa / 64)
  (s, x.1.extractLsb' (8 * (ea % 64)) 64)

/-- The watch table of a home has a free entry (R134, R59). -/
def State.watchRoom (s : State) (home : Nat) : Bool :=
  (s.watches.countP fun w => w.home == home) < (if home < 576 then Config.sliceWatches else Config.hubWatches)

/-- The id by which a peer answers the re-read of a waiting counter. -/
def suspId : Nat := 1

/-- Waiting on a counter begins: `reached` where it has its target already; else a watch entry, or polling where the
counter lies on a peer, the table is full or `watch` says so, 256 cycles after each read (R134, R311, R391). `w` makes the
wait, given whether an entry is held. -/
def waitCounter (s : State) (watch : Bool) (ea target : DWord) (w : Bool → Wait) (reached : State → Out) : Out :=
  let core := s.coreOf s.who
  let again (g : Group) : Group := { g with wait := w false, pollAt := s.cyc s.who + 256 }
  if s.acqPending s.who false || s.pagesHeld s.who [ea.toNat] then waitOut s
  else
  match s.look core (s.pasidOf s.who) ea.toNat false with
  | .miss =>
    if s.codeRefused s.who ea.toNat then
      trapAt (s.updCur fun g => { g with refused := none }) cXlate ((ea.extractLsb' 0 57).setWidth 64)
    else waitOut (s.askPage (dieOfCore core) (s.pasidOf s.who) ea.toNat false)
  | .bad => trapAt s cAccess ((ea.extractLsb' 0 57).setWidth 64)
  | .peer d pa =>
    if s.peerLost d then trapAt s cRmterr (rmtLost d)
    else if s.peerBusy d pa then waitOut s
    else .next { (s.sendPeer d opRead (pa / 64 * 64) suspId core s.who).updCur again with stalled := true }
  | .here pa =>
    if s.poison.contains (pa / 64) then trapAt s cMemerr (BitVec.ofNat 64 pa)
    else
      let r := s.readCounter s.who ea.toNat pa
      let s := r.1
      if !r.2.ult target then reached s
      else
        let home := s.homeOf pa
        if watch && s.watchRoom home then
          let e : Watch := { home := home, party := s.who, pa := pa, target := target, hit := false }
          .next (({ s with watches := s.watches ++ [e] }).updCur fun g => { g with wait := w true })
        else .next (s.updCur again)

/-- A party that waits without a watch entry is demoted for 256 cycles as by PAUSE (R134, R391). -/
def polling (r : Out) : Out :=
  match r with
  | .next t =>
    let till := t.cyc t.who + 256
    let demote (t : State) : Out := .next (t.updCur fun g => { g with demoteEnd := if g.demoteEnd.ult till then till else g.demoteEnd })
    match t.cur.wait with
    | .susp _ _ _ false => demote t
    | .join _ _ _ _ false => demote t
    | _ => .next t
  | r => r

/-- ALIGN, then ACCESS, of an 8-byte global operand (R167, R411). -/
def wordFault (a : DWord) (n : Nat) : Option Nat :=
  if a.toNat % n ≠ 0 then some cAlign else if a.extractLsb' 57 7 ≠ 0 then some cAccess else none

/-- The address an address fault reports. -/
def addrInfo (a : DWord) : DWord := (a.extractLsb' 0 57).setWidth 64

/-- A SUSP whose counter has reached its target goes on at its continuation (R134). -/
def suspReached (cont : BitVec 57) (s : State) : Out := .next ((s.updCur fun g => { g with wait := .none }).jumpTo cont)

/-- SUSP: waits until a counter reaches its target, then continues at the continuation (R311). -/
def execSusp (a b : SNum) (off : BitVec 11) (s : State) : Out :=
  scalarOp (.susp a b off) [a, b] (fun s =>
    match wordFault (s.rs a) 8 with
    | some c => trapAt s c (addrInfo (s.rs a))
    | none =>
      let cont := pcAt s.cur.pc off
      polling (waitCounter s true (s.rs a) (s.rs b) (.susp (s.rs a) (s.rs b) cont) (suspReached cont))) s
where
  /-- The continuation. -/
  pcAt (pc : BitVec 57) (off : BitVec 11) : BitVec 57 := pc + 4 * off.signExtend 57

/-- A wake from SLEEPU at the executing party (R312). -/
def wakeSleep (s : State) : Out :=
  let w := s.cyc s.who
  wakeChecks w ((s.updCur fun g => { g with wait := .none, wakeAt := some w }).advance)

/-- SLEEPU: waits until `c.cyc` reaches the operand (R312). -/
def execSleepu (a : SNum) (s : State) : Out :=
  scalarOp (.sleepu a) [a] (fun s =>
    if (s.rs a).ule (s.cyc s.who) && !s.wakeHeld s.who then wakeSleep s
    else .next (s.updCur fun g => { g with wait := .sleep (s.rs a) })) s

/-! ### BAR, CBAR, REGATHER, ELECT -/

/-- BAR (R379). -/
def execBar (s : State) : Out :=
  scalarGate .bar s (
    if !s.released s.who 0 then waitOut s
    else .next ((s.updCur fun g => { g with rdv := some .bar }).tryBar s.who.teamOf))

/-- Arrival at CBAR or CBAR.L: in a cluster that is not straddled CBAR.L is CBAR (R380). -/
def cbarArrive (i : Instr) (half : Bool) (s : State) : Out :=
  scalarGate i s (
    let r : Rdv := if half then s.halfRdv else .cbar
    if !s.released s.who 1 then waitOut s
    else .next ((s.updCur fun g => { g with rdv := some r }).tryCbar s.who.teamOf))

/-- CBAR (R380). -/
def execCbar (s : State) : Out := cbarArrive .cbar false s

/-- CBAR.L (R380). -/
def execCbarL (s : State) : Out := cbarArrive .cbarL true s

/-- A live thread at a regather: key, vtid, and where it is. -/
structure Thread where
  key : Nat
  vtid : Nat
  gid : Fin 16
  slot : Nat
deriving DecidableEq, Repr

/-- Order of R131: key, then vtid. -/
def Thread.before (x y : Thread) : Bool := x.key < y.key || (x.key == y.key && x.vtid ≤ y.vtid)

/-- A thread put in its place of a sorted list. -/
def insertThread (x : Thread) : List Thread → List Thread
  | [] => [x]
  | y :: l => if x.before y then x :: y :: l else y :: insertThread x l

/-- Threads in the order of R131. -/
def sortThreads (l : List Thread) : List Thread := l.foldr insertThread []

/-- The live threads of the groups, each with its key (R131). -/
def Team.threads (t : Team) (gs : List (Fin 16)) : List Thread :=
  gs.flatMap fun g =>
    let x := t.groups.get g
    let key := match x.rdv with | some (.regather k) => k.val | _ => 0
    (lanesOf x.live).map fun s => ⟨(x.lane key s).val.toNat, ((x.vtids[s]?).getD 0).toNat, g, s⟩

/-- Sorted threads cut where the key changes. -/
def runsOf : List Thread → List (List Thread)
  | [] => []
  | x :: l =>
    match runsOf l with
    | (y :: r) :: rs => if x.key = y.key then (x :: y :: r) :: rs else [x] :: (y :: r) :: rs
    | rs => [x] :: rs

/-- Threads in pieces of 32. -/
def chunk32 : Nat → List Thread → List (List Thread)
  | 0, _ => []
  | n + 1, l => if l.isEmpty then [] else l.take 32 :: chunk32 n (l.drop 32)

/-- The threads of each participating group in turn, and whether keys share groups (R131). -/
def packing (n : Nat) (l : List Thread) : List (List Thread) × Bool :=
  let keyed := (runsOf l).flatMap (chunk32 16)
  if keyed.length ≤ n then (keyed, false) else (chunk32 16 l, true)

/-- A group after its threads were placed (R131): vector registers, residues and predicates travel with them. -/
def Group.placeThreads (g : Group) (t : Team) (l : List Thread) (split : Bool) : Group :=
  let src (s : Nat) : Option Thread := l[s]?
  let pick {α : Type} (s : Nat) (old : α) (f : Group → Nat → α) : α :=
    match src s with | some x => f (t.groups.get x.gid) x.slot | none => old
  { g with
    vregs := Vector.ofFn fun r => ⟨true, Vector.ofFn fun s => pick s.val (g.lane r.val s.val) (fun x k => x.lane r.val k)⟩
    resid := Vector.ofFn fun e => Vector.ofFn fun s => pick s.val (g.res e.val s.val) (fun x k => x.res e.val k)
    preds := Vector.ofFn fun p => maskOf fun s => pick s ((g.predMask p.val).getLsbD s) (fun x k => (x.predMask p.val).getLsbD k)
    vtids := Vector.ofFn fun s => match src s.val with | some x => BitVec.ofNat 9 x.vtid | none => g.vtids[s]
    live := maskOf fun s => (src s).isSome
    pleats := Vector.replicate 4 0
    gstat := if split then g.gstat ||| 4 else g.gstat
    watched := g.watched.map fun w => { w with regs := KMap.setRange 0 w.regs 0 (List.replicate g.nreg 0xFFFFFFFF) } }

/-- The remap table after a regather (R132): gid, slot, present. -/
def remapOf (gs : List (Fin 16)) (placed : List (List Thread)) : KMap (BitVec 10) :=
  (gs.zip placed).foldl (fun m (g, l) =>
    l.zipIdx.foldl (fun m (x, i) => KMap.set 0 m x.vtid (BitVec.ofNat 10 (g.val + 16 * i + 512))) m) []

/-- REGATHER completes once every group of the team that has not ended has arrived (R130, R131). -/
def State.tryRegather (s : State) (h : Nat) : State :=
  let t := s.team h
  let gs := t.liveGroups
  let at? (g : Fin 16) : Bool := match (t.groups.get g).rdv with | some (.regather _) => true | _ => false
  if gs.isEmpty ∨ gs.any (fun g => !at? g) then s
  else
    let (placed, split) := packing gs.length (sortThreads (t.threads gs))
    let groups := Vector.ofFn fun g : Fin 16 =>
      if gs.contains g then (t.groups.get g).placeThreads t (((gs.zip placed).find? (·.1 == g)).elim [] (·.2)) split else t.groups.get g
    (s.setTeam h { t with groups := groups, remap := remapOf gs placed }).finishRdv [h] (s.partiesOf h) 0

/-- REGATHER: waits as LDRAIN, until every vector register is full, then at the rendezvous (R130). -/
def execRegather (key : BitVec 7) (s : State) : Out :=
  scalarGate (.regather key) s (
    if s.cur.nreg ≤ key.toNat then trapAt s cIllfld (opInfo (.regather key))
    else
      let r : Rdv := .regather ⟨key.toNat % 112, Nat.mod_lt _ (by decide)⟩
      if !s.lanesDrained s.who || !s.released s.who 0 || (List.range s.cur.nreg).any (fun v => !(s.cur.vreg v).full) then waitOut s
      else .next ((s.updCur fun g => { g with rdv := some r }).tryRegather s.who.teamOf))

/-- ELECT: 1 in the first group of the team since its last rendezvous (R382); always 1 on a control stream (R57). -/
def execElect (d : SNum) (s : State) : Out :=
  scalarGate (.elect d) s (needRegs [] [d] s (
    if s.who.isStream then doneAt (s.ws d 1)
    else
      let won : DWord := if s.curTeam.elected then 0 else 1
      doneAt ((s.setTeam s.who.teamOf { s.curTeam with elected := true }).ws d won)))

end Sys2Proof.Machine
end

