-- ==== Sys2Proof/Machine/Command.lean ====
section
/-! DEFINITION. What the commands of chapter 16 share: the checks at issue in the order of R253 (R359, R360, R411), the
bytes a unit writes to scratch, results that come later, and the refusal of an event that is not possible. -/

namespace Sys2Proof.Machine

/-! ### Commands (R359, R360, R411) -/

/-- A cause with its information, where a check fails. -/
def check (bad : Bool) (cause : Nat) (info : DWord) : Option (Nat × DWord) := if bad then some (cause, info) else none

/-- A command that traps at issue queues nothing (R360): the first check that fails, in the order given. -/
def checked (s : State) (l : List (Option (Nat × DWord))) (body : Out) : Out :=
  match l.findSome? id with
  | some (c, x) => trapAt s c x
  | none => body

/-- One of the registers is empty and its use raises EMPTY (R115). -/
def raisesEmpty (reads writes : List SNum) (s : State) : Bool :=
  match needRegs reads writes s (waitOut s) with | .next t => !t.stalled | _ => false

/-- A command: the gates of rank 1, its registers (R360), its checks, then its effect. Checks of ranks 1 and 2 that need no
register of the block, `pre`, come before EMPTY (R253). -/
def commandOp (i : Instr) (reads writes : List SNum) (checks : State → List (Option (Nat × DWord))) (f : State → Out) (s : State)
    (pre : List (Option (Nat × DWord)) := []) : Out :=
  scalarGate i s (
    if pre.any Option.isSome && raisesEmpty reads writes s then checked s pre (waitOut s)
    else needRegs reads writes s (checked s (checks s) (f s)))

/-- Bits [63:n] of a parameter are zero. -/
def zeroAbove (v : DWord) (n : Nat) : Bool := v.toNat < 2 ^ n

/-- ALIGN of a parameter field (R411). -/
def alignCheck (v : DWord) (n : Nat) : Option (Nat × DWord) := check (v.toNat % n != 0) cAlign (addrInfo v)
/-- ACCESS of a global address (R167, R411). -/
def globalCheck (v : DWord) : Option (Nat × DWord) := check (v.extractLsb' 57 7 != 0) cAccess (addrInfo v)
/-- ACCESS of n bytes at an own-team scratch address (R168, R411). -/
def State.ownCheck (s : State) (a n : Nat) : Option (Nat × DWord) :=
  check ((s.grid s.curTeam.grid).scrBytes < a + n) cAccess (BitVec.ofNat 64 (a % 2 ^ 57))

/-- Teams of the cluster of the executing party. -/
def State.teamCount (s : State) : Nat := s.curTeam.cluster.length

/-- Bits of a member mask at or above the team count (R138, R163, R363). -/
def State.badMembers (s : State) (m : DWord) : DWord := (m &&& 0xFFF) >>> s.teamCount <<< s.teamCount

/-- An event whose cause has not come about does not happen: nothing changes, and the device waits. -/
def notNow (s : State) : Out := waitOut s

/-! ### What an engine command reads from memory at issue (R83, R191, R361) -/

/-- The id by which a peer answers a read of parameters: the sector comes into the core's L1. -/
def paramId : Nat := 2

/-- A sector of the global space as a load of the party sees it: its L1 copy, or its home. -/
def State.paramSector (s : State) (p : Party) (va : Nat) : CodeFetch :=
  let core := s.coreOf p
  let pasid := s.pasidOf p
  match s.look core pasid va false, s.inL1 core p (va / 64) with
  | .bad, none => .trap s cAccess (BitVec.ofNat 64 (va % 2 ^ 57))
  | .miss, none =>
    if s.codeRefused p va then .trap (s.updGrp p fun g => { g with refused := none }) cXlate (BitVec.ofNat 64 (va % 2 ^ 57))
    else .wait (s.askPage (dieOfCore core) pasid va false)
  | .peer d pa, none =>
    if s.peerLost d then .trap s cRmterr (rmtLost d)
    else if s.peerBusy d pa then .wait s
    else
      match s.buffered core p (va / 64) with
      | some e => .wait (s.drainEntry core e)
      | none => .wait ((s.sendPeer d opRead (pa / 64 * 64) paramId core p (va := va / 64 * 64)).haul p core 6 64)
  | .here pa, none =>
    if s.poison.contains (pa / 64) then .trap s cMemerr (BitVec.ofNat 64 pa)
    else .got (((s.haulSector p core pa).fillFor core pasid va false).fillL1 core p (va / 64) (pa / 64)) (s.viewSector core p (va / 64) (pa / 64)).1
  | _, some l => .got s (s.overBuffer core p (va / 64) (l.data, l.bnds)).1

/-- The result of reading parameters. -/
inductive ParamRead where
  | wait (s : State)
  | trap (s : State) (cause : Nat) (info : DWord)
  | got (s : State) (bs : List Byte)

/-- The bytes of the sectors of some addresses. -/
def State.paramSectors (s : State) (p : Party) : List Nat → ParamRead
  | [] => .got s []
  | va :: rest =>
    match s.paramSector p va with
    | .wait s => .wait s
    | .trap s c i => .trap s c i
    | .got s x =>
      match s.paramSectors p rest with
      | .got s l => .got s (bytesOfSector x ++ l)
      | r => r

/-- The first of n bytes of parameters whose sector lies neither in L1 nor in a page with a translation (R188). -/
def State.paramNeeds (s : State) (p : Party) (va n : Nat) : Option Nat :=
  (codePlaces va n).find? fun a => (s.inL1 (s.coreOf p) p (a / 64)).isNone && s.lookAt p a false == .miss

/-- n bytes of the global space from an address. -/
def State.paramBytes (s : State) (p : Party) (va n : Nat) : ParamRead :=
  match s.paramSectors p (codePlaces va n) with
  | .got s l => .got s ((l.drop (va % 64)).take n)
  | r => r

/-! ### Bytes that a unit writes to scratch -/

/-- Bytes from an address cut at sector boundaries: sector, offset, bytes. -/
def sectorPieces (a : Nat) (bs : List Byte) : List (Nat × Nat × List Byte) :=
  (List.range ((a % 64 + bs.length + 63) / 64)).map fun k =>
    let lo := if k = 0 then a % 64 else 0
    let skip := if k = 0 then 0 else 64 * k - a % 64
    (a / 64 + k, lo, (bs.drop skip).take (64 - lo))

/-- A store of bytes at an offset of a sector, with the bound of each word it touches. -/
def secBytes (off : Nat) (bs : List Byte) (bnd : Nat → Bound) : SecStore where
  mask := BitVec.ofNat 64 ((2 ^ bs.length - 1) * 2 ^ off)
  data := BitVec.ofNat 512 (leBytes bs * 2 ^ (8 * off))
  bnds := Vector.ofFn fun i => if off < 4 * i.val + 4 ∧ 4 * i.val < off + bs.length then bnd i.val else 0
  tset := 0
  hset := false

/-- Bytes written to a core's scratch from a physical offset; `bnd` gives the bound of a word by its number. -/
def State.scrPutBytes (s : State) (core a : Nat) (bs : List Byte) (bnd : Nat → Bound) : State :=
  (sectorPieces a bs).foldl (fun s (sec, off, l) => s.updCore core fun c => c.scrStore sec (secBytes off l fun i => bnd (16 * sec + i)) false) s

/-- Bounds that the spec leaves open, one per word. -/
def State.freeBounds (s : State) (w : Nat) : Bound := freeBound (s.fresh + w % 128)

/-- 1 added to an 8-byte counter in a core's scratch, with the bound an atomic add gives (R137, R164, R236). -/
def State.scrCount (s : State) (core a : Nat) : State :=
  let (d, b) := (s.core core).scrLoad (a / 64)
  let bo := bndMax ((b[a % 64 / 4]?).getD 0) ((b[a % 64 / 4 + 1]?).getD 0)
  let (v, nb, _) := atom64 0 (d.extractLsb' (8 * (a % 64)) 64) 1 0 bo 0
  s.scrPutBytes core a (bytesLE 8 v.toNat) fun _ => nb

/-! ### Results that come later -/

/-- The result of a request whose scalar value is complete written to its register (R115). -/
def Group.landScalar (g : Group) (id : Nat) : Group :=
  match g.outst.find? (·.id == id) with
  | none => g
  | some o =>
    let g := { g with outst := g.outst.filter (·.id != id) }
    match o.dest with
    | .sreg d => g.ws d o.sval
    | _ => g

/-- A result that arrives after issue from a unit: its record and the emptiness of d; the id comes with it. -/
def State.awaitScalar (s : State) (d : SNum) : State × Nat :=
  let id := s.handles + 4
  let q := { MemReq.blank s.who false with id := id }
  ({ s with handles := s.handles + 1 }.updCur fun g =>
    { g with outst := g.outst ++ [outstOf s q (.sreg d) .scalar none] }.sempty d .pending, id)

/-- A value known at issue that reaches its register later (Table 16-1, late). -/
def lateResult (s : State) (d : SNum) (v : DWord) : Out :=
  .next (((s.late (scalarReq s.who .load 8 0) (.sreg d) .scalar none fun o => { o with sval := v }).updCur (·.sempty d .pending)).advance)

end Sys2Proof.Machine
end

