-- ==== Sys2Proof/Machine/Copy.lean ====
section
/-! DEFINITION. The copy engine: COPY, COPYM, CWAIT, packets and completion (16 R361-R364; 07 R180, R183-R187; 02 R49, R50),
and the weight store: WLOAD, WDIR, RFSH and refresh (16 R375-R377; 06 R152, R153, R160-R162). -/

namespace Sys2Proof.Machine

/-! ### Geometry of a copy (R361) -/

/-- Bytes of the copy. -/
def Copy.total (c : Copy) : Nat := c.xlen * c.ny * c.nz * c.nw
/-- x, y, z and w of the byte at a position in row-major order. -/
def Copy.coord (c : Copy) (pos : Nat) : Nat × Nat × Nat × Nat :=
  (pos % c.xlen, pos / c.xlen % c.ny, pos / (c.xlen * c.ny) % c.nz, pos / (c.xlen * c.ny * c.nz))
/-- Source address of the byte at a position. -/
def Copy.srcAt (c : Copy) (pos : Nat) : Int :=
  let (x, y, z, w) := c.coord pos
  c.sadr + x + y * c.sstr + z * c.szs + w * c.sws
/-- Destination address of the byte at a position; for WLOAD the offset in the weight store. -/
def Copy.dstAt (c : Copy) (pos : Nat) : Int :=
  let (x, y, z, w) := c.coord pos
  match c.kind with
  | .wload off _ => Config.sliceBytes * y + 64 * off + x
  | _ => c.dadr + x + y * c.dstr + z * c.dzs + w * c.dws
/-- Lowest address of a region. -/
def spanLo (base : Int) (dims : List (Nat × Int)) : Int := dims.foldl (fun a (n, k) => a + min 0 (((n : Int) - 1) * k)) base
/-- Highest address of a region. -/
def spanHi (base : Int) (dims : List (Nat × Int)) : Int := dims.foldl (fun a (n, k) => a + max 0 (((n : Int) - 1) * k)) base
def Copy.sdims (c : Copy) : List (Nat × Int) := [(c.xlen, 1), (c.ny, c.sstr), (c.nz, c.szs), (c.nw, c.sws)]
def Copy.ddims (c : Copy) : List (Nat × Int) := [(c.xlen, 1), (c.ny, c.dstr), (c.nz, c.dzs), (c.nw, c.dws)]

/-- Every byte of a region lies in [0, top). -/
def spanIn (base : Int) (dims : List (Nat × Int)) (top : Nat) : Bool := 0 ≤ spanLo base dims && spanHi base dims < top

/-- A row of scratch bytes meets R168 in every byte. -/
def State.scratchRowOk (s : State) (team : Nat) (a : Int) (n : Nat) : Bool :=
  0 ≤ a && (s.scratchTarget team a.toNat).isSome && (s.scratchTarget team (a.toNat + n - 1)).isSome &&
    a.toNat / 2 ^ 19 == (a.toNat + n - 1) / 2 ^ 19

/-- Every scratch byte of one end of the copy meets R168. -/
def State.scratchRegionOk (s : State) (team : Nat) (c : Copy) (addr : Nat → Int) (base : Int) (dims : List (Nat × Int)) : Bool :=
  spanIn base dims (2 ^ 25) && (List.range (c.ny * c.nz * c.nw)).all fun r => s.scratchRowOk team (addr (r * c.xlen)) c.xlen

/-! ### K-steps -/

/-- Positions that one K-step stores per column: k of Table 6-4. -/
def stepK (mb : Nat) : Nat := if mb = 7 then 4 else if mb = 1 ∨ mb = 2 ∨ mb = 14 then 1 else 2
/-- K positions of a step (R366). -/
def LoopParams.ppos (p : LoopParams) (fmt : Word) : Nat := (if p.sp then 2 else 1) * stepK (fmtMB fmt)
/-- 32-bit words of n stored values of a B format (R214, R157). -/
def bWords (mb n : Nat) : Nat := if mb = 14 then ceilDiv n 32 * 3 else ceilDiv n (fmtElems mb)

/-! ### The weight directory (R152, R153) -/

/-- Next multiple of 64. -/
def up64 (n : Nat) : Nat := ceilDiv n 64 * 64

/-- Where the parts of a column begin, and its length: data at 64, then scales, then sparsity (Table 6-5), for a K extent. -/
structure Column where
  scales : Nat
  sparse : Nat
  size : Nat
deriving DecidableEq, Repr

/-- The column layout of a B format over `k` positions (Table 6-5). -/
def columnOf (mb : Nat) (sp : Bool) (k : Nat) : Column :=
  let stored := if sp then k / 2 else k
  let data := 64 + 4 * bWords mb stored
  let sc := if 3 ≤ mb ∧ mb ≤ 7 then 2 * ceilDiv stored 32 else 0
  let scAt := up64 data
  let spAt := if sc = 0 then up64 data else up64 (scAt + sc)
  { scales := scAt, sparse := spAt, size := if sp then spAt + ceilDiv k 8 else if sc = 0 then data else scAt + sc }

def dirTag (e : DWord) : Nat := fieldN e 0 12
def dirValid (e : DWord) : Bool := e.getLsbD 12
def dirSp (e : DWord) : Bool := e.getLsbD 13
def dirOff (e : DWord) : Nat := fieldN e 16 13
def dirExt (e : DWord) : Nat := fieldN e 32 13
def dirNm1 (e : DWord) : Nat := fieldN e 48 6
def dirFmt (e : DWord) : Nat := fieldN e 60 4

/-- Length of an entry's region in each slice. -/
def dirSize (e : DWord) : Nat := (columnOf (dirFmt e) (dirSp e) (32 * dirExt e)).size

/-- An entry that Table 6-6 allows and that fits (R153). -/
def dirOk (e : DWord) : Bool :=
  fieldN e 14 2 == 0 && fieldN e 29 3 == 0 && fieldN e 45 3 == 0 && fieldN e 54 6 == 0 && dirOff e ≤ 6143 && 1 ≤ dirExt e && dirExt e ≤ 8191 &&
    [1, 2, 3, 4, 5, 6, 7, 10, 11, 14].contains (dirFmt e) && 64 * dirOff e + dirSize e ≤ Config.sliceBytes

/-- The directory entry that an expert loop hits on a core (R154, R64). -/
def State.dirHit (s : State) (core : Nat) (p : LoopParams) (fmt : Word) : Option DWord :=
  match p.tag with
  | none => none
  | some tag =>
    if !s.feature 8 then none
    else ((List.range 64).map fun i => KMap.get 0 (s.core core).wdir i).find? fun e =>
      dirValid e && dirTag e == tag.toNat && dirFmt e == fmtMB fmt && dirSp e == p.sp && p.n ≤ dirNm1 e + 1 && p.kn ≤ 32 * dirExt e

/-! ### The promise (R185, Table 7-9) -/

/-- Bytes of one column's parts that lie before a step: header, data, scales and sparsity (Table 6-5). -/
def LoopParams.columnBytes (p : LoopParams) (fmt : Word) (step : Nat) : Nat :=
  let n := step * stepK (fmtMB fmt)
  (if step = 0 then 0 else 64) + 4 * bWords (fmtMB fmt) n + (if 3 ≤ fmtMB fmt ∧ fmtMB fmt ≤ 7 then 2 * ceilDiv n 32 else 0) +
    (if p.sp then ceilDiv (2 * n) 8 else 0)

/-- Bytes that a loop's fallback stream and table stream have still to move, the loop running or queued (R155, R158, R185). -/
def State.streamBytes (s : State) (core : Nat) (q : SeqCmd) : Nat :=
  let of (p : LoopParams) : Nat :=
    let hit := if q.started then q.hit else s.dirHit core p q.fmt
    let data := if hit.isSome then 0 else p.n * (p.columnBytes q.fmt (p.kn / p.ppos q.fmt) - p.columnBytes q.fmt q.step)
    let seen := match q.tables.getLast? with | some e => e.1 + 1 | none => 0
    data + if fmtMB q.fmt = 14 then 1024 * (ceilDiv p.kn 128 - seen) else 0
  match q.kind with
  | .loop p => of p
  | .share _ p => of p
  | _ => 0

/-- Rate and latency of one end of a copy (Table 7-9). A global end whose region spans pages of different homes or translations takes the
row of its base address alone, a DESIGN CHOICE (log 45): the spec names one row for an end and not which page decides it. -/
def State.pathOf (s : State) (spc : Bool) (a : Int) : Nat × Nat :=
  let me := s.curTeam
  if spc then
    if a < 2 ^ 24 then (64, 40)
    else match s.scratchTarget s.who.teamOf a.toNat with
      | some (h, _) => if (s.team h).far = me.far then (64, 120) else (32, 300)
      | none => (64, 120)
  else
    let core := s.coreOf s.who
    match s.translate core (s.pasidOf s.who) a.toNat false with
    | none => (16, 3000)
    | some t =>
      if t.peer.isSome then (8, 5000)
      else
        let pa := transAddr t a.toNat
        if !s.isHbm pa then (16, 3000) else if dieOfHome (s.homeOf pa) = dieOfCore core then (64, 900) else (48, 1300)

/-- Destination end of a copy: the farthest member of a multicast (R363). -/
def State.dstPath (s : State) (c : Copy) (bytes : Nat) : Nat × Nat :=
  let later (x y : Nat × Nat) : Nat × Nat := if ceilDiv bytes x.1 + x.2 < ceilDiv bytes y.1 + y.2 then y else x
  match c.kind with
  | .copy => s.pathOf c.dspc c.dadr
  | .wload _ _ => (64, 40)
  | .peers _ => (8, 5000)
  | .multi m =>
    let me := s.curTeam
    (me.cluster.zipIdx.filter fun e => m.getLsbD e.2).foldl (fun x (h, k) =>
      later x (if k = me.cc then (64, 40) else if (s.team h).far = me.far then (64, 120) else (32, 300))) (64, 40)

/-- bytes/rate and latency of the farther end. -/
def State.copyTerm (s : State) (c : Copy) : Nat × Nat :=
  let x := s.pathOf c.sspc c.sadr
  let y := s.dstPath c c.total
  let tx := ceilDiv c.total x.1
  let ty := ceilDiv c.total y.1
  if tx + x.2 < ty + y.2 then (ty, y.2) else (tx, x.2)

/-- Cycles the engine owes to the work ahead (R185). -/
def State.qahead (s : State) (core : Nat) : Nat :=
  let c := s.core core
  (c.copies.filter fun x => x.stopped.isNone).foldl (fun a x => a + x.term) 0 + c.seq.foldl (fun a q => a + ceilDiv (s.streamBytes core q) 64) 0

/-- A copy of the executing group takes a queue entry, if one is free: the state and its promise (R183, R185). L1 sectors of its
source are dropped, so that it reads nothing older than the group's stores. -/
def State.enqueue (s : State) (c : Copy) : Option (State × DWord) :=
  let core := s.coreOf s.who
  if Config.copyQueue ≤ ((s.core core).copies.filter fun x => x.stopped.isNone).length then none
  else
    let (term, lat) := s.copyTerm c
    let promise := s.cyc s.who + BitVec.ofNat 64 (s.qahead core + term + lat)
    let c := { c with id := s.handles + 4, promise := promise, term := term }
    let lo := spanLo c.sadr c.sdims
    let hi := spanHi c.sadr c.sdims
    let s := { s with handles := s.handles + 1 }.updCore core fun x =>
      { x with copies := x.copies ++ [c],
               l1 := if c.sspc then x.l1 else x.l1.filter fun l => !((s.ctx l.ctx).pasid == s.pasidOf s.who && lo < 64 * l.va + 64 && (64 * l.va : Int) ≤ hi) }
    some (s, promise)

/-- A copy takes a queue entry, or waits for one; d gets its promise (R362). -/
def State.queueCopy (s : State) (d : SNum) (c : Copy) : Out :=
  match s.enqueue c with
  | none => waitOut s
  | some (t, promise) => doneAt (t.ws d promise)

/-! ### COPY and COPYM (R361-R363) -/

/-- The registers that a copy captures: its block's five, the extension's address, and the mask (R360). -/
def State.copyOps (s : State) (a : SNum) (x : Bool) (m : DWord) : List DWord :=
  (List.range 5).map (s.par a) ++ [if x then s.par a 5 else 0, m]

/-- The copy of a parameter block, its extension's bytes given (Tables 16-2, 16-3). -/
def State.copyWith (s : State) (kind : CopyKind) (ops : List DWord) (x : Bool) (ext : List Byte) : Copy :=
  let e (lo n : Nat) : Nat := leBytes ((ext.drop lo).take n)
  let i (lo : Nat) : Int := (BitVec.ofNat 64 (e lo 8)).toInt
  let r (n : Nat) : DWord := (ops[n]?).getD 0
  let q := r 4
  { id := 0, team := s.who.teamOf, gid := s.who.gidOf, kind := kind, sadr := (r 0).toNat, dadr := (r 1).toNat,
    sspc := q.getLsbD 59, dspc := q.getLsbD 60, xlen := fieldN (r 2) 0 32, ny := fieldN (r 2) 32 16,
    nz := if x then e 0 4 else 1, nw := if x then e 4 4 else 1, sstr := fieldI (r 3) 0 32, dstr := fieldI (r 3) 32 32,
    szs := if x then i 8 else 0, dzs := if x then i 16 else 0, sws := if x then i 24 else 0, dws := if x then i 32 else 0,
    ev := if q.getLsbD 61 then some ((q.extractLsb' 0 57).setWidth 64, q.extractLsb' 57 2) else none,
    promise := 0, term := 0, pos := 0, waiting := [], stopped := none, resumed := false, unbound := false, failed := none }

/-- The same of a block in registers. -/
def State.copyOf (s : State) (kind : CopyKind) (a : SNum) (x : Bool) (ext : List Byte) : Copy := s.copyWith kind (s.copyOps a x 0) x ext

/-- Reserved bits and zero counts of the block (R360, R361). -/
def copyIll (c : Copy) (ops : List DWord) (ext : List Byte) : Bool :=
  fieldN ((ops[2]?).getD 0) 48 16 != 0 || fieldN ((ops[4]?).getD 0) 62 2 != 0 || c.xlen == 0 || c.ny == 0 || c.nz == 0 || c.nw == 0 ||
    (ext.drop 40).any (· != 0)

/-- The first of n bytes from an address whose page is translated to a physical address that does not exist (01 R20). -/
def State.absent (s : State) (p : Party) (a n : Nat) (write : Bool) : Option Nat :=
  ((List.range ((a % 4096 + n + 4095) / 4096)).map fun k => max a (4096 * (a / 4096 + k))).find? fun x => s.lookAt p x write == .bad

/-- ACCESS of n bytes at a global address that do not exist (01 R20). -/
def State.absentCheck (s : State) (v : DWord) (n : Nat) (write : Bool) : Option (Nat × DWord) :=
  (s.absent s.who v.toNat n write).map fun a => (cAccess, BitVec.ofNat 64 a)

/-- The first such byte of the rows of a region. -/
def State.absentRow (s : State) (p : Party) (rows n : Nat) (addr : Nat → Int) (write : Bool) : Option Nat :=
  (List.range rows).findSome? fun r => if addr r < 0 then none else s.absent p (addr r).toNat n write

/-- ACCESS of one end of a copy (R167, R168, R361): its range, then the addresses whose translation is held and that do not
exist (01 R20). -/
def State.endCheck (s : State) (c : Copy) (spc : Bool) (addr : Nat → Int) (base : Int) (dims : List (Nat × Int)) (write : Bool := false) : Option (Nat × DWord) :=
  if (if spc then !s.scratchRegionOk s.who.teamOf c addr base dims else !spanIn base dims (2 ^ 57)) then
    some (cAccess, BitVec.ofInt 64 base &&& 0x1FFFFFFFFFFFFFF)
  else if spc then none
  else (s.absentRow s.who (c.ny * c.nz * c.nw) c.xlen (fun r => addr (r * c.xlen)) write).map fun a => (cAccess, BitVec.ofNat 64 a)

/-- Registers of the block. -/
def copyRegs (a : SNum) (x : Bool) : List SNum := blockRegs a (if x then 6 else 5)

/-- Entries of the context's partition table that a peer mask names and that are empty or have no port set (R363). -/
def State.badPeers (s : State) (m : DWord) : DWord :=
  let t := s.ctx (s.ctxOf s.who)
  let bad (i : Nat) : Bool :=
    let e := KMap.get 0 t.partition i
    m.getLsbD i && (!e.getLsbD 15 || (s.dev.devNum != some (e.extractLsb' 0 12) && (s.peer (fieldN e 0 12)).ports == 0))
  BitVec.ofNat 64 ((List.range 64).foldl (fun a i => if bad i then a + 2 ^ i else a) 0)

/-- The devices that a peer mask names, each once (R49). -/
def State.peerDevs (s : State) (m : DWord) : List (BitVec 12) :=
  let t := s.ctx (s.ctxOf s.who)
  (((List.range 64).filter fun i => m.getLsbD i).map fun i => (KMap.get 0 t.partition i).extractLsb' 0 12).eraseDups

/-- A form of COPY or COPYM: its instruction and kind, the ILLFLD of its own, the checks of its event counter, those after the alignment. -/
structure CopyForm where
  i : Instr
  d : SNum
  x : Bool
  kind : CopyKind
  ill : Copy → Bool
  ev : DWord → List (Option (Nat × DWord))
  rest : State → Copy → List (Option (Nat × DWord))

/-- ACCESS of a copy whose destination is no address that a check of its own covers. -/
def dstOutside (c : Copy) (top : Nat) : Option (Nat × DWord) :=
  check (!spanIn c.dadr c.ddims top) cAccess (BitVec.ofInt 64 c.dadr &&& 0x1FFFFFFFFFFFFFF)

/-- COPY (R361). -/
def State.copyForm (s : State) (d a : SNum) (x : Bool) : CopyForm where
  i := .copy d a x
  d := d
  x := x
  kind := .copy
  ill := fun _ => false
  ev := fun v => [alignCheck v 8, s.absentCheck v 8 true]
  rest := fun s c => [s.endCheck c c.sspc c.srcAt c.sadr c.sdims, s.endCheck c c.dspc c.dstAt c.dadr c.ddims true]

/-- COPYM into the scratch of the cluster's members (R363). -/
def State.clusterForm (s : State) (d a b : SNum) (x : Bool) (m : DWord) : CopyForm :=
  let scr := (s.grid s.curTeam.grid).scrBytes
  { i := .copym d a b x false, d := d, x := x, kind := .multi (m.setWidth 12),
    ill := fun c => !zeroAbove m 12 || !c.dspc || (BitVec.ofInt 64 c.dadr).getLsbD 24,
    ev := fun v => [alignCheck ((v.extractLsb' 0 19).setWidth 64) 8, check (scr < fieldN v 0 19 + 8) cAccess (addrInfo v)],
    rest := fun s c => [s.endCheck c c.sspc c.srcAt c.sadr c.sdims, dstOutside c scr, check (s.badMembers m != 0) cMcflt (s.badMembers m)] }

/-- COPYM to peers (R363, R49, R50). -/
def State.peerForm (s : State) (d a b : SNum) (x : Bool) (m : DWord) : CopyForm where
  i := .copym d a b x true
  d := d
  x := x
  kind := .peers (s.peerDevs m)
  ill := fun c => c.dspc
  ev := fun v => [alignCheck v 8, s.absentCheck v 8 true]
  rest := fun s c => [s.endCheck c c.sspc c.srcAt c.sadr c.sdims, dstOutside c (2 ^ 52), check (s.badPeers m != 0) cMcflt (s.badPeers m)]

/-- A copy whose checks have passed: to nobody it completes at once, with the issue cycle as its promise, its event counter still to
be incremented where it has one at its device (R50, R363); else it takes a queue entry. -/
def State.copyStart (s : State) (c : Copy) : Option (State × DWord) :=
  let now := s.cyc s.who
  if c.kind = .multi 0 then some (s, now)
  else if c.kind = .peers [] then
    let c := { c with id := s.handles + 4, promise := now, pos := c.total }
    some ({ s with handles := s.handles + 1 }.updCore (s.coreOf s.who) fun k => { k with copies := k.copies ++ [c] }, now)
  else s.enqueue c

/-- A copy's checks have passed: it waits for its group's earlier stores and for an entry, or starts (R183, R184). -/
def State.copyGo (s : State) (d : SNum) (c : Copy) : Out :=
  if c.kind ≠ .multi 0 ∧ c.kind ≠ .peers [] ∧ !s.released s.who 0 then waitOut s
  else match s.copyStart c with
    | none => waitOut s
    | some (t, promise) => doneAt (t.ws d promise)

/-- A copy whose extension's page has no translation takes an operand-log entry: d is empty until it is replayed, and the group
goes on (R191, R361). Its source is ordered after the stores made before it (R184). -/
def State.logCopy (s : State) (f : CopyForm) (ops : List DWord) (va : Nat) : Out :=
  if !s.released s.who 0 || s.logFull (s.coreOf s.who) then waitOut s
  else
    let q := { scalarReq s.who (.command f.i) 4 (BitVec.ofNat 64 va) with id := s.handles + 4, ops := ops }
    let t := { s with handles := s.handles + 1 }.updCur fun g => { g with outst := g.outst ++ [outstOf s q (.sreg f.d) .scalar none] }.sempty f.d .pending
    .next (t.logLanes q 1 .scalar).advance

/-- The checks of a copy's block and the copy's start (R253, R361, R411): ILLFLD of the block and of an extension that can be read
now, the counter's and the extension's alignment and range, then the extension itself and the checks of the copy's ends. -/
def State.copyIssue (s : State) (f : CopyForm) (ops : List DWord) : Out :=
  let extA := (ops[5]?).getD 0
  let plain := s.copyWith f.kind ops false []
  let extOk := f.x ∧ extA.toNat % 8 = 0 ∧ extA.extractLsb' 57 7 = 0
  let now : ParamRead := if extOk then s.paramBytes s.who extA.toNat 48 else .wait s
  let ill := match now with | .got t ext => copyIll (t.copyWith f.kind ops true ext) ops ext | _ => false
  let late := (match plain.ev with | some (v, _) => f.ev v | none => []) ++ if f.x then [alignCheck extA 8, globalCheck extA] else []
  if copyIll plain ops [] || f.ill plain || ill then trapAt s cIllfld (opInfo f.i)
  else
    checked s (late.filter (fun c => match c with | some (k, _) => k == cAlign | none => false) ++ late) (
      if !f.x then checked s (f.rest s plain) (s.copyGo f.d plain)
      else if s.pagesHeld s.who [extA.toNat, extA.toNat + 47] then waitOut s
      else if (s.paramNeeds s.who extA.toNat 48).isSome then s.logCopy f ops extA.toNat
      else match now with
        | .wait t => waitOut t
        | .trap t c i => trapAt t c i
        | .got t ext => let c := t.copyWith f.kind ops true ext; checked t (f.rest t c) (t.copyGo f.d c))

/-- COPY (R361, R362). -/
def execCopy (d a : SNum) (x : Bool) (s : State) : Out :=
  scalarGate (.copy d a x) s (needRegs (copyRegs a x) [d] s (s.copyIssue (s.copyForm d a x) (s.copyOps a x 0)))

/-- COPYM (R363); an empty mask completes at once. -/
def execCopym (d a b : SNum) (x peer : Bool) (s : State) : Out :=
  scalarGate (.copym d a b x peer) s (needRegs (copyRegs a x ++ [b]) [d] s (
    s.copyIssue (if peer then s.peerForm d a b x (s.rs b) else s.clusterForm d a b x (s.rs b)) (s.copyOps a x (s.rs b))))

/-- The form of a command in the operand log, with its captured mask. -/
def State.formOf (s : State) (i : Instr) (ops : List DWord) : Option CopyForm :=
  let m := (ops[6]?).getD 0
  match i with
  | .copy d a x => some (s.copyForm d a x)
  | .copym d a b x peer => some (if peer then s.peerForm d a b x m else s.clusterForm d a b x m)
  | _ => none

/-- CWAIT (R364): a copy in the operand log has issued too; its promise will not lie before the cycle of its replay. -/
def execCwait (a : SNum) (p : Bool) (s : State) : Out :=
  scalarOp (.cwait a p) (if p then [a] else []) (fun s =>
    let mine := (s.copiesOf s.who).filter fun c => !p || c.promise.ule (s.rs a)
    let logged := (s.logOf s.who).any fun e =>
      (match e.req.kind with | .command _ => true | _ => false) && e.req.lanes != 0 && (!p || (s.cyc s.who).ule (s.rs a))
    if mine.any (·.stopped.isNone) || logged then blockedOut s
    else
      match mine with
      | [] => doneAt (s.acquireAt s.who 0)
      | c :: _ =>
        let (cause, info) := c.stopped.getD (0, 0)
        trapAt (s.dropCopy (s.coreOf s.who) c.id) cause.toNat info) s

/-! ### Moving a packet (R180, R183, R187) -/

/-- A copied byte with the bound of the word it comes from. -/
abbrev CopyByte := Byte × Bound

/-- The store of copied bytes at an offset of a sector: a word gets the largest bound of the bytes it gets (R178, R180). -/
def secCopied (off : Nat) (l : List CopyByte) : SecStore :=
  secBytes off (l.map (·.1)) fun i =>
    (l.zipIdx.filter fun e => (off + e.2) / 4 == i).foldl (fun b e => bndMax b e.1.2) 0

/-- Copied bytes cut at sector boundaries. -/
def copyPieces (a : Nat) (l : List CopyByte) : List (Nat × SecStore) :=
  (List.range ((a % 64 + l.length + 63) / 64)).map fun k =>
    let lo := if k = 0 then a % 64 else 0
    let skip := if k = 0 then 0 else 64 * k - a % 64
    (a / 64 + k, secCopied lo ((l.drop skip).take (64 - lo)))

/-- One end of a packet: its page is asked for, it has to wait, the copy stops, or it is done. -/
inductive Packet (α : Type) where
  | ask (va : Nat) (write : Bool)
  | wait
  | stop (cause : Nat) (info : DWord)
  | sent (s : State)
  | ok (s : State) (x : α)

/-- n bytes of a sector view from an address, with their words' bounds. -/
def seeBytes (see : Nat → Sector × Vector Bound 16) (a n : Nat) : List CopyByte :=
  (List.range n).map fun i =>
    let x := see ((a + i) / 64)
    (x.1.byte ((a + i) % 64), (x.2[(a + i) % 64 / 4]?).getD 0)

/-- Sectors of n bytes from an address. -/
def sectorsOf (a n : Nat) : List Nat := (List.range ((a % 64 + n + 63) / 64)).map (a / 64 + ·)

/-- The source of a packet (R184): the core's buffered stores to it are at their home first; bytes of the save area of an enabled
context are unpredictable, with bound ∞ (05 R128, 00 R7). -/
def State.packetRead (s : State) (p : Party) (c : Copy) (a : Int) (n : Nat) : Packet (List CopyByte) :=
  let core := s.coreOf p
  if c.sspc then
    match s.scratchTarget c.team a.toNat with
    | none => .stop cAccess 0
    | some (h, off) =>
      let t := s.team h
      .ok (s.haulCores p t.core core n) (seeBytes (fun sec => (s.core t.core).scrLoad sec) (t.scrAddr off) n)
  else if s.inSave p a.toNat && s.lookAt p a.toNat false != .miss && s.lookAt p a.toNat false != .bad then
    .ok (s.bumpBy 128) (seeBytes (fun sec => freeSector (s.fresh + 16 * (sec % 8))) a.toNat n)
  else
    match s.lookAt p a.toNat false with
    | .miss => .ask a.toNat false
    | .bad => .stop cAccess (BitVec.ofInt 64 a)
    | .peer d pa =>
      match (sectorsOf a.toNat n).find? fun sec => (s.inL1 core p sec).isNone with
      | none => .ok s (seeBytes (fun sec => match s.inL1 core p sec with | some l => (l.data, l.bnds) | none => (0, Vector.replicate 16 0)) a.toNat n)
      | some sec =>
        let pa := pa + 64 * sec - 64 * (a.toNat / 64)
        if s.peerLost d then .stop cRmterr (rmtLost d)
        else if s.peerBusy d pa then .wait
        else
          match s.buffered core p sec with
          | some e => .sent (s.drainEntry core e)
          | none => .sent ((s.sendPeer d opRead (pa / 64 * 64) c.id core p (va := 64 * sec)).haul p core 6 64)
    | .here pa =>
      let t := (sectorsOf a.toNat n).foldl (fun t sec => t.settleSector p (64 * sec)) s
      match (sectorsOf pa n).find? t.poison.contains with
      | some sec => .stop cMemerr (BitVec.ofNat 64 (64 * sec))
      | none => .ok ((t.fillFor core (s.pasidOf p) a.toNat false).haul p core (dieOfHome (t.homeOf pa)) n) (seeBytes t.homeLoad pa n)

/-- A packet sent to a peer, or dropped where the peer is lost (R48, R49), from an address of the copy's space (2^57 where it has none). -/
def State.sendReplica (s : State) (p : Party) (c : Copy) (d : BitVec 12) (va pa : Nat) (l : List CopyByte) : Packet (List (BitVec 12)) :=
  if s.peerLost d then
    .ok (s.dropWrite d) []
  else if 1024 < (s.peer d.toNat).sent.length + (copyPieces pa l).length || (copyPieces pa l).any (fun e => s.peerBusy d (64 * e.1)) then .wait
  else
    let send (s : State) (e : Nat × SecStore) : State := s.sendPeer d opWrite (64 * e.1) c.id (s.coreOf p) p (some e.2) (va := va + 64 * e.1 - 64 * (pa / 64))
    .ok (((copyPieces pa l).foldl send s).haul p (s.coreOf p) 6 l.length) ((copyPieces pa l).map fun _ => d)

/-- Bytes stored at their homes by a copy. -/
def State.storeHere (s : State) (p : Party) (pa : Nat) (l : List CopyByte) : State :=
  ((copyPieces pa l).foldl (fun t (sec, st) => t.homeStore sec st true) s).haul p (s.coreOf p) (dieOfHome (s.homeOf pa)) l.length

/-- A packet stored at global addresses: at their homes, or sent to a peer, behind what the core has buffered there; its L1
copies of the sectors go (R184). -/
def State.packetGlobal (s : State) (p : Party) (c : Copy) (a : Nat) (l : List CopyByte) : Packet (List (BitVec 12)) :=
  match s.lookAt p a true with
  | .miss => .ask a true
  | .bad => .stop cAccess (BitVec.ofNat 64 a)
  | .peer d pa =>
    let t := (sectorsOf a l.length).foldl (fun t sec => t.settleSector p (64 * sec)) s
    if (sectorsOf a l.length).any fun sec => (s.buffered (s.coreOf p) p sec).isSome then (if t.peerBusy d pa then .sent t else .wait)
    else t.sendReplica p c d a pa l
  | .here pa =>
    let t := (sectorsOf a l.length).foldl (fun t sec => t.settleSector p (64 * sec)) s
    .ok ((t.fillFor (s.coreOf p) (s.pasidOf p) a true).storeHere p pa l) []

/-- A core's buffered stores to a physical sector, here or at a peer, drained, and its L1 copies of it set to I, whatever
address they have: a copy that names physical addresses has an acquire at its destination too (R184, R363). -/
def State.settlePlace (s : State) (core : Nat) (d : Option (BitVec 12)) (sec : Nat) : State :=
  let s := s.drainAll core ((s.core core).cbuf.filter fun e => e.peer == d && e.pa == sec)
  let stays (l : L1Sector) : Bool :=
    match s.look core (s.ctx l.ctx).pasid (64 * l.va) false with
    | .here a => !(d.isNone && a / 64 == sec)
    | .peer e a => !(d == some e && a / 64 == sec)
    | .miss => false
    | .bad => true
  s.updCore core fun c => { c with l1 := c.l1.filter stays }

/-- A packet stored into a team's scratch. -/
def State.packetScratch (s : State) (p : Party) (h off : Nat) (l : List CopyByte) : State :=
  let t := s.team h
  ((copyPieces (t.scrAddr off) l).foldl (fun s (sec, st) => s.scrPut t.core sec st true) s).haulCores p (s.coreOf p) t.core l.length

/-- A packet stored into the weight store; units written whole lose their poison (R162, R375). -/
def Core.packetStore (k : Core) (a : Nat) (l : List CopyByte) : Core :=
  let whole (u : Nat) : Bool := a ≤ 64 * u && 64 * u + 64 ≤ a + l.length
  { k with wstore := writeBytes k.wstore a (l.map (·.1)), wpoison := k.wpoison.filter fun u => !whole u }

/-- A copy of a core changed. -/
def State.updCopy (s : State) (core id : Nat) (f : Copy → Copy) : State :=
  s.updCore core fun k => { k with copies := k.copies.map fun x => if x.id = id then f x else x }

/-- A replica that its peer has not taken: the copy goes on, and reports the first one when it is complete (R363, R50). -/
def State.failReplica (s : State) (core id : Nat) (info : DWord) : State :=
  s.updCopy core id fun c => { c with failed := some (c.failed.getD (BitVec.ofNat 8 cRmterr, info)) }

/-- A replica to this device itself: a local copy (02 R50). An address that does not exist here fails as a peer's answer ACCESS
does, a DESIGN CHOICE (log 45). -/
def State.localReplica (s : State) (p : Party) (c : Copy) (d : BitVec 12) (pa : Nat) (l : List CopyByte) : State :=
  if s.paOk pa then s.storeHere p pa l else s.failReplica (s.coreOf p) c.id (BitVec.ofNat 64 (2 * 2 ^ 2 + d.toNat * 2 ^ 16))

/-- A packet's replicas, each an independent transaction (R49). What the core has buffered for a destination goes first. -/
def State.packetPeers (s : State) (p : Party) (c : Copy) (devs : List (BitVec 12)) (pa : Nat) (l : List CopyByte) : Packet (List (BitVec 12)) :=
  let core := s.coreOf p
  let place (d : BitVec 12) : Option (BitVec 12) := if s.dev.devNum = some d then none else some d
  let t := devs.foldl (fun t d => (sectorsOf pa l.length).foldl (fun t sec => t.settlePlace core (place d) sec) t) s
  if (s.core core).cbuf.any fun e => e.peer.isSome && (sectorsOf pa l.length).contains e.pa && devs.any fun d => place d == e.peer then
    (if (t.core core).cbuf.length < (s.core core).cbuf.length then .sent t else .wait)
  else
    devs.foldl (fun r d =>
      match r with
      | .ok s ds =>
        if place d = none then .ok (s.localReplica p c d pa l) ds
        else (match s.sendReplica p c d (2 ^ 57) pa l with | .ok s e => .ok s (ds ++ e) | r => r)
      | r => r) (.ok t [])

/-- The destination of a packet: the peers whose response it then waits for. -/
def State.packetWrite (s : State) (p : Party) (c : Copy) (a : Int) (l : List CopyByte) : Packet (List (BitVec 12)) :=
  match c.kind with
  | .wload _ _ => .ok (s.updCore (s.coreOf p) (·.packetStore a.toNat l)) []
  | .multi m =>
    let hs := (s.team c.team).cluster.zipIdx.filter fun e => m.getLsbD e.2
    .ok (hs.foldl (fun s (h, _) => s.packetScratch p h a.toNat l) s) []
  | .peers devs => s.packetPeers p c devs a.toNat l
  | .copy =>
    if c.dspc then
      match s.scratchTarget c.team a.toNat with
      | none => .stop cAccess 0
      | some (h, off) => .ok (s.packetScratch p h off l) []
    else s.packetGlobal p c a.toNat l

/-- Length of the next packet: within the row, and within one 256-byte line of the source and of the destination (R183). -/
def Copy.packetLen (c : Copy) : Nat :=
  min (c.xlen - c.pos % c.xlen) (min (256 - (c.srcAt c.pos).toNat % 256) (256 - (c.dstAt c.pos).toNat % 256))

/-- The team of a copy is not halted (R107). -/
def State.copyRuns (s : State) (c : Copy) : Bool := (s.team c.team).life == .running || (s.team c.team).life == .ended

/-- A copy stops (R187, R261): the packets performed stay, the counter is not incremented. ACCESS of an address that does not
exist belongs to the instruction and ends its team, at once since CWAIT reports none (01 R20, R364; log 46). -/
def State.stopCopy (s : State) (core : Nat) (c : Copy) (cause : Nat) (info : DWord) : State :=
  let t := s.updCopy core c.id fun c => { c with stopped := some (BitVec.ofNat 8 cause, info) }
  let p : Party := .group c.team c.gid
  if cause = cAccess ∧ (s.team c.team).life = .running then (t.noteCause p cause info).fatalEnd p cause else t

/-- The page a waiting copy needs asked for; its promise does not bound it any more (R185, R187). -/
def State.copyAsk (s : State) (core : Nat) (p : Party) (c : Copy) (va : Nat) (write : Bool) : Out :=
  if c.unbound ∧ s.asked (dieOfCore core) (s.pasidOf p) va write false then notNow s
  else .next ((s.askEngine (dieOfCore core) (s.pasidOf p) va write).updCopy core c.id fun c => { c with unbound := true })

/-- A copy waits, to send a packet or for a peer's response: while a port retrains its promise does not bound it, and a SLEEPU
wake reports it (R185, R186). -/
def State.copyHeld (s : State) (core : Nat) (c : Copy) : Out :=
  if !c.unbound && s.ports.toList.any (·.retraining) then .next (s.updCopy core c.id fun c => { c with unbound := true }) else notNow s

/-- The outcome of one packet of a copy. -/
def State.packet (s : State) (core : Nat) (c : Copy) : Out :=
  let p : Party := .group c.team c.gid
  let s := { s with who := p }
  let n := c.packetLen
  match s.packetRead p c (c.srcAt c.pos) n with
  | .ask va w => s.copyAsk core p c va w
  | .wait => s.copyHeld core c
  | .stop k i => .next (s.stopCopy core c k i)
  | .sent t => .next (t.updCopy core c.id fun c => { c with unbound := true })
  | .ok t l =>
    match t.packetWrite p c (c.dstAt c.pos) l with
    | .ask va w => s.copyAsk core p c va w
    | .wait => s.copyHeld core c
    | .stop k i => .next (s.stopCopy core c k i)
    | .sent t => .next t
    | .ok t ds => .next (t.updCopy core c.id fun c => { c with pos := c.pos + n, waiting := c.waiting ++ ds })

/-- COPY_PACKET: a copy of the queue moves its next packet (R183). -/
def execCopyPacket (core i : Nat) (s : State) : Out :=
  match (s.core core).copies[i]? with
  | none => notNow s
  | some c => if c.stopped.isSome || c.total ≤ c.pos || !s.copyRuns c then notNow s else s.packet core c

/-- The event counter of a completed copy incremented with its release (R184, R363); an untranslated counter's page is asked
for, and a counter on a peer is an atomic whose response the copy waits for (02 R45). -/
def State.copyCount (s : State) (core : Nat) (p : Party) (c : Copy) : Packet Unit :=
  match c.kind, c.ev with
  | _, none => .ok s ()
  | .multi m, some (v, _) =>
    let hs := (s.team c.team).cluster.zipIdx.filter fun e => m.getLsbD e.2
    .ok (hs.foldl (fun s (h, _) => let t := s.team h; (s.scrCount t.core (t.scrAddr (fieldN v 0 19))).haulCores p core t.core 8) s) ()
  | _, some (v, _) =>
    match s.lookAt p v.toNat true with
    | .miss => .ask v.toNat true
    | .bad => .stop cAccess v
    | .here pa => .ok (((s.settleSector p v.toNat).homeAdd pa 1).haul p core (dieOfHome (s.homeOf pa)) 8) ()
    | .peer d pa =>
      if s.peerLost d then .stop cRmterr (rmtLost d)
      else if s.peerBusy d pa then .wait
      else .sent (((s.sendAtom64 d 0 1 0 pa c.id core p v.toNat).haul p core 6 8).updCopy core c.id fun c => { c with ev := none, waiting := [d] })

/-- COPY_COMPLETION: every packet is performed (R184). A multicast that some peer has not taken then has its RMTERR for the CWAIT (R363). -/
def execCopyCompletion (core i : Nat) (s : State) : Out :=
  match (s.core core).copies[i]? with
  | none => notNow s
  | some c =>
    let p : Party := .group c.team c.gid
    if c.stopped.isSome || c.pos < c.total || !s.copyRuns c then notNow s
    else if !c.waiting.isEmpty then s.copyHeld core c
    else
      let s := { s with who := p }
      match s.copyCount core p c with
      | .ask va w => s.copyAsk core p c va w
      | .wait => s.copyHeld core c
      | .stop k i => .next (s.stopCopy core c k i)
      | .sent t => .next t
      | .ok t _ => .next (if c.failed.isSome then t.updCopy core c.id fun c => { c with stopped := c.failed, ev := none } else t.dropCopy core c.id)

/-- The addresses that a copy's next action needs translated, each for writing or not (R187). -/
def Copy.places (c : Copy) : List (Nat × Bool) :=
  if c.total ≤ c.pos then
    (match c.kind, c.ev with | .multi _, _ => [] | _, some (v, _) => [(v.toNat, true)] | _, none => [])
  else
    (if c.sspc then [] else [((c.srcAt c.pos).toNat, false)]) ++
      (match c.kind with | .copy => if c.dspc then [] else [((c.dstAt c.pos).toNat, true)] | _ => [])

/-! ### Weight store (R152, R153, R375, R376) -/

/-- An entry with its valid bit cleared. -/
def dirClear (e : DWord) : DWord := setField e 12 1 0

/-- Directory entries changed. -/
def Core.mapDir (c : Core) (f : Nat → DWord → DWord) : Core :=
  { c with wdir := (List.range 64).foldl (fun m i => KMap.set 0 m i (f i (KMap.get 0 m i))) c.wdir }

/-- WLOAD (R375): entries whose region it writes are invalidated at issue. -/
def execWload (d a : SNum) (s : State) : Out :=
  commandOp (.wload d a) (blockRegs a 3) [d] (fun s =>
      let q := s.par a 1
      let r := s.par a 2
      let len := fieldN q 32 32
      let ill := fieldN q 19 13 != 0 || len == 0 || len % 64 != 0 || Config.sliceBytes < 64 * fieldN q 0 13 + len || fieldN r 0 32 % 64 != 0 || fieldN r 32 32 != 0
      let top : Nat := (s.par a 0).toNat + fieldN q 13 6 * fieldN r 0 32 + len
      [check ill cIllfld (opInfo (.wload d a)), check (s.curCore.wphase.isNone) cWsphase 0, alignCheck (s.par a 0) 64,
        check (2 ^ 57 < top) cAccess (addrInfo (s.par a 0)),
        (s.absentRow s.who (fieldN q 13 6 + 1) len (fun r => (s.par a 0).toNat + r * fieldN (s.par a 2) 0 32) false).map fun x => (cAccess, BitVec.ofNat 64 x)])
    (fun s =>
      let q := s.par a 1
      let off := fieldN q 0 13
      let nm1 := fieldN q 13 6
      let len := fieldN q 32 32
      let c : Copy :=
        { id := 0, team := s.who.teamOf, gid := s.who.gidOf, kind := .wload off nm1, sadr := (s.par a 0).toNat, dadr := 0, sspc := false, dspc := false,
          xlen := len, ny := nm1 + 1, nz := 1, nw := 1, sstr := fieldN (s.par a 2) 0 32, dstr := 0, szs := 0, dzs := 0, sws := 0, dws := 0,
          ev := none, promise := 0, term := 0, pos := 0, waiting := [], stopped := none, resumed := false, unbound := false, failed := none }
      if !s.released s.who 0 then waitOut s
      else
        match s.queueCopy d c with
        | .next t =>
          if t.stalled then .next t
          else .next (t.updCore (s.coreOf s.who) fun k => k.mapDir fun _ e =>
            if dirValid e && 64 * dirOff e < 64 * off + len && 64 * off < 64 * dirOff e + dirSize e then dirClear e else e)
        | r => r) s [check (s.curCore.wphase.isNone) cWsphase 0]

/-- WDIR (R376, R153). -/
def execWdir (a b : SNum) (s : State) : Out :=
  commandOp (.wdir a b) [a, b] [] (fun s =>
      [check (64 ≤ (s.rs b).toNat || (dirValid (s.rs a) && !dirOk (s.rs a))) cIllfld (opInfo (.wdir a b)),
        check (s.curCore.wphase.isNone) cWsphase (BitVec.ofNat 64 (dirTag (s.rs a)))])
    (fun s =>
      let e := s.rs a
      let n := (s.rs b).toNat
      doneAt (s.updCore (s.coreOf s.who) fun k => k.mapDir fun i old =>
        if i = n then (if dirValid e then e else dirClear old)
        else if dirValid e && dirValid old && dirTag old == dirTag e then dirClear old else old)) s
    [check (s.cur.sfull b && 64 ≤ (s.rs b).toNat) cIllfld (opInfo (.wdir a b)),
      check (s.curCore.wphase.isNone) cWsphase (if s.cur.sfull a then BitVec.ofNat 64 (dirTag (s.rs a)) else 0)]

/-! ### Refresh (R160-R162, R377) -/

/-- Automatic refresh keeps a bank busy in a cycle (R160). -/
def autoBusy (wrsched c : DWord) (bank : Nat) : Bool :=
  wrsched.toNat ≤ c.toNat && 512 * bank ≤ (c.toNat - wrsched.toNat) % 8192 && (c.toNat - wrsched.toNat) % 8192 < 512 * bank + 96

/-- Scrub of the banks of a core (R162): corrected errors are written back and counted, an uncorrectable one is recorded as
type 12 and poisons its unit. -/
def State.scrubBanks (s : State) (core : Nat) (bank : Nat → Bool) : State :=
  let here (e : Nat × Nat) : Bool := e.1 == core && bank (e.2 % 6144 % 16)
  let soft := (s.env.wsoft.filter here).length
  let t := { s with env := { s.env with wsoft := s.env.wsoft.filter fun e => !here e } }.updCore core fun k => { k with wcorrected := k.wcorrected + soft }
  (s.env.wfaults.filter here).foldl (fun s e =>
    let s := { s with env := { s.env with wfaults := s.env.wfaults.filter (· != e) } }
    (s.updCore core fun k => { k with wpoison := k.wpoison ++ [e.2] }).report 12 0 2 (locOf (core / 288) 0 (core % 288) 0 0 0) 0 1 0xFFFF e.2) t

/-- An RFSH that is over has scrubbed every bank, and `c.wrsched` follows it (R161, R162). -/
def State.settleRfsh (s : State) (core : Nat) : State :=
  match s.rfshOver core with
  | some e => (s.scrubBanks core fun _ => true).updCore core fun k => { k with rfshEnd := none, wrsched := e + 65536 }
  | none => s

/-- RFSH: every bank is refreshed in the 1536 cycles from its issue; one that finds another in progress does nothing more (R161, R377). -/
def execRfsh (s : State) : Out :=
  scalarGate .rfsh s (
    let core := s.coreOf s.who
    doneAt ((s.settleRfsh core).updCore core fun k => match k.rfshEnd with | some _ => k | none => { k with rfshEnd := some (s.coreCyc core + 1536) }))

/-- RFSH_COMPLETE (R161). -/
def execRfshComplete (core : Nat) (s : State) : Out := if (s.rfshOver core).isNone then notNow s else .next (s.settleRfsh core)

/-- Automatic refreshes of a bank that have begun by a cycle (R160). -/
def autoCount (wrsched bank c : Nat) : Nat := if c < wrsched + 512 * bank then 0 else (c - wrsched - 512 * bank) / 8192 + 1

/-- An automatic refresh of a bank has begun since its last scrub (R160, R162). -/
def State.refreshDue (s : State) (core bank : Nat) : Bool :=
  let b := (s.wrschedOf core).toNat
  core < Config.coreCount && autoCount b bank (KMap.get 0 (s.core core).scrubbed bank) < autoCount b bank (s.coreCyc core).toNat

/-- AUTOMATIC_REFRESH: a bank is refreshed and scrubbed in its scheduled cycles (R160, R162). -/
def execAutomaticRefresh (core : Nat) (bank : Fin 16) (s : State) : Out :=
  if s.refreshDue core bank.val then
    .next ((s.scrubBanks core fun b => b == bank.val).updCore core fun k => { k with scrubbed := KMap.set 0 k.scrubbed bank.val (s.coreCyc core).toNat })
  else notNow s

end Sys2Proof.Machine
end

