-- ==== Sys2Proof/Machine/LaneMem.lean ====
section
/-! DEFINITION. Lane loads, stores, atomics, STREF and TLDA (15 R339-R348), and the STREF steps shared with the scalar
stream (08 R207). -/

namespace Sys2Proof.Machine

/-! ### Requests of a lane word -/

/-- A request of a lane word: its performed lanes, their addresses, width and hint (R340). -/
def LaneRun.req (x : LaneRun) (s : State) (kind : MemKind) (bytes : Nat) (addr : Nat → DWord) : MemReq :=
  { MemReq.blank s.who true with
    kind := kind, bytes := bytes, width := x.w.width, hint := x.w.hint, lanes := x.perf,
    addr := Vector.ofFn fun i => addr i.val }

/-- Where a lane word's result goes (R120). -/
def LaneRun.dest (x : LaneRun) : Dest :=
  if 112 ≤ x.w.dst.toNat then .laneS ⟨(x.w.dst.toNat - 112) % 16, Nat.mod_lt _ (by decide)⟩ else .vec x.w.dst.toNat

/-- Word index, split slot and stack position of the word, for a trap on arrival (11 R250). -/
def LaneRun.origin (x : LaneRun) : Origin := ⟨x.q.pc, x.b.slotOf x.pos, x.b.entry.id, x.allRedo, x.pairs, x.q.second⟩

/-- `alw` and format of the check on arrival (10 R243). -/
def LaneRun.check (x : LaneRun) : Option (DWord × Word) := if (allow x.c.alw).chkall then some (x.c.alw, x.c.fmt) else none

/-- The word after its request was put: it waits, traps, or has issued; `f` empties its destination. -/
def LaneRun.issued (x : LaneRun) (s : State) (r : Issued) (f : Group → Group) : Out :=
  match r with
  | .wait => waitOut s
  | .trap c i m => x.trap s c i m
  | .go t => x.done t f

/-- Release and acquire of a load or store with ord (R342). -/
def laneRel (w : LaneWord) : Option Nat := if w.ordBit then some w.scope.toNat else none
def laneAcq (w : LaneWord) : Option (BitVec 2) := if w.ordBit then some w.scope else none

/-! ### Loads (R343) -/

/-- A global load at given addresses. -/
def laneLoad (i : Instr) (addr : LaneCtx → Nat → DWord) (s : State) : Out :=
  laneGo i s fun x =>
    if x.perf = 0 then x.done s id
    else
      let q := { x.req s .load (widthBytes x.w.width) (addr x.c) with acq := laneAcq x.w }
      x.issued s (s.issue q none x.dest x.origin x.check) (·.emptyDest x.dest (widthRegs x.w.width))

/-- LD (R343). -/
def execVld (w : LaneWord) (s : State) : Out := laneLoad (.vld w) LaneCtx.addrGlobal s

/-- LDX: addresses from a register pair (R343). -/
def execLdx (w : LaneWord) (s : State) : Out := laneLoad (.ldx w) LaneCtx.addrPair s

/-! ### Stores (R344) -/

/-- The data of a store: vB, and the registers after it for w2 and w4, as their sources supply them. -/
def LaneRun.storeData (x : LaneRun) : List (Vector LaneVal 32) :=
  (List.range (widthRegs x.w.width)).map fun j =>
    let b : Src := { x.w.b with reg := x.w.b.reg + BitVec.ofNat 7 j }
    Vector.ofFn fun n => let r := x.c.srcX b n.val; ⟨r.1, r.2⟩

/-- Lanes whose stored words breach under CHKST, each word read as fb (R242, R243). -/
def LaneRun.storeBreach (x : LaneRun) (data : List (Vector LaneVal 32)) : Mask × List (Bound × Option Rat) :=
  let a := allow x.c.alw
  let words (n : Nat) : List (Bound × Option Rat) :=
    (data.map fun v => (v[n]?).getD LaneVal.zero).map fun v => (v.bnd, wordY (fmtB x.c.fmt) v.val)
  let bad := maskOf fun n => a.chkst && x.perf.getLsbD n && (words n).any fun r => breaches a r.1 r.2
  (bad, (lanesOf bad).flatMap fun n => (words n).filter fun r => breaches a r.1 r.2)

/-- A store checked (R242), then put by `go`. -/
def LaneRun.checked (x : LaneRun) (s : State) (fault : Option (Nat × DWord × Mask)) (data : List (Vector LaneVal 32)) (go : State → Out) : Out :=
  match fault with
  | some (c, i, m) => x.trap s c i m
  | none =>
    let (bad, l) := x.storeBreach data
    if bad ≠ 0 ∧ (allow x.c.alw).bte then x.trap s cBreach (breachInfo (allow x.c.alw) 1 0 l) bad
    else go (if bad ≠ 0 then s.updCur (·.setStat 1) else s)

/-- A global store at given addresses. -/
def laneStore (i : Instr) (addr : LaneCtx → Nat → DWord) (s : State) : Out :=
  laneGo i s fun x =>
    if x.perf = 0 then x.done s id
    else
      let data := x.storeData
      let q := { x.req s .store (widthBytes x.w.width) (addr x.c) with data := data }
      x.checked s (s.addrFault q) data fun t => x.issued s (t.issue q (laneRel x.w) .none x.origin none) id

/-- ST (R344). -/
def execVst (w : LaneWord) (s : State) : Out := laneStore (.vst w) LaneCtx.addrGlobal s

/-- STX: addresses from a register pair (R344). -/
def execStx (w : LaneWord) (s : State) : Out := laneStore (.stx w) LaneCtx.addrPair s

/-! ### Scratch (R168, R343-R345) -/

/-- ALIGN, then ACCESS, of the scratch addresses of a request (R168, R253). -/
def State.scratchFaults (s : State) (team : Nat) (q : MemReq) : Option (Nat × DWord × Mask) :=
  let al := maskOf fun i => q.lanes.getLsbD i && q.va i % q.bytes != 0
  let ac := maskOf fun i => q.lanes.getLsbD i && (s.scratchTarget team (q.va i)).isNone
  if al ≠ 0 then some (cAlign, BitVec.ofNat 64 (q.va (lowestLane al)), al)
  else if ac ≠ 0 then some (cAccess, BitVec.ofNat 64 (q.va (lowestLane ac)), ac)
  else none

/-- The sector and offset of a scratch address. -/
def State.scratchSee (s : State) (team a : Nat) : (Sector × Vector Bound 16) × Nat :=
  match s.scratchTarget team a with
  | none => ((0, Vector.replicate 16 0), 0)
  | some (h, off) => let t := s.team h; ((s.core t.core).scrLoad (t.scrAddr off / 64), t.scrAddr off % 64)

/-- LDS: a load from scratch, performed at the core (R343, R195). -/
def execLds (w : LaneWord) (s : State) : Out :=
  laneGo (.lds w) s fun x =>
    if x.perf = 0 then x.done s id
    else
      let q := { x.req s .load (widthBytes w.width) x.c.addrScratch with acq := laneAcq w }
      match s.scratchFaults s.who.teamOf q with
      | some (c, i, m) => x.trap s c i m
      | none =>
        if s.acqPending s.who true then waitOut s
        else
          let s := match laneAcq w with | some sc => s.acquireAt s.who sc.toNat | none => s
          let words (i : Nat) : List LaneVal := let r := s.scratchSee s.who.teamOf (q.va i); loadWords w.width r.1 r.2
          x.done ((s.haulWindow q).late q x.dest x.origin x.check fun o => { o with words := putWords o.words x.perf words })
            (·.emptyDest x.dest (widthRegs w.width))

/-- A sector store put into scratch at a scratch address. -/
def State.scratchPut (s : State) (team a : Nat) (f : Nat → SecStore) : State :=
  match s.scratchTarget team a with | none => s | some (h, off) => s.scrStore h off f false

/-- STS: a store to scratch, in ascending slot order (R344, R341). -/
def execSts (w : LaneWord) (s : State) : Out :=
  laneGo (.sts w) s fun x =>
    if x.perf = 0 then x.done s id
    else
      let data := x.storeData
      let q := { x.req s .store (widthBytes w.width) x.c.addrScratch with data := data }
      x.checked s (s.scratchFaults s.who.teamOf q) data fun t =>
        if t.acqPending t.who true || (match laneRel w with | some sc => !t.released t.who sc | none => false) then waitOut s
        else
          let put (s : State) (i : Nat) : State :=
            s.scratchPut s.who.teamOf (q.va i) fun off =>
              if q.bytes < 4 then (let v := ((q.laneData i).head?).getD LaneVal.zero; secStore off q.bytes v.val.toNat v.bnd)
              else secWords off (q.laneData i)
          x.done (((lanesOf x.perf).foldl put t).haulWindow q) id

/-! ### Atomics (R345, R346) -/

/-- Operand registers of an atomic: vB, and v(b + 1) for a compare-and-swap (R345). -/
def LaneRun.atomData (x : LaneRun) : List (Vector LaneVal 32) :=
  (List.range (if x.w.atomOp = 9 then 2 else 1)).map fun j =>
    let b : Src := { x.w.b with reg := x.w.b.reg + BitVec.ofNat 7 j }
    Vector.ofFn fun n => let r := x.c.srcX b n.val; ⟨r.1, r.2⟩

/-- A global lane atomic (R345): the release part waits, the acquire acts on arrival. -/
def laneAtomic (i : Instr) (kind : BitVec 4 → MemKind) (s : State) : Out :=
  laneGo i s fun x =>
    if x.perf = 0 then x.done s id
    else
      let q := { x.req s (kind x.w.atomOp) 4 x.c.addrGlobal with data := x.atomData, acq := acqOf x.w.atomOrd x.w.scope }
      x.issued s (s.issue q (relOf x.w.atomOrd x.w.scope) x.dest x.origin x.check) (·.emptyDest x.dest 1)

/-- ATOM (R345). -/
def execAtom (w : LaneWord) (s : State) : Out := laneAtomic (.atom w) (fun op => .atomic op false) s

/-- ATOMAGG (R346): the lanes of one address give what ATOM lane after lane would. -/
def execAtomagg (w : LaneWord) (s : State) : Out := laneAtomic (.atomagg w) .agg s

/-- One lane's atomic on a word seen with its bound: the old word, and the store where there is one (R345, R236). -/
def atomLane (op : Nat) (see : (Sector × Vector Bound 16) × Nat) (data : List LaneVal) : LaneVal × Option LaneVal :=
  let old : LaneVal := ⟨see.1.1.extractLsb' (8 * see.2) 32, (see.1.2[see.2 / 4]?).getD 0⟩
  let x := (data[0]?).getD LaneVal.zero
  let y := (data[1]?).getD LaneVal.zero
  let (v, b, st) := atom32 op old.val x.val y.val old.bnd x.bnd y.bnd
  (old, if st then some ⟨v, b⟩ else none)

/-- ATOMS: atomics on scratch, performed at the core in ascending slot order (R345, R200). -/
def execAtoms (w : LaneWord) (s : State) : Out :=
  laneGo (.atoms w) s fun x =>
    if x.perf = 0 then x.done s id
    else
      let q := { x.req s (.atomic w.atomOp false) 4 x.c.addrScratch with data := x.atomData, acq := acqOf w.atomOrd w.scope }
      match s.scratchFaults s.who.teamOf q with
      | some (c, i, m) => x.trap s c i m
      | none =>
        if s.acqPending s.who true || (match relOf w.atomOrd w.scope with | some sc => !s.released s.who sc | none => false) then waitOut s
        else
          let one (acc : State × List (Nat × LaneVal)) (i : Nat) : State × List (Nat × LaneVal) :=
            let (old, new) := atomLane w.atomOp.toNat (acc.1.scratchSee s.who.teamOf (q.va i)) (q.laneData i)
            let t := match new with
              | some v => acc.1.scratchPut s.who.teamOf (q.va i) fun off => secWords off [v]
              | none => acc.1
            (t, (i, old) :: acc.2)
          let (t, olds) := (lanesOf x.perf).foldl one (s, [])
          let words (i : Nat) : List LaneVal := [((olds.find? (·.1 == i)).map (·.2)).getD LaneVal.zero]
          let t := match q.acq with | some sc => t.acquireAt t.who sc.toNat | none => t
          x.done ((t.haulWindow q).late q x.dest x.origin x.check fun o => { o with words := putWords o.words x.perf words })
            (·.emptyDest x.dest 1)

/-! ### STREF (R207, R347) -/

/-- The id by which a peer answers a read of a header (08 R207). -/
def hdrId : Nat := 3

/-- Step 4 of R207: the reference stored at the word's home with its T bit; to a peer it is a plain store. The core's own
stores to the headers were read with them, and what peers sent of them has been used. -/
def State.refStore (s : State) (p : Party) (h : DWord) (w : Nat) (r : DWord) : State :=
  let va := (refWord h w).toNat
  let st (off : Nat) : SecStore := { secStore off 8 r.toNat 0 with tset := BitVec.ofNat 8 (2 ^ (off / 8)) }
  let s := (s.settleSector p h.toNat).settleSector p r.toNat
  match s.lookAt p va true with
  | .here pa => ((s.settleSector p va).homeStore (pa / 64) (st (pa % 64)) false).haul p (s.coreOf p) (dieOfHome (s.homeOf pa)) 8
  | .peer d pa => s.putStore (s.coreOf p) p (va / 64) (pa / 64) (some d) (st (pa % 64))
  | _ => s

/-- The headers of a lane that peers have sent are used up. -/
def State.dropHeaders (s : State) (q : MemReq) : State :=
  let secs := (lanesOf q.lanes).flatMap fun i => let (h, _, r) := q.refOf i; [h.toNat / 64, r.toNat / 64]
  s.updGrp q.party fun g => { g with hdrs := g.hdrs.filter fun e => !secs.contains e.1 }

/-- What the lanes of an STREF come to, in ascending order: those that pass are stored. -/
def State.doRefs (s : State) (q : MemReq) : State × List (Nat × RefResult) :=
  (lanesOf q.lanes).foldl (fun (acc : State × List (Nat × RefResult)) i =>
    let (h, w, r) := q.refOf i
    let res := acc.1.refCheck q.party h w r
    (if res = .store then acc.1.refStore q.party h w r else acc.1, acc.2 ++ [(i, res)])) (s, [])

/-- The lanes whose check came to something. -/
def refLanes (l : List (Nat × RefResult)) (f : RefResult → Bool) : Mask := maskOf fun i => l.any fun e => e.1 == i && f e.2

/-- The first cause of R253 among the lanes, with the information of the lowest with it, and its lanes. -/
def refFault (l : List (Nat × RefResult)) : Option (Nat × DWord × Mask) :=
  let pick (cause : Nat) (f : RefResult → Option DWord) : Option (Nat × DWord × Mask) :=
    (l.findSome? fun e => f e.2).map fun i => (cause, i, refLanes l fun r => (f r).isSome)
  let low (a : DWord) : DWord := (a.extractLsb' 0 57).setWidth 64
  (pick cMemerr fun r => match r with | .memerr a => some a | _ => none) <|>
    (pick cAlign fun r => match r with | .align a => some (low a) | _ => none) <|>
    (pick cAccess fun r => match r with | .access a => some (low a) | _ => none) <|>
    (pick cRmterr fun r => match r with | .rmterr i => some i | _ => none) <|>
    pick cEscape fun r => match r with | .escape i => some i | _ => none

/-- A header that lies at a peer asked for, behind what the core has buffered for its sector (02 R40). -/
def State.fetchHeader (s : State) (p : Party) (lane : Bool) (va : Nat) (d : BitVec 12) (pa : Nat) : State :=
  let core := s.coreOf p
  if s.peerBusy d pa then s
  else
    match s.buffered core p (va / 64) with
    | some e => s.drainEntry core e
    | none => (s.sendPeer d opRead (pa / 64 * 64) hdrId core p (va := va / 64 * 64) (lane := lane)).haul p core 6 64

/-- The first header that a peer has still to send for the lanes of an STREF asked for; none where none is needed. -/
def State.askHeader (s : State) (q : MemReq) : Option State :=
  (lanesOf q.lanes).findSome? fun i =>
    let (h, w, r) := q.refOf i
    match s.refCheck q.party h w r with
    | .away va d pa => some (s.fetchHeader q.party q.lane va d pa)
    | _ => none

/-- What issuing an STREF comes to: it waits, it traps with its stored lanes, or it has issued. -/
inductive RefIssue where
  | wait (s : State)
  | trap (s : State) (cause : Nat) (info : DWord) (lanes stored : Mask)
  | go (s : State)

/-- An STREF issues (R207, R347, 16 R387): every lane that passes its checks stores; the lanes whose page has no translation
take an operand-log entry where no other lane traps (R191, R192). -/
def State.issueRef (s : State) (q : MemReq) (rel : Option Nat) (origin : Origin) : RefIssue :=
  let miss := s.missLanes q
  if s.pageHeld q || s.acqPending q.party q.lane || (match rel with | some sc => !s.released q.party sc | none => false) then .wait s
  else
    match s.askHeader q with
    | some t => .wait t
    | none =>
      let (t, res) := s.doRefs q
      let t := t.dropHeaders q
      match refFault res with
      | some (c, i, m) => .trap t c i m (refLanes res (· == .store))
      | none =>
        if miss = 0 then .go t
        else if s.logFull (s.coreOf q.party) then .wait s
        else
          let q := { q with id := s.handles + 4 }
          let t := { t with handles := s.handles + 1 }.updGrp q.party fun g => { g with outst := g.outst ++ [outstOf s q .none origin none] }
          .go (t.logLanes q miss origin)

/-- STREF on lanes (R347). -/
def execLaneStref (w : LaneWord) (s : State) : Out :=
  laneGo (.laneStref w) s fun x =>
    let word (v : Nat → Word) : Vector LaneVal 32 := Vector.ofFn fun i => ⟨v i.val, 0⟩
    let r (i : Nat) : DWord := x.c.pair w.b i
    let off (i : Nat) : Word := if w.dst.toNat < 112 then (x.c.g.lane w.dst.toNat i).val else 0
    let q := { x.req s .ref 8 (x.c.pair w.a) with
                hint := 0, x := w.imm12.setWidth 64, data := [word off, word fun i => (r i).setWidth 32, word fun i => (r i).extractLsb' 32 32] }
    match s.issueRef q (laneRel w) x.origin with
    | .wait t => waitOut t
    | .trap t c i m stored => laneTrapOut t x.b x.pos x.q c i m (x.allRedo &&& ~~~stored) x.pairs []
    | .go t => x.done t id

/-! ### TLDA (R348, R205) -/

/-- The fault of lower rank: ALIGN before ACCESS (R253). -/
def firstFault (a b : Option (Nat × DWord × Mask)) : Option (Nat × DWord × Mask) :=
  match a, b with
  | some x, some y => if x.1 = cAccess ∧ y.1 = cAlign then b else a
  | none, b => b
  | a, none => a

/-- A sector as an attempt reads it: the core's own view, or what a peer has sent; the poison it consumes. -/
def State.tileSector (s : State) (q : MemReq) (i : Nat) (t : TileTry) : Option ((Sector × Vector Bound 16) × Option Nat) :=
  match q.peerOf i with
  | none => some (s.seeSector q i)
  | some _ => (t.got.find? (·.1 == q.va i / 64)).map fun e => (s.overBuffer (s.coreOf q.party) q.party (q.va i / 64) e.2, none)

/-- The first sector of a phase that a peer has still to send asked for; RMTERR where the peer is lost (02 R40, R48). -/
def State.askTile (s : State) (q : MemReq) (lanes : Mask) (t : TileTry) : Option (State × Option DWord) :=
  (lanesOf lanes).findSome? fun i =>
    match q.peerOf i, s.tileSector q i t with
    | some p, none =>
      if s.peerLost p then some (s, some (rmtLost p))
      else if s.peerBusy p (q.paOf i) then some (s, none)
      else
        match s.buffered (s.coreOf q.party) q.party (q.va i / 64) with
        | some e => some (s.drainEntry (s.coreOf q.party) e, none)
        | none => some ((s.sendPeer p opRead (q.paOf i / 64 * 64) q.id (s.coreOf q.party) q.party (va := q.va i) (lane := true)).haul q.party (s.coreOf q.party) 6 64, none)
    | _, _ => none

/-- What a phase of a TLDA comes to: it waits, it fails with RMTERR, or the loop goes on or ends. -/
inductive TileStep where
  | wait (s : State) (t : TileTry)
  | lost (s : State) (info : DWord)
  | go (s : State) (t : TileTry)
  | over (s : State) (t : TileTry) (fail : Bool)

/-- An attempt has failed; after 64 the loop ends (R205). -/
def TileTry.failed (t : TileTry) (s : State) : TileStep :=
  let u := { t with fails := t.fails + 1, v1 := none, words := none, last := t.words <|> t.last, got := [] }
  if 64 ≤ u.fails then .over s u true else .wait s u

/-- One phase of the loop of R205: the version, an odd one being a failed attempt; the tile, after which the acquire fence; the
version again. Poison that a read consumes ends the loop (11 R261). -/
def State.tilePhase (s : State) (t : TileTry) : TileStep :=
  let scope := (t.q.acq.getD 0).toNat
  let first := match t.v1, t.words with | some _, none => false | _, _ => true
  let n := lowestLane t.q.lanes
  let r := s.placed (if first then t.qv else t.q)
  match s.askTile r (if first then 1 <<< n else r.lanes) t with
  | some (s, some info) => .lost s info
  | some (s, none) => .wait s t
  | none =>
    let see (i : Nat) : (Sector × Vector Bound 16) × Option Nat := (s.tileSector r i t).getD ((0, Vector.replicate 16 0), none)
    let lanes := if first then [n] else lanesOf r.lanes
    let ver : DWord := (see n).1.1.extractLsb' (8 * (t.qv.va n % 64)) 64
    let t := { t with got := [], poison := t.poison <|> lanes.findSome? fun i => (see i).2 }
    let s := lanes.foldl (fun s i => if (r.peerOf i).isSome then s else s.haulSector r.party (s.coreOf r.party) (r.paOf i)) (s.acquireAt r.party scope)
    if t.poison.isSome then .over s t true
    else
      match t.v1, t.words with
      | none, _ => if ver.getLsbD 0 then t.failed s else .go s { t with v1 := some ver }
      | some _, none =>
        let words := putWords (List.replicate (widthRegs r.width) (Vector.replicate 32 LaneVal.zero)) r.lanes fun i => loadWords r.width (see i).1 (r.va i % 64)
        .go s { t with words := some words }
      | some v, some _ => if ver = v then .over s t false else t.failed s

/-- Phases until one waits or the loop ends. -/
def State.tileLoop (s : State) (t : TileTry) : Nat → TileStep
  | 0 => .wait s t
  | n + 1 => match s.tilePhase t with | .go s t => s.tileLoop t n | r => r

/-- The loop of a TLDA goes on by one attempt: what it holds is kept, or its result is there (R348). A loop that fails having
read nothing leaves values that the spec does not state, free (log 13). -/
def State.tileTurn (s : State) (t : TileTry) : State :=
  let p := t.q.party
  let put (s : State) (u : List TileTry) : State := s.updGrp p fun g => { g with tiles := g.tiles.flatMap fun x => if x.q.id = t.q.id then u else [x] }
  match s.tileLoop t 3 with
  | .wait s u => put s [u]
  | .go s u => put s [u]
  | .lost s i => (put s []).updGrp p fun g => g.updOutst t.q.id fun o => { o with rmt := some (i, t.q.lanes) }
  | .over s u fail =>
    let free : List (Vector LaneVal 32) := (List.range (widthRegs t.q.width)).map fun j =>
      Vector.ofFn fun i => ⟨Config.freeWord (s.fresh + 8 * i.val + j), freeBound (s.fresh + 4 + 8 * i.val + j)⟩
    let words := ((if fail then u.last else u.words).getD free)
    ((put s []).updGrp p fun g => g.updOutst t.q.id fun o =>
      { o with words := words, lanes := t.q.lanes, poison := u.poison, pred := o.pred.map fun e => (e.1, fail), free := o.free ||| s.saveLanes t.q t.q.lanes }).bumpBy 512

/-- TLDA: a tile read under its version word (R348, R205). The loop runs once every page it reads has a translation; its
destinations stay empty until it ends, and a word that uses its failure predicate waits as long. -/
def execTlda (w : LaneWord) (s : State) : Out :=
  laneGo (.tlda w) s fun x =>
    if x.perf = 0 then x.done s id
    else
      let v := x.c.kBase + w.imm12.signExtend 64
      let id := s.handles + 4
      let q := { x.req s .load (widthBytes w.width) (fun i => v + 8 + ((x.c.srcX w.a i).1.signExtend 64 <<< w.osc.toNat)) with acq := some w.scope, id := id }
      let qv := { x.req s .load 8 (fun _ => v) with acq := some w.scope, id := id }
      let log := { q with kind := .tile, x := v }
      match firstFault (s.addrFault qv) (s.addrFault q) with
      | some (c, i, m) => x.trap s c i m
      | none =>
        let miss := s.missLanes log
        if s.pageHeld q || s.pageHeld qv || s.acqPending s.who true || (miss != 0 && s.logFull (s.coreOf s.who)) then waitOut s
        else
          let o := { outstOf s q x.dest x.origin x.check with lanes := 0, pred := some (w.b.bits.toNat % 8, false) }
          let t : TileTry := { q := q, qv := qv, fails := 0, v1 := none, words := none, last := none, poison := none, got := [] }
          let s := { s with handles := s.handles + 1 }.updCur fun g => { g with outst := g.outst ++ [o], tiles := g.tiles ++ [t] }
          x.done (s.logLanes log miss x.origin) (·.emptyDest x.dest (widthRegs w.width))

end Sys2Proof.Machine
end

