-- ==== Sys2Proof/Machine/Matrix.lean ====
section
/-! DEFINITION. The matrix sequencer: MLOOP, MGANG, MREADY, MWAIT, MZERO, MOUT, MLDC, the K-step and its bounds, the CB3 tables,
gang shares and the stores of an MOUT (06 R147-R159, R163, R164; 08 R204, R205; 10 R247-R249; 16 R365-R374). -/

namespace Sys2Proof.Machine

/-! ### Parameter blocks (Tables 16-4, 16-5) -/

/-- MLOOP's or MGANG's block. -/
def State.loopOf (s : State) (a : SNum) : LoopParams :=
  let w := s.par a 0
  let x := s.par a 1
  let reg := w.getLsbD 30
  { m := fieldN w 4 6 + 1, n := fieldN w 10 6 + 1, sp := w.getLsbD 16, tag := if w.getLsbD 17 then some (w.extractLsb' 18 12) else none,
    asrcReg := reg, kn := fieldN w 32 32, abase := if reg then 0 else fieldN x 0 25, astride := if reg then 0 else fieldN x 25 20,
    vbase := if reg then fieldN x 0 7 else 0, ga := if reg then (x.extractLsb' 7 4).toFin else 0, gb := if reg then (x.extractLsb' 11 4).toFin else 0,
    ascl := fieldN (s.par a 2) 0 25, cmask := (s.par a 2).extractLsb' 32 16, bimg := s.par a 3, bstride := fieldN (s.par a 4) 0 32,
    tbl := s.par a 5, evoff := 0 }

/-- A legal class of Table 6-4. -/
def classOk (ma mb : Nat) : Bool :=
  ((ma == 1 || ma == 2) && (mb == 1 || mb == 2 || mb == 14)) || (3 ≤ ma && ma ≤ 6 && 3 ≤ mb && mb ≤ 6) ||
    ((ma == 10 || ma == 11) && (mb == 10 || mb == 11)) || (ma == 7 && mb == 7)

/-- A formats that carry a scale plane (R223). -/
def scaledFmt (f : Nat) : Bool := 3 ≤ f && f ≤ 7

/-- FEATURE of a loop (R10, R148): the codebook path, 2:4 sparsity. -/
def State.loopFeature (s : State) (p : LoopParams) : Option Nat :=
  if fmtMB s.cur.fmt = 14 ∧ ¬ s.feature 2 then some 2 else if p.sp ∧ ¬ s.feature 3 then some 3 else none

/-- ILLFLD of a loop's block (R366). -/
def State.loopIll (s : State) (a : SNum) (p : LoopParams) : Bool :=
  let ma := fmtMA s.cur.fmt
  let mb := fmtMB s.cur.fmt
  let w := s.par a 0
  let x := s.par a 1
  let words := ceilDiv p.kn (fmtElems ma)
  !classOk ma mb || (p.sp && mb == 14) || w.getLsbD 31 || (!w.getLsbD 17 && fieldN w 18 12 != 0) || p.kn == 0 || p.kn % p.ppos s.cur.fmt != 0 ||
    fieldN (s.par a 2) 25 7 != 0 || fieldN (s.par a 2) 48 16 != 0 || fieldN (s.par a 4) 32 32 != 0 || p.bstride % 64 != 0 ||
    (p.ascl != 0 && !scaledFmt ma) || (p.tbl != 0 && mb != 14) || 2 ^ (s.grid s.curTeam.grid).ngrp ≤ p.cmask.toNat ||
    (if p.asrcReg then
      fieldN x 15 49 != 0 || s.cur.nreg < p.vbase + words || !p.cmask.getLsbD p.ga.val ||
        (if 32 < p.m then p.gb == p.ga || !p.cmask.getLsbD p.gb.val else p.gb != 0)
     else fieldN x 45 19 != 0)

/-- ALIGN of a loop's block (R411). -/
def LoopParams.aligns (p : LoopParams) : List (Option (Nat × DWord)) :=
  [alignCheck (BitVec.ofNat 64 p.abase) 4, alignCheck (BitVec.ofNat 64 p.astride) 4, alignCheck p.bimg 64, alignCheck p.tbl 64]

/-- ACCESS of a loop's block (R151, R366, R411). -/
def State.loopAccess (s : State) (p : LoopParams) : List (Option (Nat × DWord)) :=
  let ma := fmtMA s.cur.fmt
  let top := (s.grid s.curTeam.grid).scrBytes
  [check (!p.asrcReg && top < p.abase + (p.m - 1) * p.astride + 4 * ceilDiv p.kn (fmtElems ma)) cAccess (BitVec.ofNat 64 p.abase),
    check (scaledFmt ma && top < p.ascl + p.m * 2 * ceilDiv p.kn 32) cAccess (BitVec.ofNat 64 p.ascl), globalCheck p.bimg, globalCheck p.tbl]

/-- ACCESS of a loop's streams: an address of the fallback image, where the loop misses, or of the table plane whose
translation is held and that does not exist (01 R20). -/
def State.streamAccess (s : State) (p : LoopParams) : List (Option (Nat × DWord)) :=
  let fmt := s.cur.fmt
  let col := (columnOf (fmtMB fmt) p.sp (32 * ceilDiv p.kn 32)).size
  let bad := (if (s.dirHit (s.coreOf s.who) p fmt).isSome then none
      else s.absentRow s.who p.n col (fun j => (p.bimg.toNat + j * p.bstride : Nat)) false) <|>
    (if fmtMB fmt = 14 then s.absent s.who p.tbl.toNat (1024 * ceilDiv p.kn 128) false else none)
  [bad.map fun a => (cAccess, BitVec.ofNat 64 (a % 2 ^ 57))]

/-- ACCSLOT (R147). -/
def State.slotCheck (s : State) (slot : Nat) : Option (Nat × DWord) :=
  check (s.curTeam.accMap.length ≤ slot) cAccslot (BitVec.ofNat 64 slot)

/-- WSPHASE of a loop at issue (R154, R367). -/
def State.phaseCheck (s : State) (p : LoopParams) : Option (Nat × DWord) :=
  check (s.curCore.wphase.isSome && (s.dirHit (s.coreOf s.who) p s.cur.fmt).isSome) cWsphase ((p.tag.getD 0).setWidth 64)

/-- The queue of a core's sequencer has room (R365). -/
def Core.seqRoom (c : Core) : Bool := c.seq.length < Config.seqQueue

/-- A command of the executing group, not started. -/
def State.seqCmd (s : State) (onTeam slot : Nat) (kind : SeqKind) : SeqCmd where
  id := s.handles + 4
  team := s.who.teamOf
  gid := s.who.gidOf
  onTeam := onTeam
  slot := slot
  kind := kind
  fmt := s.cur.fmt
  alw := s.cur.alw
  started := false
  hit := none
  step := 0
  tables := []
  tableStall := none
  bankStall := none
  snaps := []
  reads := []
  seen := []
  locked := none
  rows := 0
  tile := []

/-- A command put into the queue of its own core, or waiting for room (R365). -/
def State.queueCmd (s : State) (slot : Nat) (kind : SeqKind) : Out :=
  if !s.curCore.seqRoom then waitOut s
  else doneAt ({ s with handles := s.handles + 1 }.updCore (s.coreOf s.who) fun c => { c with seq := c.seq ++ [s.seqCmd s.who.teamOf slot kind] })

/-! ### MLOOP and MGANG (R366-R368) -/

/-- The checks of a loop that need the format register alone: FEATURE of the codebook path and an illegal class (R253, R366). -/
def State.formatChecks (s : State) (i : Instr) : List (Option (Nat × DWord)) :=
  [check (fmtMB s.cur.fmt == 14 && !s.feature 2) cFeature 2, check (!classOk (fmtMA s.cur.fmt) (fmtMB s.cur.fmt)) cIllfld (opInfo i)]

/-- MLOOP (R366, R367). -/
def execMloop (a : SNum) (s : State) : Out :=
  commandOp (.mloop a) (blockRegs a 6) [] (fun s =>
      let p := s.loopOf a
      [check (s.loopFeature p).isSome cFeature (BitVec.ofNat 64 ((s.loopFeature p).getD 0)), check (s.loopIll a p) cIllfld (opInfo (.mloop a)),
        s.slotCheck (fieldN (s.par a 0) 0 4), s.phaseCheck p] ++ p.aligns ++ s.loopAccess p ++ s.streamAccess p)
    (fun s => s.queueCmd (fieldN (s.par a 0) 0 4) (.loop (s.loopOf a))) s (s.formatChecks (.mloop a))

/-- Teams of the cluster that a member mask names. -/
def State.members (s : State) (m : DWord) : List Nat := (s.curTeam.cluster.zipIdx.filter fun e => m.getLsbD e.2).map (·.1)

/-- MGANG (R163, R368): a share enters every member's queue at once; that of a member team which has ended stays there and never
starts, a DESIGN CHOICE (log 45), the spec says nothing of such a member. -/
def execMgang (a b : SNum) (s : State) : Out :=
  commandOp (.mgang a b) (blockRegs a 7 ++ [b]) [] (fun s =>
      let p := s.loopOf a
      let ev := s.par a 6
      [check (s.loopFeature p).isSome cFeature (BitVec.ofNat 64 ((s.loopFeature p).getD 0)),
        check (s.loopIll a p || p.asrcReg || p.cmask != 0 || !zeroAbove ev 19 || !zeroAbove (s.rs b) 12) cIllfld (opInfo (.mgang a b)),
        s.slotCheck (fieldN (s.par a 0) 0 4)] ++ p.aligns ++ [alignCheck ev 8] ++ s.loopAccess p ++ s.streamAccess p ++
        [s.ownCheck ev.toNat 8, check (s.badMembers (s.rs b) != 0) cMcflt (s.badMembers (s.rs b))])
    (fun s =>
      let ms := s.members (s.rs b)
      if ms.isEmpty then doneAt s
      else if ms.any (fun h => !(s.core (s.team h).core).seqRoom) then waitOut s
      else
        let id := s.handles + 4
        let slot := fieldN (s.par a 0) 0 4
        let p := { s.loopOf a with evoff := (s.par a 6).toNat }
        let g : Gang := { team := s.who.teamOf, gid := s.who.gidOf, slot := slot, members := ms, pending := ms, evoff := p.evoff, faults := [] }
        let cmd (h : Nat) : SeqCmd := s.seqCmd h slot (.share id p)
        let t := { s with handles := s.handles + 1, gangs := KMap.ins s.gangs id g }
        doneAt (ms.foldl (fun t h => t.updCore (t.team h).core fun c => { c with seq := c.seq ++ [cmd h] }) t)) s (s.formatChecks (.mgang a b))

/-! ### MREADY (R369, R204) -/

/-- What two tokens have seen written. -/
def Touched.union (a b : Touched) : Touched where
  regs := b.regs.foldl (fun m e => KMap.set 0 m e.1 (KMap.get 0 m e.1 ||| e.2)) a.regs
  words := a.words ++ b.words.filter fun w => !a.words.contains w

/-- What a group has written goes to its tokens and to the loops that took them, and is watched anew (R204). -/
def State.watch (s : State) (h : Nat) (gid : Fin 16) : State :=
  let w := ((s.grp (.group h gid)).watched).getD ⟨[], []⟩
  let add (q : SeqCmd) : SeqCmd :=
    if q.onTeam = h then { q with snaps := q.snaps.map fun e => if e.1 = gid.val then (e.1, e.2.union w) else e } else q
  let t := s.team h
  let s := s.setTeam h { t with gangToken := t.gangToken.map fun e => if e.1 = gid then (e.1, e.2.union w) else e }
  let s := s.updCore t.core fun c => { c with seq := c.seq.map add, past := c.past.map add }
  s.updGrp (.group h gid) fun g => { g with ready := g.ready.map (·.union w), watched := some ⟨[], []⟩ }

/-- The group's earlier writes of vector registers have been made: no load result for one is on its way (R204). -/
def Group.vecsQuiet (g : Group) : Bool := g.outst.all fun o => match o.dest with | .vec _ => false | _ => true

/-- MREADY: the group's ready token; one that is set already stays as it is (R369). The release waits for results that are on
their way to the group's registers (R204). -/
def execMready (s : State) : Out :=
  scalarGate .mready s (
    if !s.released s.who 0 || !s.cur.vecsQuiet then waitOut s
    else if s.cur.ready.isSome then doneAt s
    else doneAt ((s.watch s.who.teamOf s.who.gidOf).updCur fun g => { g with ready := some ⟨[], []⟩ }))

/-- MREADY.gang: the team's gang token. -/
def execMreadyGang (s : State) : Out :=
  scalarGate .mreadyGang s (
    if !s.released s.who 0 || !s.cur.vecsQuiet then waitOut s
    else if s.curTeam.gangToken.isSome then doneAt s
    else
      let t := s.watch s.who.teamOf s.who.gidOf
      doneAt (t.setTeam t.who.teamOf { t.curTeam with gangToken := some (t.who.gidOf, ⟨[], []⟩) }))

/-! ### Reading A (R151) -/

/-- One word of A: its value and bound, and whether a write raced with the loop (R204); an exited lane reads +0 with bound ∞. -/
structure AWord where
  val : Word
  bnd : Bound
  raced : Bool
deriving DecidableEq, Repr

/-- What the groups whose tokens the loop took have written since (R204). -/
def State.written (s : State) (q : SeqCmd) : KMap Touched :=
  q.snaps.map fun e => (e.1, match (s.grp (.group q.onTeam ⟨e.1 % 16, Nat.mod_lt _ (by decide)⟩)).watched with | some w => e.2.union w | none => e.2)

/-- A word of A in the team's scratch, at a scratch offset. -/
def State.aScratch (s : State) (q : SeqCmd) (off : Nat) : AWord :=
  let t := s.team q.onTeam
  let a := t.scrAddr off
  let c := s.core t.core
  { val := BitVec.ofNat 32 (readLE c.scratch a 4), bnd := mdBound (KMap.get 0 c.scrMeta (a / 64)) (a % 64 / 4),
    raced := (s.written q).any fun e => e.2.words.contains (wordKey t.core (a / 4)) }

/-- A word of A in a register of a contributing group. -/
def State.aRegister (s : State) (q : SeqCmd) (p : LoopParams) (i word : Nat) : AWord :=
  let gid := if i < 32 then p.ga else p.gb
  let g := s.grp (.group q.onTeam gid)
  let l := g.lane (p.vbase + word) (i % 32)
  if g.live.getLsbD (i % 32) then
    { val := l.val, bnd := l.bnd,
      raced := (s.written q).any fun e => e.1 == gid.val && (KMap.get 0 e.2.regs (p.vbase + word)).getLsbD (i % 32) }
  else { val := 0, bnd := bInf, raced := false }

/-- Word number `word` of row i of A. A word beyond the row, which only a sparse descriptor can name, is unpredictable. -/
def State.aWord (s : State) (q : SeqCmd) (p : LoopParams) (i word : Nat) : AWord :=
  if ceilDiv p.kn (fmtElems (fmtMA q.fmt)) ≤ word then { val := 0, bnd := bInf, raced := true }
  else if p.asrcReg then s.aRegister q p i word
  else s.aScratch q (p.abase + i * p.astride + 4 * word)

/-- The scale pair of position k of row i (R223, R366). -/
def State.aPair (s : State) (q : SeqCmd) (p : LoopParams) (i k : Nat) : Nat × Bool :=
  let off := p.ascl + i * 2 * ceilDiv p.kn 32 + 2 * (k / 32)
  let w := s.aScratch q off
  (fieldN w.val 0 16, w.raced || (s.aScratch q (off + 1)).raced)

/-- An element of A at position k of row i: its value after widening, its integer value, its bound, and whether it raced. -/
structure AElem where
  f : FVal
  n : Int
  bnd : Bound
  raced : Bool
deriving DecidableEq, Repr

def State.aElem (s : State) (q : SeqCmd) (p : LoopParams) (i k : Nat) : AElem :=
  let ma := fmtMA q.fmt
  let w := s.aWord q p i (k / fmtElems ma)
  let el := elem ma w.val (k % fmtElems ma)
  let pr := if scaledFmt ma then s.aPair q p i k else (127 * 256, false)
  { f := if scaledFmt ma then widenPair ma el pr.1 else decodeF (ffmt ma) el, n := elemI ma w.val (k % fmtElems ma), bnd := w.bnd,
    raced := w.raced || pr.2 }

/-! ### Reading B (R152, R157-R159) -/

/-- K extent that places the parts of a column (R152). -/
def SeqCmd.extent (q : SeqCmd) (p : LoopParams) : Nat := match q.hit with | some e => 32 * dirExt e | none => 32 * ceilDiv p.kn 32
def SeqCmd.column (q : SeqCmd) (p : LoopParams) : Column := columnOf (fmtMB q.fmt) p.sp (q.extent p)

/-- Stored values of one column that step t consumes. -/
def SeqCmd.stored (q : SeqCmd) (t : Nat) : List Nat := (List.range (stepK (fmtMB q.fmt))).map fun i => t * stepK (fmtMB q.fmt) + i

/-- Offset of the 32-bit word (the word triple for CB3) that holds a stored value, and its bytes (R157, R214). -/
def bWordAt (mb n : Nat) : Nat × Nat := if mb = 14 then (64 + 12 * (n / 32), 12) else (64 + 4 * (n / fmtElems mb), 4)

/-- What step t reads of a column: offsets and lengths (Table 6-5). -/
def SeqCmd.needs (q : SeqCmd) (p : LoopParams) (t : Nat) : List (Nat × Nat) :=
  let mb := fmtMB q.fmt
  let c := q.column p
  [(0, 2)] ++ (q.stored t).flatMap fun n =>
    [bWordAt mb n] ++ (if scaledFmt mb then [(c.scales + 2 * (n / 32), 2)] else []) ++ (if p.sp then [(c.sparse + n / 4, 1)] else [])

/-- Virtual address of a byte of a column of the fallback image (R152). -/
def LoopParams.colVa (p : LoopParams) (j off : Nat) : Nat := p.bimg.toNat + j * p.bstride + off

/-- Virtual sectors that step t reads of the fallback image. -/
def SeqCmd.sectors (q : SeqCmd) (p : LoopParams) (t : Nat) : List Nat :=
  if q.hit.isSome then [] else (((List.range p.n).flatMap fun j => (q.needs p t).flatMap fun e => codeSectors (p.colVa j e.1) e.2)).dedup

/-- Units of the weight store that step t reads. -/
def SeqCmd.units (q : SeqCmd) (p : LoopParams) (t : Nat) : List Nat :=
  match q.hit with
  | none => []
  | some e => ((List.range p.n).flatMap fun j => (q.needs p t).flatMap fun x => codeSectors (Config.sliceBytes * j + 64 * dirOff e + x.1) x.2).dedup

/-- n bytes of column j, as a number. -/
def State.bRead (s : State) (q : SeqCmd) (p : LoopParams) (see : Nat → Sector) (j off n : Nat) : Nat :=
  match q.hit with
  | some e => readLE (s.core (s.team q.onTeam).core).wstore (Config.sliceBytes * j + 64 * dirOff e + off) n
  | none => leBytes ((List.range n).map fun i => let a := p.colVa j (off + i); (see (a / 64)).byte (a % 64))

/-- A B value of a column: its value after widening, its integer value, and the A position that it multiplies. -/
structure BElem where
  f : FVal
  n : Int
  pos : Nat
deriving DecidableEq, Repr

/-- Stored value n of column j (R149, R157, R159). -/
def State.bElem (s : State) (q : SeqCmd) (p : LoopParams) (see : Nat → Sector) (j n : Nat) : BElem :=
  let mb := fmtMB q.fmt
  let c := q.column p
  let w := bWordAt mb n
  let pos := if p.sp then 4 * (n / 2) + (s.bRead q p see j (c.sparse + n / 4) 1 / 2 ^ (4 * (n / 2 % 2) + 2 * (n % 2))) % 4 else n
  let raw := s.bRead q p see j w.1 w.2
  if mb = 14 then
    let index := raw / 2 ^ (3 * (n % 32)) % 8
    let tab := KMap.get [] q.tables (n / 128)
    { f := decodeF (ffmt 1) (leBytes ((tab.drop (16 * j + 2 * index)).take 2)), n := 0, pos := pos }
  else
    let el := elem mb (BitVec.ofNat 32 raw) (n % fmtElems mb)
    { f := if scaledFmt mb then widenPair mb el (s.bRead q p see j (c.scales + 2 * (n / 32)) 2) else decodeF (ffmt mb) el,
      n := elemI mb (BitVec.ofNat 32 raw) (n % fmtElems mb), pos := pos }

/-! ### The accumulator (R147) -/

/-- Physical slot of a team's slot. -/
def Team.accSlot (t : Team) (slot : Nat) : Nat := (t.accMap[slot]?).getD 0
def Core.accWord (c : Core) (ps i j : Nat) : Word := KMap.get 0 c.acc (4096 * ps + 64 * i + j)
def Core.rowBound (c : Core) (ps i : Nat) : Bound := KMap.get 0 c.accBnd (64 * ps + i)
/-- The first columns of a row written, with its bound. -/
def Core.setRow (c : Core) (ps i : Nat) (l : List Word) (b : Bound) : Core :=
  { c with acc := KMap.setRange 0 c.acc (4096 * ps + 64 * i) l, accBnd := KMap.set 0 c.accBnd (64 * ps + i) b }

/-! ### One row of a K-step (R149, R150, R247, R248) -/

/-- What a row's step is computed from: C, s, and the terms of the bound. -/
structure RowIn where
  c : List FVal
  s : List FVal
  rowb : Option Rat
  eps : Option Rat
deriving DecidableEq, Repr

/-- Largest magnitude of finite values. -/
def bigOf (l : List FVal) : Rat := l.foldl (fun m v => qmax m (qabs v.toRat)) 0
/-- Largest magnitude, ∞ where a value is not finite. -/
def magOf (l : List FVal) : Option Rat := if l.all FVal.isFinite then some (bigOf l) else none

/-- Row results under a unit: codes of FP32, their values, and ustep (R150, R247). A SHORT result that truncates to zero takes the
sign of x, a DESIGN CHOICE (log 45): the rule names a sign for a flushed subnormal alone. -/
def RowIn.trial (r : RowIn) (u : FUnit) : List FVal × Rat :=
  let big := bigOf (r.c ++ r.s)
  let e := floorLog2 big
  let one (x : FVal × FVal) : FVal × Rat :=
    let t := sumF false [x.1, x.2]
    match u, t with
    | .short, .num v =>
      if big = 0 then (t, 0)
      else
        let z := truncTz v (pow2 (e - 16))
        let y := if z = 0 then FVal.zero (decide (v < 0)) else roundF (ffmt 0) .rne false (.num z)
        match y with
        | .num w => if qabs w < pow2 (-126) then (.zero (decide (v < 0)), qabs w) else (y, 0)
        | y => (y, 0)
    | _, t => (roundF (ffmt 0) .rne false t, 0)
  let l := (r.c.zip r.s).map one
  let flushed : Rat := l.foldl (fun a x => a + x.2) 0
  (l.map (·.1), if big = 0 then 0 else match u with | .short => pow2 (e - 15) + flushed | _ => pow2 (e - 23))

/-- A row's new values and bound: the first unit of the matrix order whose bound the allowance admits (R248). -/
def RowIn.choose (r : RowIn) (a : Allow) : List Word × Bound :=
  let result (u : FUnit) : List FVal × Bound :=
    let (l, ust) := r.trial u
    let fin := (r.c ++ r.s ++ l).all FVal.isFinite
    (l, if fin then roundUpB16 (badd (badd r.rowb r.eps) (some ust)) else bInf)
  let accept (x : List FVal × Bound) : Bool :=
    let y := if x.1.all FVal.isFinite then some ((x.1.map fun v => qabs v.toRat).foldl qmin ((x.1.map fun v => qabs v.toRat).headD 0)) else none
    ble (bval x.2) (bmul (some (pow2 (-(a.head : Int)))) (limitOf a y))
  let rec go : List (FUnit × Bool) → List FVal × Bound
    | [] => result .full
    | (u, star) :: rest => let x := result u; if star || u == .full || accept x then x else go rest
  let x := go (matrixPolicy a.sel)
  (x.1.map fun v => BitVec.ofNat 32 (encodeF (ffmt 0) v), x.2)

/-- An integer row (R149): saturation makes the bound ∞. -/
def intRow (c : List Word) (s : List Int) (rowb eps : Option Rat) : List Word × Bound :=
  let r := (c.zip s).map fun x => x.1.toInt + x.2
  let sat := r.any fun v => v < -(2 ^ 31) || 2 ^ 31 - 1 < v
  (r.map fun v => BitVec.ofInt 32 (if v < -(2 ^ 31) then -(2 ^ 31) else if 2 ^ 31 - 1 < v then 2 ^ 31 - 1 else v),
    if sat then bInf else roundUpB16 (badd rowb eps))

/-- The per-row term of R247 without ustep. -/
def epsOf (k : Nat) (bA aMax bMax bB : Option Rat) : Option Rat :=
  bmul (some (k : Rat)) (badd (badd (bmul bA bMax) (bmul aMax bB)) (bmul bA bB))

/-- Free contents of a row (R7, R204): values by number, bound ∞. -/
def State.freeRow (s : State) (ps i n : Nat) (c : Core) : Core :=
  c.setRow ps i ((List.range n).map fun j => Config.freeWord (s.fresh + 64 * i + j)) bInf

/-- Rows of a slot made free. -/
def State.freeRows (s : State) (core ps : Nat) (rows : List Nat) (n : Nat) : State :=
  (s.updCore core fun c => rows.foldl (fun c i => s.freeRow ps i n c) c).bumpBy (if rows.isEmpty then 0 else 4096)

/-- The positions of A that a K-step multiplies, for its B values (R149, R159). -/
def State.stepReads (s : State) (q : SeqCmd) (p : LoopParams) (see : Nat → Sector) (t : Nat) : List Nat :=
  ((List.range p.n).flatMap fun j => (q.stored t).map fun n => (s.bElem q p see j n).pos).dedup

/-- Every row of one K-step, its B values given (R149): a row that raced gets free values. -/
def State.stepRows (s : State) (q : SeqCmd) (p : LoopParams) (see : Nat → Sector) (t : Nat) : State :=
  let team := s.team q.onTeam
  let ps := team.accSlot q.slot
  let core := team.core
  let mb := fmtMB q.fmt
  let cols := (List.range p.n).map fun j => (q.stored t).map fun n => s.bElem q p see j n
  let bB := (List.range p.n).foldl (fun m j => bmax m (bval (BitVec.ofNat 16 (s.bRead q p see j 0 2)))) (some 0)
  let int := isIntFmt mb
  let bMax : Option Rat := if int then some (cols.flatten.foldl (fun m b => qmax m (qabs (b.n : Rat))) 0) else magOf (cols.flatten.map (·.f))
  let row (s1 : State) (i : Nat) : State :=
    let a := cols.map fun col => col.map fun b => s.aElem q p i b.pos
    let all := a.flatten
    if all.any (·.raced) then s1.freeRows core ps [i] p.n
    else
      let bA := all.foldl (fun m x => bmax m (bval x.bnd)) (some 0)
      let aMax : Option Rat := if int then some (all.foldl (fun m x => qmax m (qabs (x.n : Rat))) 0) else magOf (all.map (·.f))
      let eps := epsOf (stepK mb) bA aMax bMax bB
      let c := s1.core core
      let old := (List.range p.n).map fun j => c.accWord ps i j
      let rb := bval (c.rowBound ps i)
      let (l, b) :=
        if int then intRow old ((a.zip cols).map fun x => ((x.1.zip x.2).map fun y => y.1.n * y.2.n).foldl (· + ·) 0) rb eps
        else RowIn.choose
          { c := old.map fun w => decodeF (ffmt 0) w.toNat, s := (a.zip cols).map fun x => sumF false ((x.1.zip x.2).map fun y => y.1.f.mul y.2.f),
            rowb := rb, eps := eps } (allow q.alw)
      s1.updCore core fun c => c.setRow ps i l b
  (List.range p.m).foldl row s

/-! ### Running a loop (R155-R160, R367) -/

/-- The command that the sequencer performs: an MOUT that has read its slot holds nothing behind it (R365). -/
def Core.headCmd (c : Core) : Option SeqCmd := c.seq.find? fun q => !(q.started && match q.kind with | .mout _ => true | _ => false)
/-- A command of a core's queue changed. -/
def State.setCmd (s : State) (core : Nat) (q : SeqCmd) : State :=
  s.updCore core fun c => { c with seq := c.seq.map fun x => if x.id = q.id ∧ x.onTeam = q.onTeam then q else x }
/-- The operand-log entry for the rows that an output has still to store (R372). -/
def SeqCmd.logs (q : SeqCmd) (e : LogEntry) : Bool := e.req.kind == .rows && e.req.id == q.id
/-- A command removed from a core's queue, with its operand-log entry. -/
def State.dropCmd (s : State) (core : Nat) (q : SeqCmd) : State :=
  s.updCore core fun c => { c with seq := c.seq.filter (fun x => !(x.id == q.id && x.onTeam == q.onTeam)), olog := c.olog.filter (!q.logs ·) }
/-- The team whose core performs a command is not halted (R107). -/
def State.cmdRuns (s : State) (q : SeqCmd) : Bool := (s.team q.onTeam).life == .running

/-- A loop's parameters. -/
def SeqCmd.params (q : SeqCmd) : Option LoopParams := match q.kind with | .loop p => some p | .share _ p => some p | _ => none

/-- Issuing group changed. -/
def State.updIssuer (s : State) (q : SeqCmd) (f : Group → Group) : State := s.updGrp (.group q.team q.gid) f

/-- A command is over: it leaves the queue, with a trap for the MWAIT where it stopped (R370); a share reports to its gang (R164).
ACCESS of an address that does not exist belongs to the instruction and ends its team, at once since MWAIT reports none (01 R20;
log 46). -/
def State.endCmd (s : State) (core : Nat) (q : SeqCmd) (fault : Option (Nat × DWord)) : State :=
  let s := s.dropCmd core q
  let p : Party := .group q.team q.gid
  let dead (t : State) : State :=
    match fault with
    | some (c, i) => if c = cAccess ∧ (t.team q.team).life = .running then (t.noteCause p c i).fatalEnd p c else t
    | none => t
  dead <|
  let s := match q.kind with | .mout _ => s | _ => s.updCore core fun c => { c with past := c.past ++ [q] }
  match q.kind with
  | .share gang _ =>
    let cc (cause : Nat) : DWord := if cause = cXlate ∨ cause = cWsphase then BitVec.ofNat 64 ((s.team q.onTeam).cc * 2 ^ 32) else 0
    let upd (g : Gang) : Gang :=
      { g with pending := g.pending.filter (· != q.onTeam), faults := g.faults ++ (fault.map fun e => (BitVec.ofNat 8 e.1, e.2 ||| cc e.1)).toList }
    { s with gangs := s.gangs.map fun e => if e.1 = gang then (e.1, upd e.2) else e }
  | _ =>
    match fault with
    | none => s
    | some (c, i) => s.updIssuer q fun g => { g with seqFaults := g.seqFaults ++ [⟨q.id, q.slot, BitVec.ofNat 8 c, i⟩] }

/-- 1 and the stalled cycles added to a stall counter, both halves saturating (R158, R160). -/
def countStall (v : DWord) (cycles : Nat) : DWord :=
  BitVec.ofNat 64 (min (fieldN v 0 32 + 1) (2 ^ 32 - 1) + 2 ^ 32 * min (fieldN v 32 32 + cycles) (2 ^ 32 - 1))

/-- A bank of the core's weight store is busy now (R160, R161). -/
def State.bankBusy (s : State) (core bank : Nat) : Bool :=
  s.refreshing core || autoBusy (s.wrschedOf core) (s.coreCyc core) bank

/-- Cycles until the bank is free (R160, R161). -/
def State.bankCycles (s : State) (core : Nat) : Nat :=
  let c := (s.coreCyc core).toNat
  if s.refreshing core then (((s.core core).rfshEnd).getD 0).toNat - c else 96 - (c - (s.wrschedOf core).toNat) % 512

/-- Expert counters of a step (R156): only the issuing core counts the invocation, so that a gang whose issuing core is no member of
its mask counts none, a DESIGN CHOICE (log 45): the spec says nothing of such a gang. -/
def State.countExpert (s : State) (q : SeqCmd) (p : LoopParams) : State :=
  match p.tag with
  | none => s
  | some tag =>
    let dn := dieOfCore (s.team q.onTeam).core
    let d := s.die dn
    let c := KMap.get (0, 0) d.experts tag.toNat
    let inv : DWord := if q.step = 0 ∧ q.onTeam = q.team then 1 else 0
    s.setDie dn { d with experts := KMap.set (0, 0) d.experts tag.toNat (c.1 + inv, c.2 + BitVec.ofNat 64 p.m) }

/-- The sectors of the fallback stream: each is at its home with the group's stores before it (R155), or not there yet. -/
inductive Stream' where
  | ask (va : Nat)
  | wait
  | sent (s : State)
  | stop (cause : Nat) (info : DWord)
  | ok (s : State) (see : Nat → Sector)

/-- Sectors of global memory read as a copy of the command's group reads them; the save area reads unpredictably (05 R128). -/
def State.streamRead (s : State) (p : Party) (core : Nat) : List Nat → Stream'
  | [] => .ok s fun _ => 0
  | sec :: rest =>
    let got (s : State) (x : Sector) : Stream' :=
      match s.streamRead p core rest with
      | .ok t see => .ok t fun n => if n = sec then x else see n
      | r => r
    match s.lookAt p (64 * sec) false with
    | .miss => .ask (64 * sec)
    | .bad => .stop cAccess (BitVec.ofNat 64 (64 * sec % 2 ^ 57))
    | .peer d pa =>
      if s.inSave p (64 * sec) then got (s.bumpBy 16) (freeSector s.fresh).1
      else
      match s.inL1 core p sec with
      | some l => got s l.data
      | none =>
        if s.peerLost d then .stop cRmterr (rmtLost d)
        else if s.peerBusy d pa then .wait
        else
          match s.buffered core p sec with
          | some e => .sent (s.drainEntry core e)
          | none => .sent ((s.sendPeer d opRead (pa / 64 * 64) paramId core p (va := 64 * sec) (lane := true)).haul p core 6 64)
    | .here pa =>
      let t := ((s.settleSector p (64 * sec)).fillFor core (s.pasidOf p) (64 * sec) false).haulSector p core pa
      if s.inSave p (64 * sec) then got (t.bumpBy 16) (freeSector t.fresh).1
      else if t.poison.contains (pa / 64) then .stop cMemerr (BitVec.ofNat 64 pa) else got t (readSector t.mem (pa / 64))

/-- The step is performed (R149, R156); a loop whose last step it was is complete (R370). -/
def State.performStep (s : State) (core : Nat) (q : SeqCmd) (p : LoopParams) (see : Nat → Sector) : State :=
  let reads := s.stepReads q p see q.step
  let s := ((s.stepRows q p see q.step).countExpert q p)
  let q := { q with step := q.step + 1, reads := q.reads ++ reads.filter fun k => !q.reads.contains k }
  if p.kn / p.ppos q.fmt ≤ q.step then s.endCmd core q none else s.setCmd core q

/-- The table that the step needs (R158). -/
def SeqCmd.tableOf (q : SeqCmd) (p : LoopParams) : Nat := q.step * p.ppos q.fmt / 128

/-- The cycles so far of a stall at a busy bank that began at a cycle and was to end at another: an RFSH issued meanwhile keeps the
array waiting (R160, R161, R165). -/
def State.bankWaited (s : State) (core since till : Nat) : Nat :=
  let r := match (s.core core).rfshEnd with | some e => e.toNat | none => (s.core core).wrsched.toNat - 65536
  min (if till < r ∧ r ≤ till + 1536 then r else till) (s.coreCyc core).toNat - since

/-- The stalls of a step begin and end (R158, R160, R165): the array waits for a late table and for a busy bank at once, and
each wait has its own count. -/
def State.stallStep (s : State) (core : Nat) (q : SeqCmd) (late busy : Bool) : State :=
  let now := (s.coreCyc core).toNat
  let s := match q.bankStall with
    | some (since, till) => if busy then s else s.updIssuer q fun g => { g with wrstall := countStall g.wrstall (s.bankWaited core since till) }
    | none => s
  s.setCmd core { q with
    tableStall := if late && q.tableStall.isNone then some s.time else q.tableStall
    bankStall := if !busy then none else if q.bankStall.isNone then some (now, now + s.bankCycles core) else q.bankStall }

/-- A unit of the weight store holds an uncorrectable error, found by a scrub or not (R155, R162). -/
def State.unitBad (s : State) (core u : Nat) : Bool := (s.core core).wpoison.contains u || s.env.wfaults.contains (core, u)

/-- K_STEP: the loop at the head performs its next step, or its stalls begin (R149, R155, R158, R160). A unit of the weight store has
no physical address: its MEMERR gives 0 for one, a DESIGN CHOICE (log 45). -/
def execKStep (core : Nat) (s : State) : Out :=
  match (s.core core).headCmd with
  | none => notNow s
  | some q =>
    match q.params with
    | none => notNow s
    | some p =>
      if !q.started || !s.cmdRuns q then notNow s
      else
        let units := q.units p q.step
        let late := fmtMB q.fmt == 14 && !q.tables.any (fun e => e.1 == q.tableOf p)
        let busy := units.any fun u => s.bankBusy core (u % 6144 % 16)
        if (late && q.tableStall.isNone) || (busy && q.bankStall.isNone) || (!busy && q.bankStall.isSome) then .next (s.stallStep core q late busy)
        else if late || busy then notNow s
        else
          let party : Party := .group q.onTeam q.gid
          if units.any (s.unitBad core) then .next (s.endCmd core q (some (cMemerr, 0)))
          else
            match { s with who := party }.streamRead party core (q.sectors p q.step) with
            | .ask va =>
              if s.asked (dieOfCore core) (s.pasidOf party) va false false then notNow s
              else .next (s.askEngine (dieOfCore core) (s.pasidOf party) va false)
            | .wait => notNow s
            | .sent t => .next t
            | .stop c i => .next (s.endCmd core q (some (c, i)))
            | .ok t see => .next (t.performStep core q p see)

/-- The next block of the table plane that may be fetched: two slots, and a slot is free once its block's last step is done (R158). -/
def SeqCmd.nextTable (q : SeqCmd) (p : LoopParams) : Option Nat :=
  let b := match q.tables.getLast? with | some e => e.1 + 1 | none => 0
  if ceilDiv p.kn 128 ≤ b ∨ (2 ≤ b ∧ q.step * p.ppos q.fmt < 128 * (b - 1)) then none else some b

/-- CB3_TABLE_ARRIVAL: a block of the codebook tables is in its slot; a stall of the sequencer at it ends (R158). -/
def execCb3TableArrival (core : Nat) (s : State) : Out :=
  match (s.core core).headCmd with
  | none => notNow s
  | some q =>
    match q.params with
    | none => notNow s
    | some p =>
      match q.nextTable p with
      | none => notNow s
      | some b =>
        let party : Party := .group q.onTeam q.gid
        if fmtMB q.fmt ≠ 14 ∨ ¬ q.started ∨ ¬ s.cmdRuns q then notNow s
        else
          let va := p.tbl.toNat + 1024 * b
          match { s with who := party }.streamRead party core (codeSectors va 1024) with
          | .ask va =>
            if s.asked (dieOfCore core) (s.pasidOf party) va false false then notNow s
            else .next (s.askEngine (dieOfCore core) (s.pasidOf party) va false)
          | .wait => notNow s
          | .sent t => .next t
          | .stop c i => .next (s.endCmd core q (some (c, i)))
          | .ok t see =>
            let bytes := (List.range 1024).map fun i => (see ((va + i) / 64)).byte ((va + i) % 64)
            let t := match q.tableStall with
              | none => t
              | some t0 => t.updIssuer q fun g => { g with cbstall := countStall g.cbstall (t.time - t0) }
            .next (t.setCmd core { q with tableStall := none, tables := (q.tables.filter fun e => b ≤ e.1 + 1) ++ [(b, bytes)] })

/-! ### Starting a command (R365, R367-R369, R372) -/

/-- A share of a complete gang that a group of its team has observed by an acquire: the slot is the group's (19 R406). -/
def SeqCmd.settledFor (x : SeqCmd) (team gid : Nat) : Bool := x.onTeam == team && x.seen.contains gid

/-- A loop or share of another command on the slot has not been waited for, so the slot it reads is unpredictable (R204), unless
the group has observed its gang (19 R406). -/
def Core.slotOpen (c : Core) (q : SeqCmd) : Bool :=
  c.past.any fun x => x.onTeam == q.onTeam && x.slot == q.slot && x.params.isSome && !x.settledFor q.team q.gid.val

/-- A loop starts: its path is decided, and a slot that it may not read yet holds free values (R154, R204, R367). WSPHASE of
a loop is a check at issue (R367): an expert loop that a directory entry written since then lets hit reads the store, in
weight phase too, which is a DESIGN CHOICE (log 45). -/
def State.startLoop (s : State) (core : Nat) (q : SeqCmd) (p : LoopParams) (snaps : KMap Touched) : State :=
  let s := if (s.core core).slotOpen q then s.freeRows core ((s.team q.onTeam).accSlot q.slot) (List.range p.m) p.n else s
  s.setCmd core { q with started := true, hit := s.dirHit core p q.fmt, snaps := snaps }

/-- MZERO performed: +0 in every element, row bounds exact (R371). -/
def State.zeroSlot (s : State) (core ps : Nat) : State :=
  s.updCore core fun c => (List.range 64).foldl (fun c i => c.setRow ps i (List.replicate 64 0) 0) c

/-- An element of an MOUT (R372, R249): code, bound and value. -/
def moutElem (o : MoutParams) (w : Word) (rb : Bound) : LaneRes :=
  let of := o.ofmt.toNat
  if isIntFmt of then writeInt of (if o.sat then 1 else 0) w.toInt (bval rb)
  else
    let x := decodeF (ffmt 0) w.toNat
    let y := roundF (ffmt of) (rmode o.rnd.toNat) o.sat x
    { code := elemCode of y, bnd := roundUpB16 (badd (bval rb) (convTerm x y)), y := limY y, res := none }

/-- The words of a row of an MOUT: elements packed, unused ones zero, each word with the largest bound of its elements. -/
def packRow (of : Nat) (l : List LaneRes) : List LaneVal :=
  (List.range (ceilDiv l.length (fmtElems of))).map fun w =>
    let es := (l.drop (w * fmtElems of)).take (fmtElems of)
    (es.zipIdx).foldl (fun (v : LaneVal) (e, n) => ⟨setElem of v.val n e.code, bndMax v.bnd e.bnd⟩) LaneVal.zero

/-- The rows of a slot as an MOUT reads them. -/
def State.moutRows (s : State) (q : SeqCmd) (o : MoutParams) : List (List LaneRes) :=
  let t := s.team q.onTeam
  let c := s.core t.core
  let ps := t.accSlot q.slot
  (List.range o.m).map fun i => (List.range o.n).map fun j => moutElem o (c.accWord ps i j) (c.rowBound ps i)

/-- A row's words cut at sector boundaries. -/
def wordPieces (a : Nat) (l : List LaneVal) : List (Nat × SecStore) :=
  (List.range ((a % 64 + 4 * l.length + 63) / 64)).map fun k =>
    let lo := if k = 0 then a % 64 else 0
    let skip := if k = 0 then 0 else (64 * k - a % 64) / 4
    (a / 64 + k, secWords lo ((l.drop skip).take ((64 - lo) / 4)))

/-- An earlier memory operation of the output's group waits in the operand log for the page of one of the addresses (R192). -/
def State.rowHeld (s : State) (q : SeqCmd) (vas : List Nat) : Bool :=
  (s.logOf (.group q.team q.gid)).any fun e => e.req.id < q.id && vas.any fun a => e.pages.contains (a / 8192)

/-- A row of an MOUT stored: no room or page yet, a stop, or done. -/
def State.storeRow (s : State) (q : SeqCmd) (o : MoutParams) (a : Int) (l : List LaneVal) : Packet Unit :=
  let p : Party := .group q.team q.gid
  let core := s.coreOf p
  if o.dspc then
    match s.scratchTarget q.team a.toNat with
    | none => .stop cAccess (BitVec.ofInt 64 a)
    | some (h, off) =>
      let t := s.team h
      .ok (((wordPieces (t.scrAddr off) l).foldl (fun s (sec, st) => s.scrPut t.core sec st false) s).haulCores p core t.core (4 * l.length)) ()
  else
    let pieces := wordPieces a.toNat l
    if s.rowHeld q (pieces.map fun e => 64 * e.1) then .wait
    else
    match pieces.find? (fun e => s.lookAt p (64 * e.1) true == .miss) with
    | some e => .ask (max a.toNat (64 * e.1)) true
    | none =>
      if pieces.any (fun e => s.lookAt p (64 * e.1) true == .bad) then .stop cAccess (BitVec.ofInt 64 a)
      else if !s.roomFor core (s.pasidOf p) (pieces.map (·.1)) then .wait
      else
        .ok (pieces.foldl (fun s (sec, st) =>
          let s := s.fillFor core (s.pasidOf p) (64 * sec) true
          match s.lookAt p (64 * sec) true with
          | .here pa => if o.aon then ((s.settleSector p (64 * sec)).homeStore (pa / 64) st false).haulSector p core pa else s.putStore core p sec (pa / 64) none st
          | .peer d pa => s.putStore core p sec (pa / 64) (some d) st
          | _ => s) s) ()

/-- The version word of an all-or-nothing MOUT made odd, where it is even (R205): the odd version. On a peer the word is read
first, and the response of the read sends the compare-and-swap. -/
def State.lockTile (s : State) (core : Nat) (q : SeqCmd) (o : MoutParams) : Packet (Option DWord) :=
  let p : Party := .group q.team q.gid
  let v := o.dadr.toNat - 8
  if s.rowHeld q [v] then .wait
  else
  match s.lookAt p v true with
  | .miss => .ask v true
  | .bad => .stop cAccess (BitVec.ofNat 64 v)
  | .here pa =>
    let t := (s.settleSector p v).haulSector p core pa
    let old := t.read64 pa
    if old.getLsbD 0 then .ok t none else .ok (t.homeWrite pa 8 (old + 1).toNat) (some (old + 1))
  | .peer d pa =>
    if s.peerLost d then .stop cRmterr (rmtLost d)
    else if s.peerBusy d pa then .wait
    else
      match s.buffered core p (v / 64) with
      | some e => .sent (s.drainEntry core e)
      | none => .sent ((s.sendPeer d opRead (pa / 64 * 64) q.id core p (va := v)).haul p core 6 64)

/-- Sectors of the tile of an MOUT. -/
def SeqCmd.tileSectors (q : SeqCmd) (o : MoutParams) : List Nat :=
  ((List.range o.m).flatMap fun (i : Nat) => (wordPieces (o.dadr.toNat + i * o.rstr : Int).toNat ((q.tile[i]?).getD [])).map (·.1)).dedup

/-- The accesses of the output's group that precede it have been performed at its scope, as for a release of the group (R198, R205). -/
def State.outReleased (s : State) (core : Nat) (q : SeqCmd) (sc : Nat) : Bool :=
  let p : Party := .group q.team q.gid
  let c := s.core core
  !((s.logOf p).any fun e => e.req.id < q.id) && !((s.atomsOf p).any fun x => x.id < q.id) && !((s.grp p).tiles.any fun x => x.q.id < q.id) &&
    !(c.seq.any fun x => x.id < q.id && x.team == q.team && x.gid == q.gid && (match x.kind with | .mout _ => true | _ => false)) &&
    (sc == 0 || c.cbuf.isEmpty) && (sc != 3 || (s.postedOf p).isEmpty)

/-- The version word made even again by a release store at its scope, after every tile store (R205): those that go to a peer have
their responses first. To a lost peer it is dropped and counted as every write is (02 R48). -/
def State.unlockTile (s : State) (core : Nat) (q : SeqCmd) (o : MoutParams) (odd : DWord) : Packet Unit :=
  let p : Party := .group q.team q.gid
  let v := o.dadr.toNat - 8
  let secs := q.tileSectors o
  let mine := (s.core core).cbuf.filter fun e => o.sc != 0 || (e.peer.isSome && e.by_.contains p && secs.contains e.va)
  if !mine.isEmpty then (if mine.any s.canDrain then .sent (s.drainAll core mine) else .wait)
  else if (s.postedOf p).any (fun t => secs.contains (t.va / 64)) || !s.outReleased core q o.sc.toNat then .wait
  else
    match s.lookAt p v true with
    | .here pa => .ok ((s.homeWrite pa 8 (odd + 1).toNat).haulSector p core pa) ()
    | .peer d pa =>
      if s.peerLost d then .ok (s.dropWrite d) ()
      else if s.peerBusy d pa then .wait
      else .ok ((s.sendPeer d opPosted (pa / 64 * 64) 0 core p (some (secStore (pa % 64) 8 (odd + 1).toNat 0)) (va := v)).haul p core 6 64) ()
    | .miss => .ask v true
    | .bad => .stop cAccess (BitVec.ofNat 64 v)

/-- An output whose next row, or version word, has no translation takes one operand-log entry for what remains, and its page is asked
for (R372, R191); while the log is full it waits. -/
def State.askRows (s : State) (core : Nat) (q : SeqCmd) (va : Nat) : State :=
  let p : Party := .group q.team q.gid
  if (s.core core).olog.any fun e => q.logs e && e.pages.contains (va / 8192) then s
  else
    let s := s.updCore core fun c => { c with olog := c.olog.filter (!q.logs ·) }
    if s.logFull core then s
    else s.logLanes { scalarReq p .rows 4 (BitVec.ofNat 64 va) with id := q.id } 1 .scalar

/-- Rows still to be stored, as far as pages and buffer room allow (R372, R191): the fuel is their number. -/
def State.pumpRows (s : State) (core : Nat) (q : SeqCmd) (o : MoutParams) : Nat → State
  | 0 =>
    match q.locked with
    | none => s.endCmd core q none
    | some odd =>
      match s.unlockTile core q o odd with
      | .ask va _ => (s.askRows core q va).setCmd core { q with rows := o.m }
      | .wait => s.setCmd core { q with rows := o.m }
      | .sent t => t.setCmd core { q with rows := o.m }
      | .stop c x => s.endCmd core q (some (c, x))
      | .ok t _ => t.endCmd core q none
  | n + 1 =>
    let i := o.m - (n + 1)
    match s.storeRow q o (o.dadr.toNat + i * o.rstr) ((q.tile[i]?).getD []) with
    | .ask va _ => (s.askRows core q va).setCmd core { q with rows := i }
    | .wait => s.setCmd core { q with rows := i }
    | .sent t => t.setCmd core { q with rows := i }
    | .stop c x => s.endCmd core q (some (c, x))
    | .ok t _ => t.pumpRows core q o n

/-- A started MOUT goes on: the lock first where it is all-or-nothing, then its rows. -/
def State.pumpMout (s : State) (core : Nat) (q : SeqCmd) (o : MoutParams) : State :=
  let s := { s with who := .group q.team q.gid }
  if o.aon ∧ q.locked.isNone then
    match s.lockTile core q o with
    | .ask va _ => s.askRows core q va
    | .wait => s
    | .sent t => t
    | .stop c x => s.endCmd core q (some (c, x))
    | .ok t (some odd) => (t.setCmd core { q with locked := some odd }).pumpRows core { q with locked := some odd } o (o.m - q.rows)
    | .ok t none => t
  else s.pumpRows core q o (o.m - q.rows)

/-- The started MOUTs of a core; those that wait for a locked version word only where `locks` says so (R205). -/
def Core.mouts (c : Core) (locks : Bool) : List (SeqCmd × MoutParams) :=
  c.seq.filterMap fun q => match q.kind with | .mout o => if q.started && (locks || !o.aon || q.locked.isSome) then some (q, o) else none | _ => none

/-- Every started MOUT of a core that can go on. -/
def State.pumpMouts (s : State) (core : Nat) : State :=
  ((s.core core).mouts false).foldl (fun s (q, o) => if s.cmdRuns q || (s.team q.onTeam).life == .ended then s.pumpMout core q o else s) s

/-- An MOUT reads its slot (R365, R372): under CHKST a breach stores nothing. -/
def State.startMout (s : State) (core : Nat) (q : SeqCmd) (o : MoutParams) : State :=
  let rows := s.moutRows q o
  let a := allow q.alw
  let bad (r : LaneRes) : Bool := a.chkst && breaches a r.bnd r.y
  match rows.findIdx? (fun l => l.any bad) with
  | some row =>
    if a.bte then s.endCmd core q (some (cBreach, breachInfo a 3 row ((rows.flatten.filter bad).map fun r => (r.bnd, r.y))))
    else
      let q := { q with started := true, tile := rows.map (packRow o.ofmt.toNat) }
      ((s.updIssuer q (·.setStat 1)).setCmd core q).pumpMout core q o
  | none =>
    let q := { q with started := true, tile := rows.map (packRow o.ofmt.toNat) }
    (s.setCmd core q).pumpMout core q o

/-- SEQUENCER_COMMAND_START: the command at the head of a core's sequencer starts (R365, R367); a loop waits for the token of each of
its groups in turn, takes it, and starts with the last. -/
def execSequencerCommandStart (core : Nat) (s : State) : Out :=
  match (s.core core).headCmd with
  | none => notNow s
  | some q =>
    if q.started || !s.cmdRuns q then notNow s
    else
      match q.kind with
      | .zero => .next ((s.zeroSlot core ((s.team q.onTeam).accSlot q.slot)).endCmd core q none)
      | .mout o => .next (s.startMout core q o)
      | .share _ _ => notNow s
      | .loop p =>
        match (List.finRange 16).filter fun g => p.cmask.getLsbD g.val && !q.snaps.any (·.1 == g.val) with
        | [] => .next (s.startLoop core q p q.snaps)
        | g :: rest =>
          match (s.grp (.group q.onTeam g)).ready with
          | none => notNow s
          | some r =>
            let s := s.updGrp (.group q.onTeam g) fun x => { x with ready := none }
            let snaps := q.snaps ++ [(g.val, r)]
            .next (if rest.isEmpty then s.startLoop core q p snaps else s.setCmd core { q with snaps := snaps })

/-- GANG_SHARE_START: a share at the head of its member's queue starts once the team's gang token is set (R163, R368). -/
def execGangShareStart (core : Nat) (s : State) : Out :=
  match (s.core core).headCmd with
  | none => notNow s
  | some q =>
    match q.kind, (s.team q.onTeam).gangToken with
    | .share _ p, some scr =>
      if q.started || !s.cmdRuns q then notNow s
      else
        let s := s.setTeam q.onTeam { s.team q.onTeam with gangToken := none }
        if (s.core core).wphase.isSome && (s.dirHit core p q.fmt).isSome then
          .next (s.endCmd core q (some (cWsphase, (p.tag.getD 0).setWidth 64)))
        else .next (s.startLoop core q p [(scr.1.val, scr.2)])
    | _, _ => notNow s

/-- GANG_COMPLETION: every share is over (R164): the members' counters advance, once none of them is halted, and what stopped waits
for the MWAIT. -/
def execGangCompletion (gang : Nat) (s : State) : Out :=
  match s.gangs.find? (·.1 == gang) with
  | none => notNow s
  | some (_, g) =>
    if !g.pending.isEmpty || g.members.any (fun h => (s.team h).life == .saving || (s.team h).life == .saved) then notNow s
    else
      let live := g.members.filter fun h => (s.team h).life != .ended
      let s := live.foldl (fun s h => let t := s.team h
        (s.scrCount t.core (t.scrAddr g.evoff)).haulCores (.group g.team g.gid) (s.team g.team).core t.core 8) s
      let s := if (s.team g.team).life = .ended then s else s.updGrp (.group g.team g.gid) fun x =>
        { x with seqFaults := x.seqFaults ++ g.faults.map fun f => ⟨gang, g.slot, f.1, f.2⟩ }
      .next { s with gangs := s.gangs.filter fun e => e.1 != gang }

/-- MOUT_AON_RETRY: an all-or-nothing MOUT of a core tries its version word again, or whether its tile stores are performed (R205). -/
def execMoutAonRetry (core : Nat) (s : State) : Out :=
  match ((s.core core).mouts true).filter (fun x => x.2.aon && (x.1.locked.isNone || x.1.rows == x.2.m) && s.cmdRuns x.1) with
  | [] => notNow s
  | (q, o) :: _ => .next (s.pumpMout core q o)

/-! ### MWAIT, MZERO, MOUT, MLDC (R370-R373) -/

/-- Commands of the executing group on a slot, or on all, that have not completed. -/
def State.seqBusy (s : State) (slot : Option Nat) : Bool :=
  let on (n : Nat) : Bool := match slot with | some k => n == k | none => true
  (s.curCore.seq.any fun q => q.team == s.who.teamOf && q.gid == s.who.gidOf && on q.slot) ||
    s.gangs.any fun e => e.2.team == s.who.teamOf && e.2.gid == s.who.gidOf && on e.2.slot

/-- Rows of a completed loop that has read something of A that was written between the contributors' MREADY and now (R204). -/
def State.racedRows (s : State) (q : SeqCmd) (p : LoopParams) : List Nat :=
  (List.range p.m).filter fun i => q.reads.any fun k => (s.aElem q p i k).raced

/-- Groups of a team whose writes no token and no loop needs any more are watched no longer. -/
def State.unwatch (s : State) (h : Nat) : State :=
  let t := s.team h
  let c := s.core t.core
  let used (g : Fin 16) : Bool :=
    (t.groups.get g).ready.isSome || t.gangToken.any (fun e => e.1 == g) || (c.seq ++ c.past).any fun q => q.onTeam == h && q.snaps.any (fun e => e.1 == g.val)
  s.setTeam h { t with groups := Vector.ofFn fun g => if used g then t.groups.get g else { t.groups.get g with watched := none } }

/-- MWAIT completes (R370, R204): the slots are the group's, on every core of the cluster that ran a share of its gangs; rows that
raced are unpredictable. -/
def State.settleSlots (s : State) (slot : Option Nat) : State :=
  let mine (h : Nat) (q : SeqCmd) : Bool :=
    q.onTeam == h && q.team == s.who.teamOf && q.gid == s.who.gidOf && (match slot with | some k => q.slot == k | none => true)
  s.curTeam.cluster.foldl (fun s h =>
    let core := (s.team h).core
    let past := (s.core core).past.filter (mine h)
    if past.isEmpty then s
    else
      let s := past.foldl (fun s q =>
        match q.params with
        | none => s
        | some p => s.freeRows core ((s.team h).accSlot q.slot) (s.racedRows q p) p.n) s
      (s.updCore core fun c => { c with past := c.past.filter fun q => !mine h q }).unwatch h) (s.unwatch s.who.teamOf)

/-- A command that stopped raises its trap at the MWAIT, the earliest-issued first; else the wait ends. -/
def mwaitOn (slot : Option Nat) (s : State) : Out :=
  if s.seqBusy slot then blockedOut s
  else
    let on (f : SeqFault) : Bool := match slot with | some k => f.slot == k | none => true
    let first := (s.cur.seqFaults.filter on).foldl (fun m f => match m with | none => some f | some x => if f.id < x.id then some f else some x) none
    match first with
    | some f => trapAt (s.updCur fun g => { g with seqFaults := dropFault f g.seqFaults }) f.cause.toNat f.info
    | none => doneAt (s.settleSlots slot)
where
  /-- The list without one fault. -/
  dropFault (f : SeqFault) (l : List SeqFault) : List SeqFault := l.erase f

/-- MWAIT n (R370). -/
def execMwait (n : BitVec 6) (s : State) : Out :=
  commandOp (.mwait n) [] [] (fun s => [s.slotCheck n.toNat]) (mwaitOn (some n.toNat)) s

/-- MWAIT.all (R370). -/
def execMwaitAll (s : State) : Out := commandOp .mwaitAll [] [] (fun _ => []) (mwaitOn none) s

/-- MZERO (R371). -/
def execMzero (n : BitVec 6) (s : State) : Out :=
  commandOp (.mzero n) [] [] (fun s => [s.slotCheck n.toNat]) (fun s => s.queueCmd n.toNat .zero) s

/-- MOUT's block (Table 16-5). -/
def State.moutOf (s : State) (a : SNum) : MoutParams :=
  let w := s.par a 0
  { m := fieldN w 4 6 + 1, n := fieldN w 10 6 + 1, ofmt := w.extractLsb' 16 4, rnd := w.extractLsb' 20 3, sat := w.getLsbD 23, aon := w.getLsbD 24,
    sc := w.extractLsb' 25 2, dspc := w.getLsbD 27, dadr := s.par a 1, rstr := fieldI (s.par a 2) 0 32 }

/-- MOUT (R372). -/
def execMout (a : SNum) (s : State) : Out :=
  commandOp (.mout a) (blockRegs a 3) [] (fun s =>
      let w := s.par a 0
      let o := s.moutOf a
      let len := 4 * ceilDiv o.n (fmtElems o.ofmt.toNat)
      let dims : List (Nat × Int) := [(len, 1), (o.m, o.rstr)]
      let inScratch := (List.range o.m).all fun i => s.scratchRowOk s.who.teamOf (o.dadr.toNat + i * o.rstr) len
      let out := if o.dspc then !inScratch else !spanIn o.dadr.toNat dims (2 ^ 57) || (o.aon && o.dadr.toNat < 8)
      [check (o.aon && !s.feature 9) cFeature 9,
        check (14 ≤ o.ofmt.toNat || (if 8 ≤ o.ofmt.toNat then o.rnd != 0 else 4 < o.rnd.toNat) || (!o.aon && o.sc != 0) || (o.aon && o.dspc) ||
          fieldN w 28 36 != 0 || fieldN (s.par a 2) 32 32 != 0) cIllfld (opInfo (.mout a)),
        s.slotCheck (fieldN w 0 4), alignCheck o.dadr 4, check (o.rstr % 4 != 0) cAlign (addrInfo (BitVec.ofInt 64 o.rstr)),
        check (o.aon && o.dadr.toNat % 8 != 0) cAlign (addrInfo (o.dadr - 8)), check out cAccess (addrInfo o.dadr),
        if o.dspc then none else ((if o.aon then s.absent s.who (o.dadr.toNat - 8) 8 true else none) <|>
          s.absentRow s.who o.m len (fun i => o.dadr.toNat + i * o.rstr) true).map fun x => (cAccess, BitVec.ofNat 64 x)])
    (fun s => s.queueCmd (fieldN (s.par a 0) 0 4) (.mout (s.moutOf a))) s

/-- MLDC (R373): columns of a slot into vector registers, each live slot with its row's bound; unpredictable before the matching MWAIT (R204). -/
def execMldc (a : SNum) (s : State) : Out :=
  commandOp (.mldc a) [a] [] (fun s =>
      let w := s.rs a
      let nc := fieldN w 23 7
      [check (fieldN w 30 34 != 0 || 32 < fieldN w 11 6 || nc == 0 || 64 < nc || 64 < fieldN w 17 6 + nc || s.cur.nreg < fieldN w 4 7 + nc) cIllfld (opInfo (.mldc a)),
        s.slotCheck (fieldN w 0 4)])
    (fun s =>
      let w := s.rs a
      let nc := fieldN w 23 7
      let vb := fieldN w 4 7
      let own : List Nat := match s.cur.trap with | some t => if s.cur.inh then t.empties else [] | none => []
      if (List.range nc).any (fun j => !(s.cur.vreg (vb + j)).full && !own.contains (vb + j)) then blockedOut s
      else
        let c := s.curCore
        let slot := fieldN w 0 4
        let ps := s.curTeam.accSlot slot
        let unset := (c.seq ++ c.past).any fun q => q.onTeam == s.who.teamOf && q.slot == slot && !q.settledFor s.who.teamOf s.who.gidOf.val &&
          (match q.kind with | .mout _ => false | _ => true)
        let word (j i : Nat) : LaneVal :=
          if unset then ⟨Config.freeWord (s.fresh + 32 * j + i), bInf⟩
          else ⟨c.accWord ps (fieldN w 11 6 + i) (fieldN w 17 6 + j), c.rowBound ps (fieldN w 11 6 + i)⟩
        let words := (List.range nc).map fun j => Vector.ofFn fun i : Fin 32 => word j i.val
        let q := { MemReq.blank s.who false with lanes := s.cur.live }
        let t := s.late q (.vec vb) .scalar (if (allow s.cur.alw).chkall && !unset then some (s.cur.alw, s.cur.fmt) else none) fun o => { o with words := words }
        doneAt ((t.updCur (·.emptyDest (.vec vb) nc)).bumpBy (if unset then 2048 else 0))) s

end Sys2Proof.Machine
end

