-- ==== Sys2Proof/Machine/Object.lean ====
section
/-! DEFINITION. Objects and publication: MKOBJ, STREF, LDHDR, PUB and the reach walkers' events (08 R206-R211; 16 R386-R389). -/

namespace Sys2Proof.Machine

/-! ### MKOBJ, STREF, LDHDR -/

/-- T bits cleared in the metadata of n sectors from a physical sector (R206). -/
def clearT (m : KMap DWord) (sec n : Nat) : KMap DWord :=
  m.filterMap fun (k, v) =>
    if sec ≤ k ∧ k < sec + n then (let v := setField v 55 8 0; if v = 0 then none else some (k, v)) else some (k, v)

/-- The 4 KiB pieces of n bytes from an address: address and length. -/
def pageParts (va n : Nat) : List (Nat × Nat) :=
  (List.range ((va % 4096 + n + 4095) / 4096)).map fun i =>
    let lo := max va ((va / 4096 + i) * 4096)
    (lo, min (va + n) ((va / 4096 + i + 1) * 4096) - lo)

/-- A metadata region holds n bytes from a physical address (07 R181). -/
def regionHolds (e : DWord) (pa n : Nat) : Bool :=
  e.getLsbD 63 && fieldN e 0 31 * 2 ^ 21 ≤ pa && pa + n ≤ (fieldN e 0 31 + fieldN e 32 31 + 1) * 2 ^ 21

/-- Header word of a new object (Table 8-3, R206). -/
def newHeader (len : Nat) : DWord := BitVec.ofNat 64 (len * 2 ^ 40)

/-- MKOBJ (R386, R206): the header is a plain store of the group; the T bits are cleared at the home. -/
def execMkobj (a : SNum) (s : State) : Out :=
  commandOp (.mkobj a) (blockRegs a 2) [] (fun s =>
      [check ((s.par a 1).toNat == 0 || 2 ^ 24 ≤ (s.par a 1).toNat) cIllfld (opInfo (.mkobj a)), alignCheck (s.par a 0) 64, globalCheck (s.par a 0)])
    (fun s =>
      let h := s.par a 0
      let n := 64 * (s.par a 1).toNat
      let parts := pageParts h.toNat n
      if 2 ^ 57 < h.toNat + n then trapAt s cAccess (addrInfo h)
      else if s.acqPending s.who false || s.pagesHeld s.who (parts.map (·.1)) then waitOut s
      else
        match s.lacks s.who true (parts.map (·.1)) with
        | some (va, true) => trapAt (s.updCur fun g => { g with refused := none }) cXlate (BitVec.ofNat 64 (va % 2 ^ 57))
        | some (va, false) => waitOut (s.askPage (s.dieOf s.who) (s.pasidOf s.who) va true)
        | none =>
          let place (e : Nat × Nat) : Option (Nat × Nat) := match s.lookAt s.who e.1 true with | .here pa => if s.isHbm pa then some (pa, e.2) else none | _ => none
          let places := parts.filterMap place
          let inside := places.length == parts.length && s.dev.mdrgn.toList.any fun r => places.all fun (e : Nat × Nat) => regionHolds r e.1 e.2
          if !inside then trapAt s cAccess (addrInfo h)
          else
            let pa := (places.headD (0, 0)).1
            let st : SecStore := { secStore 0 8 (newHeader (s.par a 1).toNat).toNat 0 with hset := true }
            if !s.roomFor (s.coreOf s.who) (s.pasidOf s.who) [h.toNat / 64] then waitOut s
            else
              let t := parts.foldl (fun t e => t.fillFor (s.coreOf s.who) (s.pasidOf s.who) e.1 true) s
              let t := { t with md := places.foldl (fun m (e : Nat × Nat) => clearT m (e.1 / 64) (e.2 / 64)) t.md }
              doneAt (t.putStore (s.coreOf s.who) s.who (h.toNat / 64) (pa / 64) none st)) s

/-- STREF (R387, R207). -/
def execStref (a : SNum) (rel : Bool) (sc : BitVec 2) (s : State) : Out :=
  commandOp (.stref a rel sc) (blockRegs a 3) [] (fun s =>
      [match refFields (s.par a 0) (s.par a 2) with
        | .align x => some (cAlign, addrInfo x)
        | .access x => some (cAccess, addrInfo x)
        | _ => none])
    (fun s =>
      match s.issueRef { scalarReq s.who .ref 8 (s.par a 0) with x := s.par a 1, y := s.par a 2 } (if rel then some sc.toNat else none) .scalar with
      | .wait t => waitOut t
      | .trap t c i _ _ => trapAt t c i
      | .go t => doneAt t) s

/-- LDHDR (R389): an acquire at device scope, at system scope for a host or pool address; a header at a peer is read there. -/
def execLdhdr (d a : SNum) (s : State) : Out :=
  commandOp (.ldhdr d a) [a] [d] (fun s => [alignCheck (s.rs a) 64, globalCheck (s.rs a)])
    (fun s =>
      let va := (s.rs a).toNat
      if s.acqPending s.who false || s.pagesHeld s.who [va] then waitOut s
      else
        match s.header s.who va with
        | .need =>
          if s.codeRefused s.who va then trapAt (s.updCur fun g => { g with refused := none }) cXlate (addrInfo (s.rs a))
          else waitOut (s.askPage (s.dieOf s.who) (s.pasidOf s.who) va false)
        | .bad => trapAt s cAccess (addrInfo (s.rs a))
        | .away p pa => waitOut (s.fetchHeader s.who false va p pa)
        | .poison pa => trapAt s cMemerr (BitVec.ofNat 64 pa)
        | .lost i => trapAt (s.updCur fun g => { g with hdrs := g.hdrs.filter (·.1 != va / 64) }) cRmterr i
        | .is obj hdr =>
          let scope := match s.lookAt s.who va false with | .here pa => if s.isHost pa then 3 else 2 | _ => 2
          let t := ((s.settleSector s.who va).fillFor (s.coreOf s.who) (s.pasidOf s.who) va false).updCur fun g => { g with hdrs := g.hdrs.filter (·.1 != va / 64) }
          lateResult (t.acquireAt s.who scope) d (if obj then hdr else 0)) s

/-! ### PUB (R208, R388) -/

/-- A walker's next sequence number: 1 to 2^28 − 1 (R208). -/
def nextSeq (n : Nat) : Nat := if n + 1 < 2 ^ 28 then n + 1 else 1

/-- PUB: the release fence, then a walk begins; d stays empty until it ends (R208-R210, R388, R65). -/
def execPub (d a : SNum) (s : State) : Out :=
  commandOp (.pub d a) (blockRegs a 4) [d] (fun s =>
      let sg := (s.par a 1).toNat
      [check (sg == 0 || 4 < sg || (sg != 4 && s.par a 3 != 0)) cIllfld (opInfo (.pub d a)), alignCheck (s.par a 0) 64,
        if s.par a 2 = 0 then none else alignCheck (s.par a 2) 8, if sg = 4 then alignCheck (s.par a 3) 8 else none,
        globalCheck (s.par a 0), globalCheck (s.par a 2), if sg = 4 then globalCheck (s.par a 3) else none])
    (fun s =>
      let sg := (s.par a 1).toNat
      let ver := s.par a 3
      let w := if sg = 4 || s.who.isStream then 6 else s.dieOf s.who
      let go : Out :=
        if !s.fenceReady 1 true (sg - 1) || Config.walksMax ≤ (s.die w).walks.countP (fun x => !x.stamped && !x.failed) then waitOut s
        else
          let bits := if sg = 4 then s.lostBits else 0
          let s := if bits = 0 then s else s.updCur fun g => { g with lost := 0, fstat := g.fstat ||| bits.setWidth 64 }
          let seq := nextSeq (s.die w).walkSeq
          let (t, id) := s.awaitScalar d
          let walk : Walk := { seq := seq, party := s.who, id := id, pasid := s.pasidOf s.who, sigma := sg, root := s.par a 0, rst := s.par a 2, ver := ver,
                               queue := [s.par a 0], scan := none, n := 0, deps := [], stamped := false, failed := false,
                               rooted := false, rootAt := none }
          let t := t.setDie w { t.die w with walkSeq := seq, walks := (t.die w).walks ++ [walk] }
          if bits ≠ 0 ∧ t.cur.fstat.getLsbD 63 then
            .next (t.scalarTrap s.who cLinkdn ((t.cur.fstat.extractLsb' 0 16).setWidth 64) (t.cur.pc + 4) [])
          else .next t.advance
      if sg ≠ 4 then go
      else
        match s.lookAt s.who ver.toNat true with
        | .miss =>
          if s.codeRefused s.who ver.toNat then trapAt (s.updCur fun g => { g with refused := none }) cXlate (addrInfo ver)
          else waitOut (s.askPage (s.dieOf s.who) (s.pasidOf s.who) ver.toNat true)
        | .here pa => if s.isHostMem pa then go else trapAt s cAccess (addrInfo ver)
        | _ => trapAt s cAccess (addrInfo ver)) s

/-! ### The walkers' events (R208-R210) -/

/-- A walk of a walker changed. -/
def State.setWalk (s : State) (w : Nat) (x : Walk) : State :=
  s.setDie w { s.die w with walks := (s.die w).walks.map fun y => if y.seq = x.seq then x else y }

/-- The walk a stamp names is still stamping (R208). -/
def State.stamping (s : State) (w seq : Nat) : Bool := (s.die w).walks.any fun x => x.seq == seq && !x.stamped && !x.failed

/-- A walk that stops with its fail bit; consumed poison is recorded (R209, R81). -/
def State.failWalk (s : State) (w : Nat) (x : Walk) (poison : Option Nat) : State :=
  let s := match poison with | some pa => s.reportMemErr pa (s.ctxOf x.party) | none => s
  s.setWalk w { x with failed := true, queue := [], scan := none }

/-- A core's buffered stores to a sector of this device's memory performed at their home. -/
def State.drainPlace (s : State) (core sec : Nat) : State := s.drainAll core ((s.core core).cbuf.filter fun e => e.peer.isNone && e.pa == sec)

/-- The words with T set and a value other than 0 of a sector, in address order (R208). -/
def State.sectorRefs (s : State) (sec : Nat) : List DWord :=
  (List.range 8).filterMap fun i =>
    let v := s.read64 (64 * sec + 8 * i)
    if (mdT (s.mdOf sec)).getLsbD i ∧ v ≠ 0 then some v else none

/-- The words of an object read as far as its pages translate: the fuel is the number of sectors left. A sector whose translation
gives an address that does not exist is passed over without a fail bit, a DESIGN CHOICE (log 45): 01 R20 names only an issuing
instruction. What the issuing core has buffered of the sector comes first. -/
def State.scanObject (s : State) (w : Nat) (x : Walk) (o : DWord) (len : Nat) : Nat → State
  | 0 => s.setWalk w { x with scan := none, stamped := x.queue.isEmpty }
  | k + 1 =>
    let i := len - (k + 1)
    let va := o.toNat + 64 * i
    match s.lookWalker w x.pasid va false with
    | .miss => (s.askEngine w x.pasid va false).setWalk w { x with scan := some (o, len, i) }
    | .here pa =>
      if s.poison.contains (pa / 64) then s.failWalk w x (some pa)
      else
        let s := (s.drainPlace (s.coreOf x.party) (pa / 64)).carry w (dieOfHome (s.homeOf pa)) 64
        s.scanObject w { x with queue := x.queue ++ s.sectorRefs (pa / 64) } o len k
    | _ => s.scanObject w x o len k

/-- The header of the next object: not followed, skipped, or raised and its words read (R208). The issuing core's stores to it are at
its home first, and its L1 copy is gone once it is raised, so that a party of its team reads the new scope too (R211). A header whose
translation gives an address that does not exist is not followed, without a fail bit, a DESIGN CHOICE (log 45). -/
def State.stampObject (s : State) (w : Nat) (x : Walk) (o : DWord) (rest : List DWord) : State :=
  let skip (x : Walk) : Walk := { x with queue := rest, stamped := rest.isEmpty }
  if 2 ^ 57 ≤ o.toNat then s.setWalk w (skip x)
  else
    match s.lookWalker w x.pasid o.toNat true with
    | .miss => s.askEngine w x.pasid o.toNat true
    | .here pa =>
      if s.poison.contains (pa / 64) then s.failWalk w x (some pa)
      else
        let s := (s.settlePlace (s.coreOf x.party) none (pa / 64)).carry w (dieOfHome (s.homeOf pa)) 64
        let h := s.read64 (pa / 64 * 64)
        if !mdH (s.mdOf (pa / 64)) then s.setWalk w (skip x)
        else if x.sigma ≤ hdrScope h then
          let by_ : Nat × Nat := (fieldN h 28 4, fieldN h 0 28)
          let wait := by_ != (w, x.seq) && s.stamping by_.1 by_.2 && !x.deps.contains by_
          s.setWalk w (skip (if wait then { x with deps := x.deps ++ [by_] } else x))
        else
          let new := setField (setField h 37 3 x.sigma) 0 32 (w * 2 ^ 28 + x.seq)
          let t := s.homeStore (pa / 64) { secStore 0 8 new.toNat 0 with hset := true } false
          t.scanObject w { x with queue := rest, n := x.n + 1 } o (hdrLenOf h) (hdrLenOf h)
    | _ => s.setWalk w (skip x)

/-- REACH_WALK_STEP: the next object of a walk's queue, or more words of the object being read (R208). -/
def execReachWalkStep (w : Fin 7) (i : Nat) (s : State) : Out :=
  match (s.die w.val).walks[i]? with
  | none => notNow s
  | some x =>
    if x.stamped || x.failed then notNow s
    else
      match x.scan, x.queue with
      | some (o, len, k), _ => .next (s.scanObject w.val x o len (len - k))
      | none, o :: rest => .next (s.stampObject w.val x o rest)
      | none, [] => .next (s.setWalk w.val { x with stamped := true })

/-- The result of a walk given to its PUB: n and the fail bit (R208, R388); a saved team gets it at its resume (R263). -/
def State.walkResult (s : State) (w : Nat) (x : Walk) : State :=
  let v : DWord := BitVec.ofNat 64 (min x.n (2 ^ 32 - 1) + if x.failed then 2 ^ 32 else 0)
  let s := s.setDie w { s.die w with walks := (s.die w).walks.filter (·.seq != x.seq) }
  let s := s.updGrp x.party fun g => g.updOutst x.id fun o => { o with sval := v }
  if s.runs x.party then s.updGrp x.party fun g => g.landScalar x.id else s

/-- The store of the root, at its home or posted to a peer; elsewhere there is no memory to store to. -/
def State.storeRoot (s : State) (w : Nat) (x : Walk) : State :=
  match s.lookWalker w x.pasid x.rst.toNat true with
  | .here pa => ((s.homeWrite pa 8 x.root.toNat).carry w (dieOfHome (s.homeOf pa)) 8).setWalk w { x with rooted := true }
  | .peer d pa =>
    if s.peerLost d then
      (s.dropWrite d).setWalk w { x with rooted := true }
    else
      (s.sendPeer d opPosted (pa / 64 * 64) 0 (s.coreOf x.party) x.party (some (secStore (pa % 64) 8 x.root.toNat 0)) (va := x.rst.toNat)).setWalk w
        { x with rooted := true, rootAt := some (d.toNat, (s.peer d.toNat).seqNext) }
  | _ => s.setWalk w { x with rooted := true }

/-- The root store has been performed at its home: a peer has answered it, or is lost (03 R65, 08 R208). -/
def State.rootDone (s : State) (x : Walk) : Bool :=
  match x.rootAt with
  | none => true
  | some (d, seq) => !((s.peer d).sent.any fun t => t.seq == seq && t.op == opPosted)

/-- REACH_WALK_END: stamping is done for the walk and for every walk it met; the root store, then the version add and the result (R208, R209, 03 R65). -/
def execReachWalkEnd (w : Fin 7) (i : Nat) (s : State) : Out :=
  match (s.die w.val).walks[i]? with
  | none => notNow s
  | some x =>
    if x.failed then .next (s.walkResult w.val x)
    else if !x.stamped || x.deps.any (fun d => s.stamping d.1 d.2) then notNow s
    else
      let need (a : DWord) : Bool := (match s.lookWalker w.val x.pasid a.toNat true with | .miss => true | _ => false)
      let busy := x.rst != 0 && (match s.lookWalker w.val x.pasid x.rst.toNat true with | .peer d pa => s.peerBusy d pa && !s.peerLost d | _ => false)
      let ask (a : DWord) : Out :=
        if s.asked w.val x.pasid a.toNat true false then notNow s else .next (s.askEngine w.val x.pasid a.toNat true)
      if !x.rooted ∧ x.rst ≠ 0 ∧ need x.rst then ask x.rst
      else if x.sigma = 4 ∧ need x.ver then ask x.ver
      else if !x.rooted && busy || !s.rootDone x then notNow s
      else
        let t := if x.rooted || x.rst == 0 then s else s.storeRoot w.val x
        if !x.rooted && !(t.die w.val).walks.all fun y => y.seq != x.seq || t.rootDone y then .next t
        else
          let u := if x.sigma = 4 then (match t.lookWalker w.val x.pasid x.ver.toNat true with | .here pa => t.homeAdd pa 1 | _ => t) else t
          .next (u.walkResult w.val x)

end Sys2Proof.Machine
end

