-- ==== Sys2Proof/Machine/Launch.lean ====
section
/-! DEFINITION. LAUNCH and JOIN: the launch record and its checks (04 R82-R85), dependences (R91, R92), the clusters each
distributor owns (R93), and the wait for a child (05 R140; 16 R390, R391). -/

namespace Sys2Proof.Machine

/-! ### The record (Tables 4-1, 4-2) -/

/-- Field of n bytes of a record. -/
def recN (bs : List Byte) (at_ n : Nat) : Nat := leBytes ((bs.drop at_).take n)
def recD (bs : List Byte) (at_ : Nat) : DWord := BitVec.ofNat 64 (recN bs at_ 8)

/-- `cfg` fields (Table 4-2). -/
def cfgNreg (c : DWord) : Nat := fieldN c 4 3
def cfgNacc (c : DWord) : Nat := fieldN c 8 5
def cfgNscr (c : DWord) : Nat := fieldN c 16 7
def cfgRows (c : DWord) : Nat := fieldN c 32 2 + 1
def cfgCols (c : DWord) : Nat := fieldN c 34 2 + 1
def cfgStrd (c : DWord) : Bool := c.getLsbD 36
def cfgPrio (c : DWord) : Nat := fieldN c 40 3
def cfgSuspend (c : DWord) : Bool := c.getLsbD 43
def cfgWph (c : DWord) : Bool := c.getLsbD 44
def cfgRgen (c : DWord) : Bool := c.getLsbD 45
def cfgTenant (c : DWord) : Nat := fieldN c 48 6
def cfgNdep (c : DWord) : Nat := fieldN c 56 3
/-- Registers per group (Table 4-2). -/
def cfgRegs (c : DWord) : Nat := 16 * (cfgNreg c + 1)

/-- Reserved bits of `cfg` are zero and no code is invalid (R83). -/
def cfgOk (c : DWord) : Bool :=
  !c.getLsbD 7 && fieldN c 13 3 == 0 && fieldN c 23 9 == 0 && fieldN c 37 3 == 0 && fieldN c 46 2 == 0 && fieldN c 54 2 == 0 && fieldN c 59 5 == 0 &&
    cfgNreg c != 7 && cfgNacc c ≤ 16 && cfgNscr c ≤ 120 && fieldN c 34 2 != 3 && cfgNdep c ≤ 4

/-- A cluster shape that can be split into halves (R101). -/
def splittable (c : DWord) : Bool := cfgRows c % 2 == 0 || cfgCols c % 2 == 0

/-- The grid a record describes; a `strd` without the feature, or with a shape that cannot be split, is read as 0 (R83). -/
def State.gridOf (s : State) (ctx : BitVec 8) (a : DWord) (bs : List Byte) : Grid :=
  let cfg := recD bs 12
  let cfg := if s.feature 5 && splittable cfg then cfg else setField cfg 36 1 0
  { Grid.empty with
    ctx := ctx, recAddr := a, gx := recN bs 0 4, gy := recN bs 4 4, gz := recN bs 8 4, cfg := cfg, sentry := recD bs 24, lentry := recD bs 32,
    arg := recD bs 40, alw := recD bs 48, ccnt := recD bs 56, stat := recD bs 64, tvec := recD bs 72,
    deps := (List.range (cfgNdep cfg)).map fun i => (recD bs (80 + 12 * i), recN bs (88 + 12 * i) 4), closed := false }

/-- Teams of a grid (R84). -/
def Grid.teams (g : Grid) : Nat := g.gx * g.gy * g.gz
/-- Teams per cluster (R84). -/
def Grid.size (g : Grid) : Nat := cfgRows g.cfg * cfgCols g.cfg

/-- The first check of Table 4-3, orders 1 to 7, that a record fails. -/
def State.recordFault (s : State) (g : Grid) (bs : List Byte) : Option Nat :=
  let cfg := recD bs 12
  let high (v : DWord) : Bool := v.extractLsb' 57 7 != 0
  let off (v : DWord) (n : Nat) : Bool := v.toNat % n != 0
  let c := s.ctx g.ctx.toNat
  if recN bs 20 4 ≠ 0 ∨ ¬ cfgOk cfg ∨ g.gx = 0 ∨ g.gy = 0 ∨ g.gz = 0 ∨ off g.sentry 4 ∨ off g.tvec 4 ∨ off g.ccnt 8 ∨ off g.stat 8 ∨
      g.deps.any (fun d => off d.1 8) ∨ [g.sentry, g.lentry, g.arg, g.ccnt, g.stat, g.tvec].any high ∨ g.deps.any (fun d => high d.1) then some cIllfld
  else if 2 ^ 32 < g.teams then some cIllfld
  else if !allowLegal g.alw then some cIllfld
  else if cfgTenant cfg ≠ c.tenant.toNat ∨ c.prio.toNat < cfgPrio cfg then some cAccess
  else if (cfgSuspend cfg && !s.feature 6) || (cfgWph cfg && !s.feature 8) || (cfgRgen cfg && !s.feature 1) then some cFeature
  else if 1536 < g.ngrp * cfgRegs cfg then some cIllfld
  else if g.teams % g.size ≠ 0 then some cIllfld
  else none

/-! ### Ownership (R93) -/

/-- Live dies in ascending order: a die's rank is its place (01 R27). -/
def State.liveDies (s : State) : List Nat := (List.range 6).filter fun d => s.dev.dmap.getLsbD d

/-- The smallest power of two not below n. -/
def pow2Ceil (n : Nat) : Nat := if n ≤ 1 then 1 else 2 ^ (Nat.log2 (n - 1) + 1)

/-- The clusters that the die of a rank owns, as ranges (first, count). -/
def ownedRanges (clusters dies rank : Nat) : List (Nat × Nat) :=
  let c := min 64 (pow2Ceil (ceilDiv clusters (64 * dies)))
  let chunks := ceilDiv clusters c
  (List.range (ceilDiv (chunks - rank) dies)).map fun i =>
    let j := rank + i * dies
    (c * j, min c (clusters - c * j))

/-- A grid whose dependences are met is handed to the distributor of every live die (R92, R93). -/
def State.handOut (s : State) (gh : Nat) : State :=
  let g := s.grid gh
  let dies := s.liveDies
  let k := g.teams / g.size
  s.setGrid gh { g with
    handed := true
    ranges := dies.zipIdx.foldl (fun m (d, r) => KMap.set [] m d (ownedRanges k dies.length r)) []
    reported := dies.zipIdx.foldl (fun m (d, r) => KMap.set 0 m d (((ownedRanges k dies.length r).map (·.2)).sum)) [] }

/-! ### Creating a grid -/

/-- The number the launch unit gives a new grid. -/
def State.newGrid (s : State) (g : Grid) : State × Nat := ({ s with handles := s.handles + 1 }.setGrid s.handles g, s.handles)

/-- A refused grid: it runs no team and ends at once (R83, R88). -/
def refusedGrid (g : Grid) (fate : GridEnd) : Grid := { g with fate := fate, refused := true, incomplete := true }

/-- Grids of a context launched and not yet ended (R92). -/
def State.openGrids (s : State) (ctx : BitVec 8) : Nat := s.grids.countP fun e => e.2.ctx == ctx && !e.2.closed
/-- Dependence-table entries in use (R92). -/
def State.depEntries (s : State) : Nat := (s.grids.map fun e => e.2.unmet.length).sum

/-- A dependence is met: its counter at or above its target; one in a peer's memory is read there, with a value the device cannot know (R91). -/
def State.depMet (s : State) (ctx : Nat) (d : DWord × Nat) : Bool :=
  match s.lookHub ctx d.1.toNat false with
  | .here pa => decide (d.2 ≤ (s.read64 pa).toNat)
  | .peer _ _ => (Config.freeWord s.fresh).getLsbD 0
  | _ => false

/-- A launched grid: held until its dependences are met (R91). -/
def State.takeGrid (s : State) (g : Grid) : State :=
  let unmet := (List.range g.deps.length).filter fun i => match g.deps[i]? with | some d => !s.depMet g.ctx.toNat d | none => false
  let (t, h) := s.bump.newGrid { g with unmet := unmet }
  let entries : List DepEntry := unmet.filterMap fun i =>
    match g.deps[i]? with
    | none => none
    | some d => match s.lookHub g.ctx.toNat d.1.toNat false with
      | .here pa => some { grid := h, index := i, pa := pa, target := d.2, met := false }
      | _ => none
  if unmet.isEmpty then t.handOut h else { t with deptab := t.deptab ++ entries }

/-- LAUNCHes that a kill of a context finds stalled: each is taken and refused, killed (R54, R112). -/
def State.refuseStalled (s : State) (ctx : BitVec 8) : State :=
  (s.parties.filter fun p => s.runs p && s.ctxOf p == ctx.toNat).foldl (fun s p =>
    match (s.grp p).wait with
    | .launch a ccnt stat =>
      let s := s.updGrp p fun g => { g with wait := .none }
      (s.newGrid (refusedGrid { Grid.empty with ctx := ctx, recAddr := a, ccnt := ccnt, stat := stat, handed := true, closed := false } .killed)).1
    | _ => s) s

/-! ### LAUNCH (R83, R91, R92, R390) -/

/-- The sectors of a record at their homes; a peer's come as parameters do. -/
def State.homeSectors (s : State) (p : Party) : List Nat → ParamRead
  | [] => .got s []
  | sec :: rest =>
    let one : CodeFetch :=
      match s.lookAt p (64 * sec) false with
      | .here pa =>
        if s.poison.contains (pa / 64) then .trap s cMemerr (BitVec.ofNat 64 pa)
        else .got ((s.fillFor (s.coreOf p) (s.pasidOf p) (64 * sec) false).carry 6 (dieOfHome (s.homeOf pa)) 64) (readSector s.mem (pa / 64))
      | _ => s.paramSector p (64 * sec)
    match one with
    | .wait s => .wait s
    | .trap s c i => .trap s c i
    | .got s x =>
      match s.homeSectors p rest with
      | .got s l => .got s (bytesOfSector x ++ l)
      | r => r

/-- The launch unit takes a record. -/
def launchRecord (s : State) (a : DWord) (bs : List Byte) : Out :=
  let ctx := BitVec.ofNat 8 (s.ctxOf s.who)
  let g := s.gridOf ctx a bs
  let done (s : State) : Out := .next ((s.updCur fun g => { g with wait := .none }).advance)
  let refuse (s : State) (c : Nat) : Out := done (s.newGrid (refusedGrid { g with handed := true } (.faulted (BitVec.ofNat 8 c)))).1
  match s.recordFault g bs with
  | some c =>
    if Config.gridsPerContext ≤ s.openGrids ctx then .next { s.updCur (fun x => { x with wait := .launch a g.ccnt g.stat }) with stalled := true }
    else refuse s c
  | none =>
    if Config.gridsPerContext ≤ s.openGrids ctx ∨ Config.depTable < s.depEntries + g.deps.length then
      .next { s.updCur (fun x => { x with wait := .launch a g.ccnt g.stat }) with stalled := true }
    else
      let pages := (g.ccnt.toNat, true) :: g.deps.map fun d => (d.1.toNat, false)
      match pages.find? fun e => match s.lookHub ctx.toNat e.1 e.2 with | .miss => true | _ => false with
      | some (va, w) =>
        if s.codeRefused s.who va then refuse (s.updCur fun g => { g with refused := none }) cXlate
        else waitOut (s.askPage 6 (s.pasidOf s.who) va w)
      | none => done (s.takeGrid g)

/-- LAUNCH: a release at system scope, then the record is read and its grid launched or refused (R83, R91, R390). -/
def execLaunch (a : SNum) (s : State) : Out :=
  commandOp (.launch a) [a] [] (fun s => [alignCheck (s.rs a) 64, globalCheck (s.rs a)])
    (fun s =>
      if !s.fenceReady 1 true 3 then waitOut s
      else
        match s.homeSectors s.who (codeSectors (s.rs a).toNat 128) with
        | .wait t => waitOut t
        | .trap t c i => trapAt t c i
        | .got t bs => launchRecord t (s.rs a) bs) s

/-! ### JOIN (R140, R391) -/

/-- JOIN's end: the counter has its target, and the status word is read by an acquire load at system scope (R140). -/
def joinLoad (d : SNum) (stat : DWord) (s : State) : Out :=
  let s := s.updCur fun g => { g with wait := .none }
  scalarLoad s d stat 8 (some 3)

/-- JOIN (R391): without the suspend mode feature it holds no watch entry and is demoted. -/
def execJoin (d a : SNum) (s : State) : Out :=
  commandOp (.join d a) (blockRegs a 3) [d] (fun s =>
      [alignCheck (s.par a 0) 8, alignCheck (s.par a 2) 8, globalCheck (s.par a 0), globalCheck (s.par a 2)])
    (fun s =>
      polling (waitCounter s (s.feature 6) (s.par a 0) (s.par a 1) (.join (s.par a 0) (s.par a 1) (s.par a 2) d) (joinLoad d (s.par a 2)))) s

end Sys2Proof.Machine
end

