-- ==== Sys2Proof/Machine/Sha512.lean ====
section
/-! DEFINITION. SHA-512, by which a measurement slot is extended (03 R70). The spec names the function only: its
constants and rounds are those of the standard (log 14). -/

namespace Sys2Proof.Machine

/-- The largest r with r^k ≤ v whose bits above n are those of the given number. -/
def rootFrom (k v : Nat) : Nat → Nat → Nat
  | 0, r => r
  | n + 1, r => if (r + 2 ^ n) ^ k ≤ v then rootFrom k v n (r + 2 ^ n) else rootFrom k v n r

/-- The first n primes. -/
def primes (n : Nat) : List Nat := ((List.range 420).filter fun p => 2 ≤ p && (List.range p).all fun d => d < 2 || p % d != 0).take n

/-- Round constants: 64 bits of the fractions of the cube roots of the first 80 primes. -/
def shaK : List DWord := (primes 80).map fun p => BitVec.ofNat 64 (rootFrom 3 (p * 2 ^ 192) 70 0)
/-- Initial state: 64 bits of the fractions of the square roots of the first 8 primes. -/
def shaInit : List DWord := (primes 8).map fun p => BitVec.ofNat 64 (rootFrom 2 (p * 2 ^ 128) 70 0)

/-- The message schedule, last word first, extended by n words. -/
def shaSchedule : Nat → List DWord → List DWord
  | 0, w => w
  | n + 1, w =>
    let at_ (i : Nat) : DWord := (w[i - 1]?).getD 0
    let s0 (x : DWord) : DWord := x.rotateRight 1 ^^^ x.rotateRight 8 ^^^ x >>> 7
    let s1 (x : DWord) : DWord := x.rotateRight 19 ^^^ x.rotateRight 61 ^^^ x >>> 6
    shaSchedule n ((s1 (at_ 2) + at_ 7 + s0 (at_ 15) + at_ 16) :: w)

/-- One round on the eight working words. -/
def shaRound (v : List DWord) (kw : DWord × DWord) : List DWord :=
  match v with
  | [a, b, c, d, e, f, g, h] =>
    let t1 := h + (e.rotateRight 14 ^^^ e.rotateRight 18 ^^^ e.rotateRight 41) + ((e &&& f) ^^^ (~~~e &&& g)) + kw.1 + kw.2
    let t2 := (a.rotateRight 28 ^^^ a.rotateRight 34 ^^^ a.rotateRight 39) + ((a &&& b) ^^^ (a &&& c) ^^^ (b &&& c))
    [t1 + t2, a, b, c, d + t1, e, f, g]
  | v => v

/-- One block of 128 bytes. -/
def shaBlock (h : List DWord) (bs : List Byte) : List DWord :=
  let w := (List.range 16).map fun i => BitVec.ofNat 64 (leBytes ((bs.drop (8 * i)).take 8).reverse)
  let ws := (shaSchedule 64 w.reverse).reverse
  List.zipWith (· + ·) h ((shaK.zip ws).foldl shaRound h)

/-- SHA-512 of the 128 bytes of a slot and a digest. -/
def sha512of128 (bs : List Byte) : List Byte :=
  let pad := [0x80#8] ++ List.replicate 125 0 ++ [4#8, 0#8]
  (shaBlock (shaBlock shaInit bs) pad).flatMap fun w => (bytesLE 8 w.toNat).reverse

/-- The value of a measurement slot that has been extended with the digests, oldest first (R70). -/
def slotValue (ds : List (List Byte)) : List Byte := ds.foldl (fun v d => sha512of128 (v ++ d)) (List.replicate 64 0)

end Sys2Proof.Machine
end

