-- ==== Sys2Proof/Machine/HostRegs.lean ====
section
/-! DEFINITION. The registers of BAR0 (03 R51, R52, Tables 3-1 to 3-3): what each offset is, what a read returns, and
what a write to a register without behaviour of its own does. -/

namespace Sys2Proof.Machine

/-! ### Requests of the host (log 9) -/

/-- The oldest host request, taken. -/
def State.popHost (s : State) : State := { s with hostq := s.hostq.tail }

/-- `serr` set (Table 3-2). -/
def State.serr (s : State) (n : Nat) : State := { s with dev := { s.dev with serr := BitVec.ofNat 8 n } }

/-- `ctx.ctl.err` set (Table 3-4). -/
def State.ctxErr (s : State) (n e : Nat) : State := s.setCtx n { s.ctx n with err := BitVec.ofNat 4 e }

/-- What a write to BAR0 does. -/
inductive RegEvent where
  | warm
  | cold
  | commit
  | mdcfg
  | mdrgn (i : Nat)
  | erqBase
  | erqSize
  | attReq
  | mboxExt
  | enable (n : Nat)
  | kill (n : Nat)
  | strt (n : Nat) (i : Fin 4)
  | doorbell (n : Nat) (i : Fin 16)
  /-- a register without behaviour of its own, or no effect -/
  | plain
deriving DecidableEq, Repr

/-- Context window and offset within it (R51). -/
def ctxWindow (off : Nat) : Option (Nat × Nat) :=
  if 0x10000 ≤ off ∧ off < 0x1010000 then some (off / 0x10000 - 1, off % 0x10000) else none

/-- What a write of a value of `size` bytes at an offset is (R51-R55, R60, R63, R71, R72, R74, R80, R182). -/
def regEvent (off size : Nat) (v : DWord) : RegEvent :=
  if size ≠ 8 ∨ off % 8 ≠ 0 then .plain
  else
    match ctxWindow off with
    | some (n, o) =>
      if o = 0 then (if v.getLsbD 1 ∨ ¬ v.getLsbD 0 then .kill n else .enable n)
      else if 0x40 ≤ o ∧ o < 0x60 then .strt n (Fin.ofNat 4 ((o - 0x40) / 8))
      else if 0x200 ≤ o ∧ o < 0x280 then .doorbell n (Fin.ofNat 16 ((o - 0x200) / 8))
      else .plain
    | none =>
      if off = 0x10 then (if v.getLsbD 1 then .cold else if v.getLsbD 0 then .warm else .plain)
      else if off = 0x48 then .commit
      else if off = 0x50 then .mdcfg
      else if 0x100 ≤ off ∧ off < 0x180 then .mdrgn ((off - 0x100) / 8)
      else if off = 0x200 then .erqBase
      else if off = 0x208 then .erqSize
      else if off = 0x448 then .attReq
      else if off = 0x540 then .mboxExt
      else .plain

/-- The oldest host request is a write of the given kind: its value, and the state with it taken. -/
def State.hostEvent (s : State) (k : RegEvent) : Option (DWord × State) :=
  match s.hostq with
  | .write off size v :: _ => if regEvent off size v = k then some (v, s.popHost) else none
  | _ => none

/-- An event of the host's writes: not possible unless its write is the oldest request. -/
def onHost (k : RegEvent) (f : DWord → State → Out) (s : State) : Out :=
  match s.hostEvent k with
  | some (v, t) => f v t
  | none => notNow s

/-! ### Reads (R51, R52) -/

/-- `dev.status` (Table 3-2). -/
def State.devStatus (s : State) : Nat :=
  let d := s.dev
  d.state.toNat + d.dmap.toNat * 2 ^ 4 + s.mp.nstk * 2 ^ 10 + d.wfail * 2 ^ 15 + d.cfail.toNat * 2 ^ 17 + d.serr.toNat * 2 ^ 24

/-- State of a stream in `ctx.sstat` (Table 3-3). -/
def State.streamState (s : State) (n i : Nat) : Nat :=
  if s.streams.any (fun e => e.1 == 4 * n + i) then (match (s.stream (4 * n + i)).g.wait with | .ending _ _ => 2 | _ => 1) else 0

/-- What a read of a context window returns (Table 3-3). -/
def State.ctxRead (s : State) (n o : Nat) : Nat :=
  let c := s.ctx n
  if o = 0 then c.en.toNat + c.state.val * 4 + c.err.toNat * 16
  else if o = 0x8 then c.pasid.toNat
  else if o = 0x10 then c.tenant.toNat
  else if o = 0x18 then c.prio.toNat
  else if o = 0x20 then c.quantum.toNat
  else if o = 0x28 then c.save.toNat
  else if o = 0x60 then ((List.range 4).map fun i => s.streamState n i * 4 ^ i).sum
  else if 0x100 ≤ o ∧ o < 0x180 then ((c.evaddr[(o - 0x100) / 8]?).getD 0).toNat
  else 0

/-- What an aligned 8-byte read of BAR0 returns (Table 3-1). -/
def State.regRead (s : State) (off : Nat) : Nat :=
  let d := s.dev
  if off % 8 ≠ 0 then 0
  else
    match ctxWindow off with
    | some (n, o) => s.ctxRead n o
    | none =>
      if off = 0 then Config.partCode + Config.stepping.toNat * 2 ^ 16
      else if off = 0x8 then s.devStatus
      else if off = 0x20 then d.offer.toNat
      else if off = 0x40 then d.acceptLo.toNat
      else if off = 0x48 then d.acceptHi.toNat
      else if off = 0x50 then d.mdcfg.toNat
      else if 0x100 ≤ off ∧ off < 0x180 then ((d.mdrgn[(off - 0x100) / 8]?).getD 0).toNat
      else if off = 0x200 then d.erqBase.toNat
      else if off = 0x208 then d.erqSize.toNat
      else if off = 0x210 then d.erqHead.toNat
      else if off = 0x218 then d.erqTail.toNat
      else if off = 0x220 then d.erdrop
      else if 0x400 ≤ off ∧ off < 0x440 then ((d.attNonce[(off - 0x400) / 8]?).getD 0).toNat
      else if off = 0x440 then d.attAddr.toNat
      else if off = 0x448 then d.attReq.toNat
      else if 0x500 ≤ off ∧ off < 0x540 then ((d.mbox[(off - 0x500) / 8]?).getD 0).toNat
      else if off = 0x540 then d.mboxExt.toNat
      else if 0x600 ≤ off ∧ off < 0x700 then ((d.fwData[(off - 0x600) / 8]?).getD 0).toNat
      else if off = 0x700 then d.fwReq.toNat
      else if off = 0x708 then d.fwRsp.toNat
      else 0

/-! ### The management cores' accesses (R66, R67) -/

/-- Bytes of the hub SRAM of the management cores. -/
def sramBytes : Nat := 2 ^ 26

/-- The access filter admits an access of n bytes at an offset of a unit (R67): the SRAM has 64 MiB, the device page
64 KiB, of which no agent but the security core writes the feature offer (R66), and the error ring has the bytes of its records. -/
def State.mgmtPasses (s : State) (t : MgmtTarget) (a n : Nat) (write : Bool) : Bool :=
  s.dev.accessFilter.contains t &&
    match t with
    | .sram => decide (a + n ≤ sramBytes)
    | .devicePage => decide (a + n ≤ 0x10000) && !(write && 0x20 < a + n && a < 0x30)
    | .errorRing => write || decide (a + n ≤ 64 * s.dev.erqSize.toNat)
    | _ => true

/-- A blocked access is recorded by the security core (R66, R67, Table 3-13); severity 1 is a DESIGN CHOICE (log 45). -/
def State.mgmtBlocked (s : State) : State := s.report 10 1 1 0 0 1 0xFFFF 0

/-- A read by the management cores (R67): a blocked one returns zero. The layout of the tables, the logs and the counters as
those cores see them is not given: their bytes are free (log 8). -/
def State.mgmtRead (s : State) (t : MgmtTarget) (a n : Nat) : State :=
  let give (s : State) (l : List Byte) : State := { s with dev := { s.dev with mgmtReads := s.dev.mgmtReads ++ [l] } }
  if !s.mgmtPasses t a n false then give s.mgmtBlocked (List.replicate n 0)
  else
    match t with
    | .sram => give s (readBytes s.dev.sram a n)
    | .devicePage => give s (if n = 8 then bytesLE 8 (s.regRead a) else List.replicate n 0)
    | .errorRing => give s (readBytes s.iomem (s.dev.erqBase.toNat + a) n)
    | _ => (give s ((List.range n).map fun i => (Config.freeWord (s.fresh + i)).setWidth 8)).bumpBy n

/-- A write by the management cores (R66, R67): a blocked one is dropped. A write to the device page is performed as the
host's; a record of 64 bytes goes to the error ring with source 0 and the next record number (R79). -/
def State.mgmtWrite (s : State) (t : MgmtTarget) (a : Nat) (data : List Byte) : State :=
  if !s.mgmtPasses t a data.length true then s.mgmtBlocked
  else
    match t with
    | .sram => { s with dev := { s.dev with sram := writeBytes s.dev.sram a data } }
    | .devicePage => { s with hostq := .write a data.length (BitVec.ofNat 64 (leBytes data)) :: s.hostq }
    | .errorRing =>
      if data.length = 64 then { s with dev := { s.dev with recSeq := s.dev.recSeq + 1 } }.putRecord ((data.take 4 ++ bytesLE 4 s.dev.recSeq ++ data.drop 8).set 2 0) else s
    | _ => s

/-- ERDROP_READ: a host read of a BAR0 register; a read of `dev.erdrop` clears it. A read of another size than 8 bytes has no
effect and reads zero (R51). A read by the management cores comes in the same way (R67). -/
def execErdropRead (s : State) : Out :=
  match s.hostq with
  | .read off size :: _ =>
    let s := s.popHost
    let s := { s with dev := { s.dev with reads := s.dev.reads ++ [if size = 8 then bytesLE 8 (s.regRead off) else List.replicate size 0] } }
    .next (if size = 8 ∧ off = 0x220 then { s with dev := { s.dev with erdrop := 0 } } else s)
  | .mgmtRead t a n :: _ => .next (if s.dev.mgmtRestart then s.popHost else s.popHost.mgmtRead t a n)
  | _ => notNow s

/-! ### Firmware requests (R73) -/

/-- The request record's bytes (R73). -/
def Dev.fwBytes (d : Dev) : List Byte := d.fwData.toList.flatMap fun w => bytesLE 8 w.toNat

/-- The pending request ends with a status (Table 3-15). -/
def State.fwDone (s : State) (code : Nat) : State := { s with dev := { s.dev with fwReq := false, fwRsp := BitVec.ofNat 8 code } }

/-- A pending request of an unknown type is refused, but for a restart of the management cores (R73). -/
def State.refuseUnknown (s : State) : State :=
  let t := recN s.dev.fwBytes 0 2
  if s.dev.fwReq && !s.dev.mgmtRestart && (t = 0 || 6 < t) then s.fwDone 1 else s

/-! ### Writes without behaviour of their own (R51) -/

/-- A write to a register of a context window (Table 3-3). -/
def State.ctxWrite (s : State) (n o : Nat) (v : DWord) : State :=
  let c := s.ctx n
  let disabled (f : Ctx → Ctx) : State := if c.state = 0 then s.setCtx n (f c) else s.ctxErr n 1
  if o = 0x8 then disabled fun c => { c with pasid := v.extractLsb' 0 20 }
  else if o = 0x10 then disabled fun c => { c with tenant := v.extractLsb' 0 6 }
  else if o = 0x18 then disabled fun c => { c with prio := v.extractLsb' 0 3 }
  else if o = 0x20 then disabled fun c => { c with quantum := v.extractLsb' 0 16 }
  else if o = 0x28 then disabled fun c => { c with save := v &&& 0x01FFFFFFFFFFF000 }
  else if h : 0x100 ≤ o ∧ o < 0x180 then s.setCtx n { c with evaddr := c.evaddr.set ((o - 0x100) / 8) v (by omega) }
  else s

/-- A write of `dev.fwreq` or `dev.fwreq_data` (R73, R412). -/
def State.fwWrite (s : State) (off : Nat) (v : DWord) : State :=
  let d := s.dev
  if d.fwReq then s.serr 2
  else if h : 0x600 ≤ off ∧ off < 0x700 then { s with dev := { d with fwData := d.fwData.set ((off - 0x600) / 8) v (by omega) } }
  else if v = 1 ∧ (d.state = 7 ∨ d.state = 8) then ({ s with dev := { d with fwReq := true } }).refuseUnknown
  else s

/-- A write to a register of the device page (Table 3-1). -/
def State.devWrite (s : State) (off : Nat) (v : DWord) : State :=
  let d := s.dev
  if off = 0x40 then (if d.state = 7 then { s with dev := { d with acceptLo := v } } else s.serr 2)
  else if off = 0x10 then s.nameReadmit v
  else if off = 0x218 then { s with dev := { d with erqTail := v } }
  else if h : 0x400 ≤ off ∧ off < 0x440 then { s with dev := { d with attNonce := d.attNonce.set ((off - 0x400) / 8) v (by omega) } }
  else if off = 0x440 then (if v.toNat % 64 = 0 then { s with dev := { d with attAddr := v } } else s.serr 4)
  else if h : 0x500 ≤ off ∧ off < 0x540 then
    (if d.mboxExt then s.serr 2 else { s with dev := { d with mbox := d.mbox.set ((off - 0x500) / 8) v (by omega) } })
  else if 0x600 ≤ off ∧ off ≤ 0x700 then s.fwWrite off v
  else s

/-- REGISTER_WRITE: a write that no other event takes (R51), or one by the management cores (R66, R67), which while they
restart do nothing. -/
def execRegisterWrite (s : State) : Out :=
  match s.hostq with
  | .write off size v :: _ =>
    if regEvent off size v ≠ .plain then notNow s
    else if size ≠ 8 ∨ off % 8 ≠ 0 then .next s.popHost
    else
      match ctxWindow off with
      | some (n, o) => .next (s.popHost.ctxWrite n o v)
      | none => .next (s.popHost.devWrite off v)
  | .mgmtWrite t a data :: _ => .next (if s.dev.mgmtRestart then s.popHost else s.popHost.mgmtWrite t a data)
  | _ => notNow s

end Sys2Proof.Machine
end

