-- ==== Sys2Proof/Machine/Host.lean ====
section
/-! DEFINITION. Events of the host interface: resets and start requests, feature commit, metadata regions, the error ring,
attestation, mailboxes and firmware requests, contexts, streams and doorbells (03 R53-R81, 07 R182, R412). -/

namespace Sys2Proof.Machine

/-! ### Resets and start requests (R74, R75, R78) -/

/-- CONVENTIONAL_RESET: a cold start (R74). -/
def execConventionalReset (s : State) : Out := .next (s.requestStart true)

/-- FUNCTION_LEVEL_RESET: a warm start, or a cold one where R74 says so. -/
def execFunctionLevelReset (s : State) : Out := .next (s.requestStart false)

/-- WARM_START_REQUEST: `dev.ctl` bit 0 (R74). -/
def execWarmStartRequest (s : State) : Out := onHost .warm (fun v t => .next ((t.nameReadmit v).requestStart false)) s

/-- COLD_START_REQUEST: `dev.ctl` bit 1, with the readmission mask (R74, R77). -/
def execColdStartRequest (s : State) : Out := onHost .cold (fun v t => .next ((t.nameReadmit v).requestStart true)) s

/-- START_TIMEOUT (R75, R78). -/
def execStartTimeout (s : State) : Out := if s.dev.starting then .next s.startTimedOut else notNow s

/-! ### Features, metadata, the error ring -/

/-- FEATURE_COMMIT: a write to `dev.accept_hi` (R63). -/
def execFeatureCommit (s : State) : Out :=
  onHost .commit (fun v t =>
    let d := t.dev
    if d.state ≠ 7 then .next (t.serr 2)
    else
      let vec := d.acceptLo.extractLsb' 0 12
      if v = 0 ∧ d.acceptLo.extractLsb' 12 52 = 0 ∧ vec &&& ~~~d.offer = 0 then
        .next { t with dev := { d with acceptHi := v, accepted := vec, state := 8, meas := (d.extend 6 [vec.toNat]).meas } }
      else .next (t.serr 1)) s

/-- MDCFG_WRITE (R182). -/
def execMdcfgWrite (s : State) : Out :=
  onHost .mdcfg (fun v t =>
    if !([0, 7, 8, 9].contains t.dev.state.toNat) then .next (t.serr 2)
    else if 8 < v.toNat then .next (t.serr 4)
    else .next { t with dev := { t.dev with mdcfg := v.extractLsb' 0 4 } }) s

/-- A metadata region may be defined (R182): inside the HBM window, with every page's frame covered by the carve-out. -/
def State.regionOk (s : State) (e : DWord) : Bool :=
  let base := fieldN e 0 31 * 2 ^ 21
  let top := (fieldN e 0 31 + fieldN e 32 31 + 1) * 2 ^ 21
  let m := s.dev.mdcfgEff.toNat
  top ≤ s.hbmEnd && m != 0 && (m == 8 || (List.range ((top - base) / 8192)).all fun i => s.frameOf (base + 8192 * i) < m * 1048576)

/-- MDRGN_WRITE (R181, R182). -/
def execMdrgnWrite (s : State) : Out :=
  match s.hostq with
  | .write off size v :: _ =>
    match regEvent off size v with
    | .mdrgn i =>
      let t := s.popHost
      if t.dev.state ≠ 7 then .next (t.serr 2)
      else if v.getLsbD 63 ∧ ¬ t.regionOk v then .next (t.serr 4)
      else .next { t with dev := { t.dev with mdrgn := t.dev.mdrgn.setIfInBounds i (v &&& ~~~(BitVec.ofNat 64 (2 ^ 31))) } }
    | _ => notNow s
  | _ => notNow s

/-- ERQ_BASE_WRITE (R80). -/
def execErqBaseWrite (s : State) : Out :=
  onHost .erqBase (fun v t =>
    if t.dev.erqSet then .next (t.serr 2)
    else if v.toNat % 64 ≠ 0 then .next (t.serr 4)
    else .next { t with dev := { t.dev with erqBase := v } }) s

/-- A legal ring length (Table 3-1). -/
def ringSizes : List Nat := (List.range 11).map fun i => 64 * 2 ^ i

/-- ERQ_SIZE_WRITE: the ring is set, and the records of the start buffer are written to it first (R80). It is set only after a start:
while one runs the write is refused as one while the ring is set, a DESIGN CHOICE (log 45). -/
def execErqSizeWrite (s : State) : Out :=
  onHost .erqSize (fun v t =>
    if t.dev.erqSet ∨ t.dev.starting then .next (t.serr 2)
    else if !ringSizes.contains v.toNat then .next (t.serr 4)
    else
      let t1 := { t with dev := { t.dev with erqSize := v, erqSet := true, startBuf := [] } }
      .next (t.dev.startBuf.foldl (fun t r => t.ringPut r) t1)) s

/-! ### Attestation and the digest mailbox (R71, R72) -/

/-- ATT_REQ (R71). -/
def execAttReq (s : State) : Out :=
  onHost .attReq (fun v t =>
    if v = 1 ∧ (t.dev.state = 7 ∨ t.dev.state = 8) then .next { t with dev := { t.dev with attReq := true } } else .next t) s

/-- The report without its signature (Table 3-10). -/
def State.reportBody (s : State) : List Byte :=
  let d := s.dev
  bytesLE 4 1 ++ bytesLE 4 780 ++ d.attNonce.toList.flatMap (fun w => bytesLE 8 w.toNat) ++ (List.range 16).map Config.serialByte ++
    d.meas.toList.flatMap slotValue ++ bytesLE 8 (d.dmap.toNat + d.stackMap.toNat * 2 ^ 6 + s.mp.nstk * 2 ^ 24) ++ bytesLE 16 d.offer.toNat ++
    bytesLE 16 d.accepted.toNat ++ bytesLE 4 (d.trusted.svn.toNat + d.untrusted.svn.toNat * 2 ^ 8) ++ bytesLE 4 d.starts.toNat

/-- The 2 KiB that the security core writes: the report, its signature with the attestation key over bytes 0 to 647, that key's
certificate, and zeros (R71). Nothing is written beyond the buffer (log 8). -/
def State.reportBuffer (s : State) : List Byte :=
  let sig := (List.range 132).map (Config.signByte s.dev.attKey s.reportBody s.fresh)
  let cert := s.dev.attCert.take 1268
  s.reportBody ++ sig ++ cert ++ List.replicate (1268 - cert.length) 0

/-- ATTESTATION_REPORT_WRITTEN (R71). -/
def execAttestationReportWritten (s : State) : Out :=
  if !s.dev.attReq then notNow s
  else
    let t := { s with iomem := writeBytes s.iomem s.dev.attAddr.toNat s.reportBuffer, dev := { s.dev with attReq := false } }
    .next (t.bump.signal 1)

/-- MBOX_EXT (R72). -/
def execMboxExt (s : State) : Out :=
  onHost .mboxExt (fun v t =>
    if t.dev.mboxExt || !(t.dev.state == 7 || t.dev.state == 8) then .next (t.serr 2)
    else .next (if v = 1 then { t with dev := { t.dev with mboxExt := true } } else t)) s

/-- MBOX_EXTENSION_MADE: in state 7 or 8, slot 7 is extended with the digest of `dev.mbox` (R72). -/
def execMboxExtensionMade (s : State) : Out :=
  if !s.dev.mboxExt || !(s.dev.state == 7 || s.dev.state == 8) then notNow s
  else
    let d := s.dev
    .next { s with dev := { d with mboxExt := false, meas := d.meas.set 7 (d.meas[7] ++ [d.mbox.toList.flatMap fun w => bytesLE 8 w.toNat]) } }

/-! ### Firmware requests (R73, Tables 3-14, 3-15) -/

/-- A pending request of a type is applied or refused: a non-zero reserved byte, the states that allow it, then its operands. -/
def fwRun (type : Nat) (named : List Nat) (st : BitVec 4 → Bool) (f : List Byte → State → Nat ⊕ State) (s : State) : Out :=
  let bs := s.dev.fwBytes
  if !s.dev.fwReq || s.dev.mgmtRestart || recN bs 0 2 != type then notNow s
  else if (bs.zipIdx.any fun b => 2 ≤ b.2 && !named.contains b.2 && b.1 != 0) then .next (s.fwDone 1)
  else if !st s.dev.state then .next (s.fwDone 3)
  else
    match f bs s with
    | .inl e => .next (s.fwDone e)
    | .inr t => .next (t.fwDone 0)

/-- States 7 and 8. -/
def readyOrRunning (x : BitVec 4) : Bool := x == 7 || x == 8

/-- FWREQ_DEVICE_NUMBER (R73). -/
def execFwreqDeviceNumber (s : State) : Out :=
  fwRun 1 [8, 9] (· == 7) (fun bs s =>
    if 2 ^ 12 ≤ recN bs 8 2 then .inl 2 else .inr { s with dev := { s.dev with devNum := some (BitVec.ofNat 12 (recN bs 8 2)) } }) s

/-- FWREQ_PORT_SET: a zero mask removes the set (R73). -/
def execFwreqPortSet (s : State) : Out :=
  fwRun 2 [8, 9, 10, 11] readyOrRunning (fun bs s =>
    let p := recN bs 8 2
    let m := recN bs 10 2
    if 2 ^ 12 ≤ p ∨ 2 ^ 12 ≤ m then .inl 2
    else if s.peers.any (fun e => e.1 != p && (e.2.ports &&& BitVec.ofNat 12 m) != 0) then .inl 4
    else .inr (s.setPeer p { s.peer p with ports := BitVec.ofNat 12 m })) s

/-- FWREQ_PARTITION_ENTRY (R73, 16 R363). -/
def execFwreqPartitionEntry (s : State) : Out :=
  fwRun 3 [8, 9, 10, 11] readyOrRunning (fun bs s =>
    let n := recN bs 8 1
    let e := recN bs 10 2
    if 64 ≤ recN bs 9 1 ∨ fieldN (BitVec.ofNat 16 e) 12 3 ≠ 0 then .inl 2
    else .inr (s.setCtx n { s.ctx n with partition := KMap.set 0 (s.ctx n).partition (recN bs 9 1) (BitVec.ofNat 16 e) })) s

/-- FWREQ_TENANT_BUDGET (R95): 0 to 1728 cores (Table 4-7); reserved bits of the record are not kept. -/
def execFwreqTenantBudget (s : State) : Out :=
  fwRun 4 (8 :: (List.range 32).map (· + 16)) readyOrRunning (fun bs s =>
    let n := recN bs 8 1
    if 64 ≤ n ∨ 1728 < recN bs 16 2 % 2 ^ 11 then .inl 2
    else .inr (s.setTenant n { s.tenant n with budget := BitVec.ofNat 256 (recN bs 16 32) &&& 0xFFFF000FFFFFFFFF07FF })) s

/-- FWREQ_PORT_RETRAIN (R73, R37). -/
def execFwreqPortRetrain (s : State) : Out :=
  fwRun 5 [8] (· == 8) (fun bs s =>
    let n := recN bs 8 1
    match s.ports[n]? with
    | none => .inl 2
    | some p => if !p.down then .inl 5 else .inr { s with ports := s.ports.setIfInBounds n { p with retraining := true, failed := 0 } }) s

/-- FWREQ_SLICE_THRESHOLD (R22, R73). -/
def execFwreqSliceThreshold (s : State) : Out :=
  fwRun 6 [8, 9] readyOrRunning (fun bs s =>
    if recN bs 8 2 = 0 then .inl 2 else .inr { s with dev := { s.dev with threshold := recN bs 8 2 } }) s

/-- MGMT_WATCHDOG_MISS: the security core restarts the management cores (R67). -/
def execMgmtWatchdogMiss (s : State) : Out := .next { s with dev := { s.dev with mgmtRestart := true } }

/-- MGMT_RESTART_COMPLETE: what waited for the restart proceeds (R67, R73). -/
def execMgmtRestartComplete (s : State) : Out :=
  if !s.dev.mgmtRestart then notNow s
  else .next (({ s with dev := { s.dev with mgmtRestart := false } }).refuseUnknown)

/-! ### Contexts (R53, R54, R412) -/

/-- The context a host request enables or kills. -/
def hostCtl (s : State) : Option RegEvent :=
  match s.hostq with
  | .write off size v :: _ => some (regEvent off size v)
  | _ => none

/-- CTX_ENABLE: set-up begins, or error 2 while the device does not run or has lost a hub seam or its host port (R53, R412, 01 R14),
and, DESIGN CHOICE (log 45), while a start request waits for the last grid to end. -/
def execCtxEnable (s : State) : Out :=
  match hostCtl s with
  | some (.enable n) =>
    let t := s.popHost
    if (t.ctx n).state ≠ 0 then .next t
    else if t.dev.state ≠ 8 ∨ t.dev.stopped ∨ t.dev.startReq.isSome then .next (t.ctxErr n 2)
    else .next (t.setCtx n { t.ctx n with state := 3, en := true })
  | _ => notNow s

/-- A held write as the host issued it. -/
def HeldWrite.req (n : Nat) : HeldWrite → HostReq
  | .strt i a => .write ((n + 1) * 0x10000 + 0x40 + 8 * i.val) 8 a
  | .evadd i v => .write ((n + 1) * 0x10000 + 0x200 + 8 * i.val) 8 v

/-- CTX_SETUP_COMPLETE: the writes held in state 3 take effect in order, before any later request (R53). -/
def execCtxSetupComplete (n : BitVec 8) (s : State) : Out :=
  let c := s.ctx n.toNat
  if c.state ≠ 3 ∨ s.dev.mgmtRestart then notNow s
  else .next { s.setCtx n.toNat { c with state := 1, heldWrites := [] } with hostq := c.heldWrites.map (HeldWrite.req n.toNat) ++ s.hostq }

/-- Grids of a context that have not written their status. -/
def State.ctxGrids (s : State) (n : Nat) : List Nat := (s.grids.filter fun e => e.2.ctx.toNat == n && !e.2.closed).map (·.1)
/-- Streams of a context. -/
def State.ctxStreams (s : State) (n : Nat) : List Nat := (s.streams.filter fun e => e.2.ctx.toNat == n).map (·.1)

/-- The L1 sectors of a context are gone from every core (07 R169). -/
def State.forgetL1 (s : State) (n : Nat) : State :=
  { s with cores := s.cores.filterMap fun (e : Nat × Core) =>
      let c := { e.2 with l1 := e.2.l1.filter fun l => l.ctx != n }
      if c = Core.empty then none else some (e.1, c) }

/-- A context killed (R54): stalled LAUNCHes are refused, grids, saved teams and streams end, doorbells not yet performed are
dropped, and so are starts of streams whose records have not been read, DESIGN CHOICE (log 45); page requests are given up. -/
def State.killCtx (s : State) (n : Nat) : State :=
  let s := s.setCtx n { s.ctx n with state := 2, en := false, heldWrites := [], bells := [], starts := [], record := [] }
  let s := s.refuseStalled (BitVec.ofNat 8 n)
  let s := (s.ctxGrids n).foldl (fun s h => s.killGrid h) s
  let s := (s.ctxStreams n).foldl (fun s k => s.killStream k) s
  let s := s.forgetL1 n
  { s with dies := s.dies.map fun (e : Nat × Die) => (e.1, { e.2 with reqs := e.2.reqs.filter fun r => r.pasid != (s.ctx n).pasid }) }

/-- CTX_KILL: a kill, or a write of en = 0 (R53, R54). -/
def execCtxKill (s : State) : Out :=
  match hostCtl s with
  | some (.kill n) =>
    let t := s.popHost
    .next (if (t.ctx n).state = 1 ∨ (t.ctx n).state = 3 then t.killCtx n else t)
  | _ => notNow s

/-- CTX_KILL_COMPLETE (R54). -/
def execCtxKillComplete (n : BitVec 8) (s : State) : Out :=
  if (s.ctx n.toNat).state ≠ 2 ∨ s.ctxGrids n.toNat ≠ [] ∨ s.ctxStreams n.toNat ≠ [] then notNow s
  else .next (s.setCtx n.toNat { s.ctx n.toNat with state := 0 })

/-! ### Streams and doorbells (R55, R60) -/

/-- The first control core with a free slot (R55), and its lowest free slot: which of its free slots the stream takes, as `c.core`
shows it, the spec does not say, a DESIGN CHOICE (log 45). -/
def State.freeSlot (s : State) : Option (Nat × Nat) :=
  ((List.range 256).map fun i => (i / 8, i % 8)).find? fun x => !s.streams.any fun e => e.2.ccore == x.1 && e.2.slot == x.2

/-- A translation failure of a host write: error 5 and a record of type 11. -/
def State.hostFail (s : State) (n va : Nat) : State := ((s.dropRefused n va).ctxErr n 5).report 11 0 1 0 0 1 n va

/-- The group part of a new stream (R55, Table 3-5). -/
def streamGroup (bs : List Byte) : Group :=
  let g : Group := { Group.empty with used := true, pc := (recD bs 0).extractLsb' 0 57, tvec := recD bs 8 }
  [1, 2, 3, 4].foldl (fun g (i : Nat) => g.ws ⟨i % 64, Nat.mod_lt _ (by decide)⟩ (recD bs (8 + 8 * i))) g

/-- A stream started from its record (R55): fields checked, then placed. -/
def State.startStream (s : State) (n : Nat) (i : Fin 4) (slot : Nat × Nat) (bs : List Byte) : State :=
  let entry := recD bs 0
  let tvec := recD bs 8
  if entry.toNat % 4 ≠ 0 ∨ entry.extractLsb' 57 7 ≠ 0 ∨ tvec.toNat % 4 ≠ 0 ∨ tvec.extractLsb' 57 7 ≠ 0 then s.ctxErr n 7
  else
    s.setStream (4 * n + i.val) { ctx := BitVec.ofNat 8 n, i := i, ccore := slot.1, slot := slot.2, g := streamGroup bs, stat := recD bs 48, endc := recD bs 56, statDone := false }

/-- What the hub has of a sector it reads. -/
inductive HubRead where
  /-- its page or its peer has not answered; the state in which it is asked, if it was not yet -/
  | wait (s : Option State)
  /-- it cannot be read -/
  | fail (s : State)
  | got (x : Sector)

/-- A sector of a start record, at its home or from the peer that holds it (R55); poison is recorded (R81). -/
def State.recordSector (s : State) (n va : Nat) : HubRead :=
  match s.hubLook n va false with
  | .miss => .wait (s.askHub (s.ctx n).pasid va false)
  | .bad => .fail (s.hostFail n va)
  | .here pa => if s.poison.contains (pa / 64) then .fail ((s.ctxErr n 5).reportMemErr pa n) else .got (readSector s.mem (pa / 64))
  | .peer d pa =>
    match (s.ctx n).record.find? (·.1 == va / 64) with
    | some (_, some x) => .got x
    | some (_, none) => .fail (s.ctxErr n 5)
    | none =>
      if s.peerLost d then .fail (s.ctxErr n 5)
      else if s.hubFlying n opRead || s.peerBusy d pa then .wait none
      else .wait (some (s.sendPeer d opRead (pa / 64 * 64) 0 hubUnit (.stream (4 * n)) none va))

/-- The 64 bytes of a start record (R55). -/
def State.readRecord (s : State) (n : Nat) (a : Nat) : List Nat → HubRead ⊕ List Byte
  | [] => .inr []
  | sec :: rest =>
    match s.recordSector n (max a (64 * sec)) with
    | .got x =>
      (match s.readRecord n a rest with
       | .inr l => .inr (bytesOfSector x ++ l)
       | r => r)
    | r => .inl r

/-- What trying to start a stream comes to. -/
inductive StartTry where
  | done (s : State)
  /-- its record has been asked for -/
  | ask (s : State)
  | wait

/-- A start of a stream of an enabled context (R55): the stream and its slot, the record, its fields. -/
def State.tryStream (s : State) (n : Nat) (i : Fin 4) (a : Nat) : StartTry :=
  let gone (u : State) : State := u.setCtx n { u.ctx n with record := [] }
  if s.streams.any fun e => e.1 == 4 * n + i.val then .done (s.ctxErr n 3)
  else
    match s.freeSlot with
    | none => .done (s.ctxErr n 4)
    | some slot =>
      match s.readRecord n a (codeSectors a 64) with
      | .inl (.wait none) => .wait
      | .inl (.wait (some u)) => .ask u
      | .inl (.fail u) => .done (gone u)
      | .inl (.got _) => .wait
      | .inr bs => .done ((gone s).startStream n i slot ((bs.drop (a % 64)).take 64))

/-- A start put behind those of its context that wait for their records. -/
def State.holdStart (s : State) (n : Nat) (i : Fin 4) (a : DWord) : State :=
  let c := s.ctx n
  s.setCtx n { c with starts := c.starts ++ [(i, a)] }

/-- The oldest start of a context that waits is made, or its record asked for. -/
def State.nextStart (s : State) (n : Nat) (c : Ctx) : Option State :=
  match c.starts with
  | [] => none
  | (i, a) :: rest =>
    match (s.setCtx n { c with starts := rest }).tryStream n i a.toNat with
    | .done u => some u
    | .ask u => some (u.setCtx n { u.ctx n with starts := c.starts })
    | .wait => none

/-- STREAM_START (R55): the context state, then the start, behind those of the context that wait. A device that has lost a hub
seam or its host port accepts no work, error 6 (01 R14, R412). A write while a start request waits stays at the head of the
host's requests: DESIGN CHOICE (log 45). With no such write at the head, a start that waits is made. -/
def execStreamStart (s : State) : Out :=
  match hostCtl s, s.hostq with
  | some (.strt n i), .write _ _ a :: _ =>
    let t := s.popHost
    let c := t.ctx n
    if s.dev.startReq.isSome then notNow s
    else if c.state = 0 ∨ c.state = 2 ∨ s.dev.stopped then .next (t.ctxErr n 6)
    else if c.state = 3 then .next (t.setCtx n { c with heldWrites := c.heldWrites ++ [.strt i a] })
    else
      match (if c.starts.isEmpty then t.tryStream n i a.toNat else .wait) with
      | .done u => .next u
      | .ask u => .next (u.holdStart n i a)
      | .wait => .next (t.holdStart n i a)
  | _, _ =>
    match (if s.dev.startReq.isSome ∨ s.dev.stopped then none else s.ctxs.findSome? fun e => s.nextStart e.1 e.2) with
    | some u => .next u
    | none => notNow s

/-! ### Doorbells (R60) -/

/-- An add of a doorbell at the home of its counter, or none where it has to wait: for its page, or for the add before it, since one
context's doorbells are performed in order. -/
def State.ring (s : State) (n a : Nat) (v : DWord) : Option State :=
  if a % 8 ≠ 0 then some (s.hostFail n a)
  else
    match s.hubLook n a true with
    | .miss => none
    | .bad => some (s.hostFail n a)
    | .here pa => if s.hubFlying n opAtomic then none else some ((s.homeAdd pa v).carry 6 (dieOfHome (s.homeOf pa)) 8)
    | .peer d pa =>
      if s.hubFlying n opAtomic then none
      else if s.peerLost d then some (s.dropWrite d)
      else if s.peerBusy d pa then none
      else some (s.sendAtom64 d 0 v 0 pa 0 hubUnit (.stream (4 * n)) a)

/-- The oldest doorbell of a context that waits is performed, or its page asked for. -/
def State.ringNext (s : State) (n : Nat) (c : Ctx) : Option State :=
  match c.bells with
  | [] => none
  | (a, v) :: rest =>
    ((s.setCtx n { c with bells := rest }).ring n a v).or
      (match s.hubLook n a true with | .miss => s.askHub c.pasid a true | _ => none)

/-- DOORBELL (R60): an atomic add at the home of the counter, behind the context's doorbells that wait. With no doorbell at
the head of the host's requests, one that waits is performed. -/
def execDoorbell (s : State) : Out :=
  match hostCtl s, s.hostq with
  | some (.doorbell n i), .write _ _ v :: _ =>
    let t := s.popHost
    let c := t.ctx n
    let a := (c.evaddr.get i).toNat
    if c.state = 0 ∨ c.state = 2 then .next (t.ctxErr n 6)
    else if c.state = 3 then .next (t.setCtx n { c with heldWrites := c.heldWrites ++ [.evadd i v] })
    else
      match (if c.bells.isEmpty then t.ring n a v else none) with
      | some u => .next u
      | none =>
        let u := t.setCtx n { c with bells := c.bells ++ [(a, v)] }
        .next (match u.hubLook n a true with | .miss => (u.askHub c.pasid a true).getD u | _ => u)
  | _, _ =>
    match s.ctxs.findSome? fun e => s.ringNext e.1 e.2 with
    | some u => .next u
    | none => notNow s

/-! ### CXL.mem and host memory (R33, R59, R65) -/

/-- Bytes written by the host to one sector: codes of every affected word become ∞, and T bits clear (R33). -/
def hostStore (off : Nat) (bs : List Byte) : SecStore :=
  let st := secBytes off bs fun _ => bInf
  { st with bnds := Vector.replicate 16 bInf }

/-- The metadata of a sector after a host write: a word written in part has code ∞ as well. -/
def State.hostWrite (s : State) (pa : Nat) (bs : List Byte) : State :=
  (sectorPieces pa bs).foldl (fun s (e : Nat × Nat × List Byte) =>
    (s.homeStore e.1 (hostStore e.2.1 e.2.2) false).carry 6 (dieOfHome (s.homeOf (64 * e.1))) e.2.2.length) s

/-- CXL_MEM_HOST_WRITE (R33): performed at its home; outside the HBM window the device answers nothing. -/
def execCxlMemHostWrite (s : State) : Out :=
  match s.hostq with
  | .memWrite pa data :: _ => .next (if (List.range data.length).all fun i => s.isHbm (pa + i) then s.popHost.hostWrite pa data else s.popHost)
  | _ => notNow s

/-- CXL_MEM_HOST_READ (R65): data only. -/
def execCxlMemHostRead (s : State) : Out :=
  match s.hostq with
  | .memRead pa len :: _ =>
    let t := s.popHost
    let t := (codeSectors pa len).foldl (fun t sec => if s.isHbm (64 * sec) then t.carry 6 (dieOfHome (s.homeOf (64 * sec))) 64 else t) t
    .next { t with dev := { t.dev with reads := t.dev.reads ++ [(List.range len).map fun i => if s.isHbm (pa + i) then readByte s.mem (pa + i) else 0] } }
  | _ => notNow s

/-- WATCHED_LINE_INVALIDATION (R59): the host has written a line of its memory; entries whose counters reached their targets are marked. -/
def execWatchedLineInvalidation (s : State) : Out :=
  match s.hostq with
  | .line pa data :: _ =>
    let t := s.popHost
    if (List.range data.length).all fun i => s.isHost (pa + i) then
      let t := (codeSectors pa data.length).foldl (fun t sec => t.settleHub sec) { t with mem := writeBytes t.mem pa data }
      .next ((codeSectors pa data.length).foldl (fun t sec => t.noteWatches sec) t)
    else .next t
  | _ => notNow s

end Sys2Proof.Machine
end

