-- ==== Sys2Proof/Machine/Package.lean ====
section
/-! DEFINITION. Events of the package: seams, run-time stops, slice retirement, power and thermal limits, errors found
by scrub (01 R13, R14, R22-R29; 03 R75, R79, R81, R412; 02 R34; 07 R190). -/

namespace Sys2Proof.Machine

/-! ### Seams (R13, R14) -/

/-- SEAM_FLIT: a flit that fails its CRC is retried and counted, any other's bytes are carried (R13). A hub seam at its retry limit
carries no more: it is lost (R14). -/
def execSeamFlit (seam : Fin 10) (crcOk : Bool) (bytes : Nat) (s : State) : Out :=
  let x := s.seams.get seam
  if !x.up || (seam.val < 6 && 65 ≤ x.failed) then notNow s
  else
    let y := if crcOk then { x with carried := x.carried + bytes, failed := 0 } else { x with retried := x.retried + 1, failed := x.failed + 1 }
    .next { s with seams := s.seams.set seam y }

/-- Every grid and stream ends killed and the device accepts no work until a cold start (R14, R34, R412). -/
def State.stopDevice (s : State) : State := { s.killAll with dev := { s.killAll.dev with stopped := true } }

/-- HUB_SEAM_LOSS: a flit of a hub seam and then 64 consecutive retries of it have failed (R14). -/
def execHubSeamLoss (die : Fin 6) (s : State) : Out :=
  let i : Fin 10 := ⟨die.val, by omega⟩
  let x := s.seams.get i
  if !x.up || x.failed < 65 then notNow s
  else .next ((({ s with seams := s.seams.set i { x with up := false } }).stopDevice).report 6 1 3 (locOf die.val 0 0 0 0 0) 0 1 0xFFFF 0)

/-- DEVICE_STOP: all work has ended killed after a run-time stop: state 9, every context killed (R412). -/
def execDeviceStop (s : State) : Out :=
  if !s.dev.stopped || s.dev.state == 9 || s.dev.starting || s.unfinished then notNow s
  else
    let t := { s with dev := { s.dev with state := 9 } }
    .next ((t.ctxs.filter fun e => e.2.state != 0).foldl (fun t e => t.killCtx e.1) t)

/-! ### Slice retirement (R22-R25) -/

/-- Watch entries beyond 64 at a home are given up: their parties execute their SUSP again (R24). Which do not fit the spec
does not say: the youngest of all at that home, its own among them, DESIGN CHOICE (log 45). -/
def State.trimWatches (s : State) (home : Nat) : State :=
  let over_ := (s.watches.filter fun w => w.home == home).drop Config.sliceWatches
  let s1 := { s with watches := s.watches.filter fun w => !over_.contains w }
  over_.foldl (fun s w => s.updGrp w.party fun g => { g with wait := .none }) s1

/-- SLICE_RETIREMENT: the channel is redirected and its watch entries move, or retirement is refused, and the slice stays in
service (R22-R25). -/
def execSliceRetirement (slice : Fin 576) (s : State) : Out :=
  let n := slice.val
  let loc := locOf (n / 96) (n / 32 % 3) 0 n (n / 32) 0
  if KMap.get 0 s.mp.corrected n < s.dev.threshold || s.retiredSlice n || !s.dev.stackMap.getLsbD (n / 32) || s.mp.turnedDown.contains n then notNow s
  else
    match s.servingSlice n with
    | none => .next (({ s with mp := { s.mp with turnedDown := s.mp.turnedDown ++ [n] } }).report 4 1 0 loc 0 (KMap.get 0 s.mp.corrected n) 0xFFFF 0)
    | some m =>
      let t := { s.redirect n m with watches := s.watches.map fun (w : Watch) => if w.home = n then { w with home := m } else w }
      .next ((t.trimWatches m).report 3 1 0 loc 0 (KMap.get 0 s.mp.corrected n) 0xFFFF 0)

/-! ### Power and heat (R28, R29) -/

/-- The clock that capping chooses: 800 to 1600 MHz in steps of 100; which is not stated, so it is free. -/
def freeClock (n : Nat) : Nat := 800 + 100 * ((Config.freeWord n).toNat % 9)

/-- POWER_LIMIT_WRITE (R28). -/
def execPowerLimitWrite (s : State) : Out :=
  match s.hostq with
  | .power w :: _ =>
    let t := s.popHost
    .next ({ t with dev := { t.dev with powerLimit := w, clock := if t.dev.throt then 800 else freeClock t.fresh } }).bump
  | _ => notNow s

/-- THROT_N asserted: the clock goes to its floor, and a record of type 7 is written (R28, Table 3-13). -/
def State.throttle (s : State) : State :=
  ({ s with dev := { s.dev with throt := true, clock := 800 } }).report 7 0 1 0 0 1 0xFFFF 1

/-- THROT_N_ASSERT (R28). -/
def execThrotNAssert (s : State) : Out := if s.dev.throt then notNow s else .next s.throttle

/-- THROT_N_RELEASE (R28). -/
def execThrotNRelease (s : State) : Out :=
  if !s.dev.throt then notNow s
  else .next (({ s with dev := { s.dev with throt := false, clock := freeClock s.fresh } }).bump.report 7 0 0 0 0 1 0xFFFF 0)

/-- COOLANT_EXCURSION asserts THROT_N (R29). -/
def execCoolantExcursion (s : State) : Out := .next (if s.dev.throt then s else s.throttle)

/-- THERMAL_SHUTDOWN: at the floor clock, every grid ends killed (R29). -/
def execThermalShutdown (s : State) : Out :=
  if !s.dev.throt then notNow s else .next (s.killGrids.report 8 1 2 0 0 1 0xFFFF 0)

/-! ### Errors (R75, R79, R81) -/

/-- MEMORY_SCRUB: corrected errors are counted at the address's slice, a number that is free (R22); an uncorrectable error that
nothing consumes is recorded, with severity 0 and detail 1, DESIGN CHOICE (log 45), and its line is retired or scrubbed, which of
the two is a free choice, with contents that nothing states (R81). -/
def execMemoryScrub (pa : Nat) (s : State) : Out :=
  let sec := pa / 64
  if !s.paOk (64 * sec) then notNow s
  else if !s.poison.contains sec then
    (if !s.isHbm pa then notNow s
     else .next { s with mp := { s.mp with corrected := KMap.modify 0 s.mp.corrected (s.homeOf pa) (· + (Config.freeWord s.fresh).toNat % 2 ^ 16) } }.bump)
  else
    let t := s.report 2 0 0 (s.locOfPa (64 * sec)) (64 * sec) 1 0xFFFF 1
    let bs := (List.range 64).map fun i => (Config.freeWord (s.fresh + 1 + i)).setWidth 8
    let t := if (Config.freeWord s.fresh).getLsbD 0 then { t with mp := { t.mp with badLines := t.mp.badLines ++ [sec] } } else t
    .next ({ t with mem := writeBytes t.mem (64 * sec) bs, poison := t.poison.filter (· != sec) }.bumpBy 65)

/-- CORRECTED_ERROR_REPORT: the firmware records a slice's corrected errors since its last record (R22, R79). -/
def execCorrectedErrorReport (slice : Fin 576) (s : State) : Out :=
  let n := slice.val
  let count := KMap.get 0 s.mp.corrected n
  if s.dev.mgmtRestart then notNow s
  else
    .next (({ s with mp := { s.mp with reported := KMap.set 0 s.mp.reported n count } }).report 1 0 0 (locOf (n / 96) (n / 32 % 3) 0 n (n / 32) 0) 0
      (count - KMap.get 0 s.mp.reported n) 0xFFFF 0)

/-- FATAL_DIE_ERROR: the next warm start repeats the built-in test (R75). -/
def execFatalDieError (die : Fin 6) (s : State) : Out :=
  if !s.dev.dmap.getLsbD die.val then notNow s
  else .next { s with dev := { s.dev with dieErr := s.dev.dieErr ||| BitVec.ofNat 6 (2 ^ die.val) } }

/-! ### CXL ports (R34) -/

/-- A CXL port marked lost in the hub's link status and recorded with a severity (Tables 2-6, 3-12). -/
def State.cxlLost (s : State) (port : Fin 4) (sev : Nat) : State :=
  let bit := BitVec.ofNat 16 (2 ^ (12 + port.val))
  ({ s with dev := { s.dev with cxlUp := s.dev.cxlUp &&& ~~~(BitVec.ofNat 4 (2 ^ port.val)), linkLost := s.dev.linkLost ||| bit } }).report
    5 1 sev (locOf 0 0 0 0 0 port.val) 0 1 0xFFFF 0

/-- CXL_PORT_LOSS: a pool port (R34). -/
def execCxlPortLoss (port : Fin 4) (s : State) : Out :=
  if !s.dev.cxlUp.getLsbD port.val || port == s.dev.hostPort then notNow s else .next (s.cxlLost port 1)

/-- HOST_PORT_LOSS: every grid ends killed, and no work is accepted until a cold start (R34, R412). -/
def execHostPortLoss (s : State) : Out :=
  if !s.dev.cxlUp.getLsbD s.dev.hostPort.val then notNow s else .next (s.cxlLost s.dev.hostPort 3).stopDevice

/-! ### Invalidations (07 R190) -/

/-- The oldest waiting invalidation requests appended to the log of every live die, while there is room; the hub's own
translations go at once (R190). The fuel is their number. -/
def State.acceptInvals (s : State) : Nat → State
  | 0 => s
  | n + 1 =>
    match s.dev.invalWait with
    | [] => s
    | (pasid, va, size) :: rest =>
      let s1 := (s.liveDies.filter fun d => 4096 ≤ (s.die d).invlog.length).foldl (fun s d => s.applyInvals d) s
      if s1.liveDies.any fun d => 4096 ≤ (s1.die d).invlog.length then s1
      else
        let x : Inval := { pasid := pasid, va := va, size := size, seq := s1.handles, removed := false, ids := [], posted := [] }
        let add (s : State) (d : Nat) : State := s.setDie d { s.die d with invlog := (s.die d).invlog ++ [x] }
        let s2 := { s1 with handles := s1.handles + 1, dev := { s1.dev with invalWait := rest } }
        ((s2.liveDies.foldl add s2 |> (add · 6)).applyInvals 6).acceptInvals n

/-- ATS_INVALIDATION_REQUEST: while the log of some die is full, that die applies its entries, and the request waits (R190). -/
def execAtsInvalidationRequest (pasid : BitVec 20) (va size : Nat) (s : State) : Out :=
  let t := { s with dev := { s.dev with invalWait := s.dev.invalWait ++ [(pasid, va, size)] } }
  .next (t.acceptInvals t.dev.invalWait.length)

/-- INVALIDATION_LOG_APPLY (R190): an entry whose accesses are still to be performed stays. -/
def execInvalidationLogApply (die : Fin 6) (s : State) : Out :=
  if (s.die die.val).invlog.any fun x => !x.removed || !s.invalWaits die.val x then
    .next ((s.applyInvals die.val).acceptInvals s.dev.invalWait.length)
  else notNow s

end Sys2Proof.Machine
end

