-- ==== Sys2Proof/Machine/Replay.lean ====
section
/-! DEFINITION. Replaying the operand log: lanes whose pages have come, references, commands and outputs, and what waited for
room (07 R191-R193; 08 R207; 16 R361, R372). -/

namespace Sys2Proof.Machine

/-- An entry of an operand log with its remaining lanes and refused lanes replaced; an entry with nothing left is gone, and
with it the record of a store. -/
def State.setEntry (s : State) (core : Nat) (e : LogEntry) (lanes refused : Mask) : State :=
  let put (x : LogEntry) : Option LogEntry :=
    if x.req.id = e.req.id ∧ x.req.party = e.req.party then
      (if lanes = 0 ∧ refused = 0 then none else some { x with req := { x.req with lanes := lanes }, refused := refused })
    else some x
  let s := s.updCore core fun c => { c with olog := c.olog.filterMap put }
  if e.req.isStore && lanes == 0 && refused == 0 then s.updGrp e.req.party fun g => { g with outst := g.outst.filter (·.id != e.req.id) } else s

/-- The place of a cause that a replay can find in the order of R253. -/
def faultRank (c : Nat) : Nat := [cMemerr, cIllfld, cAlign, cAccess, cMcflt, cRmterr, cEscape].findIdx (· == c)

/-- A trap that the replay of an entry has found, for the result's record: of several the first in the order of R253 (R192). -/
def State.logFault (s : State) (q : MemReq) (cause : Nat) (info : DWord) (lanes : Mask) : State :=
  s.updGrp q.party fun g => g.updOutst q.id fun o =>
    { o with fault := match o.fault with
      | some (c, i, m) => if c.toNat = cause then some (c, i, m ||| lanes) else if faultRank c.toNat ≤ faultRank cause then some (c, i, m) else some (BitVec.ofNat 8 cause, info, lanes)
      | none => some (BitVec.ofNat 8 cause, info, lanes) }

/-- The lanes of an STREF whose pages have come: those that pass are stored, a failed check is the instruction's trap (R207, R192).
A header at a peer is read first. -/
def State.replayRef (s : State) (core : Nat) (e : LogEntry) (go : Mask) : State :=
  let q := { e.req with lanes := go }
  match s.askHeader q with
  | some t => t
  | none =>
    let (t, res) := s.doRefs q
    let t := t.dropHeaders q
    let t := match refFault res with | some (c, i, m) => t.logFault q c i m | none => t
    t.setEntry core e (e.req.lanes &&& ~~~go) e.refused

/-- A logged COPY or COPYM whose extension's page has come: the extension is read, the checks that were left are made, and the copy
starts, which gives its promise (R361, R362). -/
def State.replayCommand (s : State) (core : Nat) (e : LogEntry) (i : Instr) : State :=
  let q := e.req
  let s := { s with who := q.party }
  let fail (t : State) (c : Nat) (x : DWord) : State := (t.logFault q c x 0).setEntry core e 0 e.refused
  match s.formOf i q.ops with
  | none => s
  | some f =>
    match s.paramBytes q.party (q.va 0) 48 with
    | .wait t => t
    | .trap t c x => fail t c x
    | .got t ext =>
      let c := t.copyWith f.kind q.ops true ext
      if copyIll c q.ops ext then fail t cIllfld (opInfo i)
      else
        match (f.rest t c).findSome? id with
        | some (k, x) => fail t k x
        | none =>
          match t.copyStart c with
          | none => s
          | some (u, promise) => (u.updGrp q.party fun g => g.updOutst q.id fun o => { o with sval := promise }).setEntry core e 0 e.refused

/-- A log entry replayed in the lanes whose pages translate now (R192); a page that names no memory is ACCESS (R20). The acquire part
acts when its last lane has been performed. -/
def State.replay (s : State) (core : Nat) (e : LogEntry) : State :=
  let q := e.req
  let go := q.lanes &&& ~~~s.missLanes q
  if go = 0 then s
  else
    match q.kind with
    | .ref => { s with who := q.party }.replayRef core e go
    | .command i => s.replayCommand core e i
    | .rows | .tile => s.setEntry core e (q.lanes &&& ~~~go) e.refused
    | _ =>
      let bad := (lanesOf go).any fun i => !s.loadHits q i && s.lookLane q i == .bad
      let room := !q.isStore || s.roomFor core (s.pasidOf q.party) ((lanesOf go).map fun i => q.va i / 64)
      if !room then s
      else if bad then ({ s with who := q.party }.noteCause q.party cAccess (BitVec.ofNat 64 (q.va (lowestLane go) % 2 ^ 57))).fatalEnd q.party cAccess
      else (({ s with who := q.party }.doLanes { q with lanes := go }).setEntry core e (q.lanes &&& ~~~go) e.refused).acqDone q

/-- A log entry can be replayed: its group's team runs; an output goes on when its team has ended. -/
def State.replays (s : State) (e : LogEntry) : Bool :=
  s.runs e.req.party || (e.req.kind == .rows && (s.team e.req.party.teamOf).life == .ended)

/-- Every log entry of a core that can be replayed, oldest first, then its matrix outputs that wait for pages or room. -/
def State.replayCore (s : State) (core : Nat) : State :=
  ((s.core core).olog.foldl (fun s e => if s.replays e then s.replay core e else s) s).pumpMouts core

/-- The pages that the log entries of a core still need asked for at its die: after a resume (R193), or where an answer has left
some. -/
def State.askLog (s : State) (core : Nat) : State :=
  (s.core core).olog.foldl (fun (s : State) (e : LogEntry) =>
    (lanesOf e.req.lanes).foldl (fun s i =>
      match s.laneNeeds e.req i with | some (va, write) => s.askEngine (dieOfCore core) (s.pasidOf e.req.party) va write | none => s) s) s

end Sys2Proof.Machine
end

