-- ==== Sys2Proof/Machine/LinkEvents.lean ====
section
/-! DEFINITION. Events of the Tirsol links: flits, retraining and loss of a port, requests at their home, responses and
timeouts at their source, and the loss of a peer (02 R35-R50). -/

namespace Sys2Proof.Machine

/-! ### Flits (R35, R36) -/

/-- Replay-buffer entries that an acknowledgement covers are freed (R36). -/
def ackReplay (l : List Sector) (ack : BitVec 8) : List Sector :=
  match l.findIdx? fun f => flitSeq f == ack with
  | some i => l.drop (i + 1)
  | none => l

/-! ### Requests as they lie in flits (Table 2-3, R39) -/

/-- `op` of a request: the kind in [3:0], the SATOM function of an atomic in [7:4] (log 15). -/
def opKind (op : BitVec 8) : Nat := fieldN op 0 4
def opFn (op : BitVec 8) : Nat := fieldN op 4 4

/-- Bytes of data and metadata that follow the head of a request (R39): a write's, and the operands of a lane atomic for several lanes. -/
def reqTail (op : BitVec 8) (len : Nat) (md : Bool) : Nat := if [1, 2, 5].contains (opKind op) then (if md then 72 else 64) * len else 0

/-- The transaction at the head of a port's flits, when all of it has arrived, and the flits after it. -/
def parseReq (rx : List Sector) : Option (TReq × List Sector) :=
  match rx with
  | [] => none
  | f :: rest =>
    let h : BitVec 448 := BitVec.ofNat 448 (leBytes (((bytesOfSector f).drop 4).take 56))
    let len := fieldN h 80 4
    let op := h.extractLsb' 72 8
    let md := fieldN h 136 8 / 16 % 2 == 1
    let n := reqTail op len md
    let k := ceilDiv n 56
    if rest.length < k then none
    else
      let bytes := ((rest.take k).flatMap fun d => ((bytesOfSector d).drop 4).take 56).take n
      let data := if n = 0 then [] else bytes.take (64 * len)
      let mds := if n = 0 ∨ !md then [] else (List.range len).map fun i => BitVec.ofNat 64 (leBytes (((bytes.drop (64 * len)).drop (8 * i)).take 8))
      some ({ src := h.extractLsb' 0 12, dst := h.extractLsb' 12 12, seq := h.extractLsb' 24 24, ackt := h.extractLsb' 48 24, op := op, len := h.extractLsb' 80 4,
              pa := h.extractLsb' 84 52, ord := h.extractLsb' 136 8, opnd := h.extractLsb' 144 304, data := data, md := mds }, rest.drop k)

/-- The transactions in a port's flits lack data flits still (R39). -/
def rxOpen : Nat → List Sector → Bool
  | 0, _ => false
  | n + 1, rx =>
    match rx, parseReq rx with
    | [], _ => false
    | _, none => true
    | _, some (_, rest) => rxOpen n rest

/-- Length of a head flit's request: 5 to 15 are discarded and counted (Table 2-3). -/
def headLen (f : Sector) : Nat := fieldN f (32 + 80) 4

/-- A flit received in order, by its type (Table 2-2): a response's flits are the source's (`tirsolResponseArrival`), and
a link-control flit asks for replay from its `lack` + 1 (log 15). -/
def Port.take (p : Port) (f : Sector) : Port :=
  match flitType f with
  | 0 | 2 => p
  | 4 => p.replayAll
  | 1 => if 4 < headLen f then { p with discarded := p.discarded + 1 } else { p with rx := p.rx ++ [f] }
  | 3 => if rxOpen p.rx.length p.rx then { p with rx := p.rx ++ [f] } else p
  | _ => { p with discarded := p.discarded + 1 }

/-- A flit received in order: progress of the replays asked for, and, where it acknowledges what was sent, of those made (R36). -/
def Port.accept (p : Port) (f : Sector) : Port :=
  let left := ackReplay p.replay (flitAck f)
  (({ p with lack := flitSeq f, asked := false, replays := 0, replay := left, resent := if left.length < p.replay.length then 0 else p.resent }).take f).flush

/-- Replay asked for from `lack` + 1 by a link-control flit; after 32 replays without progress the port retrains (R36). -/
def Port.ask (p : Port) : Port := { p.queue [(4, [])] with asked := true, replays := p.replays + 1, retraining := 32 ≤ p.replays + 1 }

/-- TIRSOL_FLIT_RECEIVE: dropped where its CRC or its sequence is wrong, upon which replay is asked for (R36); the flits that were
on their way behind a dropped one are out of sequence, and what they miss has been asked for already. What an acknowledgement
frees of the replay buffer lets waiting flits go. -/
def execTirsolFlitReceive (port : Fin 12) (flit : Sector) (s : State) : Out :=
  let p := s.ports.get port
  if !p.trained || p.down || p.retraining then notNow s
  else if flitOk flit ∧ flitSeq flit = p.lack + 1 then .next (s.updPort port (·.accept flit))
  else if flitOk flit ∧ p.asked then .next s
  else .next (s.updPort port Port.ask)

/-! ### Failures (R45) -/

/-- RMTERR information (Table 2-5). -/
def rmtInfo (applied status : Nat) (oldv : Bool) (p : BitVec 12) : DWord := BitVec.ofNat 64 (applied + status * 4 + oldv.toNat * 16 + p.toNat * 2 ^ 16)

/-- The lanes of a request whose word lies in a peer's sector. -/
def MemReq.lanesAt (q : MemReq) (p : BitVec 12) (pa : Nat) : Mask := maskOf fun i => q.lanes.getLsbD i && q.peerOf i == some p && q.paOf i / 64 == pa / 64

/-! ### Requests at their home (R38-R43) -/

/-- Sequence numbers are compared within a span of 2^23 (R38). -/
def seqLe (a b : BitVec 24) : Bool := (b - a).toNat < 2 ^ 23

/-- A write of a request performed at its home (R39, R177-R180): a write is a copy's, a posted write a store's, and
neither makes a reference, since only this device's STREF does (R179, R180). -/
def State.remoteWrite (s : State) (q : TReq) : State :=
  (List.range q.len.toNat).foldl (fun s k =>
    let st : SecStore :=
      { mask := q.opnd.extractLsb' (64 * k) 64, data := sectorOfBytes ((q.data.drop (64 * k)).take 64),
        bnds := match q.md[k]? with | some m => mdBounds m | none => Vector.replicate 16 0, tset := 0, hset := false }
    s.homeStore (q.pa.toNat / 64 + k) st (opKind q.op == 1)) s

/-- The data of sectors, followed by their metadata where they lie in a metadata region (R39). -/
def State.readResponse (s : State) (secs : List Nat) : List Byte :=
  secs.flatMap (fun n => readBytes s.mem (64 * n) 64) ++
    (if secs.any fun n => s.inRegion (64 * n) then secs.flatMap fun n => bytesLE 8 (s.mdOf n).toNat else [])

/-- The operands of a 32-bit atomic's lanes: of one in `opnd`, or of several in its data, with their bounds (log 15). -/
def operandsOf (q : TReq) : List (LaneVal × LaneVal) :=
  if fieldN q.opnd 256 6 = 0 then [(⟨q.opnd.extractLsb' 0 32, q.opnd.extractLsb' 128 16⟩, ⟨q.opnd.extractLsb' 64 32, q.opnd.extractLsb' 144 16⟩)]
  else (List.range (fieldN q.opnd 256 6)).map fun i =>
    let b : Bound := if i < 16 then q.opnd.extractLsb' (16 * i) 16 else ((q.md[(i - 16) / 4]?).getD 0).extractLsb' (16 * ((i - 16) % 4)) 16
    let word (k : Nat) : Word := BitVec.ofNat 32 (leBytes ((q.data.drop (8 * i + 4 * k)).take 4))
    (⟨word 0, b⟩, ⟨word 1, b⟩)

/-- A request performed: the state, the status of Table 2-4, and the data of its response; an atomic on a 32-bit word
answers the old value that its first lane finds and the bound the home held for it (10 R236). The aperture in which a peer may
reach this device (Table 2-4) is every address that exists: DESIGN CHOICE (log 45). -/
def State.perform (s : State) (q : TReq) : State × Nat × List Byte :=
  let pa := q.pa.toNat
  let secs := (List.range q.len.toNat).map (pa / 64 + ·)
  let small (op : Nat) : State × Nat × List Byte :=
    let r := (operandsOf q).foldl (fun (acc : State × List LaneVal) x => let r := acc.1.homeAtom32 op pa x.1 x.2; (r.1, acc.2 ++ [r.2])) (s, [])
    let old := r.2.headD LaneVal.zero
    (r.1, 0, bytesLE 4 old.val.toNat ++ bytesLE 2 old.bnd.toNat)
  if (pa / 64 :: (if opKind q.op ≤ 2 then secs else [])).any fun n => !s.paOk (64 * n) then (s, 2, [])
  else
    match opKind q.op with
    | 0 => if secs.any s.poison.contains then (s, 1, []) else (s, 0, s.readResponse secs)
    | 1 | 2 => (s.remoteWrite q, 0, [])
    | 3 =>
      if s.poison.contains (pa / 64) then (s, 1, [])
      else if opFn q.op ≤ 9 then
        let r := s.homeAtom64 (opFn q.op) pa (q.opnd.extractLsb' 0 64) (q.opnd.extractLsb' 64 64)
        (r.1, 0, bytesLE 8 r.2.toNat)
      else small (opFn q.op)
    | 5 => if s.poison.contains (pa / 64) then (s, 1, []) else small (opFn q.op)
    | _ => (s, 0, [])

/-- A response put on the port at which its request came (R41, R43). -/
def State.respond (s : State) (port : Fin 12) (q : TReq) (status : Nat) (applied : Bool) (data : List Byte) : State :=
  s.updPort port fun p => p.queue (respFlits s.ownDev q.src q.seq status applied (opKind q.op == 0) data)

/-- TIRSOL_REQUEST_ARRIVAL: the oldest request of a port's flits at its home (R41). A request for another device number is
discarded (log 45). -/
def execTirsolRequestArrival (port : Fin 12) (q : TReq) (s : State) : Out :=
  match parseReq (s.ports.get port).rx with
  | none => notNow s
  | some (r, rest) =>
    if r ≠ q then notNow s
    else if (s.dev.devNum.any (· != q.dst)) then .next (s.updPort port fun p => { p with rx := rest })
    else
      let s := s.updPort port fun p => { p with rx := rest }
      let x := s.peer q.src.toNat
      let win := x.window.filter fun e => !seqLe e.seq q.ackt
      let s := s.setPeer q.src.toNat { x with window := win, acked := some q.ackt }
      let older := !win.isEmpty && win.all fun e => seqLe q.seq e.seq && q.seq != e.seq
      if seqLe q.seq q.ackt || older then .next s
      else
        match win.find? (fun e => e.seq == q.seq) with
        | some e => .next (s.respond port q e.status.toNat e.applied e.data)
        | none =>
          if 1024 ≤ win.length then .next (s.respond port q 3 false [])
          else
            let (t, status, data) := s.perform q
            let t := if status = 0 then t.carry 6 (dieOfHome (s.homeOf q.pa.toNat)) (64 * max 1 q.len.toNat) else t
            let e : WinEntry := { seq := q.seq, status := BitVec.ofNat 2 status, applied := status == 0, data := data }
            .next ((t.setPeer q.src.toNat { t.peer q.src.toNat with window := win ++ [e] }).respond port q status (status == 0) data)

/-! ### Responses at their source (R43-R45) -/

/-- A sector of a peer with the bounds its response carried. -/
def respSector (data : List Byte) : Sector × Vector Bound 16 :=
  (sectorOfBytes (data.take 64), if 72 ≤ data.length then mdBounds (BitVec.ofNat 64 (leBytes ((data.drop 64).take 8))) else Vector.replicate 16 0)

/-- A request without a response to a peer removed; `ackt` follows (Table 2-3). -/
def State.dropSent (s : State) (p : BitVec 12) (seq : BitVec 24) : State :=
  let x := s.peer p.toNat
  let sent := x.sent.filter (·.seq != seq)
  s.setPeer p.toNat { x with sent := sent, ackt := (match sent with | t :: _ => t.seq | [] => x.seqNext) - 1 }

/-- Lanes of a pending request answered: those lanes are over, and the next are sent. -/
def State.answered (s : State) (q : MemReq) (lanes : Mask) : State :=
  let left := q.lanes &&& ~~~lanes
  let s := { s with atoms := s.atoms.filterMap fun (x : MemReq) => if x.id = q.id ∧ x.party = q.party ∧ x.lanes = q.lanes then (if left = 0 then none else some { x with lanes := left }) else some x }
  if left = 0 then s.acqDone q else s.pump { q with lanes := left }

/-- A read's data given to the lanes in the sector, and filled into L1 (07 R169). -/
def State.answerLoad (s : State) (q : MemReq) (lanes : Mask) (data : List Byte) : State :=
  let t := s.giveLoad q lanes fun i => if s.inSave q.party (q.va i) then (freeSector (s.fresh + 16 * i), none) else (respSector data, none)
  let t := if (lanesOf lanes).any fun i => s.inSave q.party (q.va i) then t.bumpBy 512 else t
  let t := if q.hint = 2 then t else t.fillL1With (s.coreOf q.party) q.party (q.va (lowestLane lanes) / 64) (respSector data) q.hint
  t.answered q lanes

/-- An atomic's old value given to its lanes, or to its scalar result; a lane behind others at its address receives what they leave
(15 R341, R346). -/
def State.answerAtomic (s : State) (q : MemReq) (lanes : List Nat) (data : List Byte) : State :=
  let m := maskOf fun i => lanes.contains i
  let hidden := s.saveLanes q m
  let op := match q.kind with | .agg op | .atomic op _ => op.toNat | _ => 0
  let old : LaneVal := ⟨BitVec.ofNat 32 (leBytes (data.take 4)), BitVec.ofNat 16 (leBytes ((data.drop 4).take 2))⟩
  let give (o : Outst) : Outst :=
    if q.lane then { o with words := putWords o.words m fun j => [(lanes.takeWhile (· < j)).foldl (q.after op) old] }
    else { o with sval := BitVec.ofNat 64 (leBytes (data.take q.bytes)) }
  ((s.updGrp q.party fun g => g.updOutst q.id fun o => (give o).hideSave hidden s.fresh).bumpBy (if hidden = 0 then 0 else 64)).answered q m

/-- A response to a load or an atomic of an instruction (R43, R45): data, or RMTERR, with the old value where it carried one. -/
def State.answerReq (s : State) (p : BitVec 12) (t : TSent) (status applied : Nat) (data : List Byte) : State :=
  match s.atoms.find? fun q => q.id == t.id && q.party == t.party && q.lanesAt p t.pa != 0 with
  | none => s
  | some q =>
    let at_ := q.lanesAt p t.pa
    let turn := q.turnLanes p t.pa
    let lanes := if q.isLoad then at_ else maskOf fun i => turn.contains i
    if status = 0 then (if q.isLoad then s.answerLoad q lanes data else s.answerAtomic q turn data)
    else
      let info := rmtInfo applied status (!q.isLoad && !data.isEmpty) p
      let s := s.updGrp q.party fun g => g.updOutst q.id fun o =>
        { o with rmt := match o.rmt with | some (i, m) => some (i, m ||| lanes) | none => some (info, lanes) }
      if q.isLoad ∨ data.isEmpty then s.answered q lanes else s.answerAtomic q turn data

/-- A sector of code or parameters that a peer has sent: into the instruction cache, or into L1 of the core unless an acquire has
made it too old (08 R199). -/
def State.answerSector (s : State) (t : TSent) (data : List Byte) : State :=
  let x := respSector data
  if t.id = codeId then s.updCore t.core fun c => c.icPut t.lane ⟨s.pasidOf t.party, t.va / 64, x.1⟩
  else if t.by_.isEmpty then s
  else (s.updCore t.core fun c => { c with l1 := c.l1.filter fun l => !(l.ctx == s.ctxOf t.party && l.va == t.va / 64) }).fillL1With t.core t.party (t.va / 64) x

/-- A read of code or parameters failed: RMTERR at the party that waits for it, or of the command in the operand log that reads its
extension (R45, 16 R361). -/
def State.failSector (s : State) (t : TSent) (info : DWord) : State :=
  let reads (e : LogEntry) : Bool := match e.req.kind with
    | .command _ => e.req.lanes != 0 && (codePlaces (e.req.va 0) 48).any fun a => a / 64 == t.va / 64
    | _ => false
  if !s.runs t.party then s
  else
    match (if t.id = paramId then (s.logOf t.party).find? reads else none), (if t.lane then (s.grp t.party).block else none) with
    | some e, _ => (s.logFault e.req cRmterr info 0).setEntry t.core e 0 e.refused
    | none, some b =>
      match b.rec? 0 with
      | some q =>
        match laneTrapOut { s with who := t.party } b 0 q cRmterr info ((s.grp t.party).eff q) ((s.grp t.party).eff q) false [] with
        | .next u => u
        | _ => s
      | none => s
    | none, none => s.scalarTrap t.party cRmterr info (s.grp t.party).pc []

/-- A header that an STREF or LDHDR waits for, as a peer has sent it, or the RMTERR of one that it could not give (08 R207, R45). -/
def State.answerHeader (s : State) (t : TSent) (fail : Option DWord) (data : List Byte) : State :=
  if !s.runs t.party ∨ t.by_.isEmpty then s
  else
    let md : DWord := BitVec.ofNat 64 (leBytes ((data.drop 64).take 8))
    (s.updGrp t.party fun g => { g with hdrs := (t.va / 64, (respSector data).1, md, fail) :: g.hdrs.filter (·.1 != t.va / 64) }).replayCore t.core

/-- A sector for a TLDA as a peer has sent it, or the RMTERR that ends its loop (R45, 15 R348). -/
def State.answerTile (s : State) (t : TSent) (fail : Option DWord) (data : List Byte) : State :=
  s.updGrp t.party fun g =>
    match fail with
    | none => { g with tiles := g.tiles.map fun u => if u.q.id = t.id then { u with got := u.got ++ [(t.va / 64, (respSector data).1, (respSector data).2)] } else u }
    | some i =>
      let lanes := ((g.tiles.find? (·.q.id == t.id)).map (·.q.lanes)).getD 0
      { g with tiles := g.tiles.filter (·.q.id != t.id) }.updOutst t.id fun o => { o with rmt := some (i, lanes) }

/-- The counter of a waiting SUSP or JOIN as a peer has sent it (R134): reached, it goes on; else it is read again later. -/
def State.answerWait (s : State) (t : TSent) (data : List Byte) : State :=
  let p := t.party
  let val (ea : DWord) : DWord := (respSector data).1.extractLsb' (8 * (ea.toNat % 64)) 64
  match (s.grp p).wait with
  | .susp ea target cont _ => if (val ea).ult target then s else (s.acquireAt p 3).updGrp p fun g => { g with wait := .none, pc := cont }
  | .join ea target stat d _ =>
    if (val ea).ult target then s
    else
      match joinLoad d stat { s.acquireAt p 3 with who := p } with
      | .next u => u
      | _ => s
  | _ => s

/-- A sector of a stream start record as a peer has sent it, or that it could not be read (03 R55). -/
def State.answerHub (s : State) (t : TSent) (ok : Bool) (data : List Byte) : State :=
  match t.party with
  | .stream k =>
    let c := s.ctx (k / 4)
    if c.state = 1 then s.setCtx (k / 4) { c with record := c.record ++ [(t.va / 64, if ok then some (respSector data).1 else none)] } else s
  | .group _ _ => s

/-- The version word of an all-or-nothing output as a peer has sent it: an even one is made odd by a compare-and-swap, which has
locked the tile where it found that value (08 R205). -/
def State.answerLock (s : State) (peer : BitVec 12) (t : TSent) (q : SeqCmd) (o : MoutParams) (fail : Option DWord) (data : List Byte) : State :=
  let v : DWord := BitVec.ofNat 64 (leBytes data)
  match fail with
  | some i => s.endCmd t.core q (some (cRmterr, i))
  | none =>
    if t.op = opRead then
      let pa := t.pa + (o.dadr.toNat - 8) % 64
      let old : DWord := (sectorOfBytes (data.take 64)).extractLsb' (8 * (pa % 64)) 64
      if old.getLsbD 0 then s else s.sendAtom64 peer 9 old (old + 1) pa q.id t.core t.party (o.dadr.toNat - 8)
    else if v ≠ t.opnd.extractLsb' 0 64 then s
    else s.setCmd t.core { q with locked := some (v + 1) } |>.pumpMout t.core { q with locked := some (v + 1) } o

/-- A replica of a copy, a sector of its source, or its counter at a peer: a multicast goes on where one replica fails, another copy
stops (R45, R50, 16 R363). -/
def State.answerCopy (s : State) (peer : BitVec 12) (t : TSent) (c : Copy) (fail : Option DWord) (data : List Byte) : State :=
  if t.op = opRead then (match fail with | none => s.answerSector t data | some i => s.stopCopy t.core c cRmterr i)
  else
    let s := s.updCopy t.core c.id fun c => { c with waiting := c.waiting.erase peer }
    match fail, c.kind with
    | none, _ => s
    | some i, .peers _ => if t.op = opWrite then s.failReplica t.core c.id i else s.stopCopy t.core c cRmterr i
    | some i, _ => s.stopCopy t.core c cRmterr i

/-- A posted write performed at its peer: the L1 copies of its sector are clean, unless the buffer holds it again (07 R169). -/
def State.posted (s : State) (t : TSent) : State :=
  let pasid := s.pasidOf t.party
  if t.core = hubUnit ∨ (s.core t.core).cbuf.any (fun e => e.pasid == pasid && e.va == t.va / 64) then s else s.cleanL1 t.core pasid (t.va / 64)

/-- A response at the source of its request: a posted write, a copy's, a waiting counter, code, parameters or a header, the sector
of a TLDA, the version lock of an output, or an instruction's load or atomic (R43-R45). `applied` is 2 where the peer is lost. -/
def State.response (s : State) (peer : BitVec 12) (t : TSent) (st applied : Nat) (data : List Byte) : State :=
  let info (oldv : Bool) : DWord := rmtInfo applied st oldv peer
  let fail : Option DWord := if st = 0 then none else some (info false)
  if t.op = opPosted then s.posted t
  else if t.core = hubUnit then (if t.op = opRead then s.answerHub t (st == 0) data else s)
  else if t.op = opRead ∧ t.id < 4 then
    if t.id = suspId then (if st = 0 then s.answerWait t data else s.scalarTrap t.party cRmterr (info false) (s.grp t.party).pc [])
    else if t.id = hdrId then s.answerHeader t fail data
    else if st = 0 then s.answerSector t data
    else if t.id = paramId ∧ t.lane then
      (match (s.core t.core).seq.find? fun q => q.started && q.params.isSome with
       | some q => s.endCmd t.core q (some (cRmterr, info false))
       | none => s)
    else s.failSector t (info false)
  else
    match (s.core t.core).copies.find? (·.id == t.id), (s.core t.core).seq.find? fun q => q.id == t.id && q.started with
    | some c, _ => s.answerCopy peer t c fail data
    | none, some q => (match q.kind with | .mout o => s.answerLock peer t q o (if st = 0 then none else some (info (!data.isEmpty))) data | _ => s)
    | none, none => if (s.grp t.party).tiles.any (·.q.id == t.id) then s.answerTile t fail data else s.answerReq peer t st applied data

/-! ### Loss of a peer (R45-R48) -/

/-- A pending remote access of some lanes fails (R45); a load or atomic with no lane left is over. -/
def State.failLanes (s : State) (q : MemReq) (lanes : Mask) (info : DWord) : State :=
  let s := s.updGrp q.party fun g => g.updOutst q.id fun o => { o with rmt := match o.rmt with | some (i, m) => some (i, m ||| lanes) | none => some (info, lanes) }
  { s with atoms := s.atoms.filterMap fun x =>
      if x.id = q.id ∧ x.party = q.party ∧ x.lanes = q.lanes then (if x.lanes &&& ~~~lanes = 0 then none else some { x with lanes := x.lanes &&& ~~~lanes }) else some x }

/-- Bits of `c.fstat` set in a party's register (R46). -/
def State.markFstat (s : State) (p : Party) (bits : DWord) : State := s.updGrp p fun g => { g with fstat := g.fstat ||| bits }

/-- A request to a peer that is lost before it has answered (R45-R48): the groups are marked whose requests it carries; RMTERR with
applied 2, except that a replica of a copy goes on without it (R50), as posted writes do. Requests of the hub's units are no group's.
Loads and atomics of instructions follow with all their lanes. -/
def State.sentGone (s : State) (p : BitVec 12) (t : TSent) : State :=
  if t.core = hubUnit then s
  else
    let s := (t.party :: t.by_).dedup.foldl (fun s w => s.markFstat w (s.peerBits p)) s
    if t.op = opPosted ∨ s.atoms.any (fun q => q.id == t.id && q.party == t.party) then s
    else if t.op = opWrite then s.updCopy t.core t.id fun c => { c with waiting := c.waiting.erase p }
    else s.response p t 3 2 []

/-- A peer is lost (R46): marked in the groups with a request in flight or a posted write without a response, and in the
hub's link status. A request that was still queued here was not performed (R48). -/
def State.losePeer (s : State) (p : BitVec 12) : State :=
  let x := s.peer p.toNat
  let bits := s.peerBits p
  let gone (s : State) : State := { s.setPeer p.toNat { s.peer p.toNat with lost := true, sent := [] } with dev := { s.dev with linkLost := s.dev.linkLost ||| bits.setWidth 16 } }
  let s1 := x.sent.foldl (fun s t => s.sentGone p t) (gone s)
  let s2 := (s1.atoms.filter fun q => (lanesOf q.lanes).any fun i => q.peerOf i == some p).foldl (fun s q =>
    let at_ := maskOf fun i => q.lanes.getLsbD i && q.peerOf i == some p
    let flying := maskOf fun i => at_.getLsbD i && x.sent.any fun t => t.id == q.id && t.party == q.party && t.pa / 64 == q.paOf i / 64
    let t := (s.failLanes q at_ (rmtInfo (if flying = 0 then 0 else 2) 3 false p))
    t.markFstat q.party bits) s1
  gone s2

/-- Peers whose every port is down are lost (R46). -/
def State.loseDown (s : State) : State :=
  ((s.peers.filter fun e => e.2.ports != 0 && !e.2.lost && (s.livePorts (BitVec.ofNat 12 e.1)).isEmpty).map (·.1)).foldl
    (fun s n => s.losePeer (BitVec.ofNat 12 n)) s

/-- A port is declared down: the security core reports it (R37, Table 3-13). Its link starts afresh when it trains again (log 2). -/
def State.portDown (s : State) (port : Fin 12) : State :=
  ((s.updPort port fun p => { p with down := true, retraining := false, lack := 0xFF, lseq := 0xFF, replay := [], txq := [], rx := [], asked := false, replays := 0, resent := 0 }).report 5 1 1 (locOf 0 0 0 0 0 port.val) 0 1 0xFFFF 0).loseDown

/-- LOSS_OF_SIGNAL (R37). -/
def execLossOfSignal (port : Fin 12) (s : State) : Out :=
  if !(s.ports.get port).trained || (s.ports.get port).down then notNow s else .next (s.portDown port)

/-- A lost peer that a retrained port reaches starts with empty windows and sequence numbers from 0 (R48). -/
def State.revivePeers (s : State) (port : Fin 12) : State :=
  { s with peers := s.peers.filterMap fun e =>
      let x := if e.2.ports.getLsbD port.val && e.2.lost then { Peer.empty with ports := e.2.ports } else e.2
      if x = Peer.empty then none else some (e.1, x) }

/-- RETRAIN_END (R36, R37): after two failures in a row the port is down. -/
def execRetrainEnd (port : Fin 12) (ok : Bool) (s : State) : Out :=
  let p := s.ports.get port
  if !p.retraining then notNow s
  else if ok then
    .next ((s.updPort port fun p => { p with retraining := false, down := false, trained := true, failed := 0, asked := false, replays := 0, resent := 0 }.flush).revivePeers port)
  else if p.failed + 1 < 2 then .next (s.updPort port fun p => { p with failed := p.failed + 1 })
  else .next ((s.updPort port fun p => { p with failed := p.failed + 1 }).portDown port)

/-! ### Arrivals (R42, R43) -/

/-- TIRSOL_RESPONSE_ARRIVAL: BUSY is retransmitted; any other status completes the request at its source (R43), and what
waited for its sector is sent (R40). -/
def execTirsolResponseArrival (peer : BitVec 12) (seq : BitVec 24) (status : BitVec 2) (applied : Bool) (data : List Byte) (s : State) : Out :=
  match (s.peer peer.toNat).sent.find? (·.seq == seq) with
  | none => notNow s
  | some t =>
    if status = 3 then .next (s.transmit peer t)
    else .next (((s.dropSent peer seq).response peer t status.toNat applied.toNat data).pumpPeer peer)

/-- RETRANSMIT_TIMEOUT: the next live port of the set, or after the fourth retransmission the peer is lost (R42). -/
def execRetransmitTimeout (peer : BitVec 12) (seq : BitVec 24) (s : State) : Out :=
  let x := s.peer peer.toNat
  match x.sent.find? (·.seq == seq) with
  | none => notNow s
  | some t =>
    let live := s.livePorts peer
    if 4 ≤ t.tries ∨ live.isEmpty then .next (s.losePeer peer)
    else
      let next := match live.find? (t.port < ·) with | some n => n | none => live.headD 0
      .next ((s.setPeer peer.toNat { x with sent := x.sent.map fun y => if y.seq = seq then { y with tries := y.tries + 1, port := next } else y }).transmit peer
        { t with tries := t.tries + 1, port := next })

end Sys2Proof.Machine
end

