-- ==== Sys2Proof/Machine/Place.lean ====
section
/-! DEFINITION. What fits where: room on a core (04 R98, R102), the rectangles a cluster takes (R100, R101), admission and
hold-back (R95-R97), the order of placement (R99), and the start of a team (R85, R113, R132). -/

namespace Sys2Proof.Machine

/-! ### Room on a core (R98, R102) -/

/-- An ended team whose queued copies or started outputs are not complete: it keeps its room until they are (11 R262). -/
def State.lingers (s : State) (h : Nat) : Bool :=
  let c := s.core (s.team h).core
  (s.team h).life == .ended && ((c.copies.any fun x => x.team == h && x.stopped.isNone) || c.seq.any fun q => q.onTeam == h)

/-- Teams on a core. -/
def State.teamsOn (s : State) (core : Nat) : List Nat :=
  (s.teams.filter fun e => e.2.core == core && (e.2.life == .running || e.2.life == .saving || s.lingers e.1)).map (·.1)

/-- Group slots of a core in use. -/
def State.slotsUsed (s : State) (core : Nat) : List (Fin 16) :=
  (s.teamsOn core).flatMap fun h => (s.team h).groups.toList.filterMap fun g => if g.used then some g.slotNo else none
/-- Registers of a core in use. -/
def State.regsUsed (s : State) (core : Nat) : Nat :=
  ((s.teamsOn core).map fun h => let c := (s.grid (s.team h).grid).cfg; (fieldN c 0 4 + 1) * cfgRegs c).sum
/-- Scratch in use: base and bytes. -/
def State.scratchUsed (s : State) (core : Nat) : List (Nat × Nat) :=
  (s.teamsOn core).map fun h => ((s.team h).scrBase, (s.grid (s.team h).grid).scrBytes)
/-- Accumulator slots in use. -/
def State.accUsed (s : State) (core : Nat) : List Nat := (s.teamsOn core).flatMap fun h => (s.team h).accMap

/-- A distributor has freed the core, or frees it, for another grid (R106, R110). -/
def State.claimed (s : State) (gh core : Nat) : Bool :=
  s.dies.any fun e => e.2.claims.any fun x => x.1 != gh && x.2.contains core

/-- A core takes teams of the grid: live, in no other grid's weight phase; a weight-phase grid shares it with no other (R102). -/
def State.coreOpen (s : State) (gh core : Nat) : Bool :=
  !s.claimed gh core &&
  core < Config.coreCount && s.dev.dmap.getLsbD (dieOfCore core) &&
    (match (s.core core).wphase with | some g => g == gh | none => true) &&
    (!cfgWph (s.grid gh).cfg || !(s.teamsOn core).any fun h => (s.team h).grid != gh)

/-- A place on a core that a team of the grid can take (R98). -/
def State.placeFits (s : State) (gh : Nat) (p : Place) : Bool :=
  let g := s.grid gh
  s.coreOpen gh p.core && p.slots.length == g.ngrp && p.slots.Nodup && p.slots.all (fun x => !(s.slotsUsed p.core).contains x) &&
    s.regsUsed p.core + g.ngrp * cfgRegs g.cfg ≤ 1536 &&
    p.scr % 2 ^ 19 == 0 && p.scr < 2 ^ 23 && !(s.scratchUsed p.core).any (fun u => u.1 == p.scr) &&
    ((s.scratchUsed p.core).map (·.2)).sum + g.scrBytes ≤ Config.teamScratch &&
    p.acc.length == cfgNacc g.cfg && p.acc.Nodup && p.acc.all (fun a => a < 16 && !(s.accUsed p.core).contains a)

/-- The first place on a core that fits: lowest slots and accumulators, the first range of scratch. -/
def State.firstPlace (s : State) (gh core : Nat) : Option Place :=
  let g := s.grid gh
  let slots := ((List.finRange 16).filter fun x => !(s.slotsUsed core).contains x).take g.ngrp
  let acc := ((List.range 16).filter fun a => !(s.accUsed core).contains a).take (cfgNacc g.cfg)
  ((List.range 16).map fun k => ({ core := core, slots := slots, scr := 2 ^ 19 * k, acc := acc } : Place)).find? fun p => s.placeFits gh p

/-! ### Clusters (R100, R101) -/

/-- A core of a die by row and column (01 R15). -/
def coreAt (die row col : Nat) : Nat := 288 * die + 24 * row + col

/-- The cores of an r × c rectangle by core-in-cluster number. -/
def rect (die row0 col0 r c : Nat) : List Nat := (List.range (r * c)).map fun k => coreAt die (row0 + k / c) (col0 + k % c)

/-- Rectangles of a die that lie in one block (R100). -/
def blockRects (die r c : Nat) : List (List Nat) :=
  (List.range 12).flatMap fun row => (List.range 24).filterMap fun col =>
    if row % 4 + r ≤ 4 ∧ col % 3 + c ≤ 3 then some (rect die row col r c) else none

/-- The dies across a live horizontal seam: its number, and whether the owner lies to the left of it. -/
def State.seamSides (s : State) (die : Nat) : List (Nat × Bool) :=
  (List.range 4).filterMap fun i =>
    let (l, r) := seamDies i
    if !(match s.seams[6 + i]? with | some x => x.up | none => false) then none
    else if l = die then some (r, true) else if r = die then some (l, false) else none

/-- Cluster rows and columns are halved: by rows where their number is even, else by columns (R101). -/
def halfShape (r c : Nat) : Nat × Nat := if r % 2 = 0 then (r / 2, c) else (r, c / 2)

/-- A cluster position lies in the far half. -/
def inFar (r c k : Nat) : Bool := if r % 2 = 0 then r / 2 ≤ k / c else c / 2 ≤ k % c

/-- The straddled placements of a cluster owned by a die (R101), each with its halves against the seam. -/
def State.straddles (s : State) (die r c : Nat) : List (List Nat) :=
  let (hr, hc) := halfShape r c
  (s.seamSides die).flatMap fun (other, left) => (List.range 12).filterMap fun row =>
    if row % 4 + hr ≤ 4 then
      some ((List.range (r * c)).map fun k =>
        let far := inFar r c k
        let y := if r % 2 = 0 then k / c % hr else k / c
        let x := if r % 2 = 0 then k % c else k % c % hc
        let col0 := if left != far then 24 - hc else 0
        coreAt (if far then other else die) (row + y) (col0 + x))
    else none

/-- Every core of a list has room for a team of the grid. -/
def State.coresFit (s : State) (gh : Nat) (cores : List Nat) : Bool := cores.all fun c => (s.firstPlace gh c).isSome

/-- Where a cluster of the grid may go on a die now: in one block, and only where no block is free, straddled (R100, R101). -/
def State.sites (s : State) (gh die : Nat) : List (List Nat) :=
  let cfg := (s.grid gh).cfg
  let one := (blockRects die (cfgRows cfg) (cfgCols cfg)).filter (s.coresFit gh)
  if !one.isEmpty || !cfgStrd cfg then one else (s.straddles die (cfgRows cfg) (cfgCols cfg)).filter (s.coresFit gh)

/-! ### Admission and hold-back (R95-R97) -/

def budCores (b : BitVec 256) : Nat := fieldN b 0 11
def budBw (b : BitVec 256) : Nat := fieldN b 16 24
def budPwr (b : BitVec 256) : Nat := fieldN b 40 12
def budSeam (b : BitVec 256) : Nat := fieldN b 64 8
def budTirs (b : BitVec 256) : Nat := fieldN b 72 8

/-- Capacity of the live seams, and of the trained Tirsol ports, over 10 µs in bytes. -/
def State.seamCapacity (s : State) : Nat := (s.seams.toList.zipIdx.map fun x => if x.1.up then (if x.2 < 6 then 48000000 else 32000000) else 0).sum
def State.tirsCapacity (s : State) : Nat := (s.ports.toList.map fun p => if p.trained && !p.down then 2240000 else 0).sum

/-- Cores that hold a team of a tenant. -/
def State.tenantCores (s : State) (n : Nat) : List Nat :=
  ((s.teams.filter fun e => (e.2.life == .running || e.2.life == .saving) && cfgTenant (s.grid e.2.grid).cfg == n).map (·.2.core)).dedup

/-- A cluster of the grid is admitted on cores (R96) and not held back (R97). -/
def State.admits (s : State) (gh : Nat) (cores : List Nat) : Bool :=
  let g := s.grid gh
  let n := cfgTenant g.cfg
  let t := s.tenant n
  let new := cores.dedup.filter fun c => !(s.tenantCores n).contains c
  let idle := !(s.teamsOf gh).any fun h => (s.team h).life == .running
  (budCores t.budget == 0 || t.cores + new.length ≤ budCores t.budget) && (budBw t.budget == 0 || decide (0 < t.tokens)) &&
    (budPwr t.budget == 0 || t.power ≤ budPwr t.budget) &&
    (idle || ((budSeam t.budget == 0 || g.seamBytes * 256 ≤ budSeam t.budget * s.seamCapacity) &&
      (budTirs t.budget == 0 || g.tirsBytes * 256 ≤ budTirs t.budget * s.tirsCapacity)))

/-! ### Saved teams (R108, R110) -/

/-- The quantum of a team's context, in units of `State.moment`: 0 means 200 µs (03 Table 3-3, R109). -/
def State.quantumOf (s : State) (h : Nat) : Nat :=
  let q := (s.ctx (s.ctxOf (.group h 0))).quantum.toNat
  (if q = 0 then 200 else q) * Config.usUnit

/-- A quantum has passed since a team was saved. -/
def State.quantumPassed (s : State) (h : Nat) : Bool := (s.team h).savedAt + s.quantumOf h ≤ s.moment

/-- The counter of a saved team's wait has its target; one that a quantum has passed over, or that cannot be read here, is
looked at again at a resume (R110, log 40). -/
def State.counterDue (s : State) (h : Nat) (ea target : DWord) : Bool :=
  match s.lookHub (s.ctxOf (.group h 0)) ea.toNat false with
  | .here pa => decide (target.toNat ≤ (s.read64 pa).toNat)
  | .peer _ _ => s.quantumPassed h
  | _ => true

/-- Clusters a die has left to start of a grid. -/
def State.rangesOf (s : State) (gh die : Nat) : List (Nat × Nat) := KMap.get [] (s.grid gh).ranges die

/-- The teams of a grid that have not started go before its swapped teams whose waits the distributor cannot look into (PAUSE, CWAIT,
MWAIT, an empty register): while some have not started and another team of the grid runs, and for a quantum in any case, such a team
waits still (R110, R111; DESIGN CHOICE, log 40). -/
def State.othersFirst (s : State) (h : Nat) : Bool :=
  let gh := (s.team h).grid
  (s.liveDies.any (fun d => !(s.rangesOf gh d).isEmpty) && (s.teamsOf gh).any fun k => (s.team k).life == .running) || !s.quantumPassed h

/-- A group of a saved team waits on an event that has not occurred (R108). -/
def State.waitsStill (s : State) (h : Nat) (k : Fin 16) : Bool :=
  let g := (s.team h).groups.get k
  match g.wait with
  | .susp _ _ _ true | .join _ _ _ _ true => !(s.watches.any fun w => w.party == .group h k && w.hit)
  | .susp ea target _ false | .join ea target _ _ false => !s.counterDue h ea target
  | .sleep till => (s.cyc (.group h k)).ult till
  | .launch _ _ _ => Config.gridsPerContext ≤ s.openGrids (s.grid (s.team h).grid).ctx || Config.depTable ≤ s.depEntries
  | _ => g.rdv.isSome || ((s.team h).swapped && s.othersFirst h)

/-- A saved team is ready (R108). -/
def State.teamReady (s : State) (h : Nat) : Bool :=
  (s.team h).life == .saved && (s.team h).liveGroups.any fun k => !s.waitsStill h k

/-- A saved cluster is ready: each of its teams that has not ended is saved, and one is ready. -/
def State.clusterReady (s : State) (h : Nat) : Bool :=
  let cl := (s.team h).cluster.filter fun k => (s.team k).life != .ended
  cl.all (fun k => (s.team k).life == .saved) && cl.any s.teamReady

/-- A ready saved cluster of the grid. -/
def State.savedReady (s : State) (gh : Nat) : Bool := (s.teamsOf gh).any s.clusterReady

/-- The team of the grid that resumes next: of the ready clusters the first that was saved (R108). -/
def State.nextSaved (s : State) (gh : Nat) : Option Nat := leastOf (fun h => [(s.team h).saveSeq]) ((s.teamsOf gh).filter s.clusterReady)

/-- Places for the saved teams of a cluster on the cores of a site, which can take their messages and receives back (R108, R139);
one of them may have its place chosen. -/
def State.clusterPlaces (s : State) (h : Nat) (chosen : Option Place) (cores : List Nat) : Option (List (Nat × Place)) :=
  let live := (s.team h).cluster.filter fun k => (s.team k).life == .saved
  let one (k : Nat) : Option (Nat × Place) :=
    (cores[(s.team k).cc]?).bind fun c =>
      match chosen with
      | some p => if k = h then (if p.core = c ∧ s.placeFits (s.team h).grid p then some (k, p) else none) else (s.firstPlace (s.team h).grid c).map fun q => (k, q)
      | none => (s.firstPlace (s.team h).grid c).map fun q => (k, q)
  let places := live.filterMap one
  let room (e : Nat × Place) : Bool :=
    ((s.team e.1).image.getD Core.empty).msgq.length + (s.core e.2.core).msgq.length ≤ Config.overflowPlaces &&
      ((s.team e.1).image.getD Core.empty).posted.length + (s.core e.2.core).posted.length ≤ Config.postedMax
  if places.length == live.length && places.all room then some places else none

/-- Cores of a site on more than one die: the cluster is straddled (R101). -/
def crossesSeam (cores : List Nat) : Bool := cores.any fun c => cores.any fun k => dieOfCore c != dieOfCore k

/-- Places for a cluster that resumes with a chosen place for one of its teams, at a site of a live die, and whether it is straddled
there (R100, R101, R108). -/
def State.resumePlaces (s : State) (h : Nat) (p : Place) : Option (List (Nat × Place) × Bool) :=
  (s.liveDies.flatMap fun d => s.sites (s.team h).grid d).findSome? fun l => (s.clusterPlaces h (some p) l).map fun x => (x, crossesSeam l)

/-! ### Order of placement (R99) -/

/-- The grid has work that a die may place: ready saved clusters, or clusters left to start (R99, R106, R110). -/
def State.hasWork (s : State) (gh die : Nat) : Bool :=
  let g := s.grid gh
  !g.closed && g.handed && (!(s.rangesOf gh die).isEmpty || s.savedReady gh)

/-- A die can place work of a grid now: the saved cluster that comes next, else one left to start. -/
def State.placeable (s : State) (gh die : Nat) : Bool :=
  s.hasWork gh die &&
    match s.nextSaved gh with
    | some h => (s.sites gh die).any fun l => match s.clusterPlaces h none l with | some x => s.admits gh (x.map (·.2.core)) | none => false
    | none => (s.sites gh die).any (s.admits gh)

/-- The place of a grid's work in the order of a die (R99): saved work first, then priority; saved work in the order in
which it was saved (R108), other grids of a priority in turn. -/
def State.workKey (s : State) (gh die : Nat) : List Nat :=
  let prio := cfgPrio (s.grid gh).cfg
  match s.nextSaved gh with
  | some h => [0, 7 - prio, (s.team h).savedAt, gh]
  | none => [1, 7 - prio, if KMap.get 0 (s.die die).lastGrid prio ≤ gh then 0 else 1, gh]

/-- No other grid comes before the grid on a die (R99): a grid that cannot be placed now blocks none, and the grid for which
room has been freed there takes it (R106, R110). -/
def State.firstInLine (s : State) (gh die : Nat) : Bool :=
  ((s.die die).claims.any fun x => x.1 == gh) ||
    (s.grids.map (·.1)).all fun h => h == gh || !s.placeable h die || !firstOf (s.workKey h die) (s.workKey gh die)

/-! ### Starting a team (R84, R85, R113, R132) -/

/-- A group at team start (Table 4-4). -/
def startGroup (g : Grid) (t cc gid : Nat) (slot : Fin 16) : Group :=
  let x := t % g.gx
  let y := t / g.gx % g.gy
  let z := t / (g.gx * g.gy)
  let g0 : Group := { Group.empty with
    used := true, slotNo := slot, pc := (g.sentry.extractLsb' 0 57), alw := g.alw, tvec := g.tvec, nreg := cfgRegs g.cfg, live := 0xFFFFFFFF
    vtids := Vector.ofFn fun s => BitVec.ofNat 9 (32 * gid + s.val) }
  ((((g0.ws 1 g.lentry).ws 2 g.arg).ws 3 (BitVec.ofNat 64 t)).ws 4 (BitVec.ofNat 64 (x + y * 2 ^ 32))).ws 5
    (BitVec.ofNat 64 (z + gid * 2 ^ 32 + fieldN g.cfg 0 4 * 2 ^ 36 + cc * 2 ^ 40))

/-- The remap table at team start (R132). -/
def startRemap (ngrp : Nat) : KMap (BitVec 10) := (List.range (32 * ngrp)).map fun v => (v, BitVec.ofNat 10 (v / 32 + 16 * (v % 32) + 512))

/-- A team at its start. -/
def startTeam (g : Grid) (gh t cc : Nat) (far : Bool) (cluster : List Nat) (p : Place) (now : Nat) : Team :=
  { Team.empty with
    life := .running, grid := gh, t := t, core := p.core, scrBase := p.scr, accMap := p.acc, cc := cc, far := far, cluster := cluster
    groups := Vector.ofFn fun i => match p.slots[i.val]? with | some sl => startGroup g t cc i.val sl | none => Group.empty
    remap := startRemap g.ngrp, since := now, started := now }

/-- A cluster started at its places; the first action of every team is an acquire at system scope (R91), and the context switch applies the invalidation log (07 R190). -/
def State.startCluster (s : State) (gh die k : Nat) (places : List Place) : State :=
  let g := s.grid gh
  let cluster := (List.range places.length).map (s.handles + ·)
  let s := { s with handles := s.handles + places.length }
  let one (s : State) (e : Place × Nat) : State :=
    let (p, cc) := e
    let h := (cluster[cc]?).getD 0
    let far := dieOfCore p.core != die
    let s := s.setTeam h (startTeam g gh (k * g.size + cc) cc far cluster p s.moment)
    let s := s.updCore p.core fun c => { c with wphase := if cfgWph g.cfg then some gh else c.wphase }
    s.acquireAt (.group h 0) 3
  places.zipIdx.foldl one s

end Sys2Proof.Machine
end

