-- ==== Sys2Proof/Machine/System.lean ====
section
/-! DEFINITION. System functions of the scalar stream: NOP, TRAP, RFT, control registers, code maintenance, group end,
and the expert counters (16 R378, R392-R396; 05 R141; 11 R260). -/

namespace Sys2Proof.Machine

/-- NOP (R392). -/
def execNop (s : State) : Out := scalarGate .nop s (doneAt s)

/-- TRAP: SWTRAP at the instruction itself (R392). -/
def execTrap (imm : BitVec 16) (s : State) : Out := scalarGate (.trap imm) s (trapAt s cSwtrap (imm.setWidth 64))

/-- RFT: return from the handler once its trap blocks have ended (R260); outside a handler ILLOP (`State.illopNow`). -/
def execRft (s : State) : Out :=
  scalarGate .rft s (if s.cur.trapBlocks ≠ 0 then waitOut s else .next (s.returnFromTrap s.who))

/-- An opcode without an instruction (R276, R290): ILLOP. -/
def execUnassignedOpcode (lane : Bool) (op : BitVec 8) (s : State) : Out :=
  if !lane then trapAt s cIllop (op.setWidth 64)
  else
    match s.cur.block with
    | none => .fault .noBlock
    | some b =>
      match b.posOf s.lslot with
      | none => .fault .noBlock
      | some pos =>
        match b.rec? pos with
        | none => .fault .noBlock
        | some q => laneTrapOut s b pos q cIllop (op.setWidth 64) (s.cur.eff q) (s.cur.eff q) false []

/-! ### Control registers (R393, R396, Table 16-9) -/

/-- Registers of the lane side, the engines and the weight store: they read 0 on a control stream (R396). -/
def csrLaneSide (r : Nat) : Bool := [0x004, 0x005, 0x006, 0x022, 0x023, 0x030, 0x031, 0x032, 0x033].contains r

/-- Address of the live bobbin area (R264). -/
def State.bobAddr (s : State) (p : Party) : DWord :=
  (s.ctx (s.ctxOf p)).save + BitVec.ofNat 64 (0x100000 + (16 * s.coreOf p + (s.grp p).slotNo.val) * 0x20000)

/-- `c.core` (Table 16-9). -/
def State.coreReg (s : State) (p : Party) : Nat :=
  match p with
  | .group h _ => (s.team h).core
  | .stream k => 0x7FF + (s.stream k).ccore * 2 ^ 11 + (s.stream k).slot * 2 ^ 16

/-- `c.grp` (Table 16-9). -/
def State.grpReg (s : State) (p : Party) : Nat :=
  match p with
  | .group h g => g.val + (s.grp p).slotNo.val * 2 ^ 4 + (s.team h).cc * 2 ^ 8 + (s.team h).far.toNat * 2 ^ 12
  | .stream _ => 0

/-- The value a control register reads (Table 16-9); reserved bits read 0 (R6). -/
def State.csr (s : State) (p : Party) (r : Nat) : DWord :=
  let g := s.grp p
  if p.isStream && csrLaneSide r then 0
  else
    match r with
    | 0x000 => s.cyc p
    | 0x001 => BitVec.ofNat 64 (s.coreReg p)
    | 0x002 => BitVec.ofNat 64 (s.grpReg p)
    | 0x003 => BitVec.ofNat 64 (s.ctxOf p + (s.ctx (s.ctxOf p)).tenant.toNat * 2 ^ 8)
    | 0x004 => g.alw
    | 0x005 => g.fmt.setWidth 64
    | 0x006 => g.live.setWidth 64
    | 0x010 => g.tvec
    | 0x011 => g.tcause
    | 0x012 => g.tinfo
    | 0x013 => g.tmask
    | 0x014 => g.tredo
    | 0x015 => g.tret
    | 0x020 => g.fe
    | 0x021 => g.fstat
    | 0x022 => g.gstat
    | 0x023 => s.bobAddr p
    | 0x030 => s.wrschedOf (s.coreOf p)
    | 0x031 => g.wrstall
    | 0x032 => g.cbstall
    | _ => g.pairser

/-- Bits [56:2]. -/
def addr2 (v : DWord) : DWord := v &&& 0x01FFFFFFFFFFFFFC

/-- A group after a write of a control register; reserved bits are not written (R6, R393). -/
def Group.csrWrite (g : Group) (r : Nat) (v : DWord) : Group :=
  match r with
  | 0x010 => { g with tvec := addr2 v }
  | 0x011 => { g with tcause := v &&& 0xFFFF1FFF }
  | 0x012 => { g with tinfo := v }
  | 0x013 => { g with tmask := v &&& 0xFFFFFFFF }
  | 0x014 => { g with tredo := v &&& 0xFFFFFFFF }
  | 0x015 => { g with tret := addr2 v }
  | 0x020 => { g with fe := v &&& 1 }
  | 0x021 => { g with fstat := (g.fstat &&& ~~~(v ||| 0x8000000000000000) ||| (v &&& 0x8000000000000000)) &&& 0x800000000000FFFF }
  | 0x022 => { g with gstat := g.gstat &&& ~~~v }
  | 0x031 => { g with wrstall := v }
  | 0x032 => { g with cbstall := v }
  | 0x033 => { g with pairser := v }
  | _ => g

/-- CSRR (R393). -/
def execCsrr (d : SNum) (csr : BitVec 12) (s : State) : Out :=
  aluOp (.csrr d csr) d [] (fun s => s.csr s.who csr.toNat) s

/-- CSRW: ILLFLD for a read-only register and for lane-side registers of a stream, whatever s(d) holds (R253, R393, R396), and
for a change of `inh`. -/
def execCsrw (d : SNum) (csr : BitVec 12) (s : State) : Out :=
  let i : Instr := .csrw d csr
  scalarGate i s (
    if csrReadOnly csr || (s.who.isStream && csrLaneSide csr.toNat) then trapAt s cIllfld (opInfo i)
    else needRegs [d] [] s (
      let v := s.rs d
      if csr == 0x011 && v.getLsbD 12 != s.cur.inh then trapAt s cIllfld (opInfo i)
      else doneAt (s.updCur fun g => g.csrWrite csr.toNat v)))

/-! ### Code maintenance (R394) -/

/-- A sector of 64 bytes overlaps [a, a + n). -/
def sectorIn (sec a n : Nat) : Bool := 64 * sec < a + n && a < 64 * sec + 64
/-- A line of 256 bytes around a sector overlaps [a, a + n). -/
def lineIn (sec a n : Nat) : Bool := 256 * (sec / 4) < a + n && a < 256 * (sec / 4) + 256 && n != 0

/-- CWB: buffered stores into the range drained to their homes, with the group's logged stores (R394); those that go to a peer
have their responses. -/
def execCwb (a b : SNum) (s : State) : Out :=
  scalarOp (.cwb a b) [a, b] (fun s =>
    let lo := (s.rs a).toNat
    let n := (s.rs b).toNat
    if (s.rs a).extractLsb' 57 7 ≠ 0 then trapAt s cAccess ((s.rs a).extractLsb' 0 57 |>.setWidth 64)
    else if n = 0 then doneAt s
    else
      let core := s.coreOf s.who
      let mine := (s.core core).cbuf.filter fun e => e.pasid == s.pasidOf s.who && sectorIn e.va lo n
      let t := s.drainAll core mine
      let logged := (t.logOf t.who).any fun e => (lanesOf (e.req.lanes ||| e.refused)).any fun i =>
        (e.req.places i).any fun a => a.2 && a.1 < lo + n && lo < a.1 + e.req.bytes
      let left := mine.any fun e => (t.core core).cbuf.any fun x => x.pasid == e.pasid && x.va == e.va
      if logged || left || t.postedFrom core (fun r => t.pasidOf r.party == s.pasidOf s.who && sectorIn (r.va / 64) lo n) then waitOut t
      else doneAt t) s

/-- ICINV: instruction-cache lines of the range invalidated; a buffered sector of the group may be used once more, or not (R394). -/
def execIcinv (c : BitVec 6) (a b : SNum) (s : State) : Out :=
  scalarOp (.icinv c a b) [a, b] (fun s =>
    let lo := (s.rs a).toNat
    let n := (s.rs b).toNat
    let sc := c = 0 ∨ c = 2
    let la := c = 1 ∨ c = 2
    let s := s.updCore (s.coreOf s.who) fun x =>
      { x with icS := if sc then x.icS.filter (fun e => !lineIn e.va lo n) else x.icS,
               icL := if la then x.icL.filter (fun e => !lineIn e.va lo n) else x.icL }
    let s := s.updCur fun g =>
      { g with sfetch := if sc then g.sfetch.map (fun e => if lineIn e.1 lo n then (e.1, e.2.1, 1) else e) else g.sfetch,
               lfetch := if la then g.lfetch.map (fun e => (e.1, e.2.1, e.2.2 || lineIn e.1 lo n)) else g.lfetch }
    doneAt s) s

/-- IFENCE: both fetch buffers of the group empty (R394). -/
def execIfence (s : State) : Out :=
  scalarGate .ifence s (doneAt (s.updCur fun g => { g with sfetch := none, lfetch := [] }))

/-! ### GEND (R141, R395, R58) -/

/-- Everything the group issued has completed (R141); for a team's last group no share of a gang is queued or running for the team
either (19 R406). -/
def State.groupQuiet (s : State) (p : Party) : Bool :=
  let c := s.core (s.coreOf p)
  let share (q : SeqCmd) : Bool := q.onTeam == p.teamOf && (match q.kind with | .share _ _ => true | _ => false)
  (s.copiesOf p).all (·.stopped.isSome) && !(c.seq.any fun q => q.team == p.teamOf && q.gid == p.gidOf) &&
    !(s.gangs.any fun e => e.2.team == p.teamOf && e.2.gid == p.gidOf) &&
    !((s.team p.teamOf).liveGroups == [p.gidOf] && c.seq.any share)

/-- A team whose last group has ended (R141, R87). -/
def State.teamDone (s : State) (h : Nat) : State :=
  let gh := (s.team h).grid
  let s := (s.releaseTeam h).tryCbar h
  s.setGrid gh { s.grid gh with done := (s.grid gh).done + 1 }

/-- A group ends; an OVFQ it had not taken passes to the next group (R138), and rendezvous that waited for it complete (R379-R381). -/
def State.endGroup (s : State) (h : Nat) (g : Fin 16) : State :=
  let left := (s.grp (.group h g)).ovfq
  let s := s.updGrp (.group h g) fun x =>
    { x with ended := true, ovfq := [], spool := [], trapq := [], block := none, held := none, laneTraps := [], trap := none, outst := [],
             tcause := x.tcause &&& ~~~(BitVec.ofNat 64 (2 ^ 12)) }
  let s := s.updCore (s.team h).core fun c => { c with copies := c.copies.filter fun x => x.team != h || x.gid != g }
  match (s.team h).liveGroups with
  | [] => s.teamDone h
  | l :: _ => (((s.updGrp (.group h l) fun x => { x with ovfq := x.ovfq ++ left }).tryBar h).tryRegather h).tryCbar h

/-- GEND: the end of a group, or of a control stream (R141, R395, R58). -/
def execGend (s : State) : Out :=
  scalarGate .gend s (
    if !s.released s.who 2 then waitOut s
    else
      match s.who with
      | .stream k => .next (s.endStream k 0 0)
      | .group h g => if (s.cur.inh || s.cur.lanesIdle) && s.groupQuiet s.who then .next (s.endGroup h g) else waitOut s)

/-! ### Expert counters (R378, R156) -/

/-- The die and tag an expert-counter instruction names, or none where it raises ILLFLD (R378, R57). -/
def State.expertSel (s : State) (v : DWord) : Option (Nat × Nat) :=
  let tag := fieldN v 0 12
  let die := fieldN v 12 3
  if v.extractLsb' 15 49 ≠ 0 then none
  else if s.who.isStream then (if die ≤ 5 ∧ s.dev.dmap.getLsbD die then some (die, tag) else none)
  else if die = 0 then some (s.dieOf s.who, tag) else none

/-- ECRD: both counts of a tag into an even pair, later (R378). -/
def execEcrd (d a : SNum) (s : State) : Out :=
  scalarGate (.ecrd d a) s (needRegs [a] [d, blockReg d 1] s (
    match s.expertSel (s.rs a) with
    | none => trapAt s cIllfld (opInfo (.ecrd d a))
    | some (die, tag) =>
      let c := KMap.get (0, 0) (s.die die).experts tag
      let q := scalarReq s.who .load 8 0
      .next (((s.late q (.spair d) .scalar none fun o => { o with sval := c.1, sval2 := c.2 }).updCur (·.emptyDest (.spair d) 1)).advance)))

/-- ECCLR: both counts of a tag cleared (R378). -/
def execEcclr (a : SNum) (s : State) : Out :=
  scalarOp (.ecclr a) [a] (fun s =>
    match s.expertSel (s.rs a) with
    | none => trapAt s cIllfld (opInfo (.ecclr a))
    | some (die, tag) =>
      let x := s.die die
      doneAt (s.setDie die { x with experts := KMap.set (0, 0) x.experts tag (0, 0) })) s

end Sys2Proof.Machine
end

