-- ==== Sys2Proof/Machine/Sched.lean ====
section
/-! DEFINITION. Events of the launch unit and the distributors: dependences, steals, placement, pre-emption, saving,
resuming and swapping of teams, and the end of a grid (04 R87-R112; 11 R263-R265). -/

namespace Sys2Proof.Machine

/-! ### Dependences and distribution (R91-R94) -/

/-- A home has reported a write after which the counter of a dependence had its target (R91, R92). -/
def State.depReported (s : State) (gh i : Nat) : Bool := s.deptab.any fun e => e.grid == gh && e.index == i && e.met

/-- A dependence is met, and leaves the table; the last one hands the grid out (R91, R92). -/
def State.meetDep (s : State) (gh i : Nat) : State :=
  let left := (s.grid gh).unmet.erase i
  let t := { s with deptab := s.deptab.filter fun e => !(e.grid == gh && e.index == i) }.setGrid gh { s.grid gh with unmet := left }
  if left.isEmpty then t.handOut gh else t

/-- DEPENDENCE_COUNTER_WRITE: an entry of the dependence table is evaluated again (R92); once it was met it stays so (R91). -/
def execDependenceCounterWrite (grid : Nat) (i : Fin 4) (s : State) : Out :=
  let g := s.grid grid
  match g.deps[i.val]? with
  | none => notNow s
  | some d =>
    if !g.unmet.contains i.val then notNow s
    else if s.depReported grid i.val then .next (s.meetDep grid i.val)
    else
      match s.lookHub g.ctx.toNat d.1.toNat false with
      | .miss => match s.askHub (s.ctx g.ctx.toNat).pasid d.1.toNat false with | some t => .next t | none => notNow s
      | _ =>
        if !s.depMet g.ctx.toNat d then .next s.bump else .next (s.bump.meetDep grid i.val)

/-- Clusters in a list of ranges. -/
def countOf (l : List (Nat × Nat)) : Nat := (l.map (·.2)).sum

/-- A list of ranges cut after its first n clusters. -/
def cutRanges : Nat → List (Nat × Nat) → List (Nat × Nat) × List (Nat × Nat)
  | _, [] => ([], [])
  | n, (f, k) :: l =>
    if n = 0 then ([], (f, k) :: l)
    else if k ≤ n then let r := cutRanges (n - k) l; ((f, k) :: r.1, r.2)
    else ([(f, n)], (f + n, k - n) :: l)

/-- STEAL_MESSAGE: the victim gives the last half of its clusters, or replies empty, and the thief waits for the next report (R94). -/
def execStealMessage (grid : Nat) (thief victim : Fin 6) (s : State) : Out :=
  let g := s.grid grid
  let others := s.liveDies.filter (· != thief.val)
  let rep (d : Nat) : Nat := KMap.get 0 g.reported d
  let best := others.foldl (fun (b : Option Nat) d => match b with | some x => if rep x < rep d then some d else b | none => some d) none
  if !g.handed || g.closed || !s.liveDies.contains thief.val || !(s.rangesOf grid thief.val).isEmpty || g.turnedAway.contains thief.val || best != some victim.val ||
      others.all (fun d => (s.rangesOf grid d).isEmpty) then notNow s
  else
    let l := s.rangesOf grid victim.val
    let n := countOf l
    if n < 2 then .next (s.setGrid grid { g with turnedAway := g.turnedAway ++ [thief.val] })
    else
      let r := cutRanges (n - n / 2) l
      .next (s.setGrid grid { g with ranges := KMap.set [] (KMap.set [] g.ranges victim.val r.1) thief.val r.2 })

/-- Tenant figures as exchanged (R96): the core count, the level of the bucket, and the power of its cores averaged over the
last 100 µs; the activity-based estimate of each core is a free value (log 40). -/
def State.exchangeTenant (s : State) (n : Nat) : State :=
  let t := s.tenant n
  let cores := s.tenantCores n
  let now := ((List.range cores.length).map fun i => (Config.freeWord (s.fresh + i)).toNat).sum
  let powers := (s.moment, now) :: t.powers.filter fun e => s.moment < e.1 + 100 * Config.usUnit
  (s.setTenant n { t with
    cores := cores.length, tokens := s.bucket n, level := s.bucket n, levelAt := s.moment
    powers := powers, power := (powers.map (·.2)).sum / powers.length }).bumpBy cores.length

/-- A grid's figures as exchanged: clusters left at each die, and its link traffic over the last 10 µs (R13, R94, R97). -/
def State.exchangeGrid (s : State) (gh : Nat) : State :=
  let g := s.grid gh
  let traffic := (s.moment, g.seamAcc, g.tirsAcc) :: g.traffic.filter fun e => s.moment < e.1 + 10 * Config.usUnit
  s.setGrid gh { g with
    reported := s.liveDies.foldl (fun m d => KMap.set 0 m d (countOf (s.rangesOf gh d))) []
    turnedAway := [], seamAcc := 0, tirsAcc := 0, traffic := traffic
    seamBytes := (traffic.map (·.2.1)).sum, tirsBytes := (traffic.map (·.2.2)).sum }

/-- A die has work of a grid to place on room that has been freed or is being freed for it. -/
def State.claimHolds (s : State) (die : Nat) (x : Nat × List Nat) : Bool :=
  s.placeable x.1 die || (s.hasWork x.1 die && s.teams.any fun e => x.2.contains e.2.core && (e.2.life == .saving || (s.core e.2.core).haltReq.contains e.1))

/-- A claim of a distributor lapses when its victims have gone and the grid cannot be placed (R99: it blocks no other grid). -/
def State.lapseClaims (s : State) (die : Nat) : State :=
  if (s.die die).claims.isEmpty then s else s.setDie die { s.die die with claims := (s.die die).claims.filter (s.claimHolds die) }

/-- REMAINING_COUNT_REPORT: what distributors exchange every 1 µs (R94, R96). -/
def execRemainingCountReport (s : State) : Out :=
  let s := ((s.grids.filter fun e => !e.2.closed).map (·.1)).foldl (fun s h => s.exchangeGrid h) s
  let s := (List.range 64).foldl (fun s n => if s.tenants.any (·.1 == n) then s.exchangeTenant n else s) s
  .next { (s.liveDies.foldl (fun s d => s.lapseClaims d) s) with exchanged := s.moment }

/-- Work of a grid has been placed: room freed for it is taken (R106, R110). -/
def Die.taken (d : Die) (gh : Nat) : Die := { d with claims := d.claims.filter (·.1 != gh) }

/-- A die has started a cluster of a grid: the next grid of that priority in turn follows it (R99). -/
def Die.served (d : Die) (gh prio : Nat) : Die := { d.taken gh with lastGrid := KMap.set 0 d.lastGrid prio (gh + 1) }

/-- TEAM_PLACEMENT: the first cluster of a die's list is admitted, placed and started (R84, R85, R96-R102). -/
def execTeamPlacement (grid : Nat) (die : Fin 6) (places : List Place) (s : State) : Out :=
  let g := s.grid grid
  let cores := places.map (·.core)
  match s.rangesOf grid die.val with
  | [] => notNow s
  | (k, n) :: rest =>
    if g.closed || !g.handed || s.savedReady grid || !(s.sites grid die.val).contains cores || !places.all (s.placeFits grid) || !s.admits grid cores ||
        !s.firstInLine grid die.val then notNow s
    else
      let left := if n ≤ 1 then rest else (k + 1, n - 1) :: rest
      let s := s.setGrid grid { g with ranges := KMap.set [] g.ranges die.val left }
      let s := s.setDie die.val ((s.die die.val).served grid (cfgPrio g.cfg))
      .next (s.startCluster grid die.val k places)

/-! ### Pre-emption and swapping (R106-R110) -/

/-- A team that may be halted for a grid: running, not in weight phase. -/
def State.movable (s : State) (h : Nat) : Bool := (s.team h).life == .running && !cfgWph (s.grid (s.team h).grid).cfg

/-- The halt of a team is asked for, or it is halted and being saved. -/
def State.leaving (s : State) (h : Nat) : Bool := (s.team h).life == .saving || (s.core (s.team h).core).haltReq.contains h

/-- The halt of a team's cluster asked for (R106, R110); teams that are leaving already do so as they were asked to (R108). -/
def State.askHalt (s : State) (h : Nat) (swap : Bool) : State :=
  let cl := (s.team h).cluster.filter fun k => (s.team k).life == .running && !s.leaving k
  cl.foldl (fun s k =>
    let s := s.setTeam k { s.team k with swapped := swap }
    s.updCore (s.team k).core fun c => { c with haltReq := c.haltReq ++ [k] }) s

/-- The state as it will be once a cluster has given up its room, its tenant's cores with it (R96, R106). -/
def State.without (s : State) (h : Nat) : State :=
  let n := cfgTenant (s.grid (s.team h).grid).cfg
  let t := (s.team h).cluster.foldl (fun s k => if (s.team k).life = .ended then s else s.setTeam k { s.team k with life := .saved }) s
  if s.tenants.any (·.1 == n) then t.setTenant n { t.tenant n with cores := (t.tenant n).cores - ((s.tenantCores n).length - (t.tenantCores n).length) } else t

/-- The state as it will be once every team that is leaving has left. -/
def State.whenLeft (s : State) : State := ((s.teams.map (·.1)).filter s.leaving).foldl (fun s h => s.without h) s

/-- The clusters of a list of teams: the cores they stand on. -/
def State.clusterCores (s : State) (l : List Nat) : List Nat := l.flatMap fun h => ((s.team h).cluster.filter fun k => (s.team k).life != .ended).map fun k => (s.team k).core

/-- Teams of a context that are saved, being saved or asked to halt (R107). -/
def State.savedIn (s : State) (ctx : Nat) : Nat :=
  s.teams.countP fun e => (e.2.life == .saved || s.leaving e.1) && (s.grid e.2.grid).ctx.toNat == ctx

/-- Victims in order: lowest priority, then most recently started (R106), each put before those it precedes. -/
def insertVictim (key : Nat → Nat × Nat) (h : Nat) : List Nat → List Nat
  | [] => [h]
  | x :: l => if (key h).1 < (key x).1 || ((key h).1 == (key x).1 && (key x).2 ≤ (key h).2) then h :: x :: l else x :: insertVictim key h l

/-- Victims taken until a cluster of the grid fits and is admitted, or none where it never does (R106, R107). -/
def State.takeVictims (s : State) (gh die : Nat) (taken : List Nat) : List Nat → Option (List Nat)
  | [] => if (s.sites gh die).any (s.admits gh) then some taken else none
  | h :: l =>
    if (s.sites gh die).any (s.admits gh) then some taken
    else if (s.team h).life = .saved then s.takeVictims gh die taken l
    else if 1024 < s.savedIn (s.ctxOf (.group h 0)) + (s.team h).cluster.length then s.takeVictims gh die taken l
    else (s.without h).takeVictims gh die (taken ++ [h]) l

/-- Clusters halted for a grid, whose cores are kept for it (R106, R110). -/
def State.makeRoom (s : State) (gh die : Nat) (swap : Bool) (l : List Nat) : State :=
  let d := s.die die
  let old := (d.claims.filter (·.1 == gh)).flatMap (·.2)
  l.foldl (fun s h => s.askHalt h swap) (s.setDie die { d with claims := d.claims.filter (·.1 != gh) ++ [(gh, old ++ s.clusterCores l)] })

/-- No cluster of the grid fits on the die, nor will one when the teams that are leaving have left (R106, R110). -/
def State.noRoom (s : State) (gh die : Nat) : Bool := (s.sites gh die).isEmpty && (s.whenLeft.sites gh die).isEmpty

/-- Victims of a pre-emption on a die for a grid, in order (R106). -/
def State.victims (s : State) (gh die : Nat) : List Nat :=
  let low := (s.teams.map (·.1)).filter fun h =>
    s.movable h && !s.leaving h && dieOfCore (s.team h).core == die && cfgPrio (s.grid (s.team h).grid).cfg < cfgPrio (s.grid gh).cfg
  low.foldr (insertVictim fun h => (cfgPrio (s.grid (s.team h).grid).cfg, (s.team h).started)) []

/-- PREEMPTION_REQUEST (R106): the die's distributor halts victims for a cluster that fits nowhere on the die. -/
def execPreemptionRequest (die : Fin 6) (grid : Nat) (s : State) : Out :=
  if !s.hasWork grid die.val || !s.noRoom grid die.val then notNow s
  else
    match s.whenLeft.takeVictims grid die.val [] (s.victims grid die.val) with
    | none => notNow s
    | some l => .next (s.makeRoom grid die.val false l)

/-- A team waited in at least 15/16 of its group-cycles in the last quantum (R109). -/
def State.blocked (s : State) (h : Nat) : Bool :=
  let q := s.quantumOf h
  let start := s.moment - q
  let gs := (s.team h).liveGroups
  let waited := gs.map fun k => ((KMap.get [] s.waits (16 * h + k.val)).map fun e => e.2 - max e.1 start).sum
  decide (15 * (gs.length * q) ≤ 16 * waited.sum)

/-- A cluster that may be swapped out: each of its teams is blocked and has been resident for a quantum, and its context has
save slots for it (R107, R109, R110). -/
def State.swappable (s : State) (h : Nat) : Bool :=
  s.movable h && !s.leaving h && s.savedIn (s.ctxOf (.group h 0)) + (s.team h).cluster.length ≤ 1024 &&
    ((s.team h).cluster.filter fun k => (s.team k).life != .ended).all fun k => s.blocked k && (s.team k).since + s.quantumOf k ≤ s.moment

/-- TEAM_SWAP: a blocked cluster gives way to a grid that has work and no room: one of that grid first, then one of equal
or lower priority (R109, R110). -/
def execTeamSwap (team grid : Nat) (s : State) : Out :=
  let gh := (s.team team).grid
  let die := dieOfCore (s.team team).core
  let own := s.teams.any fun e => e.2.grid == grid && dieOfCore e.2.core == die && s.swappable e.1
  if !s.swappable team || !s.hasWork grid die || !s.noRoom grid die || !s.admits grid [] ||
      (gh != grid && (own || cfgPrio (s.grid grid).cfg < cfgPrio (s.grid gh).cfg)) then notNow s
  else .next (s.makeRoom grid die true [team])

/-! ### Halting and saving (R107, R263, R264) -/

/-- Cells of a memory in [lo, lo + n), moved to begin at `base`. -/
def moveCells {α : Type} (m : KMap α) (lo n base : Nat) : KMap α := m.filterMap fun (k, v) => if lo ≤ k ∧ k < lo + n then some (k - lo + base, v) else none
/-- A memory without the cells of [lo, lo + n). -/
def dropCells {α : Type} (m : KMap α) (lo n : Nat) : KMap α := m.filter fun (k, _) => !(lo ≤ k && k < lo + n)
/-- Two memories with no key in common. -/
def joinCells {α : Type} (a b : KMap α) : KMap α := b.foldl (fun m (k, v) => KMap.ins m k v) a

/-- What a core keeps for a team, by the team's own offsets: scratch, accumulators by slot, engine work, messages with their
data (R264). -/
def State.imageOf (s : State) (h : Nat) : Core :=
  let t := s.team h
  let c := s.core t.core
  let n := (s.grid t.grid).scrBytes
  let msgs := c.msgq.filter (·.team == h)
  { Core.empty with
    scratch := joinCells (moveCells c.scratch t.scrBase n 0)
      (msgs.foldr (fun m acc => joinCells (moveCells c.scratch (Config.overflowBase + 256 * m.place) 256 (Config.overflowBase + 256 * m.place)) acc) [])
    scrMeta := joinCells (moveCells c.scrMeta (t.scrBase / 64) (n / 64) 0)
      (msgs.foldr (fun m acc => joinCells (moveCells c.scrMeta ((Config.overflowBase + 256 * m.place) / 64) 4 ((Config.overflowBase + 256 * m.place) / 64)) acc) [])
    acc := t.accMap.zipIdx.foldl (fun m (ps, i) => joinCells m (moveCells c.acc (4096 * ps) 4096 (4096 * i))) []
    accBnd := t.accMap.zipIdx.foldl (fun m (ps, i) => joinCells m (moveCells c.accBnd (64 * ps) 64 (64 * i))) []
    olog := c.olog.filter fun e => e.req.party.teamOf == h && !e.req.party.isStream
    copies := c.copies.filter (·.team == h)
    seq := c.seq.filter (·.onTeam == h)
    past := c.past.filter (·.onTeam == h)
    msgq := msgs, posted := c.posted.filter (·.team == h) }

/-- A core without a team's image. -/
def Core.without (c : Core) (t : Team) (h n : Nat) : Core :=
  { c with
    scratch := dropCells c.scratch t.scrBase n, scrMeta := dropCells c.scrMeta (t.scrBase / 64) (n / 64)
    acc := t.accMap.foldl (fun m ps => dropCells m (4096 * ps) 4096) c.acc, accBnd := t.accMap.foldl (fun m ps => dropCells m (64 * ps) 64) c.accBnd
    olog := c.olog.filter fun e => e.req.party.teamOf != h || e.req.party.isStream
    copies := c.copies.filter (·.team != h), seq := c.seq.filter (·.onTeam != h), past := c.past.filter (·.onTeam != h)
    msgq := c.msgq.filter (·.team != h), posted := c.posted.filter (·.team != h) }

/-- The full/empty bits of a list, lowest first. -/
def bitsLE (l : List Bool) : Nat := l.foldr (fun b a => b.toNat + 2 * a) 0

/-- A split record as an entry of the bobbin (05 Table 5-6). -/
def splitBytes (q : Split) : List Byte :=
  bytesLE 2 q.pc ++ bytesLE 2 q.rpc ++ bytesLE 4 q.mask.toNat ++ bytesLE 4 q.fmt.toNat ++ bytesLE 1 q.sib.toNat ++ List.replicate 19 0

/-- The records of a group's running block in its split slots, by slot (05 R124). -/
def Group.slotRecords (g : Group) : List (Nat × Split) :=
  match g.block with
  | none => []
  | some b => [0, 1].filterMap fun n => ((b.posOf n).bind b.rec?).map fun q => (n, q)

/-- The records in a group's bobbin, bottom first: those of a held block, then those below the runnable ones (05 R124, R128, 11 R259). -/
def Group.bobbin (g : Group) : List Split :=
  (match g.held with | some b => b.stack.reverse | none => []) ++
    match g.block with
    | none => []
    | some b => (b.stack.drop (if (b.posOf 1).isSome then 2 else 1)).reverse

/-- The parts of a group record whose layout Table 11-8 gives, by their offset in it. -/
def groupRecord (g : Group) : List (Nat × List Byte) :=
  [(0x0, (List.range 64).flatMap fun i => bytesLE 8 (g.sreg (blockReg 0 i)).toNat),
   (0x200, bytesLE 8 (bitsLE ((List.range 64).map fun i => g.sfull (blockReg 0 i))) ++ bytesLE 16 (bitsLE ((List.range 112).map fun i => (g.vreg i).full)) ++
     bytesLE 8 g.pc.toNat ++ bytesLE 8 g.fe.toNat ++ bytesLE 8 g.fstat.toNat),
   (0x240, [g.tvec, g.tcause, g.tinfo, g.tmask, g.tredo, g.tret, g.alw, g.fmt.setWidth 64].flatMap fun v => bytesLE 8 v.toNat)] ++
  ((List.range g.nreg).map fun r =>
    (0x1000 + 192 * r, ((List.range 32).flatMap fun l => bytesLE 4 (g.lane r l).val.toNat) ++ (List.range 32).flatMap fun l => bytesLE 2 (g.lane r l).bnd.toNat)) ++
  (g.slotRecords.map fun e => (0x2C0 + 32 * e.1, splitBytes e.2)) ++
  [(0x6400, (List.range 8).flatMap fun e => (List.range 32).flatMap fun l => bytesLE 4 (g.res e l).toNat)]

/-- Regions of a save slot that are written and whose layout the tables leave open: their bytes are free (log 16). -/
def slotOpen (ngrp : Nat) : List (Nat × Nat) :=
  [(0x0, 0x400), (0x800, 0x800), (0x1000, 0x2000)] ++ (List.range ngrp).flatMap fun g =>
    [(0x10000 + 0x8000 * g + 0x230, 0x10), (0x10000 + 0x8000 * g + 0x280, 0x980)]

/-- What a save writes into its slot, by offset (Table 11-7). -/
def State.slotBytes (s : State) (h : Nat) (im : Core) : List (Nat × List Byte) :=
  let t := s.team h
  let g := s.grid t.grid
  let md (lo n : Nat) : List Byte := (List.range n).flatMap fun i => bytesLE 8 (KMap.get 0 im.scrMeta (lo + i)).toNat
  [(0x400, (List.range 512).flatMap fun v => bytesLE 2 (KMap.get 0 t.remap v).toNat)] ++
  ((List.finRange 16).filter fun i => (t.groups.get i).used).flatMap (fun i => (groupRecord (t.groups.get i)).map fun e => (0x10000 + 0x8000 * i.val + e.1, e.2)) ++
  (((List.finRange 16).filter fun i => (t.groups.get i).used).map fun i => (0x100000 + 0x20000 * i.val, (t.groups.get i).bobbin.flatMap splitBytes)) ++
  (List.range t.accMap.length).map (fun j => (0x90000 + 0x4400 * j,
    ((List.range 4096).flatMap fun k => bytesLE 4 (KMap.get 0 im.acc (4096 * j + k)).toNat) ++ (List.range 64).flatMap fun r => bytesLE 2 (KMap.get 0 im.accBnd (64 * j + r)).toNat)) ++
  [(0x300000, readBytes im.scratch 0 g.scrBytes)] ++
  im.msgq.map (fun m => (0x378000 + 256 * m.place, readBytes im.scratch (Config.overflowBase + 256 * m.place) m.len)) ++
  [(0x380000, md 0 (g.scrBytes / 64)), (0x38F000, md (Config.overflowBase / 64) 512)]

/-- A directory entry (Table 11-6). -/
def dirEntry (state : Nat) (s : State) (h : Nat) : List Byte :=
  let t := s.team h
  bytesLE 1 state ++ bytesLE 1 (if t.swapped then 2 else 1) ++ bytesLE 2 0 ++ bytesLE 4 t.t ++ bytesLE 8 (s.grid t.grid).recAddr.toNat ++ bytesLE 8 t.saveSeq ++
    List.replicate 40 0

/-- Bytes written to a context's save area from a team's core, its traffic; places that name no memory of the device are passed over. -/
def State.saveWrite (s : State) (h va : Nat) (bs : List Byte) : State :=
  let core := (s.team h).core
  (sectorPieces va bs).foldl (fun s (e : Nat × Nat × List Byte) =>
    match s.look core (s.pasidOf (.group h 0)) (64 * e.1) true with
    | .here pa => (s.homeStore (pa / 64) (secBytes e.2.1 e.2.2 fun _ => 0) false).haulSector (.group h 0) core pa
    | _ => s) s

/-- The first page of a core's ranges that has no translation. -/
def State.savePage (s : State) (core : Nat) (pasid : BitVec 20) (l : List (Nat × Nat)) : Option Nat :=
  (l.flatMap fun e => (pageParts e.1 e.2).map (·.1)).find? fun va => match s.look core pasid va true with | .miss => true | _ => false

/-- What a switch does once the pages are there that some cores write; the first that is not is asked for. -/
def State.withPages (s : State) (pasid : BitVec 20) (l : List (Nat × List (Nat × Nat))) (go : Out) : Out :=
  match l.findSome? fun e => (s.savePage e.1 pasid e.2).map fun va => (e.1, va) with
  | some (core, va) => if s.asked (dieOfCore core) pasid va true false then notNow s else .next (s.askEngine (dieOfCore core) pasid va true)
  | none => go

/-- Save slots of a context in use: of teams that are being saved or saved, or whose directory entry is not free (R107, R264). -/
def State.slotsOf (s : State) (ctx : Nat) : List Nat :=
  (s.teams.filter fun e => (e.2.life == .saving || e.2.life == .saved || e.2.dirState != 0) && (s.grid e.2.grid).ctx.toNat == ctx).map (·.2.saveSlot)

/-- The lowest save slots of a context that are free. -/
def State.freeSlots (s : State) (ctx : Nat) : List Nat := let used := s.slotsOf ctx; (List.range 1024).filter fun n => !used.contains n

/-- Save area offsets (Table 11-5). -/
def slotBase (n : Nat) : Nat := 0x100000000 + n * 0x400000

/-- The address of a team's directory entry. -/
def State.dirAddr (s : State) (h : Nat) : Nat := (s.ctx (s.ctxOf (.group h 0))).save.toNat + 64 * (s.team h).saveSlot

/-- The state byte of a team's directory entry written (Table 11-6). -/
def State.setDir (s : State) (h state : Nat) : State :=
  (s.saveWrite h (s.dirAddr h) (bytesLE 1 state)).setTeam h { s.team h with dirState := state }

/-- The stalls of a team's loops end with its halt: the cycles so far at a bank are counted, those at a table go on at the resume
(06 R158, R160, R165). -/
def State.endStalls (s : State) (h : Nat) : State :=
  let core := (s.team h).core
  let t := ((s.core core).seq.filter (·.onTeam == h)).foldl (fun s q =>
    match q.bankStall with
    | some (since, till) => s.updIssuer q fun g => { g with wrstall := countStall g.wrstall (s.bankWaited core since till) }
    | none => s) s
  t.updCore core fun c => { c with seq := c.seq.map fun q => if q.onTeam = h then { q with tableStall := q.tableStall.map (t.time - ·), bankStall := none } else q }

/-- A team halted into a save slot (R107, R264): its directory entry says that it is being saved. -/
def State.haltTeam (s : State) (h slot : Nat) : State :=
  let ctx := s.ctxOf (.group h 0)
  let seq := (s.ctx ctx).saveSeq
  let s := (s.setTeam h { s.team h with life := .saving, saveSlot := slot, saveSeq := seq, dirState := 1 }).setCtx ctx { s.ctx ctx with saveSeq := seq + 1 }
  let s := (s.updCore (s.team h).core fun c => { c with haltReq := c.haltReq.filter (· != h) }).endStalls h
  s.saveWrite h (s.dirAddr h) (dirEntry 1 s h)

/-- The dies of some cores apply their invalidation logs at a context switch (07 R190). -/
def State.switchInvals (s : State) (cores : List Nat) : State := ((cores.map dieOfCore).dedup).foldl (fun s d => s.applyInvals d) s

/-- The teams of a cluster that run. -/
def State.clusterRuns (s : State) (h : Nat) : List Nat := (s.team h).cluster.filter fun k => (s.team k).life == .running

/-- Groups of a swapped or pre-empted team that wait at a SUSP or JOIN give up their entries and look at their counters again
(R110, 13 R311). -/
def Group.giveUp (g : Group) : Group :=
  match g.wait with
  | .susp a t c _ => { g with wait := .susp a t c false, pollAt := 0 }
  | .join a t st d _ => { g with wait := .join a t st d false, pollAt := 0 }
  | _ => g

/-- A copy or command of the team on its core waits for the answer of a peer. -/
def State.peerOwes (s : State) (h : Nat) : Bool :=
  let n := (s.team h).core
  let c := s.core n
  let mine (id : Nat) : Bool := (c.copies.any fun x => x.team == h && x.id == id) || c.seq.any fun q => q.onTeam == h && q.id == id
  s.peers.any fun e => e.2.sent.any fun t => t.core == n && mine t.id

/-- TEAM_SAVE_COMPLETE: with its core's stores drained and the answers to its engines' requests here, the team's state lies
in its save slot and its room is free (R107, R263, R264); the switch applies the die's invalidation log (07 R190). -/
def execTeamSaveComplete (team : Nat) (s : State) : Out :=
  let t := s.team team
  let ctx := s.ctxOf (.group team 0)
  let c := s.core t.core
  if t.life ≠ .saving ∨ !c.cbuf.isEmpty ∨ s.peerOwes team then notNow s
  else
    let base := (s.ctx ctx).save.toNat
    let im := s.imageOf team
    let bytes := s.slotBytes team im
    let open_ := slotOpen (s.grid t.grid).ngrp
    let ranges := (base + 64 * t.saveSlot, 64) :: (bytes.map fun e => (base + slotBase t.saveSlot + e.1, e.2.length)) ++
      open_.map fun e => (base + slotBase t.saveSlot + e.1, e.2)
    s.withPages (s.ctx ctx).pasid [(t.core, ranges)] <|
      let t' : Team := { t with life := .saved, image := some im, savedAt := s.moment, groups := t.groups.map Group.giveUp }
      let s1 := s.setTeam team t'
      let s2 := { s1 with watches := s1.watches.filter fun w => w.party.isStream || w.party.teamOf != team }
      let s3 := s2.updCore t.core fun c => c.without t team (s.grid t.grid).scrBytes
      let s4 := open_.foldl (fun s e =>
        (s.saveWrite team (base + slotBase t.saveSlot + e.1) ((List.range e.2).map fun i => (Config.freeWord (s.fresh + i)).setWidth 8)).bumpBy e.2) s3
      let s5 := bytes.foldl (fun s e => s.saveWrite team (base + slotBase t.saveSlot + e.1) e.2) s4
      .next ((s5.setDir team (if s5.teamReady team then 2 else 3)).switchInvals [t.core])

/-! ### Resuming (R108, R142, R264) -/

/-- A group at resume in a group slot of a core whose cycle is `w`: one that slept in SLEEPU wakes, and the checks of its wake come at
the next instruction (R142, 07 R186, R187). -/
def Group.atResume (g : Group) (slot : Fin 16) (w : DWord) : Group :=
  let g := { g with slotNo := slot }
  match g.wait with
  | .sleep _ => { g with wait := .none, pc := g.pc + 4, wakeAt := some w }
  | _ => g

/-- A team's groups in new group slots: the k-th of its groups takes the k-th slot. -/
def resumeGroups (gs : Vector Group 16) (slots : List (Fin 16)) (w : DWord) : Vector Group 16 :=
  Vector.ofFn fun i => let g := gs.get i; if g.used then (match slots[i.val]? with | some sl => g.atResume sl w | none => g) else g

/-- The L1 sectors of a team's context on a core that are older than what its homes hold are evicted as the team comes to the core, so
that none hides a store that it made elsewhere (07 R169, R196; DESIGN CHOICE of which lines leave, log 45). -/
def State.freshL1 (s : State) (h core : Nat) : State :=
  let p : Party := .group h 0
  let same (l : L1Sector) : Bool := match s.look core (s.pasidOf p) (64 * l.va) false with
    | .here pa => let x := s.overBuffer core p l.va (s.homeLoad (pa / 64)); x.1 == l.data && x.2 == l.bnds
    | _ => false
  (s.updCore core fun c => { c with l1 := c.l1.filter fun l => l.ctx != s.ctxOf p || same l }).noFills (fun q => s.coreOf q.party == core) (·.core == core)

/-- A team back on a core (R108, R142), in the half of its cluster that it takes there: a running loop meets the new core's directory,
its copies never raise MISSP, its bobbin entries go to the live area of the new core (R264). -/
def State.resumeTeam (s : State) (h : Nat) (p : Place) : State :=
  let t := s.team h
  let im := t.image.getD Core.empty
  let n := (s.grid t.grid).scrBytes
  let s := s.setTeam h { t with life := .running, core := p.core, scrBase := p.scr, accMap := p.acc, image := none, since := s.moment,
                                groups := resumeGroups t.groups p.slots (s.coreCyc p.core) }
  let s := if t.core = p.core then s else s.freshL1 h p.core
  let free := (List.range Config.overflowPlaces).filter fun k => !(s.core p.core).msgq.any fun m => m.place == k
  let msgs := im.msgq.zip free
  let s := s.updCore p.core fun c => { c with
    scratch := msgs.foldl (fun m e => joinCells m (moveCells im.scratch (Config.overflowBase + 256 * e.1.place) 256 (Config.overflowBase + 256 * e.2)))
      (joinCells (dropCells c.scratch p.scr n) (moveCells im.scratch 0 n p.scr))
    scrMeta := msgs.foldl (fun m e => joinCells m (moveCells im.scrMeta ((Config.overflowBase + 256 * e.1.place) / 64) 4 ((Config.overflowBase + 256 * e.2) / 64)))
      (joinCells (dropCells c.scrMeta (p.scr / 64) (n / 64)) (moveCells im.scrMeta 0 (n / 64) (p.scr / 64)))
    acc := p.acc.zipIdx.foldl (fun m (ps, i) => joinCells (dropCells m (4096 * ps) 4096) (moveCells im.acc (4096 * i) 4096 (4096 * ps))) c.acc
    accBnd := p.acc.zipIdx.foldl (fun m (ps, i) => joinCells (dropCells m (64 * ps) 64) (moveCells im.accBnd (64 * i) 64 (64 * ps))) c.accBnd
    olog := c.olog ++ im.olog, copies := c.copies ++ im.copies.map (fun x => { x with resumed := true }), past := c.past ++ im.past
    msgq := c.msgq ++ msgs.map (fun e => { e.1 with place := e.2 }), posted := c.posted ++ im.posted
    wphase := if cfgWph (s.grid t.grid).cfg then some t.grid else c.wphase }
  let s := s.updCore p.core fun c => { c with
    seq := c.seq ++ im.seq.map fun q =>
      let q := { q with tableStall := q.tableStall.map (s.time - ·) }
      match q.params with
      | some l => if q.started then { q with hit := s.dirHit p.core l q.fmt } else q
      | none => q }
  let s := (List.finRange 16).foldl (fun (s : State) k =>
    let l := ((s.team h).groups.get k).bobbin
    if l.isEmpty then s else s.saveWrite h (s.bobAddr (.group h k)).toNat (l.flatMap splitBytes)) s
  s

/-- A cluster back on its cores, each team's directory entry saying that it resumes (R101, R108, Table 11-6). -/
def State.resumeCluster (s : State) (h : Nat) (straddled : Bool) (l : List (Nat × Place)) : State :=
  let cfg := (s.grid (s.team h).grid).cfg
  let s := (s.team h).cluster.foldl (fun s k =>
    s.setTeam k { s.team k with far := straddled && inFar (cfgRows cfg) (cfgCols cfg) (s.team k).cc }) s
  l.foldl (fun s (k, p) => (s.resumeTeam k p).setDir k 4) s

/-! ### The end of a grid (R87, R88) -/

/-- Work of a grid's teams is under way still (R88). -/
def State.gridBusy (s : State) (gh : Nat) : Bool :=
  let hs := (s.teams.filter fun e => e.2.grid == gh).map (·.1)
  let mine (p : Party) : Bool := !p.isStream && hs.contains p.teamOf
  let core (c : Core) : Bool :=
    (c.copies.any fun x => hs.contains x.team && x.stopped.isNone) || (c.seq.any fun q => hs.contains q.team || hs.contains q.onTeam) ||
      c.olog.any fun e => mine e.req.party
  s.cores.any (fun e => core e.2) || s.atoms.any (fun q => mine q.party) || s.msgs.any (fun m => hs.contains m.team) || s.probes.any (fun e => mine e.2.party) ||
    s.dies.any (fun e => e.2.walks.any fun w => mine w.party) || hs.any fun h =>
      !(s.core (s.team h).core).cbuf.isEmpty || (List.finRange 16).any fun g => !(s.postedOf (.group h g)).isEmpty

/-- Status word of a grid (Table 4-5). -/
def Grid.status (g : Grid) : Nat :=
  let kc : Nat × Nat := match g.fate with | .running => (0, 0) | .faulted c => (1, c.toNat) | .killed => (2, 0)
  kc.1 + kc.2 * 2 ^ 2 + min g.nfail (2 ^ 32 - 1) * 2 ^ 10 + g.refused.toNat * 2 ^ 42 + g.incomplete.toNat * 2 ^ 43

/-- A grid has written its status: its teams and its entry are gone, the save slots of discarded teams are free, its cores
leave its weight phase (R88, R102, 11 R264). -/
def State.forgetGrid (s : State) (gh : Nat) : State :=
  let s := ((s.teams.filter fun e => e.2.grid == gh && e.2.dirState != 0).map (·.1)).foldl (fun s h => s.setDir h 0) s
  let s := { s with deptab := s.deptab.filter (·.grid != gh), dies := s.dies.map fun (e : Nat × Die) => (e.1, e.2.taken gh) }
  let s := { s with teams := s.teams.filter fun e => e.2.grid != gh, cores := s.cores.filterMap fun (e : Nat × Core) =>
    let c := if e.2.wphase = some gh then { e.2 with wphase := none } else e.2
    if c = Core.empty then none else some (e.1, c) }
  s.setGrid gh Grid.empty

/-- GRID_END: the status word, then the completion counter, once (R88). -/
def execGridEnd (grid : Nat) (s : State) : Out :=
  let g := s.grid grid
  let ran := g.refused || (g.handed && g.ranges.isEmpty && (s.teamsOf grid).isEmpty)
  if g.closed || !ran || s.gridBusy grid then notNow s
  else
    match s.endWrites g.ctx.toNat g.stat g.status (some g.ccnt) g.statDone with
    | .wait => notNow s
    | .ask t => .next t
    | .sent t => .next (t.setGrid grid { g with statDone := true })
    | .done t => .next (t.forgetGrid grid).tryStart

end Sys2Proof.Machine
end

