-- ==== Sys2Proof/Machine/CoreEvents.lean ====
section
/-! DEFINITION. Events of a core's groups: a spool entry starts, a wait ends or is looked at again, a demotion ends
(05 R119, R134; 11 R259; 13 R310, R312). -/

namespace Sys2Proof.Machine

/-- A block at its start: one record (R119). -/
def Block.start (e : SpoolEntry) : Block := { entry := e, stack := [] }
def startRecord (e : SpoolEntry) : Split := { pc := 1, mask := e.mask, rpc := e.len, fmt := e.fmt, sib := false, redo := none, second := false, jumped := false, traps := [] }

/-- The next trap block starts, ahead of every other (R259): the block that runs is held. -/
def Group.startTrapBlock (g : Group) (e : SpoolEntry) (rest : List SpoolEntry) : Group :=
  let g := match g.block with
    | some b => { g with held := some b, heldFin := g.fin }
    | none => g
  { g with trapq := rest, fin := 0 }.setStack (Block.start e) [startRecord e]

/-- SPOOL_ENTRY_START (R119, R259): a block with an empty mask ends at once. -/
def execSpoolEntryStart (team : Nat) (gid : Fin 16) (s : State) : Out :=
  let p : Party := .group team gid
  let g := s.grp p
  if !s.runs p || !g.startDue then notNow s
  else
    match g.trapq, g.spool with
    | e :: rest, _ => .next (s.updGrp p fun g => g.startTrapBlock e rest)
    | [], e :: _ => .next (s.updGrp p fun g => { g with fin := 0 }.setStack (Block.start e) [startRecord e])
    | [], [] => notNow s

/-- A result with nothing left to wait for; an event that would only wait is not possible. -/
def orNotNow (s : State) (r : Out) : Out :=
  match r with
  | .next t => if t.stalled then notNow s else .next t
  | r => r

/-- A saved team that has become ready has its directory entry say so (11 R264 Table 11-6, 04 R108). -/
def savedReady (p : Party) (s : State) : Out :=
  match p with
  | .group h _ => if (s.team h).dirState = 3 ∧ s.teamReady h then .next (s.setDir h 2) else notNow s
  | .stream _ => notNow s

/-- WATCH_ENTRY_WAKE (R134, R140): an acquire at system scope, then SUSP's continuation, or JOIN's load of the status. -/
def execWatchEntryWake (p : Party) (s : State) : Out :=
  if !s.watches.any (fun w => w.party == p && w.hit) then notNow s
  else if !s.runs p then savedReady p s
  else
    let t := ({ s with watches := s.watches.filter fun w => w.party != p, who := p, stalled := false, starved := false }).acquireAt p 3
    match (s.grp p).wait with
    | .susp _ _ cont true => suspReached cont t
    | .join _ _ stat d true => orNotNow s (joinLoad d stat t)
    | _ => notNow s

/-- SUSP_POLL (R134): 256 cycles after its last read the counter is read again, and an entry taken if one has freed. -/
def execSuspPoll (p : Party) (s : State) : Out :=
  let t := { s with who := p, stalled := false, starved := false }
  if !s.runs p then savedReady p s
  else if (s.cyc p).ult (s.grp p).pollAt then notNow s
  else
    match (s.grp p).wait with
    | .susp ea target cont false => polling (waitCounter t true ea target (.susp ea target cont) (suspReached cont))
    | .join ea target stat d false => polling (waitCounter t (s.feature 6) ea target (.join ea target stat d) (joinLoad d stat))
    | _ => notNow s

/-- SLEEPU_WAKE (R312). -/
def execSleepuWake (p : Party) (s : State) : Out :=
  match (s.grp p).wait with
  | .sleep till => if s.runs p && till.ule (s.cyc p) && !s.wakeHeld p then wakeSleep { s with who := p } else notNow s
  | _ => notNow s

/-- DEMOTION_END (R310, R104). -/
def execDemotionEnd (p : Party) (s : State) : Out :=
  let g := s.grp p
  if !s.runs p || g.demoteEnd == 0 || (s.cyc p).ult g.demoteEnd then notNow s
  else .next (s.updGrp p fun g => { g with demoteEnd := 0 })

end Sys2Proof.Machine
end

