-- ==== Sys2Proof/Machine/LaneBound.lean ====
section
/-! DEFINITION. Bound instructions and EFGET (14 R335, R337). -/

namespace Sys2Proof.Machine

/-- BND: the bound as an FP32 value (R335). -/
def execBnd (w : LaneWord) (s : State) : Out := vecOp (.bnd w) calcBnd s

/-- SETB: the word with its bound raised (R335). -/
def execSetb (w : LaneWord) (s : State) : Out := vecOp (.setb w) calcSetb s

/-- CLRB: the word with an exact bound (R335). -/
def execClrb (w : LaneWord) (s : State) : Out := vecOp (.clrb w) calcClrb s

/-- EFGET: the residue as an FP32 word (R337). -/
def execEfget (w : LaneWord) (s : State) : Out := vecOp (.efget w) calcEfget s

end Sys2Proof.Machine
end

