-- ==== Sys2Proof/Machine/LaneControl.lean ====
section
/-! DEFINITION. Control words of a lane block (15 R356, R357; 05 R125-R128). -/

namespace Sys2Proof.Machine

/-- The record of a control word, which is not performed again and whose next word belongs to no pair (R356, R289). -/
def LaneRun.record (x : LaneRun) : Split := { x.q with redo := none, second := false, jumped := false }

/-- A control word that jumps: the record at its new word, which may be the second of a pair (R289). -/
def Block.jump (b : Block) (pos : Nat) : Block := { b with stack := b.stack.modify pos fun q => { q with jumped := true } }

/-- A control word's effect on the group, which runs on after it: it never pairs, and a P bit on it is counted (R356, R289). -/
def LaneRun.control (x : LaneRun) (s : State) (f : Group → Block → Group) : Out :=
  .next (s.updCur fun g =>
    let g := if x.w.pair && g.pairser != BitVec.allOnes 64 then { g with pairser := g.pairser + 1 } else g
    f g { x.b with stack := x.b.stack.set x.pos x.record })

/-- ILLFLD of a control word (R356). -/
def LaneRun.illField (x : LaneRun) (s : State) : Out := x.trap s cIllfld (x.r.op.setWidth 64) (x.c.g.eff x.q)

/-- LBR: a divergent branch (R125, R356). -/
def execLbr (w : LaneWord) (s : State) : Out :=
  laneGo (.lbr w) s fun x =>
    let t := w.target.toNat
    let r := w.reconv.toNat
    let c := let p := x.c.g.predMask w.pred.toNat; if w.pneg then ~~~p else p
    let m := x.c.g.eff x.q
    if ¬ (x.q.pc < r ∧ r ≤ x.q.rpc ∧ t < x.b.entry.len) then x.illField s
    else if m &&& c = 0 then x.control s fun g b => g.moveTo b x.pos (x.q.pc + 1)
    else if m &&& ~~~c = 0 then x.control s fun g b => g.moveTo (b.jump x.pos) x.pos t
    else
      match lbrStack x.c.g (x.b.stack.set x.pos x.record) x.pos c t r with
      | none => x.trap s cBobbin 0 m
      | some st => x.control s fun g b => g.setStack b st

/-- LJMP: a jump within the block (R127). -/
def execLjmp (w : LaneWord) (s : State) : Out :=
  laneGo (.ljmp w) s fun x =>
    if x.b.entry.len ≤ w.target.toNat then x.illField s
    else x.control s fun g b => g.moveTo (b.jump x.pos) x.pos w.target.toNat

/-- LEND: the record's lanes have finished the block (R127). -/
def execLend (w : LaneWord) (s : State) : Out :=
  laneGo (.lend w) s fun x =>
    x.control s fun g b => { g with fin := g.fin ||| g.eff x.q }.setStack b (removeAt b.stack x.pos)

/-- LEXIT: the record's lanes exit until their group ends (R127). -/
def execLexit (w : LaneWord) (s : State) : Out :=
  laneGo (.lexit w) s fun x =>
    x.control s fun g b => { g with live := g.live &&& ~~~(g.eff x.q) }.setStack b (removeAt b.stack x.pos)

/-- LFMT: the record's format register from a k register (R357). -/
def execLfmt (w : LaneWord) (s : State) : Out :=
  laneGo (.lfmt w) s fun x =>
    let v := x.c.k (w.a.reg.toNat - 112)
    if !fmtLegal v then x.illField s
    else x.control s fun g b => g.moveTo { b with stack := b.stack.set x.pos { x.record with fmt := v } } x.pos (x.q.pc + 1)

/-- LNOP: the next word (R356). -/
def execLnop (w : LaneWord) (s : State) : Out :=
  laneGo (.lnop w) s fun x => x.control s fun g b => g.moveTo b x.pos (x.q.pc + 1)

end Sys2Proof.Machine
end

