-- ==== Sys2Proof/Machine/LaneFloat.lean ====
section
/-! DEFINITION. Lane float arithmetic and float comparisons (14 R317-R322): each computes in one lane what `LaneCalc` gives. -/

namespace Sys2Proof.Machine

/-- FADD: a + b (R317). -/
def execFadd (w : LaneWord) (s : State) : Out := vecOp (.fadd w) (calcAdd false) s

/-- FSUB: a − b (R317). -/
def execFsub (w : LaneWord) (s : State) : Out := vecOp (.fsub w) (calcAdd true) s

/-- FMUL: a × b (R317). -/
def execFmul (w : LaneWord) (s : State) : Out := vecOp (.fmul w) calcMul s

/-- FFMA: a × b + c (R317). -/
def execFfma (w : LaneWord) (s : State) : Out := vecOp (.ffma w) (calcFma false) s

/-- FMIN (R318). -/
def execFmin (w : LaneWord) (s : State) : Out := vecOp (.fmin w) (calcMinMax false) s

/-- FMAX (R318). -/
def execFmax (w : LaneWord) (s : State) : Out := vecOp (.fmax w) (calcMinMax true) s

/-- FCMP: a predicate from a condition (R319, R245, R246). -/
def execFcmp (w : LaneWord) (s : State) : Out := predOp (.fcmp w) false calcFcmp s

/-- FCLASS: one bit for the class of a (R320). -/
def execFclass (w : LaneWord) (s : State) : Out := vecOp (.fclass w) calcClass s

/-- FRND: rounding to an integral value (R321). -/
def execFrnd (w : LaneWord) (s : State) : Out := vecOp (.frnd w) calcRnd s

/-- FFRAC: the fraction above the floor (R321). -/
def execFfrac (w : LaneWord) (s : State) : Out := vecOp (.ffrac w) calcFrac s

/-- FLDEXP: a × 2^n (R321). -/
def execFldexp (w : LaneWord) (s : State) : Out := vecOp (.fldexp w) calcLdexp s

/-- FDOT2: two products and an addend, summed exactly (R322, R225). -/
def execFdot2 (w : LaneWord) (s : State) : Out := vecOp (.fdot2 w) (calcDot 2) s

/-- FDOT4: four products and an addend, summed exactly (R322, R225). -/
def execFdot4 (w : LaneWord) (s : State) : Out := vecOp (.fdot4 w) (calcDot 4) s

/-- FADDI: a + imm (R317). -/
def execFaddi (w : LaneWord) (s : State) : Out := vecOp (.faddi w) calcAddI s

/-- FMULI: a × imm (R317). -/
def execFmuli (w : LaneWord) (s : State) : Out := vecOp (.fmuli w) calcMulI s

/-- FFMAI: a × imm + b (R317). -/
def execFfmai (w : LaneWord) (s : State) : Out := vecOp (.ffmai w) (calcFma true) s

end Sys2Proof.Machine
end

