-- ==== Sys2Proof/Machine/LaneInt.lean ====
section
/-! DEFINITION. Lane integer, bit and comparison operations (14 R323-R326, R329). -/

namespace Sys2Proof.Machine

/-- IADD (R323). -/
def execIadd (w : LaneWord) (s : State) : Out := vecOp (.iadd w) (calcInt2 (· + ·) propSum) s

/-- ISUB (R323). -/
def execIsub (w : LaneWord) (s : State) : Out := vecOp (.isub w) (calcInt2 (· - ·) propSum) s

/-- IMUL (R323). -/
def execImul (w : LaneWord) (s : State) : Out := vecOp (.imul w) (calcInt2 (· * ·) propMul) s

/-- IMULH: high signed product (R323). -/
def execImulh (w : LaneWord) (s : State) : Out := vecOp (.imulh w) (calcBits2 mulHi) s

/-- IMULHU: high unsigned product (R323). -/
def execImulhu (w : LaneWord) (s : State) : Out := vecOp (.imulhu w) (calcBits2 mulHiU) s

/-- IMAD: a × b + c (R323). -/
def execImad (w : LaneWord) (s : State) : Out := vecOp (.imad w) calcImad s

/-- IMIN (R323). -/
def execImin (w : LaneWord) (s : State) : Out := vecOp (.imin w) (calcInt2 min propMax) s

/-- IMAX (R323). -/
def execImax (w : LaneWord) (s : State) : Out := vecOp (.imax w) (calcInt2 max propMax) s

/-- IMINU (R323). -/
def execIminu (w : LaneWord) (s : State) : Out := vecOp (.iminu w) (calcMinMaxU false) s

/-- IMAXU (R323). -/
def execImaxu (w : LaneWord) (s : State) : Out := vecOp (.imaxu w) (calcMinMaxU true) s

/-- ICMPI (R324). -/
def execIcmpi (w : LaneWord) (s : State) : Out := predOp (.icmpi w) true calcIcmpi s

/-- IADDI (R323). -/
def execIaddi (w : LaneWord) (s : State) : Out := vecOp (.iaddi w) calcIaddI s

/-- IANDI (R323). -/
def execIandi (w : LaneWord) (s : State) : Out := vecOp (.iandi w) (calcBitsI (· &&& ·)) s

/-- IORI (R323). -/
def execIori (w : LaneWord) (s : State) : Out := vecOp (.iori w) (calcBitsI (· ||| ·)) s

/-- IXORI (R323). -/
def execIxori (w : LaneWord) (s : State) : Out := vecOp (.ixori w) (calcBitsI (· ^^^ ·)) s

/-- ISHLI: the count is imm21[4:0] (R325). -/
def execIshli (w : LaneWord) (s : State) : Out := vecOp (.ishli w) (calcBitsI (fun a b => shlW a (b &&& 31))) s

/-- ISHRI (R325). -/
def execIshri (w : LaneWord) (s : State) : Out := vecOp (.ishri w) (calcBitsI (fun a b => shrW a (b &&& 31))) s

/-- ISRAI (R325). -/
def execIsrai (w : LaneWord) (s : State) : Out := vecOp (.israi w) (calcBitsI (fun a b => sraW a (b &&& 31))) s

/-- AND (R323). -/
def execVand (w : LaneWord) (s : State) : Out := vecOp (.vand w) (calcBits2 (· &&& ·)) s

/-- OR (R323). -/
def execVor (w : LaneWord) (s : State) : Out := vecOp (.vor w) (calcBits2 (· ||| ·)) s

/-- XOR (R323). -/
def execVxor (w : LaneWord) (s : State) : Out := vecOp (.vxor w) (calcBits2 (· ^^^ ·)) s

/-- ANDN: a and not b (R323). -/
def execVandn (w : LaneWord) (s : State) : Out := vecOp (.vandn w) (calcBits2 (fun a b => a &&& ~~~b)) s

/-- SHL: a count of 32 or more gives 0 (R325). -/
def execVshl (w : LaneWord) (s : State) : Out := vecOp (.vshl w) (calcBits2 shlW) s

/-- SHR (R325). -/
def execVshr (w : LaneWord) (s : State) : Out := vecOp (.vshr w) (calcBits2 shrW) s

/-- SRA (R325). -/
def execVsra (w : LaneWord) (s : State) : Out := vecOp (.vsra w) (calcBits2 sraW) s

/-- POPC: number of ones (R323). -/
def execPopc (w : LaneWord) (s : State) : Out := vecOp (.popc w) (calcBits1 (fun a => BitVec.ofNat 32 (popcount a))) s

/-- CLZ: leading zeros (R323). -/
def execClz (w : LaneWord) (s : State) : Out := vecOp (.clz w) (calcBits1 (fun a => BitVec.ofNat 32 (clzN a))) s

/-- BREV: bits reversed (R323). -/
def execBrev (w : LaneWord) (s : State) : Out := vecOp (.brev w) (calcBits1 brevW) s

/-- BFE (R326). -/
def execBfe (w : LaneWord) (s : State) : Out := vecOp (.bfe w) (calcBits2 bfeW) s

/-- BFI (R326). -/
def execBfi (w : LaneWord) (s : State) : Out := vecOp (.bfi w) (calcBits3 bfiW) s

/-- PRMT (R326). -/
def execPrmt (w : LaneWord) (s : State) : Out := vecOp (.prmt w) (calcBits3 prmtW) s

/-- ICMP (R324). -/
def execIcmp (w : LaneWord) (s : State) : Out := predOp (.icmp w) true calcIcmp s

/-- ICMPU (R324). -/
def execIcmpu (w : LaneWord) (s : State) : Out := predOp (.icmpu w) true calcIcmpu s

end Sys2Proof.Machine
end

