-- ==== Sys2Proof/Machine/LaneMove.lean ====
section
/-! DEFINITION. Lane moves, selects and predicate logic (14 R327-R329). -/

namespace Sys2Proof.Machine

/-- MOVI: an immediate word (R328). -/
def execMovi (w : LaneWord) (s : State) : Out := vecOp (.movi w) calcMovi s

/-- MOV: a word with its bound (R328). -/
def execVmov (w : LaneWord) (s : State) : Out := vecOp (.vmov w) calcMov s

/-- SEL: a or b by a predicate (R328). -/
def execVsel (w : LaneWord) (s : State) : Out := vecOp (.vsel w) calcSel s

/-- LUT: any function of three bits, bitwise (R327). -/
def execLut (w : LaneWord) (s : State) : Out := vecOp (.lut w) (calcBits3 (fun a b x => lutW w.table a b x)) s

/-- PLOP: any function of three predicates (R329). -/
def execPlop (w : LaneWord) (s : State) : Out := predOp (.plop w) false calcPlop s

/-- PMOV to a register: 1 or 0 (R329). -/
def execPmovToWord (w : LaneWord) (s : State) : Out := vecOp (.pmovToWord w) calcPmovW s

/-- PMOV to a predicate: the word is not 0 (R329). -/
def execPmovToPredicate (w : LaneWord) (s : State) : Out := predOp (.pmovToPredicate w) false calcPmovP s

end Sys2Proof.Machine
end

