-- ==== Sys2Proof/Machine/LaneSpecial.lean ====
section
/-! DEFINITION. Special functions, conversions and SCALEBLK (14 R330-R332, R334; log 10). -/

namespace Sys2Proof.Machine

/-- FRCP (R330). -/
def execFrcp (w : LaneWord) (s : State) : Out := vecOp (.frcp w) (calcSpecial .rcp) s

/-- FRSQ (R330). -/
def execFrsq (w : LaneWord) (s : State) : Out := vecOp (.frsq w) (calcSpecial .rsq) s

/-- FSQRT (R330). -/
def execFsqrt (w : LaneWord) (s : State) : Out := vecOp (.fsqrt w) (calcSpecial .sqrt) s

/-- FDIV (R330). -/
def execFdiv (w : LaneWord) (s : State) : Out := vecOp (.fdiv w) (calcSpecial .div) s

/-- FEXP2 (R330). -/
def execFexp2 (w : LaneWord) (s : State) : Out := vecOp (.fexp2 w) (calcSpecial .exp2) s

/-- FLOG2 (R330). -/
def execFlog2 (w : LaneWord) (s : State) : Out := vecOp (.flog2 w) (calcSpecial .log2) s

/-- FSIN (R330). -/
def execFsin (w : LaneWord) (s : State) : Out := vecOp (.fsin w) (calcSpecial .sin) s

/-- FCOS (R330). -/
def execFcos (w : LaneWord) (s : State) : Out := vecOp (.fcos w) (calcSpecial .cos) s

/-- FTANH (R330). -/
def execFtanh (w : LaneWord) (s : State) : Out := vecOp (.ftanh w) (calcSpecial .tanh) s

/-- FSIGM (R330). -/
def execFsigm (w : LaneWord) (s : State) : Out := vecOp (.fsigm w) (calcSpecial .sigm) s

/-- CVTFI: float to integer, saturating (R331). -/
def execCvtfi (w : LaneWord) (s : State) : Out := vecOp (.cvtfi w) calcCvtfi s

/-- CVTIF: integer to float (R332). -/
def execCvtif (w : LaneWord) (s : State) : Out := vecOp (.cvtif w) calcCvtif s

/-- CVTFF: float to float (R332). -/
def execCvtff (w : LaneWord) (s : State) : Out := vecOp (.cvtff w) calcCvtff s

/-- SCALEBLK: one element of a scaled block widened (R334). -/
def execScaleblk (w : LaneWord) (s : State) : Out := vecOp (.scaleblk w) calcScaleblk s

end Sys2Proof.Machine
end

