-- ==== Sys2Proof/Machine/LaneVec.lean ====
section
/-! DEFINITION. Lane words that look beyond one lane or write beyond the results of the other families: QBLK, CHKB,
residues, collectives, identities and pleats (14 R333, R336, R337; 15 R349-R355). -/

namespace Sys2Proof.Machine

/-! ### QBLK (R333, R224) -/

/-- Element capacity of a word as QBLK packs it (R214, R333). -/
def qblkEpw (fdc : Nat) : Nat := fmtElems fdc

/-- One element of QBLK's block: its code, bound and scaled value (R333, R224), and the element as fd reads it, which a check
takes: lane instructions never apply block scales (R223, R242). -/
structure QElem where
  code : Nat
  bnd : Option Rat
  val : FVal
  y : Option Rat
deriving DecidableEq, Repr

/-- The block of QBLK: the scale pair and the 32 elements (R224, R333). -/
def qblkOf (c : LaneCtx) : Nat × List QElem :=
  let src := (List.range 32).map fun i => if c.g.live.getLsbD i then c.srcF (fmtA c.fmt) c.w.a i else (.zero false, some 0)
  let fdc := fmtD c.fmt
  let (e, sb, codes) := qblk (src.map (·.1)) fdc (c.fmt.getLsbD 28)
  (256 * e + sb,
    (src.zip codes).map fun ((x, b), code) =>
      let v := widenPair fdc code (256 * e + sb)
      let err : Option Rat := if x.isFinite && v.isFinite then some (qabs (x.toRat - v.toRat)) else none
      ⟨code, if e = 255 then none else badd b err, v, limY (decodeF (ffmt fdc) code)⟩)

/-- The register after QBLK (R333): words 0 to n − 1, and the scale pair in slot 31. -/
def qblkWrite (old : VReg) (fdc : Nat) (perf : Mask) (pair : Nat) (els : List QElem) : VReg :=
  let epw := qblkEpw fdc
  let n := (32 + epw - 1) / epw
  { full := true,
    lanes := Vector.ofFn fun j =>
      if j.val = 31 then ⟨BitVec.ofNat 32 pair, 0⟩
      else if n ≤ j.val then old.lanes[j]
      else
        let ps := (List.range epw).map fun q => (q, epw * j.val + q)
        let written := ps.filter fun (_, i) => i ≤ 31 && perf.getLsbD i
        if written.isEmpty then old.lanes[j]
        else
          let val := ps.foldl (fun x (q, i) =>
            if 31 < i then setElem fdc x q 0
            else if perf.getLsbD i then setElem fdc x q ((els[i]?).elim 0 (·.code)) else x) old.lanes[j].val
          let nb := roundUpB16 (written.foldl (fun b (_, i) => bmax b ((els[i]?).elim none (·.bnd))) (some 0))
          let kept := ps.any fun (_, i) => i ≤ 31 && !perf.getLsbD i
          ⟨val, if kept then bndMax nb old.lanes[j].bnd else nb⟩ }

/-- The lanes that QBLK writes (R333). -/
def qblkLanes (fdc : Nat) : Mask := maskOf fun j => j == 31 || j < (32 + qblkEpw fdc - 1) / qblkEpw fdc

/-- QBLK: one block of 32 values quantised (R333); each written element is checked as a narrow write is (R242). -/
def execQblk (w : LaneWord) (s : State) : Out :=
  laneGo (.qblk w) s fun x =>
    let (pair, els) := qblkOf x.c
    let a := allow x.c.alw
    let el (i : Nat) : QElem := (els[i]?).getD ⟨0, none, .nan, none⟩
    let bad := maskOf fun i => a.chkall && x.perf.getLsbD i && breaches a (roundUpB16 (el i).bnd) (el i).y
    if bad ≠ 0 ∧ a.bte then
      x.trap s cBreach (breachInfo a 0 0 ((lanesOf bad).map fun i => (roundUpB16 (el i).bnd, (el i).y))) bad
    else
      x.done s fun g =>
        let g := if bad ≠ 0 then g.setStat 1 else g
        g.putV x.w.dst.toNat (qblkLanes x.c.fd) (qblkWrite (g.vreg x.w.dst.toNat) x.c.fd x.perf pair els)

/-! ### CHKB and residues -/

/-- CHKB: the word written back under a check whatever CHKALL holds (R336). -/
def execChkb (w : LaneWord) (s : State) : Out :=
  laneGo (.chkb w) s fun x => x.write s true 2 (calcMov x.c)

/-- EFCLR: residues cleared (R337). -/
def execEfclr (w : LaneWord) (s : State) : Out :=
  laneGo (.efclr w) s fun x => x.done s fun g =>
    g.setResid (w.dst.toNat % 8) fun n => if x.perf.getLsbD n then some 0 else none

/-- EFSET: a residue set to a float value widened to FP32; NaN and infinities give +0 (R337). -/
def execEfset (w : LaneWord) (s : State) : Out :=
  laneGo (.efset w) s fun x => x.done s fun g =>
    g.setResid (w.dst.toNat % 8) fun n =>
      if x.perf.getLsbD n then
        (let v := (x.c.srcF (fmtA x.c.fmt) w.a n).1
         some (if v.isFinite then BitVec.ofNat 32 (encodeF (ffmt 0) v) else 0))
      else none

/-! ### VOTE, MATCH -/

/-- Participants of the pleat of a slot (R349). -/
def LaneRun.peers (x : LaneRun) (n : Nat) : List Nat := (lanesOf x.perf).filter fun t => t / x.c.width == n / x.c.width

/-- Bits of a pleat at the positions of some of its slots. -/
def posBits (width : Nat) (l : List Nat) : Word := BitVec.ofNat 32 (l.foldl (fun a t => a + 2 ^ (t % width)) 0)

/-- VOTE: all, any, uni into a predicate, ballot into a register (R350). -/
def execVote (w : LaneWord) (s : State) : Out :=
  laneGo (.vote w) s fun x =>
    if w.rnd = 3 then
      x.write s false 0 fun n => writeBits x.c.fd (posBits x.c.width ((x.peers n).filter (x.c.srcP w.a))) 0
    else
      x.done s fun g =>
        let val := maskOf fun n =>
          let l := (x.peers n).map (x.c.srcP w.a)
          match w.rnd.toNat with
          | 0 => l.all id
          | 1 => l.any id
          | _ => l.all id || !l.any id
        g.setPred w.pdst.toNat (blend x.perf (g.predMask w.pdst.toNat) val)

/-- MATCH: mask, count or rank of the participants with an equal key (R351). -/
def execVmatch (w : LaneWord) (s : State) : Out :=
  laneGo (.vmatch w) s fun x =>
    let key (n : Nat) : Word := (x.c.srcX w.a n).1
    x.write s false 0 fun n =>
      let same := (x.peers n).filter fun t => key t == key n
      writeBits x.c.fd
        (match w.rnd.toNat with
         | 0 => posBits x.c.width same
         | 1 => BitVec.ofNat 32 same.length
         | _ => BitVec.ofNat 32 (same.countP fun t => t < n)) 0

/-! ### REDUCE and SCAN (R352, R226, R227) -/

/-- Adjacent nodes combined (R226). -/
def pairUp {α : Type} (f : α → α → α) : List α → List α
  | a :: b :: l => f a b :: pairUp f l
  | l => l

/-- The tree of R226 over at most 2^n nodes. -/
def treeFold {α : Type} (f : α → α → α) : Nat → List α → List α
  | 0, l => l
  | n + 1, l => treeFold f n (pairUp f l)

/-- One round of R227 at distance d. -/
def scanRound {α : Type} (f : α → α → α) (d : Nat) (l : List α) : List α :=
  l.zipIdx.map fun (y, i) => if d ≤ i then (match l[i - d]? with | some z => f z y | none => y) else y

/-- The rounds of R227 for a pleat of some width. -/
def scanFold {α : Type} (f : α → α → α) (width : Nat) (l : List α) : List α :=
  [1, 2, 4, 8, 16].foldl (fun l d => if d < width then scanRound f d l else l) l

/-- The sequence of a pleat at its positions, identities where a slot takes no part. -/
def LaneRun.sequence {α : Type} (x : LaneRun) (n : Nat) (idn : α) (v : Nat → α) : List α :=
  (List.range x.c.width).map fun q =>
    let t := n - n % x.c.width + q
    if x.perf.getLsbD t then v t else idn

/-- The value of slot n under REDUCE, SCAN or SCAN.excl. -/
def foldAt {α : Type} (x : LaneRun) (scan excl : Bool) (f : α → α → α) (idn : α) (v : Nat → α) (n : Nat) : α :=
  let l := x.sequence n idn v
  if !scan then ((treeFold f 5 l).head?).getD idn
  else
    let l := if excl then idn :: l.dropLast else l
    ((scanFold f x.c.width l)[n % x.c.width]?).getD idn

/-- A float node: the operation's value rounded into fd, with its bound rounded up (R226, R234). -/
def foldNodeF (c : LaneCtx) (op : Nat) (l r : FVal × Option Rat) : FVal × Option Rat :=
  let rnd := c.w.rnd.toNat
  let t := match op with | 0 => sumF (rnd = 3) [l.1, r.1] | 1 => selMinMax false l.1 r.1 | _ => selMinMax true l.1 r.1
  let prop := if op = 0 then badd l.2 r.2 else bmax l.2 r.2
  let res := writeFloat c.fd rnd 0 false false t t prop 0
  (roundF (ffmt c.fd) (rmode rnd) false t, bval res.bnd)

/-- An integer node: exact, with bound ∞ where the sum lies outside fd's range (R234); `none` is the operand that never wins. -/
def foldNodeI (fdc op : Nat) (l r : Option Int × Option Rat) : Option Int × Option Rat :=
  let v : Option Int := match l.1, r.1 with
    | none, y => y
    | x, none => x
    | some x, some y => some (match op with | 3 => x + y | 4 => min x y | _ => max x y)
  let out : Bool := match op, v with | 3, some n => !inIntRange fdc n | _, _ => false
  (v, if out then none else bval (roundUpB16 (if op = 3 then badd l.2 r.2 else bmax l.2 r.2)))

/-- A bits node (Table 15-6). -/
def foldNodeX (op : Nat) (l r : Word × Bound) : Word × Bound :=
  match op with
  | 6 => (if l.1 ≤ r.1 then l.1 else r.1, roundUpB16 (bmax (bval l.2) (bval r.2)))
  | 7 => (if l.1 ≤ r.1 then r.1 else l.1, roundUpB16 (bmax (bval l.2) (bval r.2)))
  | 8 => (l.1 &&& r.1, exactOr [l.2, r.2])
  | 9 => (l.1 ||| r.1, exactOr [l.2, r.2])
  | _ => (l.1 ^^^ r.1, exactOr [l.2, r.2])

/-- The identity of a float operation (Table 15-6). -/
def foldIdF (op : Nat) : FVal := match op with | 0 => .zero true | 1 => .inf false | _ => .inf true

/-- The result of REDUCE or SCAN in a slot; `free` stands for the identity of imin and imax, whose value the spec does not state (log 12). -/
def foldResult (x : LaneRun) (scan : Bool) (free : Word) (n : Nat) : LaneRes :=
  let c := x.c
  let op := fieldN c.w.c.bits 0 4
  let excl := c.w.c.bits.getLsbD 4
  if op ≤ 2 then
    let r := foldAt x scan excl (foldNodeF c op) (foldIdF op, some 0) (c.srcF (fmtA c.fmt) c.w.a) n
    writeFloat c.fd c.w.rnd.toNat 0 false false r.1 r.1 r.2 0
  else if op ≤ 5 then
    let idn : Option Int := if op = 3 then some 0 else none
    let r := foldAt x scan excl (foldNodeI c.fd op) (idn, some 0) (fun t => let (v, b) := c.srcI (fmtA c.fmt) c.w.a t; (some v, b)) n
    match r.1 with
    | some v => writeInt c.fd 0 v r.2
    | none => { code := free.toNat % 2 ^ fmtWidth c.fd, bnd := 0, y := none, res := none }
  else
    let idn : Word := if op = 6 ∨ op = 8 then 0xFFFFFFFF else 0
    let r := foldAt x scan excl (foldNodeX op) (idn, 0) (c.srcX c.w.a) n
    writeBits c.fd r.1 r.2

/-- REDUCE or SCAN: a free value's number is used up where one may enter. -/
def foldOp (i : Instr) (scan : Bool) (s : State) : Out :=
  laneGo i s fun x => x.write s.bump false 0 (foldResult x scan (Config.freeWord s.fresh))

/-- REDUCE (R352, R226). -/
def execVreduce (w : LaneWord) (s : State) : Out := foldOp (.vreduce w) false s

/-- SCAN (R352, R227). -/
def execVscan (w : LaneWord) (s : State) : Out := foldOp (.vscan w) true s

/-! ### LID, LSLOT, PLEAT -/

/-- LID: slot, position, vtid, gid or pleat (R353). -/
def execLid (w : LaneWord) (s : State) : Out :=
  laneGo (.lid w) s fun x => x.write s false 0 fun n =>
    writeBits x.c.fd
      (match w.rnd.toNat with
       | 0 => BitVec.ofNat 32 n
       | 1 => BitVec.ofNat 32 (n % x.c.width)
       | 2 => ((x.c.g.vtids[n]?).getD 0).setWidth 32
       | 3 => BitVec.ofNat 32 s.who.gidOf.val
       | _ => BitVec.ofNat 32 (n / x.c.width)) 0

/-- A team's remap entry of a vtid; the identity where the grid has no regather (R354, R86, R132). -/
def State.remapEntry (s : State) (h v : Nat) : Word :=
  let t := s.team h
  let g := s.grid t.grid
  if 32 * g.ngrp ≤ v then 0
  else if g.cfg.getLsbD 45 then (KMap.get 0 t.remap v).setWidth 32
  else BitVec.ofNat 32 (v / 32 + 16 * (v % 32) + 512)

/-- LSLOT: where a thread is (R354). -/
def execLslot (w : LaneWord) (s : State) : Out :=
  laneGo (.lslot w) s fun x => x.write s false 0 fun n =>
    writeBits x.c.fd (s.remapEntry s.who.teamOf (x.c.srcX w.a n).1.toNat) 0

/-- PLEAT: a pleat register's width code (R355); it acts on the group once. -/
def execPleat (w : LaneWord) (s : State) : Out :=
  laneGo (.pleat w) s fun x => x.done s fun g =>
    { g with pleats := g.pleats.set (w.dst.toNat % 4) (w.c.bits.extractLsb' 0 2) (by omega) }

end Sys2Proof.Machine
end

