-- ==== Sys2Proof/Machine/MemEvents.lean ====
section
/-! DEFINITION. Events of the memory system: drains, atomics at their homes, results that arrive, answers of the host to
translation and page requests, and probes (07 R170, R188-R193; 08 R200, R202; 10 R243; 11 R255-R261). -/

namespace Sys2Proof.Machine

/-! ### Atomics at their homes (R200, R236) -/

/-- The words of a lane's result. -/
def laneResult (i : Nat) (v : LaneVal) (o : Outst) : Outst := { o with words := putWords o.words (maskOf (· == i)) fun _ => [v] }

/-- Poison met by an atomic: nothing is written there (R81, R261). -/
def Outst.poisoned (o : Outst) (pa : Nat) : Outst := { o with poison := match o.poison with | some a => some a | none => some pa }

/-- One lane of an atomic performed at its home; the core's buffered stores to the sector go first, its L1 copy is dropped (R303, R171). -/
def State.atomAt (s : State) (q : MemReq) (op : Nat) (wide : Bool) (i : Nat) : State :=
  let pa := q.paOf i
  let s := (s.settleSector q.party (q.va i)).haulSector q.party (s.coreOf q.party) pa
  let hidden := s.saveLanes q (1 <<< i)
  let give (s : State) (f : Outst → Outst) : State :=
    (s.updGrp q.party fun g => g.updOutst q.id fun o => (f o).hideSave hidden s.fresh).bumpBy (if hidden = 0 then 0 else 64)
  if hidden = 0 && s.poison.contains (pa / 64) then give s (·.poisoned pa)
  else if q.lane then
    let l := q.laneData i
    let (t, old) := s.homeAtom32 op pa ((l[0]?).getD LaneVal.zero) ((l[1]?).getD LaneVal.zero)
    give t (laneResult i old)
  else if wide then
    let (t, old) := s.homeAtom64 op pa q.x q.y
    give t fun o => { o with sval := old }
  else
    let (t, old) := s.homeAtom32 op pa ⟨q.x.setWidth 32, 0⟩ ⟨q.y.setWidth 32, 0⟩
    give t fun o => { o with sval := old.val.setWidth 64 }

/-- The op of an atomic request, and whether it is 8 bytes wide. -/
def MemReq.atomOp (q : MemReq) : Option (Nat × Bool) :=
  match q.kind with
  | .atomic op wide => some (op.toNat, wide)
  | .agg op => some (op.toNat, false)
  | _ => none

/-- ATOMIC_AT_HOME: the lanes in ascending order (R341), then the acquire part (R198). -/
def execAtomicAtHome (i : Nat) (s : State) : Out :=
  match s.atoms[i]? with
  | none => notNow s
  | some q =>
    match q.atomOp with
    | none => notNow s
    | some (op, wide) =>
      if (lanesOf q.lanes).any fun i => (q.peerOf i).isSome then notNow s
      else
        let t := (lanesOf q.lanes).foldl (fun s n => s.atomAt q op wide n) { s with atoms := s.atoms.eraseIdx i }
        .next (t.acqDone q)

/-! ### Results that arrive (R115, R116, R120, R243) -/

/-- Vector registers that a result keeps empty. -/
def Outst.regs (o : Outst) : List Nat := match o.dest with | .vec b => (List.range o.words.length).map (b + ·) | _ => []
/-- Scalar registers that a result keeps empty. -/
def Outst.sregs (o : Outst) : List SNum := match o.dest with | .sreg d => [d] | .spair d => [d, blockReg d 1] | _ => []

/-- The block that issued a lane word still runs or is held. -/
def Group.blockById (g : Group) (id : Nat) : Option Block :=
  match g.block, g.held with
  | some b, h => if b.entry.id = id then some b else h.filter (·.entry.id == id)
  | none, h => h.filter (·.entry.id == id)

/-- The values of some lanes written to a result's destination; its registers become full where `full` says so, and then the failure
predicate of a TLDA says whether its loop failed (15 R348). -/
def Group.putResult (g : Group) (o : Outst) (lanes : Mask) (full : Bool) : Group :=
  let g := match o.pred with
    | some (n, fail) => if full then g.setPred n (blend lanes (g.predMask n) (if fail then BitVec.allOnes 32 else 0)) else g
    | none => g
  match o.dest with
  | .none => g
  | .sreg d => if full then g.ws d o.sval else g
  | .spair d => if full then (g.ws d o.sval).ws (blockReg d 1) o.sval2 else g
  | .vec b =>
    o.words.zipIdx.foldl (fun (g : Group) (e : Vector LaneVal 32 × Nat) =>
      let old := g.vreg (b + e.2)
      g.putV (b + e.2) lanes { full := full, lanes := Vector.ofFn fun i => if lanes.getLsbD i.val then e.1[i] else old.lanes[i] }) g
  | .laneS i =>
    let v := (o.words.head?.bind fun w => w[lowestLane lanes]?).getD LaneVal.zero
    let g := if lanes = 0 then g else g.writeLaneS i.val v.val
    if (g.blockById o.origin.blk).isSome then g else g.sfill ⟨16 + i.val, by omega⟩

/-- What a result meets on arrival: cause, information, its lanes and the lanes left to perform again. -/
structure LateTrap where
  cause : Nat
  info : DWord
  lanes : Mask
  redo : Mask

/-- Lanes of a result whose words breach under the check on arrival (R242, R243); none whose value is unpredictable (00 R7). -/
def Outst.breach (o : Outst) (alw : DWord) (fmt : Word) : Mask × List (Bound × Option Rat) :=
  let a := allow alw
  let words (n : Nat) : List (Bound × Option Rat) :=
    (o.words.map fun v => (v[n]?).getD LaneVal.zero).map fun v => (v.bnd, wordY (fmtD fmt) v.val)
  let one := match o.dest with | .laneS _ => true | _ => false
  let bad := maskOf fun n => o.lanes.getLsbD n && !o.free.getLsbD n && (!one || n == lowestLane o.lanes) && (words n).any fun r => breaches a r.1 r.2
  (bad, (lanesOf bad).flatMap fun n => (words n).filter fun r => breaches a r.1 r.2)

/-- The log entry of a result with lanes whose page the host refused (R192). -/
def State.refusedEntry (s : State) (p : Party) (id : Nat) : Option LogEntry :=
  (s.core (s.coreOf p)).olog.find? fun e => e.req.party == p && e.req.id == id && e.refused != 0

/-- The refused address of a log entry's lane, for XLATE (R192). -/
def State.refusedAt (s : State) (e : LogEntry) : DWord :=
  let i := lowestLane e.refused
  BitVec.ofNat 64 ((match s.laneNeeds e.req i with | some (va, _) => va | none => e.req.va i) % 2 ^ 57)

/-- MEMERR, a check of a logged instruction, XLATE, RMTERR or BREACH on arrival (R261, R192, R45, R243): poison comes first, since it
ends the grid when it arrives. A lane left to perform again is one that was not performed (R256). -/
def State.lateTrap (s : State) (p : Party) (o : Outst) : Option LateTrap :=
  let entry := s.refusedEntry p o.id
  let refused : Mask := match entry with | some e => e.refused | none => 0
  let redo (failed : Mask) : Mask := o.origin.eff &&& ~~~(o.lanes &&& ~~~refused &&& ~~~failed)
  match o.poison, o.fault, entry, o.rmt with
  | some pa, _, _, _ => some ⟨cMemerr, BitVec.ofNat 64 pa, o.lanes, redo 0⟩
  | none, some (c, i, m), _, _ => some ⟨c.toNat, i, m, redo m⟩
  | none, none, some e, r => some ⟨cXlate, s.refusedAt e, refused, redo (match r with | some (i, m) => if fieldN i 0 2 = 0 then m else 0 | none => 0)⟩
  | none, none, none, some (i, m) => some ⟨cRmterr, i, m, redo (if fieldN i 0 2 = 0 then m else 0)⟩
  | none, none, none, none =>
    match o.check with
    | none => none
    | some (alw, fmt) =>
      let (bad, l) := o.breach alw fmt
      if bad ≠ 0 ∧ (allow alw).bte then some ⟨cBreach, breachInfo (allow alw) 0 0 l, bad, redo 0⟩ else none

/-- Lanes whose values a trapping result leaves in its destination, and whether the destination is full all the same: an
old value that an RMTERR response carried (R45), and the lanes performed beside refused ones (Table 11-9). -/
def LateTrap.keeps (t : LateTrap) (o : Outst) : Mask × Bool :=
  if t.cause = cRmterr then (if t.info.getLsbD 4 then (o.lanes, true) else (o.lanes &&& ~~~t.lanes, false))
  else if t.cause = cXlate then (o.lanes &&& ~~~t.lanes &&& ~~~(match o.rmt with | some (_, m) => m | none => 0), false)
  else (0, false)

/-- A result removed, with its log entry and its loop. -/
def State.dropResult (s : State) (p : Party) (id : Nat) : State :=
  (s.updGrp p fun g => { g with outst := g.outst.filter (·.id != id), tiles := g.tiles.filter (·.q.id != id) }).updCore (s.coreOf p) fun c =>
    { c with olog := c.olog.filter fun e => !(e.req.party == p && e.req.id == id && e.refused != 0) }

/-- A trap on arrival cannot be taken yet: a handler or a rendezvous comes first (R255, R257). -/
def Group.holdsLate (g : Group) (lane : Bool) (cause : Nat) : Bool :=
  causeClass cause == .recoverable &&
    (if lane then (if g.inh then 1 else 2) ≤ g.laneTraps.length else g.inh || g.rdv.isSome)

/-- The record that stands for a lane word's split now, one that covers its lanes, has the trap's number: RFT finds it by that (R260). -/
def Group.markLate (g : Group) (o : Outst) (id : Nat) : Group :=
  let put (b : Block) : Block :=
    if b.entry.id = o.origin.blk then (match b.stack.findIdx? fun q => o.lanes &&& ~~~q.mask == 0 with | some pos => b.mark pos id | none => b) else b
  { g with block := g.block.map put, held := g.held.map put }

/-- A result that traps (R254-R258): an instruction of a handler or trap block ends the team. -/
def State.landTrap (s : State) (p : Party) (o : Outst) (t : LateTrap) : State :=
  let (keep, full) := t.keeps o
  let s := (s.dropResult p o.id).updGrp p fun g => g.putResult o keep full
  let empties := if full then [] else o.regs
  if o.inh then (s.noteCause p t.cause t.info).fatalEnd p t.cause
  else if o.lane then
    let id := s.handles
    ({ s with handles := id + 1 }.updGrp p fun g => g.markLate o id).raiseLane p
      { id := id, cause := BitVec.ofNat 8 t.cause, info := t.info, mask := t.lanes, redo := t.redo, word := o.origin.word, slot := o.origin.slot,
        second := o.origin.second, first := o.origin.first, empties := empties, twin := false }
  else
    let s := s.scalarTrap p t.cause t.info o.pc (if full then [] else o.sregs)
    if o.regs.isEmpty then s
    else s.updGrp p fun g => if g.inh then { g with tmask := t.lanes.setWidth 64, trap := g.trap.map fun x => { x with empties := empties } } else g

/-- A result that has everything it waited for reaches its destination, or traps; none while its trap has to wait. -/
def State.land (s : State) (p : Party) (o : Outst) : Option State :=
  match s.lateTrap p o with
  | some t => if (s.grp p).holdsLate o.lane t.cause && !o.inh then none else some (s.landTrap p o t)
  | none =>
    let bre := match o.check with | some (alw, fmt) => (o.breach alw fmt).1 != 0 | none => false
    some ((s.dropResult p o.id).updGrp p fun g => (if bre then g.setStat 1 else g).putResult o o.lanes true)

/-- A result that is not there yet goes on: its log entry is replayed, or the loop of its TLDA makes its next attempt; none where
nothing of it can move now. -/
def State.pursue (s : State) (p : Party) (o : Outst) : Option State :=
  let core := s.coreOf p
  let t := match (s.logOf p).find? (·.req.id == o.id), (s.grp p).tiles.find? (·.q.id == o.id) with
    | some e, _ => s.replay core e
    | none, some t => s.tileTurn t
    | none, none => s
  if t.cores ≠ s.cores ∨ t.peers ≠ s.peers ∨ t.dies ≠ s.dies ∨ t.grp p ≠ s.grp p then some t else none

/-- MEMORY_RESPONSE_ARRIVAL (R115, R116, R243, R261): poison traps when it arrives, whatever else the result still waits for. Room in the
operand log lets outputs go on. -/
def execMemoryResponseArrival (p : Party) (i : Nat) (s : State) : Out :=
  match (s.grp p).outst[i]? with
  | none => notNow s
  | some o =>
    if !s.runs p then notNow s
    else if s.pendingId p o.id && o.poison.isNone then (match s.pursue p o with | some t => .next t | none => notNow s)
    else match s.land p o with
      | some t => .next (if (t.core (s.coreOf p)).olog.length < (s.core (s.coreOf p)).olog.length then t.pumpMouts (s.coreOf p) else t)
      | none => notNow s

/-! ### The host's answers (R188, R191-R193) -/

/-- Sizes of a translation entry, largest first (R188); 4 KiB fill one half of an 8 KiB entry. -/
def entryBits : List Nat := [30, 21, 16, 13, 12]

/-- The entry of 2^k bytes within a completion that covers an address (R188). -/
def transEntry (t : Trans) (k va : Nat) : Trans :=
  let base := va / 2 ^ k * 2 ^ k
  { t with va := base, pa := t.pa + (base - t.va), bits := k, lo := 12 < k || base / 4096 % 2 == 0, hi := 12 < k || base / 4096 % 2 == 1 }

/-- The entries that a completion fills (R188): those of the largest size that lies within it; of one beyond 1 GiB the entry
that covers the requested page alone. -/
def transEntries (t : Trans) (va : Nat) : List Trans :=
  let k := (entryBits.find? fun k => k ≤ t.bits).getD 12
  if k = 30 then [transEntry t 30 va] else (List.range (2 ^ (t.bits - k))).map fun i => transEntry t k (t.va + i * 2 ^ k)

/-- A completion the host can make: aligned, at least 4 KiB. -/
def transFormed (t : Trans) : Bool := 12 ≤ t.bits && t.bits ≤ 57 && t.va % 2 ^ t.bits == 0 && t.pa % 2 ^ t.bits == 0 && t.va + 2 ^ t.bits ≤ 2 ^ 57

/-- A request lies in the pages of an answer. -/
def PageReq.within (r : PageReq) (t : Trans) : Bool := r.pasid == t.pasid && t.va < 8192 * (r.page + 1) && 8192 * r.page < t.va + 2 ^ t.bits
/-- An answer gives a request the permission it asked for. -/
def PageReq.met (r : PageReq) (t : Trans) : Bool := r.within t && (if r.write then t.wr else t.rd)

/-- The translation cache of a die filled for the requests that an answer meets, the oldest entry dropped (R188). -/
def State.fillCache (s : State) (die : Nat) (t : Trans) : State :=
  let d := s.die die
  let new := ((d.reqs.filter (·.met t)).flatMap fun r => transEntries t (max (8192 * r.page) t.va)).dedup
  s.setDie die { d with tcache := keepEntries 65536 (new ++ d.tcache.filter fun x => !new.contains x), reqs := d.reqs.filter fun r => !r.met t }

/-- Cores of a die with something in their operand log. -/
def State.loggedCores (s : State) (die : Nat) : List Nat := (s.cores.filter fun e => dieOfCore e.1 == die && !e.2.olog.isEmpty).map (·.1)

/-- What the operand logs of a die still lack asked for: an answer may have covered half of a page, or have made room (R191, R192). -/
def State.askLogs (s : State) (die : Nat) : State := (s.loggedCores die).foldl (fun s c => s.askLog c) s

/-- A granted page: entries, loads and outputs that waited for it go on (R188, R192). -/
def State.granted (s : State) (die : Nat) (t : Trans) : State :=
  let s := s.fillCache die t
  let cores := (s.cores.filter fun e => dieOfCore e.1 == die).map (·.1)
  (cores.foldl (fun s c => s.replayCore c) s).askLogs die

/-- ATS_TRANSLATION_COMPLETION: a translation, or no permission, upon which the request becomes a page request (R188, R191).
One that answers no request is ignored (R193). -/
def execAtsTranslationCompletion (die : Fin 7) (t : Trans) (granted : Bool) (s : State) : Out :=
  let d := s.die die.val
  if !transFormed t then notNow s
  else if !d.reqs.any (fun r => r.within t && !r.pri) then .next s
  else
    let s1 := if granted then s.granted die.val t else s
    let d1 := s1.die die.val
    .next (s1.setDie die.val { d1 with reqs := d1.reqs.map fun r => if r.within t then { r with pri := true } else r })

/-- A refused page at the entries of an operand log (R192). -/
def refuseEntry (s : State) (pasid : BitVec 20) (page : Nat) (write : Bool) (e : LogEntry) : LogEntry :=
  let m := maskOf fun i => e.req.lanes.getLsbD i && s.pasidOf e.req.party == pasid &&
    (match s.laneNeeds e.req i with | some (va, w) => va / 8192 == page && (write || !w) | none => false)
  { e with req := { e.req with lanes := e.req.lanes &&& ~~~m }, refused := e.refused ||| m }

/-- Copies that wait for a refused page stop with XLATE (R187). -/
def State.refuseCopies (s : State) (core : Nat) (pasid : BitVec 20) (page : Nat) (write : Bool) : State :=
  (s.core core).copies.foldl (fun s c =>
    if c.stopped.isSome || s.pasidOf (.group c.team c.gid) != pasid then s
    else match c.places.find? fun a => a.1 / 8192 == page && a.2 == write with
      | some (va, _) => s.stopCopy core c cXlate (BitVec.ofNat 64 va)
      | none => s) s

/-- The step needs a codebook table of the page that has not arrived (R155, R158). -/
def SeqCmd.tablePage (q : SeqCmd) (p : LoopParams) (page : Nat) : Bool :=
  fmtMB q.fmt == 14 && !q.tables.any (fun e => e.1 == q.tableOf p) && (codeSectors (p.tbl.toNat + 1024 * q.tableOf p) 1024).any fun n => n / 128 == page

/-- Matrix loops that wait for a refused page stop with XLATE and the step (R155). A stall at a codebook table that ends so, or with a
sector that fails, adds nothing to `c.cbstall`, a DESIGN CHOICE (log 45): the rule counts a stall that the table's arrival ends. -/
def State.refuseCmds (s : State) (core : Nat) (pasid : BitVec 20) (page : Nat) (write : Bool) : State :=
  let one (s : State) (q : SeqCmd) : State :=
    match q.params with
    | some p =>
      if q.started && !write && s.pasidOf (.group q.onTeam q.gid) == pasid && ((q.sectors p q.step).any (fun n => n / 128 == page) || q.tablePage p page) then
        s.endCmd core q (some (cXlate, BitVec.ofNat 64 q.step))
      else s
    | none => s
  (s.core core).seq.foldl one s

/-- Walks of a walker that wait for a refused page fail (R209). -/
def State.refuseWalks (s : State) (die : Nat) (pasid : BitVec 20) (page : Nat) : State :=
  let at_ (a : DWord) : Bool := a.toNat / 8192 == page
  let hit (x : Walk) : Bool := !x.failed && x.pasid == pasid &&
    (match x.scan with
     | some (o, _, i) => (o.toNat + 64 * i) / 8192 == page
     | none => if x.stamped then at_ x.rst || at_ x.ver else (match x.queue with | o :: _ => at_ o | [] => false))
  ((s.die die).walks.filter hit).foldl (fun s x => s.failWalk die x none) s

/-- Parties whose entries are complete report what was refused at once, where they can (R192); an output stops, with the refused
address for its MWAIT (R372). What then finds room goes on. -/
def State.reportRefused (s : State) (core : Nat) : State :=
  ((s.core core).olog.foldl (fun (s : State) (e : LogEntry) =>
    let p := e.req.party
    if e.refused = 0 ∨ e.req.lanes ≠ 0 then s
    else if e.req.kind = .rows then
      (match (s.core core).seq.find? (·.logs e) with
       | some q => if s.cmdRuns q || (s.team q.onTeam).life == .ended then s.endCmd core q (some (cXlate, s.refusedAt e)) else s
       | none => s)
    else if !s.runs p ∨ s.pendingId p e.req.id then s
    else match (s.grp p).outst.find? (·.id == e.req.id) with
      | some o => (s.land p o).getD s
      | none => s) s).pumpMouts core

/-- A refused page (R60, R83, R155, R187, R192, R209): instructions at issue, the log, copies, matrix commands, walks, and the hub's own needs. -/
def State.refusePage (s : State) (die : Nat) (r : PageReq) : State :=
  let s := s.setDie die { s.die die with reqs := (s.die die).reqs.filter (· != r) }
  let s := r.waiters.foldl (fun s p => s.updGrp p fun g => { g with refused := some (8192 * r.page) }) s
  let s := if r.unit && die == 6 then
      { s with ctxs := s.ctxs.map fun (e : Nat × Ctx) => if e.2.pasid = r.pasid ∧ e.2.state ≠ 0 then (e.1, { e.2 with refused := e.2.refused ++ [r.page] }) else e }
    else s
  let log := fun e => refuseEntry s r.pasid r.page r.write e
  let s := { s with
    cores := s.cores.map fun (e : Nat × Core) => if dieOfCore e.1 = die then (e.1, { e.2 with olog := e.2.olog.map log }) else e
    teams := s.teams.map fun (e : Nat × Team) => if dieOfCore e.2.core = die then (e.1, { e.2 with image := e.2.image.map fun (c : Core) => { c with olog := c.olog.map log } }) else e }
  let cores := (s.cores.filter fun e => dieOfCore e.1 == die).map (·.1)
  let s := cores.foldl (fun s c => ((s.refuseCopies c r.pasid r.page r.write).refuseCmds c r.pasid r.page r.write).reportRefused c) s
  (s.refuseWalks die r.pasid r.page).askLogs die

/-- PAGE_RESPONSE: the page is there, and its lanes are replayed; or the host refuses it (R192). A response to no request, as
after a kill of the context, is ignored (R193). -/
def execPageResponse (die : Fin 7) (t : Trans) (granted : Bool) (s : State) : Out :=
  match (s.die die.val).reqs.filter fun r => r.pri && r.within t with
  | [] => .next s
  | r :: rest =>
    if !transFormed t then notNow s
    else if granted then .next (s.granted die.val t)
    else .next ((r :: rest).foldl (fun s r => s.refusePage die.val r) s)

/-! ### Halting (R107, R139, R263) -/

/-- What is on its way to a party at the halt (R263): results that are there are written, a load that a peer has not answered
goes into the operand log and is performed again at the resume; an atomic's answer is held. -/
def State.settleParty (s : State) (p : Party) : State :=
  let s := (s.grp p).outst.foldl (fun (s : State) (o : Outst) =>
    if s.pendingId p o.id || !s.runs p then s else (s.land p o).getD s) s
  let loads := s.atoms.filter fun q => q.party == p && q.isLoad
  let entry (q : MemReq) : LogEntry :=
    match (s.grp p).outst.find? (·.id == q.id) with
    | some o => ⟨q, 0, o.origin, o.pc, o.inh⟩
    | none => ⟨q, 0, .scalar, (s.grp p).pc, false⟩
  if !s.runs p then s
  else { s with atoms := s.atoms.filter fun q => !(q.party == p && q.isLoad) }.updCore (s.coreOf p) fun c => { c with olog := c.olog ++ loads.map entry }

/-- TEAM_HALT: the team's cluster stops at a boundary of every group, with none of its messages under way (R107, R139, R263);
a trap that a result raises comes before the halt (Table 4-8), and a team that it ends is not saved. -/
def execTeamHalt (team : Nat) (s : State) : Out :=
  let t := s.team team
  let ctx := s.ctxOf (.group team 0)
  let c := s.ctx ctx
  let slots := (s.freeSlots ctx).take (s.clusterRuns team).length
  if t.life ≠ .running ∨ !(s.clusterRuns team).all s.leaving ∨ s.msgs.any (fun m => t.cluster.contains m.team) ∨ slots.length < (s.clusterRuns team).length then notNow s
  else
    s.withPages c.pasid (((s.clusterRuns team).zip slots).map fun e => ((s.team e.1).core, [(c.save.toNat + 64 * e.2, 64)])) <|
      let u := ((s.clusterRuns team).flatMap s.partiesOf).foldl (fun s p => s.settleParty p) s
      .next ((((s.clusterRuns team).zip slots).foldl (fun s e => if (s.team e.1).life = .running then s.haltTeam e.1 e.2 else s) u).switchInvals ((s.clusterRuns team).map fun h => (s.team h).core))

/-! ### Resuming (R99, R108, R142) -/

/-- The new cores of a cluster that has resumed: their dies apply their invalidation logs, and what the teams' logs hold goes on or is
reported (07 R190, R192, 16 R374). -/
def State.resumed (s : State) (cores : List Nat) : State :=
  cores.foldl (fun s c => ((s.askLog c).replayCore c).reportRefused c) (s.switchInvals cores)

/-- TEAM_RESUME: a ready saved team, with its whole cluster (R99, R108, R142); while it resumes its directory entry says so,
and when it has, the slot is free (Table 11-6). -/
def execTeamResume (team : Nat) (place : Place) (s : State) : Out :=
  let t := s.team team
  let die := dieOfCore place.core
  let save := (s.ctx (s.ctxOf (.group team 0))).save.toNat
  let pasid := s.pasidOf (.group team 0)
  let earlier := (s.teamsOf t.grid).any fun h => (s.team h).saveSeq < t.saveSeq && s.clusterReady h && !t.cluster.contains h
  if t.life = .running ∧ t.dirState = 4 then s.withPages pasid [(t.core, [(save + 64 * t.saveSlot, 64)])] (.next (s.setDir team 0))
  else if t.life ≠ .saved ∨ !s.clusterReady team ∨ earlier ∨ !s.firstInLine t.grid die then notNow s
  else
    match s.resumePlaces team place with
    | none => notNow s
    | some (l, straddled) =>
      let cores := l.map (·.2.core)
      if !s.admits t.grid cores then notNow s
      else
        s.withPages pasid (l.map fun e => (e.2.core, [(save + 64 * (s.team e.1).saveSlot, 64)])) <|
          let u := (s.resumeCluster team straddled l).resumed cores
          .next ((cores.map dieOfCore).dedup.foldl (fun u d => u.setDie d ((u.die d).taken t.grid)) u)

/-! ### Drains and probes (R170, R202) -/

/-- COALESCING_BUFFER_DRAIN (R170): the room it frees lets logged stores and outputs go on. -/
def execCoalescingBufferDrain (core i : Nat) (s : State) : Out :=
  match (s.core core).cbuf[i]? with
  | none => notNow s
  | some e => if s.canDrain e then .next ((s.drainEntry core e).replayCore core) else notNow s

/-- SACQP_PROBE: the named core drains what it holds once its logged operations are performed; when all of it is at its homes the
acquire load is made (R202). -/
def execSacqpProbe (i : Nat) (s : State) : Out :=
  match s.probes[i]? with
  | none => notNow s
  | some (n, q) =>
    let c := s.core n
    let miss := s.missLanes q
    if !s.runs q.party || c.olog.any (fun e => e.req.lanes != 0) ||
        (miss != 0 && Config.ologEntries ≤ (s.core (s.coreOf q.party)).olog.length) then notNow s
    else
      let u := { s with who := q.party }.drainAll n c.cbuf
      if !(u.core n).cbuf.isEmpty || u.postedFrom n (fun _ => true) then (if (u.core n).cbuf.length < c.cbuf.length then .next u else notNow s)
      else
        let t := { u with probes := u.probes.eraseIdx i }
        if (lanesOf (q.lanes &&& ~~~miss)).any fun j => match s.lookLane q j with | .bad => true | _ => false then .next (t.fatalEnd q.party cAccess)
        else .next (((t.doLanes q).logLanes q miss .scalar).acqDone q)

end Sys2Proof.Machine
end

