-- ==== Sys2Proof/Machine/Message.lean ====
section
/-! DEFINITION. Cluster messages: SEND, SENDM, RECV, RPROBE, RCANCEL, the arrival of a message and of its answer, and the
OVFQ trap (05 R135-R139; 16 R383-R385). -/

namespace Sys2Proof.Machine

/-! ### Parameters (R383, R384) -/

def sendAddr (v : DWord) : Nat := fieldN v 0 25
def sendLen (v : DWord) : Nat := fieldN v 25 9
def sendTo (v : DWord) : Nat := fieldN v 34 4
def sendTag (v : DWord) : BitVec 16 := v.extractLsb' 38 16
def recvBuf (v : DWord) : Nat := fieldN v 0 25
def recvSrc (v : DWord) : Nat := fieldN v 25 4
def recvTag (v : DWord) : BitVec 16 := v.extractLsb' 29 16

/-- A message on its way: its data are read now. -/
def State.post (s : State) (v : DWord) (cc id : Nat) (multi : Bool) : State :=
  let m : Msg := { team := s.who.teamOf, gid := s.who.gidOf, id := id, cc := cc, data := s.scrBytes s.who.teamOf (sendAddr v) (sendLen v),
                   tag := sendTag v, status := none, multi := multi }
  { s with msgs := s.msgs ++ [m] }

/-- Checks of the parameter register of SEND and SENDM (R383). -/
def State.sendChecks (s : State) (i : Instr) (v : DWord) : List (Option (Nat × DWord)) :=
  [check (!zeroAbove v 54 || sendLen v == 0 || 256 < sendLen v) cIllfld (opInfo i), s.ownCheck (sendAddr v) (sendLen v)]

/-- SEND (R135, R383). -/
def execSend (d a : SNum) (s : State) : Out :=
  commandOp (.send d a) [a] [d] (fun s =>
      s.sendChecks (.send d a) (s.rs a) ++ [check (s.teamCount ≤ sendTo (s.rs a)) cMcflt (BitVec.ofNat 64 (2 ^ sendTo (s.rs a)))])
    (fun s =>
      if !s.released s.who 0 then waitOut s
      else
        let (t, id) := s.awaitScalar d
        .next ((t.post (s.rs a) (sendTo (s.rs a)) id false).advance)) s

/-- SENDM (R138, R383). -/
def execSendm (d a b : SNum) (s : State) : Out :=
  commandOp (.sendm d a b) [a, b] [d] (fun s =>
      check (!zeroAbove (s.rs b) 12 || sendTo (s.rs a) != 0) cIllfld (opInfo (.sendm d a b)) :: s.sendChecks (.sendm d a b) (s.rs a) ++
        [check (s.badMembers (s.rs b) != 0) cMcflt (s.badMembers (s.rs b))])
    (fun s =>
      if s.rs b = 0 then doneAt (s.ws d 0)
      else if !s.released s.who 0 then waitOut s
      else
        let (t, id) := s.awaitScalar d
        let members := (List.range 12).filter fun n => (s.rs b).getLsbD n
        .next ((members.foldl (fun t n => t.post (s.rs a) n id true) t).advance)) s

/-! ### Delivery (R136, R137) -/

/-- Descriptor of a delivered message (R137). -/
def descriptor (len src : Nat) (dieBit : Bool) (tag : BitVec 16) : Nat :=
  len + 2 ^ 9 * src + 2 ^ 13 * dieBit.toNat + 2 ^ 16 * tag.toNat

/-- Data and descriptor written to a team's buffer, then its counter incremented (R137). The spec does not say which
bounds the data get: they are free. -/
def State.deliver (s : State) (h buf ctr : Nat) (data : List Byte) (src : Nat) (dieBit : Bool) (tag : BitVec 16) : State :=
  let t := s.team h
  let s1 := s.scrPutBytes t.core (t.scrAddr buf) data s.freeBounds
  let s2 := s1.scrPutBytes t.core (t.scrAddr buf + 256) (bytesLE 8 (descriptor data.length src dieBit tag)) s.freeBounds
  (s2.scrCount t.core (t.scrAddr ctr)).bumpBy 128

/-- A source and tag that a message meets; source 15 is any (R136). -/
def wants (src : BitVec 4) (tag : BitVec 16) (mSrc : Nat) (mTag : BitVec 16) : Bool := (src == 15 || src.toNat == mSrc) && tag == mTag

/-- The oldest queued message of a team with a source and tag. -/
def State.queued (s : State) (h : Nat) (src : BitVec 4) (tag : BitVec 16) : Option QMsg :=
  (s.core (s.team h).core).msgq.find? fun m => m.team == h && wants src tag m.src m.tag

/-- Checks of RECV's first register but for its buffer (R384, R385). -/
def recvIll (v : DWord) : Bool := !zeroAbove v 45 || (12 ≤ recvSrc v && recvSrc v != 15)

/-- RECV (R136, R384). -/
def execRecv (d a : SNum) (s : State) : Out :=
  commandOp (.recv d a) [a, blockReg a 1] [d] (fun s =>
      let v := s.rs a
      let c := s.par a 1
      [check (recvIll v || !zeroAbove c 25) cIllfld (opInfo (.recv d a)), alignCheck (BitVec.ofNat 64 (recvBuf v)) 64, alignCheck c 8,
        s.ownCheck (recvBuf v) 264, s.ownCheck c.toNat 8])
    (fun s =>
      let v := s.rs a
      let ctr := (s.par a 1).toNat
      let h := s.who.teamOf
      let core := s.coreOf s.who
      match s.queued h (BitVec.ofNat 4 (recvSrc v)) (recvTag v) with
      | some m =>
        let data := readBytes (s.core core).scratch (Config.overflowBase + 256 * m.place) m.len
        let t := s.updCore core fun c => { c with msgq := c.msgq.filter fun x => x.place != m.place }
        lateResult (t.deliver h (recvBuf v) ctr data m.src m.dieBit m.tag) d 1
      | none =>
        if (s.core core).posted.length < Config.postedMax then
          lateResult (s.updCore core fun c => { c with posted := c.posted ++ [⟨h, BitVec.ofNat 4 (recvSrc v), recvTag v, recvBuf v, ctr⟩] }) d 0
        else lateResult s d 2) s

/-- RPROBE (R385). -/
def execRprobe (d a : SNum) (s : State) : Out :=
  commandOp (.rprobe d a) [a] [d] (fun s => [check (recvIll (s.rs a) || recvBuf (s.rs a) != 0) cIllfld (opInfo (.rprobe d a))])
    (fun s =>
      lateResult s d (match s.queued s.who.teamOf (BitVec.ofNat 4 (recvSrc (s.rs a))) (recvTag (s.rs a)) with
        | some m => BitVec.ofNat 64 (m.len + 2 ^ 9 * m.src + 2 ^ 13 * m.dieBit.toNat + 2 ^ 16)
        | none => 0)) s

/-- A list without its first element that meets a test. -/
def dropFirst {α : Type} (f : α → Bool) : List α → List α
  | [] => []
  | x :: l => if f x then l else x :: dropFirst f l

/-- RCANCEL (R385). -/
def execRcancel (d a : SNum) (s : State) : Out :=
  commandOp (.rcancel d a) [a] [d] (fun s => [check (!zeroAbove (s.rs a) 25) cIllfld (opInfo (.rcancel d a))])
    (fun s =>
      let core := s.coreOf s.who
      let mine (p : Posted) : Bool := p.team == s.who.teamOf && p.buf == (s.rs a).toNat
      if (s.core core).posted.any mine then
        lateResult (s.updCore core fun c => { c with posted := dropFirst mine c.posted }) d 1
      else lateResult s d 0) s

/-! ### Events (R135, R136, R138) -/

/-- The lowest place of the overflow queue of a core that no message holds (R138). -/
def Core.freePlace (c : Core) : Option Nat := (List.range Config.overflowPlaces).find? fun n => !c.msgq.any fun m => m.place == n

/-- OVFQ information (R138). -/
def ovfqInfo (src : Nat) (dieBit : Bool) (tag : BitVec 16) : DWord := BitVec.ofNat 64 (src + 2 ^ 4 * dieBit.toNat + 2 ^ 16 * tag.toNat)

/-- A message at its receiving team: matched, queued, refused or too late, with the status the sender gets (R135-R139). -/
def State.receive (s : State) (m : Msg) : State × Nat :=
  let src := s.team m.team
  match src.cluster[m.cc]? with
  | none => (s, 2)
  | some h =>
    let t := s.team h
    if t.life = .ended then (s, 2)
    else
      let c := s.core t.core
      let hit (p : Posted) : Bool := p.team == h && wants p.src p.tag src.cc m.tag
      match c.posted.find? hit with
      | some p => ((s.setCore t.core { c with posted := dropFirst hit c.posted }).deliver h p.buf p.ctr m.data src.cc src.far m.tag, 0)
      | none =>
        match c.freePlace with
        | some n =>
          let s1 := s.setCore t.core { c with msgq := c.msgq ++ [⟨n, h, m.data.length, src.cc, src.far, m.tag⟩] }
          ((s1.scrPutBytes t.core (Config.overflowBase + 256 * n) m.data s.freeBounds).bumpBy 128, 0)
        | none =>
          match t.liveGroups with
          | [] => (s, 1)
          | g :: _ => (s.updGrp (.group h g) fun x => { x with ovfq := x.ovfq ++ [ovfqInfo src.cc src.far m.tag] }, 1)

/-- A message's bytes counted at the seam it crosses where sender and receiver lie in different halves (04 R97, R101). -/
def State.haulMsg (s : State) (m : Msg) : State :=
  match (s.team m.team).cluster[m.cc]? with
  | some h => s.haulCores (.group m.team m.gid) (s.team m.team).core (s.team h).core m.data.length
  | none => s

/-- MESSAGE_ARRIVAL: messages from one core to one core under one tag arrive in the order of their SENDs (R136). -/
def execMessageArrival (i : Nat) (s : State) : Out :=
  match s.msgs[i]? with
  | none => notNow s
  | some m =>
    let ahead := (s.msgs.take i).any fun x =>
      x.status.isNone && (s.team x.team).core == (s.team m.team).core && x.cc == m.cc && (s.team x.team).cluster == (s.team m.team).cluster && x.tag == m.tag
    if m.status.isSome || ahead then notNow s
    else
      let (t, k) := (s.haulMsg m).receive m
      .next { t with msgs := t.msgs.set i { m with status := some k } }

/-- SEND_STATUS_ARRIVAL: the answer reaches the sender's register; a SENDM's when every member has answered (R135, R138). -/
def execSendStatusArrival (i : Nat) (s : State) : Out :=
  match s.msgs[i]? with
  | none => notNow s
  | some m =>
    match m.status with
    | none => notNow s
    | some k =>
      let rest := s.msgs.eraseIdx i
      let last := !rest.any fun x => x.id == m.id
      let v : DWord := if !m.multi then BitVec.ofNat 64 k else if k = 0 then 0 else BitVec.ofNat 64 (2 ^ m.cc)
      .next ({ s with msgs := rest }.updGrp (.group m.team m.gid) fun g =>
        let g := g.updOutst m.id fun o => { o with sval := o.sval ||| v }
        if last then g.landScalar m.id else g)

/-- OVFQ_RAISE: the oldest OVFQ of a team is taken by its lowest-numbered group at a boundary (R138, Table 11-4). -/
def execOvfqRaise (team : Nat) (s : State) : Out :=
  match (s.team team).liveGroups with
  | [] => notNow s
  | g :: _ =>
    let p : Party := .group team g
    match (s.grp p).ovfq with
    | [] => notNow s
    | x :: rest =>
      if !s.runs p || !(s.grp p).ovfqDue then notNow s
      else
        let t := s.updGrp p fun y => { y with ovfq := rest }
        .next (t.scalarTrap p cOvfq x (s.grp p).pc [])

/-- TRAP_DELIVERY: the group's lane trap reaches its scalar stream at an instruction boundary (R255). -/
def execTrapDelivery (team : Nat) (gid : Fin 16) (s : State) : Out :=
  let p : Party := .group team gid
  if s.runs p && (s.grp p).trapDue then .next (s.deliverLane p) else notNow s

end Sys2Proof.Machine
end

