-- ==== Sys2Proof/Machine/Scalar.lean ====
section
/-! DEFINITION. Scalar register operations, immediates, branches and jumps (13 R293-R298). -/

namespace Sys2Proof.Machine

/-- 1 or 0. -/
def flag (b : Bool) : DWord := if b then 1 else 0
/-- Bits [127:64] of the signed product (R293). -/
def highProduct (x y : DWord) : DWord := BitVec.ofInt 64 (x.toInt * y.toInt / 2 ^ 64)
/-- Bits [127:64] of the unsigned product (R293). -/
def highProductU (x y : DWord) : DWord := BitVec.ofNat 64 (x.toNat * y.toNat / 2 ^ 64)

/-- SADD: the sum (R293, Table 13-1). -/
def execSadd (d a b : SNum) (s : State) : Out :=
  aluOp (.sadd d a b) d [a, b] (fun s => let x := s.rs a; let y := s.rs b; x + y) s

/-- SSUB: the difference (R293, Table 13-1). -/
def execSsub (d a b : SNum) (s : State) : Out :=
  aluOp (.ssub d a b) d [a, b] (fun s => let x := s.rs a; let y := s.rs b; x - y) s

/-- SAND: and (R293, Table 13-1). -/
def execSand (d a b : SNum) (s : State) : Out :=
  aluOp (.sand d a b) d [a, b] (fun s => let x := s.rs a; let y := s.rs b; x &&& y) s

/-- SOR: or (R293, Table 13-1). -/
def execSor (d a b : SNum) (s : State) : Out :=
  aluOp (.sor d a b) d [a, b] (fun s => let x := s.rs a; let y := s.rs b; x ||| y) s

/-- SXOR: exclusive or (R293, Table 13-1). -/
def execSxor (d a b : SNum) (s : State) : Out :=
  aluOp (.sxor d a b) d [a, b] (fun s => let x := s.rs a; let y := s.rs b; x ^^^ y) s

/-- SANDN: a and not b (R293, Table 13-1). -/
def execSandn (d a b : SNum) (s : State) : Out :=
  aluOp (.sandn d a b) d [a, b] (fun s => let x := s.rs a; let y := s.rs b; x &&& ~~~y) s

/-- SSHL: shift left by b[5:0] (R293, Table 13-1). -/
def execSshl (d a b : SNum) (s : State) : Out :=
  aluOp (.sshl d a b) d [a, b] (fun s => let x := s.rs a; let y := s.rs b; x <<< (y.extractLsb' 0 6).toNat) s

/-- SSHR: shift right by b[5:0], zeros in (R293, Table 13-1). -/
def execSshr (d a b : SNum) (s : State) : Out :=
  aluOp (.sshr d a b) d [a, b] (fun s => let x := s.rs a; let y := s.rs b; x >>> (y.extractLsb' 0 6).toNat) s

/-- SSRA: shift right by b[5:0], copies of the sign in (R293, Table 13-1). -/
def execSsra (d a b : SNum) (s : State) : Out :=
  aluOp (.ssra d a b) d [a, b] (fun s => let x := s.rs a; let y := s.rs b; x.sshiftRight (y.extractLsb' 0 6).toNat) s

/-- SSLT: signed less (R293, Table 13-1). -/
def execSslt (d a b : SNum) (s : State) : Out :=
  aluOp (.sslt d a b) d [a, b] (fun s => let x := s.rs a; let y := s.rs b; flag (x.slt y)) s

/-- SSLTU: unsigned less (R293, Table 13-1). -/
def execSsltu (d a b : SNum) (s : State) : Out :=
  aluOp (.ssltu d a b) d [a, b] (fun s => let x := s.rs a; let y := s.rs b; flag (x.ult y)) s

/-- SMIN: signed minimum (R293, Table 13-1). -/
def execSmin (d a b : SNum) (s : State) : Out :=
  aluOp (.smin d a b) d [a, b] (fun s => let x := s.rs a; let y := s.rs b; if x.sle y then x else y) s

/-- SMAX: signed maximum (R293, Table 13-1). -/
def execSmax (d a b : SNum) (s : State) : Out :=
  aluOp (.smax d a b) d [a, b] (fun s => let x := s.rs a; let y := s.rs b; if x.sle y then y else x) s

/-- SMINU: unsigned minimum (R293, Table 13-1). -/
def execSminu (d a b : SNum) (s : State) : Out :=
  aluOp (.sminu d a b) d [a, b] (fun s => let x := s.rs a; let y := s.rs b; if x.ule y then x else y) s

/-- SMAXU: unsigned maximum (R293, Table 13-1). -/
def execSmaxu (d a b : SNum) (s : State) : Out :=
  aluOp (.smaxu d a b) d [a, b] (fun s => let x := s.rs a; let y := s.rs b; if x.ule y then y else x) s

/-- SMUL: low product (R293, Table 13-1). -/
def execSmul (d a b : SNum) (s : State) : Out :=
  aluOp (.smul d a b) d [a, b] (fun s => let x := s.rs a; let y := s.rs b; x * y) s

/-- SMULH: high signed product (R293, Table 13-1). -/
def execSmulh (d a b : SNum) (s : State) : Out :=
  aluOp (.smulh d a b) d [a, b] (fun s => let x := s.rs a; let y := s.rs b; highProduct x y) s

/-- SMULHU: high unsigned product (R293, Table 13-1). -/
def execSmulhu (d a b : SNum) (s : State) : Out :=
  aluOp (.smulhu d a b) d [a, b] (fun s => let x := s.rs a; let y := s.rs b; highProductU x y) s

/-- A divide: DIVZ where the divisor is 0, naming its register; the destination keeps its value (R294). -/
def divOp (i : Instr) (d a b : SNum) (f : DWord → DWord → DWord) (s : State) : Out :=
  scalarGate i s (needRegs [a, b] [d] s
    (if s.rs b = 0 then trapAt s cDivz (BitVec.ofNat 64 b.val) else doneAt (s.ws d (f (s.rs a) (s.rs b)))))

/-- SDIV: signed quotient, truncated toward zero; −2^63 by −1 gives −2^63 (R293, R294). -/
def execSdiv (d a b : SNum) (s : State) : Out :=
  divOp (.sdiv d a b) d a b (fun x y => BitVec.ofInt 64 (x.toInt.tdiv y.toInt)) s

/-- SDIVU: unsigned quotient (R293, R294). -/
def execSdivu (d a b : SNum) (s : State) : Out :=
  divOp (.sdivu d a b) d a b (fun x y => x / y) s

/-- SREM: remainder with the sign of a (R293, R294). -/
def execSrem (d a b : SNum) (s : State) : Out :=
  divOp (.srem d a b) d a b (fun x y => BitVec.ofInt 64 (x.toInt.tmod y.toInt)) s

/-- SREMU: unsigned remainder (R293, R294). -/
def execSremu (d a b : SNum) (s : State) : Out :=
  divOp (.sremu d a b) d a b (fun x y => x % y) s

/-- Ones among the low n bits. -/
def popFrom (x : DWord) (n : Nat) : Nat := (List.range n).countP fun i => x.getLsbD i
/-- Zeros above the highest one; 64 for zero (R293). -/
def leadZeros (x : DWord) : Nat := ((List.range 64).find? fun i => x.getLsbD (63 - i)).getD 64
/-- Zeros below the lowest one; 64 for zero (R293). -/
def trailZeros (x : DWord) : Nat := ((List.range 64).find? fun i => x.getLsbD i).getD 64

/-- SPOPC: number of ones (R293). -/
def execSpopc (d a : SNum) (s : State) : Out := aluOp (.spopc d a) d [a] (fun s => BitVec.ofNat 64 (popFrom (s.rs a) 64)) s

/-- SCLZ: leading zeros (R293). -/
def execSclz (d a : SNum) (s : State) : Out := aluOp (.sclz d a) d [a] (fun s => BitVec.ofNat 64 (leadZeros (s.rs a))) s

/-- SCTZ: trailing zeros (R293). -/
def execSctz (d a : SNum) (s : State) : Out := aluOp (.sctz d a) d [a] (fun s => BitVec.ofNat 64 (trailZeros (s.rs a))) s

/-- SADDI: a + imm, sign-extended (R295, Table 13-3). -/
def execSaddi (d a : SNum) (imm : BitVec 14) (s : State) : Out :=
  aluOp (.saddi d a imm) d [a] (fun s => s.rs a + imm.signExtend 64) s

/-- SANDI: a and imm, zero-extended (R295, Table 13-3). -/
def execSandi (d a : SNum) (imm : BitVec 14) (s : State) : Out :=
  aluOp (.sandi d a imm) d [a] (fun s => s.rs a &&& imm.setWidth 64) s

/-- SORI: a or imm, zero-extended (R295, Table 13-3). -/
def execSori (d a : SNum) (imm : BitVec 14) (s : State) : Out :=
  aluOp (.sori d a imm) d [a] (fun s => s.rs a ||| imm.setWidth 64) s

/-- SXORI: a xor imm, zero-extended (R295, Table 13-3). -/
def execSxori (d a : SNum) (imm : BitVec 14) (s : State) : Out :=
  aluOp (.sxori d a imm) d [a] (fun s => s.rs a ^^^ imm.setWidth 64) s

/-- SSHLI: shift left (R295, Table 13-3). -/
def execSshli (d a : SNum) (imm : BitVec 6) (s : State) : Out :=
  aluOp (.sshli d a imm) d [a] (fun s => s.rs a <<< imm.toNat) s

/-- SSHRI: logical shift right (R295, Table 13-3). -/
def execSshri (d a : SNum) (imm : BitVec 6) (s : State) : Out :=
  aluOp (.sshri d a imm) d [a] (fun s => s.rs a >>> imm.toNat) s

/-- SSRAI: arithmetic shift right (R295, Table 13-3). -/
def execSsrai (d a : SNum) (imm : BitVec 6) (s : State) : Out :=
  aluOp (.ssrai d a imm) d [a] (fun s => (s.rs a).sshiftRight imm.toNat) s

/-- SLTI: signed a < imm (R295, Table 13-3). -/
def execSlti (d a : SNum) (imm : BitVec 14) (s : State) : Out :=
  aluOp (.slti d a imm) d [a] (fun s => flag ((s.rs a).slt (imm.signExtend 64))) s

/-- SLTIU: unsigned a < imm, the immediate sign-extended first (R295, Table 13-3). -/
def execSltiu (d a : SNum) (imm : BitVec 14) (s : State) : Out :=
  aluOp (.sltiu d a imm) d [a] (fun s => flag ((s.rs a).ult (imm.signExtend 64))) s

/-- SLUI: the sign-extended immediate shifted left by 14 (R296). -/
def execSlui (d : SNum) (imm : BitVec 20) (s : State) : Out :=
  aluOp (.slui d imm) d [] (fun _ => imm.signExtend 64 <<< 14) s

/-- SADDPC: the instruction's own address plus four times the immediate (R296). -/
def execSaddpc (d : SNum) (imm : BitVec 20) (s : State) : Out :=
  aluOp (.saddpc d imm) d [] (fun s => s.cur.pc.setWidth 64 + 4 * imm.signExtend 64) s

/-- The condition of SBR (R297). -/
def branchTaken (cnd : BitVec 3) (x y : DWord) : Bool :=
  match cnd.toNat with
  | 0 => x == y
  | 1 => x != y
  | 2 => x.slt y
  | 3 => !x.slt y
  | 4 => x.ult y
  | 5 => !x.ult y
  | _ => x &&& y != 0

/-- The pc plus four times a signed offset, modulo 2^57 (R297, R298). -/
def pcPlus {n : Nat} (pc : BitVec 57) (off : BitVec n) : BitVec 57 := pc + 4 * off.signExtend 57

/-- SBR: a conditional branch (R297). -/
def execSbr (cnd : BitVec 3) (a b : SNum) (off : BitVec 11) (s : State) : Out :=
  scalarOp (.sbr cnd a b off) [a, b] (fun s =>
    .next (if branchTaken cnd (s.rs a) (s.rs b) then s.jumpTo (pcPlus s.cur.pc off) else s.advance)) s

/-- SJ: a jump (R298). -/
def execSj (off : BitVec 26) (s : State) : Out := scalarOp (.sj off) [] (fun s => .next (s.jumpTo (pcPlus s.cur.pc off))) s

/-- SJL: the link in s63, then the jump (R298). -/
def execSjl (off : BitVec 26) (s : State) : Out :=
  scalarGate (.sjl off) s (needRegs [] [63] s
    (.next ((s.ws 63 (s.cur.pc.setWidth 64 + 4)).jumpTo (pcPlus s.cur.pc off))))

/-- SJR: a jump to a register, with the link in d; ALIGN and ACCESS of the target change nothing (R298). -/
def execSjr (d a : SNum) (s : State) : Out :=
  scalarGate (.sjr d a) s (needRegs [a] [d] s (
    let t := s.rs a
    let info : DWord := (t.extractLsb' 0 57).setWidth 64
    if t.extractLsb' 0 2 ≠ 0 then trapAt s cAlign info
    else if t.extractLsb' 57 7 ≠ 0 then trapAt s cAccess info
    else .next ((s.ws d (s.cur.pc.setWidth 64 + 4)).jumpTo (t.extractLsb' 0 57))))

end Sys2Proof.Machine
end

