-- ==== Sys2Proof/Machine/Dispatch.lean ====
section
/-! DEFINITION. Every instruction and event of the opcode table with its meaning. -/

namespace Sys2Proof.Machine

/-- What an instruction or an event does. -/
def exec (i : Instr) (s : State) : Host.Outcome State Fault Refusal :=
  match i with
  | .conventionalReset => Sys2Proof.Machine.execConventionalReset s
  | .functionLevelReset => Sys2Proof.Machine.execFunctionLevelReset s
  | .warmStartRequest => Sys2Proof.Machine.execWarmStartRequest s
  | .coldStartRequest => Sys2Proof.Machine.execColdStartRequest s
  | .startTimeout => Sys2Proof.Machine.execStartTimeout s
  | .featureCommit => Sys2Proof.Machine.execFeatureCommit s
  | .mdcfgWrite => Sys2Proof.Machine.execMdcfgWrite s
  | .mdrgnWrite => Sys2Proof.Machine.execMdrgnWrite s
  | .erqBaseWrite => Sys2Proof.Machine.execErqBaseWrite s
  | .erqSizeWrite => Sys2Proof.Machine.execErqSizeWrite s
  | .erdropRead => Sys2Proof.Machine.execErdropRead s
  | .attReq => Sys2Proof.Machine.execAttReq s
  | .attestationReportWritten => Sys2Proof.Machine.execAttestationReportWritten s
  | .mboxExt => Sys2Proof.Machine.execMboxExt s
  | .mboxExtensionMade => Sys2Proof.Machine.execMboxExtensionMade s
  | .fwreqDeviceNumber => Sys2Proof.Machine.execFwreqDeviceNumber s
  | .fwreqPortSet => Sys2Proof.Machine.execFwreqPortSet s
  | .fwreqPartitionEntry => Sys2Proof.Machine.execFwreqPartitionEntry s
  | .fwreqTenantBudget => Sys2Proof.Machine.execFwreqTenantBudget s
  | .fwreqPortRetrain => Sys2Proof.Machine.execFwreqPortRetrain s
  | .fwreqSliceThreshold => Sys2Proof.Machine.execFwreqSliceThreshold s
  | .ctxEnable => Sys2Proof.Machine.execCtxEnable s
  | .ctxSetupComplete n => Sys2Proof.Machine.execCtxSetupComplete n s
  | .ctxKill => Sys2Proof.Machine.execCtxKill s
  | .ctxKillComplete n => Sys2Proof.Machine.execCtxKillComplete n s
  | .streamStart => Sys2Proof.Machine.execStreamStart s
  | .doorbell => Sys2Proof.Machine.execDoorbell s
  | .registerWrite => Sys2Proof.Machine.execRegisterWrite s
  | .mgmtWatchdogMiss => Sys2Proof.Machine.execMgmtWatchdogMiss s
  | .mgmtRestartComplete => Sys2Proof.Machine.execMgmtRestartComplete s
  | .seamFlit seam crcOk bytes => Sys2Proof.Machine.execSeamFlit seam crcOk bytes s
  | .hubSeamLoss die => Sys2Proof.Machine.execHubSeamLoss die s
  | .deviceStop => Sys2Proof.Machine.execDeviceStop s
  | .sliceRetirement slice => Sys2Proof.Machine.execSliceRetirement slice s
  | .powerLimitWrite => Sys2Proof.Machine.execPowerLimitWrite s
  | .throtNAssert => Sys2Proof.Machine.execThrotNAssert s
  | .throtNRelease => Sys2Proof.Machine.execThrotNRelease s
  | .coolantExcursion => Sys2Proof.Machine.execCoolantExcursion s
  | .thermalShutdown => Sys2Proof.Machine.execThermalShutdown s
  | .cxlPortLoss port => Sys2Proof.Machine.execCxlPortLoss port s
  | .hostPortLoss => Sys2Proof.Machine.execHostPortLoss s
  | .cxlMemHostWrite => Sys2Proof.Machine.execCxlMemHostWrite s
  | .cxlMemHostRead => Sys2Proof.Machine.execCxlMemHostRead s
  | .watchedLineInvalidation => Sys2Proof.Machine.execWatchedLineInvalidation s
  | .atsInvalidationRequest pasid va size => Sys2Proof.Machine.execAtsInvalidationRequest pasid va size s
  | .invalidationLogApply die => Sys2Proof.Machine.execInvalidationLogApply die s
  | .tirsolFlitReceive port flit => Sys2Proof.Machine.execTirsolFlitReceive port flit s
  | .retrainEnd port ok => Sys2Proof.Machine.execRetrainEnd port ok s
  | .lossOfSignal port => Sys2Proof.Machine.execLossOfSignal port s
  | .tirsolRequestArrival port q => Sys2Proof.Machine.execTirsolRequestArrival port q s
  | .tirsolResponseArrival peer seq status applied data => Sys2Proof.Machine.execTirsolResponseArrival peer seq status applied data s
  | .retransmitTimeout peer seq => Sys2Proof.Machine.execRetransmitTimeout peer seq s
  | .dependenceCounterWrite grid idx => Sys2Proof.Machine.execDependenceCounterWrite grid idx s
  | .stealMessage grid thief victim => Sys2Proof.Machine.execStealMessage grid thief victim s
  | .remainingCountReport => Sys2Proof.Machine.execRemainingCountReport s
  | .teamPlacement grid die places => Sys2Proof.Machine.execTeamPlacement grid die places s
  | .preemptionRequest die grid => Sys2Proof.Machine.execPreemptionRequest die grid s
  | .teamHalt team => Sys2Proof.Machine.execTeamHalt team s
  | .teamSaveComplete team => Sys2Proof.Machine.execTeamSaveComplete team s
  | .teamResume team place => Sys2Proof.Machine.execTeamResume team place s
  | .teamSwap team grid => Sys2Proof.Machine.execTeamSwap team grid s
  | .gridEnd grid => Sys2Proof.Machine.execGridEnd grid s
  | .spoolEntryStart team gid => Sys2Proof.Machine.execSpoolEntryStart team gid s
  | .trapDelivery team gid => Sys2Proof.Machine.execTrapDelivery team gid s
  | .watchEntryWake p => Sys2Proof.Machine.execWatchEntryWake p s
  | .suspPoll p => Sys2Proof.Machine.execSuspPoll p s
  | .sleepuWake p => Sys2Proof.Machine.execSleepuWake p s
  | .demotionEnd p => Sys2Proof.Machine.execDemotionEnd p s
  | .messageArrival idx => Sys2Proof.Machine.execMessageArrival idx s
  | .sendStatusArrival idx => Sys2Proof.Machine.execSendStatusArrival idx s
  | .ovfqRaise team => Sys2Proof.Machine.execOvfqRaise team s
  | .coalescingBufferDrain core idx => Sys2Proof.Machine.execCoalescingBufferDrain core idx s
  | .atomicAtHome idx => Sys2Proof.Machine.execAtomicAtHome idx s
  | .memoryResponseArrival p idx => Sys2Proof.Machine.execMemoryResponseArrival p idx s
  | .atsTranslationCompletion die t granted => Sys2Proof.Machine.execAtsTranslationCompletion die t granted s
  | .pageResponse die t granted => Sys2Proof.Machine.execPageResponse die t granted s
  | .copyPacket core idx => Sys2Proof.Machine.execCopyPacket core idx s
  | .copyCompletion core idx => Sys2Proof.Machine.execCopyCompletion core idx s
  | .sacqpProbe idx => Sys2Proof.Machine.execSacqpProbe idx s
  | .reachWalkStep w idx => Sys2Proof.Machine.execReachWalkStep w idx s
  | .reachWalkEnd w idx => Sys2Proof.Machine.execReachWalkEnd w idx s
  | .sequencerCommandStart core => Sys2Proof.Machine.execSequencerCommandStart core s
  | .kStep core => Sys2Proof.Machine.execKStep core s
  | .cb3TableArrival core => Sys2Proof.Machine.execCb3TableArrival core s
  | .automaticRefresh core bank => Sys2Proof.Machine.execAutomaticRefresh core bank s
  | .rfshComplete core => Sys2Proof.Machine.execRfshComplete core s
  | .gangShareStart core => Sys2Proof.Machine.execGangShareStart core s
  | .gangCompletion gang => Sys2Proof.Machine.execGangCompletion gang s
  | .sadd d a b => Sys2Proof.Machine.execSadd d a b s
  | .ssub d a b => Sys2Proof.Machine.execSsub d a b s
  | .sand d a b => Sys2Proof.Machine.execSand d a b s
  | .sor d a b => Sys2Proof.Machine.execSor d a b s
  | .sxor d a b => Sys2Proof.Machine.execSxor d a b s
  | .sandn d a b => Sys2Proof.Machine.execSandn d a b s
  | .sshl d a b => Sys2Proof.Machine.execSshl d a b s
  | .sshr d a b => Sys2Proof.Machine.execSshr d a b s
  | .ssra d a b => Sys2Proof.Machine.execSsra d a b s
  | .sslt d a b => Sys2Proof.Machine.execSslt d a b s
  | .ssltu d a b => Sys2Proof.Machine.execSsltu d a b s
  | .smin d a b => Sys2Proof.Machine.execSmin d a b s
  | .smax d a b => Sys2Proof.Machine.execSmax d a b s
  | .sminu d a b => Sys2Proof.Machine.execSminu d a b s
  | .smaxu d a b => Sys2Proof.Machine.execSmaxu d a b s
  | .smul d a b => Sys2Proof.Machine.execSmul d a b s
  | .smulh d a b => Sys2Proof.Machine.execSmulh d a b s
  | .smulhu d a b => Sys2Proof.Machine.execSmulhu d a b s
  | .sdiv d a b => Sys2Proof.Machine.execSdiv d a b s
  | .sdivu d a b => Sys2Proof.Machine.execSdivu d a b s
  | .srem d a b => Sys2Proof.Machine.execSrem d a b s
  | .sremu d a b => Sys2Proof.Machine.execSremu d a b s
  | .spopc d a => Sys2Proof.Machine.execSpopc d a s
  | .sclz d a => Sys2Proof.Machine.execSclz d a s
  | .sctz d a => Sys2Proof.Machine.execSctz d a s
  | .saddi d a imm => Sys2Proof.Machine.execSaddi d a imm s
  | .sandi d a imm => Sys2Proof.Machine.execSandi d a imm s
  | .sori d a imm => Sys2Proof.Machine.execSori d a imm s
  | .sxori d a imm => Sys2Proof.Machine.execSxori d a imm s
  | .sshli d a imm => Sys2Proof.Machine.execSshli d a imm s
  | .sshri d a imm => Sys2Proof.Machine.execSshri d a imm s
  | .ssrai d a imm => Sys2Proof.Machine.execSsrai d a imm s
  | .slti d a imm => Sys2Proof.Machine.execSlti d a imm s
  | .sltiu d a imm => Sys2Proof.Machine.execSltiu d a imm s
  | .slui d imm => Sys2Proof.Machine.execSlui d imm s
  | .saddpc d imm => Sys2Proof.Machine.execSaddpc d imm s
  | .sbr cnd a b off => Sys2Proof.Machine.execSbr cnd a b off s
  | .sj off => Sys2Proof.Machine.execSj off s
  | .sjl off => Sys2Proof.Machine.execSjl off s
  | .sjr d a => Sys2Proof.Machine.execSjr d a s
  | .sld t base sz off => Sys2Proof.Machine.execSld t base sz off s
  | .slds t base sz off => Sys2Proof.Machine.execSlds t base sz off s
  | .sst t base sz off => Sys2Proof.Machine.execSst t base sz off s
  | .slda t base sz sc off => Sys2Proof.Machine.execSlda t base sz sc off s
  | .sstl t base sz sc off => Sys2Proof.Machine.execSstl t base sz sc off s
  | .satom d a b op ord sc => Sys2Proof.Machine.execSatom d a b op ord sc s
  | .sfence kind lanes sc => Sys2Proof.Machine.execSfence kind lanes sc s
  | .sacqp d a b sc => Sys2Proof.Machine.execSacqp d a b sc s
  | .lrun a b => Sys2Proof.Machine.execLrun a b s
  | .ldrain => Sys2Proof.Machine.execLdrain s
  | .setfmt a => Sys2Proof.Machine.execSetfmt a s
  | .setalw a => Sys2Proof.Machine.execSetalw a s
  | .pause n => Sys2Proof.Machine.execPause n s
  | .susp a b off => Sys2Proof.Machine.execSusp a b off s
  | .sleepu a => Sys2Proof.Machine.execSleepu a s
  | .bar => Sys2Proof.Machine.execBar s
  | .cbar => Sys2Proof.Machine.execCbar s
  | .cbarL => Sys2Proof.Machine.execCbarL s
  | .regather key => Sys2Proof.Machine.execRegather key s
  | .elect d => Sys2Proof.Machine.execElect d s
  | .send d a => Sys2Proof.Machine.execSend d a s
  | .sendm d a b => Sys2Proof.Machine.execSendm d a b s
  | .recv d a => Sys2Proof.Machine.execRecv d a s
  | .rprobe d a => Sys2Proof.Machine.execRprobe d a s
  | .rcancel d a => Sys2Proof.Machine.execRcancel d a s
  | .copy d a x => Sys2Proof.Machine.execCopy d a x s
  | .copym d a b x peer => Sys2Proof.Machine.execCopym d a b x peer s
  | .cwait a p => Sys2Proof.Machine.execCwait a p s
  | .mloop a => Sys2Proof.Machine.execMloop a s
  | .mgang a b => Sys2Proof.Machine.execMgang a b s
  | .mready => Sys2Proof.Machine.execMready s
  | .mreadyGang => Sys2Proof.Machine.execMreadyGang s
  | .mwait n => Sys2Proof.Machine.execMwait n s
  | .mwaitAll => Sys2Proof.Machine.execMwaitAll s
  | .mzero n => Sys2Proof.Machine.execMzero n s
  | .mout a => Sys2Proof.Machine.execMout a s
  | .mldc a => Sys2Proof.Machine.execMldc a s
  | .wload d a => Sys2Proof.Machine.execWload d a s
  | .wdir a b => Sys2Proof.Machine.execWdir a b s
  | .rfsh => Sys2Proof.Machine.execRfsh s
  | .ecrd d a => Sys2Proof.Machine.execEcrd d a s
  | .ecclr a => Sys2Proof.Machine.execEcclr a s
  | .pub d a => Sys2Proof.Machine.execPub d a s
  | .mkobj a => Sys2Proof.Machine.execMkobj a s
  | .stref a rel sc => Sys2Proof.Machine.execStref a rel sc s
  | .ldhdr d a => Sys2Proof.Machine.execLdhdr d a s
  | .launch a => Sys2Proof.Machine.execLaunch a s
  | .join d a => Sys2Proof.Machine.execJoin d a s
  | .nop => Sys2Proof.Machine.execNop s
  | .trap imm => Sys2Proof.Machine.execTrap imm s
  | .rft => Sys2Proof.Machine.execRft s
  | .csrr d csr => Sys2Proof.Machine.execCsrr d csr s
  | .csrw d csr => Sys2Proof.Machine.execCsrw d csr s
  | .cwb a b => Sys2Proof.Machine.execCwb a b s
  | .icinv c a b => Sys2Proof.Machine.execIcinv c a b s
  | .ifence => Sys2Proof.Machine.execIfence s
  | .gend => Sys2Proof.Machine.execGend s
  | .fadd w => Sys2Proof.Machine.execFadd w s
  | .fsub w => Sys2Proof.Machine.execFsub w s
  | .fmul w => Sys2Proof.Machine.execFmul w s
  | .ffma w => Sys2Proof.Machine.execFfma w s
  | .fmin w => Sys2Proof.Machine.execFmin w s
  | .fmax w => Sys2Proof.Machine.execFmax w s
  | .fcmp w => Sys2Proof.Machine.execFcmp w s
  | .fclass w => Sys2Proof.Machine.execFclass w s
  | .frnd w => Sys2Proof.Machine.execFrnd w s
  | .ffrac w => Sys2Proof.Machine.execFfrac w s
  | .fldexp w => Sys2Proof.Machine.execFldexp w s
  | .fdot2 w => Sys2Proof.Machine.execFdot2 w s
  | .fdot4 w => Sys2Proof.Machine.execFdot4 w s
  | .faddi w => Sys2Proof.Machine.execFaddi w s
  | .fmuli w => Sys2Proof.Machine.execFmuli w s
  | .ffmai w => Sys2Proof.Machine.execFfmai w s
  | .icmpi w => Sys2Proof.Machine.execIcmpi w s
  | .iaddi w => Sys2Proof.Machine.execIaddi w s
  | .iandi w => Sys2Proof.Machine.execIandi w s
  | .iori w => Sys2Proof.Machine.execIori w s
  | .ixori w => Sys2Proof.Machine.execIxori w s
  | .ishli w => Sys2Proof.Machine.execIshli w s
  | .ishri w => Sys2Proof.Machine.execIshri w s
  | .israi w => Sys2Proof.Machine.execIsrai w s
  | .movi w => Sys2Proof.Machine.execMovi w s
  | .iadd w => Sys2Proof.Machine.execIadd w s
  | .isub w => Sys2Proof.Machine.execIsub w s
  | .imul w => Sys2Proof.Machine.execImul w s
  | .imulh w => Sys2Proof.Machine.execImulh w s
  | .imulhu w => Sys2Proof.Machine.execImulhu w s
  | .imad w => Sys2Proof.Machine.execImad w s
  | .imin w => Sys2Proof.Machine.execImin w s
  | .imax w => Sys2Proof.Machine.execImax w s
  | .iminu w => Sys2Proof.Machine.execIminu w s
  | .imaxu w => Sys2Proof.Machine.execImaxu w s
  | .vand w => Sys2Proof.Machine.execVand w s
  | .vor w => Sys2Proof.Machine.execVor w s
  | .vxor w => Sys2Proof.Machine.execVxor w s
  | .vandn w => Sys2Proof.Machine.execVandn w s
  | .vshl w => Sys2Proof.Machine.execVshl w s
  | .vshr w => Sys2Proof.Machine.execVshr w s
  | .vsra w => Sys2Proof.Machine.execVsra w s
  | .popc w => Sys2Proof.Machine.execPopc w s
  | .clz w => Sys2Proof.Machine.execClz w s
  | .brev w => Sys2Proof.Machine.execBrev w s
  | .bfe w => Sys2Proof.Machine.execBfe w s
  | .bfi w => Sys2Proof.Machine.execBfi w s
  | .prmt w => Sys2Proof.Machine.execPrmt w s
  | .icmp w => Sys2Proof.Machine.execIcmp w s
  | .icmpu w => Sys2Proof.Machine.execIcmpu w s
  | .vmov w => Sys2Proof.Machine.execVmov w s
  | .vsel w => Sys2Proof.Machine.execVsel w s
  | .lut w => Sys2Proof.Machine.execLut w s
  | .plop w => Sys2Proof.Machine.execPlop w s
  | .pmovToWord w => Sys2Proof.Machine.execPmovToWord w s
  | .pmovToPredicate w => Sys2Proof.Machine.execPmovToPredicate w s
  | .frcp w => Sys2Proof.Machine.execFrcp w s
  | .frsq w => Sys2Proof.Machine.execFrsq w s
  | .fsqrt w => Sys2Proof.Machine.execFsqrt w s
  | .fdiv w => Sys2Proof.Machine.execFdiv w s
  | .fexp2 w => Sys2Proof.Machine.execFexp2 w s
  | .flog2 w => Sys2Proof.Machine.execFlog2 w s
  | .fsin w => Sys2Proof.Machine.execFsin w s
  | .fcos w => Sys2Proof.Machine.execFcos w s
  | .ftanh w => Sys2Proof.Machine.execFtanh w s
  | .fsigm w => Sys2Proof.Machine.execFsigm w s
  | .cvtfi w => Sys2Proof.Machine.execCvtfi w s
  | .cvtif w => Sys2Proof.Machine.execCvtif w s
  | .cvtff w => Sys2Proof.Machine.execCvtff w s
  | .qblk w => Sys2Proof.Machine.execQblk w s
  | .scaleblk w => Sys2Proof.Machine.execScaleblk w s
  | .vote w => Sys2Proof.Machine.execVote w s
  | .vmatch w => Sys2Proof.Machine.execVmatch w s
  | .vreduce w => Sys2Proof.Machine.execVreduce w s
  | .vscan w => Sys2Proof.Machine.execVscan w s
  | .lid w => Sys2Proof.Machine.execLid w s
  | .lslot w => Sys2Proof.Machine.execLslot w s
  | .pleat w => Sys2Proof.Machine.execPleat w s
  | .bnd w => Sys2Proof.Machine.execBnd w s
  | .setb w => Sys2Proof.Machine.execSetb w s
  | .clrb w => Sys2Proof.Machine.execClrb w s
  | .chkb w => Sys2Proof.Machine.execChkb w s
  | .efclr w => Sys2Proof.Machine.execEfclr w s
  | .efget w => Sys2Proof.Machine.execEfget w s
  | .efset w => Sys2Proof.Machine.execEfset w s
  | .vld w => Sys2Proof.Machine.execVld w s
  | .ldx w => Sys2Proof.Machine.execLdx w s
  | .vst w => Sys2Proof.Machine.execVst w s
  | .stx w => Sys2Proof.Machine.execStx w s
  | .lds w => Sys2Proof.Machine.execLds w s
  | .sts w => Sys2Proof.Machine.execSts w s
  | .atom w => Sys2Proof.Machine.execAtom w s
  | .atoms w => Sys2Proof.Machine.execAtoms w s
  | .atomagg w => Sys2Proof.Machine.execAtomagg w s
  | .laneStref w => Sys2Proof.Machine.execLaneStref w s
  | .tlda w => Sys2Proof.Machine.execTlda w s
  | .lbr w => Sys2Proof.Machine.execLbr w s
  | .ljmp w => Sys2Proof.Machine.execLjmp w s
  | .lend w => Sys2Proof.Machine.execLend w s
  | .lexit w => Sys2Proof.Machine.execLexit w s
  | .lfmt w => Sys2Proof.Machine.execLfmt w s
  | .lnop w => Sys2Proof.Machine.execLnop w s
  | .unassignedOpcode lane op => Sys2Proof.Machine.execUnassignedOpcode lane op s
  | .moutAonRetry core => Sys2Proof.Machine.execMoutAonRetry core s
  | .memoryScrub pa => Sys2Proof.Machine.execMemoryScrub pa s
  | .correctedErrorReport slice => Sys2Proof.Machine.execCorrectedErrorReport slice s
  | .fatalDieError die => Sys2Proof.Machine.execFatalDieError die s

end Sys2Proof.Machine
end

