-- ==== Sys2Proof/Machine/Progress.lean ====
section
/-! DEFINITION. The event the device performs when no stream can go on and every 16 steps, and the passage of time (log 6, log 7). What the
host, the links and the world outside send comes only through the agenda and the host's queue. -/

namespace Sys2Proof.Machine

/-- An event that is possible: it does not leave the device waiting. -/
def event (i : Instr) (o : Out) : Option Instr := match o with | .next t => if t.stalled then none else some i | _ => none

/-- The first possible event of a list. -/
def anyEvent {α : Type} (l : List α) (f : α → Option Instr) : Option Instr := l.findSome? f

/-- Parties that run. -/
def State.running (s : State) : List Party := s.parties.filter s.runs

/-- Results that can arrive. -/
def State.resultEvent (s : State) : Option Instr :=
  anyEvent s.running fun p => anyEvent (List.range (s.grp p).outst.length) fun i => event (.memoryResponseArrival p i) (execMemoryResponseArrival p i s)

/-- Atomics and probes at their homes, and messages. -/
def State.homeEvent (s : State) : Option Instr :=
  (anyEvent (List.range s.atoms.length) fun i => event (.atomicAtHome i) (execAtomicAtHome i s)) <|>
  (anyEvent (List.range s.probes.length) fun i => event (.sacqpProbe i) (execSacqpProbe i s)) <|>
  (anyEvent (List.range s.msgs.length) fun i => event (.sendStatusArrival i) (execSendStatusArrival i s)) <|>
  (anyEvent (List.range s.msgs.length) fun i => event (.messageArrival i) (execMessageArrival i s))

/-- What the engines of a core can do. -/
def State.coreEvent (s : State) (n : Nat) : Option Instr :=
  let c := s.core n
  let seq : Option Instr := if c.seq.isEmpty then none else
    event (.sequencerCommandStart n) (execSequencerCommandStart n s) <|> event (.gangShareStart n) (execGangShareStart n s) <|>
    event (.kStep n) (execKStep n s) <|> event (.cb3TableArrival n) (execCb3TableArrival n s) <|> event (.moutAonRetry n) (execMoutAonRetry n s)
  (if c.cbuf.isEmpty then none else event (.coalescingBufferDrain n 0) (execCoalescingBufferDrain n 0 s)) <|>
  (anyEvent (List.range c.copies.length) fun i =>
    event (.copyCompletion n i) (execCopyCompletion n i s) <|> event (.copyPacket n i) (execCopyPacket n i s)) <|>
  seq <|> (if c.rfshEnd.isSome then event (.rfshComplete n) (execRfshComplete n s) else none) <|>
  (anyEvent (s.env.wfaults ++ s.env.wsoft) fun e =>
    if e.1 = n then (let b : Fin 16 := ⟨e.2 % 6144 % 16, Nat.mod_lt _ (by decide)⟩; event (.automaticRefresh n b) (execAutomaticRefresh n b s)) else none)

/-- Walks and gangs. -/
def State.walkEvent (s : State) : Option Instr :=
  (anyEvent (List.finRange 7) fun w => anyEvent (List.range (s.die w.val).walks.length) fun i =>
    event (.reachWalkStep w i) (execReachWalkStep w i s) <|> event (.reachWalkEnd w i) (execReachWalkEnd w i s)) <|>
  (anyEvent s.gangs fun e => event (.gangCompletion e.1) (execGangCompletion e.1 s))

/-- Waits that end, and saved teams that have become ready. -/
def State.wakeEvent (s : State) : Option Instr :=
  (anyEvent s.running fun p =>
    match (s.grp p).wait with
    | .susp _ _ _ true | .join _ _ _ _ true => event (.watchEntryWake p) (execWatchEntryWake p s)
    | .sleep _ => event (.sleepuWake p) (execSleepuWake p s)
    | _ => none) <|>
  anyEvent (s.teams.filter fun e => e.2.life == .saved && e.2.dirState == 3) fun e => anyEvent (List.finRange 16) fun k =>
    event (.watchEntryWake (.group e.1 k)) (execWatchEntryWake (.group e.1 k) s) <|> event (.suspPoll (.group e.1 k)) (execSuspPoll (.group e.1 k) s)

/-- Halts and saves under way, and saved teams resumed where room is. -/
def State.teamEvent (s : State) : Option Instr :=
  anyEvent s.teams fun e =>
    match e.2.life with
    | .running =>
      if s.leaving e.1 then event (.teamHalt e.1) (execTeamHalt e.1 s)
      else if e.2.dirState = 4 then let p : Place := ⟨e.2.core, [], e.2.scrBase, e.2.accMap⟩; event (.teamResume e.1 p) (execTeamResume e.1 p s)
      else none
    | .saving => event (.teamSaveComplete e.1) (execTeamSaveComplete e.1 s)
    | .saved => anyEvent (s.liveDies.flatMap fun d => s.sites e.2.grid d) fun cores =>
        ((cores[e.2.cc]?).bind fun c => s.firstPlace e.2.grid c).bind fun p => event (.teamResume e.1 p) (execTeamResume e.1 p s)
    | .ended => none

/-- What a distributor does for a grid: a placement, a steal, a pre-emption, a swap (R94, R99, R106, R110). -/
def State.distributorEvent (s : State) (h : Nat) (d : Fin 6) : Option Instr :=
  let place : Option Instr :=
    if (s.rangesOf h d.val).isEmpty then none else
      anyEvent (s.sites h d.val) fun cores =>
        let ps := cores.filterMap (s.firstPlace h)
        event (.teamPlacement h d ps) (execTeamPlacement h d ps s)
  let steal : Option Instr := anyEvent (List.finRange 6) fun v => event (.stealMessage h d v) (execStealMessage h d v s)
  let makeRoom : Option Instr :=
    if !s.hasWork h d.val || !s.noRoom h d.val then none
    else
      event (.preemptionRequest d h) (execPreemptionRequest d h s) <|>
      anyEvent (s.teams.filter fun e => e.2.life == .running && dieOfCore e.2.core == d.val) fun e => event (.teamSwap e.1 h) (execTeamSwap e.1 h s)
  place <|> steal <|> makeRoom

/-- Reports every microsecond, teams placed, halted, saved and resumed, grids that end (R88, R94). -/
def State.gridEvent (s : State) : Option Instr :=
  (if s.exchanged + Config.usUnit ≤ s.moment && !s.grids.isEmpty then event .remainingCountReport (execRemainingCountReport s) else none) <|>
  s.teamEvent <|>
  (anyEvent s.grids fun e =>
    event (.gridEnd e.1) (execGridEnd e.1 s) <|>
    (anyEvent (List.finRange 4) fun i =>
      if e.2.unmet.contains i.val && (s.depReported e.1 i.val || (match e.2.deps[i.val]? with | some d => s.depMet e.2.ctx.toNat d | none => false)) then
        event (.dependenceCounterWrite e.1 i) (execDependenceCounterWrite e.1 i s) else none) <|>
    if !e.2.handed || e.2.closed then none
    else anyEvent ((List.finRange 6).filter fun d => s.liveDies.contains d.val) fun d => s.distributorEvent e.1 d)

/-- Requests of the host, and what the device and its firmware owe. -/
def State.hostNext (s : State) : Option Instr :=
  (if s.hostq.isEmpty then none else
    event .registerWrite (execRegisterWrite s) <|> event .erdropRead (execErdropRead s) <|> event .warmStartRequest (execWarmStartRequest s) <|>
    event .coldStartRequest (execColdStartRequest s) <|> event .featureCommit (execFeatureCommit s) <|> event .mdcfgWrite (execMdcfgWrite s) <|>
    event .mdrgnWrite (execMdrgnWrite s) <|> event .erqBaseWrite (execErqBaseWrite s) <|> event .erqSizeWrite (execErqSizeWrite s) <|>
    event .attReq (execAttReq s) <|> event .mboxExt (execMboxExt s) <|> event .ctxEnable (execCtxEnable s) <|> event .ctxKill (execCtxKill s) <|>
    event .cxlMemHostWrite (execCxlMemHostWrite s) <|>
    event .cxlMemHostRead (execCxlMemHostRead s) <|> event .watchedLineInvalidation (execWatchedLineInvalidation s) <|>
    event .powerLimitWrite (execPowerLimitWrite s)) <|>
  event .streamStart (execStreamStart s) <|> event .doorbell (execDoorbell s) <|>
  (anyEvent s.mp.corrected fun e => if s.dev.threshold ≤ e.2 then (if h : e.1 < 576 then event (.sliceRetirement ⟨e.1, h⟩) (execSliceRetirement ⟨e.1, h⟩ s) else none) else none) <|>
  (if s.dev.fwReq then
    event .fwreqDeviceNumber (execFwreqDeviceNumber s) <|> event .fwreqPortSet (execFwreqPortSet s) <|> event .fwreqPartitionEntry (execFwreqPartitionEntry s) <|>
    event .fwreqTenantBudget (execFwreqTenantBudget s) <|> event .fwreqPortRetrain (execFwreqPortRetrain s) <|> event .fwreqSliceThreshold (execFwreqSliceThreshold s)
   else none) <|>
  (if s.dev.attReq then event .attestationReportWritten (execAttestationReportWritten s) else none) <|>
  (if s.dev.mboxExt then event .mboxExtensionMade (execMboxExtensionMade s) else none) <|>
  (anyEvent s.ctxs fun e =>
    let n := BitVec.ofNat 8 e.1
    if e.2.state = 3 then event (.ctxSetupComplete n) (execCtxSetupComplete n s)
    else if e.2.state = 2 then event (.ctxKillComplete n) (execCtxKillComplete n s) else none) <|>
  (if s.dev.stopped then event .deviceStop (execDeviceStop s) else none) <|>
  (anyEvent (List.finRange 6) fun d => event (.hubSeamLoss d) (execHubSeamLoss d s)) <|>
  (anyEvent (List.finRange 6) fun d => event (.invalidationLogApply d) (execInvalidationLogApply d s))

/-- A party that polls, each in its turn. -/
def State.pollEvent (s : State) : Option Instr :=
  let l := s.running.filter fun p =>
    (s.grp p).pollAt.ule (s.cyc p) && match (s.grp p).wait with | .susp _ _ _ false | .join _ _ _ _ false => true | _ => false
  (l[s.fresh % l.length]?).map .suspPoll

/-- The first possible event of one kind. -/
def State.eventOf (s : State) (k : Nat) : Option Instr :=
  match k with
  | 0 => s.resultEvent
  | 1 => s.homeEvent
  | 2 => s.wakeEvent
  | 3 => anyEvent (s.cores.rotate (s.fresh / 128 % (s.cores.length + 1))) fun e => s.coreEvent e.1
  | 4 => s.walkEvent
  | 5 => s.gridEvent
  | 6 => s.hostNext
  | _ => s.pollEvent

/-- An event that is possible; the kinds have the first place in turn. -/
def State.defaultEvent (s : State) : Option Instr :=
  (List.range 8).findSome? fun k => s.eventOf ((k + s.fresh / 16) % 8)

/-- An event of the device comes next: the instruction that issued has to wait, or 16 steps have passed (log 6). -/
def State.eventDue (s : State) : Bool := s.stalled || s.fresh % 16 == 0

/-- A group waits in this cycle (04 R109): descheduled, at a rendezvous, within a PAUSE interval, stalled by R92, or its scalar stream
or all of its streams at an empty register, a full spool, CWAIT or MWAIT. -/
def State.waitsNow (s : State) (p : Party) : Bool :=
  let g := s.grp p
  let mine := s.turns.filter (·.1 == p)
  (match g.wait with | .susp _ _ _ _ | .join _ _ _ _ _ | .sleep _ | .launch _ _ _ => true | _ => false) || g.rdv.isSome || s.demoted (p, false, 0) ||
    s.starving.contains (p, false, 0) || (!mine.isEmpty && mine.all s.starving.contains)

/-- The waits of each running group over the last quantum, with those of the time since `start`, in which the device has gone on
(04 R109). -/
def State.noteWaits (s : State) (start : Nat) : State :=
  if s.moment = start then s
  else { s with waits := s.running.filterMap fun p =>
      match p with
      | .stream _ => none
      | .group h k =>
        let old := (KMap.get [] s.waits (16 * h + k.val)).filter fun e => s.moment < e.2 + s.quantumOf h
        let new := if !s.waitsNow p then old
          else match old with
            | (a, b) :: l => if b = start then (a, s.moment) :: l else (start, s.moment) :: old
            | [] => [(start, s.moment)]
        if new.isEmpty then none else some (16 * h + k.val, new) }

/-- Streams that wait at an empty register, a full spool, CWAIT or MWAIT, after one of them ran (04 R109). -/
def State.noteStarved (s : State) (ran : Option (Party × Bool × Nat)) : State :=
  match ran with
  | none => s
  | some x => { s with starving := let l := s.starving.filter fun y => y != x && s.runs y.1; if s.starved then l ++ [x] else l }

/-- The stream that runs at a step; an event of the agenda comes first. -/
def State.ran (s : State) : Option (Party × Bool × Nat) := if s.agenda.isEmpty then s.nextTurn else none

/-- The state after a step: time has passed unless streams are left that issue in the same cycle, and an event of the device
comes where one is due. -/
def State.settle (s0 s : State) : State :=
  let n := if s.cycleGoesOn s0.ran then 0 else 1 + Config.freeCycles s.fresh
  let s := { s with time := s.time + n, moment := s.moment + n * (Config.usUnit / s.dev.clock), fresh := s.fresh + 1 }
  let s := (s.noteStarved s0.ran).noteWaits s0.moment
  if s.eventDue then let t := { s with stalled := false, starved := false }; { t with agenda := t.agenda ++ t.defaultEvent.toList } else s

end Sys2Proof.Machine
end

