-- ==== Sys2Proof/Machine/Load.lean ====
section
/-! DEFINITION. A device in operation with one instruction where the next step fetches it: what the host's load of a
program leaves (log 11). -/

namespace Sys2Proof.Machine

/-- Where the loaded code lies, virtual and physical address alike. -/
def loadBase : Nat := 0x10000

/-- One gigabyte mapped to itself, readable and writable, for address space 0. -/
def loadTrans : Trans := { pasid := 0, va := 0, pa := 0, bits := 30, lo := true, hi := true, rd := true, wr := true, peer := none }

/-- Context 0 enabled, its save area away from the loaded gigabyte (11 R264). -/
def loadCtx : Ctx := { Ctx.empty with state := 1, en := true, save := 0x10000000000 }

/-- A grid of one team with one group, regather enabled, 64 KiB of scratch and one accumulator slot. -/
def loadGrid : Grid := { Grid.empty with gx := 1, gy := 1, gz := 1, cfg := BitVec.ofNat 64 (6 * 2 ^ 4 + 2 ^ 8 + 16 * 2 ^ 16 + 2 ^ 45), closed := false, handed := true }

/-- The block whose word 1 is loaded. -/
def loadEntry : SpoolEntry where
  id := 0
  blk := BitVec.ofNat 57 loadBase
  mask := 0xFFFFFFFF
  ksnap := Vector.replicate 16 0
  fmt := 0
  alw := 0
  dmask := 0
  len := 3
  trap := false
  code := []
  late := false

/-- The group that runs the loaded instruction: at its scalar pc, or in a block at word 1. -/
def loadGroup (lane : Bool) : Group :=
  { Group.empty with
    used := true, nreg := 112, live := 0xFFFFFFFF, pc := BitVec.ofNat 57 loadBase,
    spool := if lane then [loadEntry] else [],
    block := if lane then some { entry := loadEntry, stack := [⟨1, 0xFFFFFFFF, 3, 0, false, none, false, false, []⟩] } else none }

/-- The team of the group. -/
def loadTeam (lane : Bool) : Team :=
  { Team.empty with life := .running, grid := 1, cluster := [1], accMap := [0], groups := Team.empty.groups.set 0 (loadGroup lane) }

/-- The instruction's bytes at the place the next step fetches from, in a device that is otherwise ready to run it. -/
def State.load (s : State) (lane : Bool) (bs : List Byte) : State :=
  { s with
    dev := { s.dev with state := 8, accepted := 0xFFF }
    ctxs := [(0, loadCtx)], streams := [], grids := [(1, loadGrid)], teams := [(1, loadTeam lane)],
    cores := [(0, { Core.empty with tlb := [loadTrans] })], dies := [], handles := 2,
    agenda := [], turn := some (.group 1 0, lane, 0), plan := [], looked := [], stalled := false, ready := [((.group 1 0, lane, 0), 0)], starved := false,
    mem := writeBytes s.mem (loadBase + if lane then 12 else 0) bs }

end Sys2Proof.Machine
end

