-- ==== Sys2Proof/Machine/Step.lean ====
section
/-! DEFINITION. One step of the device: the event or instruction that `pick` names is executed, and time passes.
`withFetchWord` places one instruction of the opcode table where the next step fetches it. -/

namespace Sys2Proof.Machine

/-- What a step runs, run. -/
def Todo.go : Todo → Out
  | .run i s => exec i s
  | .out o => o

/-- The next instruction of a stream can issue: its operands are full and no rule holds it (04 R103, R104). -/
def State.canIssue (s : State) (x : Party × Bool × Nat) : Bool := match (s.issueTurn x.1 x.2.1 x.2.2).go with | .next t => !t.stalled | _ => true

/-- The streams whose next instruction can issue, each with the cycle since which it can; the next instruction of the
stream that ran is a new one (04 R104). -/
def State.noteReady (s : State) (ran : Option (Party × Bool × Nat)) : State :=
  { s with ready := (s.turns.filter s.canIssue).map fun x =>
      (x, match s.ready.find? (·.1 == x) with | some e => if ran == some x then s.time else e.2 | none => s.time) }

/-- The state after a step: time passes, and each core chooses what it issues next (log 6). -/
def State.goOn (s0 s : State) : State := ((s0.settle s).noteReady s0.ran).turnOver s0.ran (!s.stalled)

/-- One step of the device. -/
def step (s : State) : Host.Outcome State Fault Refusal :=
  match s.pick.go with
  | .next t => .next (s.goOn t)
  | .fault f => .fault f
  | .refused r => .refused r

/-- The instruction of `nbits` bits `w` placed where the next step fetches it: a scalar instruction of 32 bits, else a lane word of 96. -/
def State.withFetchWord (s : State) (nbits w : Nat) : State :=
  if nbits ≤ 32 then s.load false (bytesLE 4 w) else s.load true (bytesLE 12 w)

end Sys2Proof.Machine
end

