-- ==== Sys2Proof/Safety.lean ====
section
/-! DEFINITION. The terms in which statements speak of the device: canonical memory, safe steps, the conditions under
which a scalar instruction or a lane word issues (11 R253; 05 R115, R116), and what a lane word's result does to its group. -/

namespace Sys2Proof.Machine

/-- A memory in canonical form: strictly rising addresses, and no listed byte that an unlisted one stands for (log 3). -/
def Memory.wf (m : List Host.Cell) : Bool := KMap.wf (0 : Byte) m

/-- Memory, metadata and I/O space in canonical form. -/
def State.memWf (s : State) : Bool := Memory.wf s.mem && KMap.wf 0 s.md && Memory.wf s.iomem

/-- A step that goes on. -/
def StepSafe (s : State) : Prop := ∃ t, step s = .next t

/-! ### When an instruction issues -/

/-- Registers that a handler may write although they are empty: those the trapped instruction left so (11 R259). -/
def Group.ownEmpties (g : Group) : List SNum := match g.trap with | some t => if g.inh then t.sempties else [] | none => []

/-- A scalar instruction is legal here (rank 1 of R253): not barred from a control stream or in the state it meets, its feature
accepted, its fields in range. -/
def scalarLegal (i : Instr) (s : State) : Bool :=
  !(s.who.isStream && streamIllegal i) && !s.illopNow i && !featureMissing i s && fieldsOk i

/-- A scalar instruction is legal and the registers it reads and writes are full (05 R115). -/
def scalarReady (i : Instr) (reads writes : List SNum) (s : State) : Bool :=
  scalarLegal i s && reads.all s.cur.sfull && writes.all (fun r => s.cur.sfull r || s.cur.ownEmpties.contains r)

/-- What a lane word is given where it issues: legal in the state (rank 1 of R253), its sources full, its destinations
full or its own to fill, no predicate of it awaited (05 R116, R120; 11 R259; 15 R348). -/
def laneReady (i : Instr) (s : State) : Option LaneRun :=
  match laneRunOf i s with
  | none => none
  | some x =>
    if !featureMissing i s && laneFits i x.r x.w s.cur x.b.entry.dmask x.q.fmt &&
        (laneReads i x.r x.w).all (fun e => (s.cur.vreg e.1).full) &&
        (laneWrites i x.r x.w).all (fun d => (s.cur.vreg d).full || x.mayFill d) &&
        !(laneWritesS i x.r x.w).any s.cur.laneSBusy && !s.cur.predBusy i x.r x.w
    then some x else none

/-! ### What a lane word's result does -/

/-- The results in the lanes in which the word is performed (12 R279). -/
def LaneRun.performed (x : LaneRun) (f : Nat → LaneRes) (n : Nat) : Option LaneRes :=
  if x.perf.getLsbD n then some (f n) else none

/-- The lanes whose written result breaches the allowance (10 R242); a scalar destination takes the lowest performed lane alone. -/
def LaneRun.breaching (x : LaneRun) (f : Nat → LaneRes) : List Nat :=
  (lanesOf x.perf).filter fun n => (x.w.dst.toNat < 112 || n == lowestLane x.perf) && breaches (allow x.c.alw) (f n).bnd (f n).y

/-- No check is on, or no written result breaches the allowance, or the breach only sets `gstat`.bre (10 R242): the word completes. -/
def LaneRun.admits (x : LaneRun) (always : Bool) (f : Nat → LaneRes) : Bool :=
  !(always || (allow x.c.alw).chkall) || !(allow x.c.alw).bte || (x.breaching f).isEmpty

/-- Only the executing group changes from s to t, and of it only the destination registers, `gstat`, the residues and the running block's own state. -/
def laneOnly (s t : State) : Prop :=
  t = s.setCur t.cur ∧
    t.cur = { s.cur with vregs := t.cur.vregs, sregs := t.cur.sregs, gstat := t.cur.gstat, resid := t.cur.resid, preds := t.cur.preds,
                         pleats := t.cur.pleats, block := t.cur.block, held := t.cur.held, fin := t.cur.fin, heldFin := t.cur.heldFin,
                         spool := t.cur.spool, pairser := t.cur.pairser, watched := t.cur.watched }

/-- The destination of a lane word whose results are f: each performed lane holds its result, with its bound, in the whole
word or the element `nar`, and every other lane and every other vector register keeps its word (14 R315, R316; 12 R279).
A declared scalar destination takes the lowest performed lane's word (05 R120). Error feedback leaves its residue beside
the destination (09 R222), and a checked result that breaches sets `gstat`.bre (10 R242). A loop that has taken the
group's ready token sees that the performed lanes were written (08 R204). -/
def LaneRun.stored (x : LaneRun) (always : Bool) (g t : Group) (f : Nat → LaneRes) : Prop :=
  (x.w.dst.toNat < 112 → t.vreg x.w.dst.toNat = writeLanes (g.vreg x.w.dst.toNat) (narrowOf x.r x.w x.c.fmt) (x.performed f)) ∧
  (∀ r, r ≠ x.w.dst.toNat → t.vreg r = g.vreg r) ∧
  (112 ≤ x.w.dst.toNat → x.perf ≠ 0 →
    (t.sregs[16 + (x.w.dst.toNat - 112) % 16]).val = (BitVec.ofNat 32 (f (lowestLane x.perf)).code).setWidth 64) ∧
  (∀ r : Fin 64, (x.w.dst.toNat < 112 ∨ r.val ≠ 16 + (x.w.dst.toNat - 112) % 16) → (t.sregs.get r).val = (g.sregs.get r).val) ∧
  (∀ e n, t.res e n = if x.w.rnd = 5 ∧ x.r.res = .float ∧ e = x.w.dst.toNat % 8 ∧ x.perf.getLsbD n then ((f n).res).getD (g.res e n) else g.res e n) ∧
  t.gstat = (if (always || (allow x.c.alw).chkall) && !(x.breaching f).isEmpty then g.gstat ||| 2 else g.gstat) ∧
  t.preds = g.preds ∧ t.pleats = g.pleats ∧
  t.watched = (if x.w.dst.toNat < 112 then (g.touch x.w.dst.toNat x.perf).watched else g.watched)

/-- A lane word that writes one register: from every state in which it issues and nothing breaches, it completes with
its results stored and all else in place. `pre` is what becomes of the device's own counter of free values (log 5). -/
def LaneResult (i : Instr) (f : State → LaneRun → Nat → LaneRes) (pre : State → State := id) : Prop :=
  ∀ (s : State) (x : LaneRun), laneReady i s = some x → x.admits false (f s x) = true →
    ∃ t, exec i s = .next t ∧ laneOnly (pre s) t ∧ x.stored false s.cur t.cur (f s x)

/-- A checked result that breaches under BTE: BREACH in the breaching lanes, nothing of the word performed (10 R242, R243; 11 R256). -/
def LaneBreaches (i : Instr) (f : State → LaneRun → Nat → LaneRes) : Prop :=
  ∀ (s : State) (x : LaneRun), laneReady i s = some x → x.b.entry.trap = false →
    (allow x.c.alw).chkall = true → (allow x.c.alw).bte = true → x.breaching (f s x) ≠ [] →
    ∃ t l, exec i s = .next t ∧ l ∈ t.cur.laneTraps ∧ l.cause = 0x05 ∧ (∀ n < 32, l.mask.getLsbD n = (x.breaching (f s x)).contains n) ∧
      l.redo = x.allRedo ∧ l.word = x.q.pc ∧ t.cur.vregs = s.cur.vregs ∧ t.cur.preds = s.cur.preds ∧
      t.cur.block = s.cur.block.map (Block.mark · x.pos l.id) ∧ t.mem = s.mem

/-- Node m of level k of the tree of REDUCE: it combines nodes 2m and 2m + 1 of the level below (09 R226). -/
def treeNode {α : Type} (f : α → α → α) (v : Nat → α) : Nat → Nat → α
  | 0, m => v m
  | k + 1, m => f (treeNode f v k (2 * m)) (treeNode f v k (2 * m + 1))

/-- Position j after k rounds of SCAN: round d adds what lies 2^d positions below, where it is in the pleat (09 R227). -/
def scanValue {α : Type} (f : α → α → α) (v : Nat → α) : Nat → Nat → α
  | 0, j => v j
  | k + 1, j => if 2 ^ k ≤ j then f (scanValue f v k (j - 2 ^ k)) (scanValue f v k j) else scanValue f v k j

/-- What REDUCE gives every participant of a slot's pleat, and SCAN the participant at the slot's position: the positions of the
pleat in slot order, the identity where a slot takes no part; `.excl` moves them up by one behind the identity (15 R352). -/
def LaneRun.folded {α : Type} (x : LaneRun) (scan excl : Bool) (f : α → α → α) (idn : α) (v : Nat → α) (n : Nat) : α :=
  let at? (q : Nat) : α := if x.perf.getLsbD (n - n % x.c.width + q) then v (n - n % x.c.width + q) else idn
  if scan then scanValue f (fun q => if excl then (if q = 0 then idn else at? (q - 1)) else at? q) (Nat.log2 x.c.width) (n % x.c.width)
  else treeNode f at? (Nat.log2 x.c.width) 0

/-- A real rounded to an integer in a rounding mode of Table 9-5: 0 to even, 1 toward zero, 2 up, 3 down, 4 halves away from zero. -/
def nearInt (mode : Nat) (q : Rat) : Int :=
  let up : Rat := q - (q.floor : Rat)
  match mode with
  | 1 => if q < 0 then q.ceil else q.floor
  | 2 => q.ceil
  | 3 => q.floor
  | 4 => if q < 0 then (q - 1 / 2).ceil else (q + 1 / 2).floor
  | _ => if up < 1 / 2 ∨ (up = 1 / 2 ∧ q.floor % 2 = 0) then q.floor else q.floor + 1

/-- The predicate of a lane word with outcomes f: p takes them in the performed lanes; other predicates and every register keep theirs. -/
def LaneRun.decided (x : LaneRun) (g t : Group) (p : Nat) (f : Nat → Bool) : Prop :=
  (∀ n < 32, (t.predMask p).getLsbD n = if x.perf.getLsbD n then f n else (g.predMask p).getLsbD n) ∧
  (∀ q, q ≠ p → t.predMask q = g.predMask q) ∧ t.vregs = g.vregs ∧ t.pleats = g.pleats ∧ t.resid = g.resid ∧ t.watched = g.watched

/-- A lane word that writes a predicate: it completes where no outcome in a performed lane is uncertain or `ute` is 0;
`gstat`.unc is set where one is (10 R245, R246). -/
def LanePredicate (i : Instr) (f : LaneRun → Nat → Bool × Bool) : Prop :=
  ∀ (s : State) (x : LaneRun), laneReady i s = some x →
    let unc := (lanesOf x.perf).any fun n => (f x n).2
    (unc && (allow x.c.alw).ute) = false →
    ∃ t, exec i s = .next t ∧ laneOnly s t ∧ x.decided s.cur t.cur x.w.pdst.toNat (fun n => (f x n).1) ∧
      t.cur.gstat = if unc then s.cur.gstat ||| 1 else s.cur.gstat

/-! ### Scalar results -/

/-- A scalar instruction that computes one register: wherever it is ready it completes, writes v to d (nothing, where d is
s0) and moves the pc past itself; nothing else of the device changes. -/
def Computes (i : Instr) (reads : List SNum) (d : SNum) (v : State → DWord) : Prop :=
  ∀ s : State, scalarReady i reads [d] s = true → exec i s = .next ((s.ws d (v s)).advance)

/-- A scalar instruction whose whole effect is a state given by the state it issues in. -/
def Becomes (i : Instr) (reads writes : List SNum) (pre : State → Prop) (v : State → State) : Prop :=
  ∀ s : State, scalarReady i reads writes s = true → pre s → exec i s = .next (v s)

/-- A scalar instruction that traps at issue under a condition: the stream is at its handler with the trap registers
written, or has ended (11 R254, R258). -/
def TrapsWhen (i : Instr) (reads writes : List SNum) (pre : State → Prop) (cause : Nat) (info : State → DWord) : Prop :=
  ∀ s : State, scalarReady i reads writes s = true → pre s → exec i s = .next (s.scalarTrap s.who cause (info s) s.cur.pc [])

/-! ### Requests to memory -/

/-- A global request issues at once: no lane misaligned or outside the address space, no page of it in the operand log for
the same party, no earlier acquire pending, its release performed, room in the operand log for lanes without a
translation and in the coalescing buffer for the others (07 R167, R170, R191, R192; 08 R198). -/
def State.requestReady (s : State) (q : MemReq) (rel : Option Nat) : Bool :=
  (s.addrFault q).isNone && !s.pageHeld q && !s.acqPending q.party q.lane && (match rel with | some sc => s.released q.party sc | none => true) &&
    (s.missLanes q == 0 || (s.core (s.coreOf q.party)).olog.length < Config.ologEntries) &&
    (!q.isStore || s.roomFor (s.coreOf q.party) (s.pasidOf q.party) ((lanesOf (q.lanes &&& ~~~(s.missLanes q))).map fun i => q.va i / 64))

/-- The state after a request that issues: its result record is there, its translated lanes are performed or on their way
to their homes, the others are in the operand log with their pages asked for, and an acquire whose lanes are all performed acts. -/
def State.requested (s : State) (q : MemReq) (rel : Option Nat) (dest : Dest) (origin : Origin) (check : Option (DWord × Word)) : State :=
  let miss := s.missLanes q
  let q := { q with id := s.handles + 4, ord := ordCode rel q.acq }
  let s1 := { s with handles := s.handles + 1 }
  let s2 := if q.isStore && miss == 0 then s1 else s1.updGrp q.party fun g => { g with outst := g.outst ++ [outstOf s1 q dest origin check] }
  ((s2.doLanes q).logLanes q miss origin).acqDone q

/-- The byte at a place behind a lane's address that a load reads there, where its sector lies on this device: what the core's buffer
holds of it, else the core's L1 copy where the load may take that, else what was last performed at its home (07 R169, R170; 08 R196,
R201). -/
def State.lastByte (s : State) (q : MemReq) (i k : Nat) : Byte :=
  let core := s.coreOf q.party
  let n := q.va i % 64 + k
  let under : Byte := match (if s.loadHits q i then s.inL1 core q.party (q.va i / 64) else none) with
    | some l => Sector.byte l.data n
    | none => readByte s.mem (q.paOf i / 64 * 64 + n)
  match s.buffered core q.party (q.va i / 64) with
  | some e => if e.store.mask.getLsbD n then e.store.data.byte n else under
  | none => under

/-- The word of a lane load from the bytes at its place: one sign- or zero-extended byte or half-word, or four bytes (15 R343). -/
def loadedWord (width : BitVec 3) (b : Nat → Byte) : Word :=
  match width.toNat with
  | 0 => (b 0).signExtend 32
  | 1 => (b 0).setWidth 32
  | 2 => (b 1 ++ b 0).signExtend 32
  | 3 => (b 1 ++ b 0).setWidth 32
  | _ => b 3 ++ b 2 ++ b 1 ++ b 0

/-- The address of an SM-format access: base plus the offset times the width, modulo 2^64 (13 R299). -/
def smEa (s : State) (base : SNum) (sz : BitVec 2) (off : BitVec 10) : DWord := s.rs base + BitVec.ofInt 64 (off.toInt * 2 ^ sz.toNat)

/-- The request of a scalar load: 2^sz bytes at the address (13 R299, R300). -/
def loadReq (s : State) (base : SNum) (sz : BitVec 2) (off : BitVec 10) (acq : Option (BitVec 2)) : MemReq :=
  { scalarReq s.who .load (2 ^ sz.toNat) (smEa s base sz off) with acq := acq }
/-- The request of a scalar store of the low bytes of t. -/
def storeReq (s : State) (t base : SNum) (sz : BitVec 2) (off : BitVec 10) : MemReq :=
  { scalarReq s.who .store (2 ^ sz.toNat) (smEa s base sz off) with x := s.rs t }

/-- A load or atomic issued, with the scope of its release part: its destination is empty until its result arrives (05 R115). -/
def State.loading (s : State) (q : MemReq) (rel : Option Nat) (d : SNum) : State :=
  ((s.requested q rel (.sreg d) .scalar none).updCur (·.sempty d .pending)).advance
/-- A store issued, with the scope of its release part. -/
def State.storing (s : State) (q : MemReq) (rel : Option Nat) : State := (s.requested q rel .none .scalar none).advance

/-! ### Lane words that access memory -/

/-- A lane word whose whole effect is a state given by the state it issues in and what it was given there. -/
def LanePasses (i : Instr) (pre : State → LaneRun → Prop) (v : State → LaneRun → State) : Prop :=
  ∀ (s : State) (x : LaneRun), laneReady i s = some x → pre s x → exec i s = .next (v s x)

/-- The device at s, the word passed by the group that executes it, its registers changed by f. -/
def LaneRun.past (x : LaneRun) (s : State) (f : Group → Group) : State := s.updCur fun g => (f g).passWord x.b x.pos x.q x.w.pair x.pairs

/-- The request of a lane load (15 R343), store (R344) and atomic (R345, R346). -/
def LaneRun.loadReq (x : LaneRun) (s : State) (addr : Nat → DWord) : MemReq :=
  { x.req s .load (widthBytes x.w.width) addr with acq := laneAcq x.w }
def LaneRun.storeReq (x : LaneRun) (s : State) (addr : Nat → DWord) : MemReq :=
  { x.req s .store (widthBytes x.w.width) addr with data := x.storeData }
def LaneRun.atomReq (x : LaneRun) (s : State) (kind : MemKind) (addr : Nat → DWord) : MemReq :=
  { x.req s kind 4 addr with data := x.atomData, acq := acqOf x.w.atomOrd x.w.scope }

/-! ### Commands and events -/

/-- The address of a command's ALIGN and ACCESS traps fits and is a multiple of n (16 R411). -/
def placeOk (v : DWord) (n : Nat) : Prop := v.toNat % n = 0 ∧ v.toNat < 2 ^ 57

/-- The state after a command of the executing group took its place in the queue of its core's sequencer (16 R365). -/
def State.commanded (s : State) (slot : Nat) (kind : SeqKind) : State :=
  ({ s with handles := s.handles + 1 }.updCore (s.coreOf s.who) fun c => { c with seq := c.seq ++ [s.seqCmd s.who.teamOf slot kind] }).advance

/-- The copy queue of the executing group's core has room (07 R183). -/
def State.copyRoom (s : State) : Prop := ((s.core (s.coreOf s.who)).copies.filter fun x => x.stopped.isNone).length < Config.copyQueue

/-- The promise of a copy that enters the queue now (07 R185). -/
def State.promiseOf (s : State) (c : Copy) : DWord :=
  s.cyc s.who + BitVec.ofNat 64 (s.qahead (s.coreOf s.who) + (s.copyTerm c).1 + (s.copyTerm c).2)

/-- What queueing a copy does (07 R183, R185; 16 R362): the copy is last in the core's queue with its promise, d holds the
promise, and the group is past the instruction; memory, scratch and every other register stay. -/
def State.copyQueued (s t : State) (d : SNum) (c : Copy) : Prop :=
  (t.core (s.coreOf s.who)).copies = (s.core (s.coreOf s.who)).copies ++ [{ c with id := s.handles + 4, promise := s.promiseOf c, term := (s.copyTerm c).1 }] ∧
    t.cur = { s.cur.ws d (s.promiseOf c) with pc := s.cur.pc + 4 } ∧ t.mem = s.mem ∧ (t.core (s.coreOf s.who)).scratch = (s.core (s.coreOf s.who)).scratch

/-- A row of finite operands at a K-step of a float loop (06 R149): of each column its old value and its exact sum, the row's old bound,
and the operands' part of R247. -/
structure KRow where
  n : Nat
  c : Nat → Rat
  s : Nat → Rat
  old : Option Rat
  eps : Option Rat

/-- The row's largest magnitude, whose exponent is E of R150. -/
def KRow.big (r : KRow) : Rat :=
  (List.range r.n).foldl (fun m j => qmax m (qabs (r.s j))) ((List.range r.n).foldl (fun m j => qmax m (qabs (r.c j))) 0)
/-- The exact new value of a column. -/
def KRow.x (r : KRow) (j : Nat) : Rat := r.c j + r.s j
/-- Its value under SHORT or FULL before subnormals are flushed (R150); what SHORT truncates to zero has the sign of x (log 45). -/
def KRow.y (r : KRow) (short : Bool) (j : Nat) : FVal :=
  let z := if short && r.big != 0 then truncTz (r.x j) (pow2 (floorLog2 r.big - 16)) else r.x j
  if z = 0 then .zero (decide (r.x j < 0)) else roundF (ffmt 0) .rne false (.num z)
/-- The magnitude that SHORT flushes (R150). -/
def KRow.flushed (r : KRow) (short : Bool) (j : Nat) : Rat :=
  if short && r.big != 0 && decide (qabs (r.y short j).toRat < pow2 (-126)) then qabs (r.y short j).toRat else 0
/-- The column's new value (R150). -/
def KRow.result (r : KRow) (short : Bool) (j : Nat) : FVal := if r.flushed short j = 0 then r.y short j else .zero (decide (r.x j < 0))
/-- The unit's own term (R247). -/
def KRow.ustep (r : KRow) (short : Bool) : Rat :=
  if r.big = 0 then 0
  else if short then pow2 (floorLog2 r.big - 15) + ((List.range r.n).map (r.flushed short)).sum
  else pow2 (floorLog2 r.big - 23)
/-- The row's new bound under a unit (R248); a result that is not finite makes it ∞ (R149). -/
def KRow.bound (r : KRow) (short : Bool) : Bound :=
  if (List.range r.n).all fun j => (r.result short j).isFinite then roundUpB16 (badd (badd r.old r.eps) (some (r.ustep short))) else bInf
/-- SHORT is the row's unit: by SEL, and for SEL 1 and 2 where the bound it gives is admitted (R248, Table 10-8). -/
def KRow.short (r : KRow) (a : Allow) : Bool :=
  let res := (List.range r.n).map (r.result true)
  let least : Option Rat := if res.all FVal.isFinite then some ((res.map fun v => qabs v.toRat).foldl qmin ((res.map fun v => qabs v.toRat).headD 0)) else none
  match a.sel with
  | 0 => false
  | 1 | 2 => ble (bval (r.bound true)) (bmul (some (pow2 (-(a.head : Int)))) (limitOf a least))
  | _ => true

/-- An event that happens wherever its condition holds, and the state it leaves. -/
def Happens (i : Instr) (pre : State → Prop) (v : State → State) : Prop := ∀ s : State, pre s → exec i s = .next (v s)
/-- An event that happens wherever its condition holds, and what is true of the state it leaves. -/
def Brings (i : Instr) (pre : State → Prop) (post : State → State → Prop) : Prop := ∀ s : State, pre s → ∃ t, exec i s = .next t ∧ post s t

/-- The oldest request of the host is an 8-byte write of v at an offset of BAR0 (03 R51). -/
def State.wrote (s : State) (off : Nat) (v : DWord) : Prop := s.hostq.head? = some (.write off 8 v)

/-- A firmware request of a type is pending, its unnamed bytes zero, and the management cores run (03 R73). -/
def State.fwAsks (s : State) (type : Nat) (named : List Nat) : Prop :=
  s.dev.fwReq = true ∧ s.dev.mgmtRestart = false ∧ recN s.dev.fwBytes 0 2 = type ∧
    ∀ b ∈ s.dev.fwBytes.zipIdx, 2 ≤ b.2 → b.2 ∉ named → b.1 = 0

end Sys2Proof.Machine
end

