-- ==== Sys2Proof/Certificates/Slice0/Obligations.lean ====
section
/-! DEFINITION. The statements for the provers: what the numbered rules of the spec say that instructions and the device do. -/

open Sys2Proof Sys2Proof.Machine

/-! ### Scalar instructions -/

/-- 13 R293, Table 13-1: the register operations give the table's results; shifts use b[5:0]; a count of zeros of 0 is 64. -/
def Obligations.ScalarRegisterResults : Prop :=
  ∀ d a b : Fin 64,
    Computes (.sadd d a b) [a, b] d (fun s => s.rs a + s.rs b) ∧
    Computes (.ssub d a b) [a, b] d (fun s => s.rs a - s.rs b) ∧
    Computes (.sand d a b) [a, b] d (fun s => s.rs a &&& s.rs b) ∧
    Computes (.sor d a b) [a, b] d (fun s => s.rs a ||| s.rs b) ∧
    Computes (.sxor d a b) [a, b] d (fun s => s.rs a ^^^ s.rs b) ∧
    Computes (.sandn d a b) [a, b] d (fun s => s.rs a &&& ~~~(s.rs b)) ∧
    Computes (.sshl d a b) [a, b] d (fun s => s.rs a <<< ((s.rs b).toNat % 64)) ∧
    Computes (.sshr d a b) [a, b] d (fun s => s.rs a >>> ((s.rs b).toNat % 64)) ∧
    Computes (.ssra d a b) [a, b] d (fun s => (s.rs a).sshiftRight ((s.rs b).toNat % 64)) ∧
    Computes (.sslt d a b) [a, b] d (fun s => if (s.rs a).toInt < (s.rs b).toInt then 1 else 0) ∧
    Computes (.ssltu d a b) [a, b] d (fun s => if (s.rs a).toNat < (s.rs b).toNat then 1 else 0) ∧
    Computes (.smin d a b) [a, b] d (fun s => BitVec.ofInt 64 (min (s.rs a).toInt (s.rs b).toInt)) ∧
    Computes (.smax d a b) [a, b] d (fun s => BitVec.ofInt 64 (max (s.rs a).toInt (s.rs b).toInt)) ∧
    Computes (.sminu d a b) [a, b] d (fun s => BitVec.ofNat 64 (min (s.rs a).toNat (s.rs b).toNat)) ∧
    Computes (.smaxu d a b) [a, b] d (fun s => BitVec.ofNat 64 (max (s.rs a).toNat (s.rs b).toNat)) ∧
    Computes (.smul d a b) [a, b] d (fun s => s.rs a * s.rs b) ∧
    Computes (.smulh d a b) [a, b] d (fun s => ((s.rs a).signExtend 128 * (s.rs b).signExtend 128).extractLsb' 64 64) ∧
    Computes (.smulhu d a b) [a, b] d (fun s => ((s.rs a).setWidth 128 * (s.rs b).setWidth 128).extractLsb' 64 64) ∧
    Computes (.spopc d a) [a] d (fun s => BitVec.ofNat 64 ((List.range 64).countP fun i => (s.rs a).getLsbD i)) ∧
    Computes (.sclz d a) [a] d (fun s => BitVec.ofNat 64 (((List.range 64).find? fun i => (s.rs a).getLsbD (63 - i)).getD 64)) ∧
    Computes (.sctz d a) [a] d (fun s => BitVec.ofNat 64 (((List.range 64).find? fun i => (s.rs a).getLsbD i).getD 64))

/-- 13 R294: the divides truncate toward zero, −2^63 by −1 gives −2^63 with remainder 0, and a zero divisor raises DIVZ,
which names its register; the destination keeps its value. -/
def Obligations.ScalarDivides : Prop :=
  ∀ d a b : Fin 64,
    let ok (s : State) : Prop := s.rs b ≠ 0
    let zero (s : State) : Prop := s.rs b = 0
    let name (_ : State) : DWord := BitVec.ofNat 64 b.val
    Becomes (.sdiv d a b) [a, b] [d] ok (fun s => (s.ws d ((s.rs a).sdiv (s.rs b))).advance) ∧
    Becomes (.sdivu d a b) [a, b] [d] ok (fun s => (s.ws d ((s.rs a).udiv (s.rs b))).advance) ∧
    Becomes (.srem d a b) [a, b] [d] ok (fun s => (s.ws d ((s.rs a).srem (s.rs b))).advance) ∧
    Becomes (.sremu d a b) [a, b] [d] ok (fun s => (s.ws d ((s.rs a).umod (s.rs b))).advance) ∧
    TrapsWhen (.sdiv d a b) [a, b] [d] zero 0x12 name ∧ TrapsWhen (.sdivu d a b) [a, b] [d] zero 0x12 name ∧
    TrapsWhen (.srem d a b) [a, b] [d] zero 0x12 name ∧ TrapsWhen (.sremu d a b) [a, b] [d] zero 0x12 name

/-- 13 R295, R296, Table 13-3: the immediate forms; SANDI, SORI and SXORI zero-extend, the others sign-extend. -/
def Obligations.ScalarImmediates : Prop :=
  ∀ (d a : Fin 64) (imm : BitVec 14) (n : BitVec 6) (u : BitVec 20),
    Computes (.saddi d a imm) [a] d (fun s => s.rs a + imm.signExtend 64) ∧
    Computes (.sandi d a imm) [a] d (fun s => s.rs a &&& imm.setWidth 64) ∧
    Computes (.sori d a imm) [a] d (fun s => s.rs a ||| imm.setWidth 64) ∧
    Computes (.sxori d a imm) [a] d (fun s => s.rs a ^^^ imm.setWidth 64) ∧
    Computes (.sshli d a n) [a] d (fun s => s.rs a <<< n.toNat) ∧
    Computes (.sshri d a n) [a] d (fun s => s.rs a >>> n.toNat) ∧
    Computes (.ssrai d a n) [a] d (fun s => (s.rs a).sshiftRight n.toNat) ∧
    Computes (.slti d a imm) [a] d (fun s => if (s.rs a).toInt < imm.toInt then 1 else 0) ∧
    Computes (.sltiu d a imm) [a] d (fun s => if (s.rs a).toNat < (imm.signExtend 64).toNat then 1 else 0) ∧
    Computes (.slui d u) [] d (fun _ => BitVec.ofInt 64 (u.toInt * 2 ^ 14)) ∧
    Computes (.saddpc d u) [] d (fun s => BitVec.ofInt 64 (s.cur.pc.toNat + 4 * u.toInt))

/-- 13 R297, R298: the branch conditions and jump targets; the link is the address after the jump. A condition of 7 raises
ILLFLD; SJL waits for an empty s63. Two points are the model's own: the mark of a wait, `stalled` with `starved` (log 6), and the
link of a jump near the top of the code space, whose sum is not cut to 57 bits (log 28). -/
def Obligations.ScalarBranches : Prop :=
  ∀ (c : BitVec 3) (d a b : Fin 64) (off : BitVec 11) (far : BitVec 26),
    let taken (s : State) : Prop :=
      c = 0 ∧ s.rs a = s.rs b ∨ c = 1 ∧ s.rs a ≠ s.rs b ∨ c = 2 ∧ (s.rs a).toInt < (s.rs b).toInt ∨ c = 3 ∧ (s.rs b).toInt ≤ (s.rs a).toInt ∨
        c = 4 ∧ (s.rs a).toNat < (s.rs b).toNat ∨ c = 5 ∧ (s.rs b).toNat ≤ (s.rs a).toNat ∨ c = 6 ∧ s.rs a &&& s.rs b ≠ 0
    let go (s : State) (n : Int) : State := s.jumpTo (BitVec.ofInt 57 (s.cur.pc.toNat + 4 * n))
    let link (s : State) : DWord := BitVec.ofNat 64 (s.cur.pc.toNat + 4)
    Becomes (.sbr c a b off) [a, b] [] taken (fun s => go s off.toInt) ∧
    Becomes (.sbr c a b off) [a, b] [] (fun s => ¬ taken s) (fun s => s.advance) ∧
    Becomes (.sj far) [] [] (fun _ => True) (fun s => go s far.toInt) ∧
    Becomes (.sjl far) [] [63] (fun _ => True) (fun s => (s.ws 63 (link s)).jumpTo (go s far.toInt).cur.pc) ∧
    Becomes (.sjr d a) [a] [d] (fun s => (s.rs a).toNat % 4 = 0 ∧ (s.rs a).toNat < 2 ^ 57)
      (fun s => (s.ws d (link s)).jumpTo (BitVec.ofNat 57 (s.rs a).toNat)) ∧
    TrapsWhen (.sjr d a) [a] [d] (fun s => (s.rs a).toNat % 4 ≠ 0) 0x0D (fun s => BitVec.ofNat 64 ((s.rs a).toNat % 2 ^ 57)) ∧
    TrapsWhen (.sjr d a) [a] [d] (fun s => (s.rs a).toNat % 4 = 0 ∧ 2 ^ 57 ≤ (s.rs a).toNat) 0x0E (fun s => BitVec.ofNat 64 ((s.rs a).toNat % 2 ^ 57)) ∧
    (∀ s : State, exec (.sbr 7 a b off) s = .next (s.scalarTrap s.who 0x02 0x10 s.cur.pc [])) ∧
    ∀ s : State, scalarLegal (.sjl far) s = true → s.cur.sfull 63 = false → s.cur.ownEmpties.contains 63 = false →
      (s.cur.fe.getLsbD 0 && s.cur.slaneEmpty 63) = false → exec (.sjl far) s = .next { s with stalled := true, starved := true }

/-! ### Scalar memory access -/

/-- 13 R299, R300, R303, R305; 05 R115: where its request can issue, a scalar load, acquire load, store, release store or
atomic issues, and a load or atomic leaves its destination empty; SACQP sends its probe, or loads at once where the named
core is not there. What a load takes at its address (07 R170, 08 R196) is, zero-extended, the value last performed there; memoryResponseArrival in
`MemoryEvents` writes it to the register.
Where the spec leaves a point open it follows the model's own choices of log 22 and 43. -/
def Obligations.ScalarMemoryIssues : Prop :=
  ∀ (t base d a b : Fin 64) (sz sc ord : BitVec 2) (off : BitVec 10) (op : BitVec 4),
    Becomes (.sld t base sz off) [base] [t] (fun s => s.requestReady (loadReq s base sz off none) none = true)
      (fun s => s.loading (loadReq s base sz off none) none t) ∧
    Becomes (.slda t base sz sc off) [base] [t] (fun s => s.requestReady (loadReq s base sz off (some sc)) none = true)
      (fun s => s.loading (loadReq s base sz off (some sc)) none t) ∧
    Becomes (.sst t base sz off) [t, base] [] (fun s => s.requestReady (storeReq s t base sz off) none = true)
      (fun s => s.storing (storeReq s t base sz off) none) ∧
    Becomes (.sstl t base sz sc off) [t, base] [] (fun s => s.requestReady (storeReq s t base sz off) (some sc.toNat) = true)
      (fun s => s.storing (storeReq s t base sz off) (some sc.toNat)) ∧
    (∀ (s : State) (q : MemReq) (o : Outst), q.lane = false → (s.grp q.party).outst.find? (·.id == q.id) = some o → s.inSave q.party (q.va 0) = false →
      q.bytes ≤ 8 → q.va 0 % 64 + q.bytes ≤ 64 →
      ∃ u, ((s.doLoad q 1).grp q.party).outst.find? (·.id == q.id) = some u ∧ u.dest = o.dest ∧ u.sval.toNat < 256 ^ q.bytes ∧
        ∀ k < q.bytes, u.sval.extractLsb' (8 * k) 8 = s.lastByte (s.placed q) 0 k) ∧
    (let cas := op = 9 ∨ op = 12
     let q (s : State) : MemReq := { scalarReq s.who (.atomic op (op.toNat ≤ 9)) (if op.toNat ≤ 9 then 8 else 4) (s.rs a) with
       x := s.rs b, y := if cas then s.rs (blockReg b 1) else 0, acq := if ord.getLsbD 0 then some sc else none }
     let rel : Option Nat := if ord.getLsbD 1 then some sc.toNat else none
     Becomes (.satom d a b op ord sc) ([a, b] ++ if cas then [blockReg b 1] else []) [d] (fun s => s.requestReady (q s) rel = true)
      (fun s => s.loading (q s) rel d)) ∧
    (let q (s : State) : MemReq := { scalarReq s.who .load 8 (s.rs a) with acq := some sc }
     let gone (s : State) : Prop := 1728 ≤ (s.rs b).toNat ∨ s.dev.dmap.getLsbD ((s.rs b).toNat / 288) = false
     Becomes (.sacqp d a b sc) [a, b] [d] (fun s => gone s ∧ s.requestReady (q s) none = true) (fun s => s.loading (q s) none d) ∧
     Becomes (.sacqp d a b sc) [a, b] [d]
      (fun s => ¬ gone s ∧ s.addrFault (q s) = none ∧ s.pageHeld (q s) = false ∧ s.acqPending s.who false = false)
      (fun s =>
        let r := { q s with id := s.handles + 4 }
        (({ s with handles := s.handles + 1, probes := s.probes ++ [((s.rs b).toNat, r)] }.updCur fun g =>
          { g with outst := g.outst ++ [outstOf s r (.sreg d) .scalar none] }.sempty d .pending).advance)))

/-- 07 R167, R168; 13 R299, R302, R303, R305: a misaligned scalar access raises ALIGN, an address at or above 2^57 ACCESS, with the
address in `c.tinfo`, and nothing is accessed; a scratch load raises ACCESS where no scratch of its team or cluster holds its address. -/
def Obligations.ScalarAddressTraps : Prop :=
  ∀ (t base b : Fin 64) (sz sc ord : BitVec 2) (off : BitVec 10) (op : BitVec 4),
    let mis (s : State) : Prop := (smEa s base sz off).toNat % 2 ^ sz.toNat ≠ 0
    let far (s : State) : Prop := (smEa s base sz off).toNat % 2 ^ sz.toNat = 0 ∧ 2 ^ 57 ≤ (smEa s base sz off).toNat
    let info (s : State) : DWord := BitVec.ofNat 64 ((smEa s base sz off).toNat % 2 ^ 57)
    TrapsWhen (.sld t base sz off) [base] [t] mis 0x0D info ∧ TrapsWhen (.sld t base sz off) [base] [t] far 0x0E info ∧
    TrapsWhen (.slda t base sz sc off) [base] [t] mis 0x0D info ∧ TrapsWhen (.slda t base sz sc off) [base] [t] far 0x0E info ∧
    TrapsWhen (.sst t base sz off) [t, base] [] mis 0x0D info ∧ TrapsWhen (.sst t base sz off) [t, base] [] far 0x0E info ∧
    TrapsWhen (.sstl t base sz sc off) [t, base] [] mis 0x0D info ∧ TrapsWhen (.sstl t base sz sc off) [t, base] [] far 0x0E info ∧
    TrapsWhen (.slds t base sz off) [base] [t] mis 0x0D info ∧
    TrapsWhen (.slds t base sz off) [base] [t]
      (fun s => (smEa s base sz off).toNat % 2 ^ sz.toNat = 0 ∧ s.scratchTarget s.who.teamOf (smEa s base sz off).toNat = none) 0x0E info ∧
    (let at' (s : State) : Nat := (s.rs base).toNat
     let word (s : State) : DWord := BitVec.ofNat 64 (at' s % 2 ^ 57)
     let n := if op.toNat ≤ 9 then 8 else 4
     let regs := [base, b] ++ if op = 9 ∨ op = 12 then [blockReg b 1] else []
     TrapsWhen (.satom t base b op ord sc) regs [t] (fun s => at' s % n ≠ 0) 0x0D word ∧
     TrapsWhen (.satom t base b op ord sc) regs [t] (fun s => at' s % n = 0 ∧ 2 ^ 57 ≤ at' s) 0x0E word ∧
     TrapsWhen (.sacqp t base b sc) [base, b] [t] (fun s => at' s % 8 ≠ 0) 0x0D word ∧
     TrapsWhen (.sacqp t base b sc) [base, b] [t] (fun s => at' s % 8 = 0 ∧ 2 ^ 57 ≤ at' s) 0x0E word)

/-- 13 R302, R304; 05 R115: SLDS takes its bytes from scratch for a result that arrives later (what it moves over a seam is
counted there, 04 R97), and a fence that every
earlier access has passed completes: an acquire or full fence makes the acquire's actions, and only a system release or
full fence that finds a lost link does more.
Where the spec leaves a point open it follows the model's own choices of log 25. -/
def Obligations.ScratchLoadAndFence : Prop :=
  ∀ (t base : Fin 64) (sz sc kind : BitVec 2) (lanes : Bool) (off : BitVec 10),
    Becomes (.slds t base sz off) [base] [t]
      (fun s => (smEa s base sz off).toNat % 2 ^ sz.toNat = 0 ∧ (s.scratchTarget s.who.teamOf (smEa s base sz off).toNat).isSome = true ∧
        s.acqPending s.who false = false)
      (fun s => (((s.haulWindow (scalarReq s.who .load (2 ^ sz.toNat) (smEa s base sz off))).late
          (scalarReq s.who .load (2 ^ sz.toNat) (smEa s base sz off)) (.sreg t) .scalar none fun o => { o with sval := BitVec.ofNat 64 (s.scratchRead s.who.teamOf (smEa s base sz off) (2 ^ sz.toNat)) }).updCur (·.sempty t .pending)).advance) ∧
    Becomes (.sfence kind lanes sc) [] [] (fun s => s.fenceReady kind.toNat lanes sc.toNat = true ∧ (kind = 0 ∨ sc ≠ 3 ∨ s.lostBits = 0))
      (fun s => (if kind = 1 then s else s.acquireAt s.who sc.toNat).advance)

/-! ### Traps -/

/-- 11 R250, R254, Table 11-4: a recoverable scalar trap of a stream that has a handler and runs none puts cause, information
and return address in the trap registers, sets `inh`, clears `c.tmask` and `c.tredo`, ends the stream's wait, and continues
at `c.tvec`; no other register of the group, no other party and no byte of memory changes. Of the model's own fields of the group,
the headers that an STREF has read are forgotten, and a jump back drops a fetch buffer that ICINV has passed (16 R394). -/
def Obligations.ScalarTrapEntry : Prop :=
  ∀ (s : State) (p : Party) (cause : Nat) (info : DWord) (ret : BitVec 57) (empties : List (Fin 64)),
    [0x04, 0x05, 0x06, 0x07, 0x08, 0x09, 0x0A, 0x0B, 0x0C, 0x0F, 0x11, 0x12, 0x16].contains cause = true →
    (s.grp p).tvec.extractLsb' 2 55 ≠ 0 → (s.grp p).tcause.getLsbD 12 = false →
    let g := s.grp p
    let t := s.scalarTrap p cause info ret empties
    (t.grp p).tcause = BitVec.ofNat 64 (cause + (if g.laneTraps = [] then 0 else 2 ^ 11) + 2 ^ 12) ∧
    (t.grp p).tinfo = info ∧ (t.grp p).tmask = 0 ∧ (t.grp p).tredo = 0 ∧ (t.grp p).tret = ret.setWidth 64 ∧
    (t.grp p).pc = BitVec.ofNat 57 (4 * (g.tvec.extractLsb' 2 55).toNat) ∧ (t.grp p).wait = .none ∧
    t.grp p = { g.goTo (t.grp p).pc with tcause := (t.grp p).tcause, tinfo := (t.grp p).tinfo, tmask := 0, tredo := 0, tret := (t.grp p).tret,
                                         wait := .none, hdrs := [], trap := (t.grp p).trap } ∧
    (∀ q, q ≠ p → t.grp q = s.grp q) ∧ t.mem = s.mem ∧ t.md = s.md ∧ t.cores = s.cores

/-- 11 R255, R256, Table 11-1: the delivery of a recoverable lane trap writes cause, word index, split slot and pair position,
information, lane masks and return address, and continues the scalar stream at `c.tvec` with `inh` set. It waits while a pair has issued its first word alone.
Where the spec leaves a point open it follows the model's own choices of log 6. -/
def Obligations.LaneTrapDelivery : Prop :=
  ∀ (s : State) (team : Nat) (gid : Fin 16) (l : LaneTrap) (rest : List LaneTrap),
    let p : Party := .group team gid
    let g := s.grp p
    s.runs p = true → g.laneTraps = l :: rest → g.tcause.getLsbD 12 = false → g.rdv = none → g.pairOpen 0 = false → g.pairOpen 1 = false →
    [0x04, 0x05, 0x06, 0x07, 0x08, 0x09, 0x0A, 0x0B, 0x0C, 0x0F, 0x11, 0x12, 0x16].contains l.cause.toNat = true →
    g.tvec.extractLsb' 2 55 ≠ 0 →
    ∃ t, exec (.trapDelivery team gid) s = .next t ∧
      (t.grp p).tcause = BitVec.ofNat 64 (l.cause.toNat + 2 ^ 8 + 2 ^ 9 * l.slot + (if l.second then 2 ^ 10 else 0) +
        (if rest = [] then 0 else 2 ^ 11) + 2 ^ 12 + 2 ^ 16 * l.word) ∧
      (t.grp p).tinfo = l.info ∧ (t.grp p).tmask = l.mask.setWidth 64 ∧ (t.grp p).tredo = l.redo.setWidth 64 ∧
      (t.grp p).tret = g.pc.setWidth 64 ∧ (t.grp p).pc = BitVec.ofNat 57 (4 * (g.tvec.extractLsb' 2 55).toNat) ∧
      (t.grp p).laneTraps = rest ∧ (t.grp p).vregs = g.vregs ∧ (t.grp p).sregs = g.sregs ∧ t.mem = s.mem

/-- 11 R260, R257: RFT without a running handler is an illegal instruction; it waits for the handler's trap blocks; then it returns:
after a scalar trap with no lane trap pending, `inh` is 0, the pc is `c.tret`, registers the trapped instruction left empty
are full with what they hold, and nothing else of the group changes. After a lane trap the record whose word trapped performs it
again in the lanes of `c.tredo` that had not, or goes on after it where there are none, and the registers that the word left empty
are full with what they hold. A lane trap that is still pending is delivered next, before the instruction that `c.tret` names.
Where the spec leaves a point open it follows the model's own choices of log 6 (the mark `stalled` of a wait is log 6's). -/
def Obligations.ReturnFromTrap : Prop :=
  (∀ s : State, s.cur.tcause.getLsbD 12 = false → exec .rft s = .next (s.scalarTrap s.who 0x01 0x3E s.cur.pc [])) ∧
  Becomes .rft [] [] (fun s => s.cur.tcause.getLsbD 12 = true ∧ s.cur.trapBlocks ≠ 0) (fun s => { s with stalled := true }) ∧
  Becomes .rft [] [] (fun s => s.cur.tcause.getLsbD 12 = true ∧ s.cur.trapBlocks = 0) (fun s => s.returnFromTrap s.who) ∧
  (∀ (s : State) (c : TrapCtx), s.cur.trap = some c → c.lane = false → c.empties = [] → s.cur.laneTraps = [] →
    let t := s.returnFromTrap s.who
    t.cur.tcause.getLsbD 12 = false ∧ (∀ i, i ≠ 12 → t.cur.tcause.getLsbD i = s.cur.tcause.getLsbD i) ∧
    t.cur.pc = BitVec.ofNat 57 (4 * (s.cur.tret.extractLsb' 2 55).toNat) ∧
    (∀ r ∈ c.sempties, t.cur.sfull r = true) ∧ (∀ r, t.cur.sreg r = s.cur.sreg r) ∧
    t.cur = { s.cur.goTo t.cur.pc with tcause := t.cur.tcause, sregs := t.cur.sregs, trap := none, spool := s.cur.spool.map ({ · with late := false }) } ∧
    t.mem = s.mem) ∧
  (∀ (s : State) (c : TrapCtx) (b : Block) (pos : Nat) (q : Split), s.cur.trap = some c → c.lane = true → c.sempties = [] →
    (s.cur.laneTraps = [] ∨ s.cur.tvec.extractLsb' 2 55 ≠ 0 ∧ ∀ l ∈ s.cur.laneTraps, causeClass l.cause.toNat = .recoverable) →
    s.cur.block = some b → b.trapAt? c.id = some pos → b.rec? pos = some q →
    let redo := s.cur.tredo.setWidth 32 &&& c.allowed
    let q' := { q with traps := q.traps.erase c.id, jumped := false }
    let t := s.returnFromTrap s.who
    (redo ≠ 0 → t.cur.block = (s.cur.setStack b (b.stack.set pos { q' with pc := c.word, redo := some redo, second := c.second })).block) ∧
    (redo = 0 → t.cur.block =
      (s.cur.moveTo { b with stack := b.stack.set pos { q' with redo := none, second := false } } pos (c.word + if c.first then 2 else 1)).block) ∧
    (∀ r ∈ c.empties, r < 112 → (t.cur.vreg r).full = true) ∧ (∀ r, (t.cur.vreg r).lanes = (s.cur.vreg r).lanes) ∧ t.cur.preds = s.cur.preds ∧
    (s.cur.laneTraps = [] → t.cur.tcause.getLsbD 12 = false ∧ t.cur.pc = BitVec.ofNat 57 (4 * (s.cur.tret.extractLsb' 2 55).toNat) ∧ t.mem = s.mem)) ∧
  ∀ (s : State) (c : TrapCtx) (l : LaneTrap) (rest : List LaneTrap), s.cur.trap = some c → s.cur.laneTraps = l :: rest →
    [0x04, 0x05, 0x06, 0x07, 0x08, 0x09, 0x0A, 0x0B, 0x0C, 0x0F, 0x11, 0x12, 0x16].contains l.cause.toNat = true →
    s.cur.tvec.extractLsb' 2 55 ≠ 0 →
    let t := s.returnFromTrap s.who
    t.cur.tcause = BitVec.ofNat 64 (l.cause.toNat + 2 ^ 8 + 2 ^ 9 * l.slot + (if l.second then 2 ^ 10 else 0) +
      (if rest = [] then 0 else 2 ^ 11) + 2 ^ 12 + 2 ^ 16 * l.word) ∧
    t.cur.tinfo = l.info ∧ t.cur.tmask = l.mask.setWidth 64 ∧ t.cur.tredo = l.redo.setWidth 64 ∧
    t.cur.tret = BitVec.ofNat 64 (4 * (s.cur.tret.extractLsb' 2 55).toNat) ∧
    t.cur.pc = BitVec.ofNat 57 (4 * (s.cur.tvec.extractLsb' 2 55).toNat) ∧ t.cur.laneTraps = rest ∧ t.mem = s.mem

/-- 11 R251, R258; 04 R87; 03 R58: a fatal cause, or any cause without a handler or in one, ends the team, whose grid counts
the failure, or ends the control stream with the cause in its status. -/
def Obligations.FatalTrapEnds : Prop :=
  ∀ (s : State) (cause : Nat) (info : DWord) (ret : BitVec 57) (e : List (Fin 64)),
    causeClass cause ≠ .gridEnding →
    (∀ (h : Nat) (g : Fin 16),
      (causeClass cause = .fatal ∨ (s.grp (.group h g)).vec = 0 ∨ (s.grp (.group h g)).inh = true) → (s.team h).cluster = [h] →
      let t := s.scalarTrap (.group h g) cause info ret e
      (t.team h).life = .ended ∧ (∀ k, (t.grp (.group h k)).ended = true) ∧
      (t.grid (s.team h).grid).nfail = (s.grid (s.team h).grid).nfail + 1 ∧ (t.grid (s.team h).grid).incomplete = true ∧ t.mem = s.mem) ∧
    (∀ k : Nat, (causeClass cause = .fatal ∨ (s.grp (.stream k)).vec = 0 ∨ (s.grp (.stream k)).inh = true) →
      let t := s.scalarTrap (.stream k) cause info ret e
      (t.grp (.stream k)).wait = .ending 1 cause ∧ (∀ w ∈ t.watches, w.party ≠ .stream k) ∧ t.mem = s.mem)

/-- 16 R392: NOP has no effect; TRAP raises SWTRAP with its immediate at the instruction itself; RFT outside a handler raises
ILLOP. 12 R276: an opcode without an instruction raises ILLOP. -/
def Obligations.TrapInstruction : Prop :=
  Becomes .nop [] [] (fun _ => True) (fun s => s.advance) ∧
  (∀ s : State, s.cur.tcause.getLsbD 12 = false → exec .rft s = .next (s.scalarTrap s.who 0x01 0x3E s.cur.pc [])) ∧
  causeClass 0x11 = .recoverable ∧
  (∀ imm : BitVec 16, TrapsWhen (.trap imm) [] [] (fun _ => True) 0x11 (fun _ => imm.setWidth 64)) ∧
  (∀ (op : BitVec 8) (s : State), exec (.unassignedOpcode false op) s = .next (s.scalarTrap s.who 0x01 (op.setWidth 64) s.cur.pc [])) ∧
  (∀ (op : BitVec 8) (s : State) (b : Block) (pos : Nat) (q : Split),
    s.cur.block = some b → b.posOf s.lslot = some pos → b.rec? pos = some q → b.entry.trap = false →
    ∃ t, exec (.unassignedOpcode true op) s = .next t ∧
      ∃ l ∈ t.cur.laneTraps, l.cause = 0x01 ∧ l.info = op.setWidth 64 ∧ l.mask = s.cur.eff q ∧ l.redo = s.cur.eff q ∧ l.word = q.pc)

/-! ### System functions of the scalar stream -/

/-- 16 R392, R393, R394, R396, R308, R309, R310; 10 R239: the system instructions that act on the stream's own state. A write of a
read-only register, and a control stream's of a lane-side register, raises ILLFLD whatever its source holds; which registers
are of the lane side, so that they also read 0 on a control stream, is the list of log 24, read from R396.
Where the spec leaves a point open it follows the model's own choices of log 19, 24 and 28. -/
def Obligations.SystemInstructions : Prop :=
  ∀ (d a : Fin 64) (r : BitVec 12) (n : BitVec 20),
    Becomes .nop [] [] (fun _ => True) (fun s => s.advance) ∧
    Becomes .ifence [] [] (fun _ => True) (fun s => (s.updCur fun g => { g with sfetch := none, lfetch := [] }).advance) ∧
    Computes (.csrr d r) [] d (fun s => s.csr s.who r.toNat) ∧
    (let bad (s : State) : Prop := csrReadOnly r = true ∨ (r = 0x011 ∧ (s.rs d).getLsbD 12 ≠ s.cur.inh) ∨ (s.who.isStream = true ∧ csrLaneSide r.toNat = true)
     Becomes (.csrw d r) [d] [] (fun s => ¬ bad s) (fun s => (s.updCur fun g => g.csrWrite r.toNat (s.rs d)).advance) ∧
     TrapsWhen (.csrw d r) [d] [] bad 0x02 (fun _ => 0x3E) ∧
     ∀ s : State, scalarLegal (.csrw d r) s = true → (csrReadOnly r = true ∨ (s.who.isStream = true ∧ csrLaneSide r.toNat = true)) →
      exec (.csrw d r) s = .next (s.scalarTrap s.who 0x02 0x3E s.cur.pc [])) ∧
    (let legal (s : State) : Prop := (s.rs a).toNat < 2 ^ 32 ∧ fmtLegal ((s.rs a).setWidth 32) = true
     Becomes (.setfmt a) [a] [] legal (fun s => (s.updCur fun g => { g with fmt := (s.rs a).setWidth 32 }).advance) ∧
     TrapsWhen (.setfmt a) [a] [] (fun s => ¬ legal s) 0x02 (fun _ => 0x22)) ∧
    Becomes (.setalw a) [a] [] (fun s => allowLegal (s.rs a) = true ∧ allowWithin (s.rs a) s.ceiling = true)
      (fun s => (s.updCur fun g => { g with alw := s.rs a }).advance) ∧
    TrapsWhen (.setalw a) [a] [] (fun s => allowLegal (s.rs a) = false) 0x02 (fun _ => 0x23) ∧
    TrapsWhen (.setalw a) [a] [] (fun s => allowLegal (s.rs a) = true ∧ allowWithin (s.rs a) s.ceiling = false) 0x16 (fun _ => 0) ∧
    Becomes (.pause n) [] [] (fun s => s.suspendMode s.who = false ∧ n ≠ 0)
      (fun s => (s.updCur fun g => { g with demoteEnd := if g.demoteEnd.toNat < (s.cyc s.who + n.setWidth 64).toNat then s.cyc s.who + n.setWidth 64 else g.demoteEnd }).advance) ∧
    Becomes (.pause n) [] [] (fun s => s.suspendMode s.who = false ∧ n = 0) (fun s => s.advance) ∧
    TrapsWhen (.pause n) [] [] (fun s => s.suspendMode s.who = true) 0x15 (fun _ => 0)

/-- 16 R393, Table 16-9: a control register that a group may write reads back what its bits hold; the flag registers clear by ones.
That `c.tredo` reads back all of its 32 bits, and RFT alone drops those that the device did not write, is the model's reading of 11 R256
(log 47). -/
def Obligations.ControlRegistersReadBack : Prop :=
  ∀ (s : State) (h : Nat) (k : Fin 16) (v : DWord),
    let p : Party := .group h k
    let rd (r : Nat) : DWord := (s.setGrp p ((s.grp p).csrWrite r v)).csr p r
    rd 0x010 = v &&& 0x01FFFFFFFFFFFFFC ∧ rd 0x012 = v ∧ rd 0x013 = v &&& 0xFFFFFFFF ∧ rd 0x014 = v &&& 0xFFFFFFFF ∧
    rd 0x015 = v &&& 0x01FFFFFFFFFFFFFC ∧ rd 0x020 = v &&& 1 ∧ rd 0x022 = (s.grp p).gstat &&& ~~~v ∧
    rd 0x031 = v ∧ rd 0x032 = v ∧ rd 0x033 = v ∧
    (∀ r, r ∉ [0x010, 0x011, 0x012, 0x013, 0x014, 0x015, 0x020, 0x021, 0x022, 0x031, 0x032, 0x033] → (s.grp p).csrWrite r v = s.grp p)

/-- 13 R307, R312; 05 R123; 07 R186: LDRAIN completes when the lane side is drained and waits otherwise; SLEEPU waits
for its cycle, and a wake with no copy within its promise goes on after an acquire at group scope. 13 R311; 05 R134, R140: SUSP whose counter has reached its target continues at the continuation; else it takes a watch
entry at the counter's home, or polls where the table is full.
Where the spec leaves a point open it follows the model's own choices of log 6, 25, 26 and 43 (the mark `stalled` of a wait is log 6's). -/
def Obligations.StreamWaits : Prop :=
  (∀ a : Fin 64,
      Becomes .ldrain [] [] (fun s => s.lanesDrained s.who = true) (fun s => s.advance) ∧
      Becomes .ldrain [] [] (fun s => s.lanesDrained s.who = false) (fun s => { s with stalled := true }) ∧
      Becomes (.sleepu a) [a] [] (fun s => (s.cyc s.who).toNat < (s.rs a).toNat) (fun s => s.updCur fun g => { g with wait := .sleep (s.rs a) }) ∧
      ∀ s : State, scalarReady (.sleepu a) [a] [] s = true → (s.rs a).toNat ≤ (s.cyc s.who).toNat → s.covered s.who (s.cyc s.who) = [] →
        ∃ t, exec (.sleepu a) s = .next t ∧ t.cur.pc = s.cur.pc + 4 ∧ t.cur.wait = .none ∧ t.cur.wakeAt = none ∧ t.cur.sregs = s.cur.sregs ∧ t.mem = s.mem) ∧
  ∀ (a b : Fin 64) (off : BitVec 11) (pa : Nat),
    let ea (s : State) : Nat := (s.rs a).toNat
    let there (s : State) : Prop := ea s % 8 = 0 ∧ ea s < 2 ^ 57 ∧ s.look (s.coreOf s.who) (s.pasidOf s.who) (ea s) false = .here pa ∧ s.poison.contains (pa / 64) = false ∧
      s.acqPending s.who false = false ∧ s.pagesHeld s.who [ea s] = false
    let read (s : State) : State := (s.readCounter s.who (ea s) pa).1
    let value (s : State) : Nat := (s.readCounter s.who (ea s) pa).2.toNat
    let cont (s : State) : BitVec 57 := BitVec.ofInt 57 (s.cur.pc.toNat + 4 * off.toInt)
    ∀ s : State, scalarReady (.susp a b off) [a, b] [] s = true → there s →
      ((s.rs b).toNat ≤ value s → ∃ t, exec (.susp a b off) s = .next t ∧ t.cur.pc = cont s ∧ t.cur.wait = .none ∧ t.watches = (read s).watches) ∧
      (value s < (s.rs b).toNat → (read s).watchRoom (s.homeOf pa) = true →
        ∃ t, exec (.susp a b off) s = .next t ∧ t.cur.wait = .susp (s.rs a) (s.rs b) (cont s) true ∧ t.cur.pc = s.cur.pc ∧
          t.watches = (read s).watches ++ [{ home := s.homeOf pa, party := s.who, pa := pa, target := s.rs b, hit := false }]) ∧
      (value s < (s.rs b).toNat → (read s).watchRoom (s.homeOf pa) = false →
        ∃ t, exec (.susp a b off) s = .next t ∧ t.cur.wait = .susp (s.rs a) (s.rs b) (cont s) false ∧ t.cur.pc = s.cur.pc ∧ t.watches = (read s).watches)

/-! ### Lane dispatch, rendezvous, code maintenance, group end -/

/-- 13 R306; 05 R118, R120: LRUN of an aligned block with a valid header pushes one entry with the snapshots of Table 5-4 and
empties the declared registers; it waits while the spool (for a trap block in a handler, the queue of four) is full, and a bad
header then raises BADBLK, a trap block outside a handler ILLFLD first, its other fields bad or not (11 R253).
Where the spec leaves a point open it follows the model's own choices of log 6 and 22 (the mark `stalled` of a wait is log 6's). -/
def Obligations.LrunPushes : Prop :=
  ∀ (a b : Fin 64) (s t : State) (x : Sector),
    scalarReady (.lrun a b) ([a, b] ++ (List.finRange 16).map fun i => ⟨16 + i.val, by omega⟩) [] s = true →
    (s.rs a).toNat % 16 = 0 → (s.rs a).toNat < 2 ^ 57 →
    s.fetchLaneSector s.who (s.rs a).toNat = .got t x →
    let hdr : BitVec 96 := x.extractLsb' (8 * ((s.rs a).toNat % 64)) 96
    let op := hdr.extractLsb' 0 8
    let len := (hdr.extractLsb' 24 16).toNat
    let ok := op = 0xEF ∧ 2 ≤ len ∧ hdr.extractLsb' 41 55 = 0
    let room := if ok ∧ hdr.getLsbD 40 = true ∧ t.cur.inh = true then t.cur.trapBlocks < 4 else t.cur.spool.length < 16
    (¬ room → exec (.lrun a b) s = .next { t with stalled := true, starved := true }) ∧
    (¬ ok → ¬ (op = 0xEF ∧ hdr.getLsbD 40 = true ∧ t.cur.inh = false) → room → exec (.lrun a b) s = .next (t.scalarTrap t.who 0x18 0 t.cur.pc [])) ∧
    (ok → hdr.getLsbD 40 = false → t.cur.spool.length < 16 →
      ∃ u e, exec (.lrun a b) s = .next u ∧ u.cur.pc = t.cur.pc + 4 ∧ u.cur.spool = t.cur.spool ++ [e] ∧
        e.blk = BitVec.ofNat 57 (s.rs a).toNat ∧ e.mask = (t.rs b).setWidth 32 &&& t.cur.live ∧ e.fmt = t.cur.fmt ∧ e.alw = t.cur.alw ∧
        e.dmask = hdr.extractLsb' 8 16 ∧ e.len = len ∧ e.trap = false ∧
        (∀ i : Fin 16, e.ksnap.get i = (t.cur.sreg ⟨16 + i.val, by omega⟩).setWidth 32) ∧
        (∀ i : Fin 16, u.cur.sfull ⟨16 + i.val, by omega⟩ = (t.cur.sfull ⟨16 + i.val, by omega⟩ && !e.dmask.getLsbD i.val)) ∧ u.mem = t.mem) ∧
    (op = 0xEF → hdr.getLsbD 40 = true → t.cur.inh = false → room → exec (.lrun a b) s = .next (t.scalarTrap t.who 0x02 0x20 t.cur.pc [])) ∧
    (ok → hdr.getLsbD 40 = true → t.cur.inh = true → t.cur.trapBlocks < 4 →
      ∃ u e, exec (.lrun a b) s = .next u ∧ u.cur.pc = t.cur.pc + 4 ∧ u.cur.trapq = t.cur.trapq ++ [e] ∧ u.cur.spool = t.cur.spool ∧
        e.blk = BitVec.ofNat 57 (s.rs a).toNat ∧ e.len = len ∧ e.trap = true)

/-- 16 R379 to R382; 05 R130, R131: an arrival at a rendezvous that no group of the team meets at another kind, with earlier
accesses performed at the scope, takes the group to the rendezvous; ELECT gives 1 to the first group since the last one.
BAR completes when the last group of the team that has not ended arrives, and every one of them goes on at its next instruction.
Where the spec leaves a point open it follows the model's own choices of log 25 and 28. -/
def Obligations.RendezvousArrivals : Prop :=
  (∀ (d : Fin 64) (key : BitVec 7),
      let h (s : State) : Nat := s.who.teamOf
      Becomes .bar [] [] (fun s => s.rdvMixed .bar = false ∧ s.released s.who 0 = true)
        (fun s => (s.updCur fun g => { g with rdv := some .bar }).tryBar (h s)) ∧
      Becomes .cbar [] [] (fun s => s.rdvMixed .cbar = false ∧ s.released s.who 1 = true)
        (fun s => (s.updCur fun g => { g with rdv := some .cbar }).tryCbar (h s)) ∧
      (let kind (s : State) : Rdv := if (s.team (h s)).cluster.any (fun k => (s.team k).far) then .cbarL else .cbar
       Becomes .cbarL [] [] (fun s => s.rdvMixed (kind s) = false ∧ s.released s.who 1 = true)
        (fun s => (s.updCur fun g => { g with rdv := some (kind s) }).tryCbar (h s))) ∧
      (∀ hk : key.toNat < 112, Becomes (.regather key) [] []
        (fun s => (s.grid s.curTeam.grid).cfg.getLsbD 45 = true ∧ key.toNat < s.cur.nreg ∧ s.rdvMixed (.regather ⟨key.toNat, hk⟩) = false ∧
          s.lanesDrained s.who = true ∧ s.released s.who 0 = true ∧ ∀ v < s.cur.nreg, (s.cur.vreg v).full = true)
        (fun s => (s.updCur fun g => { g with rdv := some (.regather ⟨key.toNat, hk⟩) }).tryRegather (h s))) ∧
      Becomes (.elect d) [] [d] (fun s => s.who.isStream = true) (fun s => (s.ws d 1).advance) ∧
      Becomes (.elect d) [] [d] (fun s => s.who.isStream = false)
        (fun s => ((s.setTeam (h s) { s.curTeam with elected := true }).ws d (if s.curTeam.elected then 0 else 1)).advance)) ∧
  ∀ (s : State) (h : Nat),
    let live (g : Fin 16) : Prop := (s.grp (.group h g)).used = true ∧ (s.grp (.group h g)).ended = false
    let t := s.tryBar h
    ((∃ g, live g) → (∀ g, live g → (s.grp (.group h g)).rdv = some .bar) →
      (∀ g, live g → (t.grp (.group h g)).rdv = none ∧ (t.grp (.group h g)).pc = (s.grp (.group h g)).pc + 4 ∧
        (t.grp (.group h g)).sregs = (s.grp (.group h g)).sregs ∧ (t.grp (.group h g)).vregs = (s.grp (.group h g)).vregs) ∧
      (t.team h).elected = false ∧ t.mem = s.mem) ∧
    ((∃ g, live g ∧ (s.grp (.group h g)).rdv ≠ some .bar) → t = s)

/-- 16 R394; 05 R141; 03 R58: CWB of nothing completes at once; ICINV takes the named lines from the instruction caches of the
core and completes; a group ends when all it issued has completed, and a control stream writes its status next.
Where the spec leaves a point open it follows the model's own choices of log 21 and 25. -/
def Obligations.CodeMaintenanceAndEnd : Prop :=
  ∀ (c : BitVec 6) (a b : Fin 64),
    Becomes (.cwb a b) [a, b] [] (fun s => (s.rs a).toNat < 2 ^ 57 ∧ s.rs b = 0) (fun s => s.advance) ∧
    TrapsWhen (.cwb a b) [a, b] [] (fun s => 2 ^ 57 ≤ (s.rs a).toNat) 0x0E (fun s => BitVec.ofNat 64 ((s.rs a).toNat % 2 ^ 57)) ∧
    (∀ s : State, scalarReady (.cwb a b) [a, b] [] s = true → (s.rs a).toNat < 2 ^ 57 → s.rs b ≠ 0 →
      (s.core (s.coreOf s.who)).cbuf = [] → s.logOf s.who = [] → s.postedFrom (s.coreOf s.who) (fun _ => true) = false → exec (.cwb a b) s = .next s.advance) ∧
    (∀ s : State, scalarReady (.icinv c a b) [a, b] [] s = true →
      ∃ t, exec (.icinv c a b) s = .next t ∧ t.cur.pc = s.cur.pc + 4 ∧ t.mem = s.mem ∧
        (t.core (s.coreOf s.who)).icS = (if c = 0 ∨ c = 2 then (s.core (s.coreOf s.who)).icS.filter (fun e => !lineIn e.va (s.rs a).toNat (s.rs b).toNat) else (s.core (s.coreOf s.who)).icS) ∧
        (t.core (s.coreOf s.who)).icL = (if c = 1 ∨ c = 2 then (s.core (s.coreOf s.who)).icL.filter (fun e => !lineIn e.va (s.rs a).toNat (s.rs b).toNat) else (s.core (s.coreOf s.who)).icL)) ∧
    (∀ (s : State) (h : Nat) (g : Fin 16), s.who = .group h g → scalarReady .gend [] [] s = true → s.released s.who 2 = true →
      (s.cur.inh || s.cur.lanesIdle) = true → s.groupQuiet s.who = true → exec .gend s = .next (s.endGroup h g)) ∧
    (∀ (s : State) (k : Nat), s.who = .stream k → scalarReady .gend [] [] s = true → s.released s.who 2 = true →
      ∃ t, exec .gend s = .next t ∧ t.cur.wait = .ending 0 0 ∧ t.cur.outst = [] ∧ t.mem = s.mem)

/-- 16 R378; 06 R156: ECRD takes both counts of a tag for a pair that fills later, and ECCLR clears them; a selector with
other bits raises ILLFLD. -/
def Obligations.ExpertCounters : Prop :=
  ∀ (d a : Fin 64) (die tag : Nat),
    Becomes (.ecrd d a) [a] [d, blockReg d 1] (fun s => s.expertSel (s.rs a) = some (die, tag))
      (fun s =>
        let c := KMap.get (0, 0) (s.die die).experts tag
        ((s.late (scalarReq s.who .load 8 0) (.spair d) .scalar none fun o => { o with sval := c.1, sval2 := c.2 }).updCur fun g =>
          (g.sempty d .pending).sempty (blockReg d 1) .pending).advance) ∧
    Becomes (.ecclr a) [a] [] (fun s => s.expertSel (s.rs a) = some (die, tag))
      (fun s => (s.setDie die { s.die die with experts := KMap.set (0, 0) (s.die die).experts tag (0, 0) }).advance) ∧
    TrapsWhen (.ecrd d a) [a] [d, blockReg d 1] (fun s => s.expertSel (s.rs a) = none) 0x02 (fun _ => 0x3B) ∧
    TrapsWhen (.ecclr a) [a] [] (fun s => s.expertSel (s.rs a) = none) 0x02 (fun _ => 0x3B)

/-! ### Messages -/

/-- 05 R135 to R138; 16 R383 to R385: a SEND or SENDM whose parameters pass its checks puts its messages on the network with
the data read then and leaves its destination empty; SENDM to nobody gives 0; RECV takes a waiting message, posts its
buffer, or reports a full list; RPROBE and RCANCEL give their results later.
Where the spec leaves a point open it follows the model's own choices of log 30. -/
def Obligations.MessageInstructions : Prop :=
  ∀ (d a b : Fin 64),
    let scr (s : State) : Nat := (s.grid s.curTeam.grid).scrBytes
    let v (s : State) : DWord := s.rs a
    let msg (s : State) : Prop := (v s).toNat < 2 ^ 54 ∧ 0 < sendLen (v s) ∧ sendLen (v s) ≤ 256 ∧ sendAddr (v s) + sendLen (v s) ≤ scr s
    let rcv (s : State) : Prop := (v s).toNat < 2 ^ 45 ∧ (recvSrc (v s) < 12 ∨ recvSrc (v s) = 15)
    let hit (s : State) : Option QMsg := s.queued s.who.teamOf (BitVec.ofNat 4 (recvSrc (v s))) (recvTag (v s))
    let later (s : State) (x : DWord) : State :=
      ((s.late (scalarReq s.who .load 8 0) (.sreg d) .scalar none fun o => { o with sval := x }).updCur (·.sempty d .pending)).advance
    Becomes (.send d a) [a] [d] (fun s => msg s ∧ sendTo (v s) < s.curTeam.cluster.length ∧ s.released s.who 0 = true)
      (fun s => ((s.awaitScalar d).1.post (v s) (sendTo (v s)) (s.awaitScalar d).2 false).advance) ∧
    Becomes (.sendm d a b) [a, b] [d]
      (fun s => msg s ∧ sendTo (v s) = 0 ∧ (s.rs b).toNat < 2 ^ 12 ∧ s.badMembers (s.rs b) = 0 ∧ s.rs b ≠ 0 ∧ s.released s.who 0 = true)
      (fun s => (((List.range 12).filter fun n => (s.rs b).getLsbD n).foldl (fun t n => t.post (v s) n (s.awaitScalar d).2 true) (s.awaitScalar d).1).advance) ∧
    Becomes (.sendm d a b) [a, b] [d] (fun s => msg s ∧ sendTo (v s) = 0 ∧ s.rs b = 0) (fun s => (s.ws d 0).advance) ∧
    (let c (s : State) : DWord := s.rs (blockReg a 1)
     let ok (s : State) : Prop := rcv s ∧ (c s).toNat < 2 ^ 25 ∧ recvBuf (v s) % 64 = 0 ∧ (c s).toNat % 8 = 0 ∧
       recvBuf (v s) + 264 ≤ scr s ∧ (c s).toNat + 8 ≤ scr s
     let core (s : State) : Core := s.core (s.coreOf s.who)
     Becomes (.recv d a) [a, blockReg a 1] [d] (fun s => ok s ∧ hit s = none ∧ (core s).posted.length < 64)
       (fun s => later (s.updCore (s.coreOf s.who) fun k => { k with posted := k.posted ++
         [⟨s.who.teamOf, BitVec.ofNat 4 (recvSrc (v s)), recvTag (v s), recvBuf (v s), (c s).toNat⟩] }) 0) ∧
     Becomes (.recv d a) [a, blockReg a 1] [d] (fun s => ok s ∧ hit s = none ∧ 64 ≤ (core s).posted.length) (fun s => later s 2) ∧
     ∀ m : QMsg, Becomes (.recv d a) [a, blockReg a 1] [d] (fun s => ok s ∧ hit s = some m)
       (fun s => later ((s.updCore (s.coreOf s.who) fun k => { k with msgq := k.msgq.filter fun x => x.place != m.place }).deliver
         s.who.teamOf (recvBuf (v s)) (c s).toNat (readBytes (core s).scratch (0x78000 + 256 * m.place) m.len) m.src m.dieBit m.tag) 1)) ∧
    Becomes (.rprobe d a) [a] [d] (fun s => rcv s ∧ recvBuf (v s) = 0 ∧ hit s = none) (fun s => later s 0) ∧
    (∀ m : QMsg, Becomes (.rprobe d a) [a] [d] (fun s => rcv s ∧ recvBuf (v s) = 0 ∧ hit s = some m)
      (fun s => later s (BitVec.ofNat 64 (m.len + 2 ^ 9 * m.src + 2 ^ 13 * m.dieBit.toNat + 2 ^ 16)))) ∧
    (let mine (s : State) (p : Posted) : Bool := p.team == s.who.teamOf && p.buf == (v s).toNat
     let posted (s : State) : List Posted := (s.core (s.coreOf s.who)).posted
     Becomes (.rcancel d a) [a] [d] (fun s => (v s).toNat < 2 ^ 25 ∧ (posted s).any (mine s) = true)
       (fun s => later (s.updCore (s.coreOf s.who) fun k => { k with posted := dropFirst (mine s) k.posted }) 1) ∧
     Becomes (.rcancel d a) [a] [d] (fun s => (v s).toNat < 2 ^ 25 ∧ (posted s).any (mine s) = false) (fun s => later s 0))

/-! ### Lane words: results -/

/-- 14 R323, R325, R326, R327: the logic, shift, bit and move operations on 32-bit words; a count of 32 or more shifts
everything out; the result is exact where every source is and of unknown bound elsewhere, moves carry their bound. -/
def Obligations.LaneWordResults : Prop :=
  ∀ w : LaneWord,
    let a (x : LaneRun) (n : Nat) : Word := (x.c.srcX w.a n).1
    let b (x : LaneRun) (n : Nat) : Word := (x.c.srcX w.b n).1
    let c (x : LaneRun) (n : Nat) : Word := (x.c.srcX w.c n).1
    let ba (x : LaneRun) (n : Nat) : Bound := (x.c.srcX w.a n).2
    let bb (x : LaneRun) (n : Nat) : Bound := (x.c.srcX w.b n).2
    let bc (x : LaneRun) (n : Nat) : Bound := (x.c.srcX w.c n).2
    let one (v : LaneRun → Nat → Word) : State → LaneRun → Nat → LaneRes := fun _ x n => writeBits (fmtD x.c.fmt) (v x n) (if ba x n = 0 then 0 else 0xFFFF)
    let two (v : LaneRun → Nat → Word) : State → LaneRun → Nat → LaneRes :=
      fun _ x n => writeBits (fmtD x.c.fmt) (v x n) (if ba x n = 0 ∧ bb x n = 0 then 0 else 0xFFFF)
    let three (v : LaneRun → Nat → Word) : State → LaneRun → Nat → LaneRes :=
      fun _ x n => writeBits (fmtD x.c.fmt) (v x n) (if ba x n = 0 ∧ bb x n = 0 ∧ bc x n = 0 then 0 else 0xFFFF)
    let imm : Word := w.c.bits.signExtend 32
    LaneResult (.vand w) (two fun x n => a x n &&& b x n) ∧ LaneResult (.vor w) (two fun x n => a x n ||| b x n) ∧
    LaneResult (.vxor w) (two fun x n => a x n ^^^ b x n) ∧ LaneResult (.vandn w) (two fun x n => a x n &&& ~~~(b x n)) ∧
    LaneResult (.vshl w) (two fun x n => a x n <<< (b x n).toNat) ∧ LaneResult (.vshr w) (two fun x n => a x n >>> (b x n).toNat) ∧
    LaneResult (.vsra w) (two fun x n => (a x n).sshiftRight (b x n).toNat) ∧
    LaneResult (.imulh w) (two fun x n => ((a x n).signExtend 64 * (b x n).signExtend 64).extractLsb' 32 32) ∧
    LaneResult (.imulhu w) (two fun x n => ((a x n).setWidth 64 * (b x n).setWidth 64).extractLsb' 32 32) ∧
    LaneResult (.iandi w) (one fun x n => a x n &&& imm) ∧ LaneResult (.iori w) (one fun x n => a x n ||| imm) ∧
    LaneResult (.ixori w) (one fun x n => a x n ^^^ imm) ∧
    LaneResult (.ishli w) (one fun x n => a x n <<< (imm.toNat % 32)) ∧ LaneResult (.ishri w) (one fun x n => a x n >>> (imm.toNat % 32)) ∧
    LaneResult (.israi w) (one fun x n => (a x n).sshiftRight (imm.toNat % 32)) ∧
    LaneResult (.popc w) (one fun x n => BitVec.ofNat 32 ((List.range 32).countP fun i => (a x n).getLsbD i)) ∧
    LaneResult (.clz w) (one fun x n => BitVec.ofNat 32 (((List.range 32).find? fun i => (a x n).getLsbD (31 - i)).getD 32)) ∧
    LaneResult (.brev w) (one fun x n => (a x n).reverse) ∧
    LaneResult (.bfe w) (two fun x n => (a x n >>> ((b x n).toNat % 32)) &&& BitVec.ofNat 32 (2 ^ min ((b x n).toNat / 256 % 64) 32 - 1)) ∧
    LaneResult (.bfi w) (three fun x n =>
      let m : Word := BitVec.ofNat 32 ((2 ^ min ((c x n).toNat / 256 % 64) 32 - 1) * 2 ^ ((c x n).toNat % 32))
      (b x n &&& ~~~m) ||| ((a x n <<< ((c x n).toNat % 32)) &&& m)) ∧
    LaneResult (.prmt w) (three fun x n => prmtW (a x n) (b x n) (c x n)) ∧
    LaneResult (.lut w) (three fun x n => lutW w.table (a x n) (b x n) (c x n)) ∧
    LaneResult (.movi w) (fun _ x _ => writeBits (fmtD x.c.fmt) (w.b.bits.extractLsb' 0 11 ++ w.c.bits) 0) ∧
    LaneResult (.vmov w) (fun _ x n => writeBits (fmtD x.c.fmt) (a x n) (ba x n)) ∧
    LaneResult (.vsel w) (fun _ x n => if x.c.srcP w.c n then writeBits (fmtD x.c.fmt) (a x n) (ba x n) else writeBits (fmtD x.c.fmt) (b x n) (bb x n)) ∧
    LaneResult (.pmovToWord w) (fun _ x n => writeBits (fmtD x.c.fmt) (if x.c.srcP w.a n then 1 else 0) 0) ∧
    LaneResult (.clrb w) (fun _ x n => writeBits (fmtD x.c.fmt) (a x n) 0)

/-- 14 R323, R316, Table 10-5: integer arithmetic is exact, then saturated under clamp 1 or wrapped; the bound is propagated,
widened by a saturation and unknown after a wrap. -/
def Obligations.LaneIntegerResults : Prop :=
  ∀ w : LaneWord,
    let a (x : LaneRun) (n : Nat) : Int := (x.c.srcI (fmtA x.c.fmt) w.a n).1
    let b (x : LaneRun) (n : Nat) : Int := (x.c.srcI (fmtB x.c.fmt) w.b n).1
    let c (x : LaneRun) (n : Nat) : Int := (x.c.srcI (fmtC x.c.fmt) w.c n).1
    let ba (x : LaneRun) (n : Nat) : Option Rat := (x.c.srcI (fmtA x.c.fmt) w.a n).2
    let bb (x : LaneRun) (n : Nat) : Option Rat := (x.c.srcI (fmtB x.c.fmt) w.b n).2
    let bc (x : LaneRun) (n : Nat) : Option Rat := (x.c.srcI (fmtC x.c.fmt) w.c n).2
    let prod (x : LaneRun) (n : Nat) : Option Rat :=
      badd (badd (bmul (some (qabs (a x n : Rat))) (bb x n)) (bmul (some (qabs (b x n : Rat))) (ba x n))) (bmul (ba x n) (bb x n))
    let out (v : LaneRun → Nat → Int) (e : LaneRun → Nat → Option Rat) : State → LaneRun → Nat → LaneRes :=
      fun _ x n => writeInt (fmtD x.c.fmt) w.clamp.toNat (v x n) (e x n)
    let sum (x : LaneRun) (n : Nat) : Option Rat := badd (ba x n) (bb x n)
    let big (x : LaneRun) (n : Nat) : Option Rat := bmax (ba x n) (bb x n)
    LaneResult (.iadd w) (out (fun x n => a x n + b x n) sum) ∧ LaneResult (.isub w) (out (fun x n => a x n - b x n) sum) ∧
    LaneResult (.imul w) (out (fun x n => a x n * b x n) prod) ∧
    LaneResult (.imad w) (out (fun x n => a x n * b x n + c x n) fun x n => badd (prod x n) (bc x n)) ∧
    LaneResult (.imin w) (out (fun x n => min (a x n) (b x n)) big) ∧ LaneResult (.imax w) (out (fun x n => max (a x n) (b x n)) big) ∧
    LaneResult (.iaddi w) (out (fun x n => a x n + (w.c.bits.signExtend 32).toInt) ba) ∧
    (let ux (x : LaneRun) (n : Nat) : Word := (x.c.srcX w.a n).1
     let uy (x : LaneRun) (n : Nat) : Word := (x.c.srcX w.b n).1
     let e (x : LaneRun) (n : Nat) : Bound := roundUpB16 (bmax (bval (x.c.srcX w.a n).2) (bval (x.c.srcX w.b n).2))
     LaneResult (.iminu w) (fun _ x n => writeBits (fmtD x.c.fmt) (BitVec.ofNat 32 (min (ux x n).toNat (uy x n).toNat)) (e x n)) ∧
     LaneResult (.imaxu w) (fun _ x n => writeBits (fmtD x.c.fmt) (BitVec.ofNat 32 (max (ux x n).toNat (uy x n).toNat)) (e x n)))

/-- 14 R317, R322; 10 R232, R241: the unit-eligible float operations: the exact products and addends go to the first
arithmetic unit of the allowance's policy whose bound it admits, with the propagated error terms of Table 10-5.
Where the spec leaves a point open it follows the model's own choices of log 17. -/
def Obligations.LaneFloatResults : Prop :=
  ∀ w : LaneWord,
    let a (x : LaneRun) (n : Nat) : FVal × Option Rat := x.c.srcF (fmtA x.c.fmt) w.a n
    let b (x : LaneRun) (n : Nat) : FVal × Option Rat := x.c.srcF (fmtB x.c.fmt) w.b n
    let c (x : LaneRun) (n : Nat) : FVal × Option Rat := x.c.srcF (fmtC x.c.fmt) w.c n
    let k : FVal := decodeF (ffmt 1) (w.c.bits.toNat % 2 ^ 16)
    let el (x : LaneRun) (n q : Nat) : FVal × Option Rat := x.c.srcFAt (fmtA x.c.fmt) w.a (w.a.sub.toNat + q) n
    let em (x : LaneRun) (n q : Nat) : FVal × Option Rat := x.c.srcFAt (fmtB x.c.fmt) w.b (w.b.sub.toNat + q) n
    let pt (x : LaneRun) (n q : Nat) : Option Rat := prodTerm (el x n q).1 (em x n q).1 (el x n q).2 (em x n q).2
    LaneResult (.fadd w) (fun _ x n => x.c.unitF n [.full, .short] false [] [(a x n).1, (b x n).1] (badd (a x n).2 (b x n).2)) ∧
    LaneResult (.fsub w) (fun _ x n => x.c.unitF n [.full, .short] false [] [(a x n).1, (b x n).1.negate] (badd (a x n).2 (b x n).2)) ∧
    LaneResult (.faddi w) (fun _ x n => x.c.unitF n [.full, .short] false [] [(a x n).1, k] (a x n).2) ∧
    LaneResult (.fmul w) (fun _ x n => x.c.unitF n [.full, .trunc] true [(a x n).1.mul (b x n).1] [] (prodTerm (a x n).1 (b x n).1 (a x n).2 (b x n).2)) ∧
    LaneResult (.fmuli w) (fun _ x n => x.c.unitF n [.full, .trunc] true [(a x n).1.mul k] [] (prodTerm (a x n).1 k (a x n).2 (some 0))) ∧
    LaneResult (.ffma w) (fun _ x n => x.c.unitF n [.full, .short, .trunc] false [(a x n).1.mul (b x n).1] [(c x n).1]
      (badd (prodTerm (a x n).1 (b x n).1 (a x n).2 (b x n).2) (c x n).2)) ∧
    LaneResult (.ffmai w) (fun _ x n => x.c.unitF n [.full, .short, .trunc] false [(a x n).1.mul (b x n).1] [k]
      (badd (prodTerm (a x n).1 (b x n).1 (a x n).2 (b x n).2) (some 0))) ∧
    LaneResult (.fdot2 w) (fun _ x n => x.c.unitF n [.full, .short, .trunc] false ((List.range 2).map fun q => (el x n q).1.mul (em x n q).1) [(c x n).1]
      (badd (badd (c x n).2 (pt x n 0)) (pt x n 1))) ∧
    LaneResult (.fdot4 w) (fun _ x n => x.c.unitF n [.full, .short, .trunc] false ((List.range 4).map fun q => (el x n q).1.mul (em x n q).1) [(c x n).1]
      (badd (badd (badd (badd (c x n).2 (pt x n 0)) (pt x n 1)) (pt x n 2)) (pt x n 3)))

/-- 14 R318, R320, R321, R330 to R332, R334, R335, R337: the other operations on floats, conversions, bounds and residues
complete with the result of their rule in every performed lane. FLDEXP takes an exponent beyond ±600 as ±600, at which every
finite value has left every format.
Where the spec leaves a point open it follows the model's own choices of log 10 and 17. -/
def Obligations.LaneOtherResults : Prop :=
  ∀ w : LaneWord,
    let a (x : LaneRun) (n : Nat) : FVal × Option Rat := x.c.srcF (fmtA x.c.fmt) w.a n
    let b (x : LaneRun) (n : Nat) : FVal × Option Rat := x.c.srcF (fmtB x.c.fmt) w.b n
    let sp (f : SpFn) : State → LaneRun → Nat → LaneRes := fun _ x n =>
      let y : FVal × Option Rat := if f = .div then b x n else (.zero false, some 0)
      let r := spValue f (rmode w.rnd.toNat) (a x n).1 y.1
      x.c.plainF n r (spBound f (rmode w.rnd.toNat) (a x n).1 y.1 r (a x n).2 y.2)
    LaneResult (.fmin w) (fun _ x n => x.c.plainF n (selMinMax false (a x n).1 (b x n).1) (bmax (a x n).2 (b x n).2)) ∧
    LaneResult (.fmax w) (fun _ x n => x.c.plainF n (selMinMax true (a x n).1 (b x n).1) (bmax (a x n).2 (b x n).2)) ∧
    LaneResult (.fclass w) (fun _ x n => writeBits (fmtD x.c.fmt) (BitVec.ofNat 32 (2 ^ classBit (fmtA x.c.fmt) (a x n).1)) (if (x.c.raw w.a n).2 = 0 then 0 else 0xFFFF)) ∧
    (let v (x : LaneRun) (n : Nat) : FVal := (a x n).1.scale (scaleOf w)
     let whole (x : LaneRun) (n : Nat) : FVal := match v x n with
       | .num q => if nearInt w.rnd.toNat q = 0 then .zero (decide (q < 0)) else .num (nearInt w.rnd.toNat q : Rat)
       | u => u
     LaneResult (.frnd w) (fun _ x n =>
       writeFloat (fmtD x.c.fmt) w.rnd.toNat w.clamp.toNat false false (whole x n) (v x n) (bmul (some (pow2 (scaleOf w))) (a x n).2) 0)) ∧
    LaneResult (.ffrac w) (fun _ x n =>
      let q := (a x n).1.toRat
      let near : Option Rat := match (a x n).2 with | some b => if (q - b).floor = (q + b).floor then some b else none | none => none
      if (a x n).1.isFinite then x.c.plainF n (FVal.ofRat (q - (q.floor : Rat))) near else x.c.plainF n .nan none) ∧
    (let k (x : LaneRun) (n : Nat) : Int := max (-600) (min 600 (x.c.srcI (fmtB x.c.fmt) w.b n).1)
     LaneResult (.fldexp w) (fun _ x n => x.c.plainF n ((a x n).1.scale (k x n))
       (if (x.c.srcI (fmtB x.c.fmt) w.b n).2 = some 0 then bmul (some (pow2 (k x n))) (a x n).2 else none))) ∧
    LaneResult (.frcp w) (sp .rcp) ∧ LaneResult (.frsq w) (sp .rsq) ∧ LaneResult (.fsqrt w) (sp .sqrt) ∧ LaneResult (.fdiv w) (sp .div) ∧
    LaneResult (.fexp2 w) (sp .exp2) ∧ LaneResult (.flog2 w) (sp .log2) ∧ LaneResult (.fsin w) (sp .sin) ∧ LaneResult (.fcos w) (sp .cos) ∧
    LaneResult (.ftanh w) (sp .tanh) ∧ LaneResult (.fsigm w) (sp .sigm) ∧
    (let lo (x : LaneRun) : Int := intLo (fmtD x.c.fmt)
     let hi (x : LaneRun) : Int := intHi (fmtD x.c.fmt)
     let y (x : LaneRun) (n : Nat) : Int := match (a x n).1 with
       | .nan | .zero _ => 0
       | .inf neg => if neg then lo x else hi x
       | .num q => max (lo x) (min (hi x) (nearInt w.rnd.toNat q))
     LaneResult (.cvtfi w) (fun _ x n =>
       { code := (y x n % 2 ^ fmtWidth (fmtD x.c.fmt)).toNat, y := some (y x n : Rat), res := none,
         bnd := roundUpB16 (if (a x n).1.isFinite then badd (a x n).2 (some (qabs ((a x n).1.toRat - (y x n : Rat)))) else none) })) ∧
    LaneResult (.scaleblk w) (fun _ x n =>
      let word := (x.c.raw w.a n).1
      let code := word.toNat / 2 ^ (fmtWidth (fmtA x.c.fmt) * w.a.sub.toNat) % 2 ^ fmtWidth (fmtA x.c.fmt)
      let v := widenPair (fmtA x.c.fmt) code ((x.c.srcX w.b n).1.toNat % 2 ^ 16)
      let v := if w.a.abs then v.abs else v
      x.c.plainF n (if w.a.neg then v.negate else v) (if (x.c.srcX w.b n).2 = 0 then bval (x.c.raw w.a n).2 else none)) ∧
    LaneResult (.cvtif w) (fun _ x n => x.c.plainF n (FVal.ofRat ((x.c.srcI (fmtA x.c.fmt) w.a n).1 : Rat)) (x.c.srcI (fmtA x.c.fmt) w.a n).2) ∧
    LaneResult (.cvtff w) (fun _ x n => x.c.plainF n (a x n).1 (a x n).2) ∧
    LaneResult (.bnd w) (fun _ x n => writeBits (fmtD x.c.fmt)
      (BitVec.ofNat 32 (encodeF (ffmt 0) (match bval (x.c.srcX w.a n).2 with | none => .inf false | some q => FVal.ofRat q))) 0) ∧
    LaneResult (.setb w) (fun _ x n => writeBits (fmtD x.c.fmt) (x.c.srcX w.a n).1
      (roundUpB16 (bmax (bval (x.c.srcX w.a n).2)
        (bval (roundUpB16 (if (b x n).1.isFinite then badd (some (qabs (b x n).1.toRat)) (b x n).2 else none)))))) ∧
    LaneResult (.efget w) (fun _ x n => writeBits (fmtD x.c.fmt) (x.c.g.res (w.a.bits.toNat % 8) n) 0)

/-- 14 R319, R324, R329; 10 R245, R246: the words that write a predicate; an uncertain outcome sets `gstat`.unc, and raises
UNCERT where the allowance asks for it. -/
def Obligations.LanePredicates : Prop :=
  ∀ w : LaneWord,
    let fa (x : LaneRun) (n : Nat) : FVal × Option Rat := x.c.srcF (fmtA x.c.fmt) w.a n
    let fb (x : LaneRun) (n : Nat) : FVal × Option Rat := x.c.srcF (fmtB x.c.fmt) w.b n
    let ia (x : LaneRun) (n : Nat) : Int × Option Rat := x.c.srcI (fmtA x.c.fmt) w.a n
    let ib (x : LaneRun) (n : Nat) : Int × Option Rat := x.c.srcI (fmtB x.c.fmt) w.b n
    let ua (x : LaneRun) (n : Nat) : Word × Bound := x.c.srcX w.a n
    let ub (x : LaneRun) (n : Nat) : Word × Bound := x.c.srcX w.b n
    let cond : Nat := w.rnd.toNat
    let int (x y : Int) (e f : Option Rat) : Bool × Bool := (condHolds cond (decide (x < y)) (decide (x = y)) false, uncertain cond (some (x : Rat)) (some (y : Rat)) e f)
    LanePredicate (.fcmp w) (fun x n => (condHolds cond ((fa x n).1.lt (fb x n).1) ((fa x n).1.eq (fb x n).1) ((fa x n).1 == .nan || (fb x n).1 == .nan),
      uncertain cond (limY (fa x n).1) (limY (fb x n).1) (fa x n).2 (fb x n).2)) ∧
    LanePredicate (.icmp w) (fun x n => int (ia x n).1 (ib x n).1 (ia x n).2 (ib x n).2) ∧
    LanePredicate (.icmpu w) (fun x n => int (ua x n).1.toNat (ub x n).1.toNat (bval (ua x n).2) (bval (ub x n).2)) ∧
    LanePredicate (.icmpi w) (fun x n => int (ia x n).1 (w.c.bits.signExtend 32).toInt (ia x n).2 (some 0)) ∧
    LanePredicate (.plop w) (fun x n => (w.table.getLsbD (4 * (x.c.srcP w.a n).toNat + 2 * (x.c.srcP w.b n).toNat + (x.c.srcP w.c n).toNat), false)) ∧
    LanePredicate (.pmovToPredicate w) (fun x n => ((ua x n).1 != 0, false))

/-- 15 R349 to R353, R355; 09 R226, R227; 14 R336, R337: the collectives over the performed lanes of a pleat, the identities,
CHKB's check and the residue and pleat registers. `foldAt` is the tree or scan of a pleat's sequence.
Where the spec leaves a point open it follows the model's own choices of log 12. -/
def Obligations.LaneCollectives : Prop :=
  ∀ w : LaneWord,
    let mates (x : LaneRun) (n : Nat) : List Nat := (lanesOf x.perf).filter fun t => t / x.c.width == n / x.c.width
    let place (x : LaneRun) (l : List Nat) : Word := BitVec.ofNat 32 (l.foldl (fun a t => a + 2 ^ (t % x.c.width)) 0)
    let out (v : State → LaneRun → Nat → Word) : State → LaneRun → Nat → LaneRes := fun s x n => writeBits (fmtD x.c.fmt) (v s x n) 0
    let same (x : LaneRun) (n : Nat) : List Nat := (mates x n).filter fun t => (x.c.srcX w.a t).1 == (x.c.srcX w.a n).1
    (w.rnd = 3 → LaneResult (.vote w) (out fun _ x n => place x ((mates x n).filter (x.c.srcP w.a)))) ∧
    (w.rnd ≠ 3 → ∀ (s : State) (x : LaneRun), laneReady (.vote w) s = some x →
      ∃ t, exec (.vote w) s = .next t ∧ laneOnly s t ∧ x.decided s.cur t.cur w.pdst.toNat fun n =>
        if w.rnd = 0 then (mates x n).all (x.c.srcP w.a) else if w.rnd = 1 then (mates x n).any (x.c.srcP w.a)
        else (mates x n).all (x.c.srcP w.a) || !(mates x n).any (x.c.srcP w.a)) ∧
    LaneResult (.vmatch w) (out fun _ x n =>
      if w.rnd = 0 then place x (same x n) else if w.rnd = 1 then BitVec.ofNat 32 (same x n).length else BitVec.ofNat 32 ((same x n).countP fun t => t < n)) ∧
    (let op := w.c.bits.toNat % 16
     let fold (scan : Bool) : State → LaneRun → Nat → LaneRes := fun s x n =>
       let excl := w.c.bits.getLsbD 4
       if op ≤ 2 then
         let r := x.folded scan excl (foldNodeF x.c op) (if op = 0 then .zero true else .inf (op = 2), some 0) (x.c.srcF (fmtA x.c.fmt) w.a) n
         writeFloat (fmtD x.c.fmt) w.rnd.toNat 0 false false r.1 r.1 r.2 0
       else if op ≤ 5 then
         let r := x.folded scan excl (foldNodeI (fmtD x.c.fmt) op) (if op = 3 then some 0 else none, some 0)
           (fun t => (some (x.c.srcI (fmtA x.c.fmt) w.a t).1, (x.c.srcI (fmtA x.c.fmt) w.a t).2)) n
         match r.1 with
         | some v => writeInt (fmtD x.c.fmt) 0 v r.2
         | none => { code := (Config.freeWord s.fresh).toNat % 2 ^ fmtWidth (fmtD x.c.fmt), bnd := 0, y := none, res := none }
       else
         let r := x.folded scan excl (foldNodeX op) (if op = 6 ∨ op = 8 then 0xFFFFFFFF else 0, 0) (x.c.srcX w.a) n
         writeBits (fmtD x.c.fmt) r.1 r.2
     LaneResult (.vreduce w) (fold false) State.bump ∧ LaneResult (.vscan w) (fold true) State.bump) ∧
    LaneResult (.lid w) (out fun s x n =>
      if w.rnd = 0 then BitVec.ofNat 32 n else if w.rnd = 1 then BitVec.ofNat 32 (n % x.c.width)
      else if w.rnd = 2 then ((s.cur.vtids[n]?).getD 0).setWidth 32 else if w.rnd = 3 then BitVec.ofNat 32 s.who.gidOf.val
      else BitVec.ofNat 32 (n / x.c.width)) ∧
    LaneResult (.lslot w) (out fun s x n => s.remapEntry s.who.teamOf (x.c.srcX w.a n).1.toNat) ∧
    (∀ (s : State) (x : LaneRun), laneReady (.chkb w) s = some x →
      let f : Nat → LaneRes := fun n => writeBits (fmtD x.c.fmt) (x.c.srcX w.a n).1 (x.c.srcX w.a n).2
      x.admits true f = true → ∃ t, exec (.chkb w) s = .next t ∧ laneOnly s t ∧ x.stored true s.cur t.cur f) ∧
    (∀ (s : State) (x : LaneRun), laneReady (.efclr w) s = some x → ∃ t, exec (.efclr w) s = .next t ∧ laneOnly s t ∧
      (∀ e n, t.cur.res e n = if e = w.dst.toNat % 8 ∧ x.perf.getLsbD n then 0 else s.cur.res e n) ∧ t.cur.vregs = s.cur.vregs ∧ t.cur.preds = s.cur.preds) ∧
    (∀ (s : State) (x : LaneRun), laneReady (.efset w) s = some x → ∃ t, exec (.efset w) s = .next t ∧ laneOnly s t ∧
      (∀ e n, t.cur.res e n = if e = w.dst.toNat % 8 ∧ x.perf.getLsbD n then
        (let v := (x.c.srcF (fmtA x.c.fmt) w.a n).1; if v.isFinite then BitVec.ofNat 32 (encodeF (ffmt 0) v) else 0) else s.cur.res e n) ∧
      t.cur.vregs = s.cur.vregs ∧ t.cur.preds = s.cur.preds) ∧
    (∀ (s : State) (x : LaneRun), laneReady (.pleat w) s = some x → ∃ t, exec (.pleat w) s = .next t ∧ laneOnly s t ∧
      (∀ g : Fin 4, t.cur.pleats.get g = if g.val = w.dst.toNat % 4 then w.c.bits.extractLsb' 0 2 else s.cur.pleats.get g) ∧
      t.cur.vregs = s.cur.vregs ∧ t.cur.preds = s.cur.preds)

/-- 14 R333; 09 R224; 10 R242: QBLK quantises the block of 32 values into its words and the scale pair of slot 31, and every
other register stays.
Where the spec leaves a point open it follows the model's own choices of log 18. -/
def Obligations.QblkResult : Prop :=
  ∀ (w : LaneWord) (s : State) (x : LaneRun), laneReady (.qblk w) s = some x →
    let pair := (qblkOf x.c).1
    let els := (qblkOf x.c).2
    let el (i : Nat) : QElem := (els[i]?).getD ⟨0, none, .nan, none⟩
    let bad := (lanesOf x.perf).any fun i => (allow x.c.alw).chkall && breaches (allow x.c.alw) (roundUpB16 (el i).bnd) (el i).y
    (bad && (allow x.c.alw).bte) = false →
    ∃ t, exec (.qblk w) s = .next t ∧ laneOnly s t ∧
      (w.dst.toNat < 112 → t.cur.vreg w.dst.toNat = qblkWrite (s.cur.vreg w.dst.toNat) (fmtD x.c.fmt) x.perf pair els) ∧
      (∀ r, r ≠ w.dst.toNat → t.cur.vreg r = s.cur.vreg r) ∧
      t.cur.gstat = if bad then s.cur.gstat ||| 2 else s.cur.gstat

/-- 10 R242, R243; 11 R256: a checked result that breaches under BTE raises BREACH in its lanes; nothing of the word
is performed: integer and float arithmetic, conversions, and QBLK, each written element of which is checked. 07 R167, R168;
15 R343, R344: misaligned lanes of a lane access raise ALIGN in those lanes, before any lane is performed.
Where the spec leaves a point open it follows the model's own choices of log 17 and 18. -/
def Obligations.LaneTraps : Prop :=
  (∀ w : LaneWord,
      let ia (x : LaneRun) (n : Nat) : Int × Option Rat := x.c.srcI (fmtA x.c.fmt) w.a n
      let ib (x : LaneRun) (n : Nat) : Int × Option Rat := x.c.srcI (fmtB x.c.fmt) w.b n
      let a (x : LaneRun) (n : Nat) : FVal × Option Rat := x.c.srcF (fmtA x.c.fmt) w.a n
      let b (x : LaneRun) (n : Nat) : FVal × Option Rat := x.c.srcF (fmtB x.c.fmt) w.b n
      let c (x : LaneRun) (n : Nat) : FVal × Option Rat := x.c.srcF (fmtC x.c.fmt) w.c n
      LaneBreaches (.iadd w) (fun _ x n => writeInt (fmtD x.c.fmt) w.clamp.toNat ((ia x n).1 + (ib x n).1) (badd (ia x n).2 (ib x n).2)) ∧
      LaneBreaches (.fadd w) (fun _ x n => x.c.unitF n [.full, .short] false [] [(a x n).1, (b x n).1] (badd (a x n).2 (b x n).2)) ∧
      LaneBreaches (.fmul w) (fun _ x n => x.c.unitF n [.full, .trunc] true [(a x n).1.mul (b x n).1] [] (prodTerm (a x n).1 (b x n).1 (a x n).2 (b x n).2)) ∧
      LaneBreaches (.ffma w) (fun _ x n => x.c.unitF n [.full, .short, .trunc] false [(a x n).1.mul (b x n).1] [(c x n).1]
        (badd (prodTerm (a x n).1 (b x n).1 (a x n).2 (b x n).2) (c x n).2)) ∧
      LaneBreaches (.cvtff w) (fun _ x n => x.c.plainF n (a x n).1 (a x n).2) ∧
      LaneBreaches (.cvtif w) (fun _ x n => x.c.plainF n (FVal.ofRat ((ia x n).1 : Rat)) (ia x n).2) ∧
      LaneBreaches (.cvtfi w) (fun _ x n => calcCvtfi x.c n)) ∧
  (∀ (w : LaneWord) (s : State) (x : LaneRun), laneReady (.qblk w) s = some x → x.b.entry.trap = false →
      let el (i : Nat) : QElem := ((qblkOf x.c).2[i]?).getD ⟨0, none, .nan, none⟩
      let bad (n : Nat) : Bool := x.perf.getLsbD n && breaches (allow x.c.alw) (roundUpB16 (el n).bnd) (el n).y
      (allow x.c.alw).chkall = true → (allow x.c.alw).bte = true → (∃ n < 32, bad n = true) →
      ∃ t l, exec (.qblk w) s = .next t ∧ l ∈ t.cur.laneTraps ∧ l.cause = 0x05 ∧ (∀ n < 32, l.mask.getLsbD n = bad n) ∧
        l.redo = x.allRedo ∧ l.word = x.q.pc ∧ t.cur.vregs = s.cur.vregs ∧ t.mem = s.mem) ∧
  ∀ w : LaneWord,
    let traps (i : Instr) (req : LaneRun → State → MemReq) : Prop :=
      ∀ (s : State) (x : LaneRun), laneReady i s = some x → x.b.entry.trap = false →
        let q := req x s
        let mis (n : Nat) : Bool := x.perf.getLsbD n && q.va n % q.bytes != 0
        (∃ n < 32, mis n = true) →
        ∃ t l, exec i s = .next t ∧ l ∈ t.cur.laneTraps ∧ l.cause = 0x0D ∧ (∀ n < 32, l.mask.getLsbD n = mis n) ∧ l.redo = x.allRedo ∧
          l.word = x.q.pc ∧ t.cur.outst = s.cur.outst ∧ t.cur.vregs = s.cur.vregs ∧ t.mem = s.mem ∧ t.cores = s.cores
    traps (.vld w) (fun x s => x.loadReq s x.c.addrGlobal) ∧ traps (.ldx w) (fun x s => x.loadReq s x.c.addrPair) ∧
    traps (.vst w) (fun x s => x.storeReq s x.c.addrGlobal) ∧ traps (.stx w) (fun x s => x.storeReq s x.c.addrPair) ∧
    traps (.lds w) (fun x s => x.loadReq s x.c.addrScratch) ∧ traps (.sts w) (fun x s => x.storeReq s x.c.addrScratch)

/-! ### Lane words: control flow -/

/-- 15 R356, R357; 05 R124 to R127: the control words of a block move, split or end the record's lanes. A divergent branch of
the only runnable record leaves two that part its lanes between the taken and the fall-through word, each to meet at the
reconvergence word. A record that jumps is marked, since the word it reaches issues alone where it is the second of a pair (12 R289). -/
def Obligations.LaneControl : Prop :=
  (∀ (w : LaneWord) (s : State) (x : LaneRun),
      let eff := s.cur.eff x.q
      let q' := { x.q with redo := none, second := false, jumped := false }
      let b' := { x.b with stack := x.b.stack.set x.pos q' }
      let j' := { x.b with stack := x.b.stack.set x.pos { q' with jumped := true } }
      let p (g : Group) : Group := if w.pair && g.pairser != BitVec.allOnes 64 then { g with pairser := g.pairser + 1 } else g
      let c := if w.pneg then ~~~(s.cur.predMask w.pred.toNat) else s.cur.predMask w.pred.toNat
      let ok := x.q.pc < w.reconv.toNat ∧ w.reconv.toNat ≤ x.q.rpc ∧ w.target.toNat < x.b.entry.len
      (laneReady (.lbr w) s = some x → ok → eff &&& c = 0 → exec (.lbr w) s = .next (s.updCur fun g => (p g).moveTo b' x.pos (x.q.pc + 1))) ∧
      (laneReady (.lbr w) s = some x → ok → eff &&& c ≠ 0 → eff &&& ~~~c = 0 → exec (.lbr w) s = .next (s.updCur fun g => (p g).moveTo j' x.pos w.target.toNat)) ∧
      (∀ st, laneReady (.lbr w) s = some x → ok → eff &&& c ≠ 0 → eff &&& ~~~c ≠ 0 → lbrStack s.cur b'.stack x.pos c w.target.toNat w.reconv.toNat = some st →
        exec (.lbr w) s = .next (s.updCur fun g => (p g).setStack b' st)) ∧
      (laneReady (.ljmp w) s = some x → w.target.toNat < x.b.entry.len → exec (.ljmp w) s = .next (s.updCur fun g => (p g).moveTo j' x.pos w.target.toNat)) ∧
      (laneReady (.lend w) s = some x → exec (.lend w) s = .next (s.updCur fun g =>
        ({ p g with fin := (p g).fin ||| (p g).eff x.q }).setStack b' (removeAt b'.stack x.pos))) ∧
      (laneReady (.lexit w) s = some x → exec (.lexit w) s = .next (s.updCur fun g =>
        ({ p g with live := (p g).live &&& ~~~((p g).eff x.q) }).setStack b' (removeAt b'.stack x.pos))) ∧
      (laneReady (.lfmt w) s = some x → fmtLegal (x.c.k (w.a.reg.toNat - 112)) = true → exec (.lfmt w) s = .next (s.updCur fun g =>
        (p g).moveTo { x.b with stack := x.b.stack.set x.pos { q' with fmt := x.c.k (w.a.reg.toNat - 112) } } x.pos (x.q.pc + 1))) ∧
      (laneReady (.lnop w) s = some x → exec (.lnop w) s = .next (s.updCur fun g => (p g).moveTo b' x.pos (x.q.pc + 1)))) ∧
  ∀ (g : Group) (q : Split) (rest st : List Split) (c : Mask) (tgt r : Nat),
    lbrStack g (q :: rest) 0 c tgt r = some st → g.eff q &&& c ≠ 0 → g.eff q &&& ~~~c ≠ 0 → tgt ≠ r → q.pc + 1 ≠ r →
    ∃ a b below, st = a :: b :: below ∧ a.pc = tgt ∧ b.pc = q.pc + 1 ∧ a.mask = g.eff q &&& c ∧ b.mask = g.eff q &&& ~~~c ∧
      a.rpc = r ∧ b.rpc = r ∧ a.sib = true ∧ a.mask &&& b.mask = 0 ∧ a.mask ||| b.mask = g.eff q ∧ a.fmt = q.fmt ∧ b.fmt = q.fmt ∧
      (r ≠ q.rpc → below = { q with pc := r } :: rest) ∧ (r = q.rpc → below = rest)

/-! ### Lane words: memory -/

/-- 15 R339, R342 to R346; 07 R167, R169, R170, R191; 12 R279: where its request can issue, a global lane load, store or
atomic issues for its performed lanes and the word is passed, with its destination empty until the result arrives; a word
performed in no lane is passed with no access. What a load takes in each lane is the value last performed at the lane's address, sign- or
zero-extended as its width says; of a sector that a peer holds, what the peer's response carries.
Where the spec leaves a point open it follows the model's own choices of log 22. -/
def Obligations.LaneGlobalAccess : Prop :=
  ∀ w : LaneWord,
    let idle (i : Instr) : Prop := LanePasses i (fun _ x => x.perf = 0) (fun s x => x.past s id)
    let load (i : Instr) (ad : LaneCtx → Nat → DWord) : Prop :=
      LanePasses i (fun s x => x.perf ≠ 0 ∧ s.requestReady (x.loadReq s (ad x.c)) none = true)
        (fun s x => x.past (s.requested (x.loadReq s (ad x.c)) none x.dest x.origin x.check) (·.emptyDest x.dest (widthRegs w.width)))
    let store (i : Instr) (ad : LaneCtx → Nat → DWord) : Prop :=
      LanePasses i (fun s x => x.perf ≠ 0 ∧ (x.storeBreach x.storeData).1 = 0 ∧ s.requestReady (x.storeReq s (ad x.c)) (laneRel w) = true)
        (fun s x => x.past (s.requested (x.storeReq s (ad x.c)) (laneRel w) .none x.origin none) id)
    let atom (i : Instr) (kind : MemKind) : Prop :=
      LanePasses i (fun s x => x.perf ≠ 0 ∧ s.requestReady (x.atomReq s kind x.c.addrGlobal) (relOf w.atomOrd w.scope) = true)
        (fun s x => x.past (s.requested (x.atomReq s kind x.c.addrGlobal) (relOf w.atomOrd w.scope) x.dest x.origin x.check) (·.emptyDest x.dest 1))
    idle (.vld w) ∧ idle (.ldx w) ∧ idle (.vst w) ∧ idle (.stx w) ∧ idle (.atom w) ∧ idle (.atomagg w) ∧
    load (.vld w) LaneCtx.addrGlobal ∧ load (.ldx w) LaneCtx.addrPair ∧ store (.vst w) LaneCtx.addrGlobal ∧ store (.stx w) LaneCtx.addrPair ∧
    atom (.atom w) (.atomic w.atomOp false) ∧ atom (.atomagg w) (.agg w.atomOp) ∧
    ∀ (s : State) (q : MemReq) (o : Outst) (lanes : Mask) (n : Fin 32) (j : Nat), q.lane = true → q.width ≠ 7 → (s.grp q.party).outst.find? (·.id == q.id) = some o →
      o.words.length = widthRegs q.width → j < widthRegs q.width → lanes.getLsbD n.val = true → s.inSave q.party (q.va n.val) = false →
      q.va n.val % widthBytes q.width = 0 →
      (∃ u v, ((s.doLoad q lanes).grp q.party).outst.find? (·.id == q.id) = some u ∧ u.words[j]? = some v ∧
        v[n].val = loadedWord q.width fun k => s.lastByte (s.placed q) n.val (4 * j + k)) ∧
      ∀ data : List Byte, 64 ≤ data.length → ∃ u v, ((s.answerLoad q lanes data).grp q.party).outst.find? (·.id == q.id) = some u ∧ u.words[j]? = some v ∧
        v[n].val = loadedWord q.width fun k => (data[q.va n.val % 64 + 4 * j + k]?).getD 0

/-- 15 R343 to R345; 07 R168, R195; 08 R200: lane loads, stores and atomics on scratch are performed at the core: a load takes
its lanes' words for a result that arrives later, a store writes its lanes in ascending slot order, and an atomic acquires once
its lanes are performed; what crosses a seam to another core's scratch is counted there (04 R97). -/
def Obligations.LaneScratchAccess : Prop :=
  ∀ w : LaneWord,
    let idle (i : Instr) : Prop := LanePasses i (fun _ x => x.perf = 0) (fun s x => x.past s id)
    let acq (s : State) : State := match laneAcq w with | some sc => s.acquireAt s.who sc.toNat | none => s
    let put (q : MemReq) (s : State) (i : Nat) : State :=
      s.scratchPut s.who.teamOf (q.va i) fun off =>
        if q.bytes < 4 then (let v := ((q.laneData i).head?).getD LaneVal.zero; secStore off q.bytes v.val.toNat v.bnd) else secWords off (q.laneData i)
    idle (.lds w) ∧ idle (.sts w) ∧ idle (.atoms w) ∧
    LanePasses (.lds w) (fun s x => x.perf ≠ 0 ∧ s.scratchFaults s.who.teamOf (x.loadReq s x.c.addrScratch) = none ∧ s.acqPending s.who true = false)
      (fun s x =>
        let q := x.loadReq s x.c.addrScratch
        let words (i : Nat) : List LaneVal := loadWords w.width ((acq s).scratchSee (acq s).who.teamOf (q.va i)).1 ((acq s).scratchSee (acq s).who.teamOf (q.va i)).2
        x.past (((acq s).haulWindow q).late q x.dest x.origin x.check fun o => { o with words := putWords o.words x.perf words }) (·.emptyDest x.dest (widthRegs w.width))) ∧
    LanePasses (.sts w) (fun s x => x.perf ≠ 0 ∧ (x.storeBreach x.storeData).1 = 0 ∧ s.scratchFaults s.who.teamOf (x.storeReq s x.c.addrScratch) = none ∧
        s.acqPending s.who true = false ∧ (∀ sc, laneRel w = some sc → s.released s.who sc = true))
      (fun s x => x.past (((lanesOf x.perf).foldl (put (x.storeReq s x.c.addrScratch)) s).haulWindow (x.storeReq s x.c.addrScratch)) id) ∧
    LanePasses (.atoms w) (fun s x => x.perf ≠ 0 ∧ s.scratchFaults s.who.teamOf (x.atomReq s (.atomic w.atomOp false) x.c.addrScratch) = none ∧
        s.acqPending s.who true = false ∧ (∀ sc, relOf w.atomOrd w.scope = some sc → s.released s.who sc = true))
      (fun s x =>
        let q := x.atomReq s (.atomic w.atomOp false) x.c.addrScratch
        let one (acc : State × List (Nat × LaneVal)) (i : Nat) : State × List (Nat × LaneVal) :=
          let r := atomLane w.atomOp.toNat (acc.1.scratchSee s.who.teamOf (q.va i)) (q.laneData i)
          ((match r.2 with
            | some v => acc.1.scratchPut s.who.teamOf (q.va i) fun off => secWords off [v]
            | none => acc.1), (i, r.1) :: acc.2)
        let all := (lanesOf x.perf).foldl one (s, [])
        let t := match q.acq with | some sc => all.1.acquireAt all.1.who sc.toNat | none => all.1
        x.past ((t.haulWindow q).late q x.dest x.origin x.check fun o =>
          { o with words := putWords o.words x.perf fun i => [((all.2.find? (·.1 == i)).map (·.2)).getD LaneVal.zero] }) (·.emptyDest x.dest 1))

/-- 15 R347, R348; 08 R205, R207: a lane STREF whose headers are there and whose checks all pass stores each lane's reference and
the word is passed; the checks are those of R207 in their order, and the store leaves the reference and its T bit at the word's
home. TLDA whose addresses are good begins its loop and the word is passed, its destinations empty and its failure predicate
awaited; an attempt reads the version, the tile and the version again, each read before an acquire: two equal even versions
give the tile's words and clear the predicate, an odd one is a failed attempt.
Where the spec leaves a point open it follows the model's own choices of log 13 and 29. -/
def Obligations.LaneReferencesAndTiles : Prop :=
  (∀ (w : LaneWord) (s : State) (x : LaneRun), laneReady (.laneStref w) s = some x →
    let h (i : Nat) : DWord := x.c.pair w.a i
    let r (i : Nat) : DWord := x.c.pair w.b i
    let reg (i : Nat) : Word := if w.dst.toNat < 112 then (x.c.g.lane w.dst.toNat i).val else 0
    let off (i : Nat) : Nat := (reg i).toNat + w.imm12.toNat
    let word (v : Nat → Word) : Vector LaneVal 32 := Vector.ofFn fun i => ⟨v i.val, 0⟩
    let q : MemReq := { x.req s .ref 8 h with
      hint := 0, x := w.imm12.setWidth 64, data := [word reg, word fun i => (r i).setWidth 32, word fun i => (r i).extractLsb' 32 32] }
    let all := (lanesOf x.perf).foldl (fun (acc : State × Bool) i =>
      let c := acc.1.refCheck s.who (h i) (off i) (r i)
      (if c = .store then acc.1.refStore s.who (h i) (off i) (r i) else acc.1, acc.2 && c == .store)) (s, true)
    s.acqPending s.who true = false → s.pageHeld q = false → (∀ sc, laneRel w = some sc → s.released s.who sc = true) →
    s.missLanes q = 0 → s.askHeader q = none → all.2 = true → exec (.laneStref w) s = .next (x.past (all.1.dropHeaders q) id)) ∧
  (∀ (s : State) (p : Party) (h r : DWord) (w pa : Nat) (o : Bool) (hdr : DWord),
    let word : DWord := h + BitVec.ofNat 64 (8 * w)
    (h.toNat % 64 ≠ 0 → s.refCheck p h w r = .align h) ∧
    (placeOk h 64 → r.toNat % 64 ≠ 0 → s.refCheck p h w r = .align r) ∧
    (h.toNat % 64 = 0 → r.toNat % 64 = 0 → 2 ^ 57 ≤ h.toNat → s.refCheck p h w r = .access h) ∧
    (placeOk h 64 → placeOk r 64 → w = 0 → s.refCheck p h w r = .access h) ∧
    (placeOk h 64 → placeOk r 64 → 0 < w → s.header p h.toNat = .is o hdr →
      let sigma := if o then fieldN hdr 37 3 else 4
      (o = true → 64 * fieldN hdr 40 24 ≤ 8 * w → s.refCheck p h w r = .access word) ∧
      ((o = true → 8 * w < 64 * fieldN hdr 40 24) → h.toNat + 8 * w < 2 ^ 57 → s.lookAt p word.toNat true = .here pa →
        (r = 0 → s.refCheck p h w r = .store) ∧
        (∀ b, r ≠ 0 → s.header p r.toNat = .is false b → s.refCheck p h w r = .access r) ∧
        (∀ b, r ≠ 0 → s.header p r.toNat = .is true b → sigma ≤ fieldN b 37 3 → s.refCheck p h w r = .store) ∧
        (∀ b, r ≠ 0 → s.header p r.toNat = .is true b → fieldN b 37 3 < sigma →
          s.refCheck p h w r = .escape (BitVec.ofNat 64 (sigma + 8 * fieldN b 37 3))) ∧
        (pa % 8 = 0 → (s.core (s.coreOf p)).cbuf = [] → (s.refStore p h w r).read64 pa = r ∧
          (s.inRegion (64 * (pa / 64)) = true → (mdT ((s.refStore p h w r).mdOf (pa / 64))).getLsbD (pa % 64 / 8) = true))))) ∧
  ∀ w : LaneWord,
    LanePasses (.tlda w) (fun _ x => x.perf = 0) (fun s x => x.past s id) ∧
    (∀ (s : State) (x : LaneRun), laneReady (.tlda w) s = some x → x.perf ≠ 0 →
      let v := x.c.kBase + w.imm12.signExtend 64
      let q : MemReq := { x.req s .load (widthBytes w.width) (fun i => v + 8 + ((x.c.srcX w.a i).1.signExtend 64 <<< w.osc.toNat)) with
        acq := some w.scope, id := s.handles + 4 }
      let qv : MemReq := { x.req s .load 8 (fun _ => v) with acq := some w.scope, id := s.handles + 4 }
      let log : MemReq := { q with kind := .tile, x := v }
      let o : Outst := { outstOf s q x.dest x.origin x.check with lanes := 0, pred := some (w.b.bits.toNat % 8, false) }
      let t : TileTry := { q := q, qv := qv, fails := 0, v1 := none, words := none, last := none, poison := none, got := [] }
      s.addrFault qv = none → s.addrFault q = none → s.pageHeld q = false → s.pageHeld qv = false → s.acqPending s.who true = false →
      (s.missLanes log = 0 ∨ (s.core (s.coreOf s.who)).olog.length < Config.ologEntries) →
      exec (.tlda w) s = .next (x.past
        (({ s with handles := s.handles + 1 }.updCur fun g => { g with outst := g.outst ++ [o], tiles := g.tiles ++ [t] }).logLanes log (s.missLanes log) x.origin)
        (·.emptyDest x.dest (widthRegs w.width)))) ∧
    ∀ (s : State) (t : TileTry) (o : Outst),
      let p := t.q.party
      let n := lowestLane t.q.lanes
      let scope := (t.q.acq.getD 0).toNat
      let after (u : State) (r : MemReq) (l : List Nat) : State :=
        l.foldl (fun u i => u.haulSector r.party (u.coreOf r.party) (r.paOf i)) (u.acquireAt r.party scope)
      let near (u : State) (r : MemReq) (i : Nat) : Prop := (u.placed r).peerOf i = none ∧ (u.seeSector (u.placed r) i).2 = none
      let ver (u : State) : DWord := (u.seeSector (u.placed t.qv) n).1.1.extractLsb' (8 * (t.qv.va n % 64)) 64
      let s1 := after s (s.placed t.qv) [n]
      let s2 := after s1 (s1.placed t.q) (lanesOf t.q.lanes)
      t ∈ (s.grp p).tiles → o ∈ (s.grp p).outst → o.id = t.q.id → t.qv.party = p → t.q.lanes ≠ 0 → t.v1 = none → t.words = none → t.poison = none →
      near s t.qv n →
      ((ver s).getLsbD 0 = true → t.fails < 63 → ∃ y ∈ ((s.tileTurn t).grp p).tiles, y.q.id = t.q.id ∧ y.fails = t.fails + 1) ∧
      ((ver s).getLsbD 0 = false → (∀ i ∈ lanesOf t.q.lanes, near s1 t.q i) → near s2 t.qv n → ver s2 = ver s →
        (∀ y ∈ ((s.tileTurn t).grp p).tiles, y.q.id ≠ t.q.id) ∧
        ∃ o' ∈ ((s.tileTurn t).grp p).outst, o'.id = o.id ∧ o'.dest = o.dest ∧ o'.lanes = t.q.lanes ∧ o'.pred = o.pred.map (fun e => (e.1, false)) ∧
          o'.words = putWords (List.replicate (widthRegs t.q.width) (Vector.replicate 32 LaneVal.zero)) t.q.lanes
            fun i => loadWords t.q.width (s1.seeSector (s1.placed t.q) i).1 (t.q.va i % 64))

/-! ### Engines of a core -/

/-- 16 R360 to R364; 07 R183, R185 to R187: a legal COPY or COPYM whose release part is performed takes its place in the copy
queue and gives its promise; to nobody COPYM gives the cycle count; a COPY whose extension's page has no translation goes into the operand log and
leaves d empty (07 R191); CWAIT completes when the copies it covers have, and raises the trap of one that stopped.
Where the spec leaves a point open it follows the model's own choices of log 6, 27 and 31 (the mark `stalled` of a wait is log 6's). -/
def Obligations.CopyInstructions : Prop :=
  ∀ (d a b : Fin 64) (x p : Bool) (s t : State) (ext : List Byte),
    let regs := blockRegs a (if x then 6 else 5)
    let ops (m : DWord) : List DWord := (List.range 5).map (s.par a) ++ [if x then s.par a 5 else 0, m]
    let plain (k : CopyKind) : Copy := s.copyWith k (ops 0) false []
    let cp (k : CopyKind) : Copy := t.copyWith k (ops 0) x ext
    let e := (s.par a 5).toNat
    let read : Prop := (x = false ∧ t = s ∧ ext = []) ∨
      (x = true ∧ placeOk (s.par a 5) 8 ∧ s.pagesHeld s.who [e, e + 47] = false ∧ s.paramNeeds s.who e 48 = none ∧ s.paramBytes s.who e 48 = .got t ext)
    let legal (k : CopyKind) : Prop := copyIll (plain k) (ops 0) [] = false ∧ copyIll (cp k) (ops 0) ext = false
    let src (k : CopyKind) : Prop := t.endCheck (cp k) (cp k).sspc (cp k).srcAt (cp k).sadr (cp k).sdims = none
    let aligned (k : CopyKind) : Prop := ∀ v m, (plain k).ev = some (v, m) → v.toNat % 8 = 0 ∧ s.absentCheck v 8 true = none
    let scr := (s.grid s.curTeam.grid).scrBytes
    let toTeams : CopyKind := .multi ((s.rs b).setWidth 12)
    let inCluster : Prop := (s.rs b).toNat < 2 ^ 12 ∧ (plain toTeams).dspc = true ∧ (s.par a 1).getLsbD 24 = false ∧
      (∀ v m, (plain toTeams).ev = some (v, m) → fieldN v 0 19 % 8 = 0 ∧ fieldN v 0 19 + 8 ≤ scr) ∧
      spanIn (cp toTeams).dadr (cp toTeams).ddims scr = true ∧ t.badMembers (s.rs b) = 0
    let toPeers : CopyKind := .peers (s.peerDevs (s.rs b))
    let atPeers : Prop := (plain toPeers).dspc = false ∧ aligned toPeers ∧ spanIn (cp toPeers).dadr (cp toPeers).ddims (2 ^ 52) = true ∧ t.badPeers (s.rs b) = 0
    (scalarReady (.copy d a x) regs [d] s = true → read → legal .copy → aligned .copy → src .copy →
      t.endCheck (cp .copy) (cp .copy).dspc (cp .copy).dstAt (cp .copy).dadr (cp .copy).ddims true = none → t.released t.who 0 = true → t.copyRoom →
      ∃ u, exec (.copy d a x) s = .next u ∧ t.copyQueued u d (cp .copy)) ∧
    (scalarReady (.copym d a b x false) (regs ++ [b]) [d] s = true → read → legal toTeams → src toTeams → inCluster →
      (s.rs b ≠ 0 → t.released t.who 0 = true → t.copyRoom → ∃ u, exec (.copym d a b x false) s = .next u ∧ t.copyQueued u d (cp toTeams)) ∧
      (s.rs b = 0 → exec (.copym d a b x false) s = .next (t.ws d (t.cyc t.who)).advance)) ∧
    (scalarReady (.copym d a b x true) (regs ++ [b]) [d] s = true → read → legal toPeers → src toPeers → atPeers →
      (s.rs b ≠ 0 → t.released t.who 0 = true → t.copyRoom → ∃ u, exec (.copym d a b x true) s = .next u ∧ t.copyQueued u d (cp toPeers)) ∧
      (s.rs b = 0 → ∃ u, exec (.copym d a b x true) s = .next u ∧ u.cur = { t.cur.ws d (t.cyc t.who) with pc := t.cur.pc + 4 } ∧ u.mem = t.mem)) ∧
    (scalarReady (.copy d a true) (blockRegs a 6) [d] s = true → x = true → copyIll (plain .copy) (ops 0) [] = false → aligned .copy → placeOk (s.par a 5) 8 →
      s.pagesHeld s.who [e, e + 47] = false → (s.paramNeeds s.who e 48).isSome = true → (∀ u y, s.paramBytes s.who e 48 ≠ .got u y) →
      s.released s.who 0 = true → s.logFull (s.coreOf s.who) = false →
      ∃ u l, exec (.copy d a true) s = .next u ∧ u.cur.sregs = (s.cur.sempty d .pending).sregs ∧ u.cur.pc = s.cur.pc + 4 ∧ u.mem = s.mem ∧
        (u.core (s.coreOf s.who)).olog = (s.core (s.coreOf s.who)).olog ++ [l] ∧ l.req.party = s.who ∧ l.req.kind = .command (.copy d a true) ∧
        l.req.ops = ops 0 ∧ l.req.va 0 = e ∧ l.req.lanes = 1) ∧
    (let mine := (s.copiesOf s.who).filter fun c => !p || c.promise.ule (s.rs a)
     let logged : Prop := ∃ l ∈ s.logOf s.who, ∃ i, l.req.kind = .command i ∧ l.req.lanes ≠ 0 ∧ (p = true → (s.cyc s.who).ule (s.rs a) = true)
     scalarReady (.cwait a p) (if p then [a] else []) [] s = true →
      (logged → exec (.cwait a p) s = .next { s with stalled := true, starved := true }) ∧
      (mine = [] → ¬ logged → exec (.cwait a p) s = .next (s.acquireAt s.who 0).advance) ∧
      ((∃ c ∈ mine, c.stopped = none) → exec (.cwait a p) s = .next { s with stalled := true, starved := true }) ∧
      (∀ c rest k i, mine = c :: rest → (∀ y ∈ mine, y.stopped.isSome = true) → ¬ logged → c.stopped = some (k, i) →
        exec (.cwait a p) s = .next ((s.dropCopy (s.coreOf s.who) c.id).scalarTrap s.who k.toNat i s.cur.pc [])))

/-- 16 R375 to R377; 06 R148, R152, R153, R161: a legal WLOAD queues its copy into the weight store and clears the directory
entries whose region it writes; WDIR writes its entry and clears others of its tag, or clears its entry; outside every phase both
raise WSPHASE, WDIR with its tag; RFSH refreshes for
the 1536 cycles from its issue, unless a refresh runs then.
Where the spec leaves a point open it follows the model's own choices of log 27 and 32. -/
def Obligations.WeightStoreInstructions : Prop :=
  ∀ (d a b : Fin 64) (s : State),
    let core := s.coreOf s.who
    let dir (t : State) (i : Nat) : DWord := KMap.get 0 (t.core core).wdir i
    let q := s.par a 1
    let r := s.par a 2
    let off := fieldN q 0 13
    let nm1 := fieldN q 13 6
    let len := fieldN q 32 32
    let c : Copy :=
      { id := 0, team := s.who.teamOf, gid := s.who.gidOf, kind := .wload off nm1, sadr := (s.par a 0).toNat, dadr := 0, sspc := false, dspc := false,
        xlen := len, ny := nm1 + 1, nz := 1, nw := 1, sstr := fieldN r 0 32, dstr := 0, szs := 0, dzs := 0, sws := 0, dws := 0,
        ev := none, promise := 0, term := 0, pos := 0, waiting := [], stopped := none, resumed := false, unbound := false, failed := none }
    (scalarReady (.wload d a) (blockRegs a 3) [d] s = true → s.stalled = false → fieldN q 19 13 = 0 → len ≠ 0 → len % 64 = 0 → 64 * off + len ≤ Config.sliceBytes →
      fieldN r 0 32 % 64 = 0 → fieldN r 32 32 = 0 → s.curCore.wphase ≠ none → (s.par a 0).toNat % 64 = 0 → (s.par a 0).toNat + nm1 * fieldN r 0 32 + len ≤ 2 ^ 57 →
      s.absentRow s.who (nm1 + 1) len (fun k => (s.par a 0).toNat + k * fieldN r 0 32) false = none → s.released s.who 0 = true → s.copyRoom →
      ∃ t, exec (.wload d a) s = .next t ∧ s.copyQueued t d c ∧ ∀ i < 64, dir t i =
        if dirValid (dir s i) ∧ 64 * dirOff (dir s i) < 64 * off + len ∧ 64 * off < 64 * dirOff (dir s i) + dirSize (dir s i) then dirClear (dir s i) else dir s i) ∧
    (scalarReady (.wdir a b) [a, b] [] s = true → (s.rs b).toNat < 64 → (dirValid (s.rs a) = true → dirOk (s.rs a) = true) → s.curCore.wphase ≠ none →
      ∃ t, exec (.wdir a b) s = .next t ∧ t.cur = { s.cur with pc := s.cur.pc + 4 } ∧ t.mem = s.mem ∧ ∀ i < 64, dir t i =
        if i = (s.rs b).toNat then (if dirValid (s.rs a) then s.rs a else dirClear (dir s i))
        else if dirValid (s.rs a) ∧ dirValid (dir s i) ∧ dirTag (dir s i) = dirTag (s.rs a) then dirClear (dir s i) else dir s i) ∧
    (scalarReady (.wload d a) (blockRegs a 3) [d] s = true → fieldN q 19 13 = 0 → len ≠ 0 → len % 64 = 0 → 64 * off + len ≤ Config.sliceBytes →
      fieldN r 0 32 % 64 = 0 → fieldN r 32 32 = 0 → s.curCore.wphase = none → exec (.wload d a) s = .next (s.scalarTrap s.who 0x14 0 s.cur.pc [])) ∧
    (scalarReady (.wdir a b) [a, b] [] s = true → (s.rs b).toNat < 64 → (dirValid (s.rs a) = true → dirOk (s.rs a) = true) → s.curCore.wphase = none →
      exec (.wdir a b) s = .next (s.scalarTrap s.who 0x14 (BitVec.ofNat 64 (dirTag (s.rs a))) s.cur.pc [])) ∧
    (scalarReady .rfsh [] [] s = true → core < Config.coreCount →
      ∃ t, exec .rfsh s = .next t ∧ t.cur = { s.cur with pc := s.cur.pc + 4 } ∧ t.mem = s.mem ∧
        (t.core core).rfshEnd = some (if s.rfshOver core = none then ((s.core core).rfshEnd).getD (s.coreCyc core + 1536) else s.coreCyc core + 1536))

/-- 16 R365 to R369, R371, R372; 06 R147, R163; 08 R204: a legal MLOOP, MZERO or MOUT takes its place in the sequencer's queue,
MGANG in that of every member; MREADY and MREADY.gang give the group's and the team's token, from which on the group's writes
are watched, and leave one that is set as it is.
Where the spec leaves a point open it follows the model's own choices of log 6 and 33 (the mark `stalled` of a wait is log 6's). -/
def Obligations.MatrixCommands : Prop :=
  ∀ (a b : Fin 64) (n : BitVec 6) (s : State),
    let slot := fieldN (s.par a 0) 0 4
    let slots := s.curTeam.accMap.length
    let room := s.curCore.seqRoom = true
    let p := s.loopOf a
    let sound : Prop := s.loopFeature p = none ∧ s.loopIll a p = false ∧ slot < slots ∧ (∀ e ∈ p.aligns, e = none) ∧ ∀ e ∈ s.loopAccess p ++ s.streamAccess p, e = none
    let stop (i : Instr) : Prop := exec i s = .next { s with stalled := true }
    (scalarReady (.mloop a) (blockRegs a 6) [] s = true → sound → s.phaseCheck p = none →
      (room → exec (.mloop a) s = .next (s.commanded slot (.loop p))) ∧ (¬ room → stop (.mloop a))) ∧
    (scalarReady (.mzero n) [] [] s = true → n.toNat < slots →
      (room → exec (.mzero n) s = .next (s.commanded n.toNat .zero)) ∧ (¬ room → stop (.mzero n))) ∧
    (scalarReady (.mzero n) [] [] s = true → slots ≤ n.toNat → exec (.mzero n) s = .next (s.scalarTrap s.who 0x17 (BitVec.ofNat 64 n.toNat) s.cur.pc [])) ∧
    (let o := s.moutOf a
     let w := s.par a 0
     let len := 4 * ceilDiv o.n (fmtElems o.ofmt.toNat)
     scalarReady (.mout a) (blockRegs a 3) [] s = true → (o.aon = true → s.feature 9 = true ∧ o.dspc = false ∧ o.dadr.toNat % 8 = 0 ∧ 8 ≤ o.dadr.toNat) →
      (o.aon = false → o.sc = 0) → o.ofmt.toNat < 14 → (8 ≤ o.ofmt.toNat → o.rnd = 0) → o.rnd.toNat ≤ 4 → fieldN w 28 36 = 0 → fieldN (s.par a 2) 32 32 = 0 →
      slot < slots → o.dadr.toNat % 4 = 0 → o.rstr % 4 = 0 →
      (o.dspc = true → ∀ i < o.m, s.scratchRowOk s.who.teamOf (o.dadr.toNat + i * o.rstr) len = true) →
      (o.dspc = false → spanIn o.dadr.toNat [(len, 1), (o.m, o.rstr)] (2 ^ 57) = true ∧ (o.aon = true → s.absent s.who (o.dadr.toNat - 8) 8 true = none) ∧
        s.absentRow s.who o.m len (fun i => o.dadr.toNat + i * o.rstr) true = none) →
      (room → exec (.mout a) s = .next (s.commanded slot (.mout o))) ∧ (¬ room → stop (.mout a))) ∧
    (scalarReady (.mgang a b) (blockRegs a 7 ++ [b]) [] s = true → sound → p.asrcReg = false → p.cmask = 0 → (s.par a 6).toNat < 2 ^ 19 → (s.rs b).toNat < 2 ^ 12 →
      (s.par a 6).toNat % 8 = 0 → (s.par a 6).toNat + 8 ≤ (s.grid s.curTeam.grid).scrBytes → s.badMembers (s.rs b) = 0 →
      (s.members (s.rs b) = [] → exec (.mgang a b) s = .next s.advance) ∧
      (s.members (s.rs b) ≠ [] → (∀ h ∈ s.members (s.rs b), (s.core (s.team h).core).seqRoom = true) →
        ∃ t, exec (.mgang a b) s = .next t ∧ t.cur = { s.cur with pc := s.cur.pc + 4 } ∧ t.mem = s.mem ∧
          t.gangs = KMap.ins s.gangs (s.handles + 4)
            { team := s.who.teamOf, gid := s.who.gidOf, slot := slot, members := s.members (s.rs b), pending := s.members (s.rs b), evoff := (s.par a 6).toNat, faults := [] })) ∧
    (scalarReady .mready [] [] s = true → s.released s.who 0 = true → s.cur.vecsQuiet = true →
      ∃ t, exec .mready s = .next t ∧ t.cur.pc = s.cur.pc + 4 ∧ t.cur.sregs = s.cur.sregs ∧ t.cur.vregs = s.cur.vregs ∧ t.mem = s.mem ∧
        (s.cur.ready.isSome = true → t = s.advance) ∧ (s.cur.ready = none → t.cur.ready = some ⟨[], []⟩ ∧ t.cur.watched = some ⟨[], []⟩)) ∧
    (scalarReady .mreadyGang [] [] s = true → s.released s.who 0 = true → s.cur.vecsQuiet = true →
      ∃ t, exec .mreadyGang s = .next t ∧ t.cur.pc = s.cur.pc + 4 ∧ t.cur.sregs = s.cur.sregs ∧ t.cur.vregs = s.cur.vregs ∧ t.mem = s.mem ∧
        (s.curTeam.gangToken.isSome = true → t = s.advance) ∧
        (s.curTeam.gangToken = none → t.curTeam.gangToken = some (s.who.gidOf, ⟨[], []⟩) ∧ t.cur.watched = some ⟨[], []⟩))

/-- 16 R370, R373; 06 R147; 08 R204: MWAIT completes when no command of the group on its slot is left, and raises the trap of
the earliest one that stopped; MLDC takes columns of a slot for vector registers that fill later, row bounds with them.
Where the spec leaves a point open it follows the model's own choices of log 6, 33, 34 and 45 (the mark `stalled` of a wait is log 6's). -/
def Obligations.MatrixResults : Prop :=
  ∀ (a : Fin 64) (n : BitVec 6) (s : State),
    let waits (i : Instr) (slot : Option Nat) : Prop :=
      let mine := s.cur.seqFaults.filter fun f => slot = none ∨ slot = some f.slot
      (s.seqBusy slot = true → exec i s = .next { s with stalled := true, starved := true }) ∧
      (s.seqBusy slot = false → mine = [] → exec i s = .next (s.settleSlots slot).advance) ∧
      (s.seqBusy slot = false → mine ≠ [] → ∃ f ∈ mine, (∀ g ∈ mine, f.id ≤ g.id) ∧
        exec i s = .next ((s.updCur fun g => { g with seqFaults := g.seqFaults.erase f }).scalarTrap s.who f.cause.toNat f.info s.cur.pc []))
    (scalarReady (.mwait n) [] [] s = true → n.toNat < s.curTeam.accMap.length → waits (.mwait n) (some n.toNat)) ∧
    (scalarReady .mwaitAll [] [] s = true → waits .mwaitAll none) ∧
    (let w := s.rs a
     let slot := fieldN w 0 4
     let vb := fieldN w 4 7
     let row := fieldN w 11 6
     let col := fieldN w 17 6
     let nc := fieldN w 23 7
     let ps := s.curTeam.accSlot slot
     scalarReady (.mldc a) [a] [] s = true → fieldN w 30 34 = 0 → row ≤ 32 → nc ≠ 0 → col + nc ≤ 64 → vb + nc ≤ s.cur.nreg → slot < s.curTeam.accMap.length →
      (∀ j < nc, (s.cur.vreg (vb + j)).full = true) →
      ∃ t, exec (.mldc a) s = .next t ∧ t.cur.pc = s.cur.pc + 4 ∧ t.cur.sregs = s.cur.sregs ∧ t.mem = s.mem ∧ (vb + nc ≤ 112 → ∀ j < nc, (t.cur.vreg (vb + j)).full = false) ∧
        ∃ o, t.cur.outst = s.cur.outst ++ [o] ∧ o.dest = .vec vb ∧ o.lanes = s.cur.live ∧ o.words.length = nc ∧
          ((∀ q ∈ s.curCore.seq ++ s.curCore.past, q.onTeam = s.who.teamOf → q.slot = slot → (∃ m, q.kind = .mout m) ∨ s.who.gidOf.val ∈ q.seen) →
            ∀ j < nc, ∀ i : Fin 32, ((o.words[j]?).map fun v => v[i]) = some ⟨s.curCore.accWord ps (row + i.val) (col + j), s.curCore.rowBound ps (row + i.val)⟩))

/-! ### Objects, publication, launches -/

/-- 16 R386 to R389; 08 R206 to R209: MKOBJ writes a header into a region that holds the object; STREF stores a reference that
passes its checks; LDHDR gives the header of an object, or 0; PUB begins a walk and leaves its destination empty.
Where the spec leaves a point open it follows the model's own choices of log 29 and 34. -/
def Obligations.ObjectInstructions : Prop :=
  ∀ (d a : Fin 64) (rel : Bool) (sc : BitVec 2) (s : State),
    let p := s.who
    let h := s.par a 0
    let len := (s.par a 1).toNat
    let parts := pageParts h.toNat (64 * len)
    (∀ places : List (Nat × Nat),
      scalarReady (.mkobj a) (blockRegs a 2) [] s = true → 0 < len → len < 2 ^ 24 → placeOk h 64 → h.toNat + 64 * len ≤ 2 ^ 57 →
      s.acqPending p false = false → s.pagesHeld p (parts.map (·.1)) = false → places.length = parts.length →
      (∀ e ∈ parts.zip places, s.lookAt p e.1.1 true = .here e.2.1 ∧ s.isHbm e.2.1 = true ∧ e.2.2 = e.1.2) →
      (∃ r ∈ s.dev.mdrgn.toList, ∀ e ∈ places, regionHolds r e.1 e.2 = true) → s.roomFor (s.coreOf p) (s.pasidOf p) [h.toNat / 64] = true →
      ∃ t u : State, exec (.mkobj a) s = .next t ∧ t = (u.putStore (s.coreOf p) p (h.toNat / 64) ((places.headD (0, 0)).1 / 64) none
          { secStore 0 8 (len * 2 ^ 40) 0 with hset := true }).advance ∧ u.mem = s.mem ∧ u.cur = s.cur ∧
        u.md = places.foldl (fun m e => clearT m (e.1 / 64) (e.2 / 64)) s.md) ∧
    (let w := len
     let r := s.par a 2
     let q : MemReq := { scalarReq p .ref 8 h with x := s.par a 1, y := r }
     scalarReady (.stref a rel sc) (blockRegs a 3) [] s = true → refFields h r = .store → s.pageHeld q = false → s.acqPending p false = false →
      (rel = true → s.released p sc.toNat = true) →
      (s.refCheck p h w r = .store → exec (.stref a rel sc) s = .next ((s.refStore p h w r).dropHeaders q).advance) ∧
      (∀ v, s.refCheck p h w r = .access v →
        exec (.stref a rel sc) s = .next ((s.dropHeaders q).scalarTrap p 0x0E ((v.extractLsb' 0 57).setWidth 64) s.cur.pc [])) ∧
      (∀ i, s.refCheck p h w r = .escape i → exec (.stref a rel sc) s = .next ((s.dropHeaders q).scalarTrap p 0x08 i s.cur.pc []))) ∧
    (∀ (o : Bool) (hdr : DWord), scalarReady (.ldhdr d a) [a] [d] s = true → placeOk (s.rs a) 64 → s.acqPending p false = false →
      s.pagesHeld p [(s.rs a).toNat] = false → s.header p (s.rs a).toNat = .is o hdr →
      let scope := match s.lookAt p (s.rs a).toNat false with | .here pa => if s.isHost pa then 3 else 2 | _ => 2
      let t := ((s.settleSector p (s.rs a).toNat).fillFor (s.coreOf p) (s.pasidOf p) (s.rs a).toNat false).updCur fun g =>
        { g with hdrs := g.hdrs.filter (·.1 != (s.rs a).toNat / 64) }
      let u := t.acquireAt p scope
      exec (.ldhdr d a) s = .next (((u.late (scalarReq u.who .load 8 0) (.sreg d) .scalar none fun x =>
        { x with sval := if o then hdr else 0 }).updCur (·.sempty d .pending)).advance)) ∧
    (∀ pa va : Nat, s.lookAt p va false = .here pa → s.poison.contains (pa / 64) = false → (s.core (s.coreOf p)).cbuf = [] →
      s.header p va = .is (mdH (s.mdOf (pa / 64))) (s.read64 pa)) ∧
    (let w := if s.par a 1 = 4 ∨ s.who.isStream then 6 else s.dieOf p
     let ver := s.par a 3
     scalarReady (.pub d a) (blockRegs a 4) [d] s = true → 0 < len → len ≤ 4 → placeOk h 64 → (s.par a 2 = 0 ∨ placeOk (s.par a 2) 8) →
      (len ≠ 4 → ver = 0) → (len = 4 → placeOk ver 8 ∧ (∃ pa, s.lookAt p ver.toNat true = .here pa ∧ s.isHostMem pa = true) ∧ s.lostBits = 0) →
      s.fenceReady 1 true (len - 1) = true → ((s.die w).walks.countP fun x => !x.stamped && !x.failed) < Config.walksMax →
      ∃ (t : State) (x : Walk), exec (.pub d a) s = .next t ∧ (t.die w).walks = (s.die w).walks ++ [x] ∧ x.sigma = len ∧ x.root = h ∧ x.rst = s.par a 2 ∧ x.ver = ver ∧ x.queue = [h] ∧
        x.party = p ∧ x.seq = nextSeq (s.die w).walkSeq ∧ t.cur.pc = s.cur.pc + 4 ∧ (d ≠ 0 → t.cur.sfull d = false) ∧ t.mem = s.mem)

/-- 16 R390, R391; 04 R83 to R85, R91, R92; 05 R140: LAUNCH of a legal record makes its grid, a record that fails a check makes a
grid that ends at once with that cause, and a full context makes it wait; JOIN of a counter at its target loads the status.
Where the spec leaves a point open it follows the model's own choices of log 35. -/
def Obligations.LaunchAndJoin : Prop :=
  ∀ (d a : Fin 64) (s t : State) (bs : List Byte),
    let ctx := BitVec.ofNat 8 (t.ctxOf t.who)
    let g := t.gridOf ctx (s.rs a) bs
    let past (u : State) : State := (u.updCur fun x => { x with wait := .none }).advance
    let full := Config.gridsPerContext ≤ t.openGrids ctx
    let read := placeOk (s.rs a) 64 ∧ s.fenceReady 1 true 3 = true ∧ s.homeSectors s.who (codeSectors (s.rs a).toNat 128) = .got t bs
    (scalarReady (.launch a) [a] [] s = true → read →
      (t.recordFault g bs = none → ¬ full → t.depEntries + g.deps.length ≤ Config.depTable →
        (∀ e ∈ (g.ccnt.toNat, true) :: g.deps.map (fun d => (d.1.toNat, false)), t.lookHub ctx.toNat e.1 e.2 ≠ .miss) →
        exec (.launch a) s = .next (past (t.takeGrid g))) ∧
      (∀ c, t.recordFault g bs = some c → ¬ full →
        exec (.launch a) s = .next (past (t.newGrid (refusedGrid { g with handed := true } (.faulted (BitVec.ofNat 8 c)))).1)) ∧
      (full → exec (.launch a) s = .next { t.updCur (fun x => { x with wait := .launch (s.rs a) g.ccnt g.stat }) with stalled := true })) ∧
    (∀ pa : Nat,
      let p := s.who
      let ea := s.par a 0
      let there := placeOk ea 8 ∧ placeOk (s.par a 2) 8 ∧ s.look (s.coreOf p) (s.pasidOf p) ea.toNat false = .here pa ∧ s.poison.contains (pa / 64) = false ∧
        s.acqPending p false = false ∧ s.pagesHeld p [ea.toNat] = false
      let r := s.readCounter p ea.toNat pa
      let q : MemReq := { scalarReq r.1.who .load 8 (s.par a 2) with acq := some 3 }
      let u := r.1.updCur fun g => { g with wait := .none }
      scalarReady (.join d a) (blockRegs a 3) [d] s = true → there →
      ((s.par a 1).toNat ≤ r.2.toNat → u.requestReady q none = true →
        ∃ v, exec (.join d a) s = .next v ∧ v.cur.pc = s.cur.pc + 4 ∧ v.cur.wait = .none ∧ (d ≠ 0 → v.cur.sfull d = false)) ∧
      (r.2.toNat < (s.par a 1).toNat → s.feature 6 = true → r.1.watchRoom (s.homeOf pa) = true →
        ∃ v, exec (.join d a) s = .next v ∧ v.cur.wait = .join ea (s.par a 1) (s.par a 2) d true ∧ v.cur.pc = s.cur.pc ∧
          v.watches = r.1.watches ++ [{ home := s.homeOf pa, party := p, pa := pa, target := s.par a 1, hit := false }]))

/-! ### Events of the host interface -/

/-- 03 R74 to R78: a reset or start request while no start runs or waits ends all work and asks for the start, which enters
state 1 where there is no work; another one is ignored with `serr` 3; a start that takes too long has failed, a warm one is repeated.
Where the spec leaves a point open it follows the model's own choices of log 36 and 45.
Completion: exec answers a next state, for every state that meets the conditions written, for each of: conventionalReset, functionLevelReset,
warmStartRequest, coldStartRequest, startTimeout. -/
def Obligations.StartEvents : Prop :=
  ∀ (v : DWord) (again : Bool),
    let idle (s : State) : Prop := s.dev.starting = false ∧ s.dev.startReq = none
    let asked (cold : Bool) (s t : State) : Prop :=
      t.dev.startReq = some (cold || s.dev.stopped || s.dev.state == 0 || s.dev.state == 9, false) ∧
        (s.grids = [] → s.streams = [] → t.dev.state = 1 ∧ t.time = 0 ∧ t.dev.recSeq = 0 ∧ t.dev.erdrop = 0 ∧ t.dev.erqSet = false)
    let busy (s : State) : State := { s with dev := { s.dev with serr := 3 } }
    let warm (s : State) : Prop := s.wrote 0x10 v ∧ v.getLsbD 0 = true ∧ v.getLsbD 1 = false
    let cold (s : State) : Prop := s.wrote 0x10 v ∧ v.getLsbD 1 = true
    Brings .conventionalReset idle (asked true) ∧ Brings .functionLevelReset idle (asked false) ∧
    Brings .warmStartRequest (fun s => warm s ∧ idle s) (asked false) ∧ Brings .coldStartRequest (fun s => cold s ∧ idle s) (asked true) ∧
    Happens .conventionalReset (fun s => ¬ idle s) busy ∧ Happens .functionLevelReset (fun s => ¬ idle s) busy ∧
    Happens .warmStartRequest (fun s => warm s ∧ ¬ idle s) (fun s => busy s.popHost) ∧
    Happens .coldStartRequest (fun s => cold s ∧ ¬ idle s) (fun s => busy s.popHost) ∧
    Brings .startTimeout (fun s => s.dev.starting = true ∧ s.dev.startReq = some (true, again)) (fun _ t => t.dev.state = 9 ∧ t.dev.startReq = none) ∧
    Brings .startTimeout (fun s => s.dev.starting = true ∧ s.dev.startReq = some (false, again)) (fun s t =>
      t.dev.state = 1 ∧ t.time = 0 ∧ t.mem = s.mem ∧
        (s.dev.wfail < 2 → t.dev.wfail = s.dev.wfail + 1 ∧ t.dev.startReq = some (false, true)) ∧ (2 ≤ s.dev.wfail → t.dev.startReq = some (true, false)))

/-- 03 R51, R52, R63, R80; 07 R181, R182: writes and reads of BAR0: the feature commit, metadata configuration and regions, the
error ring, a register of no behaviour of its own; a read of 8 bytes returns its register, and that of `dev.erdrop` clears it.
R66, R67: an access of the management cores that the filter blocks reads zero, or is dropped, and is recorded.
Where the spec leaves a point open it follows the model's own choices of log 9, 37 and 45.
Completion: exec answers a next state, for every state that meets the conditions written, for each of: featureCommit, mdcfgWrite, mdrgnWrite,
erqBaseWrite, erqSizeWrite, erdropRead, registerWrite. -/
def Obligations.HostRegisterEvents : Prop :=
  ∀ (v : DWord) (i : Fin 16) (off size n : Nat) (target : MgmtTarget) (data : List Byte),
    let vec (s : State) : BitVec 12 := s.dev.acceptLo.extractLsb' 0 12
    let fits (s : State) : Prop := v = 0 ∧ s.dev.acceptLo.extractLsb' 12 52 = 0 ∧ vec s &&& ~~~s.dev.offer = 0
    let idle (s : State) : Prop := s.dev.state ∈ [0, 7, 8, 9]
    let region (s : State) : Prop := v.getLsbD 63 = true → s.popHost.regionOk v = true
    Happens .featureCommit (fun s => s.wrote 0x48 v ∧ s.dev.state ≠ 7) (fun s => s.popHost.serr 2) ∧
    Happens .featureCommit (fun s => s.wrote 0x48 v ∧ s.dev.state = 7 ∧ ¬ fits s) (fun s => s.popHost.serr 1) ∧
    Brings .featureCommit (fun s => s.wrote 0x48 v ∧ s.dev.state = 7 ∧ fits s) (fun s t =>
      t.dev.state = 8 ∧ t.dev.accepted = vec s ∧ t.dev.acceptHi = 0 ∧ t.hostq = s.hostq.tail ∧ t.mem = s.mem) ∧
    Happens .mdcfgWrite (fun s => s.wrote 0x50 v ∧ ¬ idle s) (fun s => s.popHost.serr 2) ∧
    Happens .mdcfgWrite (fun s => s.wrote 0x50 v ∧ idle s ∧ 8 < v.toNat) (fun s => s.popHost.serr 4) ∧
    Happens .mdcfgWrite (fun s => s.wrote 0x50 v ∧ idle s ∧ v.toNat ≤ 8) (fun s => { s.popHost with dev := { s.dev with mdcfg := v.extractLsb' 0 4 } }) ∧
    Happens .mdrgnWrite (fun s => s.wrote (0x100 + 8 * i.val) v ∧ s.dev.state ≠ 7) (fun s => s.popHost.serr 2) ∧
    Happens .mdrgnWrite (fun s => s.wrote (0x100 + 8 * i.val) v ∧ s.dev.state = 7 ∧ ¬ region s) (fun s => s.popHost.serr 4) ∧
    Happens .mdrgnWrite (fun s => s.wrote (0x100 + 8 * i.val) v ∧ s.dev.state = 7 ∧ region s)
      (fun s => { s.popHost with dev := { s.dev with mdrgn := s.dev.mdrgn.set i.val (v &&& ~~~(BitVec.ofNat 64 (2 ^ 31))) } }) ∧
    Happens .erqBaseWrite (fun s => s.wrote 0x200 v ∧ s.dev.erqSet = true) (fun s => s.popHost.serr 2) ∧
    Happens .erqBaseWrite (fun s => s.wrote 0x200 v ∧ s.dev.erqSet = false ∧ v.toNat % 64 ≠ 0) (fun s => s.popHost.serr 4) ∧
    Happens .erqBaseWrite (fun s => s.wrote 0x200 v ∧ s.dev.erqSet = false ∧ v.toNat % 64 = 0) (fun s => { s.popHost with dev := { s.dev with erqBase := v } }) ∧
    Happens .erqSizeWrite (fun s => s.wrote 0x208 v ∧ (s.dev.erqSet = true ∨ s.dev.starting = true)) (fun s => s.popHost.serr 2) ∧
    Happens .erqSizeWrite (fun s => s.wrote 0x208 v ∧ s.dev.erqSet = false ∧ s.dev.starting = false ∧ v.toNat ∉ ringSizes) (fun s => s.popHost.serr 4) ∧
    Brings .erqSizeWrite (fun s => s.wrote 0x208 v ∧ s.dev.erqSet = false ∧ s.dev.starting = false ∧ v.toNat ∈ ringSizes) (fun s t =>
      t.dev.erqSet = true ∧ t.dev.erqSize = v ∧ t.dev.startBuf = [] ∧ t.mem = s.mem) ∧
    Brings .erdropRead (fun s => s.hostq.head? = some (.read off size)) (fun s t =>
      t.dev.reads = s.dev.reads ++ [if size = 8 then bytesLE 8 (s.regRead off) else List.replicate size 0] ∧
        t.dev.erdrop = (if size = 8 ∧ off = 0x220 then 0 else s.dev.erdrop) ∧ t.hostq = s.hostq.tail ∧ t.mem = s.mem) ∧
    Brings .erdropRead (fun s => s.hostq.head? = some (.mgmtRead target off size) ∧ s.dev.mgmtRestart = false ∧ s.mgmtPasses target off size false = false) (fun s t =>
      t.dev.mgmtReads = s.dev.mgmtReads ++ [List.replicate size 0] ∧ t.dev.recSeq = s.dev.recSeq + 1 ∧ t.hostq = s.hostq.tail) ∧
    Brings .erdropRead (fun s => s.hostq.head? = some (.mgmtRead .errorRing off size) ∧ s.dev.mgmtRestart = false ∧ s.mgmtPasses .errorRing off size false = true) (fun s t =>
      t.dev.mgmtReads = s.dev.mgmtReads ++ [readBytes s.iomem (s.dev.erqBase.toNat + off) size] ∧ t.dev.recSeq = s.dev.recSeq ∧ t.iomem = s.iomem) ∧
    Brings .registerWrite (fun s => s.hostq.head? = some (.mgmtWrite target off data) ∧ s.dev.mgmtRestart = false ∧ s.mgmtPasses target off data.length true = false)
      (fun s t => t.dev.sram = s.dev.sram ∧ t.dev.offer = s.dev.offer ∧ t.dev.recSeq = s.dev.recSeq + 1 ∧ t.hostq = s.hostq.tail) ∧
    Happens .registerWrite (fun s => s.hostq.head? = some (.write off size v) ∧ (size ≠ 8 ∨ off % 8 ≠ 0)) State.popHost ∧
    Happens .registerWrite (fun s => s.wrote off v ∧ off % 8 = 0 ∧ ctxWindow off = none ∧ regEvent off 8 v = .plain) (fun s => s.popHost.devWrite off v) ∧
    (n < 256 → off < 0x10000 → off % 8 = 0 → regEvent ((n + 1) * 0x10000 + off) 8 v = .plain →
      Happens .registerWrite (fun s => s.wrote ((n + 1) * 0x10000 + off) v) (fun s => s.popHost.ctxWrite n off v)) ∧
    ∀ s : State, (s.devWrite 0x218 v).dev.erqTail = v ∧ (s.dev.state = 7 → (s.devWrite 0x40 v).dev.acceptLo = v) ∧ (s.dev.state ≠ 7 → s.devWrite 0x40 v = s.serr 2) ∧
      ((s.ctx n).state = 0 → (s.ctxWrite n 0x8 v).ctx n = { s.ctx n with pasid := v.extractLsb' 0 20 } ∧ (s.ctxWrite n 0x28 v).ctx n = { s.ctx n with save := v &&& 0x01FFFFFFFFFFF000 }) ∧
      ((s.ctx n).state ≠ 0 → s.ctxWrite n 0x8 v = s.ctxErr n 1 ∧ s.ctxWrite n 0x28 v = s.ctxErr n 1)

/-- 03 R67, R71 to R73, R95 (of 04), R22 (of 01), R37 (of 02): attestation, the digest mailbox, the restart of the management
cores, and the firmware requests with the statuses of Table 3-15.
Where the spec leaves a point open it follows the model's own choices of log 8 and 37.
Completion: exec answers a next state, for every state that meets the conditions written, for each of: attReq, attestationReportWritten, mboxExt,
mboxExtensionMade, fwreqDeviceNumber, fwreqPortSet, fwreqPartitionEntry, fwreqTenantBudget, fwreqPortRetrain, fwreqSliceThreshold,
mgmtWatchdogMiss, mgmtRestartComplete. -/
def Obligations.SecurityCoreEvents : Prop :=
  ∀ v : DWord,
    let up (s : State) : Prop := s.dev.state = 7 ∨ s.dev.state = 8
    let n (s : State) (lo len : Nat) : Nat := recN s.dev.fwBytes lo len
    let request (i : Instr) (type : Nat) (named : List Nat) (st : State → Prop) (bad : State → Prop) (code : Nat) (v : State → State) : Prop :=
      Happens i (fun s => s.fwAsks type named ∧ ¬ st s) (fun s => s.fwDone 3) ∧
      Happens i (fun s => s.fwAsks type named ∧ st s ∧ bad s) (fun s => s.fwDone code) ∧
      Happens i (fun s => s.fwAsks type named ∧ st s ∧ ¬ bad s) (fun s => (v s).fwDone 0)
    Happens .attReq (fun s => s.wrote 0x448 v ∧ v = 1 ∧ up s) (fun s => { s.popHost with dev := { s.dev with attReq := true } }) ∧
    Happens .attReq (fun s => s.wrote 0x448 v ∧ ¬ (v = 1 ∧ up s)) State.popHost ∧
    Brings .attestationReportWritten (fun s => s.dev.attReq = true) (fun s t =>
      t.dev.attReq = false ∧ t.dev.msix = s.dev.msix ++ [1] ∧ t.mem = s.mem ∧ t.iomem = writeBytes s.iomem s.dev.attAddr.toNat s.reportBuffer) ∧
    Happens .mboxExt (fun s => s.wrote 0x540 v ∧ (s.dev.mboxExt = true ∨ ¬ up s)) (fun s => s.popHost.serr 2) ∧
    Happens .mboxExt (fun s => s.wrote 0x540 v ∧ s.dev.mboxExt = false ∧ up s ∧ v = 1) (fun s => { s.popHost with dev := { s.dev with mboxExt := true } }) ∧
    Happens .mboxExt (fun s => s.wrote 0x540 v ∧ s.dev.mboxExt = false ∧ up s ∧ v ≠ 1) State.popHost ∧
    Brings .mboxExtensionMade (fun s => s.dev.mboxExt = true ∧ up s) (fun s t =>
      t.dev.mboxExt = false ∧ t.dev.meas[7] = s.dev.meas[7] ++ [s.dev.mbox.toList.flatMap fun w => bytesLE 8 w.toNat] ∧
        (∀ k : Fin 8, k ≠ 7 → t.dev.meas.get k = s.dev.meas.get k) ∧ t.mem = s.mem) ∧
    request .fwreqDeviceNumber 1 [8, 9] (fun s => s.dev.state = 7) (fun s => 2 ^ 12 ≤ n s 8 2) 2
      (fun s => { s with dev := { s.dev with devNum := some (BitVec.ofNat 12 (n s 8 2)) } }) ∧
    (let wide (s : State) : Prop := 2 ^ 12 ≤ n s 8 2 ∨ 2 ^ 12 ≤ n s 10 2
     let taken (s : State) : Prop := ∃ e ∈ s.peers, e.1 ≠ n s 8 2 ∧ e.2.ports &&& BitVec.ofNat 12 (n s 10 2) ≠ 0
     Happens .fwreqPortSet (fun s => s.fwAsks 2 [8, 9, 10, 11] ∧ ¬ up s) (fun s => s.fwDone 3) ∧
     Happens .fwreqPortSet (fun s => s.fwAsks 2 [8, 9, 10, 11] ∧ up s ∧ wide s) (fun s => s.fwDone 2) ∧
     Happens .fwreqPortSet (fun s => s.fwAsks 2 [8, 9, 10, 11] ∧ up s ∧ ¬ wide s ∧ taken s) (fun s => s.fwDone 4) ∧
     Happens .fwreqPortSet (fun s => s.fwAsks 2 [8, 9, 10, 11] ∧ up s ∧ ¬ wide s ∧ ¬ taken s)
      (fun s => (s.setPeer (n s 8 2) { s.peer (n s 8 2) with ports := BitVec.ofNat 12 (n s 10 2) }).fwDone 0)) ∧
    request .fwreqPartitionEntry 3 [8, 9, 10, 11] up (fun s => 64 ≤ n s 9 1 ∨ n s 10 2 / 2 ^ 12 % 8 ≠ 0) 2
      (fun s => s.setCtx (n s 8 1) { s.ctx (n s 8 1) with partition := KMap.set 0 (s.ctx (n s 8 1)).partition (n s 9 1) (BitVec.ofNat 16 (n s 10 2)) }) ∧
    request .fwreqTenantBudget 4 (8 :: (List.range 32).map (· + 16)) up (fun s => 64 ≤ n s 8 1 ∨ 1728 < n s 16 2 % 2 ^ 11) 2
      (fun s => s.setTenant (n s 8 1) { s.tenant (n s 8 1) with budget := BitVec.ofNat 256 (n s 16 32) &&& 0xFFFF000FFFFFFFFF07FF }) ∧
    (∀ p : Fin 12, Brings .fwreqPortRetrain (fun s => s.fwAsks 5 [8] ∧ s.dev.state = 8 ∧ n s 8 1 = p.val ∧ (s.ports.get p).down = true) (fun s t =>
      (t.ports.get p).retraining = true ∧ (t.ports.get p).failed = 0 ∧ (∀ q, q ≠ p → t.ports.get q = s.ports.get q) ∧ t.dev.fwReq = false ∧ t.dev.fwRsp = 0)) ∧
    Happens .fwreqPortRetrain (fun s => s.fwAsks 5 [8] ∧ s.dev.state = 8 ∧ 12 ≤ n s 8 1) (fun s => s.fwDone 2) ∧
    (∀ p : Fin 12, Happens .fwreqPortRetrain (fun s => s.fwAsks 5 [8] ∧ s.dev.state = 8 ∧ n s 8 1 = p.val ∧ (s.ports.get p).down = false) (fun s => s.fwDone 5)) ∧
    request .fwreqSliceThreshold 6 [8, 9] up (fun s => n s 8 2 = 0) 2 (fun s => { s with dev := { s.dev with threshold := n s 8 2 } }) ∧
    Happens .mgmtWatchdogMiss (fun _ => True) (fun s => { s with dev := { s.dev with mgmtRestart := true } }) ∧
    Happens .mgmtRestartComplete (fun s => s.dev.mgmtRestart = true) (fun s => ({ s with dev := { s.dev with mgmtRestart := false } }).refuseUnknown)

/-- 03 R53 to R55, R60: contexts are enabled, set up, killed and freed; a stream starts from its record; a doorbell adds at
its counter's home, each behind those of its context that wait.
Where the spec leaves a point open it follows the model's own choices of log 9, 37 and 45; that a stopped device refuses a start with
error 6 before it looks at the context's state is an inference from R412 (log 45).
Completion: exec answers a next state, for every state that meets the conditions written, for each of: ctxEnable, ctxSetupComplete, ctxKill,
ctxKillComplete, streamStart, doorbell. -/
def Obligations.ContextEvents : Prop :=
  ∀ (v : DWord) (n : BitVec 8) (i : Fin 4) (j : Fin 16) (pa : Nat),
    let ctl (s : State) : Prop := s.wrote ((n.toNat + 1) * 0x10000) v
    let c (s : State) : Ctx := s.ctx n.toNat
    let up (s : State) : Prop := s.dev.state = 8 ∧ s.dev.startReq = none ∧ s.dev.stopped = false
    Happens .ctxEnable (fun s => ctl s ∧ v.getLsbD 0 = true ∧ v.getLsbD 1 = false ∧ (c s).state = 0 ∧ up s)
      (fun s => s.popHost.setCtx n.toNat { c s with state := 3, en := true }) ∧
    Happens .ctxEnable (fun s => ctl s ∧ v.getLsbD 0 = true ∧ v.getLsbD 1 = false ∧ (c s).state = 0 ∧ ¬ up s) (fun s => s.popHost.ctxErr n.toNat 2) ∧
    Happens .ctxEnable (fun s => ctl s ∧ v.getLsbD 0 = true ∧ v.getLsbD 1 = false ∧ (c s).state ≠ 0) State.popHost ∧
    Brings (.ctxSetupComplete n) (fun s => (c s).state = 3 ∧ s.dev.mgmtRestart = false) (fun s t =>
      c t = { c s with state := 1, heldWrites := [] } ∧ t.hostq = (c s).heldWrites.map (HeldWrite.req n.toNat) ++ s.hostq ∧ t.mem = s.mem) ∧
    Happens .ctxKill (fun s => ctl s ∧ (v.getLsbD 0 = false ∨ v.getLsbD 1 = true) ∧ ((c s).state = 1 ∨ (c s).state = 3)) (fun s => s.popHost.killCtx n.toNat) ∧
    Happens .ctxKill (fun s => ctl s ∧ (v.getLsbD 0 = false ∨ v.getLsbD 1 = true) ∧ (c s).state ≠ 1 ∧ (c s).state ≠ 3) State.popHost ∧
    (∀ s : State, s.teams = [] → s.grids = [] → s.streams = [] → c (s.killCtx n.toNat) = { c s with state := 2, en := false, heldWrites := [], bells := [], starts := [], record := [] }) ∧
    Happens (.ctxKillComplete n) (fun s => (c s).state = 2 ∧ (∀ e ∈ s.grids, e.2.ctx = n → e.2.closed = true) ∧ ∀ e ∈ s.streams, e.2.ctx ≠ n)
      (fun s => s.setCtx n.toNat { c s with state := 0 }) ∧
    (let strt (s : State) : Prop := s.wrote ((n.toNat + 1) * 0x10000 + 0x40 + 8 * i.val) v ∧ s.dev.startReq = none
     let key := 4 * n.toNat + i.val
     let live (s : State) : Prop := strt s ∧ (c s).state = 1 ∧ s.dev.stopped = false
     Happens .streamStart (fun s => strt s ∧ ((c s).state = 0 ∨ (c s).state = 2 ∨ s.dev.stopped = true)) (fun s => s.popHost.ctxErr n.toNat 6) ∧
     Happens .streamStart (fun s => strt s ∧ (c s).state = 3 ∧ s.dev.stopped = false)
      (fun s => s.popHost.setCtx n.toNat { c s with heldWrites := (c s).heldWrites ++ [.strt i v] }) ∧
     Happens .streamStart (fun s => live s ∧ (c s).starts = [] ∧ ∃ e ∈ s.streams, e.1 = key) (fun s => s.popHost.ctxErr n.toNat 3) ∧
     Happens .streamStart (fun s => live s ∧ (c s).starts = [] ∧ (∀ e ∈ s.streams, e.1 ≠ key) ∧ s.freeSlot = none) (fun s => s.popHost.ctxErr n.toNat 4) ∧
     Happens .streamStart (fun s => live s ∧ (c s).starts ≠ []) (fun s => s.popHost.setCtx n.toNat { c s with starts := (c s).starts ++ [(i, v)] }) ∧
     ∀ (slot : Nat × Nat) (bs : List Byte), Happens .streamStart (fun s => live s ∧ (c s).starts = [] ∧ (∀ e ∈ s.streams, e.1 ≠ key) ∧ s.freeSlot = some slot ∧
        s.popHost.readRecord n.toNat v.toNat (codeSectors v.toNat 64) = .inr bs)
      (fun s => (s.popHost.setCtx n.toNat { c s with record := [] }).startStream n.toNat i slot ((bs.drop (v.toNat % 64)).take 64)) ∧
      Brings .streamStart (fun s => live s ∧ (c s).starts = [] ∧ (∀ e ∈ s.streams, e.1 ≠ key) ∧ s.freeSlot = some slot ∧ s.popHost.hubLook n.toNat v.toNat false = .bad)
        (fun s t => (c t).err = 5 ∧ t.streams = s.streams ∧ t.dev.recSeq = s.dev.recSeq + 1 ∧ t.mem = s.mem) ∧
      ∀ s : State,
        let legal (a : DWord) : Prop := a.toNat % 4 = 0 ∧ a.toNat < 2 ^ 57
        let t := s.startStream n.toNat i slot bs
        let x := t.stream key
        (¬ (legal (recD bs 0) ∧ legal (recD bs 8)) → t = s.ctxErr n.toNat 7) ∧
        (legal (recD bs 0) ∧ legal (recD bs 8) →
          x.g.pc = (recD bs 0).setWidth 57 ∧ x.g.tvec = recD bs 8 ∧ (∀ k : Fin 64, 1 ≤ k.val → k.val ≤ 4 → x.g.sreg k = recD bs (8 + 8 * k.val)) ∧
            x.stat = recD bs 48 ∧ x.endc = recD bs 56 ∧ x.ctx = n ∧ (x.ccore, x.slot) = slot)) ∧
    (let ring (s : State) : Prop := s.wrote ((n.toNat + 1) * 0x10000 + 0x200 + 8 * j.val) v
     let at' (s : State) : Nat := ((c s).evaddr.get j).toNat
     Happens .doorbell (fun s => ring s ∧ ((c s).state = 0 ∨ (c s).state = 2)) (fun s => s.popHost.ctxErr n.toNat 6) ∧
     Happens .doorbell (fun s => ring s ∧ (c s).state = 3) (fun s => s.popHost.setCtx n.toNat { c s with heldWrites := (c s).heldWrites ++ [.evadd j v] }) ∧
     Happens .doorbell (fun s => ring s ∧ (c s).state = 1 ∧ (c s).bells = [] ∧ at' s % 8 ≠ 0) (fun s => s.popHost.hostFail n.toNat (at' s)) ∧
     Happens .doorbell (fun s => ring s ∧ (c s).state = 1 ∧ (c s).bells = [] ∧ at' s % 8 = 0 ∧ s.hubFlying n.toNat opAtomic = false ∧ s.hubLook n.toNat (at' s) true = .here pa)
      (fun s => (s.popHost.homeAdd pa v).carry 6 (dieOfHome (s.homeOf pa)) 8) ∧
     Happens .doorbell (fun s => ring s ∧ (c s).state = 1 ∧ ((c s).bells ≠ [] ∨ s.hubFlying n.toNat opAtomic = true ∧ at' s % 8 = 0) ∧ s.hubLook n.toNat (at' s) true = .here pa)
      (fun s => s.popHost.setCtx n.toNat { c s with bells := (c s).bells ++ [(BitVec.toNat ((c s).evaddr.get j), v)] }))

/-! ### Events of the package and of memory -/

/-- 01 R13, R14, R22 to R25, R28, R29; 02 R34; 03 R75, R79, R81, R412: seams, slice retirement, power and heat, errors and
port losses.
Where the spec leaves a point open it follows the model's own choices of log 37, 38 and 45.
Completion: exec answers a next state, for every state that meets the conditions written, for each of: seamFlit, hubSeamLoss, deviceStop,
sliceRetirement, powerLimitWrite, throtNAssert, throtNRelease, coolantExcursion, thermalShutdown, cxlPortLoss, hostPortLoss, memoryScrub,
correctedErrorReport, fatalDieError. -/
def Obligations.PackageEvents : Prop :=
  ∀ (m : Fin 10) (die : Fin 6) (sl : Fin 576) (port : Fin 4) (w bytes pa : Nat) (ok : Bool),
    let loc := locOf (sl.val / 96) (sl.val / 32 % 3) 0 sl.val (sl.val / 32) 0
    let count (s : State) : Nat := KMap.get 0 s.mp.corrected sl.val
    let due (s : State) : Prop := s.dev.threshold ≤ count s ∧ s.retiredSlice sl.val = false ∧ s.dev.stackMap.getLsbD (sl.val / 32) = true ∧
      s.mp.turnedDown.contains sl.val = false
    Brings (.seamFlit m ok bytes) (fun s => (s.seams.get m).up = true ∧ (m.val < 6 → (s.seams.get m).failed < 65)) (fun s t =>
      (ok = true → t.seams.get m = { s.seams.get m with carried := (s.seams.get m).carried + bytes, failed := 0 }) ∧
      (ok = false → t.seams.get m = { s.seams.get m with retried := (s.seams.get m).retried + 1, failed := (s.seams.get m).failed + 1 }) ∧
      (∀ k, k ≠ m → t.seams.get k = s.seams.get k) ∧ t.mem = s.mem) ∧
    Brings (.hubSeamLoss die) (fun s => (s.seams.get ⟨die.val, by omega⟩).up = true ∧ 65 ≤ (s.seams.get ⟨die.val, by omega⟩).failed)
      (fun _ t => t.dev.stopped = true ∧ (t.seams.get ⟨die.val, by omega⟩).up = false) ∧
    Happens .deviceStop (fun s => s.dev.stopped = true ∧ s.dev.state ≠ 9 ∧ s.dev.starting = false ∧ s.streams = [] ∧ ∀ e ∈ s.grids, e.2.closed = true)
      (fun s => (s.ctxs.filter fun e => e.2.state != 0).foldl (fun t e => t.killCtx e.1) { s with dev := { s.dev with state := 9 } }) ∧
    Happens (.sliceRetirement sl) (fun s => due s ∧ s.servingSlice sl.val = none) (fun s => ({ s with mp := { s.mp with turnedDown := s.mp.turnedDown ++ [sl.val] } }).report 4 1 0 loc 0 (count s) 0xFFFF 0) ∧
    (∀ k, Brings (.sliceRetirement sl) (fun s => due s ∧ s.servingSlice sl.val = some k) (fun s t =>
      t.sltOf sl.val = BitVec.ofNat 8 (0x80 + k % 32) ∧ t.mp.retired = s.mp.retired ++ [sl.val] ∧ (∀ e ∈ t.watches, e.home ≠ sl.val ∨ k = sl.val) ∧ t.mem = s.mem)) ∧
    Brings .powerLimitWrite (fun s => s.hostq.head? = some (.power w)) (fun s t =>
      t.dev.powerLimit = w ∧ (s.dev.throt = true → t.dev.clock = 800) ∧ 800 ≤ t.dev.clock ∧ t.dev.clock ≤ 1600 ∧ t.dev.clock % 100 = 0 ∧ t.hostq = s.hostq.tail ∧ t.mem = s.mem) ∧
    Brings .throtNAssert (fun s => s.dev.throt = false) (fun s t => t.dev.throt = true ∧ t.dev.clock = 800 ∧ t.mem = s.mem) ∧
    Brings .throtNRelease (fun s => s.dev.throt = true) (fun s t => t.dev.throt = false ∧ 800 ≤ t.dev.clock ∧ t.dev.clock ≤ 1600 ∧ t.mem = s.mem) ∧
    Brings .coolantExcursion (fun _ => True) (fun s t => t.dev.throt = true ∧ t.mem = s.mem ∧ (s.dev.throt = true → t = s)) ∧
    Happens .thermalShutdown (fun s => s.dev.throt = true) (fun s => s.killGrids.report 8 1 2 0 0 1 0xFFFF 0) ∧
    Brings (.cxlPortLoss port) (fun s => s.dev.cxlUp.getLsbD port.val = true ∧ port ≠ s.dev.hostPort) (fun s t =>
      t.dev.cxlUp = s.dev.cxlUp &&& ~~~(BitVec.ofNat 4 (2 ^ port.val)) ∧ t.dev.linkLost = s.dev.linkLost ||| BitVec.ofNat 16 (2 ^ (12 + port.val)) ∧
        t.dev.stopped = s.dev.stopped ∧ t.mem = s.mem) ∧
    Brings .hostPortLoss (fun s => s.dev.cxlUp.getLsbD s.dev.hostPort.val = true) (fun _ t => t.dev.stopped = true) ∧
    Brings (.memoryScrub pa) (fun s => s.paOk (64 * (pa / 64)) = true ∧ s.poison.contains (pa / 64) = true) (fun s t =>
      (∀ a, a / 64 ≠ pa / 64 → readByte t.mem a = readByte s.mem a) ∧ t.poison.contains (pa / 64) = false ∧ t.dev.recSeq = s.dev.recSeq + 1) ∧
    Brings (.memoryScrub pa) (fun s => s.paOk (64 * (pa / 64)) = true ∧ s.poison.contains (pa / 64) = false ∧ s.isHbm pa = true) (fun s t =>
      t.mem = s.mem ∧ ∀ k, k ≠ s.homeOf pa → KMap.get 0 t.mp.corrected k = KMap.get 0 s.mp.corrected k) ∧
    Brings (.correctedErrorReport sl) (fun s => s.dev.mgmtRestart = false) (fun s t =>
      t.mp.corrected = s.mp.corrected ∧ KMap.get 0 t.mp.reported sl.val = count s ∧ t.dev.recSeq = s.dev.recSeq + 1 ∧ t.mem = s.mem) ∧
    Brings (.fatalDieError die) (fun s => s.dev.dmap.getLsbD die.val = true) (fun s t =>
      t.dev.dieErr = s.dev.dieErr ||| BitVec.ofNat 6 (2 ^ die.val) ∧ t.dev.dmap = s.dev.dmap ∧ t.mem = s.mem)

/-- 02 R33; 03 R59, R65: a host write to the HBM window is performed at its homes, one outside it has no effect; a read
returns the data; a written line of host memory marks the watch entries whose counters have reached their targets.
Where the spec leaves a point open it follows the model's own choices of log 3 and 9.
Completion: exec answers a next state, for every state that meets the conditions written, for each of: cxlMemHostWrite, cxlMemHostRead,
watchedLineInvalidation. -/
def Obligations.HostMemoryEvents : Prop :=
  ∀ (pa len : Nat) (data : List Byte),
    let inside (s : State) : Prop := ∀ i < data.length, s.isHbm (pa + i) = true
    Happens .cxlMemHostWrite (fun s => s.hostq.head? = some (.memWrite pa data) ∧ inside s) (fun s => s.popHost.hostWrite pa data) ∧
    Happens .cxlMemHostWrite (fun s => s.hostq.head? = some (.memWrite pa data) ∧ ¬ inside s) State.popHost ∧
    (∀ (s : State) (a : Nat), readByte (s.hostWrite pa data).mem a = if pa ≤ a ∧ a < pa + data.length then data[a - pa]?.getD 0 else readByte s.mem a) ∧
    Brings .cxlMemHostRead (fun s => s.hostq.head? = some (.memRead pa len)) (fun s t =>
      t.dev.reads = s.dev.reads ++ [(List.range len).map fun i => if s.isHbm (pa + i) then readByte s.mem (pa + i) else 0] ∧ t.mem = s.mem ∧ t.hostq = s.hostq.tail) ∧
    Brings .watchedLineInvalidation (fun s => s.hostq.head? = some (.line pa data) ∧ ∀ i < data.length, s.isHost (pa + i) = true) (fun s t =>
      t.mem = writeBytes s.mem pa data ∧ t.hostq = s.hostq.tail ∧ t.watches.length = s.watches.length ∧
        ∀ k (h : k < s.watches.length) (h' : k < t.watches.length), t.watches[k] = { s.watches[k] with hit := t.watches[k].hit } ∧
          ((t.watches[k].hit = true) ↔ s.watches[k].hit = true ∨
            (s.watches[k].pa / 64 ∈ codeSectors pa data.length ∧ s.watches[k].target.toNat ≤ (t.read64 s.watches[k].pa).toNat)))

/-- 07 R188, R190 to R192: an invalidation enters the log of every live die; a die applies its log: the translations go at once,
and the entries whose accesses are still to be performed stay; a granted translation
enters the cache of its die and the page's requests are met; a refused one becomes a page request; a page response with no
translation refuses its page; an answer to no request is ignored.
Where the spec leaves a point open it follows the model's own choices of log 42.
Completion: exec answers a next state, for every state that meets the conditions written, for each of: atsInvalidationRequest, invalidationLogApply,
atsTranslationCompletion, pageResponse. -/
def Obligations.TranslationEvents : Prop :=
  ∀ (pasid : BitVec 20) (va size : Nat) (die : Fin 6) (d : Fin 7) (t0 : Trans),
    Brings (.atsInvalidationRequest pasid va size) (fun s => s.dev.invalWait = [] ∧ ∀ d < 6, (s.die d).invlog.length < 4096) (fun s t => t.dev.invalWait = [] ∧
      ∀ d < 6, s.dev.dmap.getLsbD d = true →
        (t.die d).invlog = (s.die d).invlog ++ [{ pasid := pasid, va := va, size := size, seq := s.handles, removed := false, ids := [], posted := [] }]) ∧
    Happens (.invalidationLogApply die) (fun s => ∃ x ∈ (s.die die.val).invlog, x.removed = false ∨ s.invalWaits die.val x = false)
      (fun s => (s.applyInvals die.val).acceptInvals s.dev.invalWait.length) ∧
    (∀ s : State, (∀ x ∈ ((s.applyInvals die.val).die die.val).invlog, x.removed = true) ∧
      ∀ x ∈ (s.die die.val).invlog, x.removed = false → ∀ y ∈ ((s.applyInvals die.val).die die.val).tcache, invalHits x y = false) ∧
    (let asked (s : State) : Prop := transFormed t0 = true ∧ ∃ r ∈ (s.die d.val).reqs, r.within t0 = true ∧ r.pri = false
     Brings (.atsTranslationCompletion d t0 false) asked (fun s t =>
      (t.die d.val).reqs = (s.die d.val).reqs.map (fun r => if r.within t0 then { r with pri := true } else r) ∧ t.mem = s.mem ∧ t.teams = s.teams) ∧
     Happens (.atsTranslationCompletion d t0 true) asked (fun s =>
      let u := s.granted d.val t0
      u.setDie d.val { u.die d.val with reqs := (u.die d.val).reqs.map fun r => if r.within t0 then { r with pri := true } else r })) ∧
    (∀ s : State, ((s.fillCache d.val t0).die d.val).reqs = (s.die d.val).reqs.filter (fun r => !r.met t0) ∧
      let met := (s.die d.val).reqs.filter (·.met t0)
      ∀ r ∈ met, ∀ y ∈ transEntries t0 (max (8192 * r.page) t0.va), y ∈ ((s.fillCache d.val t0).die d.val).tcache ∨
        65536 < (met.flatMap fun r => transEntries t0 (max (8192 * r.page) t0.va)).length) ∧
    Happens (.atsTranslationCompletion d t0 true) (fun s => transFormed t0 = true ∧ ∀ r ∈ (s.die d.val).reqs, r.within t0 = true → r.pri = true) id ∧
    (∀ granted, Happens (.pageResponse d t0 granted) (fun s => ∀ r ∈ (s.die d.val).reqs, r.within t0 = true → r.pri = false) id) ∧
    (let asked (s : State) : Prop := transFormed t0 = true ∧ ∃ r ∈ (s.die d.val).reqs, r.within t0 = true ∧ r.pri = true
     Happens (.pageResponse d t0 true) asked (fun s => s.granted d.val t0) ∧
     Happens (.pageResponse d t0 false) asked (fun s => ((s.die d.val).reqs.filter fun r => r.pri && r.within t0).foldl (fun s r => s.refusePage d.val r) s))

/-! ### Events of the links, of grids and of groups -/

/-- 02 R35 to R37, R40 to R46, R48: a right flit in order is taken and acknowledges, another is dropped and asked for again; a
port retrains, goes down or comes back; a request is performed once at its home and its answer kept; a response completes its
request, one with BUSY sends it again; a timeout sends it again, or loses the peer.
Where the spec leaves a point open it follows the model's own choices of log 15, 39 and 45.
Completion: exec answers a next state, for every state that meets the conditions written, for each of: tirsolFlitReceive, retrainEnd, lossOfSignal,
tirsolRequestArrival, tirsolResponseArrival, retransmitTimeout. -/
def Obligations.LinkEvents : Prop :=
  ∀ (port : Fin 12) (flit : Sector) (q : TReq) (peer : BitVec 12) (seq : BitVec 24) (status : BitVec 2) (applied : Bool) (data : List Byte),
    let at' (s : State) : Port := s.ports.get port
    let live (s : State) : Prop := (at' s).trained = true ∧ (at' s).down = false ∧ (at' s).retraining = false
    let right (s : State) : Prop := flitOk flit = true ∧ flitSeq flit = (at' s).lack + 1
    let others (s t : State) : Prop := (∀ k, k ≠ port → t.ports.get k = s.ports.get k) ∧ t.mem = s.mem
    Brings (.tirsolFlitReceive port flit) (fun s => live s ∧ right s) (fun s t =>
      let left := ackReplay (at' s).replay (flitAck flit)
      at' t = (({ at' s with lack := flitSeq flit, asked := false, replays := 0, replay := left,
                              resent := if left.length < (at' s).replay.length then 0 else (at' s).resent }).take flit).flush ∧ others s t) ∧
    Happens (.tirsolFlitReceive port flit) (fun s => live s ∧ ¬ right s ∧ flitOk flit = true ∧ (at' s).asked = true) id ∧
    Brings (.tirsolFlitReceive port flit) (fun s => live s ∧ ¬ right s ∧ ¬ (flitOk flit = true ∧ (at' s).asked = true)) (fun s t =>
      at' t = { (at' s).queue [(4, [])] with asked := true, replays := (at' s).replays + 1, retraining := decide (32 ≤ (at' s).replays + 1) } ∧ others s t) ∧
    Brings (.retrainEnd port true) (fun s => (at' s).retraining = true) (fun s t =>
      at' t = { at' s with retraining := false, down := false, trained := true, failed := 0, asked := false, replays := 0, resent := 0 }.flush ∧ others s t) ∧
    Brings (.retrainEnd port false) (fun s => (at' s).retraining = true ∧ (at' s).failed = 0) (fun s t => at' t = { at' s with failed := 1 } ∧ others s t) ∧
    Happens (.retrainEnd port false) (fun s => (at' s).retraining = true ∧ (at' s).failed ≠ 0)
      (fun s => (s.updPort port fun p => { p with failed := p.failed + 1 }).portDown port) ∧
    Happens (.lossOfSignal port) (fun s => (at' s).trained = true ∧ (at' s).down = false) (fun s => s.portDown port) ∧
    (∀ rest, Happens (.tirsolRequestArrival port q) (fun s => parseReq (at' s).rx = some (q, rest) ∧ ∃ n, s.dev.devNum = some n ∧ n ≠ q.dst)
        (fun s => s.updPort port fun p => { p with rx := rest }) ∧
      Brings (.tirsolRequestArrival port q) (fun s => parseReq (at' s).rx = some (q, rest) ∧ (s.dev.devNum = none ∨ s.dev.devNum = some q.dst)) (fun s t =>
      let win := (s.peer q.src.toNat).window.filter fun e => !seqLe e.seq q.ackt
      (at' t).rx = rest ∧
      ((seqLe q.seq q.ackt = true ∨ (∃ e ∈ win, e.seq = q.seq) ∨ 1024 ≤ win.length) → t.mem = s.mem ∧ (t.peer q.src.toNat).window = win) ∧
      (seqLe q.seq q.ackt = false → (∀ e ∈ win, e.seq ≠ q.seq) → (win = [] ∨ ∃ e ∈ win, seqLe q.seq e.seq = false) → win.length < 1024 →
        let u := (s.updPort port fun p => { p with rx := rest }).setPeer q.src.toNat { s.peer q.src.toNat with window := win, acked := some q.ackt }
        t.mem = (u.perform q).1.mem ∧
          (t.peer q.src.toNat).window = win ++ [{ seq := q.seq, status := BitVec.ofNat 2 (u.perform q).2.1, applied := (u.perform q).2.1 == 0, data := (u.perform q).2.2 }]))) ∧
    (let sent (s : State) (t : TSent) : Prop := (s.peer peer.toNat).sent.find? (·.seq == seq) = some t
     (∀ t, Happens (.tirsolResponseArrival peer seq 3 applied data) (fun s => sent s t) (fun s => s.transmit peer t)) ∧
     (∀ t, Happens (.tirsolResponseArrival peer seq status applied data) (fun s => sent s t ∧ status ≠ 3 ∧ t.op = opPosted) (fun s => ((s.dropSent peer seq).posted t).pumpPeer peer)) ∧
     (∀ t, Happens (.tirsolResponseArrival peer seq 0 applied data) (fun s => sent s t ∧ t.core ≠ hubUnit ∧ t.op = opRead ∧ (t.id = codeId ∨ t.id = paramId))
      (fun s => ((s.dropSent peer seq).answerSector t data).pumpPeer peer)) ∧
     (∀ t, Happens (.tirsolResponseArrival peer seq 0 applied data) (fun s => sent s t ∧ t.core ≠ hubUnit ∧ (t.op = opRead ∨ t.op = opAtomic ∨ t.op = opLaneAtomic) ∧ 4 ≤ t.id ∧
        (∀ c ∈ (s.core t.core).seq, c.id ≠ t.id) ∧ (∀ c ∈ (s.core t.core).copies, c.id ≠ t.id) ∧ ∀ u ∈ (s.grp t.party).tiles, u.q.id ≠ t.id)
      (fun s => ((s.dropSent peer seq).answerReq peer t 0 applied.toNat data).pumpPeer peer)) ∧
     (∀ (s : State), (((s.dropSent peer seq).peer peer.toNat).sent = (s.peer peer.toNat).sent.filter (·.seq != seq))) ∧
     (∀ s : State, ((s.losePeer peer).peer peer.toNat).lost = true ∧ ((s.losePeer peer).peer peer.toNat).sent = []) ∧
     (∀ t, Happens (.retransmitTimeout peer seq) (fun s => sent s t ∧ (4 ≤ t.tries ∨ s.livePorts peer = [])) (fun s => s.losePeer peer)) ∧
     (∀ t, Brings (.retransmitTimeout peer seq) (fun s => sent s t ∧ t.tries < 4 ∧ s.livePorts peer ≠ []) (fun s u =>
      (u.peer peer.toNat).sent.length = (s.peer peer.toNat).sent.length ∧ (∃ y ∈ (u.peer peer.toNat).sent, y.seq = seq ∧ y.tries = t.tries + 1 ∧ y.port ∈ s.livePorts peer) ∧
        (∀ y ∈ (s.peer peer.toNat).sent, y.seq ≠ seq → y ∈ (u.peer peer.toNat).sent) ∧ u.mem = s.mem)))

/-- 04 R87, R88, R91 to R94, R96, R98, R99, R106 to R110; 11 R263 to R265: dependences, steals and reports; a cluster is placed
at places that fit; teams are halted, saved and resumed; a grid ends with its status and its counter.
Where the spec leaves a point open it follows the model's own choices of log 16 and 40.
Completion: exec answers a next state, for every state that meets the conditions written, for each of: dependenceCounterWrite, stealMessage,
remainingCountReport, teamPlacement, preemptionRequest, teamSwap, teamHalt, teamSaveComplete, teamResume, gridEnd. -/
def Obligations.GridEvents : Prop :=
  ∀ (gh h : Nat) (i : Fin 4) (thief victim die : Fin 6) (places : List Place) (pl : Place),
    let g (s : State) : Grid := s.grid gh
    (∀ d,
      let entry (s : State) : Prop := (g s).deps[i.val]? = some d ∧ i.val ∈ (g s).unmet
      let read (s : State) : Prop := entry s ∧ s.depReported gh i.val = false ∧ s.lookHub (g s).ctx.toNat d.1.toNat false ≠ .miss
      Happens (.dependenceCounterWrite gh i) (fun s => entry s ∧ s.depReported gh i.val = true) (fun s => s.meetDep gh i.val) ∧
      Happens (.dependenceCounterWrite gh i) (fun s => read s ∧ s.depMet (g s).ctx.toNat d = true) (fun s => s.bump.meetDep gh i.val) ∧
      Happens (.dependenceCounterWrite gh i) (fun s => read s ∧ s.depMet (g s).ctx.toNat d = false) State.bump) ∧
    (∀ (s : State) (n : Nat), let t := s.meetDep gh n
      (g t).unmet = (g s).unmet.erase n ∧ ((g s).unmet.erase n = [] → (g t).handed = true) ∧ t.depReported gh n = false ∧ t.mem = s.mem ∧ t.teams = s.teams) ∧
    (let may (s : State) : Prop := (g s).handed = true ∧ (g s).closed = false ∧ thief.val ∈ s.liveDies ∧ victim.val ∈ s.liveDies ∧ thief ≠ victim ∧
       s.rangesOf gh thief.val = [] ∧ s.rangesOf gh victim.val ≠ [] ∧ thief.val ∉ (g s).turnedAway ∧
       ∀ d ∈ s.liveDies, d ≠ thief.val → d ≠ victim.val → KMap.get 0 (g s).reported d < KMap.get 0 (g s).reported victim.val
     Brings (.stealMessage gh thief victim) may (fun s t =>
      let n := countOf (s.rangesOf gh victim.val)
      (n < 2 → t = s.setGrid gh { g s with turnedAway := (g s).turnedAway ++ [thief.val] }) ∧ (2 ≤ n → countOf (t.rangesOf gh victim.val) = n - n / 2 ∧ countOf (t.rangesOf gh thief.val) = n / 2 ∧
        (∀ d, d ≠ thief.val → d ≠ victim.val → t.rangesOf gh d = s.rangesOf gh d)) ∧ t.mem = s.mem)) ∧
    Brings .remainingCountReport (fun _ => True) (fun s t => t.mem = s.mem ∧ t.teams = s.teams ∧ t.cores = s.cores) ∧
    (let may (s : State) : Prop := (g s).handed = true ∧ (g s).closed = false ∧ s.savedReady gh = false ∧ places.map (·.core) ∈ s.sites gh die.val ∧
       (∀ p ∈ places, s.placeFits gh p = true) ∧ s.admits gh (places.map (·.core)) = true ∧ s.firstInLine gh die.val = true
     ∀ k n rest, Happens (.teamPlacement gh die places) (fun s => may s ∧ s.rangesOf gh die.val = (k, n) :: rest) (fun s =>
      let left := if n ≤ 1 then rest else (k + 1, n - 1) :: rest
      let u := s.setGrid gh { g s with ranges := KMap.set [] (g s).ranges die.val left }
      (u.setDie die.val ((u.die die.val).served gh (cfgPrio (g s).cfg))).startCluster gh die.val k places)) ∧
    (∀ l, Happens (.preemptionRequest die gh) (fun s => s.hasWork gh die.val = true ∧ s.noRoom gh die.val = true ∧
        s.whenLeft.takeVictims gh die.val [] (s.victims gh die.val) = some l) (fun s => s.makeRoom gh die.val false l)) ∧
    (∀ (s : State), ∀ k ∈ s.victims gh die.val, s.movable k = true ∧ s.leaving k = false ∧ dieOfCore (s.team k).core = die.val ∧
      cfgPrio (s.grid (s.team k).grid).cfg < cfgPrio (g s).cfg) ∧
    (let on (s : State) : Nat := dieOfCore (s.team h).core
     let own (s : State) : Prop := ∃ e ∈ s.teams, e.2.grid = gh ∧ dieOfCore e.2.core = on s ∧ s.swappable e.1 = true
     Happens (.teamSwap h gh) (fun s => s.swappable h = true ∧ s.hasWork gh (on s) = true ∧ s.noRoom gh (on s) = true ∧ s.admits gh [] = true ∧
        ((s.team h).grid = gh ∨ (¬ own s ∧ cfgPrio (s.grid (s.team h).grid).cfg ≤ cfgPrio (g s).cfg))) (fun s => s.makeRoom gh (on s) true [h])) ∧
    (let free (s : State) : List Nat := s.freeSlots (s.ctxOf (.group h 0))
     Brings (.teamHalt h) (fun s => (s.team h).life = .running ∧ (∀ k ∈ s.clusterRuns h, s.leaving k = true) ∧ (∀ m ∈ s.msgs, m.team ∉ (s.team h).cluster) ∧
        (s.clusterRuns h).length ≤ (free s).length ∧ ∀ e ∈ (s.clusterRuns h).zip (free s),
          s.savePage (s.team e.1).core (s.ctx (s.ctxOf (.group h 0))).pasid [((s.ctx (s.ctxOf (.group h 0))).save.toNat + 64 * e.2, 64)] = none) (fun s t =>
      ∀ k ∈ s.clusterRuns h, (t.team k).life = .ended ∨ ((t.team k).life = .saving ∧ (t.team k).dirState = 1 ∧ (t.team k).saveSlot ∈ free s ∧
        k ∉ (t.core (t.team k).core).haltReq))) ∧
    (let ctx (s : State) : Nat := s.ctxOf (.group h 0)
     let base (s : State) : Nat := (s.ctx (ctx s)).save.toNat
     let slot (s : State) : Nat := (s.team h).saveSlot
     let ranges (s : State) : List (Nat × Nat) := (base s + 64 * slot s, 64) ::
       ((s.slotBytes h (s.imageOf h)).map fun e => (base s + slotBase (slot s) + e.1, e.2.length)) ++
         (slotOpen (s.grid (s.team h).grid).ngrp).map fun e => (base s + slotBase (slot s) + e.1, e.2)
     Brings (.teamSaveComplete h) (fun s => (s.team h).life = .saving ∧ (s.core (s.team h).core).cbuf = [] ∧ s.peerOwes h = false ∧
        s.savePage (s.team h).core (s.ctx (ctx s)).pasid (ranges s) = none)
      (fun s t => (t.team h).life = .saved ∧ (t.team h).saveSlot = slot s ∧ (t.team h).image = some (s.imageOf h) ∧ (t.team h).dirState ∈ [2, 3] ∧
        (t.team h).groups = (s.team h).groups.map Group.giveUp ∧
        (t.core (s.team h).core).posted = (s.core (s.team h).core).posted.filter (·.team != h))) ∧
    (let dir (s : State) (k : Nat) : List (Nat × Nat) := [((s.ctx (s.ctxOf (.group h 0))).save.toNat + 64 * (s.team k).saveSlot, 64)]
     let there (s : State) (core k : Nat) : Prop := s.savePage core (s.pasidOf (.group h 0)) (dir s k) = none
     Happens (.teamResume h pl) (fun s => (s.team h).life = .running ∧ (s.team h).dirState = 4 ∧ there s (s.team h).core h) (fun s => s.setDir h 0) ∧
     ∀ l straddled, Brings (.teamResume h pl) (fun s => (s.team h).life = .saved ∧ s.clusterReady h = true ∧
        (∀ k ∈ s.teamsOf (s.team h).grid, (s.team k).saveSeq < (s.team h).saveSeq → s.clusterReady k = true → k ∈ (s.team h).cluster) ∧
        s.firstInLine (s.team h).grid (dieOfCore pl.core) = true ∧ s.resumePlaces h pl = some (l, straddled) ∧ s.admits (s.team h).grid (l.map (·.2.core)) = true ∧
        ∀ e ∈ l, there s e.2.core e.1)
      (fun s t => (∀ e ∈ l, ∀ c ∈ (t.die (dieOfCore e.2.core)).claims, c.1 ≠ (s.team h).grid) ∧
        (let im := (s.team h).image.getD Core.empty
         l = [(h, pl)] → im.olog = [] → im.seq = [] → (s.core pl.core).olog = [] → (s.core pl.core).seq = [] →
          (t.team h).life = .running ∧ (t.team h).dirState = 4 ∧ (t.team h).core = pl.core ∧ (t.team h).scrBase = pl.scr ∧ (t.team h).accMap = pl.acc ∧
            (t.team h).image = none ∧
            (h ∈ (s.team h).cluster → (t.team h).far = let cfg := (s.grid (s.team h).grid).cfg; (straddled && inFar (cfgRows cfg) (cfgCols cfg) (s.team h).cc))))) ∧
    (let place (s : State) (a : DWord) (p : Nat) : Prop := s.hubLook (g s).ctx.toNat a.toNat true = .here p
     ∀ pa pb, Happens (.gridEnd gh) (fun s => (g s).closed = false ∧ ((g s).refused = true ∨ ((g s).handed = true ∧ (g s).ranges = [] ∧ s.teamsOf gh = [])) ∧
        s.gridBusy gh = false ∧ (g s).statDone = false ∧ place s (g s).stat pa ∧ place s (g s).ccnt pb)
      (fun s =>
        let stat := ((s.homeWrite pa 8 (g s).status).settleHub (pa / 64)).carry 6 (dieOfHome (s.homeOf pa)) 8
        ((((stat.homeAdd pb 1).settleHub (pb / 64)).carry 6 (dieOfHome (s.homeOf pb)) 8).forgetGrid gh).tryStart))

/-- 05 R119, R134, R140; 11 R259; 13 R310, R312: the next block of a spool, or the next trap block, starts with one record of
its lanes; a marked watch entry wakes its waiter; a poll reads the counter again; SLEEPU and PAUSE end.
Where the spec leaves a point open it follows the model's own choices of log 6, 26 and 43.
Completion: exec answers a next state, for every state that meets the conditions written, for each of: spoolEntryStart, watchEntryWake, suspPoll,
sleepuWake, demotionEnd. -/
def Obligations.GroupEvents : Prop :=
  ∀ (h : Nat) (k : Fin 16) (p : Party) (ea target : DWord) (cont : BitVec 57) (pa : Nat),
    let me : Party := .group h k
    let g (s : State) : Group := s.grp me
    (∀ e rest, Happens (.spoolEntryStart h k) (fun s => s.runs me = true ∧ (g s).block = none ∧ (g s).laneStopped = false ∧ (g s).headLate = false ∧ (g s).trapq = [] ∧ (g s).spool = e :: rest)
      (fun s => s.updGrp me fun g => { g with fin := 0 }.setStack ⟨e, []⟩
        [{ pc := 1, mask := e.mask, rpc := e.len, fmt := e.fmt, sib := false, redo := none, second := false, jumped := false, traps := [] }])) ∧
    (∀ e rest b, Brings (.spoolEntryStart h k) (fun s => s.runs me = true ∧ (g s).block = some b ∧ b.entry.trap = false ∧ (g s).pairOpen 0 = false ∧ (g s).pairOpen 1 = false ∧ (g s).trapq = e :: rest ∧ e.mask &&& (g s).live ≠ 0 ∧ e.len ≠ 1)
      (fun s t => (g t).held = some b ∧ (g t).trapq = rest ∧ (g t).heldFin = (g s).fin ∧
        ∃ c, (g t).block = some c ∧ c.entry = e ∧ c.stack.map (·.mask) = [e.mask] ∧ c.stack.map (·.pc) = [1])) ∧
    Brings (.watchEntryWake p) (fun s => s.runs p = true ∧ (∃ w ∈ s.watches, w.party = p ∧ w.hit = true) ∧ (s.grp p).wait = .susp ea target cont true) (fun _ t =>
      (t.grp p).wait = .none ∧ (t.grp p).pc = cont ∧ ∀ w ∈ t.watches, w.party ≠ p) ∧
    (let at' (s : State) : State := { s with who := p, stalled := false, starved := false }
     let there (s : State) : Prop := s.look (s.coreOf p) (s.pasidOf p) ea.toNat false = .here pa ∧ s.poison.contains (pa / 64) = false ∧
       s.acqPending p false = false ∧ s.pagesHeld p [ea.toNat] = false
     let read (s : State) : State × DWord := (at' s).readCounter p ea.toNat pa
     Brings (.suspPoll p) (fun s => s.runs p = true ∧ (s.grp p).wait = .susp ea target cont false ∧ (s.grp p).pollAt.toNat ≤ (s.cyc p).toNat ∧ there s) (fun s t =>
      (target.toNat ≤ (read s).2.toNat → (t.grp p).wait = .none ∧ (t.grp p).pc = cont) ∧
      ((read s).2.toNat < target.toNat → (t.grp p).pc = (s.grp p).pc ∧ (t.grp p).wait = .susp ea target cont ((read s).1.watchRoom (s.homeOf pa))))) ∧
    Brings (.sleepuWake p) (fun s => s.runs p = true ∧ (s.grp p).wait = .sleep target ∧ target.toNat ≤ (s.cyc p).toNat ∧ s.covered p (s.cyc p) = []) (fun s t =>
      (t.grp p).wait = .none ∧ (t.grp p).pc = (s.grp p).pc + 4 ∧ (t.grp p).sregs = (s.grp p).sregs ∧ t.mem = s.mem) ∧
    Happens (.demotionEnd p) (fun s => s.runs p = true ∧ (s.grp p).demoteEnd ≠ 0 ∧ (s.grp p).demoteEnd.toNat ≤ (s.cyc p).toNat)
      (fun s => s.updGrp p fun g => { g with demoteEnd := 0 })

/-- 05 R135 to R138: a message meets a posted buffer, or waits in the overflow queue, or is refused with an OVFQ for the receiver;
its status reaches the sender's register; OVFQ is taken by the lowest-numbered group.
Where the spec leaves a point open it follows the model's own choices of log 30.
Completion: exec answers a next state, for every state that meets the conditions written, for each of: messageArrival, sendStatusArrival, ovfqRaise. -/
def Obligations.MessageEvents : Prop :=
  ∀ (i h : Nat) (m : Msg) (k : Nat),
    (let first (s : State) : Prop := s.msgs[i]? = some m ∧ m.status = none ∧
       ∀ x ∈ s.msgs.take i, x.status = none → ¬ ((s.team x.team).core = (s.team m.team).core ∧ x.cc = m.cc ∧ (s.team x.team).cluster = (s.team m.team).cluster ∧ x.tag = m.tag)
     let src (s : State) : Team := s.team m.team
     let to' (s : State) : Core := s.core (s.team h).core
     let meets (s : State) (p : Posted) : Prop := p.team = h ∧ (p.src = 15 ∨ p.src.toNat = (src s).cc) ∧ p.tag = m.tag
     Brings (.messageArrival i) first (fun s t => t.msgs.length = s.msgs.length ∧ ∃ c, t.msgs[i]? = some { m with status := some c }) ∧
     Brings (.messageArrival i) (fun s => first s ∧ (src s).cluster[m.cc]? = some h ∧ (s.team h).life ≠ .ended ∧ ∃ p ∈ (to' s).posted, meets s p) (fun s t =>
      t.msgs[i]? = some { m with status := some 0 } ∧ (to' t).posted.length + 1 = (to' s).posted.length ∧ (to' t).msgq = (to' s).msgq) ∧
     Brings (.messageArrival i) (fun s => first s ∧ (src s).cluster[m.cc]? = some h ∧ (s.team h).life ≠ .ended ∧ (∀ p ∈ (to' s).posted, ¬ meets s p) ∧ (to' s).freePlace = some k)
      (fun s t => t.msgs[i]? = some { m with status := some 0 } ∧ (to' t).msgq = (to' s).msgq ++ [⟨k, h, m.data.length, (src s).cc, (src s).far, m.tag⟩]) ∧
     Brings (.messageArrival i) (fun s => first s ∧ (src s).cluster[m.cc]? = some h ∧ (s.team h).life = .ended) (fun _ t => t.msgs[i]? = some { m with status := some 2 }) ∧
     ∀ g rest, Brings (.messageArrival i) (fun s => first s ∧ (src s).cluster[m.cc]? = some h ∧ (s.team h).life ≠ .ended ∧ (∀ p ∈ (to' s).posted, ¬ meets s p) ∧ (to' s).freePlace = none ∧
        (s.team h).liveGroups = g :: rest) (fun s t => t.msgs[i]? = some { m with status := some 1 } ∧
      (t.grp (.group h g)).ovfq = (s.grp (.group h g)).ovfq ++ [BitVec.ofNat 64 ((src s).cc + 2 ^ 4 * (src s).far.toNat + 2 ^ 16 * m.tag.toNat)])) ∧
    (let p : Party := .group m.team m.gid
     let v : DWord := if m.multi = false then BitVec.ofNat 64 k else if k = 0 then 0 else BitVec.ofNat 64 (2 ^ m.cc)
     ∀ (d : Fin 64) (o : Outst), Brings (.sendStatusArrival i) (fun s => s.msgs[i]? = some m ∧ m.status = some k ∧ (∀ x ∈ s.msgs.eraseIdx i, x.id ≠ m.id) ∧
        (s.grp p).outst = [o] ∧ o.id = m.id ∧ o.dest = .sreg d) (fun s t =>
      t.msgs = s.msgs.eraseIdx i ∧ (t.grp p).outst = [] ∧ (d ≠ 0 → (t.grp p).sreg d = o.sval ||| v ∧ (t.grp p).sfull d = true) ∧ (∀ r, r ≠ d → (t.grp p).sreg r = (s.grp p).sreg r))) ∧
    Brings (.sendStatusArrival i) (fun s => s.msgs[i]? = some m ∧ m.status = some k) (fun s t => t.msgs = s.msgs.eraseIdx i ∧ t.mem = s.mem) ∧
    (∀ g rest x more, Brings (.ovfqRaise h) (fun s => (s.team h).liveGroups = g :: rest ∧ s.runs (.group h g) = true ∧ (s.grp (.group h g)).ovfq = x :: more ∧
        (s.grp (.group h g)).inh = false ∧ (s.grp (.group h g)).rdv = none ∧ (s.grp (.group h g)).vec ≠ 0) (fun s t =>
      (t.grp (.group h g)).ovfq = more ∧ (t.grp (.group h g)).tinfo = x ∧ (t.grp (.group h g)).pc = (s.grp (.group h g)).vec ∧
        (t.grp (.group h g)).tret = (s.grp (.group h g)).pc.setWidth 64))

/-! ### Events of the memory system and of the engines -/

/-- 05 R115; 07 R170, R193; 08 R200, R202; 10 R236: a buffered sector is performed at its home, and no other byte changes; an
atomic is performed at its home; a result with nothing left to wait for fills its register; a probe drains the named core.
Where the spec leaves a point open it follows the model's own choices of log 20 and 43.
Completion: exec answers a next state, for every state that meets the conditions written, for each of: coalescingBufferDrain, atomicAtHome,
memoryResponseArrival, sacqpProbe. -/
def Obligations.MemoryEvents : Prop :=
  ∀ (core i : Nat) (p : Party) (e : CbEntry) (q : MemReq) (o : Outst) (d : Fin 64),
    Happens (.coalescingBufferDrain core i) (fun s => (s.core core).cbuf[i]? = some e ∧ s.canDrain e = true) (fun s => (s.drainEntry core e).replayCore core) ∧
    (e.peer = none → ∀ (s : State) (a : Nat), s.canDrain e = true ∧ readByte (s.drainEntry core e).mem a =
      if a / 64 = e.pa ∧ e.store.mask.getLsbD (a % 64) = true then e.store.data.byte (a % 64) else readByte s.mem a) ∧
    (∀ op wide, q.atomOp = some (op, wide) → (∀ n < 32, q.peerOf n = none) → Happens (.atomicAtHome i) (fun s => s.atoms[i]? = some q) (fun s =>
      let t : State := (lanesOf q.lanes).foldl (fun s n => s.atomAt q op wide n) { s with atoms := s.atoms.eraseIdx i }
      t.acqDone q)) ∧
    (∀ (s : State) (op pa : Nat) (x y : DWord), pa % 8 = 0 →
      let old := (readSector s.mem (pa / 64)).extractLsb' (8 * (pa % 64)) 64
      (s.homeAtom64 op pa x y).2 = old ∧
      (∀ a, (a < pa ∨ pa + 8 ≤ a) → readByte (s.homeAtom64 op pa x y).1.mem a = readByte s.mem a) ∧
      (∀ n < 8, readByte (s.homeAtom64 op pa x y).1.mem (pa + n) =
        (match op with | 9 => if old = x then y else old | _ => atomInt op old x).extractLsb' (8 * n) 8)) ∧
    Brings (.memoryResponseArrival p i) (fun s => s.runs p = true ∧ (s.grp p).outst[i]? = some o ∧ s.pendingId p o.id = false ∧ s.lateTrap p o = none ∧ o.dest = .sreg d ∧ d ≠ 0 ∧ o.check = none)
      (fun s t => (t.grp p).sreg d = o.sval ∧ (t.grp p).sfull d = true ∧ (∀ r, r ≠ d → (t.grp p).sreg r = (s.grp p).sreg r) ∧
        (t.grp p).outst = (s.grp p).outst.filter (·.id != o.id) ∧ (t.grp p).vregs = (s.grp p).vregs ∧ t.mem = s.mem) ∧
    (∀ v w, Brings (.memoryResponseArrival p i) (fun s => s.runs p = true ∧ (s.grp p).outst[i]? = some o ∧ s.pendingId p o.id = false ∧ s.lateTrap p o = none ∧ o.dest = .vec v ∧ v < 112 ∧ o.words = [w])
      (fun s t => ((t.grp p).vreg v).full = true ∧ (∀ n : Fin 32, ((t.grp p).vreg v).lanes[n] = if o.lanes.getLsbD n.val then w[n] else ((s.grp p).vreg v).lanes[n]) ∧
        (∀ r, r ≠ v → (t.grp p).vreg r = (s.grp p).vreg r) ∧ (t.grp p).sregs = (s.grp p).sregs ∧ t.mem = s.mem)) ∧
    (∀ n,
      let at' (s : State) : Prop := s.probes[i]? = some (n, q) ∧ s.runs q.party = true ∧ (∀ e ∈ (s.core n).olog, e.req.lanes = 0) ∧
        (s.missLanes q = 0 ∨ (s.core (s.coreOf q.party)).olog.length < Config.ologEntries)
      let u (s : State) : State := { s with who := q.party }.drainAll n (s.core n).cbuf
      let gone (s : State) : Prop := ((u s).core n).cbuf = [] ∧ (u s).postedFrom n (fun _ => true) = false
      let t (s : State) : State := { u s with probes := (u s).probes.eraseIdx i }
      Happens (.sacqpProbe i) (fun s => at' s ∧ gone s ∧ ∀ j < 32, (t s).lookLane q j ≠ .bad) (fun s => (((t s).doLanes q).logLanes q (s.missLanes q) .scalar).acqDone q) ∧
      Happens (.sacqpProbe i) (fun s => at' s ∧ ¬ gone s ∧ ((u s).core n).cbuf.length < (s.core n).cbuf.length) u)

/-- 07 R183, R184, R187; 06 R160 to R162; 08 R208, R209: a copy moves its next packet and completes with its counter; refreshes; a
reach walk raises the next object of its queue and ends with its result.
Where the spec leaves a point open it follows the model's own choices of log 31 and 34.
Completion: exec answers a next state, for every state that meets the conditions written, for each of: copyPacket, copyCompletion, automaticRefresh,
rfshComplete, reachWalkStep, reachWalkEnd. -/
def Obligations.EngineEvents : Prop :=
  ∀ (core i : Nat) (c : Copy) (bank : Fin 16) (w : Fin 7) (x : Walk),
    let p : Party := .group c.team c.gid
    let goes (s : State) : Prop := (s.core core).copies[i]? = some c ∧ c.stopped = none ∧ s.copyRuns c = true
    (∀ u l v ds, Happens (.copyPacket core i) (fun s => goes s ∧ c.pos < c.total ∧ { s with who := p }.packetRead p c (c.srcAt c.pos) c.packetLen = .ok u l ∧
        u.packetWrite p c (c.dstAt c.pos) l = .ok v ds) (fun _ => v.updCopy core c.id fun c' => { c' with pos := c'.pos + c.packetLen, waiting := c'.waiting ++ ds })) ∧
    (∀ k n, Happens (.copyPacket core i) (fun s => goes s ∧ c.pos < c.total ∧ { s with who := p }.packetRead p c (c.srcAt c.pos) c.packetLen = .stop k n)
      (fun s => { s with who := p }.stopCopy core c k n)) ∧
    (∀ u, Happens (.copyCompletion core i) (fun s => goes s ∧ c.total ≤ c.pos ∧ c.waiting = [] ∧ c.failed = none ∧ { s with who := p }.copyCount core p c = .ok u ()) (fun _ => u.dropCopy core c.id)) ∧
    (∀ u, Happens (.copyCompletion core i) (fun s => goes s ∧ c.total ≤ c.pos ∧ c.waiting = [] ∧ c.failed ≠ none ∧ { s with who := p }.copyCount core p c = .ok u ())
      (fun _ => u.updCopy core c.id fun c' => { c' with stopped := c'.failed, ev := none })) ∧
    (∀ s : State, c.ev = none → s.copyCount core p c = .ok s ()) ∧
    (∀ (s : State) (v : DWord) (k : BitVec 2) (pa : Nat), c.kind = .copy → c.ev = some (v, k) → s.lookAt p v.toNat true = .here pa →
      s.copyCount core p c = .ok (((s.settleSector p v.toNat).homeAdd pa 1).haul p core (dieOfHome (s.homeOf pa)) 8) ()) ∧
    Happens (.automaticRefresh core bank) (fun s => s.refreshDue core bank.val = true) (fun s =>
      (s.scrubBanks core fun b => b == bank.val).updCore core fun k => { k with scrubbed := KMap.set 0 k.scrubbed bank.val (s.coreCyc core).toNat }) ∧
    (∀ e, Brings (.rfshComplete core) (fun s => (s.core core).rfshEnd = some e ∧ e.toNat ≤ (s.coreCyc core).toNat) (fun s t =>
      (t.core core).rfshEnd = none ∧ (t.core core).wrsched = e + 65536 ∧ t.mem = s.mem)) ∧
    (let at' (s : State) : Prop := (s.die w.val).walks[i]? = some x
     (∀ o rest, Happens (.reachWalkStep w i) (fun s => at' s ∧ x.stamped = false ∧ x.failed = false ∧ x.scan = none ∧ x.queue = o :: rest) (fun s => s.stampObject w.val x o rest)) ∧
     (∀ o len k, Happens (.reachWalkStep w i) (fun s => at' s ∧ x.stamped = false ∧ x.failed = false ∧ x.scan = some (o, len, k)) (fun s => s.scanObject w.val x o len (len - k))) ∧
     let ends (s : State) : Prop := at' s ∧ x.failed = false ∧ x.stamped = true ∧ (∀ d ∈ x.deps, s.stamping d.1 d.2 = false) ∧
       ∀ y ∈ (s.die w.val).walks, y.seq = x.seq → y.rootAt = none
     Happens (.reachWalkEnd w i) (fun s => at' s ∧ x.failed = true) (fun s => s.walkResult w.val x) ∧
     Happens (.reachWalkEnd w i) (fun s => ends s ∧ x.rst = 0 ∧ x.sigma < 4) (fun s => s.walkResult w.val x) ∧
     ∀ pa, Happens (.reachWalkEnd w i) (fun s => ends s ∧ x.rooted = false ∧ x.rst ≠ 0 ∧ x.sigma < 4 ∧ s.lookWalker w.val x.pasid x.rst.toNat true = .here pa)
        (fun s => (((s.homeWrite pa 8 x.root.toNat).carry w.val (dieOfHome (s.homeOf pa)) 8).setWalk w.val { x with rooted := true }).walkResult w.val x) ∧
      Happens (.reachWalkEnd w i) (fun s => ends s ∧ x.rst = 0 ∧ x.sigma = 4 ∧ s.lookWalker w.val x.pasid x.ver.toNat true = .here pa)
        (fun s => (s.homeAdd pa 1).walkResult w.val x))

/-- 06 R149, R150, R155, R158, R160, R163, R164; 10 R247, R248; 08 R204; 16 R367, R372; 08 R205: the command at the head of a sequencer
starts, a loop once it has taken each contributor's token in turn; a K-step adds its products to the accumulator elements and its error
to the row bounds, under SHORT or FULL as the row's allowance admits, and waits at a codebook table or a busy bank; a gang's share starts
with the team's token and its end is counted at every member.
Where the spec leaves a point open it follows the model's own choices of log 32, 33 and 45.
Completion: exec answers a next state, for every state that meets the conditions written, for each of: sequencerCommandStart, kStep, cb3TableArrival,
gangShareStart, gangCompletion, moutAonRetry. -/
def Obligations.SequencerEvents : Prop :=
  ∀ (core : Nat) (q : SeqCmd) (p : LoopParams) (o : MoutParams) (gang : Nat) (g : Gang),
    let ps (s : State) : Nat := (s.team q.onTeam).accSlot q.slot
    let head (s : State) : Prop := (s.core core).headCmd = some q ∧ s.cmdRuns q = true
    Brings (.sequencerCommandStart core) (fun s => head s ∧ q.started = false ∧ q.kind = .zero) (fun s t =>
      (∀ i < 64, ∀ j < 64, (t.core core).accWord (ps s) i j = 0) ∧ (∀ i < 64, (t.core core).rowBound (ps s) i = 0) ∧ t.mem = s.mem ∧
        (∀ x ∈ (t.core core).seq, ¬ (x.id = q.id ∧ x.onTeam = q.onTeam))) ∧
    Happens (.sequencerCommandStart core) (fun s => head s ∧ q.started = false ∧ q.kind = .mout o) (fun s => s.startMout core q o) ∧
    (let wanted : List (Fin 16) := (List.finRange 16).filter fun g => p.cmask.getLsbD g.val && !q.snaps.any (·.1 == g.val)
     let waits (s : State) : Prop := head s ∧ q.started = false ∧ q.kind = .loop p
     Happens (.sequencerCommandStart core) (fun s => waits s ∧ wanted = []) (fun s => s.startLoop core q p q.snaps) ∧
     ∀ (g : Fin 16) (rest : List (Fin 16)),
      Happens (.sequencerCommandStart core) (fun s => waits s ∧ wanted = g :: rest ∧ (s.grp (.group q.onTeam g)).ready = none) (fun s => { s with stalled := true }) ∧
      ∀ r, Happens (.sequencerCommandStart core) (fun s => waits s ∧ wanted = g :: rest ∧ (s.grp (.group q.onTeam g)).ready = some r) (fun s =>
        let u := s.updGrp (.group q.onTeam g) fun x => { x with ready := none }
        if rest = [] then u.startLoop core q p (q.snaps ++ [(g.val, r)]) else u.setCmd core { q with snaps := q.snaps ++ [(g.val, r)] })) ∧
    (let step (s : State) : Prop := head s ∧ q.started = true ∧ q.params = some p
     let party : Party := .group q.onTeam q.gid
     let issuer : Party := .group q.team q.gid
     let cb3 : Prop := fmtMB q.fmt = 14
     let table : Prop := ∃ e ∈ q.tables, e.1 = q.tableOf p
     let busy (s : State) (u : Nat) : Bool := s.bankBusy core (u % 6144 % 16)
     let quiet (s : State) : Prop := ∀ u ∈ q.units p q.step, busy s u = false
     let read (s : State) (u : State) (see : Nat → Sector) : Prop := { s with who := party }.streamRead party core (q.sectors p q.step) = .ok u see
     let counted (old new : DWord) (cycles : Nat) : Prop :=
       fieldN new 0 32 = min (fieldN old 0 32 + 1) (2 ^ 32 - 1) ∧ fieldN new 32 32 = min (fieldN old 32 32 + cycles) (2 ^ 32 - 1)
     (∀ (u : State) (see : Nat → Sector), p.m ≤ 64 → p.n ≤ 64 → Brings (.kStep core)
        (fun s => step s ∧ (cb3 → table) ∧ quiet s ∧ q.bankStall = none ∧ (∀ x ∈ q.units p q.step, s.unitBad core x = false) ∧ read s u see) (fun _ t =>
      let at' := (u.team q.onTeam).core
      let old (i j : Nat) : Word := (u.core at').accWord (ps u) i j
      let new (i j : Nat) : Word := (t.core at').accWord (ps u) i j
      let oldB (i : Nat) : Option Rat := bval ((u.core at').rowBound (ps u) i)
      let newB (i : Nat) : Bound := (t.core at').rowBound (ps u) i
      let b (j : Nat) : List BElem := (q.stored q.step).map (u.bElem q p see j)
      let a (i j : Nat) : List AElem := (b j).map fun x => u.aElem q p i x.pos
      let row (i : Nat) : List AElem := (List.range p.n).flatMap (a i)
      let all : List BElem := (List.range p.n).flatMap b
      let most (l : List Rat) : Option Rat := some (l.foldl (fun m x => qmax m (qabs x)) 0)
      let bA (i : Nat) : Option Rat := (row i).foldl (fun m x => bmax m (bval x.bnd)) (some 0)
      let bB : Option Rat := (List.range p.n).foldl (fun m j => bmax m (bval (BitVec.ofNat 16 (u.bRead q p see j 0 2)))) (some 0)
      let eps (i : Nat) (aMax bMax : Option Rat) : Option Rat :=
        bmul (some (stepK (fmtMB q.fmt) : Rat)) (badd (badd (bmul (bA i) bMax) (bmul aMax bB)) (bmul (bA i) bB))
      let sum (i j : Nat) : Int := (((a i j).zip (b j)).map fun x => x.1.n * x.2.n).sum
      let c (i j : Nat) : FVal := decodeF (ffmt 0) (old i j).toNat
      let r (i : Nat) : KRow :=
        { n := p.n, c := fun j => (c i j).toRat, s := fun j => (((a i j).zip (b j)).map fun x => x.1.f.toRat * x.2.f.toRat).sum
          old := oldB i, eps := eps i (most ((row i).map (·.f.toRat))) (most (all.map (·.f.toRat))) }
      let unit (i : Nat) : Bool := (r i).short (allow q.alw)
      t.mem = u.mem ∧
      (∀ i < 64, ∀ j < 64, p.m ≤ i ∨ p.n ≤ j → new i j = old i j) ∧ (∀ i < 64, p.m ≤ i → newB i = (u.core at').rowBound (ps u) i) ∧
      (if p.kn / p.ppos q.fmt ≤ q.step + 1 then ∀ x ∈ (t.core core).seq, ¬ (x.id = q.id ∧ x.onTeam = q.onTeam)
       else (∃ x ∈ (u.core core).seq, x.id = q.id ∧ x.onTeam = q.onTeam) →
        ∃ x ∈ (t.core core).seq, x.id = q.id ∧ x.onTeam = q.onTeam ∧ x.step = q.step + 1) ∧
      ∀ i < p.m, (∀ x ∈ row i, x.raced = false) →
        (isIntFmt (fmtMB q.fmt) = true →
          (∀ j < p.n, (new i j).toInt = max (-(2 ^ 31)) (min (2 ^ 31 - 1) ((old i j).toInt + sum i j))) ∧
          newB i = if ∃ j < p.n, (old i j).toInt + sum i j < -(2 ^ 31) ∨ 2 ^ 31 - 1 < (old i j).toInt + sum i j then bInf
                   else roundUpB16 (badd (oldB i) (eps i (most ((row i).map fun x => (x.n : Rat))) (most (all.map fun x => (x.n : Rat)))))) ∧
        (isIntFmt (fmtMB q.fmt) = false →
          ((∀ j < p.n, (c i j).isFinite = true) → (∀ x ∈ row i, x.f.isFinite = true) → (∀ x ∈ all, x.f.isFinite = true) →
            (∀ j < p.n, ((r i).x j ≠ 0 → new i j = BitVec.ofNat 32 (encodeF (ffmt 0) ((r i).result (unit i) j))) ∧ ((r i).x j = 0 → new i j &&& 0x7FFFFFFF = 0)) ∧
            newB i = (r i).bound (unit i)) ∧
          ∀ j < p.n, (c i j = .nan ∨ ∃ x ∈ (a i j).zip (b j), x.1.f = .nan ∨ x.2.f = .nan) → new i j = 0x7FC00000 ∧ newB i = bInf))) ∧
     Happens (.kStep core) (fun s => step s ∧ cb3 ∧ ¬ table ∧ q.tableStall = none ∧ q.bankStall = none ∧ quiet s)
      (fun s => s.setCmd core { q with tableStall := some s.time }) ∧
     (let late : Prop := cb3 ∧ ¬ table
      Happens (.kStep core) (fun s => step s ∧ ¬ late ∧ q.bankStall = none ∧ ∃ u ∈ q.units p q.step, busy s u = true)
        (fun s => s.setCmd core { q with bankStall := some ((s.coreCyc core).toNat, (s.coreCyc core).toNat + s.bankCycles core) }) ∧
      Happens (.kStep core) (fun s => step s ∧ late ∧ q.tableStall.isSome = true ∧ q.bankStall = none ∧ quiet s) (fun s => { s with stalled := true }) ∧
      Happens (.kStep core) (fun s => step s ∧ ¬ late ∧ q.bankStall.isSome = true ∧ ∃ u ∈ q.units p q.step, busy s u = true) (fun s => { s with stalled := true }) ∧
      ∀ since till, Brings (.kStep core) (fun s => step s ∧ ¬ late ∧ quiet s ∧ q.bankStall = some (since, till) ∧ (s.core core).rfshEnd = none ∧
          (s.core core).wrsched.toNat ≤ till + 65536 ∧ till ≤ (s.coreCyc core).toNat) (fun s t =>
        counted (s.grp issuer).wrstall (t.grp issuer).wrstall (till - since) ∧ t.mem = s.mem ∧
          ((∃ x ∈ (s.core core).seq, x.id = q.id ∧ x.onTeam = q.onTeam) → { q with bankStall := none } ∈ (t.core core).seq))) ∧
     ∀ (b : Nat) (u : State) (see : Nat → Sector),
      let arrives (s : State) : Prop := step s ∧ cb3 ∧ q.nextTable p = some b ∧
        { s with who := party }.streamRead party core (codeSectors (p.tbl.toNat + 1024 * b) 1024) = .ok u see
      let filled : SeqCmd := { q with
        tableStall := none
        tables := (q.tables.filter fun e => b ≤ e.1 + 1) ++
          [(b, (List.range 1024).map fun i => (see ((p.tbl.toNat + 1024 * b + i) / 64)).byte ((p.tbl.toNat + 1024 * b + i) % 64))] }
      Happens (.cb3TableArrival core) (fun s => arrives s ∧ q.tableStall = none) (fun _ => u.setCmd core filled) ∧
      ∀ t0, Brings (.cb3TableArrival core) (fun s => arrives s ∧ q.tableStall = some t0) (fun _ t =>
        counted (u.grp issuer).cbstall (t.grp issuer).cbstall (u.time - t0) ∧ t.mem = u.mem ∧
          ((∃ x ∈ (u.core core).seq, x.id = q.id ∧ x.onTeam = q.onTeam) → filled ∈ (t.core core).seq))) ∧
    (∀ id scr, Happens (.gangShareStart core) (fun s => head s ∧ q.started = false ∧ q.kind = .share id p ∧ (s.team q.onTeam).gangToken = some scr ∧
        ((s.core core).wphase = none ∨ s.dirHit core p q.fmt = none))
      (fun s => (s.setTeam q.onTeam { s.team q.onTeam with gangToken := none }).startLoop core q p [(scr.1.val, scr.2)])) ∧
    Brings (.gangCompletion gang) (fun s => s.gangs.find? (·.1 == gang) = some (gang, g) ∧ g.pending = [] ∧
        ∀ h ∈ g.members, (s.team h).life ≠ .saving ∧ (s.team h).life ≠ .saved) (fun s t =>
      t.gangs = s.gangs.filter (fun e => e.1 != gang) ∧ t.mem = s.mem) ∧
    (∀ rest, Happens (.moutAonRetry core) (fun s => ((s.core core).mouts true).filter (fun x => x.2.aon && (x.1.locked.isNone || x.1.rows == x.2.m) && s.cmdRuns x.1) = (q, o) :: rest) (fun s => s.pumpMout core q o))

/-! ### Steps, encodings, frames, the reset state and the invariant -/

/-- 13 R292, 15 R356 (and log 6 for the order of the schedule): a step at an event of the agenda is `exec` of it; a step at a
scalar pc or at a record's word whose bytes decode to an instruction is `exec` of that instruction, where no trap, start or
wake comes first; what `step` adds is the passing of time and the choice of the next turn, which touch no architectural state. -/
def Obligations.StepRunsWhatIsNext : Prop :=
  let after (s : State) : Host.Outcome State Fault Refusal → Host.Outcome State Fault Refusal
    | .next t => .next (s.goOn t)
    | .fault f => .fault f
    | .refused r => .refused r
  (∀ (s : State) (e : Instr) (rest : List Instr), s.agenda = e :: rest → step s = after s (exec e { s with agenda := rest, stalled := false, starved := false })) ∧
  (∀ (s : State) (p : Party) (slot : Nat) (i : Instr),
    s.agenda = [] → s.dev.starting = false → s.nextTurn = some (p, false, slot) → (s.grp p).trapDue = false → (s.grp p).ovfqDue = false →
    (s.grp p).wakeAt = none → (s.grp p).wait = .none →
    let s0 := { s with who := p, lslot := slot, stalled := false, starved := false }
    let pc := (s.grp p).pc.toNat
    (∀ x mark, (s.grp p).sfetch = some (pc / 64, x, mark) → mark ≠ 1 → decodeBytes false ((List.range 4).map fun k => x.byte (pc % 64 + k)) = .ok i → step s = after s (exec i s0)) ∧
    (∀ pa, (s.grp p).sfetch = none → (s.core (s.coreOf p)).icS.find? (fun x => x.pasid == s.pasidOf p && x.va == pc / 64) = none →
      s.look (s.coreOf p) (s.pasidOf p) (64 * (pc / 64)) false = .here pa → s.poison.contains (pa / 64) = false → pc % 4 = 0 →
      decodeBytes false (readBytes s.mem (64 * (pa / 64) + pc % 64) 4) = .ok i →
      ∃ (t : State) (x : Sector), step s = after s (exec i t) ∧ t.who = p ∧ t.mem = s.mem ∧ t.md = s.md ∧ t.grp p = { s.grp p with sfetch := some (pc / 64, x, 0) })) ∧
  (∀ (s : State) (p : Party) (slot : Nat) (b : Block) (q : Split) (pos : Nat) (i : Instr) (bytes : List Byte),
    s.agenda = [] → s.dev.starting = false → s.nextTurn = some (p, true, slot) → (s.grp p).startDue = false → (s.grp p).laneTraps = [] →
    (s.grp p).block = some b → b.posOf slot = some pos → b.rec? pos = some q → q.jumped = false →
    (∀ n ∈ codeSectors (b.entry.blk.toNat + 12 * q.pc) 24, b.entry.code.any (fun e => e.1 == n) = true) →
    codeBytes b.entry.code (b.entry.blk.toNat + 12 * q.pc) 12 = some bytes → decodeBytes true bytes = .ok i →
    step s = after s (exec i { s with who := p, lslot := slot, stalled := false, starved := false })) ∧
  ∀ s t : State, (s.goOn t).mem = t.mem ∧ (s.goOn t).md = t.md ∧ (s.goOn t).teams = t.teams ∧ (s.goOn t).cores = t.cores ∧
    (s.goOn t).dies = t.dies ∧ (s.goOn t).dev = t.dev ∧ (s.goOn t).hostq = t.hostq ∧ t.time ≤ (s.goOn t).time

/-- 12 R274 to R279, Tables 12-5 to 12-10, 12-14 and 16-1: words written from the tables, and the instructions they are. -/
def Obligations.DecodedWords : Prop :=
  decodeScalar 0b000000_000101_000110_000111_00000000#32 = .ok (.sadd 5 6 7) ∧
  decodeScalar 0b000001_000001_000010_11111111111111#32 = .ok (.saddi 1 2 (-1)) ∧
  decodeScalar 0b010000_000011_000100_101_00000001000#32 = .ok (.sbr 5 3 4 8) ∧
  decodeScalar 0b010001_11111111111111111111111110#32 = .ok (.sj (-2)) ∧
  decodeScalar 0b011000_001001_001010_11_00_0000000010#32 = .ok (.sld 9 10 3 2) ∧
  decodeScalar 0b011101_001001_001010_001011_0111_10_01#32 = .ok (.satom 9 10 11 7 2 1) ∧
  decodeScalar 0b111110_00_0001001000110100_00000001#32 = .ok (.trap 0x1234) ∧
  decodeScalar 0b111110_000111_000000010010_00000011#32 = .ok (.csrr 7 0x012) ∧
  decodeScalar 0b000000_000101_000110_000111_00011000#32 = .illField (.spopc 5 6) ∧
  (let none' : Src := Src.ofBits 0
   let reg (r : Nat) : Src := Src.ofBits (BitVec.ofNat 21 r)
   decodeLane (0b000000000000000000000#21 ++ 0b00000000000000_0000010#21 ++ 0b00000000000000_0000001#21 ++ 0#3 ++ 0#3 ++ 0#3 ++ 0#2 ++
     0b0000011#7 ++ 0#2 ++ 0#1 ++ 0#3 ++ 0#1 ++ 0x40#8) =
     .ok (.iadd { pair := false, pred := 0, pneg := false, gsel := 0, dst := 3, clamp := 0, scale := 0, nar := 0, rnd := 0, a := reg 1, b := reg 2, c := none' }) ∧
   decodeLane (0#21 ++ 0#21 ++ 0#21 ++ 0#21 ++ 0b111#3 ++ 0#1 ++ 0xE2#8) =
     .ok (.lend { pair := false, pred := 7, pneg := false, gsel := 0, dst := 0, clamp := 0, scale := 0, nar := 0, rnd := 0, a := none', b := none', c := none' }) ∧
   decodeLane (0#88 ++ 0x0D#8) = .ok (.unassignedOpcode true 0x0D))

/-- 12 R274 to R279: every well-formed instruction is read back from its encoding, with every operand. -/
def Obligations.EncodeDecode : Prop :=
  ∀ i : Instr, WellFormed i → (∀ l op, i ≠ .unassignedOpcode l op) →
    (sideOf i = .scalar → decodeScalar (encodeScalar i) = .ok i ∧ decodeBytes false (encode i) = .ok i) ∧
    (sideOf i = .lane → decodeLane (encodeLane i) = .ok i ∧ decodeBytes true (encode i) = .ok i)

/-- 12 R274 to R279: a word that decodes is the encoding of what it decodes to, which is well-formed: no two words stand
for one instruction, and no reserved bit is passed over. -/
def Obligations.DecodeEncode : Prop :=
  (∀ (w : BitVec 32) (i : Instr), decodeScalar w = .ok i → (∀ l op, i ≠ .unassignedOpcode l op) → encodeScalar i = w ∧ WellFormed i ∧ sideOf i = .scalar) ∧
  (∀ (w : BitVec 96) (i : Instr), decodeLane w = .ok i → (∀ l op, i ≠ .unassignedOpcode l op) → encodeLane i = w ∧ WellFormed i ∧ sideOf i = .lane)

/-- 05 R114; 13 R293, R299; 07 R170: what scalar instructions leave unchanged. Writing a register and moving on changes that
register and the pc of the executing party (nothing where it is s0, which reads 0), and nothing else of the device; a load
changes its destination's fill, the pc and the outstanding results of its group and no byte of memory; a store changes the pc
and, in the core's buffer, the bytes at its address. -/
def Obligations.ScalarFrame : Prop :=
  (∀ (s : State) (d : Fin 64) (v : DWord),
    let t := (s.ws d v).advance
    (d ≠ 0 → t.cur.sreg d = v) ∧ t.cur.sreg 0 = 0 ∧ (∀ r, r ≠ d → t.cur.sreg r = s.cur.sreg r) ∧ t.cur.pc = s.cur.pc + 4 ∧
    t.cur = { s.cur with sregs := t.cur.sregs, pc := t.cur.pc } ∧ (∀ p, p ≠ s.who → t.grp p = s.grp p) ∧
    t = { s with teams := t.teams, streams := t.streams }) ∧
  (∀ (t base : Fin 64) (sz : BitVec 2) (off : BitVec 10) (s : State), scalarReady (.sld t base sz off) [base] [t] s = true →
    s.requestReady (loadReq s base sz off none) none = true →
    ∃ u : State, exec (.sld t base sz off) s = .next u ∧ u.mem = s.mem ∧ u.md = s.md ∧ u.cur.pc = s.cur.pc + 4 ∧
      (∀ r, u.cur.sreg r = s.cur.sreg r) ∧ (∀ r, r ≠ t → u.cur.sfull r = s.cur.sfull r) ∧
      u.cur = { s.cur with sregs := u.cur.sregs, pc := u.cur.pc, outst := u.cur.outst } ∧ (∀ p, p ≠ s.who → u.grp p = s.grp p)) ∧
  (∀ (t base : Fin 64) (sz : BitVec 2) (off : BitVec 10) (s : State) (pa : Nat), scalarReady (.sst t base sz off) [t, base] [] s = true →
    s.requestReady (storeReq s t base sz off) none = true → s.coreOf s.who < Config.coreCount →
    let ea := (smEa s base sz off).toNat
    let n := 2 ^ sz.toNat
    let old := (s.core (s.coreOf s.who)).cbuf.find? fun e => e.pasid == s.pasidOf s.who && (e.va == ea / 64 || (e.peer == none && e.pa == pa / 64))
    let mine (e : CbEntry) : Bool := e.pasid == s.pasidOf s.who && e.va == (match old with | some o => o.va | none => ea / 64)
    s.look (s.coreOf s.who) (s.pasidOf s.who) ea true = .here pa →
    ∃ u : State, exec (.sst t base sz off) s = .next u ∧ u.mem = s.mem ∧ u.md = s.md ∧ u.cur = { s.cur with pc := s.cur.pc + 4 } ∧
      (∀ p, p ≠ s.who → u.grp p = s.grp p) ∧
      (u.core (s.coreOf s.who)).cbuf.filter (fun e => !mine e) = (s.core (s.coreOf s.who)).cbuf.filter (fun e => !mine e) ∧
      ∃ e ∈ (u.core (s.coreOf s.who)).cbuf, mine e = true ∧ e.pa = (match old with | some o => o.pa | none => pa / 64) ∧ ∀ k < 64,
        if ea % 64 ≤ k ∧ k < ea % 64 + n then e.store.mask.getLsbD k = true ∧ e.store.data.byte k = (s.rs t).extractLsb' (8 * (k - ea % 64)) 8
        else e.store.mask.getLsbD k = (match old with | some o => o.store.mask.getLsbD k | none => false) ∧
          ∀ o, old = some o → e.store.data.byte k = o.store.data.byte k)

/-- 11 R253, rank 1; 01 R10; 05 R115, R116; 12 R275, R279: before its own effect an instruction is illegal on a control stream that
does not have it, lacks a feature, or has a field out of range; a lane word whose source is empty and marked raises EMPTY.
Every scalar instruction, and every lane word of a running block, answers a next state in every state. -/
def Obligations.IllegalInstructionsTrap : Prop :=
  ∀ (i : Instr) (s : State), (∀ l op, i ≠ .unassignedOpcode l op) →
    (sideOf i = .scalar →
      let traps (cause : Nat) (info : DWord) : Prop := exec i s = .next (s.scalarTrap s.who cause info s.cur.pc [])
      let bare := (s.who.isStream && streamIllegal i) || s.illopNow i
      (bare = true → traps 0x01 (opInfo i)) ∧
      (bare = false → featureMissing i s = true → traps 0x03 (BitVec.ofNat 64 ((featureOf i).getD 0))) ∧
      (bare = false → featureMissing i s = false → fieldsOk i = false → traps 0x02 (opInfo i)) ∧
      ∃ t, exec i s = .next t) ∧
    (sideOf i = .lane → ∀ x, laneRunOf i s = some x →
      let fits := laneFits i x.r x.w s.cur x.b.entry.dmask x.q.fmt
      (featureMissing i s = true → exec i s = x.trap s 0x03 (BitVec.ofNat 64 ((featureOf i).getD 0)) x.perf) ∧
      (featureMissing i s = false → fits = false → exec i s = x.trap s 0x02 (x.r.op.setWidth 64) x.perf) ∧
      (∀ e rest, featureMissing i s = false → fits = true → (laneReads i x.r x.w).filter (fun e => !(s.cur.vreg e.1).full && e.2) = e :: rest →
        exec i s = x.trap s 0x04 (BitVec.ofNat 64 e.1) x.perf) ∧
      ∃ t, exec i s = .next t)

/-- 00 R5, 07 R175 (the canonical form is the model's own, log 3): no step leaves memory, metadata or I/O space in any other than canonical form. -/
def Obligations.StepKeepsMemory : Prop :=
  ∀ s t : State, s.memWf = true → step s = .next t → t.memWf = true

/-- 03 R76; 01 R26: the device as a start leaves it: state 7, the registers that R76 lists read 0, no context, stream or grid, an
unset error ring, an empty budget and partition, threshold 64; memory is cleared and canonical.
Where the spec leaves a point open it follows the model's own choices of log 1, 3 and 4. -/
def Obligations.ResetState : Prop :=
  let s := State.reset
  s.dev.state = 7 ∧ (∀ n, (s.ctx n).state = 0 ∧ (s.ctx n).en = false ∧ (s.ctx n).err = 0 ∧ (s.ctx n).pasid = 0 ∧ (s.ctx n).save = 0 ∧ (s.ctx n).partition = []) ∧
    s.streams = [] ∧ s.grids = [] ∧ s.teams = [] ∧
    (∀ off ∈ [0x40, 0x200, 0x208, 0x210, 0x218, 0x220], s.regRead off = 0) ∧ (∀ i : Fin 16, s.regRead (0x100 + 8 * i.val) = 0) ∧
    s.dev.erqSet = false ∧ s.dev.threshold = 64 ∧ s.dev.devNum = none ∧ s.dev.attReq = false ∧ s.dev.wfail = 0 ∧ s.dev.cfail = 0 ∧
    (∀ n, (s.tenant n).budget = 0) ∧ (∀ a, readByte s.mem a = 0) ∧ s.memWf = true
end

