-- ==== Sys2Proof/Laws/KMap.lean ====
section
/-! SUPPORT. The laws of the sparse tables: what is written is read back, nothing else changes, and every operation
keeps the canonical form. -/

namespace Sys2Proof

theorem KMap.get_ins_same {α : Type} (d : α) (m : KMap α) (k : Nat) (v : α) : KMap.get d (KMap.ins m k v) k = v := by
  induction m with
  | nil => simp [KMap.ins, KMap.get]
  | cons e m ih =>
    obtain ⟨j, u⟩ := e
    simp only [KMap.ins]
    split
    · simp [KMap.get]
    · split
      · simp [KMap.get]
      · rename_i h; simp [KMap.get, Ne.symm h, ih]

theorem KMap.get_ins_other {α : Type} (d : α) (m : KMap α) {k j : Nat} (v : α) (h : j ≠ k) :
    KMap.get d (KMap.ins m k v) j = KMap.get d m j := by
  induction m with
  | nil => simp [KMap.ins, KMap.get, Ne.symm h]
  | cons e m ih =>
    obtain ⟨i, u⟩ := e
    simp only [KMap.ins]
    split
    · simp [KMap.get, Ne.symm h]
    · split
      · rename_i e; subst e; simp [KMap.get, Ne.symm h]
      · simp [KMap.get, ih]

theorem KMap.get_erase_same {α : Type} (d : α) (m : KMap α) (k : Nat) : KMap.get d (m.filter fun e => e.1 != k) k = d := by
  induction m with
  | nil => rfl
  | cons e m ih =>
    by_cases h : e.1 = k
    · simp [h, ih]
    · simp [h, KMap.get, ih]

theorem KMap.get_erase_other {α : Type} (d : α) (m : KMap α) {k j : Nat} (h : j ≠ k) :
    KMap.get d (m.filter fun e => e.1 != k) j = KMap.get d m j := by
  induction m with
  | nil => rfl
  | cons e m ih =>
    by_cases hk : e.1 = k
    · simp [hk, ih, KMap.get, Ne.symm h]
    · simp [hk, KMap.get, ih]

/-- The value written is read back. -/
@[simp] theorem KMap.get_set_same {α : Type} [DecidableEq α] (d : α) (m : KMap α) (k : Nat) (v : α) :
    KMap.get d (KMap.set d m k v) k = v := by
  unfold KMap.set
  split
  · rename_i h; rw [KMap.get_erase_same, h]
  · exact KMap.get_ins_same d m k v

/-- A write leaves every other key alone. -/
theorem KMap.get_set_other {α : Type} [DecidableEq α] (d : α) (m : KMap α) {k j : Nat} (v : α) (h : j ≠ k) :
    KMap.get d (KMap.set d m k v) j = KMap.get d m j := by
  unfold KMap.set
  split
  · exact KMap.get_erase_other d m h
  · exact KMap.get_ins_other d m v h

/-! ### Canonical form -/

theorem KMap.wfAbove_weaken {α : Type} [DecidableEq α] {d : α} {lo lo' : Nat} {m : KMap α} (h : lo ≤ lo') (w : KMap.wfAbove d (some lo') m = true) :
    KMap.wfAbove d (some lo) m = true := by
  cases m with
  | nil => rfl
  | cons e m =>
    obtain ⟨j, u⟩ := e
    simp only [KMap.wfAbove, Bool.and_eq_true, decide_eq_true_eq] at w ⊢
    exact ⟨⟨by omega, w.1.2⟩, w.2⟩

theorem KMap.wfAbove_erase {α : Type} [DecidableEq α] {d : α} (k : Nat) (m : KMap α) :
    ∀ lo, KMap.wfAbove d lo m = true → KMap.wfAbove d lo (m.filter fun e => e.1 != k) = true := by
  induction m with
  | nil => intro _ _; simp [KMap.wfAbove]
  | cons e m ih =>
    obtain ⟨j, u⟩ := e
    intro lo w
    simp only [KMap.wfAbove, Bool.and_eq_true] at w
    by_cases hk : j = k
    · have h := ih (some j) w.2
      simp only [hk, List.filter_cons, bne_self_eq_false, Bool.false_eq_true, if_false]
      subst hk
      cases lo with
      | none =>
        cases hm : m.filter (fun e => e.1 != j) with
        | nil => rfl
        | cons a l => rw [hm] at h; simp only [KMap.wfAbove, Bool.and_eq_true] at h ⊢; exact ⟨⟨trivial, h.1.2⟩, h.2⟩
      | some l => exact KMap.wfAbove_weaken (by simpa using Nat.le_of_lt (of_decide_eq_true w.1.1)) h
    · simp only [List.filter_cons, bne_iff_ne, ne_eq, hk, not_false_eq_true, if_true, KMap.wfAbove, Bool.and_eq_true]
      exact ⟨w.1, ih _ w.2⟩

theorem KMap.wfAbove_cons {α : Type} [DecidableEq α] {d : α} {lo : Option Nat} {j : Nat} {u : α} {m : KMap α} :
    KMap.wfAbove d lo ((j, u) :: m) = true ↔ (∀ l, lo = some l → l < j) ∧ u ≠ d ∧ KMap.wfAbove d (some j) m = true := by
  cases lo <;> simp [KMap.wfAbove, and_assoc]

theorem KMap.wfAbove_ins {α : Type} [DecidableEq α] {d : α} {k : Nat} {v : α} (hv : v ≠ d) (m : KMap α) :
    ∀ lo, (∀ l, lo = some l → l < k) → KMap.wfAbove d lo m = true → KMap.wfAbove d lo (KMap.ins m k v) = true := by
  induction m with
  | nil => intro lo hl _; exact KMap.wfAbove_cons.2 ⟨hl, hv, rfl⟩
  | cons e m ih =>
    obtain ⟨j, u⟩ := e
    intro lo hl w
    obtain ⟨h1, h2, h3⟩ := KMap.wfAbove_cons.1 w
    simp only [KMap.ins]
    split
    · rename_i h
      exact KMap.wfAbove_cons.2 ⟨hl, hv, KMap.wfAbove_cons.2 ⟨by simpa using h, h2, h3⟩⟩
    · split
      · rename_i h; subst h; exact KMap.wfAbove_cons.2 ⟨hl, hv, h3⟩
      · exact KMap.wfAbove_cons.2 ⟨h1, h2, ih (some j) (by intro l e; cases e; omega) h3⟩

/-- Writing one value keeps the canonical form. -/
theorem KMap.wf_set {α : Type} [DecidableEq α] {d : α} {m : KMap α} (k : Nat) (v : α) (w : KMap.wf d m = true) :
    KMap.wf d (KMap.set d m k v) = true := by
  unfold KMap.set KMap.wf at *
  split
  · exact KMap.wfAbove_erase k m none w
  · rename_i h; exact KMap.wfAbove_ins h m none (by simp) w

/-- Writing a run of values keeps the canonical form. -/
theorem KMap.wf_setRange {α : Type} [DecidableEq α] {d : α} (vs : List α) :
    ∀ (m : KMap α) (k : Nat), KMap.wf d m = true → KMap.wf d (KMap.setRange d m k vs) = true := by
  induction vs with
  | nil => intro m k w; exact w
  | cons v vs ih => intro m k w; exact ih _ _ (KMap.wf_set k v w)

/-- A run of writes leaves every key outside it alone. -/
theorem KMap.get_setRange_other {α : Type} [DecidableEq α] {d : α} (vs : List α) :
    ∀ (m : KMap α) (k j : Nat), j < k ∨ k + vs.length ≤ j → KMap.get d (KMap.setRange d m k vs) j = KMap.get d m j := by
  induction vs with
  | nil => intro m k j _; rfl
  | cons v vs ih =>
    intro m k j h
    simp only [List.length_cons] at h
    simp only [KMap.setRange]
    rw [ih _ _ _ (by omega), KMap.get_set_other _ _ _ (by omega)]

/-- Each value of a run is read back at its place. -/
theorem KMap.get_setRange_in {α : Type} [DecidableEq α] {d : α} (vs : List α) :
    ∀ (m : KMap α) (k i : Nat), (h : i < vs.length) → KMap.get d (KMap.setRange d m k vs) (k + i) = vs[i] := by
  induction vs with
  | nil => intro m k i h; simp at h
  | cons v vs ih =>
    intro m k i h
    simp only [KMap.setRange]
    cases i with
    | zero => rw [KMap.get_setRange_other _ _ _ _ (by omega)]; simp
    | succ i =>
      have := ih (KMap.set d m k v) (k + 1) i (by simpa using h)
      rw [show k + (i + 1) = k + 1 + i by omega, this]; rfl

/-! ### Memory -/

/-- A byte that was written is read back. -/
theorem readByte_writeBytes_in (m : List Host.Cell) (a i : Nat) (bs : List Byte) (h : i < bs.length) :
    readByte (writeBytes m a bs) (a + i) = bs[i] := KMap.get_setRange_in bs m a i h

/-- Bytes outside a write read as before. -/
theorem readByte_writeBytes_other (m : List Host.Cell) (a b : Nat) (bs : List Byte) (h : b < a ∨ a + bs.length ≤ b) :
    readByte (writeBytes m a bs) b = readByte m b := KMap.get_setRange_other bs m a b h

/-- A write keeps the canonical form of memory. -/
theorem writeBytes_wf {m : List Host.Cell} (a : Nat) (bs : List Byte) (w : KMap.wf (0 : Byte) m = true) :
    KMap.wf (0 : Byte) (writeBytes m a bs) = true := KMap.wf_setRange bs m a w

end Sys2Proof
end

