-- ==== Sys2Proof/Laws/State.lean ====
section
/-! SUPPORT. One lemma for each field under each update of the device, the read-back laws of its tables, and what the
updates of the current group leave alone. -/

namespace Sys2Proof.Machine

/-! ### Fields under updates -/

@[simp] theorem State.setTeam_time (s : State) (h : Nat) (x : Team) : (s.setTeam h x).time = s.time := rfl
@[simp] theorem State.setTeam_moment (s : State) (h : Nat) (x : Team) : (s.setTeam h x).moment = s.moment := rfl
@[simp] theorem State.setTeam_exchanged (s : State) (h : Nat) (x : Team) : (s.setTeam h x).exchanged = s.exchanged := rfl
@[simp] theorem State.setTeam_fresh (s : State) (h : Nat) (x : Team) : (s.setTeam h x).fresh = s.fresh := rfl
@[simp] theorem State.setTeam_agenda (s : State) (h : Nat) (x : Team) : (s.setTeam h x).agenda = s.agenda := rfl
@[simp] theorem State.setTeam_turn (s : State) (h : Nat) (x : Team) : (s.setTeam h x).turn = s.turn := rfl
@[simp] theorem State.setTeam_plan (s : State) (h : Nat) (x : Team) : (s.setTeam h x).plan = s.plan := rfl
@[simp] theorem State.setTeam_looked (s : State) (h : Nat) (x : Team) : (s.setTeam h x).looked = s.looked := rfl
@[simp] theorem State.setTeam_stalled (s : State) (h : Nat) (x : Team) : (s.setTeam h x).stalled = s.stalled := rfl
@[simp] theorem State.setTeam_ready (s : State) (h : Nat) (x : Team) : (s.setTeam h x).ready = s.ready := rfl
@[simp] theorem State.setTeam_lastSlot (s : State) (h : Nat) (x : Team) : (s.setTeam h x).lastSlot = s.lastSlot := rfl
@[simp] theorem State.setTeam_starved (s : State) (h : Nat) (x : Team) : (s.setTeam h x).starved = s.starved := rfl
@[simp] theorem State.setTeam_starving (s : State) (h : Nat) (x : Team) : (s.setTeam h x).starving = s.starving := rfl
@[simp] theorem State.setTeam_waits (s : State) (h : Nat) (x : Team) : (s.setTeam h x).waits = s.waits := rfl
@[simp] theorem State.setTeam_who (s : State) (h : Nat) (x : Team) : (s.setTeam h x).who = s.who := rfl
@[simp] theorem State.setTeam_lslot (s : State) (h : Nat) (x : Team) : (s.setTeam h x).lslot = s.lslot := rfl
@[simp] theorem State.setTeam_hostq (s : State) (h : Nat) (x : Team) : (s.setTeam h x).hostq = s.hostq := rfl
@[simp] theorem State.setTeam_env (s : State) (h : Nat) (x : Team) : (s.setTeam h x).env = s.env := rfl
@[simp] theorem State.setTeam_dev (s : State) (h : Nat) (x : Team) : (s.setTeam h x).dev = s.dev := rfl
@[simp] theorem State.setTeam_mp (s : State) (h : Nat) (x : Team) : (s.setTeam h x).mp = s.mp := rfl
@[simp] theorem State.setTeam_ctxs (s : State) (h : Nat) (x : Team) : (s.setTeam h x).ctxs = s.ctxs := rfl
@[simp] theorem State.setTeam_streams (s : State) (h : Nat) (x : Team) : (s.setTeam h x).streams = s.streams := rfl
@[simp] theorem State.setTeam_tenants (s : State) (h : Nat) (x : Team) : (s.setTeam h x).tenants = s.tenants := rfl
@[simp] theorem State.setTeam_grids (s : State) (h : Nat) (x : Team) : (s.setTeam h x).grids = s.grids := rfl
@[simp] theorem State.setTeam_handles (s : State) (h : Nat) (x : Team) : (s.setTeam h x).handles = s.handles := rfl
@[simp] theorem State.setTeam_cores (s : State) (h : Nat) (x : Team) : (s.setTeam h x).cores = s.cores := rfl
@[simp] theorem State.setTeam_dies (s : State) (h : Nat) (x : Team) : (s.setTeam h x).dies = s.dies := rfl
@[simp] theorem State.setTeam_seams (s : State) (h : Nat) (x : Team) : (s.setTeam h x).seams = s.seams := rfl
@[simp] theorem State.setTeam_ports (s : State) (h : Nat) (x : Team) : (s.setTeam h x).ports = s.ports := rfl
@[simp] theorem State.setTeam_peers (s : State) (h : Nat) (x : Team) : (s.setTeam h x).peers = s.peers := rfl
@[simp] theorem State.setTeam_watches (s : State) (h : Nat) (x : Team) : (s.setTeam h x).watches = s.watches := rfl
@[simp] theorem State.setTeam_deptab (s : State) (h : Nat) (x : Team) : (s.setTeam h x).deptab = s.deptab := rfl
@[simp] theorem State.setTeam_msgs (s : State) (h : Nat) (x : Team) : (s.setTeam h x).msgs = s.msgs := rfl
@[simp] theorem State.setTeam_atoms (s : State) (h : Nat) (x : Team) : (s.setTeam h x).atoms = s.atoms := rfl
@[simp] theorem State.setTeam_gangs (s : State) (h : Nat) (x : Team) : (s.setTeam h x).gangs = s.gangs := rfl
@[simp] theorem State.setTeam_probes (s : State) (h : Nat) (x : Team) : (s.setTeam h x).probes = s.probes := rfl
@[simp] theorem State.setTeam_mem (s : State) (h : Nat) (x : Team) : (s.setTeam h x).mem = s.mem := rfl
@[simp] theorem State.setTeam_md (s : State) (h : Nat) (x : Team) : (s.setTeam h x).md = s.md := rfl
@[simp] theorem State.setTeam_poison (s : State) (h : Nat) (x : Team) : (s.setTeam h x).poison = s.poison := rfl
@[simp] theorem State.setTeam_hubCache (s : State) (h : Nat) (x : Team) : (s.setTeam h x).hubCache = s.hubCache := rfl
@[simp] theorem State.setTeam_iomem (s : State) (h : Nat) (x : Team) : (s.setTeam h x).iomem = s.iomem := rfl

@[simp] theorem State.setCore_time (s : State) (c : Nat) (x : Core) : (s.setCore c x).time = s.time := rfl
@[simp] theorem State.setCore_moment (s : State) (c : Nat) (x : Core) : (s.setCore c x).moment = s.moment := rfl
@[simp] theorem State.setCore_exchanged (s : State) (c : Nat) (x : Core) : (s.setCore c x).exchanged = s.exchanged := rfl
@[simp] theorem State.setCore_fresh (s : State) (c : Nat) (x : Core) : (s.setCore c x).fresh = s.fresh := rfl
@[simp] theorem State.setCore_agenda (s : State) (c : Nat) (x : Core) : (s.setCore c x).agenda = s.agenda := rfl
@[simp] theorem State.setCore_turn (s : State) (c : Nat) (x : Core) : (s.setCore c x).turn = s.turn := rfl
@[simp] theorem State.setCore_plan (s : State) (c : Nat) (x : Core) : (s.setCore c x).plan = s.plan := rfl
@[simp] theorem State.setCore_looked (s : State) (c : Nat) (x : Core) : (s.setCore c x).looked = s.looked := rfl
@[simp] theorem State.setCore_stalled (s : State) (c : Nat) (x : Core) : (s.setCore c x).stalled = s.stalled := rfl
@[simp] theorem State.setCore_ready (s : State) (c : Nat) (x : Core) : (s.setCore c x).ready = s.ready := rfl
@[simp] theorem State.setCore_lastSlot (s : State) (c : Nat) (x : Core) : (s.setCore c x).lastSlot = s.lastSlot := rfl
@[simp] theorem State.setCore_starved (s : State) (c : Nat) (x : Core) : (s.setCore c x).starved = s.starved := rfl
@[simp] theorem State.setCore_starving (s : State) (c : Nat) (x : Core) : (s.setCore c x).starving = s.starving := rfl
@[simp] theorem State.setCore_waits (s : State) (c : Nat) (x : Core) : (s.setCore c x).waits = s.waits := rfl
@[simp] theorem State.setCore_who (s : State) (c : Nat) (x : Core) : (s.setCore c x).who = s.who := rfl
@[simp] theorem State.setCore_lslot (s : State) (c : Nat) (x : Core) : (s.setCore c x).lslot = s.lslot := rfl
@[simp] theorem State.setCore_hostq (s : State) (c : Nat) (x : Core) : (s.setCore c x).hostq = s.hostq := rfl
@[simp] theorem State.setCore_env (s : State) (c : Nat) (x : Core) : (s.setCore c x).env = s.env := rfl
@[simp] theorem State.setCore_dev (s : State) (c : Nat) (x : Core) : (s.setCore c x).dev = s.dev := rfl
@[simp] theorem State.setCore_mp (s : State) (c : Nat) (x : Core) : (s.setCore c x).mp = s.mp := rfl
@[simp] theorem State.setCore_ctxs (s : State) (c : Nat) (x : Core) : (s.setCore c x).ctxs = s.ctxs := rfl
@[simp] theorem State.setCore_streams (s : State) (c : Nat) (x : Core) : (s.setCore c x).streams = s.streams := rfl
@[simp] theorem State.setCore_tenants (s : State) (c : Nat) (x : Core) : (s.setCore c x).tenants = s.tenants := rfl
@[simp] theorem State.setCore_grids (s : State) (c : Nat) (x : Core) : (s.setCore c x).grids = s.grids := rfl
@[simp] theorem State.setCore_teams (s : State) (c : Nat) (x : Core) : (s.setCore c x).teams = s.teams := rfl
@[simp] theorem State.setCore_handles (s : State) (c : Nat) (x : Core) : (s.setCore c x).handles = s.handles := rfl
@[simp] theorem State.setCore_dies (s : State) (c : Nat) (x : Core) : (s.setCore c x).dies = s.dies := rfl
@[simp] theorem State.setCore_seams (s : State) (c : Nat) (x : Core) : (s.setCore c x).seams = s.seams := rfl
@[simp] theorem State.setCore_ports (s : State) (c : Nat) (x : Core) : (s.setCore c x).ports = s.ports := rfl
@[simp] theorem State.setCore_peers (s : State) (c : Nat) (x : Core) : (s.setCore c x).peers = s.peers := rfl
@[simp] theorem State.setCore_watches (s : State) (c : Nat) (x : Core) : (s.setCore c x).watches = s.watches := rfl
@[simp] theorem State.setCore_deptab (s : State) (c : Nat) (x : Core) : (s.setCore c x).deptab = s.deptab := rfl
@[simp] theorem State.setCore_msgs (s : State) (c : Nat) (x : Core) : (s.setCore c x).msgs = s.msgs := rfl
@[simp] theorem State.setCore_atoms (s : State) (c : Nat) (x : Core) : (s.setCore c x).atoms = s.atoms := rfl
@[simp] theorem State.setCore_gangs (s : State) (c : Nat) (x : Core) : (s.setCore c x).gangs = s.gangs := rfl
@[simp] theorem State.setCore_probes (s : State) (c : Nat) (x : Core) : (s.setCore c x).probes = s.probes := rfl
@[simp] theorem State.setCore_mem (s : State) (c : Nat) (x : Core) : (s.setCore c x).mem = s.mem := rfl
@[simp] theorem State.setCore_md (s : State) (c : Nat) (x : Core) : (s.setCore c x).md = s.md := rfl
@[simp] theorem State.setCore_poison (s : State) (c : Nat) (x : Core) : (s.setCore c x).poison = s.poison := rfl
@[simp] theorem State.setCore_hubCache (s : State) (c : Nat) (x : Core) : (s.setCore c x).hubCache = s.hubCache := rfl
@[simp] theorem State.setCore_iomem (s : State) (c : Nat) (x : Core) : (s.setCore c x).iomem = s.iomem := rfl

@[simp] theorem State.setDie_time (s : State) (d : Nat) (x : Die) : (s.setDie d x).time = s.time := rfl
@[simp] theorem State.setDie_moment (s : State) (d : Nat) (x : Die) : (s.setDie d x).moment = s.moment := rfl
@[simp] theorem State.setDie_exchanged (s : State) (d : Nat) (x : Die) : (s.setDie d x).exchanged = s.exchanged := rfl
@[simp] theorem State.setDie_fresh (s : State) (d : Nat) (x : Die) : (s.setDie d x).fresh = s.fresh := rfl
@[simp] theorem State.setDie_agenda (s : State) (d : Nat) (x : Die) : (s.setDie d x).agenda = s.agenda := rfl
@[simp] theorem State.setDie_turn (s : State) (d : Nat) (x : Die) : (s.setDie d x).turn = s.turn := rfl
@[simp] theorem State.setDie_plan (s : State) (d : Nat) (x : Die) : (s.setDie d x).plan = s.plan := rfl
@[simp] theorem State.setDie_looked (s : State) (d : Nat) (x : Die) : (s.setDie d x).looked = s.looked := rfl
@[simp] theorem State.setDie_stalled (s : State) (d : Nat) (x : Die) : (s.setDie d x).stalled = s.stalled := rfl
@[simp] theorem State.setDie_ready (s : State) (d : Nat) (x : Die) : (s.setDie d x).ready = s.ready := rfl
@[simp] theorem State.setDie_lastSlot (s : State) (d : Nat) (x : Die) : (s.setDie d x).lastSlot = s.lastSlot := rfl
@[simp] theorem State.setDie_starved (s : State) (d : Nat) (x : Die) : (s.setDie d x).starved = s.starved := rfl
@[simp] theorem State.setDie_starving (s : State) (d : Nat) (x : Die) : (s.setDie d x).starving = s.starving := rfl
@[simp] theorem State.setDie_waits (s : State) (d : Nat) (x : Die) : (s.setDie d x).waits = s.waits := rfl
@[simp] theorem State.setDie_who (s : State) (d : Nat) (x : Die) : (s.setDie d x).who = s.who := rfl
@[simp] theorem State.setDie_lslot (s : State) (d : Nat) (x : Die) : (s.setDie d x).lslot = s.lslot := rfl
@[simp] theorem State.setDie_hostq (s : State) (d : Nat) (x : Die) : (s.setDie d x).hostq = s.hostq := rfl
@[simp] theorem State.setDie_env (s : State) (d : Nat) (x : Die) : (s.setDie d x).env = s.env := rfl
@[simp] theorem State.setDie_dev (s : State) (d : Nat) (x : Die) : (s.setDie d x).dev = s.dev := rfl
@[simp] theorem State.setDie_mp (s : State) (d : Nat) (x : Die) : (s.setDie d x).mp = s.mp := rfl
@[simp] theorem State.setDie_ctxs (s : State) (d : Nat) (x : Die) : (s.setDie d x).ctxs = s.ctxs := rfl
@[simp] theorem State.setDie_streams (s : State) (d : Nat) (x : Die) : (s.setDie d x).streams = s.streams := rfl
@[simp] theorem State.setDie_tenants (s : State) (d : Nat) (x : Die) : (s.setDie d x).tenants = s.tenants := rfl
@[simp] theorem State.setDie_grids (s : State) (d : Nat) (x : Die) : (s.setDie d x).grids = s.grids := rfl
@[simp] theorem State.setDie_teams (s : State) (d : Nat) (x : Die) : (s.setDie d x).teams = s.teams := rfl
@[simp] theorem State.setDie_handles (s : State) (d : Nat) (x : Die) : (s.setDie d x).handles = s.handles := rfl
@[simp] theorem State.setDie_cores (s : State) (d : Nat) (x : Die) : (s.setDie d x).cores = s.cores := rfl
@[simp] theorem State.setDie_seams (s : State) (d : Nat) (x : Die) : (s.setDie d x).seams = s.seams := rfl
@[simp] theorem State.setDie_ports (s : State) (d : Nat) (x : Die) : (s.setDie d x).ports = s.ports := rfl
@[simp] theorem State.setDie_peers (s : State) (d : Nat) (x : Die) : (s.setDie d x).peers = s.peers := rfl
@[simp] theorem State.setDie_watches (s : State) (d : Nat) (x : Die) : (s.setDie d x).watches = s.watches := rfl
@[simp] theorem State.setDie_deptab (s : State) (d : Nat) (x : Die) : (s.setDie d x).deptab = s.deptab := rfl
@[simp] theorem State.setDie_msgs (s : State) (d : Nat) (x : Die) : (s.setDie d x).msgs = s.msgs := rfl
@[simp] theorem State.setDie_atoms (s : State) (d : Nat) (x : Die) : (s.setDie d x).atoms = s.atoms := rfl
@[simp] theorem State.setDie_gangs (s : State) (d : Nat) (x : Die) : (s.setDie d x).gangs = s.gangs := rfl
@[simp] theorem State.setDie_probes (s : State) (d : Nat) (x : Die) : (s.setDie d x).probes = s.probes := rfl
@[simp] theorem State.setDie_mem (s : State) (d : Nat) (x : Die) : (s.setDie d x).mem = s.mem := rfl
@[simp] theorem State.setDie_md (s : State) (d : Nat) (x : Die) : (s.setDie d x).md = s.md := rfl
@[simp] theorem State.setDie_poison (s : State) (d : Nat) (x : Die) : (s.setDie d x).poison = s.poison := rfl
@[simp] theorem State.setDie_hubCache (s : State) (d : Nat) (x : Die) : (s.setDie d x).hubCache = s.hubCache := rfl
@[simp] theorem State.setDie_iomem (s : State) (d : Nat) (x : Die) : (s.setDie d x).iomem = s.iomem := rfl

@[simp] theorem State.setGrid_time (s : State) (h : Nat) (x : Grid) : (s.setGrid h x).time = s.time := rfl
@[simp] theorem State.setGrid_moment (s : State) (h : Nat) (x : Grid) : (s.setGrid h x).moment = s.moment := rfl
@[simp] theorem State.setGrid_exchanged (s : State) (h : Nat) (x : Grid) : (s.setGrid h x).exchanged = s.exchanged := rfl
@[simp] theorem State.setGrid_fresh (s : State) (h : Nat) (x : Grid) : (s.setGrid h x).fresh = s.fresh := rfl
@[simp] theorem State.setGrid_agenda (s : State) (h : Nat) (x : Grid) : (s.setGrid h x).agenda = s.agenda := rfl
@[simp] theorem State.setGrid_turn (s : State) (h : Nat) (x : Grid) : (s.setGrid h x).turn = s.turn := rfl
@[simp] theorem State.setGrid_plan (s : State) (h : Nat) (x : Grid) : (s.setGrid h x).plan = s.plan := rfl
@[simp] theorem State.setGrid_looked (s : State) (h : Nat) (x : Grid) : (s.setGrid h x).looked = s.looked := rfl
@[simp] theorem State.setGrid_stalled (s : State) (h : Nat) (x : Grid) : (s.setGrid h x).stalled = s.stalled := rfl
@[simp] theorem State.setGrid_ready (s : State) (h : Nat) (x : Grid) : (s.setGrid h x).ready = s.ready := rfl
@[simp] theorem State.setGrid_lastSlot (s : State) (h : Nat) (x : Grid) : (s.setGrid h x).lastSlot = s.lastSlot := rfl
@[simp] theorem State.setGrid_starved (s : State) (h : Nat) (x : Grid) : (s.setGrid h x).starved = s.starved := rfl
@[simp] theorem State.setGrid_starving (s : State) (h : Nat) (x : Grid) : (s.setGrid h x).starving = s.starving := rfl
@[simp] theorem State.setGrid_waits (s : State) (h : Nat) (x : Grid) : (s.setGrid h x).waits = s.waits := rfl
@[simp] theorem State.setGrid_who (s : State) (h : Nat) (x : Grid) : (s.setGrid h x).who = s.who := rfl
@[simp] theorem State.setGrid_lslot (s : State) (h : Nat) (x : Grid) : (s.setGrid h x).lslot = s.lslot := rfl
@[simp] theorem State.setGrid_hostq (s : State) (h : Nat) (x : Grid) : (s.setGrid h x).hostq = s.hostq := rfl
@[simp] theorem State.setGrid_env (s : State) (h : Nat) (x : Grid) : (s.setGrid h x).env = s.env := rfl
@[simp] theorem State.setGrid_dev (s : State) (h : Nat) (x : Grid) : (s.setGrid h x).dev = s.dev := rfl
@[simp] theorem State.setGrid_mp (s : State) (h : Nat) (x : Grid) : (s.setGrid h x).mp = s.mp := rfl
@[simp] theorem State.setGrid_ctxs (s : State) (h : Nat) (x : Grid) : (s.setGrid h x).ctxs = s.ctxs := rfl
@[simp] theorem State.setGrid_streams (s : State) (h : Nat) (x : Grid) : (s.setGrid h x).streams = s.streams := rfl
@[simp] theorem State.setGrid_tenants (s : State) (h : Nat) (x : Grid) : (s.setGrid h x).tenants = s.tenants := rfl
@[simp] theorem State.setGrid_teams (s : State) (h : Nat) (x : Grid) : (s.setGrid h x).teams = s.teams := rfl
@[simp] theorem State.setGrid_handles (s : State) (h : Nat) (x : Grid) : (s.setGrid h x).handles = s.handles := rfl
@[simp] theorem State.setGrid_cores (s : State) (h : Nat) (x : Grid) : (s.setGrid h x).cores = s.cores := rfl
@[simp] theorem State.setGrid_dies (s : State) (h : Nat) (x : Grid) : (s.setGrid h x).dies = s.dies := rfl
@[simp] theorem State.setGrid_seams (s : State) (h : Nat) (x : Grid) : (s.setGrid h x).seams = s.seams := rfl
@[simp] theorem State.setGrid_ports (s : State) (h : Nat) (x : Grid) : (s.setGrid h x).ports = s.ports := rfl
@[simp] theorem State.setGrid_peers (s : State) (h : Nat) (x : Grid) : (s.setGrid h x).peers = s.peers := rfl
@[simp] theorem State.setGrid_watches (s : State) (h : Nat) (x : Grid) : (s.setGrid h x).watches = s.watches := rfl
@[simp] theorem State.setGrid_deptab (s : State) (h : Nat) (x : Grid) : (s.setGrid h x).deptab = s.deptab := rfl
@[simp] theorem State.setGrid_msgs (s : State) (h : Nat) (x : Grid) : (s.setGrid h x).msgs = s.msgs := rfl
@[simp] theorem State.setGrid_atoms (s : State) (h : Nat) (x : Grid) : (s.setGrid h x).atoms = s.atoms := rfl
@[simp] theorem State.setGrid_gangs (s : State) (h : Nat) (x : Grid) : (s.setGrid h x).gangs = s.gangs := rfl
@[simp] theorem State.setGrid_probes (s : State) (h : Nat) (x : Grid) : (s.setGrid h x).probes = s.probes := rfl
@[simp] theorem State.setGrid_mem (s : State) (h : Nat) (x : Grid) : (s.setGrid h x).mem = s.mem := rfl
@[simp] theorem State.setGrid_md (s : State) (h : Nat) (x : Grid) : (s.setGrid h x).md = s.md := rfl
@[simp] theorem State.setGrid_poison (s : State) (h : Nat) (x : Grid) : (s.setGrid h x).poison = s.poison := rfl
@[simp] theorem State.setGrid_hubCache (s : State) (h : Nat) (x : Grid) : (s.setGrid h x).hubCache = s.hubCache := rfl
@[simp] theorem State.setGrid_iomem (s : State) (h : Nat) (x : Grid) : (s.setGrid h x).iomem = s.iomem := rfl

@[simp] theorem State.setCtx_time (s : State) (n : Nat) (x : Ctx) : (s.setCtx n x).time = s.time := rfl
@[simp] theorem State.setCtx_moment (s : State) (n : Nat) (x : Ctx) : (s.setCtx n x).moment = s.moment := rfl
@[simp] theorem State.setCtx_exchanged (s : State) (n : Nat) (x : Ctx) : (s.setCtx n x).exchanged = s.exchanged := rfl
@[simp] theorem State.setCtx_fresh (s : State) (n : Nat) (x : Ctx) : (s.setCtx n x).fresh = s.fresh := rfl
@[simp] theorem State.setCtx_agenda (s : State) (n : Nat) (x : Ctx) : (s.setCtx n x).agenda = s.agenda := rfl
@[simp] theorem State.setCtx_turn (s : State) (n : Nat) (x : Ctx) : (s.setCtx n x).turn = s.turn := rfl
@[simp] theorem State.setCtx_plan (s : State) (n : Nat) (x : Ctx) : (s.setCtx n x).plan = s.plan := rfl
@[simp] theorem State.setCtx_looked (s : State) (n : Nat) (x : Ctx) : (s.setCtx n x).looked = s.looked := rfl
@[simp] theorem State.setCtx_stalled (s : State) (n : Nat) (x : Ctx) : (s.setCtx n x).stalled = s.stalled := rfl
@[simp] theorem State.setCtx_ready (s : State) (n : Nat) (x : Ctx) : (s.setCtx n x).ready = s.ready := rfl
@[simp] theorem State.setCtx_lastSlot (s : State) (n : Nat) (x : Ctx) : (s.setCtx n x).lastSlot = s.lastSlot := rfl
@[simp] theorem State.setCtx_starved (s : State) (n : Nat) (x : Ctx) : (s.setCtx n x).starved = s.starved := rfl
@[simp] theorem State.setCtx_starving (s : State) (n : Nat) (x : Ctx) : (s.setCtx n x).starving = s.starving := rfl
@[simp] theorem State.setCtx_waits (s : State) (n : Nat) (x : Ctx) : (s.setCtx n x).waits = s.waits := rfl
@[simp] theorem State.setCtx_who (s : State) (n : Nat) (x : Ctx) : (s.setCtx n x).who = s.who := rfl
@[simp] theorem State.setCtx_lslot (s : State) (n : Nat) (x : Ctx) : (s.setCtx n x).lslot = s.lslot := rfl
@[simp] theorem State.setCtx_hostq (s : State) (n : Nat) (x : Ctx) : (s.setCtx n x).hostq = s.hostq := rfl
@[simp] theorem State.setCtx_env (s : State) (n : Nat) (x : Ctx) : (s.setCtx n x).env = s.env := rfl
@[simp] theorem State.setCtx_dev (s : State) (n : Nat) (x : Ctx) : (s.setCtx n x).dev = s.dev := rfl
@[simp] theorem State.setCtx_mp (s : State) (n : Nat) (x : Ctx) : (s.setCtx n x).mp = s.mp := rfl
@[simp] theorem State.setCtx_streams (s : State) (n : Nat) (x : Ctx) : (s.setCtx n x).streams = s.streams := rfl
@[simp] theorem State.setCtx_tenants (s : State) (n : Nat) (x : Ctx) : (s.setCtx n x).tenants = s.tenants := rfl
@[simp] theorem State.setCtx_grids (s : State) (n : Nat) (x : Ctx) : (s.setCtx n x).grids = s.grids := rfl
@[simp] theorem State.setCtx_teams (s : State) (n : Nat) (x : Ctx) : (s.setCtx n x).teams = s.teams := rfl
@[simp] theorem State.setCtx_handles (s : State) (n : Nat) (x : Ctx) : (s.setCtx n x).handles = s.handles := rfl
@[simp] theorem State.setCtx_cores (s : State) (n : Nat) (x : Ctx) : (s.setCtx n x).cores = s.cores := rfl
@[simp] theorem State.setCtx_dies (s : State) (n : Nat) (x : Ctx) : (s.setCtx n x).dies = s.dies := rfl
@[simp] theorem State.setCtx_seams (s : State) (n : Nat) (x : Ctx) : (s.setCtx n x).seams = s.seams := rfl
@[simp] theorem State.setCtx_ports (s : State) (n : Nat) (x : Ctx) : (s.setCtx n x).ports = s.ports := rfl
@[simp] theorem State.setCtx_peers (s : State) (n : Nat) (x : Ctx) : (s.setCtx n x).peers = s.peers := rfl
@[simp] theorem State.setCtx_watches (s : State) (n : Nat) (x : Ctx) : (s.setCtx n x).watches = s.watches := rfl
@[simp] theorem State.setCtx_deptab (s : State) (n : Nat) (x : Ctx) : (s.setCtx n x).deptab = s.deptab := rfl
@[simp] theorem State.setCtx_msgs (s : State) (n : Nat) (x : Ctx) : (s.setCtx n x).msgs = s.msgs := rfl
@[simp] theorem State.setCtx_atoms (s : State) (n : Nat) (x : Ctx) : (s.setCtx n x).atoms = s.atoms := rfl
@[simp] theorem State.setCtx_gangs (s : State) (n : Nat) (x : Ctx) : (s.setCtx n x).gangs = s.gangs := rfl
@[simp] theorem State.setCtx_probes (s : State) (n : Nat) (x : Ctx) : (s.setCtx n x).probes = s.probes := rfl
@[simp] theorem State.setCtx_mem (s : State) (n : Nat) (x : Ctx) : (s.setCtx n x).mem = s.mem := rfl
@[simp] theorem State.setCtx_md (s : State) (n : Nat) (x : Ctx) : (s.setCtx n x).md = s.md := rfl
@[simp] theorem State.setCtx_poison (s : State) (n : Nat) (x : Ctx) : (s.setCtx n x).poison = s.poison := rfl
@[simp] theorem State.setCtx_hubCache (s : State) (n : Nat) (x : Ctx) : (s.setCtx n x).hubCache = s.hubCache := rfl
@[simp] theorem State.setCtx_iomem (s : State) (n : Nat) (x : Ctx) : (s.setCtx n x).iomem = s.iomem := rfl

@[simp] theorem State.setStream_time (s : State) (k : Nat) (x : Stream) : (s.setStream k x).time = s.time := rfl
@[simp] theorem State.setStream_moment (s : State) (k : Nat) (x : Stream) : (s.setStream k x).moment = s.moment := rfl
@[simp] theorem State.setStream_exchanged (s : State) (k : Nat) (x : Stream) : (s.setStream k x).exchanged = s.exchanged := rfl
@[simp] theorem State.setStream_fresh (s : State) (k : Nat) (x : Stream) : (s.setStream k x).fresh = s.fresh := rfl
@[simp] theorem State.setStream_agenda (s : State) (k : Nat) (x : Stream) : (s.setStream k x).agenda = s.agenda := rfl
@[simp] theorem State.setStream_turn (s : State) (k : Nat) (x : Stream) : (s.setStream k x).turn = s.turn := rfl
@[simp] theorem State.setStream_plan (s : State) (k : Nat) (x : Stream) : (s.setStream k x).plan = s.plan := rfl
@[simp] theorem State.setStream_looked (s : State) (k : Nat) (x : Stream) : (s.setStream k x).looked = s.looked := rfl
@[simp] theorem State.setStream_stalled (s : State) (k : Nat) (x : Stream) : (s.setStream k x).stalled = s.stalled := rfl
@[simp] theorem State.setStream_ready (s : State) (k : Nat) (x : Stream) : (s.setStream k x).ready = s.ready := rfl
@[simp] theorem State.setStream_lastSlot (s : State) (k : Nat) (x : Stream) : (s.setStream k x).lastSlot = s.lastSlot := rfl
@[simp] theorem State.setStream_starved (s : State) (k : Nat) (x : Stream) : (s.setStream k x).starved = s.starved := rfl
@[simp] theorem State.setStream_starving (s : State) (k : Nat) (x : Stream) : (s.setStream k x).starving = s.starving := rfl
@[simp] theorem State.setStream_waits (s : State) (k : Nat) (x : Stream) : (s.setStream k x).waits = s.waits := rfl
@[simp] theorem State.setStream_who (s : State) (k : Nat) (x : Stream) : (s.setStream k x).who = s.who := rfl
@[simp] theorem State.setStream_lslot (s : State) (k : Nat) (x : Stream) : (s.setStream k x).lslot = s.lslot := rfl
@[simp] theorem State.setStream_hostq (s : State) (k : Nat) (x : Stream) : (s.setStream k x).hostq = s.hostq := rfl
@[simp] theorem State.setStream_env (s : State) (k : Nat) (x : Stream) : (s.setStream k x).env = s.env := rfl
@[simp] theorem State.setStream_dev (s : State) (k : Nat) (x : Stream) : (s.setStream k x).dev = s.dev := rfl
@[simp] theorem State.setStream_mp (s : State) (k : Nat) (x : Stream) : (s.setStream k x).mp = s.mp := rfl
@[simp] theorem State.setStream_ctxs (s : State) (k : Nat) (x : Stream) : (s.setStream k x).ctxs = s.ctxs := rfl
@[simp] theorem State.setStream_tenants (s : State) (k : Nat) (x : Stream) : (s.setStream k x).tenants = s.tenants := rfl
@[simp] theorem State.setStream_grids (s : State) (k : Nat) (x : Stream) : (s.setStream k x).grids = s.grids := rfl
@[simp] theorem State.setStream_teams (s : State) (k : Nat) (x : Stream) : (s.setStream k x).teams = s.teams := rfl
@[simp] theorem State.setStream_handles (s : State) (k : Nat) (x : Stream) : (s.setStream k x).handles = s.handles := rfl
@[simp] theorem State.setStream_cores (s : State) (k : Nat) (x : Stream) : (s.setStream k x).cores = s.cores := rfl
@[simp] theorem State.setStream_dies (s : State) (k : Nat) (x : Stream) : (s.setStream k x).dies = s.dies := rfl
@[simp] theorem State.setStream_seams (s : State) (k : Nat) (x : Stream) : (s.setStream k x).seams = s.seams := rfl
@[simp] theorem State.setStream_ports (s : State) (k : Nat) (x : Stream) : (s.setStream k x).ports = s.ports := rfl
@[simp] theorem State.setStream_peers (s : State) (k : Nat) (x : Stream) : (s.setStream k x).peers = s.peers := rfl
@[simp] theorem State.setStream_watches (s : State) (k : Nat) (x : Stream) : (s.setStream k x).watches = s.watches := rfl
@[simp] theorem State.setStream_deptab (s : State) (k : Nat) (x : Stream) : (s.setStream k x).deptab = s.deptab := rfl
@[simp] theorem State.setStream_msgs (s : State) (k : Nat) (x : Stream) : (s.setStream k x).msgs = s.msgs := rfl
@[simp] theorem State.setStream_atoms (s : State) (k : Nat) (x : Stream) : (s.setStream k x).atoms = s.atoms := rfl
@[simp] theorem State.setStream_gangs (s : State) (k : Nat) (x : Stream) : (s.setStream k x).gangs = s.gangs := rfl
@[simp] theorem State.setStream_probes (s : State) (k : Nat) (x : Stream) : (s.setStream k x).probes = s.probes := rfl
@[simp] theorem State.setStream_mem (s : State) (k : Nat) (x : Stream) : (s.setStream k x).mem = s.mem := rfl
@[simp] theorem State.setStream_md (s : State) (k : Nat) (x : Stream) : (s.setStream k x).md = s.md := rfl
@[simp] theorem State.setStream_poison (s : State) (k : Nat) (x : Stream) : (s.setStream k x).poison = s.poison := rfl
@[simp] theorem State.setStream_hubCache (s : State) (k : Nat) (x : Stream) : (s.setStream k x).hubCache = s.hubCache := rfl
@[simp] theorem State.setStream_iomem (s : State) (k : Nat) (x : Stream) : (s.setStream k x).iomem = s.iomem := rfl

@[simp] theorem State.setTenant_time (s : State) (n : Nat) (x : Tenant) : (s.setTenant n x).time = s.time := rfl
@[simp] theorem State.setTenant_moment (s : State) (n : Nat) (x : Tenant) : (s.setTenant n x).moment = s.moment := rfl
@[simp] theorem State.setTenant_exchanged (s : State) (n : Nat) (x : Tenant) : (s.setTenant n x).exchanged = s.exchanged := rfl
@[simp] theorem State.setTenant_fresh (s : State) (n : Nat) (x : Tenant) : (s.setTenant n x).fresh = s.fresh := rfl
@[simp] theorem State.setTenant_agenda (s : State) (n : Nat) (x : Tenant) : (s.setTenant n x).agenda = s.agenda := rfl
@[simp] theorem State.setTenant_turn (s : State) (n : Nat) (x : Tenant) : (s.setTenant n x).turn = s.turn := rfl
@[simp] theorem State.setTenant_plan (s : State) (n : Nat) (x : Tenant) : (s.setTenant n x).plan = s.plan := rfl
@[simp] theorem State.setTenant_looked (s : State) (n : Nat) (x : Tenant) : (s.setTenant n x).looked = s.looked := rfl
@[simp] theorem State.setTenant_stalled (s : State) (n : Nat) (x : Tenant) : (s.setTenant n x).stalled = s.stalled := rfl
@[simp] theorem State.setTenant_ready (s : State) (n : Nat) (x : Tenant) : (s.setTenant n x).ready = s.ready := rfl
@[simp] theorem State.setTenant_lastSlot (s : State) (n : Nat) (x : Tenant) : (s.setTenant n x).lastSlot = s.lastSlot := rfl
@[simp] theorem State.setTenant_starved (s : State) (n : Nat) (x : Tenant) : (s.setTenant n x).starved = s.starved := rfl
@[simp] theorem State.setTenant_starving (s : State) (n : Nat) (x : Tenant) : (s.setTenant n x).starving = s.starving := rfl
@[simp] theorem State.setTenant_waits (s : State) (n : Nat) (x : Tenant) : (s.setTenant n x).waits = s.waits := rfl
@[simp] theorem State.setTenant_who (s : State) (n : Nat) (x : Tenant) : (s.setTenant n x).who = s.who := rfl
@[simp] theorem State.setTenant_lslot (s : State) (n : Nat) (x : Tenant) : (s.setTenant n x).lslot = s.lslot := rfl
@[simp] theorem State.setTenant_hostq (s : State) (n : Nat) (x : Tenant) : (s.setTenant n x).hostq = s.hostq := rfl
@[simp] theorem State.setTenant_env (s : State) (n : Nat) (x : Tenant) : (s.setTenant n x).env = s.env := rfl
@[simp] theorem State.setTenant_dev (s : State) (n : Nat) (x : Tenant) : (s.setTenant n x).dev = s.dev := rfl
@[simp] theorem State.setTenant_mp (s : State) (n : Nat) (x : Tenant) : (s.setTenant n x).mp = s.mp := rfl
@[simp] theorem State.setTenant_ctxs (s : State) (n : Nat) (x : Tenant) : (s.setTenant n x).ctxs = s.ctxs := rfl
@[simp] theorem State.setTenant_streams (s : State) (n : Nat) (x : Tenant) : (s.setTenant n x).streams = s.streams := rfl
@[simp] theorem State.setTenant_grids (s : State) (n : Nat) (x : Tenant) : (s.setTenant n x).grids = s.grids := rfl
@[simp] theorem State.setTenant_teams (s : State) (n : Nat) (x : Tenant) : (s.setTenant n x).teams = s.teams := rfl
@[simp] theorem State.setTenant_handles (s : State) (n : Nat) (x : Tenant) : (s.setTenant n x).handles = s.handles := rfl
@[simp] theorem State.setTenant_cores (s : State) (n : Nat) (x : Tenant) : (s.setTenant n x).cores = s.cores := rfl
@[simp] theorem State.setTenant_dies (s : State) (n : Nat) (x : Tenant) : (s.setTenant n x).dies = s.dies := rfl
@[simp] theorem State.setTenant_seams (s : State) (n : Nat) (x : Tenant) : (s.setTenant n x).seams = s.seams := rfl
@[simp] theorem State.setTenant_ports (s : State) (n : Nat) (x : Tenant) : (s.setTenant n x).ports = s.ports := rfl
@[simp] theorem State.setTenant_peers (s : State) (n : Nat) (x : Tenant) : (s.setTenant n x).peers = s.peers := rfl
@[simp] theorem State.setTenant_watches (s : State) (n : Nat) (x : Tenant) : (s.setTenant n x).watches = s.watches := rfl
@[simp] theorem State.setTenant_deptab (s : State) (n : Nat) (x : Tenant) : (s.setTenant n x).deptab = s.deptab := rfl
@[simp] theorem State.setTenant_msgs (s : State) (n : Nat) (x : Tenant) : (s.setTenant n x).msgs = s.msgs := rfl
@[simp] theorem State.setTenant_atoms (s : State) (n : Nat) (x : Tenant) : (s.setTenant n x).atoms = s.atoms := rfl
@[simp] theorem State.setTenant_gangs (s : State) (n : Nat) (x : Tenant) : (s.setTenant n x).gangs = s.gangs := rfl
@[simp] theorem State.setTenant_probes (s : State) (n : Nat) (x : Tenant) : (s.setTenant n x).probes = s.probes := rfl
@[simp] theorem State.setTenant_mem (s : State) (n : Nat) (x : Tenant) : (s.setTenant n x).mem = s.mem := rfl
@[simp] theorem State.setTenant_md (s : State) (n : Nat) (x : Tenant) : (s.setTenant n x).md = s.md := rfl
@[simp] theorem State.setTenant_poison (s : State) (n : Nat) (x : Tenant) : (s.setTenant n x).poison = s.poison := rfl
@[simp] theorem State.setTenant_hubCache (s : State) (n : Nat) (x : Tenant) : (s.setTenant n x).hubCache = s.hubCache := rfl
@[simp] theorem State.setTenant_iomem (s : State) (n : Nat) (x : Tenant) : (s.setTenant n x).iomem = s.iomem := rfl

@[simp] theorem State.setPeer_time (s : State) (n : Nat) (x : Peer) : (s.setPeer n x).time = s.time := rfl
@[simp] theorem State.setPeer_moment (s : State) (n : Nat) (x : Peer) : (s.setPeer n x).moment = s.moment := rfl
@[simp] theorem State.setPeer_exchanged (s : State) (n : Nat) (x : Peer) : (s.setPeer n x).exchanged = s.exchanged := rfl
@[simp] theorem State.setPeer_fresh (s : State) (n : Nat) (x : Peer) : (s.setPeer n x).fresh = s.fresh := rfl
@[simp] theorem State.setPeer_agenda (s : State) (n : Nat) (x : Peer) : (s.setPeer n x).agenda = s.agenda := rfl
@[simp] theorem State.setPeer_turn (s : State) (n : Nat) (x : Peer) : (s.setPeer n x).turn = s.turn := rfl
@[simp] theorem State.setPeer_plan (s : State) (n : Nat) (x : Peer) : (s.setPeer n x).plan = s.plan := rfl
@[simp] theorem State.setPeer_looked (s : State) (n : Nat) (x : Peer) : (s.setPeer n x).looked = s.looked := rfl
@[simp] theorem State.setPeer_stalled (s : State) (n : Nat) (x : Peer) : (s.setPeer n x).stalled = s.stalled := rfl
@[simp] theorem State.setPeer_ready (s : State) (n : Nat) (x : Peer) : (s.setPeer n x).ready = s.ready := rfl
@[simp] theorem State.setPeer_lastSlot (s : State) (n : Nat) (x : Peer) : (s.setPeer n x).lastSlot = s.lastSlot := rfl
@[simp] theorem State.setPeer_starved (s : State) (n : Nat) (x : Peer) : (s.setPeer n x).starved = s.starved := rfl
@[simp] theorem State.setPeer_starving (s : State) (n : Nat) (x : Peer) : (s.setPeer n x).starving = s.starving := rfl
@[simp] theorem State.setPeer_waits (s : State) (n : Nat) (x : Peer) : (s.setPeer n x).waits = s.waits := rfl
@[simp] theorem State.setPeer_who (s : State) (n : Nat) (x : Peer) : (s.setPeer n x).who = s.who := rfl
@[simp] theorem State.setPeer_lslot (s : State) (n : Nat) (x : Peer) : (s.setPeer n x).lslot = s.lslot := rfl
@[simp] theorem State.setPeer_hostq (s : State) (n : Nat) (x : Peer) : (s.setPeer n x).hostq = s.hostq := rfl
@[simp] theorem State.setPeer_env (s : State) (n : Nat) (x : Peer) : (s.setPeer n x).env = s.env := rfl
@[simp] theorem State.setPeer_dev (s : State) (n : Nat) (x : Peer) : (s.setPeer n x).dev = s.dev := rfl
@[simp] theorem State.setPeer_mp (s : State) (n : Nat) (x : Peer) : (s.setPeer n x).mp = s.mp := rfl
@[simp] theorem State.setPeer_ctxs (s : State) (n : Nat) (x : Peer) : (s.setPeer n x).ctxs = s.ctxs := rfl
@[simp] theorem State.setPeer_streams (s : State) (n : Nat) (x : Peer) : (s.setPeer n x).streams = s.streams := rfl
@[simp] theorem State.setPeer_tenants (s : State) (n : Nat) (x : Peer) : (s.setPeer n x).tenants = s.tenants := rfl
@[simp] theorem State.setPeer_grids (s : State) (n : Nat) (x : Peer) : (s.setPeer n x).grids = s.grids := rfl
@[simp] theorem State.setPeer_teams (s : State) (n : Nat) (x : Peer) : (s.setPeer n x).teams = s.teams := rfl
@[simp] theorem State.setPeer_handles (s : State) (n : Nat) (x : Peer) : (s.setPeer n x).handles = s.handles := rfl
@[simp] theorem State.setPeer_cores (s : State) (n : Nat) (x : Peer) : (s.setPeer n x).cores = s.cores := rfl
@[simp] theorem State.setPeer_dies (s : State) (n : Nat) (x : Peer) : (s.setPeer n x).dies = s.dies := rfl
@[simp] theorem State.setPeer_seams (s : State) (n : Nat) (x : Peer) : (s.setPeer n x).seams = s.seams := rfl
@[simp] theorem State.setPeer_ports (s : State) (n : Nat) (x : Peer) : (s.setPeer n x).ports = s.ports := rfl
@[simp] theorem State.setPeer_watches (s : State) (n : Nat) (x : Peer) : (s.setPeer n x).watches = s.watches := rfl
@[simp] theorem State.setPeer_deptab (s : State) (n : Nat) (x : Peer) : (s.setPeer n x).deptab = s.deptab := rfl
@[simp] theorem State.setPeer_msgs (s : State) (n : Nat) (x : Peer) : (s.setPeer n x).msgs = s.msgs := rfl
@[simp] theorem State.setPeer_atoms (s : State) (n : Nat) (x : Peer) : (s.setPeer n x).atoms = s.atoms := rfl
@[simp] theorem State.setPeer_gangs (s : State) (n : Nat) (x : Peer) : (s.setPeer n x).gangs = s.gangs := rfl
@[simp] theorem State.setPeer_probes (s : State) (n : Nat) (x : Peer) : (s.setPeer n x).probes = s.probes := rfl
@[simp] theorem State.setPeer_mem (s : State) (n : Nat) (x : Peer) : (s.setPeer n x).mem = s.mem := rfl
@[simp] theorem State.setPeer_md (s : State) (n : Nat) (x : Peer) : (s.setPeer n x).md = s.md := rfl
@[simp] theorem State.setPeer_poison (s : State) (n : Nat) (x : Peer) : (s.setPeer n x).poison = s.poison := rfl
@[simp] theorem State.setPeer_hubCache (s : State) (n : Nat) (x : Peer) : (s.setPeer n x).hubCache = s.hubCache := rfl
@[simp] theorem State.setPeer_iomem (s : State) (n : Nat) (x : Peer) : (s.setPeer n x).iomem = s.iomem := rfl

@[simp] theorem State.bump_time (s : State) : (s.bump).time = s.time := rfl
@[simp] theorem State.bump_moment (s : State) : (s.bump).moment = s.moment := rfl
@[simp] theorem State.bump_exchanged (s : State) : (s.bump).exchanged = s.exchanged := rfl
@[simp] theorem State.bump_agenda (s : State) : (s.bump).agenda = s.agenda := rfl
@[simp] theorem State.bump_turn (s : State) : (s.bump).turn = s.turn := rfl
@[simp] theorem State.bump_plan (s : State) : (s.bump).plan = s.plan := rfl
@[simp] theorem State.bump_looked (s : State) : (s.bump).looked = s.looked := rfl
@[simp] theorem State.bump_stalled (s : State) : (s.bump).stalled = s.stalled := rfl
@[simp] theorem State.bump_ready (s : State) : (s.bump).ready = s.ready := rfl
@[simp] theorem State.bump_lastSlot (s : State) : (s.bump).lastSlot = s.lastSlot := rfl
@[simp] theorem State.bump_starved (s : State) : (s.bump).starved = s.starved := rfl
@[simp] theorem State.bump_starving (s : State) : (s.bump).starving = s.starving := rfl
@[simp] theorem State.bump_waits (s : State) : (s.bump).waits = s.waits := rfl
@[simp] theorem State.bump_who (s : State) : (s.bump).who = s.who := rfl
@[simp] theorem State.bump_lslot (s : State) : (s.bump).lslot = s.lslot := rfl
@[simp] theorem State.bump_hostq (s : State) : (s.bump).hostq = s.hostq := rfl
@[simp] theorem State.bump_env (s : State) : (s.bump).env = s.env := rfl
@[simp] theorem State.bump_dev (s : State) : (s.bump).dev = s.dev := rfl
@[simp] theorem State.bump_mp (s : State) : (s.bump).mp = s.mp := rfl
@[simp] theorem State.bump_ctxs (s : State) : (s.bump).ctxs = s.ctxs := rfl
@[simp] theorem State.bump_streams (s : State) : (s.bump).streams = s.streams := rfl
@[simp] theorem State.bump_tenants (s : State) : (s.bump).tenants = s.tenants := rfl
@[simp] theorem State.bump_grids (s : State) : (s.bump).grids = s.grids := rfl
@[simp] theorem State.bump_teams (s : State) : (s.bump).teams = s.teams := rfl
@[simp] theorem State.bump_handles (s : State) : (s.bump).handles = s.handles := rfl
@[simp] theorem State.bump_cores (s : State) : (s.bump).cores = s.cores := rfl
@[simp] theorem State.bump_dies (s : State) : (s.bump).dies = s.dies := rfl
@[simp] theorem State.bump_seams (s : State) : (s.bump).seams = s.seams := rfl
@[simp] theorem State.bump_ports (s : State) : (s.bump).ports = s.ports := rfl
@[simp] theorem State.bump_peers (s : State) : (s.bump).peers = s.peers := rfl
@[simp] theorem State.bump_watches (s : State) : (s.bump).watches = s.watches := rfl
@[simp] theorem State.bump_deptab (s : State) : (s.bump).deptab = s.deptab := rfl
@[simp] theorem State.bump_msgs (s : State) : (s.bump).msgs = s.msgs := rfl
@[simp] theorem State.bump_atoms (s : State) : (s.bump).atoms = s.atoms := rfl
@[simp] theorem State.bump_gangs (s : State) : (s.bump).gangs = s.gangs := rfl
@[simp] theorem State.bump_probes (s : State) : (s.bump).probes = s.probes := rfl
@[simp] theorem State.bump_mem (s : State) : (s.bump).mem = s.mem := rfl
@[simp] theorem State.bump_md (s : State) : (s.bump).md = s.md := rfl
@[simp] theorem State.bump_poison (s : State) : (s.bump).poison = s.poison := rfl
@[simp] theorem State.bump_hubCache (s : State) : (s.bump).hubCache = s.hubCache := rfl
@[simp] theorem State.bump_iomem (s : State) : (s.bump).iomem = s.iomem := rfl

@[simp] theorem State.bumpBy_time (s : State) (n : Nat) : (s.bumpBy n).time = s.time := rfl
@[simp] theorem State.bumpBy_moment (s : State) (n : Nat) : (s.bumpBy n).moment = s.moment := rfl
@[simp] theorem State.bumpBy_exchanged (s : State) (n : Nat) : (s.bumpBy n).exchanged = s.exchanged := rfl
@[simp] theorem State.bumpBy_agenda (s : State) (n : Nat) : (s.bumpBy n).agenda = s.agenda := rfl
@[simp] theorem State.bumpBy_turn (s : State) (n : Nat) : (s.bumpBy n).turn = s.turn := rfl
@[simp] theorem State.bumpBy_plan (s : State) (n : Nat) : (s.bumpBy n).plan = s.plan := rfl
@[simp] theorem State.bumpBy_looked (s : State) (n : Nat) : (s.bumpBy n).looked = s.looked := rfl
@[simp] theorem State.bumpBy_stalled (s : State) (n : Nat) : (s.bumpBy n).stalled = s.stalled := rfl
@[simp] theorem State.bumpBy_ready (s : State) (n : Nat) : (s.bumpBy n).ready = s.ready := rfl
@[simp] theorem State.bumpBy_lastSlot (s : State) (n : Nat) : (s.bumpBy n).lastSlot = s.lastSlot := rfl
@[simp] theorem State.bumpBy_starved (s : State) (n : Nat) : (s.bumpBy n).starved = s.starved := rfl
@[simp] theorem State.bumpBy_starving (s : State) (n : Nat) : (s.bumpBy n).starving = s.starving := rfl
@[simp] theorem State.bumpBy_waits (s : State) (n : Nat) : (s.bumpBy n).waits = s.waits := rfl
@[simp] theorem State.bumpBy_who (s : State) (n : Nat) : (s.bumpBy n).who = s.who := rfl
@[simp] theorem State.bumpBy_lslot (s : State) (n : Nat) : (s.bumpBy n).lslot = s.lslot := rfl
@[simp] theorem State.bumpBy_hostq (s : State) (n : Nat) : (s.bumpBy n).hostq = s.hostq := rfl
@[simp] theorem State.bumpBy_env (s : State) (n : Nat) : (s.bumpBy n).env = s.env := rfl
@[simp] theorem State.bumpBy_dev (s : State) (n : Nat) : (s.bumpBy n).dev = s.dev := rfl
@[simp] theorem State.bumpBy_mp (s : State) (n : Nat) : (s.bumpBy n).mp = s.mp := rfl
@[simp] theorem State.bumpBy_ctxs (s : State) (n : Nat) : (s.bumpBy n).ctxs = s.ctxs := rfl
@[simp] theorem State.bumpBy_streams (s : State) (n : Nat) : (s.bumpBy n).streams = s.streams := rfl
@[simp] theorem State.bumpBy_tenants (s : State) (n : Nat) : (s.bumpBy n).tenants = s.tenants := rfl
@[simp] theorem State.bumpBy_grids (s : State) (n : Nat) : (s.bumpBy n).grids = s.grids := rfl
@[simp] theorem State.bumpBy_teams (s : State) (n : Nat) : (s.bumpBy n).teams = s.teams := rfl
@[simp] theorem State.bumpBy_handles (s : State) (n : Nat) : (s.bumpBy n).handles = s.handles := rfl
@[simp] theorem State.bumpBy_cores (s : State) (n : Nat) : (s.bumpBy n).cores = s.cores := rfl
@[simp] theorem State.bumpBy_dies (s : State) (n : Nat) : (s.bumpBy n).dies = s.dies := rfl
@[simp] theorem State.bumpBy_seams (s : State) (n : Nat) : (s.bumpBy n).seams = s.seams := rfl
@[simp] theorem State.bumpBy_ports (s : State) (n : Nat) : (s.bumpBy n).ports = s.ports := rfl
@[simp] theorem State.bumpBy_peers (s : State) (n : Nat) : (s.bumpBy n).peers = s.peers := rfl
@[simp] theorem State.bumpBy_watches (s : State) (n : Nat) : (s.bumpBy n).watches = s.watches := rfl
@[simp] theorem State.bumpBy_deptab (s : State) (n : Nat) : (s.bumpBy n).deptab = s.deptab := rfl
@[simp] theorem State.bumpBy_msgs (s : State) (n : Nat) : (s.bumpBy n).msgs = s.msgs := rfl
@[simp] theorem State.bumpBy_atoms (s : State) (n : Nat) : (s.bumpBy n).atoms = s.atoms := rfl
@[simp] theorem State.bumpBy_gangs (s : State) (n : Nat) : (s.bumpBy n).gangs = s.gangs := rfl
@[simp] theorem State.bumpBy_probes (s : State) (n : Nat) : (s.bumpBy n).probes = s.probes := rfl
@[simp] theorem State.bumpBy_mem (s : State) (n : Nat) : (s.bumpBy n).mem = s.mem := rfl
@[simp] theorem State.bumpBy_md (s : State) (n : Nat) : (s.bumpBy n).md = s.md := rfl
@[simp] theorem State.bumpBy_poison (s : State) (n : Nat) : (s.bumpBy n).poison = s.poison := rfl
@[simp] theorem State.bumpBy_hubCache (s : State) (n : Nat) : (s.bumpBy n).hubCache = s.hubCache := rfl
@[simp] theorem State.bumpBy_iomem (s : State) (n : Nat) : (s.bumpBy n).iomem = s.iomem := rfl

@[simp] theorem State.setGrp_time (s : State) (p : Party) (x : Group) : (s.setGrp p x).time = s.time := by cases p <;> rfl
@[simp] theorem State.setGrp_moment (s : State) (p : Party) (x : Group) : (s.setGrp p x).moment = s.moment := by cases p <;> rfl
@[simp] theorem State.setGrp_exchanged (s : State) (p : Party) (x : Group) : (s.setGrp p x).exchanged = s.exchanged := by cases p <;> rfl
@[simp] theorem State.setGrp_fresh (s : State) (p : Party) (x : Group) : (s.setGrp p x).fresh = s.fresh := by cases p <;> rfl
@[simp] theorem State.setGrp_agenda (s : State) (p : Party) (x : Group) : (s.setGrp p x).agenda = s.agenda := by cases p <;> rfl
@[simp] theorem State.setGrp_turn (s : State) (p : Party) (x : Group) : (s.setGrp p x).turn = s.turn := by cases p <;> rfl
@[simp] theorem State.setGrp_plan (s : State) (p : Party) (x : Group) : (s.setGrp p x).plan = s.plan := by cases p <;> rfl
@[simp] theorem State.setGrp_looked (s : State) (p : Party) (x : Group) : (s.setGrp p x).looked = s.looked := by cases p <;> rfl
@[simp] theorem State.setGrp_stalled (s : State) (p : Party) (x : Group) : (s.setGrp p x).stalled = s.stalled := by cases p <;> rfl
@[simp] theorem State.setGrp_ready (s : State) (p : Party) (x : Group) : (s.setGrp p x).ready = s.ready := by cases p <;> rfl
@[simp] theorem State.setGrp_lastSlot (s : State) (p : Party) (x : Group) : (s.setGrp p x).lastSlot = s.lastSlot := by cases p <;> rfl
@[simp] theorem State.setGrp_starved (s : State) (p : Party) (x : Group) : (s.setGrp p x).starved = s.starved := by cases p <;> rfl
@[simp] theorem State.setGrp_starving (s : State) (p : Party) (x : Group) : (s.setGrp p x).starving = s.starving := by cases p <;> rfl
@[simp] theorem State.setGrp_waits (s : State) (p : Party) (x : Group) : (s.setGrp p x).waits = s.waits := by cases p <;> rfl
@[simp] theorem State.setGrp_who (s : State) (p : Party) (x : Group) : (s.setGrp p x).who = s.who := by cases p <;> rfl
@[simp] theorem State.setGrp_lslot (s : State) (p : Party) (x : Group) : (s.setGrp p x).lslot = s.lslot := by cases p <;> rfl
@[simp] theorem State.setGrp_hostq (s : State) (p : Party) (x : Group) : (s.setGrp p x).hostq = s.hostq := by cases p <;> rfl
@[simp] theorem State.setGrp_env (s : State) (p : Party) (x : Group) : (s.setGrp p x).env = s.env := by cases p <;> rfl
@[simp] theorem State.setGrp_dev (s : State) (p : Party) (x : Group) : (s.setGrp p x).dev = s.dev := by cases p <;> rfl
@[simp] theorem State.setGrp_mp (s : State) (p : Party) (x : Group) : (s.setGrp p x).mp = s.mp := by cases p <;> rfl
@[simp] theorem State.setGrp_ctxs (s : State) (p : Party) (x : Group) : (s.setGrp p x).ctxs = s.ctxs := by cases p <;> rfl
@[simp] theorem State.setGrp_tenants (s : State) (p : Party) (x : Group) : (s.setGrp p x).tenants = s.tenants := by cases p <;> rfl
@[simp] theorem State.setGrp_grids (s : State) (p : Party) (x : Group) : (s.setGrp p x).grids = s.grids := by cases p <;> rfl
@[simp] theorem State.setGrp_handles (s : State) (p : Party) (x : Group) : (s.setGrp p x).handles = s.handles := by cases p <;> rfl
@[simp] theorem State.setGrp_cores (s : State) (p : Party) (x : Group) : (s.setGrp p x).cores = s.cores := by cases p <;> rfl
@[simp] theorem State.setGrp_dies (s : State) (p : Party) (x : Group) : (s.setGrp p x).dies = s.dies := by cases p <;> rfl
@[simp] theorem State.setGrp_seams (s : State) (p : Party) (x : Group) : (s.setGrp p x).seams = s.seams := by cases p <;> rfl
@[simp] theorem State.setGrp_ports (s : State) (p : Party) (x : Group) : (s.setGrp p x).ports = s.ports := by cases p <;> rfl
@[simp] theorem State.setGrp_peers (s : State) (p : Party) (x : Group) : (s.setGrp p x).peers = s.peers := by cases p <;> rfl
@[simp] theorem State.setGrp_watches (s : State) (p : Party) (x : Group) : (s.setGrp p x).watches = s.watches := by cases p <;> rfl
@[simp] theorem State.setGrp_deptab (s : State) (p : Party) (x : Group) : (s.setGrp p x).deptab = s.deptab := by cases p <;> rfl
@[simp] theorem State.setGrp_msgs (s : State) (p : Party) (x : Group) : (s.setGrp p x).msgs = s.msgs := by cases p <;> rfl
@[simp] theorem State.setGrp_atoms (s : State) (p : Party) (x : Group) : (s.setGrp p x).atoms = s.atoms := by cases p <;> rfl
@[simp] theorem State.setGrp_gangs (s : State) (p : Party) (x : Group) : (s.setGrp p x).gangs = s.gangs := by cases p <;> rfl
@[simp] theorem State.setGrp_probes (s : State) (p : Party) (x : Group) : (s.setGrp p x).probes = s.probes := by cases p <;> rfl
@[simp] theorem State.setGrp_mem (s : State) (p : Party) (x : Group) : (s.setGrp p x).mem = s.mem := by cases p <;> rfl
@[simp] theorem State.setGrp_md (s : State) (p : Party) (x : Group) : (s.setGrp p x).md = s.md := by cases p <;> rfl
@[simp] theorem State.setGrp_poison (s : State) (p : Party) (x : Group) : (s.setGrp p x).poison = s.poison := by cases p <;> rfl
@[simp] theorem State.setGrp_hubCache (s : State) (p : Party) (x : Group) : (s.setGrp p x).hubCache = s.hubCache := by cases p <;> rfl
@[simp] theorem State.setGrp_iomem (s : State) (p : Party) (x : Group) : (s.setGrp p x).iomem = s.iomem := by cases p <;> rfl

/-! ### Reading back -/

@[simp] theorem State.team_setTeam (s : State) (n : Nat) (x : Team) : (s.setTeam n x).team n = x := KMap.get_set_same _ _ _ _
theorem State.team_setTeam_other (s : State) {n m : Nat} (x : Team) (h : m ≠ n) : (s.setTeam n x).team m = s.team m := KMap.get_set_other _ _ _ h
@[simp] theorem State.core_setCore (s : State) (n : Nat) (x : Core) : (s.setCore n x).core n = x := KMap.get_set_same _ _ _ _
theorem State.core_setCore_other (s : State) {n m : Nat} (x : Core) (h : m ≠ n) : (s.setCore n x).core m = s.core m := KMap.get_set_other _ _ _ h
@[simp] theorem State.die_setDie (s : State) (n : Nat) (x : Die) : (s.setDie n x).die n = x := KMap.get_set_same _ _ _ _
theorem State.die_setDie_other (s : State) {n m : Nat} (x : Die) (h : m ≠ n) : (s.setDie n x).die m = s.die m := KMap.get_set_other _ _ _ h
@[simp] theorem State.grid_setGrid (s : State) (n : Nat) (x : Grid) : (s.setGrid n x).grid n = x := KMap.get_set_same _ _ _ _
theorem State.grid_setGrid_other (s : State) {n m : Nat} (x : Grid) (h : m ≠ n) : (s.setGrid n x).grid m = s.grid m := KMap.get_set_other _ _ _ h
@[simp] theorem State.ctx_setCtx (s : State) (n : Nat) (x : Ctx) : (s.setCtx n x).ctx n = x := KMap.get_set_same _ _ _ _
theorem State.ctx_setCtx_other (s : State) {n m : Nat} (x : Ctx) (h : m ≠ n) : (s.setCtx n x).ctx m = s.ctx m := KMap.get_set_other _ _ _ h
@[simp] theorem State.stream_setStream (s : State) (n : Nat) (x : Stream) : (s.setStream n x).stream n = x := KMap.get_set_same _ _ _ _
theorem State.stream_setStream_other (s : State) {n m : Nat} (x : Stream) (h : m ≠ n) : (s.setStream n x).stream m = s.stream m := KMap.get_set_other _ _ _ h
@[simp] theorem State.tenant_setTenant (s : State) (n : Nat) (x : Tenant) : (s.setTenant n x).tenant n = x := KMap.get_set_same _ _ _ _
theorem State.tenant_setTenant_other (s : State) {n m : Nat} (x : Tenant) (h : m ≠ n) : (s.setTenant n x).tenant m = s.tenant m := KMap.get_set_other _ _ _ h
@[simp] theorem State.peer_setPeer (s : State) (n : Nat) (x : Peer) : (s.setPeer n x).peer n = x := KMap.get_set_same _ _ _ _
theorem State.peer_setPeer_other (s : State) {n m : Nat} (x : Peer) (h : m ≠ n) : (s.setPeer n x).peer m = s.peer m := KMap.get_set_other _ _ _ h

/-- An element of a vector with one element replaced. -/
theorem vec_get_set {α : Type} {n : Nat} (v : Vector α n) (i : Nat) (x : α) (h : i < n) (j : Fin n) :
    (v.set i x h).get j = if i = j.val then x else v.get j := by
  show (v.set i x h)[j.val] = if i = j.val then x else v[j.val]
  exact Vector.getElem_set ..

/-- The group of a party reads back what was put there. -/
@[simp] theorem State.grp_setGrp (s : State) (p : Party) (x : Group) : (s.setGrp p x).grp p = x := by
  cases p with
  | group t g => simp [State.setGrp, State.grp, Team.setGroup, vec_get_set]
  | stream k => simp [State.setGrp, State.grp]

/-- Other parties' groups stay as they are. -/
theorem State.grp_setGrp_other (s : State) {p q : Party} (x : Group) (h : q ≠ p) : (s.setGrp p x).grp q = s.grp q := by
  cases p with
  | stream k =>
    cases q with
    | group t g => rfl
    | stream j => simp [State.setGrp, State.grp, State.stream_setStream_other s _ (show j ≠ k from fun e => h (by rw [e]))]
  | group t g =>
    cases q with
    | stream j => rfl
    | group u k =>
      by_cases e : u = t
      · subst e
        have hk : g ≠ k := fun e => h (by rw [e])
        have hv : g.val ≠ k.val := fun e => hk (Fin.ext e)
        simp [State.setGrp, State.grp, Team.setGroup, vec_get_set, hv]
      · simp [State.setGrp, State.grp, State.team_setTeam_other s _ e]

@[simp] theorem State.cur_setCur (s : State) (x : Group) : (s.setCur x).cur = x := by
  simp [State.setCur, State.cur]

@[simp] theorem State.cur_updCur (s : State) (f : Group → Group) : (s.updCur f).cur = f s.cur := by
  simp [State.updCur]

@[simp] theorem State.updCur_who (s : State) (f : Group → Group) : (s.updCur f).who = s.who := by
  simp [State.updCur, State.setCur]

@[simp] theorem State.updCur_mem (s : State) (f : Group → Group) : (s.updCur f).mem = s.mem := by
  simp [State.updCur, State.setCur]

/-! ### Scalar registers -/

/-- The register written holds the value; s0 reads as 0. -/
@[simp] theorem Group.sreg_ws (g : Group) (i : SNum) (v : DWord) : (g.ws i v).sreg i = if i = 0 then 0 else v := by
  by_cases h : i = 0
  · simp [Group.sreg, h]
  · simp [Group.sreg, Group.ws, h, vec_get_set]

/-- Every other register keeps its value. -/
theorem Group.sreg_ws_other (g : Group) {i j : SNum} (v : DWord) (h : j ≠ i) : (g.ws i v).sreg j = g.sreg j := by
  have hv : i.val ≠ j.val := fun e => h (Fin.ext e.symm)
  by_cases h0 : i = 0
  · simp [Group.ws, h0]
  · simp [Group.sreg, Group.ws, h0, vec_get_set, hv]

/-- s0 reads as 0 whatever was written (05 R114). -/
@[simp] theorem Group.sreg_zero (g : Group) : g.sreg 0 = 0 := by simp [Group.sreg]

@[simp] theorem State.ws_cur (s : State) (i : SNum) (v : DWord) : (s.ws i v).cur = s.cur.ws i v := by simp [State.ws]
@[simp] theorem State.advance_cur (s : State) : s.advance.cur = { s.cur with pc := s.cur.pc + 4 } := by simp [State.advance]
@[simp] theorem State.jumpTo_cur (s : State) (a : BitVec 57) : (s.jumpTo a).cur = s.cur.goTo a := by simp [State.jumpTo]
@[simp] theorem State.ws_mem (s : State) (i : SNum) (v : DWord) : (s.ws i v).mem = s.mem := by simp [State.ws]
@[simp] theorem State.advance_mem (s : State) : s.advance.mem = s.mem := by simp [State.advance]
@[simp] theorem State.jumpTo_mem (s : State) (a : BitVec 57) : (s.jumpTo a).mem = s.mem := by simp [State.jumpTo]

end Sys2Proof.Machine
end

