-- ==== Sys2Proof/Laws/Lane.lean ====
section
/-! SUPPORT. What the shared operations of lane words do where a word issues: the driver, the move past a word, and the
write of a result or a predicate. -/

namespace Sys2Proof.Machine

/-- A lane word that issues makes its own effect. -/
theorem laneGo_ready {i : Instr} {s : State} {x : LaneRun} (body : LaneRun → Out) (h : laneReady i s = some x) :
    laneGo i s body = body x := by
  unfold laneReady at h
  split at h
  · cases h
  · rename_i y hy
    split at h
    · rename_i hc
      cases h
      simp only [Bool.and_eq_true, Bool.not_eq_true', List.all_eq_true] at hc
      obtain ⟨⟨⟨⟨⟨hf, hl⟩, hr⟩, hw⟩, hs⟩, hp⟩ := hc
      have he : (laneReads i x.r x.w).filter (fun e => !(s.cur.vreg e.1).full) = [] := by
        rw [List.filter_eq_nil_iff]; intro e he; simp [hr e he]
      have hwr : (laneWrites i x.r x.w).any (fun d => !(s.cur.vreg d).full && !x.mayFill d) = false := by
        rw [List.any_eq_false]; intro d hd; have := hw d hd; revert this
        cases (s.cur.vreg d).full <;> cases x.mayFill d <;> simp
      unfold laneGo
      simp [hy, hf, hl, he, hwr, hs, hp]
    · cases h

/-- What a word issues in is the current group's. -/
theorem laneReady_cur {i : Instr} {s : State} {x : LaneRun} (h : laneReady i s = some x) : x.c.g = s.cur := by
  unfold laneReady at h
  split at h
  · cases h
  · rename_i y hy
    split at h
    · cases h
      unfold laneRunOf at hy
      repeat' split at hy
      all_goals first | (cases hy; done) | (cases hy; rfl)
    · cases h

/-! ### What moving past a word leaves alone -/

/-- t is g but for the running block's own state; every scalar register keeps its value, though it may become full. -/
def blockOnly (g t : Group) : Prop :=
  t = { g with sregs := t.sregs, block := t.block, held := t.held, fin := t.fin, heldFin := t.heldFin, spool := t.spool, pairser := t.pairser } ∧
    ∀ r : Fin 64, (t.sregs.get r).val = (g.sregs.get r).val

theorem blockOnly_refl (g : Group) : blockOnly g g := ⟨rfl, fun _ => rfl⟩

theorem blockOnly_trans {a b c : Group} (h : blockOnly a b) (k : blockOnly b c) : blockOnly a c := by
  refine ⟨?_, fun r => (k.2 r).trans (h.2 r)⟩
  rw [k.1, h.1]

theorem blockOnly_sfill (g : Group) (i : SNum) : blockOnly g (g.sfill i) := by
  unfold Group.sfill
  split
  · exact blockOnly_refl g
  · refine ⟨rfl, fun r => ?_⟩
    simp only [vec_get_set]
    split
    · rename_i h; rw [show r = i from Fin.ext h.symm]
    · rfl

theorem blockOnly_foldl {α : Type} (f : Group → α → Group) (hf : ∀ g a, blockOnly g (f g a)) (l : List α) :
    ∀ g, blockOnly g (l.foldl f g) := by
  induction l with
  | nil => exact blockOnly_refl
  | cons a l ih => exact fun g => blockOnly_trans (hf g a) (ih _)

theorem blockOnly_fillDests (g : Group) (d : BitVec 16) : blockOnly g (g.fillDests d) := by
  refine blockOnly_foldl _ (fun g a => ?_) _ g
  split
  · exact blockOnly_sfill _ _
  · exact blockOnly_refl _

theorem blockOnly_dropBlock (g : Group) (b : Block) : blockOnly g (g.dropBlock b) :=
  blockOnly_trans (blockOnly_fillDests g b.entry.dmask) ⟨rfl, fun _ => rfl⟩

theorem blockOnly_endBlock (g : Group) : blockOnly g g.endBlock := by
  unfold Group.endBlock
  split
  · exact blockOnly_refl g
  · rename_i b _
    refine blockOnly_trans (blockOnly_dropBlock g b) ?_
    generalize g.dropBlock b = u
    simp only
    split
    · have h : blockOnly u { u with held := none, fin := u.heldFin, heldFin := 0 } := ⟨rfl, fun _ => rfl⟩
      refine blockOnly_trans h ?_
      split
      · exact blockOnly_refl _
      · split
        · exact blockOnly_dropBlock _ _
        · exact ⟨rfl, fun _ => rfl⟩
    · exact blockOnly_refl u

theorem blockOnly_setStack (g : Group) (b : Block) (st : List Split) : blockOnly g (g.setStack b st) := by
  unfold Group.setStack
  simp only
  split
  · exact blockOnly_trans ⟨rfl, fun _ => rfl⟩ (blockOnly_endBlock _)
  · exact ⟨rfl, fun _ => rfl⟩

theorem blockOnly_moveTo (g : Group) (b : Block) (pos w : Nat) : blockOnly g (g.moveTo b pos w) := by
  unfold Group.moveTo
  split
  · exact blockOnly_refl g
  · simp only
    split
    · exact blockOnly_trans (b := { g with fin := _ }) ⟨rfl, fun _ => rfl⟩ (blockOnly_setStack _ _ _)
    · exact blockOnly_setStack _ _ _

theorem blockOnly_passWord (g : Group) (b : Block) (pos : Nat) (q : Split) (w p : Bool) : blockOnly g (g.passWord b pos q w p) := by
  unfold Group.passWord
  simp only
  split
  · exact blockOnly_trans (b := { g with pairser := _ }) ⟨rfl, fun _ => rfl⟩ (blockOnly_moveTo _ _ _ _)
  · exact blockOnly_moveTo _ _ _ _

/-- A word that is done: its effect f on the group, then only the block moves on. -/
theorem LaneRun.done_ok (x : LaneRun) (s : State) (f : Group → Group) :
    ∃ t, x.done s f = .next t ∧ t = s.setCur t.cur ∧ blockOnly (f s.cur) t.cur :=
  ⟨_, rfl, by simp [State.updCur], by simpa using blockOnly_passWord _ _ _ _ _ _⟩

/-! ### Masks, and the write of a result -/

theorem maskSum_bits (f : Nat → Bool) (m : Nat) :
    (List.range m).foldl (fun a i => if f i then a + 2 ^ i else a) 0 < 2 ^ m ∧
      ∀ n, ((List.range m).foldl (fun a i => if f i then a + 2 ^ i else a) 0).testBit n = (decide (n < m) && f n) := by
  induction m with
  | zero => simp
  | succ m ih =>
    obtain ⟨hl, hb⟩ := ih
    rw [List.range_succ, List.foldl_append]
    simp only [List.foldl_cons, List.foldl_nil]
    generalize (List.range m).foldl (fun a i => if f i then a + 2 ^ i else a) 0 = N at hl hb
    split
    · rename_i hf
      refine ⟨by rw [Nat.pow_succ]; omega, fun n => ?_⟩
      rw [Nat.add_comm, ← Nat.one_mul (2 ^ m)]
      rcases Nat.lt_trichotomy n m with h | h | h
      · rw [Nat.one_mul, Nat.testBit_two_pow_add_gt h, hb]; simp [h, Nat.lt_succ_of_lt h]
      · subst h; rw [Nat.one_mul, Nat.testBit_two_pow_add_eq, hb]; simp [hf]
      · rw [Nat.testBit_lt_two_pow]
        · simp [show ¬ n < m + 1 by omega]
        · calc 1 * 2 ^ m + N < 2 ^ (m + 1) := by rw [Nat.pow_succ]; omega
            _ ≤ 2 ^ n := Nat.pow_le_pow_right (by omega) h
    · rename_i hf
      refine ⟨by rw [Nat.pow_succ]; omega, fun n => ?_⟩
      rw [hb]
      rcases Nat.lt_trichotomy n m with h | h | h
      · simp [h, Nat.lt_succ_of_lt h]
      · subst h; simp [hf]
      · simp [show ¬ n < m by omega, show ¬ n < m + 1 by omega]

theorem maskOf_getLsbD (f : Nat → Bool) {n : Nat} (h : n < 32) : (maskOf f).getLsbD n = f n := by
  unfold maskOf
  rw [BitVec.getLsbD_ofNat, (maskSum_bits f 32).2]
  simp [h]
theorem getLsbD_lt {m : Mask} {n : Nat} (h : m.getLsbD n = true) : n < 32 := by
  by_contra hn
  rw [BitVec.getLsbD_of_ge _ _ (by omega)] at h; cases h

theorem mem_lanesOf {m : Mask} {n : Nat} : n ∈ lanesOf m ↔ m.getLsbD n = true := by
  unfold lanesOf
  simp only [List.mem_filter, List.mem_range]
  exact ⟨fun h => h.2, fun h => ⟨getLsbD_lt h, h⟩⟩

theorem maskOf_eq_zero (f : Nat → Bool) : maskOf f = 0 ↔ ∀ n < 32, f n = false := by
  constructor
  · intro h n hn; rw [← maskOf_getLsbD f hn, h]; simp
  · intro h
    apply BitVec.eq_of_getLsbD_eq
    intro n hn
    rw [maskOf_getLsbD f hn, h n hn]; simp

/-- The results of a word as its write holds them. -/
theorem performed_at (m : Mask) (f : Nat → LaneRes) (n : Nat) :
    (if m.getLsbD n then (Vector.ofFn (n := 32) fun k => if m.getLsbD k.val then f k.val else ⟨0, 0, none, none⟩)[n]? else none) =
      if m.getLsbD n then some (f n) else none := by
  split
  · rename_i h
    simp [getLsbD_lt h, h]
  · rfl

/-- Does the current group breach? -/
theorem breaching_isEmpty (x : LaneRun) (f : Nat → LaneRes) :
    (x.breaching f).isEmpty = true ↔ ∀ n, x.perf.getLsbD n = true → (x.w.dst.toNat < 112 ∨ n = lowestLane x.perf) → breaches (allow x.c.alw) (f n).bnd (f n).y = false := by
  unfold LaneRun.breaching
  simp only [List.isEmpty_iff, List.filter_eq_nil_iff, mem_lanesOf]
  refine forall_congr' fun n => ?_
  by_cases h : x.w.dst.toNat < 112 <;> by_cases h2 : n = lowestLane x.perf <;> simp [h, h2]

theorem LaneRun.write_bad (x : LaneRun) (always : Bool) (f : Nat → LaneRes) :
   (maskOf fun n => (always || (allow x.c.alw).chkall) && x.perf.getLsbD n && (!decide (112 ≤ x.w.dst.toNat) || n == lowestLane x.perf) &&
    (match (Vector.ofFn (n := 32) fun k => if x.perf.getLsbD k.val then f k.val else (⟨0, 0, none, none⟩ : LaneRes))[n]? with | some r => breaches (allow x.c.alw) r.bnd r.y | none => false)) = 0 ↔
   ((always || (allow x.c.alw).chkall) && !(x.breaching f).isEmpty) = false := by
  rw [maskOf_eq_zero]
  by_cases hc : (always || (allow x.c.alw).chkall) = true
  · simp only [hc, Bool.true_and, Bool.not_eq_false', breaching_isEmpty]
    constructor
    · intro h n hn hd
      have := h n (getLsbD_lt hn)
      rw [hn] at this
      have hd' : (!decide (112 ≤ x.w.dst.toNat) || n == lowestLane x.perf) = true := by
        rcases hd with hd | hd
        · simp [show ¬ 112 ≤ x.w.dst.toNat by omega]
        · simp [hd]
      rw [hd'] at this
      simpa [getLsbD_lt hn, hn] using this
    · intro h n hn
      by_cases hp : x.perf.getLsbD n = true
      · by_cases hd : x.w.dst.toNat < 112 ∨ n = lowestLane x.perf
        · have := h n hp hd; simp [hn, hp, this]
        · have : (!decide (112 ≤ x.w.dst.toNat) || n == lowestLane x.perf) = false := by
            simp only [not_or] at hd; simp [hd.2]; omega
          simp [this]
      · simp [hp]
  · simp [hc]


theorem Group.vreg_setV (g : Group) (r : Nat) (v : VReg) (n : Nat) : (g.setV r v).vreg n = if n = r ∧ r < 112 then v else g.vreg n := by
  unfold Group.setV Group.vreg
  by_cases hr : r < 112
  · by_cases hn : n < 112
    · simp only [hr, hn, dif_pos, vec_get_set]
      by_cases e : n = r
      · simp [e]
      · simp [e, Ne.symm e]
    · simp [hr, hn, show n ≠ r by omega]
  · simp [hr]

theorem Group.res_setResid (g : Group) (k : Nat) (f : Nat → Option Word) (e n : Nat) :
    (g.setResid k f).res e n = if e = k ∧ k < 8 ∧ n < 32 then (f n).getD (g.res e n) else g.res e n := by
  unfold Group.setResid Group.res
  by_cases hk : k < 8
  · simp only [hk, dif_pos]
    by_cases e1 : e = k
    · subst e1
      by_cases hn : n < 32
      · simp [hk, hn]
      · simp [hk, hn]
    · by_cases h8 : e < 8
      · simp [h8, e1, Ne.symm e1]
      · simp [h8, e1]
  · simp [hk]

@[simp] theorem Group.vreg_putV (g : Group) (r : Nat) (l : Mask) (v : VReg) (n : Nat) :
    (g.putV r l v).vreg n = if n = r ∧ r < 112 then v else g.vreg n := Group.vreg_setV g r v n

@[simp] theorem Group.sregs_putV (g : Group) (r : Nat) (l : Mask) (v : VReg) : (g.putV r l v).sregs = g.sregs := by
  unfold Group.putV Group.touch Group.setV; split <;> rfl

@[simp] theorem Group.watched_putV (g : Group) (r : Nat) (l : Mask) (v : VReg) : (g.putV r l v).watched = (g.touch r l).watched := by
  unfold Group.putV Group.touch Group.setV; split <;> rfl

/-- What a result's write does to the group, before the block moves on. -/
def LaneRun.put (x : LaneRun) (bad : Mask) (f : Nat → LaneRes) (g : Group) : Group :=
  let g := if bad ≠ 0 then g.setStat 1 else g
  let g := if x.w.rnd = 5 ∧ x.r.res = .float then g.setResid (x.w.dst.toNat % 8) (fun n => (x.performed f n).bind (·.res)) else g
  if 112 ≤ x.w.dst.toNat then
    (if x.perf = 0 then g else g.writeLaneS (x.w.dst.toNat - 112) (BitVec.ofNat 32 ((x.performed f (lowestLane x.perf)).getD ⟨0, 0, none, none⟩).code))
  else g.putV x.w.dst.toNat x.perf (writeLanes (g.vreg x.w.dst.toNat) (narrowOf x.r x.w x.c.fmt) (x.performed f))

theorem LaneRun.put_rest (x : LaneRun) (bad : Mask) (f : Nat → LaneRes) (g : Group) :
    x.put bad f g = { g with vregs := (x.put bad f g).vregs, sregs := (x.put bad f g).sregs, gstat := (x.put bad f g).gstat, resid := (x.put bad f g).resid, watched := (x.put bad f g).watched } := by
  unfold LaneRun.put Group.setStat Group.setResid Group.writeLaneS Group.putV Group.touch Group.setV
  simp only
  repeat' split
  all_goals rfl

theorem LaneRun.put_gstat (x : LaneRun) (bad : Mask) (f : Nat → LaneRes) (g : Group) :
    (x.put bad f g).gstat = if bad ≠ 0 then g.gstat ||| 2 else g.gstat := by
  unfold LaneRun.put Group.setStat Group.setResid Group.writeLaneS Group.putV Group.touch Group.setV
  simp only
  repeat' split
  all_goals rfl

theorem LaneRun.put_res (x : LaneRun) (bad : Mask) (f : Nat → LaneRes) (g : Group) (e n : Nat) :
    (x.put bad f g).res e n = if x.w.rnd = 5 ∧ x.r.res = .float ∧ e = x.w.dst.toNat % 8 ∧ x.perf.getLsbD n then ((f n).res).getD (g.res e n) else g.res e n := by
  have key : ∀ g1 : Group, g1.resid = (if x.w.rnd = 5 ∧ x.r.res = .float then (g.setResid (x.w.dst.toNat % 8) (fun n => (x.performed f n).bind (·.res))).resid else g.resid) →
      g1.res e n = if x.w.rnd = 5 ∧ x.r.res = .float ∧ e = x.w.dst.toNat % 8 ∧ x.perf.getLsbD n then ((f n).res).getD (g.res e n) else g.res e n := by
    intro g1 h
    by_cases hc : x.w.rnd = 5 ∧ x.r.res = .float
    · rw [if_pos hc] at h
      have : g1.res e n = (g.setResid (x.w.dst.toNat % 8) (fun n => (x.performed f n).bind (·.res))).res e n := by
        unfold Group.res; rw [h]
      rw [this, Group.res_setResid]
      by_cases he : e = x.w.dst.toNat % 8
      · by_cases hp : x.perf.getLsbD n = true
        · simp [he, hp, hc.1, hc.2, getLsbD_lt hp, Nat.mod_lt, LaneRun.performed]
        · have hp' : x.performed f n = none := by simp [LaneRun.performed, hp]
          have hr : ¬ (x.w.rnd = 5 ∧ x.r.res = .float ∧ e = x.w.dst.toNat % 8 ∧ x.perf.getLsbD n = true) := fun h => hp h.2.2.2
          rw [if_neg hr, hp']
          split <;> rfl
      · simp [he]
    · rw [if_neg hc] at h
      have : g1.res e n = g.res e n := by unfold Group.res; rw [h]
      rw [this, if_neg (fun h => hc ⟨h.1, h.2.1⟩)]
  apply key
  unfold LaneRun.put Group.setStat Group.writeLaneS Group.putV Group.touch Group.setV
  simp only
  repeat' split
  all_goals first | rfl | (unfold Group.setResid; split <;> rfl)

theorem LaneRun.put_watched (x : LaneRun) (bad : Mask) (f : Nat → LaneRes) (g : Group) :
    (x.put bad f g).watched = if x.w.dst.toNat < 112 then (g.touch x.w.dst.toNat x.perf).watched else g.watched := by
  unfold LaneRun.put Group.setStat Group.setResid Group.writeLaneS Group.putV Group.touch Group.setV
  simp only
  repeat' split
  all_goals first | rfl | omega

theorem LaneRun.put_vreg (x : LaneRun) (bad : Mask) (f : Nat → LaneRes) (g : Group) (r : Nat) :
    (x.put bad f g).vreg r = if r = x.w.dst.toNat ∧ x.w.dst.toNat < 112 then writeLanes (g.vreg x.w.dst.toNat) (narrowOf x.r x.w x.c.fmt) (x.performed f) else g.vreg r := by
  have key : ∀ g1 : Group, g1.vregs = g.vregs → (∀ n, g1.vreg n = g.vreg n) := by
    intro g1 h n; unfold Group.vreg; rw [h]
  have h1 : ∀ g1 : Group, g1.vregs = g.vregs → (if 112 ≤ x.w.dst.toNat then
      (if x.perf = 0 then g1 else g1.writeLaneS (x.w.dst.toNat - 112) (BitVec.ofNat 32 ((x.performed f (lowestLane x.perf)).getD ⟨0, 0, none, none⟩).code))
      else g1.putV x.w.dst.toNat x.perf (writeLanes (g1.vreg x.w.dst.toNat) (narrowOf x.r x.w x.c.fmt) (x.performed f))).vreg r =
      if r = x.w.dst.toNat ∧ x.w.dst.toNat < 112 then writeLanes (g.vreg x.w.dst.toNat) (narrowOf x.r x.w x.c.fmt) (x.performed f) else g.vreg r := by
    intro g1 h
    by_cases hd : 112 ≤ x.w.dst.toNat
    · have hn : ¬ (r = x.w.dst.toNat ∧ x.w.dst.toNat < 112) := by omega
      rw [if_pos hd, if_neg hn]
      split
      · exact key _ h _
      · exact key _ (by simpa [Group.writeLaneS] using h) _
    · rw [if_neg hd, Group.vreg_putV, key _ h, key _ h]
  apply h1
  unfold Group.setStat Group.setResid
  repeat' split
  all_goals rfl

theorem LaneRun.put_sreg (x : LaneRun) (bad : Mask) (f : Nat → LaneRes) (g : Group) (r : Fin 64) :
    ((x.put bad f g).sregs.get r).val = if 112 ≤ x.w.dst.toNat ∧ x.perf ≠ 0 ∧ r.val = 16 + (x.w.dst.toNat - 112) % 16 then
      (BitVec.ofNat 32 ((x.performed f (lowestLane x.perf)).getD ⟨0, 0, none, none⟩).code).setWidth 64 else (g.sregs.get r).val := by
  have h1 : ∀ g1 : Group, g1.sregs = g.sregs → ((if 112 ≤ x.w.dst.toNat then
      (if x.perf = 0 then g1 else g1.writeLaneS (x.w.dst.toNat - 112) (BitVec.ofNat 32 ((x.performed f (lowestLane x.perf)).getD ⟨0, 0, none, none⟩).code))
      else g1.putV x.w.dst.toNat x.perf (writeLanes (g1.vreg x.w.dst.toNat) (narrowOf x.r x.w x.c.fmt) (x.performed f))).sregs.get r).val =
      if 112 ≤ x.w.dst.toNat ∧ x.perf ≠ 0 ∧ r.val = 16 + (x.w.dst.toNat - 112) % 16 then
      (BitVec.ofNat 32 ((x.performed f (lowestLane x.perf)).getD ⟨0, 0, none, none⟩).code).setWidth 64 else (g.sregs.get r).val := by
    intro g1 h
    by_cases hd : 112 ≤ x.w.dst.toNat
    · rw [if_pos hd]
      by_cases hp : x.perf = 0
      · simp [hp, h]
      · simp only [hp, if_false, Group.writeLaneS, vec_get_set, h, hd, true_and, ne_eq, not_false_eq_true]
        by_cases hr : r.val = 16 + (x.w.dst.toNat - 112) % 16
        · simp [hr]
        · simp [hr, Ne.symm hr]
    · rw [if_neg hd, if_neg (fun h => hd h.1)]
      simp [h]
  apply h1
  unfold Group.setStat Group.setResid
  repeat' split
  all_goals rfl

theorem lowestLane_mem {m : Mask} (h : m ≠ 0) : m.getLsbD (lowestLane m) = true := by
  unfold lowestLane
  cases hl : lanesOf m with
  | nil =>
    exfalso; apply h
    apply BitVec.eq_of_getLsbD_eq
    intro n _
    by_contra hc
    have : n ∈ lanesOf m := mem_lanesOf.2 (by revert hc; cases m.getLsbD n <;> simp)
    rw [hl] at this; cases this
  | cons a l => exact mem_lanesOf.1 (by rw [hl]; simp)

/-- A result that is admitted is written, and the word is done. -/
theorem LaneRun.write_ok (x : LaneRun) (s : State) (always : Bool) (kind : Nat) (f : Nat → LaneRes)
    (h : x.admits always f = true) : ∃ t, x.write s always kind f = .next t ∧ laneOnly s t ∧ x.stored always s.cur t.cur f := by
  have hb := x.write_bad always f
  have hw : x.write s always kind f =
      (let bad := (maskOf fun n => (always || (allow x.c.alw).chkall) && x.perf.getLsbD n && (!decide (112 ≤ x.w.dst.toNat) || n == lowestLane x.perf) &&
    (match (Vector.ofFn (n := 32) fun k => if x.perf.getLsbD k.val then f k.val else (⟨0, 0, none, none⟩ : LaneRes))[n]? with | some r => breaches (allow x.c.alw) r.bnd r.y | none => false))
      if bad ≠ 0 ∧ (allow x.c.alw).bte then x.trap s cBreach (breachInfo (allow x.c.alw) kind 0 ((lanesOf bad).filterMap fun n => (x.performed f n).map fun r => (r.bnd, r.y))) bad
      else x.done s (x.put bad f)) := by
    unfold LaneRun.write LaneRun.put LaneRun.performed
    simp only [performed_at]
    all_goals rfl
  rw [hw]
  simp only
  generalize (maskOf fun n => (always || (allow x.c.alw).chkall) && x.perf.getLsbD n && (!decide (112 ≤ x.w.dst.toNat) || n == lowestLane x.perf) &&
    (match (Vector.ofFn (n := 32) fun k => if x.perf.getLsbD k.val then f k.val else (⟨0, 0, none, none⟩ : LaneRes))[n]? with | some r => breaches (allow x.c.alw) r.bnd r.y | none => false)) = bad at hb
  have hno : ¬ (bad ≠ 0 ∧ (allow x.c.alw).bte = true) := by
    rintro ⟨h1, h2⟩
    apply h1
    rw [hb]
    unfold LaneRun.admits at h
    revert h
    cases (always || (allow x.c.alw).chkall) <;> cases (x.breaching f).isEmpty <;> simp [h2]
  rw [if_neg hno]
  have hbad : bad ≠ 0 ↔ ((always || (allow x.c.alw).chkall) && !(x.breaching f).isEmpty) = true := by
    rw [ne_eq, hb, Bool.not_eq_false]
  obtain ⟨t, ht, hs, h1, h2⟩ := x.done_ok s (x.put bad f)
  refine ⟨t, ht, ⟨hs, ?_⟩, ?_, ?_, ?_, ?_, ?_, ?_, ?_, ?_, ?_⟩
  · rw [h1, x.put_rest]
  · intro hd
    have : t.cur.vreg x.w.dst.toNat = (x.put bad f s.cur).vreg x.w.dst.toNat := by rw [h1]; rfl
    rw [this, x.put_vreg, if_pos ⟨rfl, hd⟩]
  · intro r hr
    have : t.cur.vreg r = (x.put bad f s.cur).vreg r := by rw [h1]; rfl
    rw [this, x.put_vreg, if_neg (fun h => hr h.1)]
  · intro hd hp
    have := h2 ⟨16 + (x.w.dst.toNat - 112) % 16, by omega⟩
    rw [x.put_sreg, if_pos ⟨hd, hp, rfl⟩] at this
    rw [LaneRun.performed, if_pos (lowestLane_mem hp)] at this
    exact this
  · intro r hr
    rw [h2 r, x.put_sreg, if_neg]
    rintro ⟨a, b, c⟩
    rcases hr with hr | hr
    · omega
    · exact hr c
  · intro e n
    have : t.cur.res e n = (x.put bad f s.cur).res e n := by rw [h1]; rfl
    rw [this, x.put_res]
  · have : t.cur.gstat = (x.put bad f s.cur).gstat := by rw [h1]
    rw [this, x.put_gstat]
    by_cases hz : bad ≠ 0
    · rw [if_pos hz, if_pos (hbad.1 hz)]
    · rw [if_neg hz, if_neg (fun h => hz (hbad.2 h))]
  · rw [h1, x.put_rest]
  · rw [h1, x.put_rest]
  · have : t.cur.watched = (x.put bad f s.cur).watched := by rw [h1]
    rw [this, x.put_watched]

/-- A word that writes one register completes with its results stored (`LaneResult`). -/
theorem vecOp_result {i : Instr} (f : LaneCtx → Nat → LaneRes) (s : State) (x : LaneRun) (h : laneReady i s = some x)
    (ha : x.admits false (f x.c) = true) : ∃ t, vecOp i f s = .next t ∧ laneOnly s t ∧ x.stored false s.cur t.cur (f x.c) := by
  unfold vecOp
  rw [laneGo_ready _ h]
  exact x.write_ok s false 0 (f x.c) ha

theorem Group.predMask_setPred (g : Group) (p : Nat) (m : Mask) (q : Nat) :
    (g.setPred p m).predMask q = if q = p ∧ p < 7 then m else g.predMask q := by
  unfold Group.setPred Group.predMask
  by_cases hp : p < 7
  · by_cases hq : q < 7
    · simp only [hp, hq, dif_pos, vec_get_set]
      by_cases e : q = p
      · simp [e]
      · simp [e, Ne.symm e]
    · simp [hp, hq, show q ≠ p by omega]
  · simp [hp]

/-- The predicate a word of the issued form names is one of p0 to p6. -/
theorem laneReady_pdst {i : Instr} {s : State} {x : LaneRun} (h : laneReady i s = some x) (hd : x.r.dst = .pred) : x.w.pdst.toNat < 7 := by
  unfold laneReady at h
  split at h
  · cases h
  · rename_i y hy
    split at h
    · rename_i hc
      cases h
      simp only [Bool.and_eq_true] at hc
      have hf : laneFits i x.r x.w s.cur x.b.entry.dmask x.q.fmt = true := hc.1.1.1.1.2
      have hr : laneRow i = some (x.r, x.w) := by
        unfold laneRunOf at hy
        repeat' split at hy
        all_goals first | (cases hy; done) | (cases hy; assumption)
      unfold laneFits at hf
      simp only [Bool.and_eq_true] at hf
      have hk : fieldsOk i = true := hf.1.1.1.1.1.1
      have hdst : dstOk x.r.dst x.w = true := by
        unfold fieldsOk at hk
        split at hk
        · simp [laneRow] at hr
        · rw [hr] at hk
          simp only [Bool.and_eq_true] at hk
          exact hk.1.1.2
      rw [hd] at hdst
      have h7 : x.w.dst.toNat < 7 := by simpa [dstOk] using hdst
      have : x.w.pdst.toNat ≤ x.w.dst.toNat := by
        unfold LaneWord.pdst
        simp only [BitVec.extractLsb'_toNat]
        exact Nat.le_trans (Nat.mod_le _ _) (by simp)
      omega
    · cases h

/-- A word that writes a predicate completes with its outcomes stored (`LanePredicate`). -/
theorem predOp_result {i : Instr} {int : Bool} (f : LaneCtx → Nat → Bool × Bool) (s : State) (x : LaneRun) (h : laneReady i s = some x)
    (hd : x.r.dst = .pred) (hu : (((lanesOf x.perf).any fun n => (f x.c n).2) && (allow x.c.alw).ute) = false) :
    ∃ t, predOp i int f s = .next t ∧ laneOnly s t ∧ x.decided s.cur t.cur x.w.pdst.toNat (fun n => (f x.c n).1) ∧
      t.cur.gstat = if (lanesOf x.perf).any (fun n => (f x.c n).2) then s.cur.gstat ||| 1 else s.cur.gstat := by
  have h7 := laneReady_pdst h hd
  unfold predOp
  rw [laneGo_ready _ h]
  simp only
  have hval : ∀ n < 32, x.perf.getLsbD n = true → (Vector.ofFn (n := 32) fun k => if x.perf.getLsbD k.val then f x.c k.val else (false, false))[n]? = some (f x.c n) := by
    intro n hn hp; simp [hn, hp]
  have hfalse : ∀ n < 32, x.perf.getLsbD n = false → (Vector.ofFn (n := 32) fun k => if x.perf.getLsbD k.val then f x.c k.val else (false, false))[n]? = some (false, false) := by
    intro n hn hp
    rw [Vector.getElem?_eq_getElem hn, Vector.getElem_ofFn, if_neg (by simp [hp])]
  generalize (Vector.ofFn (n := 32) fun k => if x.perf.getLsbD k.val then f x.c k.val else (false, false)) = v at hval hfalse
  have hunc : (maskOf fun n => ((v[n]?).getD (false, false)).2) ≠ 0 ↔ (lanesOf x.perf).any (fun n => (f x.c n).2) = true := by
    rw [ne_eq, maskOf_eq_zero]
    simp only [List.any_eq_true, mem_lanesOf, not_forall]
    constructor
    · rintro ⟨n, hn, hv⟩
      cases hp : x.perf.getLsbD n with
      | true => rw [hval n hn hp] at hv; exact ⟨n, hp, by simpa using hv⟩
      | false => rw [hfalse n hn hp] at hv; simp at hv
    · rintro ⟨n, hp, hv⟩
      exact ⟨n, getLsbD_lt hp, by rw [hval n (getLsbD_lt hp) hp]; simpa using hv⟩
  have hno : ¬ ((maskOf fun n => ((v[n]?).getD (false, false)).2) ≠ 0 ∧ (allow x.c.alw).ute = true) := by
    rintro ⟨h1, h2⟩
    rw [hunc.1 h1, h2] at hu
    cases hu
  rw [if_neg hno]
  obtain ⟨t, ht, hs, h1, h2⟩ := x.done_ok s fun g =>
    let g := if (maskOf fun n => ((v[n]?).getD (false, false)).2) ≠ 0 then g.setStat 0 else g
    g.setPred x.w.pdst.toNat (blend x.perf (g.predMask x.w.pdst.toNat) (maskOf fun n => ((v[n]?).getD (false, false)).1))
  have hg : (let g := if (maskOf fun n => ((v[n]?).getD (false, false)).2) ≠ 0 then s.cur.setStat 0 else s.cur
      g.setPred x.w.pdst.toNat (blend x.perf (g.predMask x.w.pdst.toNat) (maskOf fun n => ((v[n]?).getD (false, false)).1))) =
      { s.cur.setPred x.w.pdst.toNat (blend x.perf (s.cur.predMask x.w.pdst.toNat) (maskOf fun n => ((v[n]?).getD (false, false)).1)) with
        gstat := if (lanesOf x.perf).any (fun n => (f x.c n).2) then s.cur.gstat ||| 1 else s.cur.gstat } := by
    by_cases hz : (maskOf fun n => ((v[n]?).getD (false, false)).2) ≠ 0
    · rw [if_pos hz, if_pos (hunc.1 hz)]
      unfold Group.setStat Group.setPred
      simp only [h7, dif_pos]
      rfl
    · rw [if_neg hz, if_neg (fun h => hz (hunc.2 h))]
      unfold Group.setPred
      simp only [h7, dif_pos]
  simp only at hg h1
  rw [hg] at h1
  have hp : ∀ q, t.cur.predMask q = (s.cur.setPred x.w.pdst.toNat (blend x.perf (s.cur.predMask x.w.pdst.toNat) (maskOf fun n => ((v[n]?).getD (false, false)).1))).predMask q := by
    intro q; rw [h1]; rfl
  have hrest : ∀ m, s.cur.setPred x.w.pdst.toNat m = { s.cur with preds := (s.cur.setPred x.w.pdst.toNat m).preds } := by
    intro m; unfold Group.setPred; simp only [h7, dif_pos]
  refine ⟨t, ht, ⟨hs, ?_⟩, ⟨?_, ?_, ?_, ?_, ?_, ?_⟩, ?_⟩
  · rw [h1, hrest]
  · intro n hn
    rw [hp, Group.predMask_setPred, if_pos ⟨rfl, h7⟩]
    unfold blend
    simp only [BitVec.getLsbD_or, BitVec.getLsbD_and, BitVec.getLsbD_not, hn, decide_true, Bool.true_and]
    rw [maskOf_getLsbD _ hn]
    cases hpn : x.perf.getLsbD n with
    | true => rw [hval n hn hpn]; simp
    | false => simp
  · intro q hq
    rw [hp, Group.predMask_setPred, if_neg (fun h => hq h.1)]
  · rw [h1, hrest]
  · rw [h1, hrest]
  · rw [h1, hrest]
  · rw [h1, hrest]
  · rw [h1]

/-- What a word issues in holds the instruction's own row and word. -/
theorem laneReady_word {i : Instr} {s : State} {x : LaneRun} {r : LaneRow} {w : LaneWord} (h : laneReady i s = some x)
    (hr : laneRow i = some (r, w)) : x.c.w = w ∧ x.w = w ∧ x.r = r := by
  unfold laneReady at h
  split at h
  · cases h
  · rename_i y hy
    split at h
    · cases h
      unfold laneRunOf at hy
      rw [hr] at hy
      repeat' split at hy
      all_goals first | (cases hy; done) | (cases hy; simp_all)
    · cases h

end Sys2Proof.Machine
end

