-- ==== Sys2Proof/Laws/Parts.lean ====
section
/-! SUPPORT. Parts of the device that do not see each other: what a read of one part gives after a change of another, and what
the composed updates (`updGrp`, `updCur`, `updCore`, `ws`, `advance`) leave as it was. -/

namespace Sys2Proof.Machine

/-! ### Groups and cores -/

@[simp] theorem State.grp_setCore (s : State) (n : Nat) (c : Core) (p : Party) : (s.setCore n c).grp p = s.grp p := by cases p <;> rfl
@[simp] theorem State.cur_setCore (s : State) (n : Nat) (c : Core) : (s.setCore n c).cur = s.cur := State.grp_setCore s n c s.who
@[simp] theorem State.team_setCore (s : State) (n : Nat) (c : Core) (h : Nat) : (s.setCore n c).team h = s.team h := rfl
@[simp] theorem State.coreOf_setCore (s : State) (n : Nat) (c : Core) (p : Party) : (s.setCore n c).coreOf p = s.coreOf p := by cases p <;> rfl
@[simp] theorem State.ctxOf_setCore (s : State) (n : Nat) (c : Core) (p : Party) : (s.setCore n c).ctxOf p = s.ctxOf p := by cases p <;> rfl
@[simp] theorem State.core_setGrp (s : State) (p : Party) (g : Group) (n : Nat) : (s.setGrp p g).core n = s.core n := by cases p <;> rfl
@[simp] theorem State.core_setTeam (s : State) (h : Nat) (t : Team) (n : Nat) : (s.setTeam h t).core n = s.core n := rfl

/-- A group replaced leaves the team's core, and the stream's control core, as they were. -/
@[simp] theorem State.coreOf_setGrp (s : State) (p : Party) (g : Group) (q : Party) : (s.setGrp p g).coreOf q = s.coreOf q := by
  cases p with
  | group t k =>
    cases q with
    | stream j => rfl
    | group u j =>
      by_cases h : u = t
      · subst h; simp [State.setGrp, State.coreOf, Team.setGroup]
      · simp [State.setGrp, State.coreOf, State.team_setTeam_other _ _ h]
  | stream k =>
    cases q with
    | group u j => rfl
    | stream j =>
      by_cases h : j = k
      · subst h; simp [State.setGrp, State.coreOf]
      · simp [State.setGrp, State.coreOf, State.stream_setStream_other _ _ h]

@[simp] theorem State.core_setCore_get (s : State) (n m : Nat) (c : Core) : (s.setCore n c).core m = if m = n then c else s.core m := by
  by_cases h : m = n
  · subst h; simp
  · simp [h, State.core_setCore_other s c h]

/-! ### Composed updates -/

@[simp] theorem State.updCore_grp (s : State) (n : Nat) (f : Core → Core) (p : Party) : (s.updCore n f).grp p = s.grp p := by simp [State.updCore]
@[simp] theorem State.updCore_cur (s : State) (n : Nat) (f : Core → Core) : (s.updCore n f).cur = s.cur := by simp [State.updCore]
@[simp] theorem State.updCore_who (s : State) (n : Nat) (f : Core → Core) : (s.updCore n f).who = s.who := rfl
@[simp] theorem State.updCore_mem (s : State) (n : Nat) (f : Core → Core) : (s.updCore n f).mem = s.mem := rfl
@[simp] theorem State.updCore_md (s : State) (n : Nat) (f : Core → Core) : (s.updCore n f).md = s.md := rfl
@[simp] theorem State.updCore_team (s : State) (n : Nat) (f : Core → Core) (h : Nat) : (s.updCore n f).team h = s.team h := rfl
@[simp] theorem State.updCore_coreOf (s : State) (n : Nat) (f : Core → Core) (p : Party) : (s.updCore n f).coreOf p = s.coreOf p := by simp [State.updCore]
@[simp] theorem State.updCore_core (s : State) (n m : Nat) (f : Core → Core) : (s.updCore n f).core m = if m = n then f (s.core n) else s.core m := by
  simp [State.updCore]
@[simp] theorem State.updGrp_grp (s : State) (p : Party) (f : Group → Group) : (s.updGrp p f).grp p = f (s.grp p) := by simp [State.updGrp]
theorem State.updGrp_grp_other (s : State) {p q : Party} (f : Group → Group) (h : q ≠ p) : (s.updGrp p f).grp q = s.grp q := by
  simp [State.updGrp, State.grp_setGrp_other _ _ h]
@[simp] theorem State.updGrp_core (s : State) (p : Party) (f : Group → Group) (n : Nat) : (s.updGrp p f).core n = s.core n := by simp [State.updGrp]
@[simp] theorem State.updGrp_mem (s : State) (p : Party) (f : Group → Group) : (s.updGrp p f).mem = s.mem := by simp [State.updGrp]
@[simp] theorem State.updGrp_md (s : State) (p : Party) (f : Group → Group) : (s.updGrp p f).md = s.md := by simp [State.updGrp]
@[simp] theorem State.updGrp_who (s : State) (p : Party) (f : Group → Group) : (s.updGrp p f).who = s.who := by simp [State.updGrp]
@[simp] theorem State.updGrp_coreOf (s : State) (p : Party) (f : Group → Group) (q : Party) : (s.updGrp p f).coreOf q = s.coreOf q := by simp [State.updGrp]
@[simp] theorem State.updCur_core (s : State) (f : Group → Group) (n : Nat) : (s.updCur f).core n = s.core n := by simp [State.updCur, State.setCur]
@[simp] theorem State.updCur_md (s : State) (f : Group → Group) : (s.updCur f).md = s.md := by simp [State.updCur, State.setCur]
@[simp] theorem State.updCur_coreOf (s : State) (f : Group → Group) (p : Party) : (s.updCur f).coreOf p = s.coreOf p := by simp [State.updCur, State.setCur]
@[simp] theorem State.updCur_stalled (s : State) (f : Group → Group) : (s.updCur f).stalled = s.stalled := by simp [State.updCur, State.setCur]
@[simp] theorem State.ws_core (s : State) (i : SNum) (v : DWord) (n : Nat) : (s.ws i v).core n = s.core n := by simp [State.ws]
@[simp] theorem State.ws_stalled (s : State) (i : SNum) (v : DWord) : (s.ws i v).stalled = s.stalled := by simp [State.ws]
@[simp] theorem State.advance_core (s : State) (n : Nat) : s.advance.core n = s.core n := by simp [State.advance]
@[simp] theorem State.advance_stalled (s : State) : s.advance.stalled = s.stalled := by simp [State.advance]

/-! ### What executing for one party touches -/

/-- A group replaced changes the tables of teams and streams alone. -/
theorem State.setGrp_only (s : State) (p : Party) (g : Group) :
    s.setGrp p g = { s with teams := (s.setGrp p g).teams, streams := (s.setGrp p g).streams } := by cases p <;> rfl

end Sys2Proof.Machine
end

