-- ==== Sys2Proof/Laws/Memory.lean ====
section
/-! SUPPORT. Memory keeps its canonical form under every operation that writes it, a masked store is read back byte by
byte, and the parts of the device that the stores at a home leave alone. -/

namespace Sys2Proof.Machine

/-! ### Masked stores -/

theorem maskedFold_wf (base : Nat) (st : SecStore) (l : List Nat) :
    ∀ m : List Host.Cell, Memory.wf m = true →
      Memory.wf (l.foldl (fun m i => if st.mask.getLsbD i then KMap.set 0 m (base + i) (st.data.byte i) else m) m) = true := by
  induction l with
  | nil => exact fun _ h => h
  | cons i l ih =>
    intro m h
    refine ih _ ?_
    dsimp only
    split
    · exact KMap.wf_set _ _ h
    · exact h

/-- A masked store keeps the canonical form. -/
theorem writeMasked_wf {m : List Host.Cell} (base : Nat) (st : SecStore) (h : Memory.wf m = true) : Memory.wf (writeMasked m base st) = true :=
  maskedFold_wf base st _ m h

theorem maskedFold_get (base : Nat) (st : SecStore) (a : Nat) (l : List Nat) :
    ∀ m : List Host.Cell, readByte (l.foldl (fun m i => if st.mask.getLsbD i then KMap.set 0 m (base + i) (st.data.byte i) else m) m) a =
      if ∃ i ∈ l, base + i = a ∧ st.mask.getLsbD i = true then st.data.byte (a - base) else readByte m a := by
  induction l with
  | nil => intro m; simp
  | cons i l ih =>
    intro m
    rw [List.foldl_cons, ih]
    by_cases hl : ∃ j ∈ l, base + j = a ∧ st.mask.getLsbD j = true
    · have : ∃ j ∈ i :: l, base + j = a ∧ st.mask.getLsbD j = true := by
        obtain ⟨j, hj, h⟩ := hl; exact ⟨j, List.mem_cons_of_mem _ hj, h⟩
      rw [if_pos hl, if_pos this]
    · rw [if_neg hl]
      by_cases hi : base + i = a ∧ st.mask.getLsbD i = true
      · have : ∃ j ∈ i :: l, base + j = a ∧ st.mask.getLsbD j = true := ⟨i, List.mem_cons_self, hi⟩
        rw [if_pos this, if_pos hi.2, ← hi.1]
        simp [readByte]
      · have : ¬ ∃ j ∈ i :: l, base + j = a ∧ st.mask.getLsbD j = true := by
          rintro ⟨j, hj, h⟩
          rcases List.mem_cons.1 hj with rfl | hj
          · exact hi h
          · exact hl ⟨j, hj, h⟩
        rw [if_neg this]
        split
        · rename_i hm
          have : a ≠ base + i := fun e => hi ⟨e.symm, hm⟩
          simp [readByte, KMap.get_set_other _ _ _ this]
        · rfl

/-- What a masked store of a sector leaves in each byte. -/
theorem readByte_writeMasked (m : List Host.Cell) (sec : Nat) (st : SecStore) (a : Nat) :
    readByte (writeMasked m (64 * sec) st) a =
      if a / 64 = sec ∧ st.mask.getLsbD (a % 64) = true then st.data.byte (a % 64) else readByte m a := by
  rw [writeMasked, maskedFold_get]
  by_cases h : a / 64 = sec ∧ st.mask.getLsbD (a % 64) = true
  · have h1 : ∃ i ∈ List.range 64, 64 * sec + i = a ∧ st.mask.getLsbD i = true := by
      refine ⟨a % 64, List.mem_range.2 (Nat.mod_lt _ (by omega)), ?_, h.2⟩
      omega
    have h2 : a - 64 * sec = a % 64 := by omega
    rw [if_pos h1, if_pos h, h2]
  · have h1 : ¬ ∃ i ∈ List.range 64, 64 * sec + i = a ∧ st.mask.getLsbD i = true := by
      rintro ⟨i, hi, e, hm⟩
      have hi := List.mem_range.1 hi
      refine h ⟨by omega, ?_⟩
      have : a % 64 = i := by omega
      rw [this]; exact hm
    rw [if_neg h1, if_neg h]

/-! ### Canonical memory -/

theorem State.memWf_iff (s : State) : s.memWf = true ↔ Memory.wf s.mem = true ∧ KMap.wf 0 s.md = true ∧ Memory.wf s.iomem = true := by
  simp [State.memWf, and_assoc]

/-- Only memory, metadata and I/O space say whether the form holds. -/
theorem State.memWf_congr {s t : State} (h : t.mem = s.mem) (k : t.md = s.md) (j : t.iomem = s.iomem) : t.memWf = s.memWf := by
  simp [State.memWf, h, k, j]

/-- A store at its home keeps the form. -/
theorem State.homeStore_memWf (s : State) (sec : Nat) (st : SecStore) (copy : Bool) (h : s.memWf = true) : (s.homeStore sec st copy).memWf = true := by
  obtain ⟨h1, h2, h3⟩ := s.memWf_iff.1 h
  refine (State.memWf_iff _).2 ⟨writeMasked_wf _ _ h1, ?_, h3⟩
  show KMap.wf 0 (if s.inRegion (64 * sec) then _ else s.md) = true
  split
  · exact KMap.wf_set _ _ h2
  · exact h2

theorem State.homeWrite_memWf (s : State) (pa n v : Nat) (h : s.memWf = true) : (s.homeWrite pa n v).memWf = true := s.homeStore_memWf _ _ _ h

/-- An 8-byte atomic at its home keeps the form. -/
theorem State.homeAtom64_memWf (s : State) (op pa : Nat) (x y : DWord) (h : s.memWf = true) : (s.homeAtom64 op pa x y).1.memWf = true := by
  simp only [State.homeAtom64]
  split
  · exact s.homeStore_memWf _ _ _ h
  · exact h

theorem State.homeAdd_memWf (s : State) (pa : Nat) (v : DWord) (h : s.memWf = true) : (s.homeAdd pa v).memWf = true := s.homeAtom64_memWf _ _ _ _ h

/-- A 4-byte atomic at its home keeps the form. -/
theorem State.homeAtom32_memWf (s : State) (op pa : Nat) (x y : LaneVal) (h : s.memWf = true) : (s.homeAtom32 op pa x y).1.memWf = true := by
  simp only [State.homeAtom32]
  split
  · exact s.homeStore_memWf _ _ _ h
  · exact h

/-- A loop of steps that each keep the form keeps it. -/
theorem memWf_foldl {α : Type} (f : State → α → State) (hf : ∀ s a, s.memWf = true → (f s a).memWf = true) (l : List α) :
    ∀ s : State, s.memWf = true → (l.foldl f s).memWf = true := by
  induction l with
  | nil => exact fun _ h => h
  | cons a l ih => exact fun s h => ih _ (hf s a h)

/-- Keys and values that a test keeps, or that become other values than the unlisted one, stay in canonical form. -/
theorem wfAbove_filterMap {α : Type} [DecidableEq α] {d : α} (f : Nat × α → Option α) (hf : ∀ e v, f e = some v → v ≠ d) (m : KMap α) :
    ∀ lo, KMap.wfAbove d lo m = true → KMap.wfAbove d lo (m.filterMap fun e => (f e).map fun v => (e.1, v)) = true := by
  induction m with
  | nil => intro _ _; rfl
  | cons e m ih =>
    obtain ⟨j, u⟩ := e
    intro lo w
    obtain ⟨h1, h2, h3⟩ := KMap.wfAbove_cons.1 w
    have rest := ih (some j) h3
    cases hv : f (j, u) with
    | none =>
      simp only [List.filterMap_cons, hv, Option.map_none]
      cases lo with
      | some l => exact KMap.wfAbove_weaken (Nat.le_of_lt (h1 l rfl)) rest
      | none =>
        revert rest
        cases m.filterMap fun e => (f e).map fun v => (e.1, v) with
        | nil => exact fun _ => rfl
        | cons a l => exact fun r => KMap.wfAbove_cons.2 ⟨by simp, (KMap.wfAbove_cons.1 r).2⟩
    | some v =>
      simp only [List.filterMap_cons, hv, Option.map_some]
      exact KMap.wfAbove_cons.2 ⟨h1, hf _ _ hv, rest⟩

/-- No listed value is the unlisted one. -/
theorem wf_values {α : Type} [DecidableEq α] {d : α} {m : KMap α} (h : KMap.wf d m = true) : ∀ e ∈ m, e.2 ≠ d := by
  suffices ∀ (m : KMap α) (lo : Option Nat), KMap.wfAbove d lo m = true → ∀ e ∈ m, e.2 ≠ d from this m none h
  intro m
  induction m with
  | nil => intro _ _ e he; cases he
  | cons a m ih =>
    obtain ⟨j, u⟩ := a
    intro lo w e he
    obtain ⟨_, h2, h3⟩ := KMap.wfAbove_cons.1 w
    rcases List.mem_cons.1 he with rfl | he
    · exact h2
    · exact ih _ h3 e he

/-- Cells dropped by a test leave a canonical table canonical. -/
theorem wf_filter {α : Type} [DecidableEq α] {d : α} (t : Nat × α → Bool) {m : KMap α} (h : KMap.wf d m = true) : KMap.wf d (m.filter t) = true := by
  suffices ∀ (m : KMap α) (lo : Option Nat), KMap.wfAbove d lo m = true → KMap.wfAbove d lo (m.filter t) = true from this m none h
  intro m
  induction m with
  | nil => intro _ _; rfl
  | cons e m ih =>
    obtain ⟨j, u⟩ := e
    intro lo w
    obtain ⟨h1, h2, h3⟩ := KMap.wfAbove_cons.1 w
    have rest := ih (some j) h3
    by_cases hk : t (j, u) = true
    · simp only [List.filter_cons, hk, if_true]
      exact KMap.wfAbove_cons.2 ⟨h1, h2, rest⟩
    · simp only [List.filter_cons, hk, Bool.false_eq_true, if_false]
      cases lo with
      | some l => exact KMap.wfAbove_weaken (Nat.le_of_lt (h1 l rfl)) rest
      | none =>
        revert rest
        cases m.filter t with
        | nil => exact fun _ => rfl
        | cons a l => exact fun r => KMap.wfAbove_cons.2 ⟨by simp, (KMap.wfAbove_cons.1 r).2⟩

/-- A record in the ring or the start buffer keeps the form: it touches neither memory nor metadata. -/
theorem State.putRecord_memWf (s : State) (r : List Byte) (h : s.memWf = true) : (s.putRecord r).memWf = true := by
  obtain ⟨h1, h2, h3⟩ := s.memWf_iff.1 h
  simp only [State.putRecord]
  split
  · simp only [State.ringPut]
    split
    · exact h
    · exact (State.memWf_iff _).2 ⟨h1, h2, writeBytes_wf _ _ h3⟩
  · split <;> exact h

/-- The I/O space that the error ring is written to keeps the form. -/
theorem State.report_memWf (s : State) (type source sev loc pa count ctx detail : Nat) (h : s.memWf = true) :
    (s.report type source sev loc pa count ctx detail).memWf = true := State.putRecord_memWf _ _ h

/-- Counted traffic leaves memory alone. -/
theorem State.carryFor_memWf (s : State) (p : Party) (a b bytes : Nat) : (s.carryFor p a b bytes).memWf = s.memWf := by
  have d : (s.carry a b bytes).memWf = s.memWf := by unfold State.carry; simp only; split <;> rfl
  unfold State.carryFor
  simp only
  cases p with
  | group h g => simp only; split <;> exact d
  | stream k => exact d

theorem State.haul_memWf (s : State) (p : Party) (core to_ bytes : Nat) : (s.haul p core to_ bytes).memWf = s.memWf := by
  rw [State.haul, State.carryFor_memWf]
  unfold State.drainTokens
  repeat' split
  all_goals rfl

/-- A request put on a link leaves memory alone. -/
theorem State.sendReq_memWf (s : State) (p : BitVec 12) (t : TSent) : (s.sendReq p t).memWf = s.memWf := by
  unfold State.sendReq State.transmit State.countTirsol
  simp only
  repeat' split
  all_goals rfl

/-- A coalescing-buffer entry drained keeps the form. -/
theorem State.drainEntry_memWf (s : State) (core : Nat) (e : CbEntry) (h : s.memWf = true) : (s.drainEntry core e).memWf = true := by
  simp only [State.drainEntry]
  split
  · rw [State.haulSector, State.haul_memWf]
    exact State.homeStore_memWf _ _ _ _ h
  · split
    · exact h
    · rw [State.haul_memWf, State.sendReq_memWf]; exact h

theorem State.drainAll_memWf (s : State) (core : Nat) (l : List CbEntry) (h : s.memWf = true) : (s.drainAll core l).memWf = true :=
  memWf_foldl _ (fun s e h => by split <;> first | exact s.drainEntry_memWf _ _ h | exact h) _ s h

theorem State.drainInvals_memWf (s : State) (core : Nat) (log : List Inval) (h : s.memWf = true) : (s.drainInvals core log).memWf = true :=
  s.drainAll_memWf _ _ h

/-- What an invalidation removes leaves the form as it is. -/
theorem State.removeInvals_memWf (s : State) (die : Nat) (new : List Inval) (h : s.memWf = true) : (s.removeInvals die new).memWf = true := by
  simp only [State.removeInvals]
  refine memWf_foldl _ (fun s e h => ?_) _ _ h
  exact State.drainInvals_memWf _ _ _ h

/-- An invalidation log applied keeps the form. -/
theorem State.applyInvals_memWf (s : State) (die : Nat) (h : s.memWf = true) : (s.applyInvals die).memWf = true := by
  have d : (if ((s.die die).invlog.filter (!·.removed)).isEmpty then s else s.removeInvals die ((s.die die).invlog.filter (!·.removed))).memWf = true := by
    split
    · exact h
    · exact s.removeInvals_memWf _ _ h
  unfold State.applyInvals
  split
  · exact h
  · simp only
    generalize (if ((s.die die).invlog.filter (!·.removed)).isEmpty then s else s.removeInvals die ((s.die die).invlog.filter (!·.removed))) = u at d ⊢
    split <;> exact d

theorem State.dropL1_memWf (s : State) (core : Nat) : (s.dropL1 core).memWf = s.memWf := rfl

@[simp] theorem State.updGrp_iomem (s : State) (p : Party) (f : Group → Group) : (s.updGrp p f).iomem = s.iomem := by simp [State.updGrp]
theorem State.updGrp_memWf (s : State) (p : Party) (f : Group → Group) : (s.updGrp p f).memWf = s.memWf := State.memWf_congr (by simp) (by simp) (by simp)

/-- What a group has seen of its core's shares is no memory. -/
theorem State.seeGangs_memWf (s : State) (p : Party) : (s.seeGangs p).memWf = s.memWf := by
  cases p with
  | stream k => rfl
  | group h g => unfold State.seeGangs; simp only; split <;> rfl

/-- The actions of an acquire keep the form. -/
theorem State.acquireAt_memWf (s : State) (p : Party) (scope : Nat) (h : s.memWf = true) : (s.acquireAt p scope).memWf = true := by
  have d : (if 1 ≤ scope then (s.dropL1 (s.coreOf p)).seeGangs p else s).memWf = true := by
    split
    · rw [State.seeGangs_memWf]; exact h
    · exact h
  have a := State.applyInvals_memWf _ (dieOfCore (s.coreOf p)) d
  unfold State.acquireAt
  simp only
  generalize (if 1 ≤ scope then (s.dropL1 (s.coreOf p)).seeGangs p else s) = u at a d ⊢
  split
  · generalize u.applyInvals (dieOfCore (s.coreOf p)) = v at a ⊢
    split
    · exact a
    · rw [State.updGrp_memWf]; exact a
  · exact d

@[simp] theorem State.updCur_iomem (s : State) (f : Group → Group) : (s.updCur f).iomem = s.iomem := by simp [State.updCur, State.setCur]
theorem State.updCur_memWf (s : State) (f : Group → Group) : (s.updCur f).memWf = s.memWf := State.memWf_congr (by simp) (by simp) (by simp)
theorem State.updCore_memWf (s : State) (n : Nat) (f : Core → Core) : (s.updCore n f).memWf = s.memWf := rfl
theorem State.setTeam_memWf (s : State) (h : Nat) (t : Team) : (s.setTeam h t).memWf = s.memWf := rfl
theorem State.setGrid_memWf (s : State) (h : Nat) (g : Grid) : (s.setGrid h g).memWf = s.memWf := rfl
theorem State.setDie_memWf (s : State) (n : Nat) (d : Die) : (s.setDie n d).memWf = s.memWf := rfl
theorem State.setCtx_memWf (s : State) (n : Nat) (c : Ctx) : (s.setCtx n c).memWf = s.memWf := rfl
theorem State.setPeer_memWf (s : State) (n : Nat) (x : Peer) : (s.setPeer n x).memWf = s.memWf := rfl

/-- The tags cleared at a new object keep the form of metadata. -/
theorem clearT_wf {m : KMap DWord} (sec n : Nat) (h : KMap.wf 0 m = true) : KMap.wf 0 (clearT m sec n) = true := by
  let f (e : Nat × DWord) : Option DWord :=
    if sec ≤ e.1 ∧ e.1 < sec + n then (if setField e.2 55 8 0 = 0 then none else some (setField e.2 55 8 0)) else if e.2 = 0 then none else some e.2
  have hf : ∀ e v, f e = some v → v ≠ 0 := by
    intro e v
    simp only [f]
    split <;> split <;> simp_all <;> rintro rfl <;> assumption
  have w := wfAbove_filterMap (d := 0) f hf m none h
  have e : clearT m sec n = m.filterMap fun e => (f e).map fun v => (e.1, v) := by
    have nz : ∀ e ∈ m, e.2 ≠ 0 := wf_values h
    refine List.filterMap_congr fun e he => ?_
    have := nz e he
    obtain ⟨k, v⟩ := e
    simp only [f]
    split
    · split <;> simp_all
    · simp_all
  rw [e]; exact w

/-- The memory of the device at reset is canonical. -/
theorem State.reset_memWf : State.reset.memWf = true := rfl

/-- Scratch keeps the form under a store. -/
theorem Core.scrStore_wf (c : Core) (sec : Nat) (st : SecStore) (copy : Bool) (h : Memory.wf c.scratch = true) (k : KMap.wf 0 c.scrMeta = true) :
    Memory.wf (c.scrStore sec st copy).scratch = true ∧ KMap.wf 0 (c.scrStore sec st copy).scrMeta = true :=
  ⟨writeMasked_wf _ _ h, KMap.wf_set _ _ k⟩

end Sys2Proof.Machine
end

