-- ==== Sys2Proof/Laws/Scalar.lean ====
section
/-! SUPPORT. What the shared operations of scalar instructions do: the gate of rank 1, the registers an instruction
needs, and the two drivers, each with everything it can answer. -/

namespace Sys2Proof.Machine

/-- A legal instruction passes the gate. -/
theorem scalarGate_legal {i : Instr} {s : State} (body : Out) (h : scalarLegal i s = true) : scalarGate i s body = body := by
  unfold scalarLegal at h
  simp only [Bool.and_eq_true, Bool.not_eq_true'] at h
  unfold scalarGate
  simp [h.1.1, h.1.2, h.2]

/-- The gate lets the instruction run, or takes one of the three traps of rank 1 (R253). -/
theorem scalarGate_cases (i : Instr) (s : State) (body : Out) :
    scalarGate i s body = body ∨ scalarGate i s body = trapAt s cIllop (opInfo i) ∨
      scalarGate i s body = trapAt s cFeature (BitVec.ofNat 64 ((featureOf i).getD 0)) ∨ scalarGate i s body = trapAt s cIllfld (opInfo i) := by
  unfold scalarGate
  repeat' split
  all_goals simp

/-- Full registers let the instruction run. -/
theorem needRegs_full {reads writes : List SNum} {s : State} (body : Out) (hr : reads.all s.cur.sfull = true)
    (hw : writes.all (fun r => s.cur.sfull r || s.cur.ownEmpties.contains r) = true) : needRegs reads writes s body = body := by
  simp only [List.all_eq_true] at hr hw
  have h1 : reads.filter (fun r => !s.cur.sfull r) = [] := by
    rw [List.filter_eq_nil_iff]; intro r h; simp [hr r h]
  have h2 : writes.filter (fun r => !s.cur.sfull r && !s.cur.ownEmpties.contains r) = [] := by
    rw [List.filter_eq_nil_iff]; intro r h; have := hw r h; revert this
    cases s.cur.sfull r <;> cases s.cur.ownEmpties.contains r <;> simp
  have e : needRegs reads writes s body =
      (match ((reads.filter fun r => !s.cur.sfull r) ++ (writes.filter fun r => !s.cur.sfull r && !s.cur.ownEmpties.contains r)).find?
          (fun r => s.cur.fe.getLsbD 0 && s.cur.slaneEmpty r) with
       | some r => trapAt s cEmpty (BitVec.ofNat 64 r.val)
       | none => if ((reads.filter fun r => !s.cur.sfull r) ++ (writes.filter fun r => !s.cur.sfull r && !s.cur.ownEmpties.contains r)).isEmpty
          then body else blockedOut s) := rfl
  rw [e, h1, h2]
  rfl

/-- The instruction runs, waits, or takes EMPTY (R115). -/
theorem needRegs_cases (reads writes : List SNum) (s : State) (body : Out) :
    needRegs reads writes s body = body ∨ needRegs reads writes s body = blockedOut s ∨
      ∃ r ∈ reads ++ writes, s.cur.slaneEmpty r = true ∧ s.cur.fe.getLsbD 0 = true ∧ needRegs reads writes s body = trapAt s cEmpty (BitVec.ofNat 64 r.val) := by
  unfold needRegs
  simp only
  split
  · rename_i r h
    right; right
    have hm := List.mem_of_find?_eq_some h
    have hp := List.find?_some h
    simp only [Bool.and_eq_true] at hp
    refine ⟨r, ?_, hp.2, hp.1, rfl⟩
    rw [List.mem_append, List.mem_filter, List.mem_filter] at hm
    rw [List.mem_append]
    exact hm.elim (fun h => .inl h.1) (fun h => .inr h.1)
  · by_cases hb : ((reads.filter fun r => !s.cur.sfull r) ++ (writes.filter fun r => !s.cur.sfull r && !s.cur.ownEmpties.contains r)).isEmpty = true
    · exact .inl (if_pos hb)
    · exact .inr (.inl (if_neg hb))

/-- A ready instruction that computes one register writes it and moves on. -/
theorem aluOp_ready {i : Instr} {d : SNum} {reads : List SNum} {s : State} (f : State → DWord) (h : scalarReady i reads [d] s = true) :
    aluOp i d reads f s = .next ((s.ws d (f s)).advance) := by
  unfold scalarReady at h
  simp only [Bool.and_eq_true] at h
  unfold aluOp
  rw [scalarGate_legal _ h.1.1, needRegs_full _ h.1.2 h.2]

/-- A ready instruction without a destination makes its effect. -/
theorem scalarOp_ready {i : Instr} {reads : List SNum} {s : State} (f : State → Out) (h : scalarReady i reads [] s = true) :
    scalarOp i reads f s = f s := by
  unfold scalarReady at h
  simp only [Bool.and_eq_true] at h
  unfold scalarOp
  rw [scalarGate_legal _ h.1.1, needRegs_full _ h.1.2 h.2]

/-- A ready instruction past the gate and its registers. -/
theorem gated_ready {i : Instr} {reads writes : List SNum} {s : State} (body : Out) (h : scalarReady i reads writes s = true) :
    scalarGate i s (needRegs reads writes s body) = body := by
  unfold scalarReady at h
  simp only [Bool.and_eq_true] at h
  rw [scalarGate_legal _ h.1.1, needRegs_full _ h.1.2 h.2]

/-- A waiting instruction changes nothing but the schedule. -/
theorem waitOut_next (s : State) : waitOut s = .next { s with stalled := true } := rfl

/-- An instruction that cannot issue changes nothing but the schedule; the scheduler counts it as starved (04 R109). -/
theorem blockedOut_next (s : State) : blockedOut s = .next { s with stalled := true, starved := true } := rfl

end Sys2Proof.Machine
end

