-- ==== Sys2Proof/Tests/Slice0.lean ====
section
/-! SUPPORT. Tests: for each statement a state and operands that meet its hypotheses, words written out from the encoding tables, terms that are ill-formed, and single steps. -/

namespace Sys2Proof.Tests
open Sys2Proof Sys2Proof.Machine

set_option Elab.async false

/-- A group that runs scalar code, alone in its team, grid and context. -/
def scal : State := { State.reset.load false [] with who := .group 1 0 }
/-- The same with registers set. -/
def regs (l : List (Fin 64 × DWord)) (s : State := scal) : State := l.foldl (fun s e => s.ws e.1 e.2) s
/-- The group changed. -/
def grpd (f : Group → Group) (s : State := scal) : State := s.updCur f
/-- A device whose group runs a block at a lane word. -/
def lane : State := { State.reset.load true [] with who := .group 1 0 }
/-- A control stream of context 0. -/
def strm : State := { scal with who := .stream 0, streams := [(0, { Stream.empty with ctx := 0 })] }
/-- Scalar instructions are ready in a state. -/
def ready (l : List (Instr × List SNum × List SNum)) (s : State := scal) : Bool := l.all fun e => scalarReady e.1 e.2.1 e.2.2 s
def tri (i : Instr) : Instr × List SNum × List SNum := (i, [6, 7], [5])
def duo (i : Instr) : Instr × List SNum × List SNum := (i, [6], [5])

/-! ### The hypotheses of each statement are met -/

theorem meets_ScalarRegisterResults : ready ([.sadd 5 6 7, .ssub 5 6 7, .sand 5 6 7, .sor 5 6 7, .sxor 5 6 7, .sandn 5 6 7, .sshl 5 6 7, .sshr 5 6 7,
    .ssra 5 6 7, .sslt 5 6 7, .ssltu 5 6 7, .smin 5 6 7, .smax 5 6 7, .sminu 5 6 7, .smaxu 5 6 7, .smul 5 6 7, .smulh 5 6 7, .smulhu 5 6 7].map tri ++
    [.spopc 5 6, .sclz 5 6, .sctz 5 6].map duo) = true := by decide +kernel

theorem meets_ScalarDivides : ready ([.sdiv 5 6 7, .sdivu 5 6 7, .srem 5 6 7, .sremu 5 6 7].map tri) (regs [(7, 3)]) = true ∧ (regs [(7, 3)]).rs 7 ≠ 0 ∧
    ready ([.sdiv 5 6 7, .sdivu 5 6 7, .srem 5 6 7, .sremu 5 6 7].map tri) = true ∧ scal.rs 7 = 0 := by decide +kernel

theorem meets_ScalarImmediates : ready ([.saddi 5 6 0x2000, .sandi 5 6 1, .sori 5 6 1, .sxori 5 6 1, .sshli 5 6 63, .sshri 5 6 1, .ssrai 5 6 1, .slti 5 6 1,
    .sltiu 5 6 1].map duo ++ [(.slui 5 1, [], [5]), (.saddpc 5 1, [], [5])]) = true := by decide +kernel

theorem meets_ScalarBranches :
    let s := regs [(6, 4), (7, 0x200000000000000), (8, 2)]
    ready [(.sbr 0 6 6 8, [6], []), (.sbr 0 6 7 8, [6, 7], []), (.sj 1, [], []), (.sjl 1, [], [63]), (.sjr 5 6, [6], [5]), (.sjr 5 7, [7], [5]), (.sjr 5 8, [8], [5])] s = true ∧
    s.rs 6 = s.rs 6 ∧ s.rs 6 ≠ s.rs 7 ∧ (s.rs 6).toNat % 4 = 0 ∧ (s.rs 6).toNat < 2 ^ 57 ∧ (s.rs 8).toNat % 4 ≠ 0 ∧
    (s.rs 7).toNat % 4 = 0 ∧ 2 ^ 57 ≤ (s.rs 7).toNat ∧
    (let w := s.updCur (·.sempty 63 .pending)
     scalarLegal (.sjl 1) w = true ∧ w.cur.sfull 63 = false ∧ w.cur.ownEmpties.contains 63 = false ∧ (w.cur.fe.getLsbD 0 && w.cur.slaneEmpty 63) = false) := by decide +kernel

theorem meets_ScalarMemoryIssues :
    let s := regs [(6, 0x10100), (7, 3), (8, 9999)]
    ready [(.sld 5 6 3 2, [6], [5]), (.slda 5 6 2 1 0, [6], [5]), (.sst 5 6 3 1, [5, 6], []), (.sstl 5 6 3 2 1, [5, 6], []), (.satom 5 6 7 0 3 1, [6, 7], [5]),
      (.satom 5 6 8 9 0 1, [6, 8, blockReg 8 1], [5]), (.sacqp 5 6 7 1, [6, 7], [5]), (.sacqp 5 6 8 1, [6, 8], [5])] s = true ∧
    s.requestReady (loadReq s 6 3 2 none) none = true ∧ s.requestReady (loadReq s 6 2 0 (some 1)) none = true ∧
    s.requestReady (storeReq s 5 6 3 1) none = true ∧ s.requestReady (storeReq s 5 6 3 1) (some 2) = true ∧
    s.requestReady { scalarReq s.who (.atomic 0 true) 8 (s.rs 6) with x := s.rs 7, y := 0, acq := some 1 } (some 1) = true ∧
    s.requestReady { scalarReq s.who (.atomic 9 true) 8 (s.rs 6) with x := s.rs 8, y := s.rs 9, acq := none } none = true ∧
    s.requestReady { scalarReq s.who .load 8 (s.rs 6) with acq := some 1 } none = true ∧ 1728 ≤ (s.rs 8).toNat ∧
    (s.rs 7).toNat < 1728 ∧ s.dev.dmap.getLsbD ((s.rs 7).toNat / 288) = true ∧ s.acqPending s.who false = false ∧
    s.addrFault { scalarReq s.who .load 8 (s.rs 6) with acq := some 1 } = none ∧ s.pageHeld { scalarReq s.who .load 8 (s.rs 6) with acq := some 1 } = false := by decide +kernel

/-- A load that has issued, its result awaited. -/
theorem meets_ScalarMemoryIssues_value :
    let o : Outst := { outstOf scal (scalarReq scal.who .load 8 0x10100) (.sreg 5) .scalar none with id := 3 }
    let s := grpd fun g => { g with outst := [o] }
    let q : MemReq := { scalarReq s.who .load 8 0x10100 with id := 3 }
    q.lane = false ∧ (s.grp q.party).outst.find? (·.id == q.id) = some o ∧ s.inSave q.party (q.va 0) = false ∧ q.bytes ≤ 8 ∧ q.va 0 % 64 + q.bytes ≤ 64 := by decide +kernel

theorem meets_ScalarAddressTraps :
    let s := regs [(6, 0x10101), (7, 0x200000000000000), (8, 0xFFFFFFFFFFFFFFF8)]
    ready [(.sld 5 6 1 0, [6], [5]), (.slda 5 6 3 1 0, [6], [5]), (.sst 5 6 2 0, [5, 6], []), (.sstl 5 6 2 2 0, [5, 6], []),
      (.sld 5 7 1 0, [7], [5]), (.slda 5 7 3 1 0, [7], [5]), (.sst 5 7 2 0, [5, 7], []), (.sstl 5 7 2 2 0, [5, 7], [])] s = true ∧
    (smEa s 6 1 0).toNat % 2 ≠ 0 ∧ (smEa s 6 2 0).toNat % 4 ≠ 0 ∧ (smEa s 6 3 0).toNat % 8 ≠ 0 ∧ (smEa s 7 3 0).toNat % 8 = 0 ∧ 2 ^ 57 ≤ (smEa s 7 3 0).toNat ∧
    ready [(.slds 5 6 1 0, [6], [5]), (.slds 5 8 3 0, [8], [5]), (.satom 5 6 4 0 0 0, [6, 4], [5]), (.satom 5 6 4 12 0 0, [6, 4, blockReg 4 1], [5]), (.satom 5 7 4 9 0 0, [7, 4, blockReg 4 1], [5]),
      (.sacqp 5 6 4 1, [6, 4], [5]), (.sacqp 5 7 4 1, [7, 4], [5])] s = true ∧ s.scratchTarget s.who.teamOf (smEa s 8 3 0).toNat = none ∧ (smEa s 8 3 0).toNat % 8 = 0 ∧
    (s.rs 6).toNat % 4 ≠ 0 ∧ (s.rs 7).toNat % 8 = 0 ∧ 2 ^ 57 ≤ (s.rs 7).toNat := by decide +kernel

theorem meets_ScratchLoadAndFence :
    let s := regs [(6, 0x100)]
    ready [(.slds 5 6 3 1, [6], [5]), (.sfence 0 true 1, [], []), (.sfence 1 false 2, [], []), (.sfence 2 true 3, [], [])] s = true ∧ (smEa s 6 3 1).toNat % 8 = 0 ∧
    (s.scratchTarget 1 (smEa s 6 3 1).toNat).isSome = true ∧ s.acqPending s.who false = false ∧ s.fenceReady 0 true 1 = true ∧ s.fenceReady 1 false 2 = true ∧
    s.fenceReady 2 true 3 = true ∧ s.lostBits = 0 := by decide +kernel

/-- A group with a handler at 0x20000. -/
def handled : State := grpd fun g => { g with tvec := 0x20000 }

theorem meets_ScalarTrapEntry : [0x04, 0x05, 0x06, 0x07, 0x08, 0x09, 0x0A, 0x0B, 0x0C, 0x0F, 0x11, 0x12, 0x16].contains 0x12 = true ∧
    (handled.grp (.group 1 0)).tvec.extractLsb' 2 55 ≠ 0 ∧ (handled.grp (.group 1 0)).tcause.getLsbD 12 = false := by decide +kernel

/-- A lane trap that waits for its delivery. -/
def laneTrap : LaneTrap :=
  { cause := 0x05, info := 7, mask := 0xF0, redo := 0xFFFF, word := 3, slot := 1, id := 0, second := true, first := false, empties := [], twin := false }

theorem meets_LaneTrapDelivery :
    let s := grpd (fun g => { g with laneTraps := [laneTrap] }) handled
    s.runs (.group 1 0) = true ∧ (s.grp (.group 1 0)).laneTraps = [laneTrap] ∧ (s.grp (.group 1 0)).tcause.getLsbD 12 = false ∧ (s.grp (.group 1 0)).rdv = none ∧
    (s.grp (.group 1 0)).pairOpen 0 = false ∧ (s.grp (.group 1 0)).pairOpen 1 = false ∧
    [0x04, 0x05, 0x06, 0x07, 0x08, 0x09, 0x0A, 0x0B, 0x0C, 0x0F, 0x11, 0x12, 0x16].contains laneTrap.cause.toNat = true ∧
    (s.grp (.group 1 0)).tvec.extractLsb' 2 55 ≠ 0 := by decide +kernel

/-- A handler of a scalar trap. -/
def inHandler : State := grpd (fun g => { g with tcause := 0x1012, tret := 0x10040, trap := some { lane := false, id := 0, word := 0, allowed := 0, first := false, second := false, empties := [], sempties := [5] } }) handled

theorem meets_ReturnFromTrap : scal.cur.tcause.getLsbD 12 = false ∧ ready [(.rft, [], [])] inHandler = true ∧
    inHandler.cur.tcause.getLsbD 12 = true ∧ inHandler.cur.trapBlocks = 0 ∧ inHandler.cur.laneTraps = [] ∧
    (inHandler.cur.trap.map fun c => (c.lane, c.empties)) = some (false, []) ∧
    (let s := grpd (fun g => { g with trapq := [loadEntry] }) inHandler
     ready [(.rft, [], [])] s = true ∧ s.cur.tcause.getLsbD 12 = true ∧ s.cur.trapBlocks ≠ 0) := by decide +kernel

/-- A handler of a lane trap: the word at record 0 trapped in lanes of which the handler has passed some or all. -/
def inLaneHandler (redo : DWord) (pending : List LaneTrap := []) : State :=
  let c : TrapCtx := { lane := true, id := 2, word := 1, allowed := 0xFFFF, first := false, second := false, empties := [4], sempties := [] }
  lane.updCur fun g =>
    { g with tcause := 0x1105, tret := 0x10040, tvec := 0x20000, tredo := redo, trap := some c, laneTraps := pending,
             block := g.block.map fun b => { b with stack := b.stack.map fun q => { q with traps := [2] } } }

theorem meets_ReturnFromTrap_lane :
    [inLaneHandler 0xFF, inLaneHandler 0, inLaneHandler 0 [laneTrap]].all (fun s =>
      s.cur.trap.isSome && s.cur.laneTraps.all (fun l => causeClass l.cause.toNat == .recoverable) && s.cur.tvec.extractLsb' 2 55 != 0 &&
        (match s.cur.block with | some b => b.trapAt? 2 == some 0 && (b.rec? 0).isSome | none => false)) = true ∧
    (inLaneHandler 0xFF).cur.laneTraps = [] ∧ ((inLaneHandler 0xFF).cur.tredo.setWidth 32 &&& 0xFFFF : Mask) ≠ 0 ∧ ((inLaneHandler 0).cur.tredo.setWidth 32 &&& 0xFFFF : Mask) = 0 ∧
    [0x04, 0x05, 0x06, 0x07, 0x08, 0x09, 0x0A, 0x0B, 0x0C, 0x0F, 0x11, 0x12, 0x16].contains laneTrap.cause.toNat = true := by decide +kernel

theorem meets_FatalTrapEnds : causeClass 0x12 ≠ .gridEnding ∧ (scal.grp (.group 1 0)).vec = 0 ∧ (scal.team 1).cluster = [1] ∧ (inHandler.grp (.group 1 0)).inh = true ∧
    (strm.grp (.stream 0)).vec = 0 := by decide +kernel

theorem meets_TrapInstruction : ready [(.trap 5, [], []), (.nop, [], [])] = true ∧ (regs []).cur.tcause.getLsbD 12 = false ∧
    (lane.cur.block.bind fun b => (b.posOf lane.lslot).bind b.rec?).isSome = true ∧ (lane.cur.block.map (·.entry.trap)) = some false := by decide +kernel

theorem meets_SystemInstructions :
    let s := regs [(6, 0x3F80000F), (7, 2 ^ 35 + 2 ^ 34), (8, 0x1000)]
    ready [(.nop, [], []), (.ifence, [], []), (.csrr 5 0x012, [], [5]), (.csrw 6 0x012, [6], []), (.csrw 6 0x000, [6], []), (.csrw 8 0x011, [8], []),
      (.setfmt 6, [6], []), (.setfmt 5, [5], []), (.setalw 7, [7], []), (.setalw 5, [5], []), (.setalw 6, [6], []), (.pause 5, [], []), (.pause 0, [], [])] s = true ∧
    csrReadOnly 0x012 = false ∧ csrReadOnly 0x000 = true ∧ (s.rs 8).getLsbD 12 ≠ s.cur.inh ∧
    ready [(.csrw 6 0x022, [6], [])] strm = true ∧ strm.who.isStream = true ∧ csrLaneSide 0x022 = true ∧
    fmtLegal ((s.rs 5).setWidth 32) = true ∧ fmtLegal ((s.rs 6).setWidth 32) = false ∧
    allowLegal (s.rs 5) = true ∧ allowWithin (s.rs 5) s.ceiling = true ∧ allowLegal (s.rs 7) = false ∧ allowLegal (s.rs 6) = true ∧ allowWithin (s.rs 6) s.ceiling = false ∧
    s.suspendMode s.who = false ∧
    (let t := s.setGrid 1 { loadGrid with cfg := loadGrid.cfg ||| 2 ^ 43 }; ready [(.pause 5, [], [])] t = true ∧ t.suspendMode t.who = true) := by decide +kernel

theorem meets_StreamWaits :
    let s := regs [(6, 9), (7, 0x10100)]
    ready [(.ldrain, [], []), (.sleepu 5, [5], []), (.sleepu 6, [6], []), (.susp 7 5 8, [7, 5], []), (.susp 7 6 8, [7, 6], [])] s = true ∧
    s.lanesDrained s.who = true ∧ lane.lanesDrained lane.who = false ∧ ready [(.ldrain, [], [])] lane = true ∧
    (s.cyc s.who).toNat < (s.rs 6).toNat ∧ (s.rs 5).toNat ≤ (s.cyc s.who).toNat ∧ s.covered s.who (s.cyc s.who) = [] ∧
    (s.rs 7).toNat % 8 = 0 ∧ (s.rs 7).toNat < 2 ^ 57 ∧ s.acqPending s.who false = false ∧ s.pagesHeld s.who [0x10100] = false ∧ s.look (s.coreOf s.who) (s.pasidOf s.who) 0x10100 false = .here 0x10100 ∧ s.poison.contains (0x10100 / 64) = false ∧
    (s.rs 5).toNat ≤ (s.readCounter s.who 0x10100 0x10100).2.toNat ∧ (s.readCounter s.who 0x10100 0x10100).2.toNat < (s.rs 6).toNat ∧
    (s.readCounter s.who 0x10100 0x10100).1.watchRoom (s.homeOf 0x10100) = true := by decide +kernel

/-- The watch table of the home of 0x10100 is full. -/
def noWatch : State :=
  let e : Watch := { home := scal.homeOf 0x10100, party := .group 1 0, pa := 0, target := 1, hit := false }
  { regs [(6, 9), (7, 0x10100)] with watches := List.replicate Config.sliceWatches e }

theorem meets_StreamWaits_full : ready [(.susp 7 6 8, [7, 6], [])] noWatch = true ∧ noWatch.acqPending noWatch.who false = false ∧ noWatch.pagesHeld noWatch.who [0x10100] = false ∧ (noWatch.readCounter noWatch.who 0x10100 0x10100).2.toNat < (noWatch.rs 6).toNat ∧
    (noWatch.readCounter noWatch.who 0x10100 0x10100).1.watchRoom (noWatch.homeOf 0x10100) = false := by decide +kernel

/-- A block's header at 0x20000 with a length and the bit of a trap block. -/
def headed (len trap : Nat) (f : Group → Group := id) : State :=
  { grpd f (regs [(6, 0x20000), (7, 0xFF)]) with mem := writeLE [] 0x20000 12 (0xEF + 3 * 2 ^ 8 + len * 2 ^ 24 + trap * 2 ^ 40) }
/-- The sector of a header as LRUN fetches it: its op, length and trap bit. -/
def header (s : State) : Option (Nat × Nat × Bool) :=
  match s.fetchLaneSector s.who (s.rs 6).toNat with
  | .got _ x => some ((x.extractLsb' 0 8).toNat, (x.extractLsb' 24 16).toNat, x.getLsbD 40)
  | _ => none

theorem meets_LrunPushes :
    let i : Instr × List SNum × List SNum := (.lrun 6 7, [6, 7] ++ (List.finRange 16).map fun i => ⟨16 + i.val, by omega⟩, [])
    let full : Group → Group := fun g => { g with spool := List.replicate 16 loadEntry }
    let inh : Group → Group := fun g => { g with tcause := 0x1000 }
    [headed 5 0, headed 1 0, headed 5 0 full, headed 5 1, headed 5 1 inh].all (fun s => ready [i] s) = true ∧ (scal.rs 6).toNat % 16 = 0 ∧
    header (headed 5 0) = some (0xEF, 5, false) ∧ header (headed 1 0) = some (0xEF, 1, false) ∧ header (headed 5 0 full) = some (0xEF, 5, false) ∧
    16 ≤ (headed 5 0 full).cur.spool.length ∧ header (headed 5 1) = some (0xEF, 5, true) ∧ (headed 5 1).cur.inh = false ∧ header (headed 5 1 inh) = some (0xEF, 5, true) ∧
    (headed 5 1 inh).cur.inh = true ∧ (headed 5 1 inh).cur.trapBlocks < 4 := by decide +kernel

theorem meets_RendezvousArrivals :
    ready [(.bar, [], []), (.cbar, [], []), (.cbarL, [], []), (.regather 3, [], []), (.elect 5, [], [5])] = true ∧ ready [(.elect 5, [], [5])] strm = true ∧
    scal.rdvMixed .bar = false ∧ scal.rdvMixed .cbar = false ∧ scal.rdvMixed (.regather 3) = false ∧ scal.released scal.who 0 = true ∧ scal.released scal.who 1 = true ∧
    (scal.grid scal.curTeam.grid).cfg.getLsbD 45 = true ∧ 3 < scal.cur.nreg ∧ scal.lanesDrained scal.who = true ∧ (∀ v < 112, (scal.cur.vreg v).full = true) ∧
    (∀ g : Fin 16, (scal.grp (.group 1 g)).used = true → g = 0) ∧ (scal.grp (.group 1 0)).used = true ∧ (scal.grp (.group 1 0)).ended = false ∧
    ((grpd fun g => { g with rdv := some .bar }).grp (.group 1 0)).rdv = some .bar ∧ (scal.grp (.group 1 0)).rdv ≠ some .bar := by decide +kernel

theorem meets_CodeMaintenanceAndEnd :
    let s := regs [(6, 0x20000), (7, 3), (8, 2 ^ 57)]
    ready [(.cwb 6 5, [6, 5], []), (.cwb 8 5, [8, 5], []), (.cwb 6 7, [6, 7], []), (.icinv 2 6 7, [6, 7], []), (.gend, [], [])] s = true ∧
    (s.rs 6).toNat < 2 ^ 57 ∧ s.rs 5 = 0 ∧ 2 ^ 57 ≤ (s.rs 8).toNat ∧ s.rs 7 ≠ 0 ∧ (s.core (s.coreOf s.who)).cbuf = [] ∧ s.logOf s.who = [] ∧
    s.postedFrom (s.coreOf s.who) (fun _ => true) = false ∧ s.released s.who 2 = true ∧ s.cur.lanesIdle = true ∧ s.groupQuiet s.who = true ∧
    ready [(.gend, [], [])] strm = true ∧ strm.released strm.who 2 = true := by decide +kernel

theorem meets_ExpertCounters :
    let s := regs [(6, 17), (7, 2 ^ 15)]
    ready [(.ecrd 8 6, [6], [8, blockReg 8 1]), (.ecclr 6, [6], []), (.ecrd 8 7, [7], [8, blockReg 8 1]), (.ecclr 7, [7], [])] s = true ∧
    s.expertSel (s.rs 6) = some (0, 17) ∧ s.expertSel (s.rs 7) = none := by decide +kernel

/-- A parameter register of SEND or RECV. -/
def par (addr len cc tag : Nat) : DWord := BitVec.ofNat 64 (addr + len * 2 ^ 25 + cc * 2 ^ 34 + tag * 2 ^ 38)
def recvPar (buf src tag : Nat) : DWord := BitVec.ofNat 64 (buf + src * 2 ^ 25 + tag * 2 ^ 29)
/-- A core with posted buffers and queued messages. -/
def boxes (posted : List Posted) (q : List QMsg) (s : State) : State := s.updCore 0 fun c => { c with posted := posted, msgq := q }

theorem meets_MessageInstructions :
    let s := regs [(6, par 0x40 256 0 7), (7, 1), (8, recvPar 0x80 15 7), (9, 0x10), (10, recvPar 0 0 7), (11, 0x80)]
    let p : Posted := ⟨1, 15, 7, 0x80, 0x10⟩
    let t := boxes (List.replicate 64 p) [] s
    let u := boxes [] [⟨0, 1, 4, 0, false, 7⟩] s
    ready [(.send 5 6, [6], [5]), (.sendm 5 6 7, [6, 7], [5]), (.sendm 5 6 12, [6, 12], [5]), (.recv 5 8, [8, blockReg 8 1], [5]), (.rprobe 5 10, [10], [5]), (.rcancel 5 11, [11], [5])] s = true ∧
    (s.rs 6).toNat < 2 ^ 54 ∧ sendLen (s.rs 6) = 256 ∧ sendAddr (s.rs 6) + 256 ≤ (s.grid s.curTeam.grid).scrBytes ∧ sendTo (s.rs 6) = 0 ∧ 0 < s.curTeam.cluster.length ∧
    s.released s.who 0 = true ∧ (s.rs 7).toNat < 2 ^ 12 ∧ s.badMembers (s.rs 7) = 0 ∧ s.rs 7 ≠ 0 ∧ s.rs 12 = 0 ∧
    (s.rs 8).toNat < 2 ^ 45 ∧ recvSrc (s.rs 8) = 15 ∧ (s.rs (blockReg 8 1)).toNat < 2 ^ 25 ∧ recvBuf (s.rs 8) % 64 = 0 ∧ (s.rs (blockReg 8 1)).toNat % 8 = 0 ∧
    recvBuf (s.rs 8) + 264 ≤ (s.grid s.curTeam.grid).scrBytes ∧ (s.rs (blockReg 8 1)).toNat + 8 ≤ (s.grid s.curTeam.grid).scrBytes ∧
    s.queued 1 15 7 = none ∧ (s.core 0).posted.length < 64 ∧
    ready [(.recv 5 8, [8, blockReg 8 1], [5]), (.rcancel 5 11, [11], [5])] t = true ∧ t.queued 1 15 7 = none ∧ 64 ≤ (t.core 0).posted.length ∧
    ready [(.recv 5 8, [8, blockReg 8 1], [5]), (.rprobe 5 10, [10], [5])] u = true ∧ u.queued 1 15 7 = some ⟨0, 1, 4, 0, false, 7⟩ ∧
    (s.rs 10).toNat < 2 ^ 45 ∧ recvSrc (s.rs 10) < 12 ∧ recvBuf (s.rs 10) = 0 ∧ s.queued 1 0 7 = none ∧ u.queued 1 0 7 = some ⟨0, 1, 4, 0, false, 7⟩ ∧
    (s.rs 11).toNat < 2 ^ 25 ∧ (t.core 0).posted.any (fun p => p.team == 1 && p.buf == 0x80) = true ∧ (s.core 0).posted.any (fun p => p.team == 1 && p.buf == 0x80) = false := by decide +kernel
/-- A source field naming a register. -/
def src (n : Nat) : Src := Src.ofBits (BitVec.ofNat 21 n)
/-- A lane word: destination v3, three source fields, a mode. -/
def word (a b c : Nat) (rnd : Nat := 0) (dst : Nat := 3) : LaneWord :=
  { pair := false, pred := 7, pneg := false, gsel := 0, dst := BitVec.ofNat 7 dst, clamp := 0, scale := 0, nar := 0, rnd := BitVec.ofNat 3 rnd, a := src a, b := src b, c := src c }
/-- A lane word's block in formats `fmt` and under an allowance. -/
def lanes (fmt : Word) (alw : DWord := 0) (f : Group → Group := id) : State :=
  grpd (fun g => f { g with spool := g.spool.map fun e => { e with fmt := fmt, alw := alw },
                            block := g.block.map fun b => { b with entry := { b.entry with fmt := fmt, alw := alw }, stack := b.stack.map fun q => { q with fmt := fmt } } }) lane
/-- Each lane word is ready in a state, with no check of its results. -/
def fitting (l : List Instr) (s : State) : Bool :=
  l.all fun i => match laneReady i s with | some x => !(allow x.c.alw).chkall && !(allow x.c.alw).ute | none => false
/-- A word ready with no check of its results meets `admits` whatever they are. -/
theorem admits_unchecked (x : LaneRun) (f : Nat → LaneRes) (h : (allow x.c.alw).chkall = false) : x.admits false f = true := by
  simp [LaneRun.admits, h]

theorem meets_LaneWordResults :
    fitting ([.vand (word 1 2 0), .vor (word 1 2 0), .vxor (word 1 2 0), .vandn (word 1 2 0), .vshl (word 1 2 0), .vshr (word 1 2 0), .vsra (word 1 2 0), .imulh (word 1 2 0),
      .imulhu (word 1 2 0), .iandi (word 1 0 77), .iori (word 1 0 77), .ixori (word 1 0 77), .ishli (word 1 0 31), .ishri (word 1 0 31), .israi (word 1 0 31), .popc (word 1 0 0),
      .clz (word 1 0 0), .brev (word 1 0 0), .bfe (word 1 2 0), .bfi (word 1 2 4), .prmt (word 1 2 4), .lut (word 1 2 4), .movi (word 0 1 5), .vmov (word 1 0 0),
      .vsel (word 1 2 1), .pmovToWord (word 1 0 0), .clrb (word 1 0 0)]) (lanes 0) = true := by decide +kernel

theorem meets_LaneIntegerResults :
    fitting ([.iadd (word 1 2 0), .isub (word 1 2 0), .imul (word 1 2 0), .imad (word 1 2 4), .imin (word 1 2 0), .imax (word 1 2 0), .iaddi (word 1 0 77), .iminu (word 1 2 0),
      .imaxu (word 1 2 0)]) (lanes 0x8888) = true := by decide +kernel

theorem meets_LaneFloatResults :
    fitting ([.fadd (word 1 2 0), .fsub (word 1 2 0), .faddi (word 1 0 0x3F80), .fmul (word 1 2 0), .fmuli (word 1 0 0x3F80), .ffma (word 1 2 4), .ffmai (word 1 2 0x3F80)]) (lanes 0) = true ∧
    fitting [.fdot2 (word 1 2 4)] (lanes 0x11) = true ∧ fitting [.fdot4 (word 1 2 4), .fadd (word 1 2 0 5)] (lanes 0x33) = true := by decide +kernel

theorem meets_LaneOtherResults :
    fitting ([.fmin (word 1 2 0), .fmax (word 1 2 0), .fclass (word 1 0 0), .frnd (word 1 0 0), .ffrac (word 1 0 0), .frcp (word 1 0 0), .frsq (word 1 0 0),
      .fsqrt (word 1 0 0), .fdiv (word 1 2 0), .fexp2 (word 1 0 0), .flog2 (word 1 0 0), .fsin (word 1 0 0), .fcos (word 1 0 0), .ftanh (word 1 0 0), .fsigm (word 1 0 0),
      .cvtff (word 1 0 0), .bnd (word 1 0 0), .setb (word 1 2 0), .efget (word 1 0 0)]) (lanes 0) = true ∧
    fitting [.fldexp (word 1 2 0)] (lanes 0x80) = true ∧ fitting [.scaleblk (word 1 2 0)] (lanes 3) = true ∧ fitting [.cvtfi (word 1 0 0)] (lanes 0x8000) = true ∧ fitting [.cvtif (word 1 0 0)] (lanes 0x8) = true := by decide +kernel

theorem meets_LanePredicates :
    fitting [.fcmp (word 1 2 0), .icmpu (word 1 2 0), .plop (word 1 2 4), .pmovToPredicate (word 1 0 0 1)] (lanes 0) = true ∧
    fitting [.icmp (word 1 2 0), .icmpi (word 1 0 9)] (lanes 0x88) = true := by decide +kernel

theorem meets_LaneCollectives :
    fitting [.vote (word 1 0 0 3), .vote (word 1 0 0 0), .vote (word 1 0 0 1), .vote (word 1 0 0 2), .vmatch (word 1 0 0), .vmatch (word 1 0 0 2), .vreduce (word 1 0 0),
      .vscan (word 1 0 16), .lid (word 0 0 0 4), .lslot (word 1 0 0), .chkb (word 1 0 0), .efclr (word 0 0 0), .efset (word 1 0 0), .pleat (word 0 0 2 0 1)] (lanes 0) = true := by decide +kernel

/-- CHKB checks always: its word of zeros breaches no allowance. -/
theorem meets_LaneCollectives_chkb : (match laneReady (.chkb (word 1 0 0)) (lanes 0) with
    | some x => x.admits true fun n => writeBits (fmtD x.c.fmt) (x.c.srcX (word 1 0 0).a n).1 (x.c.srcX (word 1 0 0).a n).2
    | none => false) = true := by decide +kernel

theorem meets_QblkResult : (match laneReady (.qblk (word 1 0 0)) (lanes 0x3000) with | some x => !(allow x.c.alw).chkall | none => false) = true := by decide +kernel

/-- An allowance of relative error 2^-1 under CHKALL and BTE. -/
def strict : DWord := BitVec.ofNat 64 (2 ^ 42 + 2 ^ 40)
/-- A word whose sources have unknown bounds. -/
def vague (g : Group) : Group := g.setV 1 { full := true, lanes := Vector.replicate 32 ⟨5, 0xFFFF⟩ }

theorem meets_LaneTraps_breach : (match laneReady (.iadd (word 1 2 0)) (lanes 0x8888 strict vague) with
    | some x =>
      let f : Nat → LaneRes := fun n => writeInt (fmtD x.c.fmt) 0 ((x.c.srcI (fmtA x.c.fmt) (word 1 2 0).a n).1 + (x.c.srcI (fmtB x.c.fmt) (word 1 2 0).b n).1)
        (badd (x.c.srcI (fmtA x.c.fmt) (word 1 2 0).a n).2 (x.c.srcI (fmtB x.c.fmt) (word 1 2 0).b n).2)
      (allow x.c.alw).chkall && (allow x.c.alw).bte && !(x.breaching f).isEmpty && !x.b.entry.trap
    | none => false) = true := by decide +kernel

/-- A word ready in a state checks its results and breaches. -/
def breached (i : Instr) (s : State) (f : LaneRun → Nat → LaneRes) : Bool :=
  match laneReady i s with
  | some x => (allow x.c.alw).chkall && (allow x.c.alw).bte && !(x.breaching (f x)).isEmpty && !x.b.entry.trap
  | none => false

theorem meets_LaneTraps_breaches :
    let w := word 1 2 4
    let a (x : LaneRun) (n : Nat) : FVal × Option Rat := x.c.srcF (fmtA x.c.fmt) w.a n
    let b (x : LaneRun) (n : Nat) : FVal × Option Rat := x.c.srcF (fmtB x.c.fmt) w.b n
    let c (x : LaneRun) (n : Nat) : FVal × Option Rat := x.c.srcF (fmtC x.c.fmt) w.c n
    let ia (x : LaneRun) (n : Nat) : Int × Option Rat := x.c.srcI (fmtA x.c.fmt) w.a n
    let s := lanes 0 strict vague
    breached (.fadd (word 1 2 0)) s (fun x n => x.c.unitF n [.full, .short] false [] [(a x n).1, (b x n).1] (badd (a x n).2 (b x n).2)) = true ∧
    breached (.fmul (word 1 2 0)) s (fun x n => x.c.unitF n [.full, .trunc] true [(a x n).1.mul (b x n).1] [] (prodTerm (a x n).1 (b x n).1 (a x n).2 (b x n).2)) = true ∧
    breached (.ffma w) s (fun x n => x.c.unitF n [.full, .short, .trunc] false [(a x n).1.mul (b x n).1] [(c x n).1]
      (badd (prodTerm (a x n).1 (b x n).1 (a x n).2 (b x n).2) (c x n).2)) = true ∧
    breached (.cvtff (word 1 0 0)) s (fun x n => x.c.plainF n (a x n).1 (a x n).2) = true ∧
    breached (.cvtif (word 1 0 0)) (lanes 8 strict vague) (fun x n => x.c.plainF n (FVal.ofRat ((ia x n).1 : Rat)) (ia x n).2) = true ∧
    breached (.cvtfi (word 1 0 0)) (lanes 0x8000 strict vague) (fun x n => calcCvtfi x.c n) = true := by decide +kernel

theorem meets_LaneTraps_qblk : (match laneReady (.qblk (word 1 0 0)) (lanes 0x3000 strict vague) with
    | some x =>
      let el (i : Nat) : QElem := ((qblkOf x.c).2[i]?).getD ⟨0, none, .nan, none⟩
      (allow x.c.alw).chkall && (allow x.c.alw).bte && !x.b.entry.trap && (List.range 32).any fun n => x.perf.getLsbD n && breaches (allow x.c.alw) (roundUpB16 (el n).bnd) (el n).y
    | none => false) = true := by decide +kernel

/-- The last source field of a memory word: base k(kb), scaling, offset, width. -/
def mfield (kb osc imm width : Nat) : Nat := kb + osc * 2 ^ 4 + imm * 2 ^ 6 + width * 2 ^ 18
/-- Lane words with k0 = 0x10100 and v1 = 4 times the lane. -/
def spread (f : Group → Group := id) : State :=
  lanes 0 0 fun g => f { (g.setV 1 { full := true, lanes := Vector.ofFn fun i => ⟨BitVec.ofNat 32 (4 * i.val), 0⟩ }) with
    block := g.block.map fun b => { b with entry := { b.entry with ksnap := b.entry.ksnap.set 0 0x10100 } } }
/-- A word ready in a state, and what holds of it there. -/
def given (i : Instr) (s : State) (f : LaneRun → Bool) : Bool := match laneReady i s with | some x => f x | none => false
/-- Lane n of a request is misaligned. -/
def crooked (x : LaneRun) (q : MemReq) : Bool := !x.b.entry.trap && (lanesOf x.perf).any fun n => q.va n % q.bytes != 0

theorem meets_LaneTraps_align :
    let c := mfield 0 0 1 4
    let s := spread
    given (.vld (word 1 0 c)) s (fun x => crooked x (x.loadReq s x.c.addrGlobal)) = true ∧ given (.ldx (word 4 0 c)) s (fun x => crooked x (x.loadReq s x.c.addrPair)) = true ∧
    given (.vst (word 1 2 c 0 0)) s (fun x => crooked x (x.storeReq s x.c.addrGlobal)) = true ∧ given (.stx (word 4 2 c 0 0)) s (fun x => crooked x (x.storeReq s x.c.addrPair)) = true ∧
    given (.lds (word 1 0 c)) s (fun x => crooked x (x.loadReq s x.c.addrScratch)) = true ∧ given (.sts (word 1 2 c 0 0)) s (fun x => crooked x (x.storeReq s x.c.addrScratch)) = true := by
  decide +kernel

/-- A branch word: target, reconvergence, its predicate. -/
def branch (t r p : Nat) : LaneWord := { word 0 t r 0 0 with pred := BitVec.ofNat 3 p }

theorem meets_LaneControl :
    let some_ (g : Group) : Group := g.setPred 0 0xFF
    let all_ (g : Group) : Group := g.setPred 0 0xFFFFFFFF
    given (.lbr (branch 0 2 0)) lane (fun x => lane.cur.eff x.q &&& lane.cur.predMask 0 == 0 && x.q.pc < 2 && 2 ≤ x.q.rpc) = true ∧
    given (.lbr (branch 0 2 0)) (grpd all_ lane) (fun x => (grpd all_ lane).cur.eff x.q &&& ~~~((grpd all_ lane).cur.predMask 0) == 0) = true ∧
    given (.lbr (branch 0 2 0)) (grpd some_ lane) (fun x => (lbrStack (grpd some_ lane).cur (x.b.stack.set x.pos { x.q with redo := none }) x.pos 0xFF 0 2).isSome &&
      (grpd some_ lane).cur.eff x.q &&& 0xFF != 0 && (grpd some_ lane).cur.eff x.q &&& ~~~0xFF#32 != 0) = true ∧
    given (.ljmp (branch 2 0 7)) lane (fun x => 2 < x.b.entry.len) = true ∧ given (.lend (word 0 0 0 0 0)) lane (fun _ => true) = true ∧
    given (.lexit (word 0 0 0 0 0)) lane (fun _ => true) = true ∧ given (.lfmt (word 112 0 0 0 0)) lane (fun x => fmtLegal (x.c.k 0)) = true ∧
    given (.lnop (word 0 0 0 0 0)) lane (fun _ => true) = true := by decide +kernel

theorem meets_LaneControl_split :
    let q : Split := ⟨1, 0xFFFFFFFF, 3, 0, false, none, false, false, []⟩
    let g := lane.cur
    (lbrStack g [q] 0 0xFF 0 2).isSome = true ∧ (lbrStack g [q] 0 0xFF 0 3).isSome = true ∧ g.eff q &&& 0xFF ≠ 0 ∧ g.eff q &&& ~~~0xFF#32 ≠ 0 := by decide +kernel

/-- A word under p0, which is false in every lane. -/
def off (w : LaneWord) : LaneWord := { w with pred := 0 }

theorem meets_LaneGlobalAccess :
    let c := mfield 0 0 0 4
    let s := spread
    let atom : LaneWord := word 1 2 c
    [Instr.vld (off (word 1 0 c)), .ldx (off (word 4 0 c)), .vst (off (word 1 2 c 0 0)), .stx (off (word 4 2 c 0 0)), .atom (off atom), .atomagg (off atom)].all
      (fun i => given i s fun x => x.perf == 0) = true ∧
    given (.vld (word 1 0 c)) s (fun x => x.perf != 0 && s.requestReady (x.loadReq s x.c.addrGlobal) none) = true ∧
    given (.ldx (word 4 0 c)) s (fun x => x.perf != 0 && s.requestReady (x.loadReq s x.c.addrPair) none) = true ∧
    given (.vst (word 1 2 c 0 0)) s (fun x => x.perf != 0 && (x.storeBreach x.storeData).1 == 0 && s.requestReady (x.storeReq s x.c.addrGlobal) none) = true ∧
    given (.stx (word 4 2 c 0 0)) s (fun x => x.perf != 0 && (x.storeBreach x.storeData).1 == 0 && s.requestReady (x.storeReq s x.c.addrPair) none) = true ∧
    given (.atom atom) s (fun x => x.perf != 0 && s.requestReady (x.atomReq s (.atomic 0 false) x.c.addrGlobal) (relOf 0 0)) = true ∧
    given (.atomagg atom) s (fun x => x.perf != 0 && s.requestReady (x.atomReq s (.agg 0) x.c.addrGlobal) (relOf 0 0)) = true := by decide +kernel

/-- A lane load that has issued, its result awaited. -/
theorem meets_LaneGlobalAccess_value :
    let c := mfield 0 0 0 4
    let s := spread
    given (.vld (word 1 0 c)) s (fun x =>
      let q : MemReq := { x.loadReq s x.c.addrGlobal with id := 3 }
      let o : Outst := { outstOf s q (.vec 3) x.origin none with id := 3 }
      let t := s.updCur fun g => { g with outst := [o] }
      q.lane && q.width != 7 && (t.grp q.party).outst.find? (·.id == q.id) == some o && o.words.length == widthRegs q.width && !t.inSave q.party (q.va 0) &&
        q.va 0 % widthBytes q.width == 0) = true := by decide +kernel

theorem meets_LaneScratchAccess :
    let c := mfield 1 0 0 4
    let s := spread
    [Instr.lds (off (word 1 0 c)), .sts (off (word 1 2 c 0 0)), .atoms (off (word 1 2 c))].all (fun i => given i s fun x => x.perf == 0) = true ∧
    given (.lds (word 1 0 c)) s (fun x => x.perf != 0 && (s.scratchFaults 1 (x.loadReq s x.c.addrScratch)).isNone && !s.acqPending s.who true) = true ∧
    given (.sts (word 1 2 c 0 0)) s (fun x => x.perf != 0 && (x.storeBreach x.storeData).1 == 0 && (s.scratchFaults 1 (x.storeReq s x.c.addrScratch)).isNone && !s.acqPending s.who true &&
      (match laneRel (word 1 2 c 0 0) with | some sc => s.released s.who sc | none => true)) = true ∧
    given (.atoms (word 1 2 c)) s (fun x => x.perf != 0 && (s.scratchFaults 1 (x.atomReq s (.atomic 0 false) x.c.addrScratch)).isNone && !s.acqPending s.who true && (relOf 0 0).isNone) = true := by decide +kernel

theorem meets_LaneReferences :
    let c := mfield 0 0 1 0
    let w := word 4 6 c 0 127
    let s := grpd (fun g => g.setV 4 { full := true, lanes := Vector.ofFn fun i => ⟨BitVec.ofNat 32 (0x20000 + 64 * i.val), 0⟩ }) lane
    given (.laneStref w) s (fun x =>
      let h (i : Nat) : DWord := x.c.pair w.a i
      let r (i : Nat) : DWord := x.c.pair w.b i
      let word (v : Nat → Word) : Vector LaneVal 32 := Vector.ofFn fun i => ⟨v i.val, 0⟩
      let q : MemReq := { x.req s .ref 8 h with
        hint := 0, x := w.imm12.setWidth 64, data := [word fun _ => 0, word fun i => (r i).setWidth 32, word fun i => (r i).extractLsb' 32 32] }
      let all := (lanesOf x.perf).foldl (fun (acc : State × Bool) i =>
        let c := acc.1.refCheck s.who (h i) 1 (r i)
        (if c = .store then acc.1.refStore s.who (h i) 1 (r i) else acc.1, acc.2 && c == .store)) (s, true)
      w.imm12.toNat == 1 && !s.acqPending s.who true && !s.pageHeld q && (laneRel w).isNone && s.missLanes q == 0 && (s.askHeader q).isNone && all.2) = true := by decide +kernel

/-- Each outcome of the checks of a reference, at a container that is no object and at an object of scope 2. -/
theorem meets_LaneReferences_checks :
    let p : Party := .group 1 0
    let plain := { scal with dev := { scal.dev with mdrgn := scal.dev.mdrgn.set 0 (2 ^ 63) } }
    let hdr (sc len : Nat) : Nat := sc * 2 ^ 37 + len * 2 ^ 40
    let s : State := { plain with mem := writeLE (writeLE [] 0x20000 8 (hdr 2 2)) 0x30000 8 (hdr 1 2), md := [(0x20000 / 64, 2 ^ 63), (0x30000 / 64, 2 ^ 63)] }
    s.header p 0x20000 = .is true (BitVec.ofNat 64 (hdr 2 2)) ∧ s.header p 0x40000 = .is false 0 ∧ s.lookAt p 0x20008 true = .here 0x20008 ∧
    s.refCheck p 0x20001 1 0 = .align 0x20001 ∧ s.refCheck p 0x20000 1 1 = .align 1 ∧ s.refCheck p (2 ^ 57) 1 0 = .access (2 ^ 57) ∧ s.refCheck p 0x20000 0 0 = .access 0x20000 ∧
    s.refCheck p 0x20000 16 0 = .access 0x20080 ∧ s.refCheck p 0x20000 15 0 = .store ∧ s.refCheck p 0x20000 1 0x40000 = .access 0x40000 ∧ s.refCheck p 0x20000 1 0x20000 = .store ∧
    s.refCheck p 0x20000 1 0x30000 = .escape (2 + 8) ∧ (s.core (s.coreOf p)).cbuf = [] ∧ s.inRegion (64 * (0x20008 / 64)) = true := by decide +kernel

/-- A tile of the version word at 0x10100 as TLDA begins it. -/
def tiled (v : Nat) : State × TileTry :=
  let w : LaneWord := { word 1 3 (mfield 0 0 0 4) with scale := 5 }
  let s := { spread with mem := writeLE [] 0x10100 8 v }
  match laneReady (.tlda w) s with
  | some x =>
    let q : MemReq := { x.req s .load 4 (fun i => 0x10108 + BitVec.ofNat 64 (4 * i)) with acq := some 0, id := 3 }
    let t : TileTry := { q := q, qv := { x.req s .load 8 (fun _ => 0x10100) with acq := some 0, id := 3 }, fails := 0, v1 := none, words := none, last := none, poison := none, got := [] }
    (s.updCur fun g => { g with tiles := [t], outst := [{ outstOf s q (.vec 3) x.origin none with lanes := 0, pred := some (3, false) }] }, t)
  | none => (s, { q := scalarReq s.who .load 8 0, qv := scalarReq s.who .load 8 0, fails := 64, v1 := none, words := none, last := none, poison := none, got := [] })

theorem meets_LaneTiles :
    let w : LaneWord := { word 1 3 (mfield 0 0 0 4) with scale := 5 }
    let s := spread
    given (.tlda (off w)) s (fun x => x.perf == 0) = true ∧
    given (.tlda w) s (fun x =>
      let v := x.c.kBase + w.imm12.signExtend 64
      let q : MemReq := { x.req s .load (widthBytes w.width) (fun i => v + 8 + ((x.c.srcX w.a i).1.signExtend 64 <<< w.osc.toNat)) with acq := some w.scope, id := s.handles + 4 }
      let qv : MemReq := { x.req s .load 8 (fun _ => v) with acq := some w.scope, id := s.handles + 4 }
      let log : MemReq := { q with kind := .tile, x := v }
      x.perf != 0 && (s.addrFault qv).isNone && (s.addrFault q).isNone && !s.pageHeld log && !s.acqPending s.who true && s.missLanes log == 0) = true := by decide +kernel

/-- Of an even and of an odd version word: what an attempt finds. -/
theorem meets_LaneTiles_attempt : [tiled 6, tiled 7].all (fun e =>
    let (s, t) := e
    let p := t.q.party
    let n := lowestLane t.q.lanes
    let scope := (t.q.acq.getD 0).toNat
    let after (u : State) (r : MemReq) (l : List Nat) : State := l.foldl (fun u i => u.haulSector r.party (u.coreOf r.party) (r.paOf i)) (u.acquireAt r.party scope)
    let near (u : State) (r : MemReq) (i : Nat) : Bool := ((u.placed r).peerOf i).isNone && (u.seeSector (u.placed r) i).2.isNone
    let ver (u : State) : DWord := (u.seeSector (u.placed t.qv) n).1.1.extractLsb' (8 * (t.qv.va n % 64)) 64
    let s1 := after s (s.placed t.qv) [n]
    let s2 := after s1 (s1.placed t.q) (lanesOf t.q.lanes)
    (s.grp p).tiles == [t] && (s.grp p).outst.map (·.id) == [t.q.id] && t.qv.party == p && t.q.lanes != 0 && t.fails == 0 && near s t.qv n &&
      (lanesOf t.q.lanes).all (near s1 t.q) && near s2 t.qv n && ver s2 == ver s) = true ∧
    [tiled 6, tiled 7].map (fun e => (e.1.seeSector (e.1.placed e.2.qv) 0).1.1.extractLsb' 0 64) = [6, 7] := by decide +kernel

/-- A copy's block at s10: 64 bytes from 0x20000, the destination and its flags; an extension at 0x30000; masks in s20 and s21. -/
def copier (dst flags : Nat) : State :=
  let s := regs [(10, 0x20000), (11, BitVec.ofNat 64 dst), (12, 64 + 2 ^ 32), (13, 0), (14, BitVec.ofNat 64 flags), (15, 0x30000), (20, 1), (21, 1)]
  { s with mem := writeLE [] 0x30000 8 (1 + 2 ^ 32), ctxs := [(0, { loadCtx with partition := [(0, 0x8005)] })], peers := [(5, { Peer.empty with ports := 1 })] }
/-- The copy of a block, its extension read, passes the checks that every form has. -/
def copySound (s : State) (k : CopyKind) : Bool :=
  let ops (x : Bool) : List DWord := (List.range 5).map (s.par 10) ++ [if x then s.par 10 5 else 0, 0]
  let ok (t : State) (x : Bool) (ext : List Byte) : Bool :=
    let c := t.copyWith k (ops x) x ext
    !copyIll (s.copyWith k (ops x) false []) (ops x) [] && !copyIll c (ops x) ext && (t.endCheck c c.sspc c.srcAt c.sadr c.sdims).isNone && (s.copyWith k (ops x) false []).ev.isNone &&
      t.released t.who 0 && decide (((t.core (t.coreOf t.who)).copies.filter fun x => x.stopped.isNone).length < Config.copyQueue)
  ok s false [] && !s.pagesHeld s.who [0x30000, 0x3002F] && (s.paramNeeds s.who 0x30000 48).isNone && (match s.paramBytes s.who 0x30000 48 with | .got t ext => ok t true ext | _ => false)

theorem meets_CopyInstructions :
    let s := copier 0 (2 ^ 60)
    let t := copier 0x40000 0
    let k : CopyKind := .multi 1
    let p : CopyKind := .peers (t.peerDevs (t.rs 20))
    ready [(.copy 5 10 false, blockRegs 10 5, [5]), (.copy 5 10 true, blockRegs 10 6, [5]), (.copym 5 10 20 false false, blockRegs 10 5 ++ [20], [5]),
      (.copym 5 10 19 true false, blockRegs 10 6 ++ [19], [5])] s = true ∧ placeOk (s.par 10 5) 8 ∧ copySound s .copy = true ∧ copySound s k = true ∧
    (s.endCheck (s.copyOf .copy 10 false []) true (s.copyOf .copy 10 false []).dstAt 0 (s.copyOf .copy 10 false []).ddims true) = none ∧
    (s.rs 20).toNat < 2 ^ 12 ∧ (s.copyOf k 10 false []).dspc = true ∧ (s.par 10 1).getLsbD 24 = false ∧
    spanIn 0 (s.copyOf k 10 false []).ddims (s.grid s.curTeam.grid).scrBytes = true ∧ s.badMembers (s.rs 20) = 0 ∧ s.rs 20 ≠ 0 ∧ s.rs 19 = 0 ∧ s.badMembers (s.rs 19) = 0 ∧
    ready [(.copym 5 10 20 false true, blockRegs 10 5 ++ [20], [5]), (.copym 5 10 19 true true, blockRegs 10 6 ++ [19], [5])] t = true ∧ copySound t p = true ∧
    (t.copyOf p 10 false []).dspc = false ∧ spanIn (t.copyOf p 10 false []).dadr (t.copyOf p 10 false []).ddims (2 ^ 52) = true ∧ t.badPeers (t.rs 20) = 0 ∧ t.badPeers 0 = 0 := by
  unfold placeOk; decide +kernel

/-- A copy whose extension lies in a page that has no translation. -/
theorem meets_CopyInstructions_logged :
    let s := regs [(15, 2 ^ 40)] (copier 0 (2 ^ 60))
    let ops : List DWord := (List.range 6).map (s.par 10) ++ [0]
    ready [(.copy 5 10 true, blockRegs 10 6, [5])] s = true ∧ copyIll (s.copyWith .copy ops false []) ops [] = false ∧ (s.copyWith .copy ops false []).ev = none ∧
    placeOk (s.par 10 5) 8 ∧ s.pagesHeld s.who [2 ^ 40, 2 ^ 40 + 47] = false ∧ (s.paramNeeds s.who (2 ^ 40) 48).isSome = true ∧
    (match s.paramBytes s.who (2 ^ 40) 48 with | .got _ _ => false | _ => true) = true ∧ s.released s.who 0 = true ∧ s.logFull (s.coreOf s.who) = false := by
  unfold placeOk; decide +kernel

/-- A copy of the group in the queue, under way or stopped. -/
def copied (stop : Option (BitVec 8 × DWord)) : State :=
  (copier 0 0).updCore 0 fun c => { c with copies := [{ (copier 0 0).copyOf .copy 10 false [] with id := 3, stopped := stop }] }

theorem meets_CopyInstructions_cwait :
    ready [(.cwait 5 true, [5], []), (.cwait 0 false, [], [])] = true ∧ scal.copiesOf scal.who = [] ∧ scal.logOf scal.who = [] ∧ (copied none).logOf (copied none).who = [] ∧
    (let l : LogEntry := { req := { scalarReq scal.who (.command (.copy 5 10 true)) 8 (2 ^ 40) with id := 3 }, refused := 0, origin := Origin.scalar, pc := 0, inh := false }
     let s := regs [(5, 9)] (scal.updCore 0 fun c => { c with olog := [l] })
     ready [(.cwait 5 true, [5], []), (.cwait 0 false, [], [])] s = true ∧ s.logOf s.who = [l] ∧ l.req.lanes ≠ 0 ∧ (s.cyc s.who).ule (s.rs 5) = true) ∧
    ready [(.cwait 5 true, [5], [])] (copied none) = true ∧ (((copied none).copiesOf (copied none).who).filter fun c => c.promise.ule ((copied none).rs 5)).all (·.stopped.isNone) = true ∧
    ((copied none).copiesOf (copied none).who).length = 1 ∧
    ready [(.cwait 0 false, [], [])] (copied (some (0x0F, 7))) = true ∧ ((copied (some (0x0F, 7))).copiesOf (copied (some (0x0F, 7))).who).map (·.stopped) = [some (0x0F, 7)] := by
  decide +kernel

/-- The core is in weight phase of the group's grid. -/
def weighing (s : State) : State := s.updCore 0 fun c => { c with wphase := some 1 }

theorem meets_WeightStoreInstructions :
    let s := weighing (regs [(10, 0x20000), (11, 2 + 64 * 2 ^ 32), (12, 64), (13, BitVec.ofNat 64 (5 + 2 ^ 12 + 8 * 2 ^ 16 + 2 ^ 32 + 10 * 2 ^ 60)), (14, 63), (15, 5)])
    ready [(.wload 5 10, blockRegs 10 3, [5]), (.wdir 13 14, [13, 14], []), (.wdir 15 14, [15, 14], []), (.rfsh, [], [])] s = true ∧ s.stalled = false ∧
    fieldN (s.par 10 1) 19 13 = 0 ∧ fieldN (s.par 10 1) 32 32 = 64 ∧ fieldN (s.par 10 2) 0 32 = 64 ∧ fieldN (s.par 10 2) 32 32 = 0 ∧ s.curCore.wphase ≠ none ∧
    (s.par 10 0).toNat % 64 = 0 ∧ (s.par 10 0).toNat + 64 ≤ 2 ^ 57 ∧ s.absentRow s.who 1 64 (fun _ => 0x20000) false = none ∧ s.released s.who 0 = true ∧ ((s.core 0).copies.filter fun x => x.stopped.isNone).length < Config.copyQueue ∧
    (s.rs 14).toNat < 64 ∧ dirValid (s.rs 13) = true ∧ dirOk (s.rs 13) = true ∧ dirValid (s.rs 15) = false ∧ s.coreOf s.who < Config.coreCount := by decide +kernel

/-- A matrix block at s10: 8 × 8, 128 positions of FP16 by FP16, A at scratch 0. -/
def matrix (f : State → State := id) : State :=
  f (grpd (fun g => { g with fmt := 0x220000 }) (regs [(10, BitVec.ofNat 64 (7 * 2 ^ 4 + 7 * 2 ^ 10 + 128 * 2 ^ 32)), (11, BitVec.ofNat 64 (256 * 2 ^ 25)), (12, 0), (13, 0x20000), (14, 256), (15, 0), (16, 0x800), (20, 1)]))
/-- The sequencer's queue is full. -/
def queued (s : State) : State := s.updCore 0 fun c => { c with seq := List.replicate Config.seqQueue (s.seqCmd 1 0 .zero) }

/-- Outside every phase. -/
theorem meets_WeightStoreInstructions_phase :
    let s := regs [(10, 0x20000), (11, 2 + 64 * 2 ^ 32), (12, 64), (13, BitVec.ofNat 64 (5 + 2 ^ 12 + 8 * 2 ^ 16 + 2 ^ 32 + 10 * 2 ^ 60)), (14, 63), (15, 5)]
    ready [(.wload 5 10, blockRegs 10 3, [5]), (.wdir 13 14, [13, 14], []), (.wdir 15 14, [15, 14], [])] s = true ∧ s.curCore.wphase = none ∧
    fieldN (s.par 10 1) 32 32 = 64 ∧ fieldN (s.par 10 1) 19 13 = 0 ∧ fieldN (s.par 10 2) 0 32 = 64 ∧ fieldN (s.par 10 2) 32 32 = 0 ∧ (s.rs 14).toNat < 64 ∧
    dirOk (s.rs 13) = true ∧ dirValid (s.rs 15) = false := by decide +kernel

theorem meets_MatrixCommands :
    let s := matrix
    let p := s.loopOf 10
    ready [(.mloop 10, blockRegs 10 6, []), (.mzero 0, [], []), (.mzero 5, [], []), (.mgang 10 20, blockRegs 10 7 ++ [20], []), (.mgang 10 19, blockRegs 10 7 ++ [19], []),
      (.mready, [], []), (.mreadyGang, [], [])] s = true ∧
    s.loopFeature p = none ∧ s.loopIll 10 p = false ∧ fieldN (s.par 10 0) 0 4 < s.curTeam.accMap.length ∧ p.aligns.all (·.isNone) = true ∧ (s.loopAccess p ++ s.streamAccess p).all (·.isNone) = true ∧
    s.phaseCheck p = none ∧ s.curCore.seqRoom = true ∧ s.curTeam.accMap.length ≤ 5 ∧ (queued matrix).curCore.seqRoom = false ∧
    ready [(.mloop 10, blockRegs 10 6, []), (.mzero 0, [], [])] (queued matrix) = true ∧ (queued matrix).loopIll 10 p = false ∧
    p.asrcReg = false ∧ p.cmask = 0 ∧ (s.par 10 6).toNat < 2 ^ 19 ∧ (s.rs 20).toNat < 2 ^ 12 ∧ (s.par 10 6).toNat % 8 = 0 ∧
    (s.par 10 6).toNat + 8 ≤ (s.grid s.curTeam.grid).scrBytes ∧ s.badMembers (s.rs 20) = 0 ∧ s.members (s.rs 20) = [1] ∧ s.badMembers (s.rs 19) = 0 ∧ s.members (s.rs 19) = [] ∧
    s.released s.who 0 = true ∧ s.cur.vecsQuiet = true ∧ s.cur.ready = none ∧ s.curTeam.gangToken = none ∧
    (let t := (grpd (fun g => { g with ready := some ⟨[], []⟩ }) s).setTeam 1 { s.curTeam with gangToken := some (0, ⟨[], []⟩) }
     ready [(.mready, [], []), (.mreadyGang, [], [])] t = true ∧ t.released t.who 0 = true ∧ t.cur.vecsQuiet = true ∧ t.curTeam.gangToken.isSome = true) := by decide +kernel

theorem meets_MatrixCommands_mout :
    let mk (dst : Nat) : State := regs [(10, BitVec.ofNat 64 (7 * 2 ^ 4 + 7 * 2 ^ 10)), (11, BitVec.ofNat 64 dst), (12, 256)] (matrix)
    let o := (mk 0x20000).moutOf 10
    ready [(.mout 10, blockRegs 10 3, [])] (mk 0x20000) = true ∧ o.aon = false ∧ o.sc = 0 ∧ o.ofmt = 0 ∧ o.rnd.toNat ≤ 4 ∧ o.dspc = false ∧
    fieldN ((mk 0x20000).par 10 0) 28 36 = 0 ∧ fieldN ((mk 0x20000).par 10 2) 32 32 = 0 ∧
    o.dadr.toNat % 4 = 0 ∧ o.rstr % 4 = 0 ∧ spanIn o.dadr.toNat [(4 * ceilDiv o.n (fmtElems o.ofmt.toNat), 1), (o.m, o.rstr)] (2 ^ 57) = true ∧
    (mk 0x20000).absentRow scal.who o.m (4 * ceilDiv o.n (fmtElems o.ofmt.toNat)) (fun i => o.dadr.toNat + i * o.rstr) true = none ∧ (mk 0x20000).curCore.seqRoom = true := by decide +kernel

theorem meets_MatrixResults :
    let s := regs [(6, BitVec.ofNat 64 (4 * 2 ^ 4 + 2 * 2 ^ 23))]
    ready [(.mwait 0, [], []), (.mwaitAll, [], []), (.mldc 6, [6], [])] s = true ∧ (0 : Nat) < s.curTeam.accMap.length ∧ s.seqBusy (some 0) = false ∧ s.seqBusy none = false ∧
    s.cur.seqFaults = [] ∧ (queued s).seqBusy (some 0) = true ∧ (queued s).seqBusy none = true ∧ ready [(.mwait 0, [], []), (.mwaitAll, [], [])] (queued s) = true ∧
    (let t := grpd (fun g => { g with seqFaults := [⟨3, 0, 0x0F, 7⟩] }) s
     ready [(.mwait 0, [], []), (.mwaitAll, [], [])] t = true ∧ t.seqBusy none = false ∧ t.cur.seqFaults.length = 1) ∧
    fieldN (s.rs 6) 30 34 = 0 ∧ fieldN (s.rs 6) 23 7 = 2 ∧ fieldN (s.rs 6) 4 7 + 2 ≤ s.cur.nreg ∧ (s.cur.vreg 4).full = true ∧ (s.cur.vreg 5).full = true ∧
    s.curCore.seq = [] ∧ s.curCore.past = [] ∧
    (let q : SeqCmd := { s.seqCmd 1 2 (.loop (s.loopOf 10)) with seen := [0] }; q.onTeam = s.who.teamOf ∧ s.who.gidOf.val ∈ q.seen) := by decide +kernel

/-- A metadata region over the low 2 MiB, and registers of the object instructions: objects at 0x20000, of 2 sectors. -/
def objects (f : State → State := id) : State :=
  let s := regs [(10, 0x20000), (11, 2), (12, 0), (13, 0)]
  f { s with dev := { s.dev with mdrgn := s.dev.mdrgn.set 0 (2 ^ 63) } }

/-- The request of the STREF of the block at s10. -/
def strefReq (s : State) : MemReq := { scalarReq s.who .ref 8 (s.par 10 0) with x := s.par 10 1, y := s.par 10 2 }

theorem meets_ObjectInstructions :
    let s := objects
    let parts := pageParts 0x20000 128
    ready [(.mkobj 10, blockRegs 10 2, []), (.stref 10 false 0, blockRegs 10 3, []), (.stref 10 true 1, blockRegs 10 3, []), (.ldhdr 5 10, [10], [5])] s = true ∧
    placeOk (s.par 10 0) 64 ∧ s.acqPending s.who false = false ∧ s.pagesHeld s.who (parts.map (·.1)) = false ∧ parts = [(0x20000, 128)] ∧
    s.lookAt s.who 0x20000 true = .here 0x20000 ∧ s.isHbm 0x20000 = true ∧ (s.dev.mdrgn.toList.any fun r => regionHolds r 0x20000 128) = true ∧
    s.roomFor (s.coreOf s.who) (s.pasidOf s.who) [0x20000 / 64] = true ∧
    refFields (s.par 10 0) (s.par 10 2) = .store ∧ s.released s.who 1 = true ∧ s.pageHeld (strefReq s) = false ∧
    s.refCheck s.who (s.par 10 0) 2 (s.par 10 2) = .store ∧ s.header s.who 0x20000 = .is false 0 ∧ s.lookAt s.who 0x20000 false = .here 0x20000 ∧ s.poison.contains (0x20000 / 64) = false ∧
    (s.core (s.coreOf s.who)).cbuf = [] ∧
    (let t := regs [(11, 0)] s; ready [(.stref 10 false 0, blockRegs 10 3, [])] t = true ∧ t.pageHeld (strefReq t) = false ∧ t.refCheck t.who (t.par 10 0) 0 (t.par 10 2) = .access 0x20000) := by
  unfold placeOk; decide +kernel

/-- A store of a reference to an object raised only to scope 0 escapes. -/
theorem meets_ObjectInstructions_escape :
    let s := objects fun s => { regs [(10, 0x30000), (12, 0x20000)] s with md := [(0x20000 / 64, 2 ^ 63)] }
    ready [(.stref 10 false 0, blockRegs 10 3, [])] s = true ∧ refFields (s.par 10 0) (s.par 10 2) = .store ∧ s.acqPending s.who false = false ∧
    s.pageHeld (strefReq s) = false ∧ s.refCheck s.who (s.par 10 0) 2 (s.par 10 2) = .escape 4 := by decide +kernel

/-- A page of host memory at 2^40, which the core and the hub translate. -/
def hosted (s : State) : State :=
  let t : Trans := { loadTrans with va := 2 ^ 40, pa := 2 ^ 51 }
  { s.updCore 0 (fun c => { c with tlb := [t, loadTrans] }) with dies := [(6, { Die.empty with tcache := [t, loadTrans] })] }

theorem meets_ObjectInstructions_pub :
    let s := regs [(10, 0x20000), (11, 2)]
    let t := hosted (regs [(10, 0x20000), (11, 4), (12, 0x30008), (13, 2 ^ 40 + 8)])
    [s, t].all (fun s => ready [(.pub 5 10, blockRegs 10 4, [5])] s && s.fenceReady 1 true ((s.par 10 1).toNat - 1) && s.lostBits == 0) = true ∧
    placeOk (s.par 10 0) 64 ∧ s.par 10 2 = 0 ∧ s.par 10 3 = 0 ∧ placeOk (t.par 10 2) 8 ∧ placeOk (t.par 10 3) 8 ∧
    t.lookAt t.who (t.par 10 3).toNat true = .here (2 ^ 51 + 8) ∧ t.isHostMem (2 ^ 51 + 8) = true ∧ (s.die 0).walks = [] ∧ (t.die 6).walks = [] := by
  unfold placeOk; decide +kernel

/-- A launch record at 0x30000, s6: one team of one group, counter 0x34000, status 0x38000, n dependences; grids of the context already launched. -/
def launching (gx deps open' : Nat) : State :=
  let s := hosted (regs [(6, 0x30000), (10, 0x34000), (11, 1), (12, 0x38000)])
  let bs := bytesLE 4 gx ++ bytesLE 4 1 ++ bytesLE 4 1 ++ bytesLE 8 (6 * 2 ^ 4 + 2 ^ 8 + 2 ^ 16 + deps * 2 ^ 56) ++ bytesLE 4 0 ++ bytesLE 8 0x10000 ++ bytesLE 8 0 ++ bytesLE 8 0 ++
    bytesLE 8 0 ++ bytesLE 8 0x34000 ++ bytesLE 8 0x38000 ++ bytesLE 8 0 ++ bytesLE 8 0x3C000 ++ bytesLE 4 1
  { s with mem := writeBytes [] 0x30000 bs, grids := s.grids ++ (List.range open').map fun k => (10 + k, { loadGrid with handed := false }) }
/-- What a LAUNCH finds: it is ready and has read its record; the record's fault; the grids open; dependence entries; whether its pages translate. -/
def launchFinds (s : State) : Option (Option Nat × Bool × Nat × Bool) :=
  match s.homeSectors s.who (codeSectors (s.rs 6).toNat 128) with
  | .got t bs =>
    let ctx := BitVec.ofNat 8 (t.ctxOf t.who)
    let g := t.gridOf ctx (s.rs 6) bs
    if ready [(.launch 6, [6], [])] s && s.fenceReady 1 true 3 then
      some (t.recordFault g bs, decide (Config.gridsPerContext ≤ t.openGrids ctx), t.depEntries + g.deps.length,
        ((g.ccnt.toNat, true) :: g.deps.map (fun d => (d.1.toNat, false))).all fun e => t.lookHub ctx.toNat e.1 e.2 != .miss)
    else none
  | _ => none

theorem meets_LaunchAndJoin : placeOk ((launching 1 0 0).rs 6) 64 ∧ launchFinds (launching 1 0 0) = some (none, false, 0, true) ∧
    launchFinds (launching 1 1 0) = some (none, false, 1, true) ∧ launchFinds (launching 0 0 0) = some (some 0x02, false, 0, true) ∧
    launchFinds (launching 1 0 64) = some (none, true, 0, true) := by unfold placeOk; decide +kernel

theorem meets_LaunchAndJoin_join :
    let s := launching 1 0 0
    let u := { s with mem := writeLE [] 0x34000 8 1 }
    let r := u.readCounter u.who 0x34000 0x34000
    [s, u].all (fun s => ready [(.join 5 10, blockRegs 10 3, [5])] s) = true ∧ placeOk (s.par 10 0) 8 ∧ placeOk (s.par 10 2) 8 ∧
    s.look (s.coreOf s.who) (s.pasidOf s.who) 0x34000 false = .here 0x34000 ∧ u.look (u.coreOf u.who) (u.pasidOf u.who) 0x34000 false = .here 0x34000 ∧ s.poison = [] ∧
    (s.readCounter s.who 0x34000 0x34000).2 = 0 ∧ s.feature 6 = true ∧ (s.readCounter s.who 0x34000 0x34000).1.watchRoom (s.homeOf 0x34000) = true ∧
    r.2 = 1 ∧ (r.1.updCur fun g => { g with wait := .none }).requestReady { scalarReq r.1.who .load 8 (u.par 10 2) with acq := some 3 } none = true := by
  unfold placeOk; decide +kernel

/-! ### Events: each runs where its conditions hold -/

/-- An instruction or event answers a next state that is no wait. -/
def goes (i : Instr) (s : State) : Bool := match exec i s with | .next t => !t.stalled | _ => false
/-- The host has asked for something. -/
def host (q : HostReq) (f : State → State := id) : State := f { State.reset with hostq := [q] }
/-- The host has written a value at an offset of BAR0. -/
def wr (off : Nat) (v : DWord) (f : State → State := id) : State := host (.write off 8 v) f
def dev (f : Dev → Dev) (s : State) : State := { s with dev := f s.dev }
/-- Device in a state. -/
def inState (n : Nat) (s : State) : State := dev (fun d => { d with state := BitVec.ofNat 4 n }) s
/-- The oldest request is the write. -/
def wrote? (s : State) (off : Nat) (v : DWord) : Bool := s.hostq.head? == some (.write off 8 v)
/-- A start runs, cold or not. -/
def starts (cold : Bool) (n : Nat := 3) (s : State := State.reset) : State := dev (fun d => { d with startReq := some (cold, false) }) (inState n s)

theorem meets_StartEvents :
    [wr 0x10 1, wr 0x10 2].all (fun s => !s.dev.starting && s.dev.startReq == none && s.grids.isEmpty && s.streams.isEmpty) = true ∧
    [(Instr.conventionalReset, State.reset), (.functionLevelReset, State.reset), (.warmStartRequest, wr 0x10 1), (.coldStartRequest, wr 0x10 2),
      (.conventionalReset, starts true), (.functionLevelReset, starts true), (.warmStartRequest, wr 0x10 1 (starts true 3 ·)), (.coldStartRequest, wr 0x10 3 (starts true 3 ·)),
      (.startTimeout, starts true), (.startTimeout, starts false), (.startTimeout, dev (fun d => { d with wfail := 2 }) (starts false))].all (fun e => goes e.1 e.2) = true ∧
    (starts true).dev.starting = true ∧ wrote? (wr 0x10 1) 0x10 1 = true := by decide +kernel

theorem meets_HostRegisterEvents :
    let set (s : State) : State := dev (fun d => { d with erqSet := true }) s
    let carve (s : State) : State := dev (fun d => { d with mdcfgEff := 8 }) s
    let acc (v : DWord) (s : State) : State := dev (fun d => { d with acceptLo := v }) s
    [(Instr.featureCommit, wr 0x48 0 (inState 8)), (.featureCommit, wr 0x48 1), (.featureCommit, wr 0x48 0 (acc 0x1000)), (.featureCommit, wr 0x48 0 (acc 0xFFF)),
      (.mdcfgWrite, wr 0x50 8 (inState 3)), (.mdcfgWrite, wr 0x50 9), (.mdcfgWrite, wr 0x50 8), (.mdrgnWrite, wr 0x100 0 (inState 8)), (.mdrgnWrite, wr 0x178 0),
      (.mdrgnWrite, wr 0x108 (2 ^ 63)), (.mdrgnWrite, wr 0x108 (2 ^ 63) carve),
      (.erqBaseWrite, wr 0x200 64 set), (.erqBaseWrite, wr 0x200 63), (.erqBaseWrite, wr 0x200 64), (.erqSizeWrite, wr 0x208 64 set), (.erqSizeWrite, wr 0x208 96),
      (.erqSizeWrite, wr 0x208 65536), (.erdropRead, host (.read 0x220 8)), (.erdropRead, host (.read 0x8 8)), (.erdropRead, host (.read 0x220 4)), (.registerWrite, host (.write 0x218 4 1)), (.registerWrite, host (.write 0x21C 8 1)),
      (.erqSizeWrite, wr 0x208 64 (starts true 3 ·)), (.erdropRead, host (.mgmtRead .errorRing 0 64) (fun s => set { s with dev := { s.dev with erqSize := 4096 } })),
      (.registerWrite, wr 0x218 64), (.registerWrite, wr 0x40 5), (.registerWrite, wr 0x10008 7), (.registerWrite, wr 0x1000028 (2 ^ 12))].all (fun e => goes e.1 e.2) = true ∧
    (wr 0x108 (2 ^ 63)).popHost.regionOk (2 ^ 63) = false ∧ (wr 0x108 (2 ^ 63) carve).popHost.regionOk (2 ^ 63) = true ∧
    [0, 7, 8, 9].contains (wr 0x50 8).dev.state = true ∧ [0, 7, 8, 9].contains (wr 0x50 8 (inState 3)).dev.state = false ∧
    (starts true 3).dev.starting = true ∧ (host (.mgmtRead .errorRing 0 64) (fun s => set { s with dev := { s.dev with erqSize := 4096 } })).mgmtPasses .errorRing 0 64 false = true ∧
    65536 ∈ ringSizes ∧ 64 ∈ ringSizes ∧ 96 ∉ ringSizes ∧ ctxWindow 0x218 = none ∧ regEvent 0x218 8 64 = .plain ∧ regEvent ((0 + 1) * 0x10000 + 0x8) 8 7 = .plain ∧
    regEvent ((255 + 1) * 0x10000 + 0x28) 8 0x1000 = .plain ∧ (State.reset.ctx 0).state = 0 ∧ ((inState 8 State.reset).setCtx 0 { loadCtx with state := 3 }).ctx 0 = { loadCtx with state := 3 } := by
  decide +kernel

/-- A firmware request is pending: its bytes from the first. -/
def fw (l : List Nat) (n : Nat := 8) (f : State → State := id) : State :=
  let b (i : Nat) : Nat := l.getD i 0
  f (dev (fun d => { d with fwReq := true, fwData := Vector.ofFn fun i => BitVec.ofNat 64 ((List.range 8).foldl (fun a k => a + b (8 * i.val + k) * 256 ^ k) 0) }) (inState n State.reset))
/-- A pending request of a type whose unnamed bytes are zero. -/
def fwAsks? (s : State) (type : Nat) (named : List Nat) : Bool :=
  s.dev.fwReq && !s.dev.mgmtRestart && recN s.dev.fwBytes 0 2 == type && s.dev.fwBytes.zipIdx.all fun b => b.2 < 2 || named.contains b.2 || b.1 == 0
/-- Bytes of a request: its type, and the others by offset. -/
def req (type : Nat) (l : List Nat) : List Nat := [type, 0, 0, 0, 0, 0, 0, 0] ++ l

theorem meets_SecurityCoreEvents :
    let ext (s : State) : State := dev (fun d => { d with mboxExt := true }) s
    let mgmt (s : State) : State := dev (fun d => { d with mgmtRestart := true }) s
    let down (s : State) : State := { s with ports := s.ports.set 2 { Port.reset with down := true } }
    let peer (s : State) : State := { s with peers := [(9, { Peer.empty with ports := 4 })] }
    [(Instr.attReq, wr 0x448 1), (.attReq, wr 0x448 2), (.attReq, wr 0x448 1 (inState 3)),
      (.mboxExt, wr 0x540 1 ext), (.mboxExt, wr 0x540 1), (.mboxExt, wr 0x540 0), (.mboxExt, wr 0x540 1 (inState 3)), (.mboxExtensionMade, ext State.reset),
      (.mgmtWatchdogMiss, State.reset), (.mgmtRestartComplete, mgmt State.reset)].all (fun e => goes e.1 e.2) = true ∧
    [(1, [8, 9], Instr.fwreqDeviceNumber, fw (req 1 [5, 15]) 7), (1, [8, 9], .fwreqDeviceNumber, fw (req 1 [0, 16]) 7),
      (2, [8, 9, 10, 11], .fwreqPortSet, fw (req 2 [5, 0, 4, 0]) 3), (2, [8, 9, 10, 11], .fwreqPortSet, fw (req 2 [5, 0, 4, 0]) 8 peer),
      (2, [8, 9, 10, 11], .fwreqPortSet, fw (req 2 [9, 0, 4, 0]) 8 peer), (3, [8, 9, 10, 11], .fwreqPartitionEntry, fw (req 3 [255, 63, 5, 0x80])),
      (3, [8, 9, 10, 11], .fwreqPartitionEntry, fw (req 3 [0, 64, 5, 0x80])),
      (4, 8 :: (List.range 32).map (· + 16), .fwreqTenantBudget, fw (req 4 ([63] ++ List.replicate 7 0 ++ List.replicate 32 0xFF))), (4, 8 :: (List.range 32).map (· + 16), .fwreqTenantBudget, fw (req 4 [64])),
      (5, [8], .fwreqPortRetrain, fw (req 5 [2]) 8 down), (5, [8], .fwreqPortRetrain, fw (req 5 [12])),
      (5, [8], .fwreqPortRetrain, fw (req 5 [11])), (6, [8, 9], .fwreqSliceThreshold, fw (req 6 [1])), (6, [8, 9], .fwreqSliceThreshold, fw (req 6 []))].all
      (fun e => fwAsks? e.2.2.2 e.1 e.2.1 && goes e.2.2.1 e.2.2.2) = true ∧
    ((fw (req 5 [2]) 8 down).ports.get 2).down = true ∧ ((fw (req 5 [11])).ports.get 11).down = false := by decide +kernel

/-- Context 0 in a state of its life; the device runs. -/
def ctxd (n : Fin 4) (s : State) : State := (inState 8 s).setCtx 0 { loadCtx with state := n }
/-- The hub translates the low gigabyte. -/
def hub (s : State) : State := { s with dies := [(6, { Die.empty with tcache := [loadTrans] })] }

theorem meets_ContextEvents :
    let streams (n : Nat) (s : State) : State := { s with streams := (List.range n).map fun k => (k, { Stream.empty with ctx := BitVec.ofNat 8 (k / 4), ccore := k / 8, slot := k % 8 }) }
    let at' (a : DWord) (s : State) : State := s.setCtx 0 { s.ctx 0 with evaddr := Vector.replicate 16 a }
    let absent := wr 0x10040 0x30000 (fun s => { ctxd 1 s with dies := [(6, { Die.empty with tcache := [{ loadTrans with pa := 2 ^ 48 }] })] })
    let flying := { wr 0x10200 5 (hub <| at' 0x30000 <| ctxd 1 ·) with peers := [(9, { Peer.empty with ports := 4, sent := [{ TSent.make opAtomic 0 0 hubUnit (.stream 0) with seq := 7, port := 2 }] })] }
    [(Instr.ctxEnable, wr 0x10000 1 (inState 8)), (.ctxEnable, wr 0x10000 1), (.ctxEnable, wr 0x10000 1 (ctxd 2)), (.ctxSetupComplete 0, ctxd 3 State.reset), (.ctxKill, wr 0x10000 3 (ctxd 1)),
      (.ctxKill, wr 0x10000 0 (ctxd 3)), (.ctxKill, wr 0x10000 0 (ctxd 2)), (.ctxKillComplete 0, ctxd 2 State.reset), (.streamStart, wr 0x10040 0x30000 (ctxd 0)), (.streamStart, wr 0x10058 0x30000 (ctxd 3)),
      (.streamStart, wr 0x10040 0x30000 (streams 1 <| ctxd 1 ·)), (.streamStart, wr 0x10040 0x30000 (fun s => let t := streams 256 (ctxd 1 s); { t with streams := t.streams.map fun e => (e.1 + 4, e.2) })),
      (.streamStart, wr 0x10040 0x30000 (hub <| ctxd 1 ·)), (.doorbell, wr 0x10200 5 (ctxd 2)), (.doorbell, wr 0x10278 5 (ctxd 3)), (.doorbell, wr 0x10200 5 (at' 4 <| ctxd 1 ·)),
      (.doorbell, wr 0x10200 5 (hub <| at' 0x30000 <| ctxd 1 ·)), (.streamStart, absent), (.doorbell, flying)].all (fun e => goes e.1 e.2) = true ∧
    absent.freeSlot = some (0, 0) ∧ absent.popHost.hubLook 0 0x30000 false = .bad ∧ flying.hubFlying 0 opAtomic = true ∧ flying.hubLook 0 0x30000 true = .here 0x30000 ∧
    (let s := wr 0x10040 0x30000 (hub <| ctxd 1 ·)
     s.freeSlot = some (0, 0) ∧ s.hubLook 0 0x30000 false = .here 0x30000 ∧ s.hubLook 0 0x3003F false = .here 0x3003F ∧ (match s.popHost.readRecord 0 0x30000 (codeSectors 0x30000 64) with | .inr _ => true | _ => false) = true ∧ s.dev.startReq = none) ∧
    (wr 0x10040 0x30000 (fun s => let t := streams 256 (ctxd 1 s); { t with streams := t.streams.map fun e => (e.1 + 4, e.2) })).freeSlot = none ∧
    (wr 0x10200 5 (hub <| at' 0x30000 <| ctxd 1 ·)).hubLook 0 0x30000 true = .here 0x30000 := by decide +kernel

theorem meets_PackageEvents :
    let thr (s : State) : State := dev (fun d => { d with throt := true }) s
    let counted (f : Place3 → Place3) : State := { State.reset with mp := f { State.reset.mp with corrected := [(40, 64)] } }
    let all32 (p : Place3) : Place3 := { p with slt := ((List.range 32).filter (fun c => c != 8)).map fun c => (32 + c, BitVec.ofNat 8 (0x80 + c)) }
    let lost (s : State) : State := { s with seams := s.seams.set 2 { Seam.reset with failed := 65 } }
    [(Instr.seamFlit 9 true 64, State.reset), (.seamFlit 0 false 0, State.reset), (.seamFlit 0 true 64, { State.reset with seams := State.reset.seams.set 0 { Seam.reset with failed := 64 } }), (.hubSeamLoss 2, lost State.reset), (.deviceStop, dev (fun d => { d with stopped := true }) State.reset),
      (.sliceRetirement 40, counted id), (.sliceRetirement 40, counted all32), (.powerLimitWrite, host (.power 2000)), (.powerLimitWrite, host (.power 2000) thr), (.throtNAssert, State.reset),
      (.throtNRelease, thr State.reset), (.coolantExcursion, State.reset), (.thermalShutdown, thr State.reset), (.cxlPortLoss 1, State.reset), (.hostPortLoss, State.reset), 
      (.correctedErrorReport 575, State.reset), (.fatalDieError 5, State.reset)].all (fun e => goes e.1 e.2) = true ∧
    (counted id).servingSlice 40 = some 41 ∧ (counted all32).servingSlice 40 = none ∧ (counted all32).retiredSlice 40 = false ∧ (1 : Fin 4) ≠ State.reset.dev.hostPort ∧
    ({ State.reset with poison := [1] }).poison.contains (100 / 64) = true ∧ State.reset.paOk 64 = true ∧ State.reset.isHbm 100 = true ∧
    [id, all32].all (fun f => (counted f).dev.stackMap.getLsbD (40 / 32) && !(counted f).mp.turnedDown.contains 40) := by decide +kernel

theorem meets_HostMemoryEvents :
    let w (pa home : Nat) : Watch := { home := home, party := .group 1 0, pa := pa, target := 1, hit := false }
    let s := host (.line (2 ^ 51) (bytesLE 8 1)) fun s => { s with watches := [w (2 ^ 51) 576] }
    [(Instr.cxlMemHostWrite, host (.memWrite 0x100 [1, 2, 3])), (.cxlMemHostWrite, host (.memWrite (2 ^ 51) [1])), (.cxlMemHostRead, host (.memRead 0x100 4)), (.watchedLineInvalidation, s)].all
      (fun e => goes e.1 e.2) = true ∧ State.reset.isHbm 0x102 = true ∧ State.reset.isHbm (2 ^ 51) = false ∧ s.isHost (2 ^ 51) = true ∧
    (match exec .watchedLineInvalidation s with | .next t => t.watches.map (·.hit) | _ => []) = [true] := by decide +kernel

/-- A die with a request for the first 8 KiB page. -/
def asking (pri : Bool) : State := { State.reset with dies := [(2, { Die.empty with reqs := [{ pasid := 0, page := 0, write := true, pri := pri, waiters := [], unit := false }] })] }

theorem meets_TranslationEvents :
    let full : State := { State.reset with dies := [(2, { Die.empty with invlog := [{ pasid := 0, va := 0, size := 4096, seq := 0, removed := false, ids := [], posted := [] }], tcache := [loadTrans] })] }
    [(Instr.atsInvalidationRequest 0 0 4096, State.reset), (.invalidationLogApply 2, full), (.atsTranslationCompletion 2 loadTrans false, asking false), (.atsTranslationCompletion 2 loadTrans true, asking false),
      (.pageResponse 2 loadTrans true, asking true), (.pageResponse 2 loadTrans false, asking true)].all (fun e => goes e.1 e.2) = true ∧
    (State.reset.die 5).invlog.length < 4096 ∧ ((full.die 2).invlog.any fun x => !x.removed) = true ∧ transFormed loadTrans = true ∧ ((asking false).die 2).reqs.all (fun r => r.within loadTrans && !r.pri) = true ∧
    ((asking true).die 2).reqs.all (fun r => r.within loadTrans && r.pri && r.met loadTrans) = true ∧ ((asking true).die 2).reqs.length = 1 := by decide +kernel

/-- Starts and doorbells that wait in line, a stopped device, and accesses of the management cores that the filter blocks. -/
theorem meets_ContextEvents_line :
    let live (f : Ctx → Ctx) (s : State) : State := let t := hub (ctxd 1 s); t.setCtx 0 (f (t.ctx 0))
    let mgmt (q : HostReq) : State := host q
    [(Instr.streamStart, wr 0x10040 0x30000 (live (fun c => { c with starts := [(0, 5)] }) ·)), (.streamStart, wr 0x10040 0x30000 (fun s => dev (fun d => { d with stopped := true }) (ctxd 1 s))),
      (.doorbell, wr 0x10200 5 (live (fun c => { c with evaddr := Vector.replicate 16 0x30000, bells := [(0x30000, 1)] }) ·)),
      (.erdropRead, mgmt (.mgmtRead .devicePage 0x10000 8)), (.registerWrite, mgmt (.mgmtWrite .devicePage 0x28 [1]))].all (fun e => goes e.1 e.2) = true ∧
    State.reset.mgmtPasses .devicePage 0x10000 8 false = false ∧ State.reset.mgmtPasses .devicePage 0x28 1 true = false ∧ State.reset.dev.mgmtRestart = false := by decide +kernel

/-- The first 60 bytes of a flit: a read request of one sector by device 9, sequence 4. -/
def readBytes60 : List Byte := bytesLE 4 (1 + 0xFF * 2 ^ 16) ++ bytesLE 56 (9 + 4 * 2 ^ 24 + 3 * 2 ^ 48 + 2 ^ 80 + 0x40 * 2 ^ 84)
/-- The flit, with its CRC-32C or with another. -/
def readFlit (ok : Bool) : Sector := sectorOfBytes (readBytes60 ++ bytesLE 4 (0xE27F96AD + if ok then 0 else 1))

/-- A request sent to device 9, with its port up or not. -/
def sentTo (op : BitVec 8) (id tries : Nat) (up : Bool) : State :=
  { (State.reset.load false []) with peers := [(9, { Peer.empty with ports := if up then 4 else 0, sent := [{ TSent.make op 0 id 0 (.group 1 0) with seq := 7, tries := tries, port := 2 }] })] }

theorem crc_readFlit : crc32c readBytes60 = 0xE27F96AD#32 := by
  have h : readBytes60 = (readBytes60.drop 0).take 12 ++ (readBytes60.drop 12).take 12 ++ (readBytes60.drop 24).take 12 ++ (readBytes60.drop 36).take 12 ++ (readBytes60.drop 48).take 12 := by decide +kernel
  rw [h]; unfold crc32c; simp only [List.foldl_append]
  rw [show List.foldl _ 0xFFFFFFFF#32 ((readBytes60.drop 0).take 12) = 0xD3C847B2#32 from by decide +kernel]
  rw [show List.foldl _ 0xD3C847B2#32 ((readBytes60.drop 12).take 12) = 0x1645F072#32 from by decide +kernel]
  rw [show List.foldl _ 0x1645F072#32 ((readBytes60.drop 24).take 12) = 0xCC1DD260#32 from by decide +kernel]
  rw [show List.foldl _ 0xCC1DD260#32 ((readBytes60.drop 36).take 12) = 0x86DA4E7D#32 from by decide +kernel]
  rw [show List.foldl _ 0x86DA4E7D#32 ((readBytes60.drop 48).take 12) = 0x1D806952#32 from by decide +kernel]
  decide +kernel

theorem meets_LinkEvents_flits : flitOk (readFlit true) = true ∧ flitOk (readFlit false) = false ∧ flitSeq (readFlit true) = (State.reset.ports.get 3).lack + 1 := by
  have h (ok : Bool) : (bytesOfSector (readFlit ok)).take 60 = readBytes60 := by cases ok <;> decide +kernel
  unfold flitOk; rw [h, h, crc_readFlit]; decide +kernel

theorem meets_LinkEvents :
    let s := State.reset
    let port (f : Port → Port) : State := { s with ports := s.ports.set 3 (f Port.reset) }
    let rx : State := port fun p => { p with rx := [readFlit true] }
    [(Instr.retrainEnd 3 true, port fun p => { p with retraining := true }),
      (.retrainEnd 3 false, port fun p => { p with retraining := true }), (.retrainEnd 3 false, port fun p => { p with retraining := true, failed := 1 }), (.lossOfSignal 3, s),
      (.tirsolResponseArrival 9 7 3 false [], sentTo opPosted 3 0 true), (.tirsolResponseArrival 9 7 0 true [], sentTo opPosted 3 0 true),
      (.tirsolResponseArrival 9 7 0 true (List.replicate 64 1), sentTo opRead codeId 0 true), (.tirsolResponseArrival 9 7 0 true (List.replicate 64 1), sentTo opRead 4 0 true), (.tirsolResponseArrival 9 7 0 true (List.replicate 64 1), sentTo opLaneAtomic 4 0 true),
      (.tirsolFlitReceive 3 (sectorOfBytes []), port fun p => { p with trained := true }),
      (.retransmitTimeout 9 7, sentTo opRead 3 4 true), (.retransmitTimeout 9 7, sentTo opRead 3 0 false), (.retransmitTimeout 9 7, sentTo opRead 3 3 true)].all (fun e => goes e.1 e.2) = true ∧
    (sentTo opRead 3 3 true).livePorts 9 = [2] ∧
    (sentTo opRead 3 0 false).livePorts 9 = [] ∧
    (match parseReq (rx.ports.get 3).rx with
      | some (q, rest) => goes (.tirsolRequestArrival 3 q) rx && goes (.tirsolRequestArrival 3 q) (dev (fun d => { d with devNum := some (q.dst + 1) }) rx) && rest.isEmpty && q.op == opRead && q.src == 9 && q.seq == 4 && !seqLe q.seq q.ackt
      | none => false) = true ∧ (rx.peer 9).window = [] := by decide +kernel

/-- Grid 2 beside the group's grid, with `cfg` fields added to those of grid 1; the hub translates. -/
def twoGrids (cfg : Nat) (f : Grid → Grid := id) (s : State := scal) : State := hub { s with grids := s.grids ++ [(2, f { loadGrid with cfg := loadGrid.cfg ||| BitVec.ofNat 64 cfg })], handles := 3 }
/-- Die 0 is full for a 4 × 3 cluster: core 0 by a team of the group's grid that takes every register, a core of every other block by a weight phase. -/
def crowded : State :=
  let s := twoGrids (2 ^ 40 + 3 * 2 ^ 32 + 2 * 2 ^ 34) fun g => { g with ranges := [(0, [(0, 1)])] }
  { s.setGrid 1 { loadGrid with cfg := BitVec.ofNat 64 (15 + 5 * 2 ^ 4) } with
      cores := s.cores ++ ((List.range 24).tail.map fun k => (coreAt 0 (4 * (k / 8)) (3 * (k % 8)), { Core.empty with wphase := some 9 })), time := 400000 }
/-- The first place for a team of grid 2. -/
def room (s : State) : Option Place := s.firstPlace 2 0

theorem meets_GridEvents_dependences :
    let at' (deps unmet : Nat) (v : Nat) : State :=
      { twoGrids 0 (fun g => { g with deps := [(0x30000, 1), (0x30008, 1)].take deps, unmet := List.range unmet }) with mem := writeLE [] 0x30000 8 v }
    [at' 1 1 1, at' 2 2 1, at' 1 1 0].all (fun s => goes (.dependenceCounterWrite 2 0) s && s.lookHub 0 0x30000 false != .miss) = true ∧
    (at' 1 1 1).depMet 0 (0x30000, 1) = true ∧ (at' 1 1 0).depMet 0 (0x30000, 1) = false ∧
    (let s := twoGrids 0 fun g => { g with ranges := [(1, [(0, 5)])], reported := [(1, 5)] }
     goes (.stealMessage 2 0 1) s = true ∧ s.rangesOf 2 0 = [] ∧ s.rangesOf 2 1 = [(0, 5)] ∧ (0 : Nat) ∈ s.liveDies ∧ (1 : Nat) ∈ s.liveDies ∧ KMap.get 0 (s.grid 2).reported 4 < KMap.get 0 (s.grid 2).reported 1) ∧
    goes .remainingCountReport scal = true ∧
    (let s := { at' 1 1 0 with deptab := [{ grid := 2, index := 0, pa := 0x30000, target := 1, met := true }] }; goes (.dependenceCounterWrite 2 0) s = true ∧ s.depReported 2 0 = true) := by decide +kernel

theorem meets_GridEvents_placement :
    let s := twoGrids 0 fun g => { g with ranges := [(0, [(0, 1)])] }
    (match room s with
      | some p => goes (.teamPlacement 2 0 [p]) s && (s.sites 2 0).contains [p.core] && s.placeFits 2 p && s.admits 2 [p.core] && s.firstInLine 2 0 && !s.savedReady 2
      | none => false) = true := by decide +kernel

theorem meets_GridEvents_preemption :
    let s := crowded
    let wait : State := { s with moment := 2 ^ 40, waits := [(16, [(0, 2 ^ 40)])] }
    [s, wait].all (fun s => s.hasWork 2 0 && s.noRoom 2 0 && s.admits 2 []) = true ∧ cfgPrio (s.grid 1).cfg < cfgPrio (s.grid 2).cfg ∧
    s.whenLeft.takeVictims 2 0 [] (s.victims 2 0) = some [1] ∧ s.victims 2 0 = [1] ∧ goes (.preemptionRequest 0 2) s = true ∧
    wait.swappable 1 = true ∧ wait.teams.all (fun e => e.2.grid != 2) = true ∧ goes (.teamSwap 1 2) wait = true := by decide +kernel

/-- The save area of context 0 in the loaded gigabyte. -/
def nearSave (s : State) : State := s.setCtx 0 { loadCtx with save := 0 }

theorem meets_GridEvents_saving :
    let halt := nearSave (scal.updCore 0 fun c => { c with haltReq := [1] })
    let save := nearSave (((scal.setTeam 1 { scal.team 1 with life := .saving, accMap := [] }).setGrid 1 { loadGrid with cfg := 0 }).updCore 0 fun c => { c with tlb := [{ loadTrans with bits := 33 }] })
    let saved := nearSave ((scal.setTeam 1 { scal.team 1 with life := .saved, image := some Core.empty }).updCore 5 fun c => { c with tlb := [loadTrans] })
    let back := nearSave (scal.setTeam 1 { scal.team 1 with dirState := 4 })
    let slot := (save.team 1).saveSlot
    let p : Place := { core := 5, slots := [3], scr := 524288, acc := [2] }
    let refused := twoGrids 0 fun g => { g with refused := true, stat := 0x38000, ccnt := 0x34000 }
    (halt.clusterRuns 1 = [1] ∧ halt.leaving 1 = true ∧ (halt.freeSlots 0).length = 1024 ∧ (halt.freeSlots 0).head? = some 0 ∧ halt.savePage 0 0 [(0, 64)] = none) ∧ goes (.teamHalt 1) halt = true ∧ halt.msgs = [] ∧
    (save.core 0).cbuf = [] ∧ save.peerOwes 1 = false ∧
    save.savePage 0 0 ((64 * slot, 64) :: ((save.slotBytes 1 (save.imageOf 1)).map fun e => (slotBase slot + e.1, e.2.length)) ++
      (slotOpen (save.grid 1).ngrp).map fun e => (slotBase slot + e.1, e.2)) = none ∧
    saved.clusterReady 1 = true ∧ saved.teamsOf 1 = [1] ∧ saved.firstInLine 1 0 = true ∧ saved.resumePlaces 1 p = some ([(1, p)], false) ∧ saved.admits 1 [5] = true ∧
    back.savePage (back.team 1).core (back.pasidOf (.group 1 0)) [((back.ctx 0).save.toNat + 64 * (back.team 1).saveSlot, 64)] = none ∧ saved.savePage 5 (saved.pasidOf (.group 1 0)) [((saved.ctx 0).save.toNat + 64 * (saved.team 1).saveSlot, 64)] = none ∧ (back.team 1).life = .running ∧ goes (.teamResume 1 p) back = true ∧
    goes (.gridEnd 2) refused = true ∧ refused.gridBusy 2 = false ∧ (refused.grid 2).statDone = false ∧
    refused.hubLook 0 0x38000 true = .here 0x38000 ∧ refused.hubLook 0 0x34000 true = .here 0x34000 := by decide +kernel

theorem meets_GroupEvents :
    let spool := grpd fun g => { g with spool := [loadEntry] }
    let trap := { lane with teams := lane.teams }.updCur fun g => { g with trapq := [{ loadEntry with trap := true, len := 5 }] }
    let w (hit : Bool) : Watch := { home := scal.homeOf 0x10100, party := .group 1 0, pa := 0x10100, target := 1, hit := hit }
    let wake := { grpd fun g => { g with wait := .susp 0x10100 1 0x10040 true } with watches := [w true] }
    let poll (t : DWord) : State := grpd fun g => { g with wait := .susp 0x10100 t 0x10040 false }
    let sleeping := grpd fun g => { g with wait := .sleep 0 }
    let demoted := { grpd fun g => { g with demoteEnd := 1 } with time := 5 }
    goes (.spoolEntryStart 1 0) spool = true ∧ spool.cur.block = none ∧ spool.cur.laneStopped = false ∧ spool.cur.headLate = false ∧ goes (.spoolEntryStart 1 0) trap = true ∧ (trap.cur.block.map (·.entry.trap)) = some false ∧ trap.cur.pairOpen 0 = false ∧ trap.cur.pairOpen 1 = false ∧
    loadEntry.mask &&& trap.cur.live ≠ 0 ∧ goes (.watchEntryWake (.group 1 0)) wake = true ∧ wake.watches.all (·.hit) = true ∧
    [poll 0, poll 5].all (fun s => goes (.suspPoll (.group 1 0)) s) = true ∧ scal.look (scal.coreOf scal.who) (scal.pasidOf scal.who) 0x10100 false = .here 0x10100 ∧
    goes (.sleepuWake (.group 1 0)) sleeping = true ∧ sleeping.covered (.group 1 0) (sleeping.cyc (.group 1 0)) = [] ∧
    goes (.demotionEnd (.group 1 0)) demoted = true ∧ demoted.runs (.group 1 0) = true := by decide +kernel

/-- A message of the group to its own core-in-cluster number, tag 7. -/
def message (status : Option Nat) (multi : Bool := false) : Msg := { team := 1, gid := 0, id := 3, cc := 0, data := [1, 2, 3, 4], tag := 7, status := status, multi := multi }
/-- A result on its way to the group. -/
def coming (d : Dest) (words : List (Vector LaneVal 32) := []) : Outst :=
  { id := 3, dest := d, lane := false, lanes := 0xFFFF, sval := 9, sval2 := 0, words := words, check := none, inh := false, origin := Origin.scalar, pc := 0x10000, poison := none, rmt := none, fault := none, pred := none, free := 0 }

theorem meets_MessageEvents :
    let m := message none
    let s : State := { scal with msgs := [m] }
    let p : Posted := ⟨1, 15, 7, 0x80, 0x10⟩
    let full := boxes [] ((List.range 128).map fun k => ⟨k, 1, 4, 0, false, 9⟩) s
    let gone := s.setTeam 1 { s.team 1 with life := .ended }
    let answer (multi : Bool) (k : Nat) : State := { grpd fun g => { g with outst := [coming (.sreg 5)] } with msgs := [message (some k) multi] }
    let raise := grpd fun g => { g with ovfq := [0x70000], tvec := 0x20000 }
    [s, boxes [p] [] s, full, gone].all (goes (.messageArrival 0)) = true ∧ [answer false 0, answer true 1].all (goes (.sendStatusArrival 0)) = true ∧ goes (.ovfqRaise 1) raise = true ∧
    (s.team 1).cluster[0]? = some 1 ∧ (p.src = 15 ∧ p.tag = m.tag ∧ p.team = 1) ∧ (s.core 0).freePlace = some 0 ∧ (full.core 0).freePlace = none ∧ (full.core 0).posted = [] ∧
    (s.team 1).liveGroups = [0] ∧ (gone.team 1).life = .ended ∧ (answer false 0).cur.outst.map (·.id) = [3] ∧ (raise.team 1).liveGroups = [0] ∧ raise.runs (.group 1 0) = true ∧
    raise.cur.inh = false ∧ raise.cur.rdv = none ∧ raise.cur.vec ≠ 0 := by decide +kernel

theorem meets_MemoryEvents :
    let e : CbEntry := { pasid := 0, va := 0x10000 / 64, pa := 0x10000 / 64, peer := none, store := secStore 0 8 5 0, by_ := [.group 1 0] }
    let q : MemReq := { scalarReq (.group 1 0) (.atomic 0 true) 8 0x10100 with id := 3, pa := Vector.replicate 32 0x10100, x := 5 }
    let l : MemReq := { scalarReq (.group 1 0) .load 8 0x10100 with id := 3 }
    let due (o : Outst) : State := grpd fun g => { g with outst := [o] }
    let probe : State := { (scal.updCore 7 fun c => { c with cbuf := [e] }) with probes := [(7, l)] }
    goes (.coalescingBufferDrain 0 0) (scal.updCore 0 fun c => { c with cbuf := [e] }) = true ∧ q.atomOp = some (0, true) ∧ (∀ n < 32, q.peerOf n = none) ∧
    goes (.atomicAtHome 0) { scal with atoms := [q] } = true ∧ goes (.memoryResponseArrival (.group 1 0) 0) (due (coming (.sreg 5))) = true ∧
    goes (.memoryResponseArrival (.group 1 0) 0) (due (coming (.vec 4) [Vector.replicate 32 LaneVal.zero])) = true ∧ scal.runs (.group 1 0) = true ∧
    (due (coming (.sreg 5))).pendingId (.group 1 0) 3 = false ∧ (due (coming (.sreg 5))).lateTrap (.group 1 0) (coming (.sreg 5)) = none ∧
    (due (coming (.vec 4) [Vector.replicate 32 LaneVal.zero])).lateTrap (.group 1 0) (coming (.vec 4) [Vector.replicate 32 LaneVal.zero]) = none ∧
    goes (.sacqpProbe 0) probe = true ∧ probe.missLanes l = 0 ∧ (probe.core 7).olog = [] ∧
    (let u := { probe with who := l.party }.drainAll 7 (probe.core 7).cbuf
     (u.core 7).cbuf = [] ∧ u.postedFrom 7 (fun _ => true) = false ∧ ∀ j < 32, ({ u with probes := [] } : State).lookLane l j ≠ .bad) ∧
    (let far : CbEntry := { e with va := 5, pa := 3, peer := some 9 }
     let s := { probe.updCore 7 (fun c => { c with cbuf := [e, far] }) with peers := [(9, { Peer.empty with ports := 4, sent := [TSent.make opRead 192 4 0 (.group 1 0)] })] }
     goes (.sacqpProbe 0) s = true ∧ ((({ s with who := l.party }.drainAll 7 (s.core 7).cbuf).core 7).cbuf.length) = 1) := by decide +kernel

/-- A copy of 128 bytes of memory from 0x20000 in core 0's queue, at a position. -/
def packets (pos : Nat) (sadr : Int := 0x20000) : State :=
  (copier 0 0).updCore 0 fun c => { c with copies := [{ (copier 0 (2 ^ 60)).copyOf .copy 10 false [] with id := 3, team := 1, sadr := sadr, xlen := 128, pos := pos, ev := none }] }
/-- A walk of die 0's walker. -/
def walk (queue : List DWord) (scan : Option (DWord × Nat × Nat)) (stamped failed : Bool) (rst : DWord) : State :=
  { scal with dies := [(0, { Die.empty with tcache := [loadTrans], walks := [{ seq := 1, party := .group 1 0, id := 3, pasid := 0, sigma := 2, root := 0x20000, rst := rst, ver := 0, queue := queue, scan := scan, n := 0, deps := [], stamped := stamped, failed := failed, rooted := false, rootAt := none }] })] }

theorem meets_EngineEvents :
    let p : Party := .group 1 0
    let s := packets 0
    let c := ((s.core 0).copies.headD ((copier 0 0).copyOf .copy 10 false []))
    let refresh := { scal with time := 1540 }
    let done := { scal.updCore 0 (fun c => { c with rfshEnd := some 7 }) with time := 7 }
    let walks := [walk [0x20000] none false false 0, walk [] (some (0x20000, 2, 1)) false false 0, walk [] none false true 0, walk [] none true false 0, walk [] none true false 0x30000]
    goes (.copyPacket 0 0) s = true ∧ s.copyRuns c = true ∧ c.pos < c.total ∧
    (match { s with who := p }.packetRead p c (c.srcAt c.pos) c.packetLen with | .ok u l => (match u.packetWrite p c (c.dstAt c.pos) l with | .ok _ _ => true | _ => false) | _ => false) = true ∧
    (let t := packets 0 (2 ^ 40); let c := ((t.core 0).copies.headD c)
     let t := t.updCore 0 fun c => { c with tlb := [{ loadTrans with va := 2 ^ 40, pa := 2 ^ 48 }] }
     goes (.copyPacket 0 0) t && (match { t with who := p }.packetRead p c (c.srcAt c.pos) c.packetLen with | .stop _ _ => true | _ => false)) = true ∧
    goes (.copyCompletion 0 0) (packets 128) = true ∧ goes (.copyCompletion 0 0) ((packets 128).updCore 0 fun c => { c with copies := c.copies.map fun y => { y with failed := some (0x1A, 9) } }) = true ∧ refresh.refreshDue 0 3 = true ∧ goes (.automaticRefresh 0 3) refresh = true ∧
    goes (.rfshComplete 0) done = true ∧ (walks.take 2).all (goes (.reachWalkStep 0 0)) = true ∧ (walks.drop 2).all (goes (.reachWalkEnd 0 0)) = true ∧
    (walk [] none true false 0x30000).lookWalker 0 0 0x30000 true = .here 0x30000 ∧
    (let s := walk [] none true false 0
     let t := { s with dies := s.dies.map fun e => (e.1, { e.2 with walks := e.2.walks.map fun x => { x with sigma := 4, ver := 0x34000 } }) }
     goes (.reachWalkEnd 0 0) t = true ∧ t.lookWalker 0 0 0x34000 true = .here 0x34000) := by decide +kernel

/-- A command at the head of core 0's sequencer. -/
def sequenced (kind : SeqKind) (f : SeqCmd → SeqCmd := id) (s : State := matrix) : State := s.updCore 0 fun c => { c with seq := [f (s.seqCmd 1 0 kind)] }

theorem meets_SequencerEvents :
    let p := matrix.loopOf 10
    let o := (regs [(10, BitVec.ofNat 64 (7 * 2 ^ 4 + 7 * 2 ^ 10)), (11, 0x20000), (12, 256)] matrix).moutOf 10
    let run := sequenced (.loop p) fun q => { q with started := true }
    let q := (matrix.seqCmd 1 0 (.loop p))
    let cb := grpd (fun g => { g with fmt := BitVec.ofNat 32 (2 * 2 ^ 16 + 14 * 2 ^ 20) }) matrix
    let tab := sequenced (.loop { p with tbl := 0x40000 }) (fun q => { q with started := true }) cb
    let t := { matrix.seqCmd 1 0 (.loop p) with started := true, fmt := (cb.seqCmd 1 0 .zero).fmt }
    let token := matrix.setTeam 1 { matrix.team 1 with gangToken := some (0, ⟨[], []⟩) }
    let gang : Gang := { team := 1, gid := 0, slot := 0, members := [1], pending := [], evoff := 0, faults := [] }
    [sequenced .zero, sequenced (.mout o), sequenced (.loop p), sequenced (.loop { p with cmask := 1 }) id (grpd (fun g => { g with ready := some ⟨[], []⟩ }) matrix)].all
      (fun s => goes (.sequencerCommandStart 0) s && ((s.core 0).headCmd.map fun q => s.cmdRuns q && !q.started) == some true) = true ∧ p.cmask = 0 ∧
    ((run.core 0).headCmd.map fun q => (q.started, q.params, q.bankStall)) = some (true, some p, none) ∧ fmtMB q.fmt ≠ 14 ∧ q.units p 0 = [] ∧
    (match { run with who := .group 1 0 }.streamRead (.group 1 0) 0 (q.sectors p 0) with | .ok _ _ => true | _ => false) = true ∧
    fmtMB t.fmt = 14 ∧ t.nextTable p = some 0 ∧ goes (.cb3TableArrival 0) tab = true ∧ ((tab.core 0).headCmd.map fun q => (fmtMB q.fmt, q.tableStall)) = some (14, none) ∧
    goes (.gangShareStart 0) (sequenced (.share 5 p) id token) = true ∧ (token.core 0).wphase = none ∧ goes (.gangCompletion 5) { matrix with gangs := [(5, gang)] } = true ∧
    goes (.moutAonRetry 0) (sequenced (.mout { o with aon := true }) (fun q => { q with started := true })) = true ∧
    (((sequenced (.mout { o with aon := true }) (fun q => { q with started := true })).core 0).mouts true).length = 1 := by decide +kernel

/-- A K-step, its stalls at a busy bank of the weight store and at a late table, and the ready tokens of a loop that waits for two groups. -/
theorem meets_SequencerEvents_steps :
    let p := matrix.loopOf 10
    let hit (stall : Option (Nat × Nat)) (q : SeqCmd) : SeqCmd := { q with started := true, hit := some (BitVec.ofNat 64 (5 + 2 ^ 12 + 8 * 2 ^ 16 + 2 ^ 32 + 10 * 2 ^ 60)), bankStall := stall }
    let at' (stall : Option (Nat × Nat)) (e : Option DWord) (time : Nat) : State :=
      { (sequenced (.loop p) (hit stall)).updCore 0 (fun c => { c with rfshEnd := e, wphase := some 1 }) with time := time }
    let units (s : State) : List Nat := match (s.core 0).headCmd with | some q => q.units p q.step | none => []
    let busy (s : State) : Bool := (units s).any fun u => s.bankBusy 0 (u % 6144 % 16)
    let cb := grpd (fun g => { g with fmt := BitVec.ofNat 32 (2 * 2 ^ 16 + 14 * 2 ^ 20) }) matrix
    let tab (stall : Option Nat) : State := sequenced (.loop { p with tbl := 0x40000 }) (fun q => { q with started := true, tableStall := stall }) cb
    let two := sequenced (.loop { p with cmask := 3 }) id (grpd (fun g => { g with ready := some ⟨[], []⟩ }) matrix)
    p.m ≤ 64 ∧ p.n ≤ 64 ∧ goes (.kStep 0) (sequenced (.loop p) fun q => { q with started := true }) = true ∧
    busy (at' none (some 1536) 0) = true ∧ goes (.kStep 0) (at' none (some 1536) 0) = true ∧ busy (at' (some (0, 1536)) (some 1536) 0) = true ∧
    busy (at' (some (0, 10)) none 100000) = false ∧ ((at' (some (0, 10)) none 100000).core 0).wrsched.toNat ≤ 10 + 65536 ∧ goes (.kStep 0) (at' (some (0, 10)) none 100000) = true ∧
    goes (.kStep 0) (tab none) = true ∧ units (tab none) = [] ∧ goes (.cb3TableArrival 0) (tab (some 0)) = true ∧
    goes (.sequencerCommandStart 0) two = true ∧ (match exec (.sequencerCommandStart 0) two with | .next t => (t.core 0).headCmd.map fun q => q.snaps.length | _ => none) = some 1 := by decide +kernel

/-- SADD s5, s6, s7 where the next step fetches it. -/
def fetched : State := State.reset.withFetchWord 32 (0b000000_000101_000110_000111_00000000#32).toNat
/-- Bytes of memory as the sector of a virtual sector number that maps to itself. -/
def seen (s : State) (n : Nat) : Sector := readSector s.mem n

theorem meets_StepRunsWhatIsNext :
    let s := fetched
    let p : Party := .group 1 0
    let held := grpd (fun g => { g with sfetch := some (0x10000 / 64, seen fetched (0x10000 / 64), 0) }) { fetched with who := p }
    { s with agenda := [.conventionalReset] }.agenda = [.conventionalReset] ∧ s.agenda = [] ∧ s.dev.starting = false ∧ s.nextTurn = some (p, false, 0) ∧ (s.grp p).trapDue = false ∧
    (s.grp p).ovfqDue = false ∧ (s.grp p).wakeAt = none ∧ (s.grp p).wait = .none ∧ held.nextTurn = some (p, false, 0) ∧
    ((held.grp p).sfetch.map fun e => (e.1, decodeBytes false ((List.range 4).map fun k => e.2.1.byte (0 + k)))) = some ((held.grp p).pc.toNat / 64, .ok (.sadd 5 6 7)) ∧
    (s.grp p).sfetch = none ∧ (s.core 0).icS = [] ∧ s.look 0 0 0x10000 false = .here 0x10000 ∧ (s.grp p).pc.toNat % 4 = 0 ∧ decodeBytes false (readBytes s.mem 0x10000 4) = .ok (.sadd 5 6 7) := by decide +kernel

theorem meets_StepRunsWhatIsNext_lane :
    let p : Party := .group 1 0
    let s0 := State.reset.withFetchWord 96 0xEE2
    let s := ({ s0 with who := p } : State).updCur fun g => { g with block := g.block.map fun b => { b with entry := { b.entry with code := [(0x10000 / 64, seen s0 (0x10000 / 64))] } } }
    s.agenda = [] ∧ s.nextTurn = some (p, true, 0) ∧ (s.grp p).startDue = false ∧ (s.grp p).laneTraps = [] ∧
    ((s.grp p).block.bind fun b => (b.rec? 0).map (·.jumped)) = some false ∧
    ((s.grp p).block.map fun b => (b.posOf 0, (b.rec? 0).map (·.pc), (codeSectors (b.entry.blk.toNat + 12) 24).all (fun n => b.entry.code.any (fun e => e.1 == n)),
      match (codeBytes b.entry.code (b.entry.blk.toNat + 12) 12).map (decodeBytes true) with | some (.ok (.lend _)) => true | _ => false)) = some (some 0, some 1, true, true) := by decide +kernel

theorem meets_EncodeDecode : (let w : BitVec 96 := encodeLane (.iadd (word 1 2 0))
    WellFormed (.sadd 5 6 7) ∧ sideOf (.sadd 5 6 7) = .scalar ∧ WellFormed (.iadd (word 1 2 0)) ∧ sideOf (.iadd (word 1 2 0)) = .lane ∧
    decodeScalar 0b000000_000101_000110_000111_00000000#32 = .ok (.sadd 5 6 7) ∧ decodeLane w = .ok (.iadd (word 1 2 0))) := by unfold WellFormed; decide +kernel

theorem meets_ScalarFrame :
    let s := regs [(5, 7), (6, 0x10100)]
    ready [(.sld 5 6 3 2, [6], [5]), (.sst 5 6 3 1, [5, 6], [])] s = true ∧ s.requestReady (loadReq s 6 3 2 none) none = true ∧ s.requestReady (storeReq s 5 6 3 1) none = true ∧
    s.coreOf s.who < Config.coreCount ∧ s.look (s.coreOf s.who) (s.pasidOf s.who) (smEa s 6 3 1).toNat true = .here 0x10108 := by decide +kernel

theorem meets_IllegalInstructionsTrap :
    let bare : State := scal.updCur id
    let none' := { scal with dev := { scal.dev with accepted := 0 } }
    let nolane := { lane with dev := { lane.dev with accepted := 0 } };
    (strm.who.isStream && streamIllegal .bar) = true ∧ (bare.who.isStream && streamIllegal .bar) = false ∧ featureMissing (.regather 1) none' = true ∧ featureMissing .bar bare = false ∧ bare.illopNow .rft = true ∧
    fieldsOk (.csrr 5 0xFFF) = false ∧ sideOf .bar = .scalar ∧
    (match laneRunOf (.iadd (word 1 2 0)) lane with
      | some x => !laneFits (.iadd (word 1 2 0)) x.r x.w lane.cur x.b.entry.dmask x.q.fmt | none => false) = true ∧
    (match laneRunOf (.tlda (word 1 2 0)) nolane with | some _ => featureMissing (.tlda (word 1 2 0)) nolane | none => false) = true := by decide +kernel

theorem meets_StepKeepsMemory : State.reset.memWf = true ∧ (match step fetched with | .next _ => true | _ => false) = true ∧ fetched.memWf = true := by decide +kernel

/-! ### Decoding: words written out from the encoding tables -/

/-- Scalar words decode to their instructions (Tables 12-5 to 12-8, 16-1). -/
def reads (l : List (BitVec 32 × Instr)) : Bool := l.all fun e => decodeScalar e.1 == .ok e.2

/-- Table 13-6 and the example of 12 R277, word for word. -/
theorem decodes_examples : reads [(0x04603FFF, .saddi 6 0 (-1)), (0x28800002, .slui 8 2), (0x00310513, .sdiv 3 4 5), (0x403127FD, .sbr 4 3 4 (-3)), (0x7072B801, .sstl 7 10 3 2 1),
    (0x74414696, .satom 4 5 6 9 1 2), (0x78000016, .sfence 2 true 2), (0x80004600, .lrun 1 6), (0x900003E8, .pause 1000), (0x94824001, .susp 8 9 1), (0x60416004, .sld 4 5 2 4)] = true := by decide

theorem decodes_scalar : reads [(0b000000_000001_000010_000011_00010110#32, .sremu 1 2 3), (0b000111_000001_000010_00000000_111111#32, .ssrai 1 2 63),
    (0b001011_000001_11111111111111111111#32, .saddpc 1 (-1)), (0b010010_00000000000000000000000011#32, .sjl 3), (0b010011_000001_000010_000000_00000000#32, .sjr 1 2),
    (0b011001_000001_000010_01_00_1111111111#32, .slds 1 2 1 (-1)), (0b011010_000001_000010_00_00_0000000001#32, .sst 1 2 0 1), (0b011011_000001_000010_11_01_0000000001#32, .slda 1 2 3 1 1),
    (0b011111_000001_000010_000011_00000001#32, .sacqp 1 2 3 1), (0b100001_000000_000000_000000_00000000#32, .ldrain), (0b100010_000000_000010_000000_00000000#32, .setfmt 2),
    (0b100011_000000_000010_000000_00000000#32, .setalw 2), (0b100110_000000_000010_000000_00000000#32, .sleepu 2)] = true := by decide

theorem decodes_commands : reads [(0b101000_000000_000000_000000_00000000#32, .bar), (0b101001_000000_000000_000000_00000001#32, .cbarL), (0b101010_000000_000000_000000_01101111#32, .regather 111),
    (0b101011_000001_000000_000000_00000000#32, .elect 1), (0b101100_000001_000010_000000_00000000#32, .send 1 2), (0b101101_000001_000010_000011_00000000#32, .sendm 1 2 3),
    (0b101110_000001_000010_000000_00000000#32, .recv 1 2), (0b101111_000001_000010_000000_00000001#32, .rcancel 1 2), (0b110000_000001_000010_000000_00010000#32, .copy 1 2 true),
    (0b110001_000001_000010_000011_00100000#32, .copym 1 2 3 false true), (0b110010_000000_000010_000000_00010000#32, .cwait 2 true), (0b110011_000000_000010_000000_00000000#32, .mloop 2),
    (0b110100_000000_000010_000011_00000000#32, .mgang 2 3), (0b110101_000000_000000_000000_00010000#32, .mreadyGang), (0b110110_000000_000000_001111_00000000#32, .mwait 15),
    (0b110110_000000_000000_000000_00010000#32, .mwaitAll), (0b110111_000000_000000_000001_00000000#32, .mzero 1), (0b111000_000000_000010_000000_00000000#32, .mout 2),
    (0b111001_000000_000010_000000_00000000#32, .mldc 2)] = true := by decide

theorem decodes_system : reads [(0b111010_000001_000010_000000_00000000#32, .wload 1 2), (0b111010_000000_000010_000011_00000001#32, .wdir 2 3), (0b111010_000000_000000_000000_00000010#32, .rfsh),
    (0b111011_000010_000011_000000_00000000#32, .ecrd 2 3), (0b111011_000000_000011_000000_00000001#32, .ecclr 3), (0b111100_000001_000010_000000_00000000#32, .pub 1 2),
    (0b111100_000000_000010_000000_00000001#32, .mkobj 2), (0b111100_000000_000010_000000_01010010#32, .stref 2 true 2), (0b111100_000001_000010_000000_00000011#32, .ldhdr 1 2),
    (0b111101_000000_000010_000000_00000000#32, .launch 2), (0b111101_000001_000010_000000_00000001#32, .join 1 2), (0b111110_000000_000000_000000_00000010#32, .rft),
    (0b111110_000001_000000_010010_00000100#32, .csrw 1 0x012), (0b111110_000000_000010_000011_00000101#32, .cwb 2 3), (0b111110_000010_000001_000011_00000110#32, .icinv 2 1 3),
    (0b111110_000000_000000_000000_00001000#32, .gend)] = true := by decide

/-- Opcodes and function codes that the maps leave unassigned (R276), and fields that must be zero or are out of range (R275, R276, R360). -/
theorem decodes_illegal : [0b001100_00000000000000000000000000#32, 0b111111_00000000000000000000000000#32, 0b000000_000000_000000_000000_00001111#32, 0b111110_000000_000000_000000_00001001#32].all
      (fun w => match decodeScalar w with | .ok (.unassignedOpcode false _) => true | _ => false) = true ∧
    [0b010000_000001_000010_111_00000000000#32, 0b100100_000000_00000100000000000000#32, 0b110110_000000_000000_010000_00000000#32, 0b110011_000000_111011_000000_00000000#32,
      0b101000_000000_000000_000001_00000000#32, 0b011000_000001_000010_11_01_0000000000#32].all (fun w => match decodeScalar w with | .illField _ => true | _ => false) = true := by decide

/-- A lane word of the fields of Table 12-9, from bit 95 down. -/
def laneBits (c b a : BitVec 21) (rnd nar scale : BitVec 3) (clamp : BitVec 2) (dst : BitVec 7) (gsel : BitVec 2) (pneg : BitVec 1) (pred : BitVec 3) (p : BitVec 1) (op : BitVec 8) : BitVec 96 :=
  c ++ b ++ a ++ rnd ++ nar ++ scale ++ clamp ++ dst ++ gsel ++ pneg ++ pred ++ p ++ op

/-- The word of Table 12-16, `(!p2) ffma.g1.sat.p v12^-1, -v3.e1, v2~bfly(4), v7!`, and that of Table 15-2, a release store. -/
theorem decodes_lane_examples :
    decodeLane 0x001039180080090607463503 = .ok (.ffma { pair := true, pred := 2, pneg := true, gsel := 1, dst := 12, clamp := 1, scale := 7, nar := 0, rnd := 0, a := ⟨3, true, false, false, 1, 0, 0⟩, b := ⟨2, false, false, false, 0, 3, 4⟩, c := ⟨7, false, false, true, 0, 0, 0⟩ }) ∧
    decodeBytes true [0xC2, 0x0E, 0x00, 0x06, 0x0A, 0x00, 0x40, 0x02, 0x00, 0x10, 0x21, 0x80] = .ok (.vst { pair := false, pred := 7, pneg := false, gsel := 0, dst := 0, clamp := 0, scale := 6, nar := 0, rnd := 0, a := src 5, b := src 9, c := src 0x100422 }) := by decide +kernel

/-- A word of each class: bits domain, integer, comparison, special function, quantising, collective, bound, residue, branch, and a header (Table 12-14). -/
theorem decodes_lane :
    [(laneBits 4 2 1 0 0 0 0 3 0 0 7 0 0x5C, Instr.prmt (word 1 2 4)), (laneBits 4 2 1 0 0 0 0 3 0 0 7 0 0x45, .imad (word 1 2 4)), (laneBits 0 2 1 5 0 0 0 3 0 0 7 0 0x06, .fcmp (word 1 2 0 5)),
      (laneBits 0 0 1 0 0 0 0 3 0 0 7 0 0x84, .fexp2 (word 1 0 0)), (laneBits 0 0 1 0 0 0 0 3 0 0 7 0 0x93, .qblk (word 1 0 0)), (laneBits 16 0 1 0 0 0 0 3 0 0 7 0 0xA3, .vscan (word 1 0 16)),
      (laneBits 0 2 1 0 0 0 0 3 0 0 7 0 0xB1, .setb (word 1 2 0)), (laneBits 0 0 1 0 0 0 0 3 0 0 7 0 0xB9, .efget (word 1 0 0)), (laneBits 5 1 0 0 0 0 0 3 0 0 7 0 0x1F, .movi (word 0 1 5)),
      (laneBits 6 4 0 0 0 0 0 0 0 0 1 0 0xE0, .lbr (branch 4 6 1)), (laneBits 0 0 0 0 0 0 0 0 0 0 7 0 0xE5, .lnop (word 0 0 0 0 0))].all (fun e => decodeLane e.1 == .ok e.2) = true ∧
    decodeLane (laneBits 0 0 0 0 0 0 0 0 0 0 0 0 0xEF) = .ok (.unassignedOpcode true 0xEF) ∧ decodeLane (laneBits 0 0 1 0 0 0 0 3 0 1 7 0 0x84) = .illField (.fexp2 { word 1 0 0 with pneg := true }) := by
  decide +kernel

/-! ### Ill-formed terms: one for each check -/

theorem illformed_lane : [Instr.fadd { word 1 2 0 with pneg := true }, .fadd (word 1 2 3), .fadd (word (1 + 7 * 2 ^ 13) 2 0), .fadd (word (112 + 2 ^ 10) 2 0), .vand (word (1 + 2 ^ 7) 2 0),
    .vsel (word 1 2 8), .fcmp (word 1 2 0 0 7), .vst (word 1 2 (mfield 0 0 0 4)), .fadd (word 1 2 0 6), .frnd (word 1 0 0 5), .iadd { word 1 2 0 with clamp := 2 }, .cvtfi { word 1 0 0 with scale := 1 },
    .qblk { word 1 0 0 with gsel := 1 }, .vand { word 1 2 0 with nar := 1 }, .icmp (word 1 2 0 6 0), .lut (word 1 2 4 4), .vmatch (word 1 0 0 3), .fdot2 (word (1 + 2 ^ 10) 2 4), .fdot4 (word (1 + 2 ^ 10) 2 4),
    .faddi (word 1 0 0x10000), .ishli (word 1 0 32), .movi (word 0 0x800 5), .pmovToWord (word 1 0 0 1), .vote (word 1 0 0 0 7), .lid (word 0 0 0 5), .vreduce (word 1 0 16), .vscan (word 1 0 11),
    .pleat (word 0 0 2 0 0), .efclr (word 0 0 0 0 8), .efget (word 8 0 0), .vld (word 1 0 (mfield 1 0 0 4)), .vld (word 1 0 (mfield 0 0 0 7)), .vld (word 1 0 (mfield 0 0 0 5)), .ldx (word 1 0 (mfield 0 0 0 4)),
    .vst (word 1 2 (mfield 0 0 0 1) 0 0), .vst { word 1 2 (mfield 0 0 0 4) 0 0 with scale := 1 }, .atom (word 1 2 (mfield 0 0 0 5)), .atom { word 1 2 (mfield 0 0 0 4) with rnd := 3, nar := 3 },
    .lbr { branch 0 2 0 with gsel := 1 }, .ljmp (branch 2 0 3), .lend (word 0 0 0 0 0 |> off), .lfmt (word 5 0 0 0 0)].all (fun i => fieldsOk i == false) = true := by decide +kernel

theorem illformed_scalar : [Instr.sbr 7 1 2 0, .satom 1 2 4 13 0 0, .satom 1 2 3 9 0 0, .satom 1 2 62 9 0 0, .sfence 3 false 0, .sacqp 1 2 3 0, .pause 16384, .regather 112, .recv 1 63, .copy 1 60 false,
    .copy 1 59 true, .copym 1 60 3 false false, .cwait 1 false, .mloop 59, .mgang 58 1, .mwait 16, .mzero 16, .mout 62, .wload 1 62, .ecrd 3 1, .pub 1 61, .mkobj 63, .stref 62 true 0, .stref 1 false 1, .join 1 62,
    .csrr 1 0x007, .csrw 1 0x040, .icinv 3 1 2, .unassignedOpcode false 0x10, .unassignedOpcode true 0x00].all (fun i => fieldsOk i == false) = true := by decide +kernel

/-! ### Single steps with the values of the spec's own examples -/

/-- The executing group after an instruction. -/
def after' (i : Instr) (s : State) : Group := match exec i s with | .next t => t.cur | _ => Group.empty
/-- A vector register: values with bounds from slot 0, zeros after them. -/
def slots (l : List (Nat × Nat)) : VReg :=
  { full := true, lanes := Vector.ofFn fun i => ⟨BitVec.ofNat 32 (l.getD i.val (0, 0)).1, BitVec.ofNat 16 (l.getD i.val (0, 0)).2⟩ }
/-- Slots of a register read back: value and bound. -/
def shown (g : Group) (r : Nat) (l : List Nat) : List (Nat × Nat) := l.map fun n => ((g.lane r n).val.toNat, (g.lane r n).bnd.toNat)
def exact' (l : List Nat) : VReg := slots (l.map (·, 0))

/-- 13 R293 to R295: a wrap, signed comparison, the high product, a count of zeros of zero. -/
theorem value_scalar :
    let s := regs [(6, 0xFFFFFFFFFFFFFFFF), (7, 2), (8, 0x8000000000000000)]
    (after' (.sadd 5 6 7) s).sreg 5 = 1 ∧ (after' (.sslt 5 6 7) s).sreg 5 = 1 ∧ (after' (.ssltu 5 6 7) s).sreg 5 = 0 ∧ (after' (.smulhu 5 6 7) s).sreg 5 = 1 ∧
    (after' (.smulh 5 6 7) s).sreg 5 = 0xFFFFFFFFFFFFFFFF ∧ (after' (.sclz 5 0) s).sreg 5 = 64 ∧ (after' (.ssra 5 8 7) s).sreg 5 = 0xE000000000000000 ∧ (after' (.slui 5 0xFFFFF) s).sreg 5 = 0xFFFFFFFFFFFFC000 ∧
    (after' (.sltiu 5 7 (-1)) s).sreg 5 = 1 ∧ (after' (.sxori 5 7 0x3FFF) s).sreg 5 = 0x3FFD ∧ (after' (.sadd 0 6 7) s).sreg 0 = 0 ∧ (after' (.sadd 5 6 7) s).pc = 0x10004 := by decide +kernel

/-- 13 R294: quotients truncate toward zero; the one overflow; DIVZ names the divisor's register. -/
theorem value_divides :
    let s := regs [(6, BitVec.ofInt 64 (-7)), (7, 2), (8, 0x8000000000000000), (9, 0xFFFFFFFFFFFFFFFF)] handled
    (after' (.sdiv 5 6 7) s).sreg 5 = BitVec.ofInt 64 (-3) ∧ (after' (.srem 5 6 7) s).sreg 5 = BitVec.ofInt 64 (-1) ∧ (after' (.sdiv 5 8 9) s).sreg 5 = 0x8000000000000000 ∧
    (after' (.srem 5 8 9) s).sreg 5 = 0 ∧ (after' (.sdiv 5 6 20) s).tcause = 0x1012 ∧ (after' (.sdiv 5 6 20) s).tinfo = 20 ∧ (after' (.sdiv 5 6 20) s).pc = 0x20000 ∧
    (after' (.sdiv 5 6 20) s).tret = 0x10000 := by decide +kernel

/-- 13 R298: branches count words from their own address; a link is the next address. -/
theorem value_branches :
    let s := regs [(6, 5), (7, 3)]
    (after' (.sbr 4 7 6 (-3)) s).pc = 0xFFF4 ∧ (after' (.sbr 4 6 7 (-3)) s).pc = 0x10004 ∧ (after' (.sbr 6 6 7 8) s).pc = 0x10020 ∧ (after' (.sjl (-1)) s).pc = 0xFFFC ∧ (after' (.sjl (-1)) s).sreg 63 = 0x10004 := by
  decide +kernel

/-- 11 R254, R260: RFT leaves the handler. -/
theorem value_return : (after' .rft inHandler).pc = 0x10040 ∧ (after' .rft inHandler).tcause.getLsbD 12 = false := by decide +kernel

/-- Table 12-12: ROT by 1 within pleats of 4; slot 2 has exited, slot 5 is predicated off. -/
theorem value_route :
    let s := lanes 0 0 fun g => { ((g.setV 2 (exact' ((List.range 8).map (10 * ·)))).setV 9 (exact' (List.replicate 8 99))).setPred 3 0xFFFFFFDF with live := 0xFFFFFFFB, pleats := g.pleats.set 1 1 }
    shown (after' (.vmov { word (2 + 2 ^ 13 + 2 ^ 16) 0 0 0 9 with pred := 3, gsel := 1 }) s) 9 (List.range 8) =
      [(10, 0), (0, (bInf : Bound).toNat), (99, 0), (0, 0), (50, 0), (99, 0), (70, 0), (40, 0)] := by decide +kernel

/-- Table 15-5: MATCH in a pleat of 8. -/
theorem value_match :
    let s := lanes 0 0 fun g => { ((g.setV 4 (exact' [2, 7, 2, 9, 7, 2, 7])).setV 9 (exact' (List.replicate 8 99))).setPred 3 0xFFFFFFBF with live := 0xFFFFFF7F, pleats := g.pleats.set 1 2 }
    let f (n : Nat) : List Nat := (shown (after' (.vmatch { word 4 0 0 n 9 with pred := 3, gsel := 1 }) s) 9 (List.range 8)).map (·.1)
    f 0 = [0x25, 0x12, 0x25, 0x08, 0x12, 0x25, 99, 99] ∧ f 1 = [3, 2, 3, 1, 2, 3, 99, 99] ∧ f 2 = [0, 0, 1, 0, 1, 2, 99, 99] := by decide +kernel

/-- Table 10-9: one FFMA, three units. -/
theorem value_units :
    let s := lanes 0 (BitVec.ofNat 64 (12 + 100 * 2 ^ 8 + 0xFFFF * 2 ^ 16 + 2 ^ 32 + 2 * 2 ^ 36)) fun g =>
      ((g.setV 2 (slots [(0x3FC00000, 0), (0x3F800000, 0), (0x3F800000, 0x7300)])).setV 3 (exact' [0x40000000, 0x3F800000, 0x3F800000])).setV 4 (exact' [0x3E800000, 0xBF7C0000, 0xBF7C0000])
    shown (after' (.ffma (word 2 3 4 0 10)) s) 10 [0, 1, 2] = [(0x40500000, 0x6C90), (0x3C800000, 0x6A01), (0x3C800000, 0x7301)] := by decide +kernel

/-- Lanes 0 to 3 of Table 10-13. -/
def intervals (alw : DWord) : State := lanes 0 alw fun g =>
  (g.setV 2 (slots [(0x3F800000, 0x7500), (0x3F800000, 0x7500), (0x40000000, 0x7500), (0x40A00000, (bInf : Bound).toNat)])).setV 5 (slots [(0x3FC00000, 0), (0x3F801000, 0), (0x3F800000, 0x7E00), (0x3F800000, 0)])

/-- Table 10-13: FCMP by intervals; under UTE the uncertain lanes trap and the predicate stays. -/
theorem value_intervals :
    let i : Instr := .fcmp (word 2 5 0 2 1)
    (after' i (intervals 0)).predMask 1 = 0x3 ∧ (after' i (intervals 0)).gstat.getLsbD 0 = true ∧ (after' i (intervals (2 ^ 41))).predMask 1 = 0 ∧
    (after' i (intervals (2 ^ 41))).laneTraps.map (fun t => (t.cause, t.mask, t.info)) = [(0x06, 0xA, 2)] := by decide +kernel

/-- Table 9-6: error feedback into BF16, twice. -/
theorem value_feedback :
    let s (r : Nat) : State := lanes 0x1000 0 fun g => { (g.setV 1 (exact' [0x3F800000])).setV 2 (exact' [0x3B800000]) with resid := g.resid.set 3 (Vector.replicate 32 (BitVec.ofNat 32 r)) }
    let f (r : Nat) : Group := after' (.fadd (word 1 2 0 5)) (s r)
    shown (f 0) 3 [0] = [(0x3F80, 0x7700)] ∧ (f 0).res 3 0 = 0x3B800000 ∧ shown (f 0x3B800000) 3 [0] = [(0x3F81, 0x7700)] ∧ (f 0x3B800000).res 3 0 = 0 := by decide +kernel

/-- 09 R226: the fixed order of an inclusive FP32 SCAN over a pleat of 4. -/
theorem value_scan :
    let s := lanes 0 0 fun g => { g.setV 1 (exact' [0x3F800000, 0x4B800000, 0x3F800000, 0xCB800000]) with pleats := g.pleats.set 1 1 }
    (shown (after' (.vscan { word 1 0 0 with gsel := 1 }) s) 3 [0, 1, 2, 3]).map (·.1) = [0x3F800000, 0x4B800000, 0x4B800000, 0x3F800000] ∧
    shown (after' (.vscan { word 1 0 0 with gsel := 1 }) s) 3 [3] = [(0x3F800000, 0x7F00)] := by decide +kernel

/-- Tables 9-8 and 14-7: QBLK of an E2M1 block with a special value, and SCALEBLK of its element 0. -/
theorem value_qblk :
    let s := lanes 0x10007000 0 fun g => (g.setV 4 (exact' [0x41666666, 0x41500000, 0x40400000, 0xC019999A, 0x3E4CCCCD])).setV 6 (exact' (List.replicate 32 99))
    shown (after' (.qblk (word 4 0 0 0 6)) s) 6 [0, 1, 3, 4, 31] = [(0xA378, 0x7F00), (0, 0), (0, 0), (99, 0), (0x804E, 0)] := by decide +kernel

theorem value_scaleblk :
    let s := lanes 0x7 0 fun g => g.setV 6 { full := true, lanes := (slots [(0xA378, 0x7F00)]).lanes.set 31 ⟨0x804E, 0⟩ }
    shown (after' (.scaleblk (word 6 (6 + 2 * 2 ^ 13 + 31 * 2 ^ 16) 0 0 8)) s) 8 [0] = [(0x41600000, 0x7F00)] := by decide +kernel

/-- 14 R323: IADD of INT8 100 and 100 wraps to −56 with bound ∞, or saturates to 127 with bound 73; 14 R327: a bitwise majority. -/
theorem value_integers :
    let s := lanes 0xAAAA 0 fun g => (g.setV 1 (exact' [100])).setV 2 (exact' [100])
    shown (after' (.iadd (word 1 2 0)) s) 3 [0] = [(200, (bInf : Bound).toNat)] ∧ shown (after' (.iadd { word 1 2 0 with clamp := 1 }) s) 3 [0] = [(127, 0x8524)] ∧
    (let t := lanes 0 0 fun g => ((g.setV 1 (exact' [0xFF00FF00])).setV 2 (exact' [0xF0F0F0F0])).setV 4 (exact' [0xCCCCCCCC])
     shown (after' (.lut { word 1 2 4 3 with nar := 5 }) t) 3 [0] = [(0xFCC0FCC0, 0)]) := by decide +kernel

/-- Table 1-6: the home slice of an address. -/
theorem value_placement : State.reset.homeOf 0x1234567A40 = 510 := by decide +kernel

/-- 06 R161: an RFSH at cycle 10,000 completes at 11,536, and automatic refresh begins again at 77,072. -/
theorem value_refresh :
    (match exec .rfsh { weighing scal with time := 10000 } with | .next t => (t.core 0).rfshEnd | _ => none) = some 11536 ∧
    (match exec (.rfshComplete 0) { scal.updCore 0 (fun c => { c with rfshEnd := some 11536 }) with time := 11536 } with | .next t => (t.core 0).wrsched | _ => 0) = 77072 := by decide +kernel

end Sys2Proof.Tests
end

section
/-! Every step keeps memory, metadata and I/O space in canonical form (00 R5, 07 R175). Each operation of the model has one lemma, in the
order of the model's files: a canonical state stays canonical under it. Most operations touch none of the three (`State.memWf_frame`) or
are made of operations that have their lemma already; the few that write them go through the laws of the sparse tables (`writeBytes_wf`,
`wf_filter`, `clearT_wf`, `State.homeStore_memWf`). What an operation answers beside a state has its own predicate below. -/

namespace Sys2Proof.Machine

open State

-- One proof after the other: elaborated in parallel, these proofs need more threads than the check's memory holds.
set_option Elab.async false

/-! ### What carries a state -/

/-- A state that differs from a canonical one in neither memory, metadata nor I/O space. -/
theorem State.memWf_frame {s t : State} (h : s.memWf = true) (hm : t.mem = s.mem := by rfl) (hd : t.md = s.md := by rfl)
    (hi : t.iomem = s.iomem := by rfl) : t.memWf = true := (State.memWf_congr hm hd hi).trans h

/-- The next state of an outcome, if there is one, is canonical. -/
def OutWf : Out → Prop
  | .next t => t.memWf = true
  | _ => True

/-- The state that is answered, if one is, is canonical. -/
def OptWf : Option State → Prop
  | some t => t.memWf = true
  | none => True

/-- As `OptWf`, for a state that comes with a value. -/
def OptFstWf {α : Type} : Option (State × α) → Prop
  | some x => x.1.memWf = true
  | none => True

/-- As `OptFstWf`, for a value that comes with a state. -/
def OptSndWf {α : Type} : Option (α × State) → Prop
  | some x => x.2.memWf = true
  | none => True

/-- The state of a firmware request that is applied is canonical. -/
def FwWf : Nat ⊕ State → Prop
  | .inr t => t.memWf = true
  | .inl _ => True

/-- The state in which a request has issued is canonical. -/
def Issued.MemWf : Issued → Prop
  | .go t => t.memWf = true
  | _ => True

/-- Whatever issuing an STREF comes to, its state is canonical. -/
def RefIssue.MemWf : RefIssue → Prop
  | .wait t | .trap t _ _ _ _ | .go t => t.memWf = true

/-- Whatever fetching a sector comes to, its state is canonical. -/
def CodeFetch.MemWf : CodeFetch → Prop
  | .wait t | .trap t _ _ | .got t _ => t.memWf = true

/-- Whatever fetching an instruction comes to, its state is canonical. -/
def Fetch.MemWf : Fetch → Prop
  | .wait t | .trap t _ _ | .word t _ => t.memWf = true

/-- Whatever reading parameters comes to, its state is canonical. -/
def ParamRead.MemWf : ParamRead → Prop
  | .wait t | .trap t _ _ | .got t _ => t.memWf = true

/-- Whatever a phase of a TLDA comes to, its state is canonical. -/
def TileStep.MemWf : TileStep → Prop
  | .wait t _ | .lost t _ | .go t _ | .over t _ _ => t.memWf = true

/-- The state that trying to start a stream leaves is canonical. -/
def StartTry.MemWf : StartTry → Prop
  | .done t | .ask t => t.memWf = true
  | .wait => True

/-- The state that writing a status word and a counter leaves is canonical. -/
def EndWrites.MemWf : EndWrites → Prop
  | .wait => True
  | .ask t | .sent t | .done t => t.memWf = true

/-- The state that one end of a packet leaves is canonical. -/
def Packet.MemWf {α : Type} : Packet α → Prop
  | .sent t | .ok t _ => t.memWf = true
  | _ => True

/-- The state in which the hub asks for a sector, or finds it unreadable, is canonical. -/
def HubRead.MemWf : HubRead → Prop
  | .wait o => OptWf o
  | .fail t => t.memWf = true
  | .got _ => True

/-- What the hub has of a record that it could not read whole. -/
def RecordWf : HubRead ⊕ List Byte → Prop
  | .inl r => r.MemWf
  | .inr _ => True

/-- The state that reading the fallback stream leaves is canonical. -/
def Stream'.MemWf : Stream' → Prop
  | .sent t | .ok t _ => t.memWf = true
  | _ => True

/-- What a step runs, it runs in a canonical state; an outcome known already is canonical. -/
def Todo.MemWf : Todo → Prop
  | .run _ t => t.memWf = true
  | .out o => OutWf o

theorem getD_memWf {o : Option State} {s : State} (ho : OptWf o) (h : s.memWf = true) : (o.getD s).memWf = true := by
  cases o with
  | none => exact h
  | some t => exact ho

theorem or_optWf {o u : Option State} (ho : OptWf o) (hu : OptWf u) : OptWf (o.or u) := by
  cases o with
  | none => exact hu
  | some t => exact ho

theorem findSome_optWf {α : Type} {f : α → Option State} (hf : ∀ a, OptWf (f a)) (l : List α) : OptWf (l.findSome? f) := by
  induction l with
  | nil => trivial
  | cons a l ih =>
    rw [List.findSome?_cons]
    split
    · next t e => exact (congrArg OptWf e).mp (hf a)
    · exact ih

theorem findSome_optFstWf {α β : Type} {f : α → Option (State × β)} (hf : ∀ a, OptFstWf (f a)) (l : List α) : OptFstWf (l.findSome? f) := by
  induction l with
  | nil => trivial
  | cons a l ih =>
    rw [List.findSome?_cons]
    split
    · next t e => exact (congrArg OptFstWf e).mp (hf a)
    · exact ih

section

variable {s : State}

/-! ### Tables, registers and the pc -/

theorem State.setStream_memWf {k : Nat} {s1 : Stream} (h : s.memWf = true) : (s.setStream k s1).memWf = true :=
  memWf_frame h

theorem State.bump_memWf (h : s.memWf = true) : s.bump.memWf = true :=
  memWf_frame h

theorem State.bumpBy_memWf {n : Nat} (h : s.memWf = true) : (s.bumpBy n).memWf = true :=
  memWf_frame h

theorem State.ws_memWf {i : SNum} {v : DWord} (h : s.memWf = true) : (s.ws i v).memWf = true :=
  (updCur_memWf ..).trans h

theorem State.advance_memWf (h : s.memWf = true) : s.advance.memWf = true :=
  (updCur_memWf ..).trans h

theorem State.jumpTo_memWf {a : BitVec 57} (h : s.memWf = true) : (s.jumpTo a).memWf = true :=
  (updCur_memWf ..).trans h

/-! ### Ports and links -/

theorem State.updPort_memWf {i : Fin 12} {f : Port → Port} (h : s.memWf = true) : (s.updPort i f).memWf = true :=
  memWf_frame h

theorem State.dropWrite_memWf {p : BitVec 12} (h : s.memWf = true) : (s.dropWrite p).memWf = true :=
  memWf_frame h

theorem State.countTirsol_memWf {p : Party} {n : Nat} (h : s.memWf = true) : (s.countTirsol p n).memWf = true := by
  unfold State.countTirsol
  split
  · extract_lets _
    split
    · exact h
    · exact memWf_frame h
  · exact h

theorem State.transmit_memWf {p : BitVec 12} {t : TSent} (h : s.memWf = true) : (s.transmit p t).memWf = true :=
  countTirsol_memWf (updPort_memWf h)

theorem State.sendPeer_memWf {p : BitVec 12} {op : BitVec 8} {pa id core : Nat} {party : Party} {data : Option SecStore} {va : Nat} {lane : Bool}
    (h : s.memWf = true) : (s.sendPeer p op pa id core party data va lane).memWf = true :=
  (sendReq_memWf ..).trans h

theorem State.sendAtom64_memWf {p : BitVec 12} {fn : Nat} {d y : DWord} {pa id core : Nat} {party : Party} {va : Nat}
    (h : s.memWf = true) : (s.sendAtom64 p fn d y pa id core party va).memWf = true :=
  (sendReq_memWf ..).trans h

/-! ### Memory, translation, L1 and the coalescing buffer -/

theorem State.carry_memWf {a b bytes : Nat} (h : s.memWf = true) : (s.carry a b bytes).memWf = true := by
  unfold State.carry
  extract_lets _
  split
  · exact h
  · exact memWf_frame h

theorem State.haulCores_memWf {p : Party} {a b bytes : Nat} (h : s.memWf = true) : (s.haulCores p a b bytes).memWf = true :=
  (carryFor_memWf ..).trans h

theorem State.haulSector_memWf {p : Party} {core pa : Nat} (h : s.memWf = true) : (s.haulSector p core pa).memWf = true :=
  (haul_memWf ..).trans h

theorem State.noteWatches_memWf {sec : Nat} (h : s.memWf = true) : (s.noteWatches sec).memWf = true :=
  memWf_frame h

theorem State.settleHub_memWf {sec : Nat} (h : s.memWf = true) : (s.settleHub sec).memWf = true :=
  memWf_frame h

theorem State.scrPut_memWf {core sec : Nat} {st : SecStore} {copy : Bool} (h : s.memWf = true) : (s.scrPut core sec st copy).memWf = true := by
  unfold State.scrPut
  extract_lets s₁
  have h₁ : s₁.memWf = true := memWf_frame h
  split
  · exact (updCur_memWf ..).trans h₁
  · exact h₁

theorem State.scrStore_memWf {team off : Nat} {f : Nat → SecStore} {copy : Bool} (h : s.memWf = true) : (s.scrStore team off f copy).memWf = true :=
  scrPut_memWf h

theorem State.fillTlbs_memWf {core : Nat} {t : Trans} (h : s.memWf = true) : (s.fillTlbs core t).memWf = true := by
  unfold State.fillTlbs
  split
  · exact h
  · extract_lets _ _ _ _ _ s₁ s₂
    have h₁ : s₁.memWf = true := memWf_frame h
    have h₂ : s₂.memWf = true := by
      unfold s₂
      split
      · exact h
      · split
        · exact h₁
        · exact memWf_foldl _ (fun _ _ h₂ => memWf_frame h₂) _ _ h₁
    split
    · exact h₂
    · exact memWf_frame h₂

theorem State.askPageFor_memWf {ps : List Party} {die : Nat} {pasid : BitVec 20} {va : Nat} {write unit : Bool}
    (h : s.memWf = true) : (s.askPageFor ps die pasid va write unit).memWf = true := by
  unfold State.askPageFor
  extract_lets _ _ _ _
  split
  · exact memWf_frame h
  · split
    · exact h
    · exact memWf_frame h

theorem State.askEngine_memWf {die : Nat} {pasid : BitVec 20} {va : Nat} {write : Bool} (h : s.memWf = true) : (s.askEngine die pasid va write).memWf = true :=
  askPageFor_memWf h

theorem State.askPage_memWf {die : Nat} {pasid : BitVec 20} {va : Nat} {write : Bool} (h : s.memWf = true) : (s.askPage die pasid va write).memWf = true :=
  askPageFor_memWf h

theorem State.fillFor_memWf {core : Nat} {pasid : BitVec 20} {va : Nat} {write : Bool} (h : s.memWf = true) : (s.fillFor core pasid va write).memWf = true := by
  unfold State.fillFor
  split
  · exact fillTlbs_memWf h
  · exact h

theorem State.fillL1With_memWf {core : Nat} {p : Party} {va : Nat} {p1 : Sector × Vector Bound 16} {hint : BitVec 2}
    (h : s.memWf = true) : (s.fillL1With core p va p1 hint).memWf = true := by
  unfold State.fillL1With
  split
  · exact h
  · exact memWf_frame h

theorem State.fillL1_memWf {core : Nat} {p : Party} {va pa : Nat} {hint : BitVec 2} (h : s.memWf = true) : (s.fillL1 core p va pa hint).memWf = true :=
  fillL1With_memWf h

theorem State.bufStore_memWf {core : Nat} {p : Party} {va pa : Nat} {peer : Option (BitVec 12)} {st : SecStore}
    (h : s.memWf = true) : (s.bufStore core p va pa peer st).memWf = true :=
  memWf_frame h

theorem State.putStore_memWf {core : Nat} {p : Party} {va pa : Nat} {peer : Option (BitVec 12)} {st : SecStore}
    (h : s.memWf = true) : (s.putStore core p va pa peer st).memWf = true := by
  unfold State.putStore
  split
  · exact bufStore_memWf h
  · split
    · exact bufStore_memWf h
    · exact haulSector_memWf (homeStore_memWf _ _ _ _ h)

theorem State.cleanL1_memWf {core : Nat} {pasid : BitVec 20} {sec : Nat} (h : s.memWf = true) : (s.cleanL1 core pasid sec).memWf = true :=
  memWf_frame h

theorem State.noFills_memWf {f : MemReq → Bool} {g : TSent → Bool} (h : s.memWf = true) : (s.noFills f g).memWf = true :=
  memWf_frame h

/-! ### Error records -/

theorem State.signal_memWf {v : Nat} (h : s.memWf = true) : (s.signal v).memWf = true :=
  memWf_frame h

theorem State.ringPut_memWf {r : List Byte} (h : s.memWf = true) : (s.ringPut r).memWf = true := by
  obtain ⟨hm, hd, hi⟩ := s.memWf_iff.1 h
  unfold State.ringPut
  extract_lets
  split
  · exact memWf_frame h
  · exact signal_memWf ((State.memWf_iff _).2 ⟨hm, hd, writeBytes_wf _ _ hi⟩)

theorem State.reportMemErr_memWf {pa ctx : Nat} (h : s.memWf = true) : (s.reportMemErr pa ctx).memWf = true :=
  report_memWf _ _ _ _ _ _ _ _ _ h

/-! ### The hub -/

theorem State.dropRefused_memWf {n va : Nat} (h : s.memWf = true) : (s.dropRefused n va).memWf = true :=
  memWf_frame h

theorem State.askHub_memWf {pasid : BitVec 20} {va : Nat} {write : Bool} (h : s.memWf = true) : OptWf (s.askHub pasid va write) := by
  unfold State.askHub
  extract_lets s₁
  have h₁ : s₁.memWf = true := askPageFor_memWf h
  split
  · exact trivial
  · exact h₁

theorem State.unitWrite_memWf {ctx : Nat} {a : DWord} {v : Nat} {add : Bool} (h : s.memWf = true) : (s.unitWrite ctx a v add).memWf = true := by
  unfold State.unitWrite
  split
  · refine carry_memWf (settleHub_memWf ?_)
    split
    · exact homeAdd_memWf _ _ _ h
    · exact homeWrite_memWf _ _ _ _ h
  · split
    · exact dropWrite_memWf h
    · split
      · exact sendAtom64_memWf h
      · exact sendPeer_memWf h
  · exact report_memWf _ _ _ _ _ _ _ _ _ (dropRefused_memWf h)

theorem State.endWrites_memWf {ctx : Nat} {stat : DWord} {v : Nat} {cnt : Option DWord} {statDone : Bool}
    (h : s.memWf = true) : (s.endWrites ctx stat v cnt statDone).MemWf := by
  unfold State.endWrites
  extract_lets _ _ _ ask count
  have hask : ∀ x, EndWrites.MemWf (ask x) := by
    intro a
    unfold ask
    split
    · next s₁ e => exact (congrArg OptWf e).mp (askHub_memWf h)
    · exact trivial
  have hcount : ∀ t, t.memWf = true → (count t).memWf = true := by
    intro t h₁
    unfold count
    split
    · exact unitWrite_memWf h₁
    · exact h₁
  split
  · exact hask _
  · split
    · exact hask _
    · split
      · split
        · exact trivial
        · exact hcount _ h
      · split
        · exact trivial
        · split
          · exact unitWrite_memWf h
          · split
            · exact trivial
            · exact hcount _ (unitWrite_memWf h)

/-! ### Waiting, traps, ends, and the drivers of scalar instructions and lane words -/

theorem waitOut_memWf (h : s.memWf = true) : OutWf (waitOut s) :=
  memWf_frame h

theorem blockedOut_memWf (h : s.memWf = true) : OutWf (blockedOut s) :=
  memWf_frame h

theorem State.releaseTeam_memWf {th : Nat} (h : s.memWf = true) : (s.releaseTeam th).memWf = true :=
  memWf_frame h

theorem State.finishRdv_memWf {teams : List Nat} {ps : List Party} {scope : Nat} (h : s.memWf = true) : (s.finishRdv teams ps scope).memWf = true :=
  memWf_foldl _ (fun _ _ h₁ => memWf_frame h₁) _ _ (memWf_foldl _ (fun _ _ h₁ => acquireAt_memWf _ _ _ ((updGrp_memWf ..).trans h₁)) _ _ h)

theorem State.tryBar_memWf {th : Nat} (h : s.memWf = true) : (s.tryBar th).memWf = true := by
  unfold State.tryBar
  extract_lets _
  split
  · exact h
  · exact finishRdv_memWf h

theorem State.tryCbarKind_memWf {th : Nat} {half : Bool} (h : s.memWf = true) : (s.tryCbarKind th half).memWf = true := by
  unfold State.tryCbarKind
  extract_lets _ _
  split
  · split
    · exact h
    · exact finishRdv_memWf h
  · split
    · exact h
    · exact finishRdv_memWf h

theorem State.tryCbar_memWf {th : Nat} (h : s.memWf = true) : (s.tryCbar th).memWf = true :=
  tryCbarKind_memWf (memWf_foldl _ (fun _ _ h₁ => tryCbarKind_memWf h₁) _ _ h)

theorem State.teamFatal_memWf {th cause : Nat} (h : s.memWf = true) : (s.teamFatal th cause).memWf = true := by
  unfold State.teamFatal
  extract_lets _ s₁ _ _ s₂ s₃ _
  have h₁ : s₁.memWf = true := tryCbar_memWf (releaseTeam_memWf h)
  clear_value s₁
  have h₂ : s₂.memWf = true := memWf_frame h₁
  clear_value s₂
  have h₃ : s₃.memWf = true := memWf_foldl _ (fun _ _ h₃ => releaseTeam_memWf h₃) _ _ h₂
  clear_value s₃
  split
  · exact memWf_frame h₃
  · exact h₂

theorem State.endStream_memWf {k kind cause : Nat} (h : s.memWf = true) : (s.endStream k kind cause).memWf = true :=
  memWf_frame ((updGrp_memWf ..).trans h)

theorem State.fatalEnd_memWf {p : Party} {cause : Nat} (h : s.memWf = true) : (s.fatalEnd p cause).memWf = true := by
  unfold State.fatalEnd
  split
  · exact teamFatal_memWf h
  · exact endStream_memWf h

theorem State.dropWait_memWf {p : Party} (h : s.memWf = true) : (s.dropWait p).memWf = true :=
  memWf_frame ((updGrp_memWf ..).trans h)

theorem State.noteCause_memWf {p : Party} {cause : Nat} {info : DWord} (h : s.memWf = true) : (s.noteCause p cause info).memWf = true := by
  unfold State.noteCause
  split
  · exact reportMemErr_memWf h
  · exact h

theorem State.scalarTrap_memWf {p : Party} {cause : Nat} {info : DWord} {ret : BitVec 57} {sempties : List SNum}
    (h : s.memWf = true) : (s.scalarTrap p cause info ret sempties).memWf = true := by
  unfold State.scalarTrap
  extract_lets s₁ _
  have h₁ : s₁.memWf = true := noteCause_memWf h
  split
  · exact fatalEnd_memWf h₁
  · exact (updGrp_memWf ..).trans (dropWait_memWf h₁)

theorem trapAt_memWf {cause : Nat} {info : DWord} (h : s.memWf = true) : OutWf (trapAt s cause info) :=
  scalarTrap_memWf h

theorem State.raiseLane_memWf {p : Party} {t : LaneTrap} (h : s.memWf = true) : (s.raiseLane p t).memWf = true := by
  unfold State.raiseLane
  extract_lets s₁
  have h₁ : s₁.memWf = true := noteCause_memWf h
  split
  · exact fatalEnd_memWf h₁
  · exact (updGrp_memWf ..).trans h₁

theorem State.deliverLane_memWf {p : Party} (h : s.memWf = true) : (s.deliverLane p).memWf = true := by
  unfold State.deliverLane
  split
  · exact h
  · split
    · exact fatalEnd_memWf h
    · exact (updGrp_memWf ..).trans (dropWait_memWf h)

theorem laneTrapOut_memWf {b : Block} {pos : Nat} {q : Split} {cause : Nat} {info : DWord} {mask redo : Mask} {first : Bool} {empties : List Nat}
    (h : s.memWf = true) : OutWf (laneTrapOut s b pos q cause info mask redo first empties) := by
  unfold laneTrapOut
  split
  · exact fatalEnd_memWf (noteCause_memWf h)
  · exact raiseLane_memWf ((updCur_memWf ..).trans (memWf_frame h))

theorem LaneRun.trap_memWf {l : LaneRun} {cause : Nat} {info : DWord} {mask : Mask} (h : s.memWf = true) : OutWf (l.trap s cause info mask) :=
  laneTrapOut_memWf h

theorem LaneRun.done_memWf {l : LaneRun} {f : Group → Group} (h : s.memWf = true) : OutWf (l.done s f) :=
  (updCur_memWf ..).trans h

theorem laneGo_memWf {i : Instr} {body : LaneRun → Out} (h : s.memWf = true) (hbody : ∀ x1, OutWf (body x1)) : OutWf (laneGo i s body) := by
  unfold laneGo
  split
  · exact trivial
  · extract_lets _ _
    split
    · exact LaneRun.trap_memWf h
    · split
      · exact LaneRun.trap_memWf h
      · split
        · exact LaneRun.trap_memWf h
        · split
          · exact blockedOut_memWf h
          · exact hbody _

theorem illLane_memWf {i : Instr} (h : s.memWf = true) : OutWf (illLane i s) := by
  unfold illLane
  split
  · exact trivial
  · split <;> exact LaneRun.trap_memWf h

theorem LaneRun.write_memWf {l : LaneRun} {always : Bool} {kind : Nat} {f : Nat → LaneRes} (h : s.memWf = true) : OutWf (l.write s always kind f) := by
  unfold LaneRun.write
  extract_lets _ _ _ _ _ _ _
  split
  · exact LaneRun.trap_memWf h
  · exact LaneRun.done_memWf h

theorem vecOp_memWf {i : Instr} {f : LaneCtx → Nat → LaneRes} (h : s.memWf = true) : OutWf (vecOp i f s) :=
  laneGo_memWf h (fun _ => LaneRun.write_memWf h)

theorem predOp_memWf {i : Instr} {int : Bool} {f : LaneCtx → Nat → Bool × Bool} (h : s.memWf = true) : OutWf (predOp i int f s) := by
  unfold predOp
  refine laneGo_memWf h fun x => ?_
  extract_lets r unc val
  clear_value unc val
  split
  · exact LaneRun.trap_memWf ((updCur_memWf ..).trans h)
  · exact LaneRun.done_memWf h

theorem scalarGate_memWf {i : Instr} {body : Out} (h : s.memWf = true) (hbody : OutWf body) : OutWf (scalarGate i s body) := by
  unfold scalarGate
  split
  · exact trapAt_memWf h
  · split
    · exact trapAt_memWf h
    · split
      · exact trapAt_memWf h
      · exact hbody

theorem illScalar_memWf {i : Instr} (h : s.memWf = true) : OutWf (illScalar i s) :=
  scalarGate_memWf h (trapAt_memWf h)

theorem needRegs_memWf {reads writes : List SNum} {body : Out} (h : s.memWf = true) (hbody : OutWf body) : OutWf (needRegs reads writes s body) := by
  unfold needRegs
  extract_lets _ _ _
  split
  · exact trapAt_memWf h
  · split
    · exact hbody
    · exact blockedOut_memWf h

theorem aluOp_memWf {i : Instr} {d : SNum} {reads : List SNum} {f : State → DWord} (h : s.memWf = true) : OutWf (aluOp i d reads f s) :=
  scalarGate_memWf h (needRegs_memWf h (advance_memWf (ws_memWf h)))

theorem scalarOp_memWf {i : Instr} {reads : List SNum} {f : State → Out} (hf : ∀ t, t.memWf = true → OutWf (f t)) (h : s.memWf = true) : OutWf (scalarOp i reads f s) :=
  scalarGate_memWf h (needRegs_memWf h (hf _ h))

theorem doneAt_memWf (h : s.memWf = true) : OutWf (doneAt s) :=
  advance_memWf h

theorem State.returnFromTrap_memWf {p : Party} (h : s.memWf = true) : (s.returnFromTrap p).memWf = true :=
  deliverLane_memWf ((updGrp_memWf ..).trans h)

/-! ### Requests to memory -/

theorem State.settleSector_memWf {p : Party} {va : Nat} (h : s.memWf = true) : (s.settleSector p va).memWf = true := by
  unfold State.settleSector
  extract_lets _ s₁
  have h₁ : s₁.memWf = true := by
    unfold s₁
    split
    · split
      · exact drainEntry_memWf _ _ _ h
      · exact h
    · exact h
  exact memWf_frame h₁

theorem State.giveLoad_memWf {q : MemReq} {lanes : Mask} {see : Nat → (Sector × Vector Bound 16) × Option Nat}
    (h : s.memWf = true) : (s.giveLoad q lanes see).memWf = true :=
  (updGrp_memWf ..).trans h

theorem State.doLoad_memWf {q : MemReq} {lanes : Mask} (h : s.memWf = true) : (s.doLoad q lanes).memWf = true := by
  unfold State.doLoad
  extract_lets _ _ s₁ s₂
  have h₁ : s₁.memWf = true := giveLoad_memWf h
  have h₂ : s₂.memWf = true := by
    unfold s₂
    split
    · exact memWf_frame h₁
    · exact h₁
  refine memWf_foldl _ (fun _ _ h => ?_) _ _ ?_
  · split
    · exact h
    · extract_lets s₃
      have h₃ : s₃.memWf = true := haulSector_memWf (fillFor_memWf h)
      split
      · exact h₃
      · exact fillL1_memWf h₃
  · exact h₂

theorem State.pump_memWf {q : MemReq} (h : s.memWf = true) : (s.pump q).memWf = true := by
  unfold State.pump
  refine memWf_foldl _ (fun _ _ h => ?_) _ _ ?_
  · split
    · exact h
    · extract_lets _ s₁
      have h₁ : s₁.memWf = true := by
        unfold s₁
        split
        · exact h
        · exact memWf_frame h
      split
      · exact h
      · split
        · exact drainEntry_memWf _ _ _ h
        · exact (haul_memWf ..).trans ((sendReq_memWf ..).trans h₁)
  · exact h

theorem State.pumpPeer_memWf {p : BitVec 12} (h : s.memWf = true) : (s.pumpPeer p).memWf = true :=
  memWf_foldl _ (fun _ _ h₁ => pump_memWf h₁) _ _ h

theorem State.doPeer_memWf {q : MemReq} {lanes : Mask} (h : s.memWf = true) : (s.doPeer q lanes).memWf = true := by
  unfold State.doPeer
  split
  · exact h
  · extract_lets _ _ s₁ _
    have h₁ : s₁.memWf = true := by
      unfold s₁
      split
      · exact h
      · exact (updGrp_memWf ..).trans h
    split
    · exact h₁
    · exact pump_memWf (memWf_frame h₁)

theorem State.doStore_memWf {q : MemReq} {lanes : Mask} (h : s.memWf = true) : (s.doStore q lanes).memWf = true :=
  memWf_foldl _ (fun _ _ h₁ => putStore_memWf (fillFor_memWf h₁)) _ _ h

theorem State.logLanes_memWf {q : MemReq} {lanes : Mask} {origin : Origin} (h : s.memWf = true) : (s.logLanes q lanes origin).memWf = true := by
  unfold State.logLanes
  split
  · exact h
  · extract_lets _ s₁
    have h₁ : s₁.memWf = true := by
      unfold s₁
      refine memWf_foldl _ (fun _ _ h => ?_) _ _ ?_
      · split
        · exact askEngine_memWf h
        · exact h
      · exact h
    exact memWf_frame h₁

theorem State.doLanes_memWf {q : MemReq} (h : s.memWf = true) : (s.doLanes q).memWf = true := by
  unfold State.doLanes
  extract_lets _ _ _ s₁
  have h₁ : s₁.memWf = true := by
    unfold s₁
    split
    · exact h
    · exact memWf_frame h
  split
  · exact doLoad_memWf (doPeer_memWf h)
  · exact doStore_memWf h
  · exact doPeer_memWf h₁

theorem State.acqDone_memWf {q : MemReq} (h : s.memWf = true) : (s.acqDone q).memWf = true := by
  unfold State.acqDone
  split
  · split
    · exact h
    · exact acquireAt_memWf _ _ _ h
  · exact h

theorem State.issue_memWf {q : MemReq} {rel : Option Nat} {dest : Dest} {origin : Origin} {check : Option (DWord × Word)}
    (h : s.memWf = true) : (s.issue q rel dest origin check).MemWf := by
  unfold State.issue
  extract_lets _ _ _ _ s₁ s₂
  have h₁ : s₁.memWf = true := memWf_frame h
  clear_value s₁
  have h₂ : s₂.memWf = true := by
    unfold s₂
    split
    · exact h₁
    · exact (updGrp_memWf ..).trans h₁
  clear_value s₂
  split
  · exact trivial
  · split
    · split
      · exact trivial
      · exact acqDone_memWf (logLanes_memWf (doLanes_memWf h₂))
    · split
      · exact trivial
      · exact acqDone_memWf (logLanes_memWf (doLanes_memWf h₂))

theorem State.haulWindow_memWf {q : MemReq} (h : s.memWf = true) : (s.haulWindow q).memWf = true := by
  unfold State.haulWindow
  refine memWf_foldl _ (fun _ _ h => ?_) _ _ ?_
  · split
    · exact haulCores_memWf h
    · exact h
  · exact h

theorem State.late_memWf {q : MemReq} {dest : Dest} {origin : Origin} {check : Option (DWord × Word)} {f : Outst → Outst}
    (h : s.memWf = true) : (s.late q dest origin check f).memWf = true :=
  (updGrp_memWf ..).trans (memWf_frame h)

/-! ### Starts -/

theorem State.killGrid_memWf {gh : Nat} (h : s.memWf = true) : (s.killGrid gh).memWf = true := by
  unfold State.killGrid
  extract_lets _ s₁ _
  have h₁ : s₁.memWf = true := memWf_foldl _ (fun _ _ h₁ => releaseTeam_memWf h₁) _ _ h
  split
  · exact h
  · exact memWf_frame h₁

theorem State.killStream_memWf {k : Nat} (h : s.memWf = true) : (s.killStream k).memWf = true := by
  unfold State.killStream
  split
  · exact h
  · exact endStream_memWf h

theorem State.killGrids_memWf (h : s.memWf = true) : s.killGrids.memWf = true :=
  memWf_foldl _ (fun _ _ h₁ => killGrid_memWf h₁) _ _ h

theorem State.killAll_memWf (h : s.memWf = true) : s.killAll.memWf = true :=
  memWf_foldl _ (fun _ _ h₁ => killStream_memWf h₁) _ _ (killGrids_memWf h)

theorem State.redirect_memWf {n m : Nat} (h : s.memWf = true) : (s.redirect n m).memWf = true :=
  memWf_frame h

theorem State.testSlices_memWf (h : s.memWf = true) : s.testSlices.memWf = true := by
  unfold State.testSlices
  refine memWf_foldl _ (fun _ _ h => ?_) _ _ ?_
  · split
    · exact h
    · split
      · exact redirect_memWf h
      · exact h
  · exact h

theorem State.hubLines_memWf {cold : Bool} (h : s.memWf = true) : (s.hubLines cold).memWf = true := by
  obtain ⟨hm, hd, hi⟩ := s.memWf_iff.1 h
  unfold State.hubLines
  refine (State.memWf_iff _).2 ⟨?_, hd, hi⟩
  exact List.foldlRecOn (motive := fun m => Memory.wf m = true) _ _ hm fun _ hm _ _ => writeBytes_wf _ _ hm

theorem State.started_memWf {cold : Bool} (h : s.memWf = true) : (s.started cold).memWf = true := by
  unfold State.started
  extract_lets u _ _ _ _ _ _ _ _ _ _ _ t
  have hu : u.memWf = true := hubLines_memWf h
  obtain ⟨hm, _, hi⟩ := u.memWf_iff.1 hu
  have ht : t.memWf = true := (State.memWf_iff _).2 ⟨wf_filter _ hm, rfl, hi⟩
  clear_value t
  split
  · exact testSlices_memWf ht
  · exact ht

theorem State.startFailed_memWf (h : s.memWf = true) : s.startFailed.memWf = true :=
  memWf_frame h

theorem State.reportLost_memWf {dies stks : List Nat} (h : s.memWf = true) : (s.reportLost dies stks).memWf = true :=
  memWf_foldl _ (fun _ _ h₁ => report_memWf _ _ _ _ _ _ _ _ _ h₁) _ _ (memWf_foldl _ (fun _ _ h₁ => report_memWf _ _ _ _ _ _ _ _ _ h₁) _ _ h)

theorem State.beginStart_memWf {cold again : Bool} (h : s.memWf = true) : (s.beginStart cold again).memWf = true :=
  memWf_frame h

theorem State.warmFailed_memWf (h : s.memWf = true) : s.warmFailed.memWf = true := by
  unfold State.warmFailed
  split
  · exact beginStart_memWf (memWf_frame h)
  · exact beginStart_memWf h

theorem State.builtInTest_memWf {cold again : Bool} (h : s.memWf = true) : (s.builtInTest cold again).memWf = true := by
  unfold State.builtInTest
  extract_lets _ s₁ _ _ _
  have h₁ : s₁.memWf = true := memWf_frame h
  split
  · exact startFailed_memWf h₁
  · split
    · exact memWf_frame h₁
    · split
      · exact warmFailed_memWf h₁
      · split
        · exact beginStart_memWf (memWf_frame h₁)
        · split
          · exact startFailed_memWf (memWf_frame h₁)
          · exact reportLost_memWf (memWf_frame h₁)

theorem State.trainStacks_memWf {cold : Bool} (h : s.memWf = true) : (s.trainStacks cold).memWf = true :=
  reportLost_memWf (memWf_frame h)

theorem State.verifyTrusted_memWf (h : s.memWf = true) : s.verifyTrusted.memWf = true := by
  unfold State.verifyTrusted
  split
  · exact memWf_frame h
  · exact startFailed_memWf h

theorem State.deriveKeys_memWf {next : BitVec 4} (h : s.memWf = true) : (s.deriveKeys next).memWf = true :=
  memWf_frame h

theorem State.startFirmware_memWf {cold : Bool} (h : s.memWf = true) : (s.startFirmware cold).memWf = true := by
  unfold State.startFirmware
  extract_lets _ _
  split
  · exact startFailed_memWf h
  · split
    · exact startFailed_memWf h
    · exact memWf_frame h

theorem State.startStep_memWf (h : s.memWf = true) : s.startStep.memWf = true := by
  unfold State.startStep
  extract_lets _
  split
  · exact h
  · split
    · exact verifyTrusted_memWf h
    · split
      · exact deriveKeys_memWf h
      · split
        · extract_lets s₁ _
          have h₁ : s₁.memWf = true := builtInTest_memWf h
          split
          · exact memWf_frame h₁
          · exact h₁
        · split
          · exact trainStacks_memWf h
          · split
            · exact startFirmware_memWf h
            · exact started_memWf h

theorem State.tryStart_memWf (h : s.memWf = true) : s.tryStart.memWf = true := by
  unfold State.tryStart
  split
  · exact h
  · split
    · exact h
    · exact beginStart_memWf h

theorem State.requestStart_memWf {cold : Bool} (h : s.memWf = true) : (s.requestStart cold).memWf = true := by
  unfold State.requestStart
  extract_lets _ s₁ _
  have h₁ : s₁.memWf = true := killAll_memWf h
  split
  · exact memWf_frame h
  · exact tryStart_memWf (memWf_frame h₁)

theorem State.nameReadmit_memWf {v : DWord} (h : s.memWf = true) : (s.nameReadmit v).memWf = true := by
  unfold State.nameReadmit
  split
  · exact h
  · exact memWf_frame h

theorem State.startTimedOut_memWf (h : s.memWf = true) : s.startTimedOut.memWf = true := by
  unfold State.startTimedOut
  split
  · exact h
  · exact startFailed_memWf h
  · exact warmFailed_memWf h

/-! ### Fetching and issuing -/

theorem State.fetchSector_memWf {p : Party} {lane : Bool} {va : Nat} (h : s.memWf = true) : (s.fetchSector p lane va).MemWf := by
  unfold State.fetchSector
  extract_lets _ _ _
  split
  · exact h
  · split
    · split
      · exact (updGrp_memWf ..).trans h
      · exact askPage_memWf h
    · exact h
    · split
      · exact h
      · split
        · exact h
        · exact sendPeer_memWf h
    · split
      · exact h
      · exact memWf_frame (haulSector_memWf (fillFor_memWf h))

theorem State.fetchScalar_memWf {p : Party} (h : s.memWf = true) : (s.fetchScalar p).MemWf := by
  unfold State.fetchScalar
  extract_lets _ _ fetch
  have hfetch : ∀ t, t.memWf = true → Fetch.MemWf (fetch t) := by
    intro t h₁
    unfold fetch
    split
    · next s₂ e => exact (congrArg CodeFetch.MemWf e).mp (fetchSector_memWf h₁)
    · next s₂ _ _ e => exact (congrArg CodeFetch.MemWf e).mp (fetchSector_memWf h₁)
    · next s₂ _ e => exact (updGrp_memWf ..).trans ((congrArg CodeFetch.MemWf e).mp (fetchSector_memWf h₁))
  split
  · split
    · exact hfetch _ h
    · split
      · exact h
      · split
        · exact (updGrp_memWf ..).trans (memWf_frame h)
        · exact hfetch _ (memWf_frame h)
  · exact hfetch _ h

theorem State.fetchLaneSector_memWf {p : Party} {va : Nat} (h : s.memWf = true) : (s.fetchLaneSector p va).MemWf := by
  unfold State.fetchLaneSector
  extract_lets _ _ refill s₁
  have hrefill : ∀ t, t.memWf = true → CodeFetch.MemWf (refill t) := by
    intro t h₁
    unfold refill
    split
    · next s₂ _ e => exact (updGrp_memWf ..).trans ((congrArg CodeFetch.MemWf e).mp (fetchSector_memWf h₁))
    · exact fetchSector_memWf h₁
  have h₁ : s₁.memWf = true := memWf_frame ((updGrp_memWf ..).trans h)
  split
  · exact h
  · split
    · exact h₁
    · exact hrefill _ h₁
  · exact hrefill _ h

theorem State.fetchBlock_memWf {p : Party} {l : List Nat} (h : s.memWf = true) : (s.fetchBlock p l).MemWf := by
  induction l generalizing s with
  | nil => exact h
  | cons va rest ih =>
    have hs : (s.fetchLaneSector p va).MemWf := fetchLaneSector_memWf h
    unfold State.fetchBlock
    extract_lets sec
    split
    · exact h
    · split
      · exact ih h
      · split
        · next t _ e => exact ih ((updGrp_memWf ..).trans ((congrArg CodeFetch.MemWf e).mp hs))
        · exact hs

theorem State.fetchBack_memWf {p : Party} {n : Nat} (h : s.memWf = true) : (s.fetchBack p n).MemWf := by
  induction n generalizing s with
  | zero => exact h
  | succ n ih =>
    unfold State.fetchBack
    split
    · exact h
    · next b _ =>
      have hb : (s.fetchBlock p (codePlaces (b.entry.blk.toNat + 12 * n) 12)).MemWf := fetchBlock_memWf h
      split
      · next t _ e =>
        have ht : t.memWf = true := (congrArg CodeFetch.MemWf e).mp hb
        show CodeFetch.MemWf (if _ then _ else _)
        split <;> split
        · exact ih ht
        · exact ht
        · exact ih ht
        · exact ht
      · next t e => exact (congrArg CodeFetch.MemWf e).mp hb
      · exact h

theorem State.fetchLane_memWf {p : Party} {slot : Nat} (h : s.memWf = true) : (s.fetchLane p slot).MemWf := by
  unfold State.fetchLane
  split
  · exact h
  · split
    · exact h
    · extract_lets _ _
      split
      · next s₁ e => exact (congrArg CodeFetch.MemWf e).mp (fetchBlock_memWf h)
      · next s₁ _ _ e => exact (congrArg CodeFetch.MemWf e).mp (fetchBlock_memWf h)
      · rename_i s₁ _ e
        have h₁ : s₁.memWf = true := (congrArg CodeFetch.MemWf e).mp (fetchBlock_memWf h)
        extract_lets _
        split
        · split
          · split
            · next s₂ e => exact (congrArg CodeFetch.MemWf e).mp (fetchBlock_memWf h₁)
            · rename_i s₂ _ _ e
              have h₂ : s₂.memWf = true := (congrArg CodeFetch.MemWf e).mp (fetchBlock_memWf h₁)
              exact h₁
            · rename_i s₂ _ e
              have h₂ : s₂.memWf = true := (congrArg CodeFetch.MemWf e).mp (fetchBlock_memWf h₁)
              split
              · exact h₂
              · split
                · next s₃ e => exact (congrArg CodeFetch.MemWf e).mp (fetchBack_memWf h₂)
                · next s₃ _ e => exact (congrArg CodeFetch.MemWf e).mp (fetchBack_memWf h₂)
                · next s₃ _ _ e => exact (congrArg CodeFetch.MemWf e).mp (fetchBack_memWf h₂)
          · exact h₁
        · split
          · split
            · next s₂ e => exact (congrArg CodeFetch.MemWf e).mp (fetchBlock_memWf h₁)
            · rename_i s₂ _ _ e
              have h₂ : s₂.memWf = true := (congrArg CodeFetch.MemWf e).mp (fetchBlock_memWf h₁)
              exact h₁
            · rename_i s₂ _ e
              have h₂ : s₂.memWf = true := (congrArg CodeFetch.MemWf e).mp (fetchBlock_memWf h₁)
              split
              · exact h₂
              · split
                · next s₃ e => exact (congrArg CodeFetch.MemWf e).mp (fetchBack_memWf h₂)
                · next s₃ _ e => exact (congrArg CodeFetch.MemWf e).mp (fetchBack_memWf h₂)
                · next s₃ _ _ e => exact (congrArg CodeFetch.MemWf e).mp (fetchBack_memWf h₂)
          · exact h₁

theorem State.dropCopy_memWf {core id : Nat} (h : s.memWf = true) : (s.dropCopy core id).memWf = true :=
  memWf_frame h

theorem wakeChecks_memWf {w : DWord} (h : s.memWf = true) : OutWf (wakeChecks w s) := by
  unfold wakeChecks
  split
  · exact scalarTrap_memWf (dropCopy_memWf h)
  · extract_lets s₁
    have h₁ : s₁.memWf = true := (updCur_memWf ..).trans h
    split
    · exact scalarTrap_memWf h₁
    · exact acquireAt_memWf _ _ _ h₁

theorem State.finishEnd_memWf {k kind cause : Nat} (h : s.memWf = true) : OutWf (s.finishEnd k kind cause) := by
  unfold State.finishEnd
  extract_lets x wait
  have hwait (t : State) (h : t.memWf = true) : OutWf (wait t) := memWf_frame h
  clear_value wait
  split
  · exact hwait _ h
  · next t e => exact hwait _ ((congrArg EndWrites.MemWf e).mp (endWrites_memWf h))
  · next t e => exact hwait _ (setStream_memWf ((congrArg EndWrites.MemWf e).mp (endWrites_memWf h)))
  · next t e => exact tryStart_memWf (setStream_memWf ((congrArg EndWrites.MemWf e).mp (endWrites_memWf h)))

theorem State.issueTurn_memWf {p : Party} {lane : Bool} {slot : Nat} (h : s.memWf = true) : (s.issueTurn p lane slot).MemWf := by
  unfold State.issueTurn
  extract_lets g s₀
  have h₀ : s₀.memWf = true := memWf_frame h
  clear_value s₀
  split
  · split
    · exact h₀
    · have hf : ((if g.laneTraps.isEmpty then s₀ else s₀.updGrp p Group.closeTwin).fetchLane p slot).MemWf := by
        refine fetchLane_memWf ?_
        split
        · exact h₀
        · exact (updGrp_memWf ..).trans h₀
      generalize (if g.laneTraps.isEmpty then s₀ else s₀.updGrp p Group.closeTwin).fetchLane p slot = r at hf ⊢
      cases r with
      | wait t => exact memWf_frame (s := t) hf
      | word t d =>
        have ht : t.memWf = true := hf
        cases d with
        | ok i => exact ht
        | illField i => exact illLane_memWf ht
      | trap t c info =>
        have ht : t.memWf = true := hf
        show Todo.MemWf (match (t.grp p).block with | none => _ | some b => _)
        split
        · exact ht
        · split
          · exact ht
          · split
            · exact ht
            · exact laneTrapOut_memWf ht
  · split
    · exact h₀
    · split
      · exact h₀
      · split
        · exact wakeChecks_memWf h₀
        · split
          · exact finishEnd_memWf h₀
          · have hf (q : Party) : (s₀.fetchScalar q).MemWf := fetchScalar_memWf h₀
            split
            · next t e => exact memWf_frame (s := t) ((congrArg Fetch.MemWf e).mp (hf _))
            · next t i e => exact (congrArg Fetch.MemWf e).mp (hf _)
            · next t i e => exact illScalar_memWf ((congrArg Fetch.MemWf e).mp (hf _))
            · next t c info e => exact trapAt_memWf ((congrArg Fetch.MemWf e).mp (hf _))

theorem State.pick_memWf (h : s.memWf = true) : s.pick.MemWf := by
  unfold State.pick
  split
  · exact memWf_frame h
  · split
    · exact startStep_memWf h
    · split
      · exact memWf_frame h
      · exact issueTurn_memWf h

theorem State.hadTurn_memWf {p : Party × Bool × Nat} {issued : Bool} (h : s.memWf = true) : (s.hadTurn p issued).memWf = true := by
  unfold State.hadTurn
  extract_lets _
  split <;> exact memWf_frame h

theorem State.turnOver_memWf {ran : Option (Party × Bool × Nat)} {issued : Bool} (h : s.memWf = true) : (s.turnOver ran issued).memWf = true := by
  unfold State.turnOver
  extract_lets held t u
  have ht : t.memWf = true := by
    unfold t
    cases ran with
    | none => exact h
    | some x => exact hadTurn_memWf h
  have hu : u.memWf = true := by
    unfold u
    split
    · exact ht
    · exact memWf_frame ht
  split
  · exact memWf_frame h
  · exact memWf_frame hu

/-! ### Scalar memory instructions -/

theorem scalarIssued_memWf {r : Issued} {f : Group → Group} (h : s.memWf = true) (hr : r.MemWf) : OutWf (scalarIssued s r f) := by
  unfold scalarIssued
  split
  · exact waitOut_memWf h
  · exact trapAt_memWf h
  · exact advance_memWf ((updCur_memWf ..).trans hr)

theorem scalarLoad_memWf {t : SNum} {ea : DWord} {bytes : Nat} {acq : Option (BitVec 2)} (h : s.memWf = true) : OutWf (scalarLoad s t ea bytes acq) :=
  scalarIssued_memWf h (issue_memWf h)

theorem scalarStore_memWf {d ea : DWord} {bytes : Nat} {rel : Option Nat} (h : s.memWf = true) : OutWf (scalarStore s d ea bytes rel) := by
  unfold scalarStore
  split
  · exact waitOut_memWf h
  · exact trapAt_memWf h
  · next s₁ e => exact advance_memWf ((congrArg Issued.MemWf e).mp (issue_memWf h))

theorem execSlds_memWf {t base : SNum} {sz : BitVec 2} {off : BitVec 10} (h : s.memWf = true) : OutWf (execSlds t base sz off s) := by
  unfold execSlds
  refine scalarGate_memWf h (needRegs_memWf h ?_)
  extract_lets _ _ _
  split
  · exact trapAt_memWf h
  · split
    · exact waitOut_memWf h
    · exact advance_memWf ((updCur_memWf ..).trans (late_memWf (haulWindow_memWf h)))

theorem State.fenceDone_memWf {kind sc : Nat} (h : s.memWf = true) : OutWf (s.fenceDone kind sc) := by
  unfold State.fenceDone
  extract_lets s₁ _ s₂
  have h₁ : s₁.memWf = true := by
    unfold s₁
    split
    · exact h
    · exact acquireAt_memWf _ _ _ h
  have h₂ : s₂.memWf = true := by
    unfold s₂
    split
    · exact h₁
    · exact (updCur_memWf ..).trans h₁
  split
  · exact scalarTrap_memWf h₂
  · exact advance_memWf h₂

theorem execSfence_memWf {kind : BitVec 2} {lanes : Bool} {sc : BitVec 2} (h : s.memWf = true) : OutWf (execSfence kind lanes sc s) := by
  unfold execSfence
  refine scalarGate_memWf h ?_
  split
  · exact fenceDone_memWf h
  · exact waitOut_memWf h

theorem execSacqp_memWf {d a b : SNum} {sc : BitVec 2} (h : s.memWf = true) : OutWf (execSacqp d a b sc s) := by
  unfold execSacqp
  refine scalarGate_memWf h (needRegs_memWf h ?_)
  extract_lets _ _ _ _ s₁
  have h₁ : s₁.memWf = true := memWf_frame h
  split
  · exact scalarLoad_memWf h
  · split
    · exact trapAt_memWf h
    · split
      · exact waitOut_memWf h
      · exact advance_memWf ((updCur_memWf ..).trans h₁)

/-! ### Waits, wakes and rendezvous -/

theorem execLrun_memWf {a b : SNum} (h : s.memWf = true) : OutWf (execLrun a b s) := by
  unfold execLrun
  refine scalarGate_memWf h ?_
  extract_lets _ _
  split
  · exact trapAt_memWf h
  · refine needRegs_memWf h ?_
    split
    · exact trapAt_memWf h
    · split
      · exact trapAt_memWf h
      · split
        · exact blockedOut_memWf h
        · split
          · next s₁ e => exact waitOut_memWf ((congrArg CodeFetch.MemWf e).mp (fetchLaneSector_memWf h))
          · next s₁ _ _ e => exact trapAt_memWf ((congrArg CodeFetch.MemWf e).mp (fetchLaneSector_memWf h))
          · rename_i s₁ _ e
            have h₁ : s₁.memWf = true := (congrArg CodeFetch.MemWf e).mp (fetchLaneSector_memWf h)
            extract_lets _
            split
            · split
              · exact blockedOut_memWf h₁
              · split
                · exact trapAt_memWf h₁
                · split
                  · exact trapAt_memWf h₁
                  · exact advance_memWf ((updCur_memWf ..).trans (memWf_frame h₁))
            · split
              · exact blockedOut_memWf h₁
              · split
                · exact trapAt_memWf h₁
                · split
                  · exact trapAt_memWf h₁
                  · exact advance_memWf ((updCur_memWf ..).trans (memWf_frame h₁))

theorem execLdrain_memWf (h : s.memWf = true) : OutWf (execLdrain s) := by
  unfold execLdrain
  refine scalarGate_memWf h ?_
  split
  · exact doneAt_memWf h
  · exact waitOut_memWf h

theorem execSetfmt_memWf {a : SNum} (h : s.memWf = true) : OutWf (execSetfmt a s) := by
  unfold execSetfmt
  refine scalarOp_memWf (fun t h₁ => ?_) h
  extract_lets _
  split
  · exact trapAt_memWf h₁
  · exact doneAt_memWf ((updCur_memWf ..).trans h₁)

theorem execSetalw_memWf {a : SNum} (h : s.memWf = true) : OutWf (execSetalw a s) := by
  unfold execSetalw
  refine scalarOp_memWf (fun t h₁ => ?_) h
  extract_lets _
  split
  · exact trapAt_memWf h₁
  · split
    · exact trapAt_memWf h₁
    · exact doneAt_memWf ((updCur_memWf ..).trans h₁)

theorem execPause_memWf {n : BitVec 20} (h : s.memWf = true) : OutWf (execPause n s) := by
  unfold execPause
  refine scalarGate_memWf h ?_
  split
  · exact trapAt_memWf h
  · extract_lets _
    refine doneAt_memWf ?_
    split
    · exact h
    · exact (updCur_memWf ..).trans h

theorem State.readCounter_memWf {p : Party} {ea pa : Nat} (h : s.memWf = true) : (s.readCounter p ea pa).1.memWf = true :=
  acquireAt_memWf _ _ _ h

theorem waitCounter_memWf {watch : Bool} {ea target : DWord} {w : Bool → Wait} {reached : State → Out} (h : s.memWf = true)
    (hreached : ∀ t, t.memWf = true → OutWf (reached t)) : OutWf (waitCounter s watch ea target w reached) := by
  unfold waitCounter
  extract_lets core again
  split
  · exact waitOut_memWf h
  · split
    · split
      · exact trapAt_memWf ((updCur_memWf ..).trans h)
      · exact waitOut_memWf (askPage_memWf h)
    · exact trapAt_memWf h
    · split
      · exact trapAt_memWf h
      · split
        · exact waitOut_memWf h
        · exact memWf_frame ((updCur_memWf ..).trans (sendPeer_memWf h))
    · next pa _ =>
      split
      · exact trapAt_memWf h
      · extract_lets r s₁ home
        have h₁ : s₁.memWf = true := readCounter_memWf h
        clear_value s₁
        split
        · exact hreached _ h₁
        · split
          · exact (updCur_memWf ..).trans (memWf_frame h₁)
          · exact (updCur_memWf ..).trans h₁

theorem polling_memWf {r : Out} (hr : OutWf r) : OutWf (polling r) := by
  unfold polling
  split
  · next t =>
    have ht : t.memWf = true := hr
    have hd (f : Group → Group) : OutWf (.next (t.updCur f)) := (updCur_memWf ..).trans ht
    simp only
    split
    · exact hd _
    · exact hd _
    · exact ht
  · exact hr

theorem suspReached_memWf {cont : BitVec 57} (h : s.memWf = true) : OutWf (suspReached cont s) :=
  jumpTo_memWf ((updCur_memWf ..).trans h)

theorem execSusp_memWf {a b : SNum} {off : BitVec 11} (h : s.memWf = true) : OutWf (execSusp a b off s) := by
  unfold execSusp
  refine scalarOp_memWf (fun t h₁ => ?_) h
  split
  · exact trapAt_memWf h₁
  · exact polling_memWf (waitCounter_memWf h₁ (fun _ h₂ => suspReached_memWf h₂))

theorem wakeSleep_memWf (h : s.memWf = true) : OutWf (wakeSleep s) :=
  wakeChecks_memWf (advance_memWf ((updCur_memWf ..).trans h))

theorem execSleepu_memWf {a : SNum} (h : s.memWf = true) : OutWf (execSleepu a s) := by
  unfold execSleepu
  refine scalarOp_memWf (fun t h₁ => ?_) h
  split
  · exact wakeSleep_memWf h₁
  · exact (updCur_memWf ..).trans h₁

theorem execBar_memWf (h : s.memWf = true) : OutWf (execBar s) := by
  unfold execBar
  refine scalarGate_memWf h ?_
  split
  · exact waitOut_memWf h
  · exact tryBar_memWf ((updCur_memWf ..).trans h)

theorem cbarArrive_memWf {i : Instr} {half : Bool} (h : s.memWf = true) : OutWf (cbarArrive i half s) := by
  unfold cbarArrive
  refine scalarGate_memWf h ?_
  extract_lets _
  split
  · exact waitOut_memWf h
  · exact tryCbar_memWf ((updCur_memWf ..).trans h)

theorem State.tryRegather_memWf {th : Nat} (h : s.memWf = true) : (s.tryRegather th).memWf = true := by
  unfold State.tryRegather
  extract_lets _ _ _
  split
  · exact h
  · exact finishRdv_memWf (memWf_frame h)

theorem execRegather_memWf {key : BitVec 7} (h : s.memWf = true) : OutWf (execRegather key s) := by
  unfold execRegather
  refine scalarGate_memWf h ?_
  split
  · exact trapAt_memWf h
  · extract_lets _
    split
    · exact waitOut_memWf h
    · exact tryRegather_memWf ((updCur_memWf ..).trans h)

theorem execElect_memWf {d : SNum} (h : s.memWf = true) : OutWf (execElect d s) := by
  unfold execElect
  refine scalarGate_memWf h (needRegs_memWf h ?_)
  split
  · exact doneAt_memWf (ws_memWf h)
  · exact doneAt_memWf (ws_memWf (memWf_frame h))

/-! ### Engine commands -/

theorem checked_memWf {l : List (Option (Nat × DWord))} {body : Out} (h : s.memWf = true) (hbody : OutWf body) : OutWf (checked s l body) := by
  unfold checked
  split
  · exact trapAt_memWf h
  · exact hbody

theorem commandOp_memWf {i : Instr} {reads writes : List SNum} {checks : State → List (Option (Nat × DWord))} {f : State → Out} {pre : List (Option (Nat × DWord))} (hf : ∀ t, t.memWf = true → OutWf (f t))
    (h : s.memWf = true) : OutWf (commandOp i reads writes checks f s pre) := by
  unfold commandOp
  refine scalarGate_memWf h ?_
  split
  · exact checked_memWf h (waitOut_memWf h)
  · exact needRegs_memWf h (checked_memWf h (hf _ h))

theorem notNow_memWf (h : s.memWf = true) : OutWf (notNow s) :=
  waitOut_memWf h

theorem State.paramSector_memWf {p : Party} {va : Nat} (h : s.memWf = true) : (s.paramSector p va).MemWf := by
  unfold State.paramSector
  extract_lets _ _
  split
  · exact h
  · split
    · exact (updGrp_memWf ..).trans h
    · exact askPage_memWf h
  · split
    · exact h
    · split
      · exact h
      · split
        · exact drainEntry_memWf _ _ _ h
        · exact (haul_memWf ..).trans (sendPeer_memWf h)
  · split
    · exact h
    · exact fillL1_memWf (fillFor_memWf (haulSector_memWf h))
  · exact h

theorem State.paramSectors_memWf {p : Party} {l : List Nat} (h : s.memWf = true) : (s.paramSectors p l).MemWf := by
  induction l generalizing s with
  | nil => exact h
  | cons va rest ih =>
    have hs : (s.paramSector p va).MemWf := paramSector_memWf h
    unfold State.paramSectors
    split
    · next t e => exact (congrArg CodeFetch.MemWf e).mp hs
    · next t _ _ e => exact (congrArg CodeFetch.MemWf e).mp hs
    · next t _ e =>
      have ht : (t.paramSectors p rest).MemWf := ih ((congrArg CodeFetch.MemWf e).mp hs)
      split
      · next u _ e' => exact (congrArg ParamRead.MemWf e').mp ht
      · exact ht

theorem State.paramBytes_memWf {p : Party} {va n : Nat} (h : s.memWf = true) : (s.paramBytes p va n).MemWf := by
  unfold State.paramBytes
  split
  · next s₁ _ e => exact (congrArg ParamRead.MemWf e).mp (paramSectors_memWf h)
  · exact paramSectors_memWf h

theorem State.scrPutBytes_memWf {core a : Nat} {bs : List Byte} {bnd : Nat → Bound} (h : s.memWf = true) : (s.scrPutBytes core a bs bnd).memWf = true :=
  memWf_foldl _ (fun _ _ h₁ => memWf_frame h₁) _ _ h

theorem State.scrCount_memWf {core a : Nat} (h : s.memWf = true) : (s.scrCount core a).memWf = true := by
  unfold State.scrCount
  exact scrPutBytes_memWf h

theorem State.awaitScalar_memWf {d : SNum} (h : s.memWf = true) : (s.awaitScalar d).1.memWf = true :=
  (updCur_memWf ..).trans (memWf_frame h)

theorem lateResult_memWf {d : SNum} {v : DWord} (h : s.memWf = true) : OutWf (lateResult s d v) :=
  advance_memWf ((updCur_memWf ..).trans (late_memWf h))

/-! ### Copies and refreshes -/

theorem State.enqueue_memWf {c : Copy} (h : s.memWf = true) : OptFstWf (s.enqueue c) := by
  unfold State.enqueue
  extract_lets _
  split
  · exact trivial
  · exact memWf_frame h

theorem State.queueCopy_memWf {d : SNum} {c : Copy} (h : s.memWf = true) : OutWf (s.queueCopy d c) := by
  unfold State.queueCopy
  split
  · exact waitOut_memWf h
  · next s₁ _ e => exact doneAt_memWf (ws_memWf ((congrArg OptFstWf e).mp (enqueue_memWf h)))

theorem State.copyStart_memWf {c : Copy} (h : s.memWf = true) : OptFstWf (s.copyStart c) := by
  unfold State.copyStart
  extract_lets _ _
  split
  · exact h
  · split
    · exact memWf_frame h
    · exact enqueue_memWf h

theorem State.copyGo_memWf {d : SNum} {c : Copy} (h : s.memWf = true) : OutWf (s.copyGo d c) := by
  unfold State.copyGo
  split
  · exact waitOut_memWf h
  · split
    · exact waitOut_memWf h
    · next s₁ _ e => exact doneAt_memWf (ws_memWf ((congrArg OptFstWf e).mp (copyStart_memWf h)))

theorem State.logCopy_memWf {f : CopyForm} {ops : List DWord} {va : Nat} (h : s.memWf = true) : OutWf (s.logCopy f ops va) := by
  unfold State.logCopy
  split
  · exact waitOut_memWf h
  · exact advance_memWf (logLanes_memWf ((updCur_memWf ..).trans (memWf_frame h)))

theorem State.copyIssue_memWf {f : CopyForm} {ops : List DWord} (h : s.memWf = true) : OutWf (s.copyIssue f ops) := by
  unfold State.copyIssue
  extract_lets extA plain extOk now ill late
  have hnow : now.MemWf := by
    unfold now
    split
    · exact paramBytes_memWf h
    · exact h
  clear_value ill late now
  split
  · exact trapAt_memWf h
  · refine checked_memWf h ?_
    split
    · exact checked_memWf h (copyGo_memWf h)
    · split
      · exact waitOut_memWf h
      · split
        · exact logCopy_memWf h
        · cases now with
          | wait t => exact waitOut_memWf hnow
          | trap t c i => exact trapAt_memWf hnow
          | got t ext => exact checked_memWf hnow (copyGo_memWf hnow)

theorem execCwait_memWf {a : SNum} {p : Bool} (h : s.memWf = true) : OutWf (execCwait a p s) := by
  unfold execCwait
  refine scalarOp_memWf (fun s h => ?_) h
  extract_lets mine logged
  clear_value mine logged
  split
  · exact blockedOut_memWf h
  · cases mine with
    | nil => exact doneAt_memWf (acquireAt_memWf _ _ _ h)
    | cons c _ => exact trapAt_memWf (dropCopy_memWf h)

theorem State.packetRead_memWf {p : Party} {c : Copy} {a : Int} {n : Nat} (h : s.memWf = true) : (s.packetRead p c a n).MemWf := by
  unfold State.packetRead
  extract_lets _ s₁
  have h₁ : s₁.memWf = true := memWf_foldl _ (fun _ _ h₁ => settleSector_memWf h₁) _ _ h
  split
  · split
    · exact trivial
    · exact haulCores_memWf h
  · split
    · exact memWf_frame h
    · split
      · exact trivial
      · exact trivial
      · split
        · exact h
        · extract_lets _
          split
          · exact trivial
          · split
            · exact trivial
            · split
              · exact drainEntry_memWf _ _ _ h
              · exact (haul_memWf ..).trans (sendPeer_memWf h)
      · split
        · exact trivial
        · exact (haul_memWf ..).trans (fillFor_memWf h₁)

theorem State.sendReplica_memWf {p : Party} {c : Copy} {d : BitVec 12} {va pa : Nat} {l : List CopyByte} (h : s.memWf = true) : (s.sendReplica p c d va pa l).MemWf := by
  unfold State.sendReplica
  split
  · exact dropWrite_memWf h
  · split
    · exact trivial
    · exact (haul_memWf ..).trans (memWf_foldl _ (fun _ _ h₁ => sendPeer_memWf h₁) _ _ h)

theorem State.storeHere_memWf {p : Party} {pa : Nat} {l : List CopyByte} (h : s.memWf = true) : (s.storeHere p pa l).memWf = true :=
  (haul_memWf ..).trans (memWf_foldl _ (fun _ _ h₁ => homeStore_memWf _ _ _ _ h₁) _ _ h)

theorem State.packetGlobal_memWf {p : Party} {c : Copy} {a : Nat} {l : List CopyByte} (h : s.memWf = true) : (s.packetGlobal p c a l).MemWf := by
  unfold State.packetGlobal
  split
  · exact trivial
  · exact trivial
  · extract_lets s₁
    have h₁ : s₁.memWf = true := memWf_foldl _ (fun _ _ h₁ => settleSector_memWf h₁) _ _ h
    split
    · split
      · exact h₁
      · exact trivial
    · exact sendReplica_memWf h₁
  · exact storeHere_memWf (fillFor_memWf (memWf_foldl _ (fun _ _ h₁ => settleSector_memWf h₁) _ _ h))

theorem State.settlePlace_memWf {core : Nat} {d : Option (BitVec 12)} {sec : Nat} (h : s.memWf = true) : (s.settlePlace core d sec).memWf = true :=
  memWf_frame (drainAll_memWf _ _ _ h)

theorem State.packetScratch_memWf {p : Party} {th off : Nat} {l : List CopyByte} (h : s.memWf = true) : (s.packetScratch p th off l).memWf = true :=
  haulCores_memWf (memWf_foldl _ (fun _ _ h₁ => scrPut_memWf h₁) _ _ h)

theorem State.updCopy_memWf {core id : Nat} {f : Copy → Copy} (h : s.memWf = true) : (s.updCopy core id f).memWf = true :=
  memWf_frame h

theorem State.failReplica_memWf {core id : Nat} {info : DWord} (h : s.memWf = true) : (s.failReplica core id info).memWf = true :=
  updCopy_memWf h

theorem State.localReplica_memWf {p : Party} {c : Copy} {d : BitVec 12} {pa : Nat} {l : List CopyByte}
    (h : s.memWf = true) : (s.localReplica p c d pa l).memWf = true := by
  unfold State.localReplica
  split
  · exact storeHere_memWf h
  · exact failReplica_memWf h

theorem State.packetPeers_memWf {p : Party} {c : Copy} {devs : List (BitVec 12)} {pa : Nat} {l : List CopyByte} (h : s.memWf = true) :
    (s.packetPeers p c devs pa l).MemWf := by
  unfold State.packetPeers
  extract_lets core place t
  have ht : t.memWf = true := memWf_foldl _ (fun _ _ h => memWf_foldl _ (fun _ _ h => settlePlace_memWf h) _ _ h) _ _ h
  clear_value t
  split
  · split
    · exact ht
    · trivial
  · refine List.foldlRecOn (motive := Packet.MemWf) _ _ ht fun r hr d _ => ?_
    split
    · next u ds =>
      have hu : u.memWf = true := hr
      split
      · exact localReplica_memWf hu
      · split
        · next v e eq => exact (congrArg Packet.MemWf eq).mp (sendReplica_memWf hu)
        · exact sendReplica_memWf hu
    · exact hr

theorem State.packetWrite_memWf {p : Party} {c : Copy} {a : Int} {l : List CopyByte} (h : s.memWf = true) : (s.packetWrite p c a l).MemWf := by
  unfold State.packetWrite
  split
  · exact memWf_frame h
  · exact memWf_foldl _ (fun _ _ h₁ => packetScratch_memWf h₁) _ _ h
  · exact packetPeers_memWf h
  · split
    · split
      · exact trivial
      · exact packetScratch_memWf h
    · exact packetGlobal_memWf h

theorem State.stopCopy_memWf {core : Nat} {c : Copy} {cause : Nat} {info : DWord} (h : s.memWf = true) : (s.stopCopy core c cause info).memWf = true := by
  unfold State.stopCopy
  extract_lets s₁ _
  have h₁ : s₁.memWf = true := updCopy_memWf h
  split
  · exact fatalEnd_memWf (noteCause_memWf h₁)
  · exact h₁

theorem State.copyAsk_memWf {core : Nat} {p : Party} {c : Copy} {va : Nat} {write : Bool} (h : s.memWf = true) : OutWf (s.copyAsk core p c va write) := by
  unfold State.copyAsk
  split
  · exact notNow_memWf h
  · exact updCopy_memWf (askEngine_memWf h)

theorem State.copyHeld_memWf {core : Nat} {c : Copy} (h : s.memWf = true) : OutWf (s.copyHeld core c) := by
  unfold State.copyHeld
  split
  · exact updCopy_memWf h
  · exact notNow_memWf h

theorem State.packet_memWf {core : Nat} {c : Copy} (h : s.memWf = true) : OutWf (s.packet core c) := by
  unfold State.packet
  extract_lets _ s₁ _
  have h₁ : s₁.memWf = true := memWf_frame h
  split
  · exact copyAsk_memWf h₁
  · exact copyHeld_memWf h₁
  · exact stopCopy_memWf h₁
  · next s₂ e => exact updCopy_memWf ((congrArg Packet.MemWf e).mp (packetRead_memWf h₁))
  · rename_i s₂ _ e
    have h₂ : s₂.memWf = true := (congrArg Packet.MemWf e).mp (packetRead_memWf h₁)
    split
    · exact copyAsk_memWf h₁
    · exact copyHeld_memWf h₁
    · exact stopCopy_memWf h₁
    · next s₃ e => exact (congrArg Packet.MemWf e).mp (packetWrite_memWf h₂)
    · next s₃ _ e => exact updCopy_memWf ((congrArg Packet.MemWf e).mp (packetWrite_memWf h₂))

theorem execCopyPacket_memWf {core i : Nat} (h : s.memWf = true) : OutWf (execCopyPacket core i s) := by
  unfold execCopyPacket
  split
  · exact notNow_memWf h
  · split
    · exact notNow_memWf h
    · exact packet_memWf h

theorem State.copyCount_memWf {core : Nat} {p : Party} {c : Copy} (h : s.memWf = true) : (s.copyCount core p c).MemWf := by
  unfold State.copyCount
  split
  · exact h
  · exact memWf_foldl _ (fun _ _ h₁ => haulCores_memWf (scrCount_memWf h₁)) _ _ h
  · split
    · exact trivial
    · exact trivial
    · exact (haul_memWf ..).trans (homeAdd_memWf _ _ _ (settleSector_memWf h))
    · split
      · exact trivial
      · split
        · exact trivial
        · exact updCopy_memWf ((haul_memWf ..).trans (sendAtom64_memWf h))

theorem execCopyCompletion_memWf {core i : Nat} (h : s.memWf = true) : OutWf (execCopyCompletion core i s) := by
  unfold execCopyCompletion
  split
  · exact notNow_memWf h
  · extract_lets _ s₁
    have h₁ : s₁.memWf = true := memWf_frame h
    split
    · exact notNow_memWf h
    · split
      · exact copyHeld_memWf h
      · split
        · exact copyAsk_memWf h₁
        · exact copyHeld_memWf h₁
        · exact stopCopy_memWf h₁
        · next s₂ e => exact (congrArg Packet.MemWf e).mp (copyCount_memWf h₁)
        · rename_i s₂ _ e
          have h₂ : s₂.memWf = true := (congrArg Packet.MemWf e).mp (copyCount_memWf h₁)
          show State.memWf _ = true
          split
          · exact updCopy_memWf h₂
          · exact dropCopy_memWf h₂

theorem execWload_memWf {d a : SNum} (h : s.memWf = true) : OutWf (execWload d a s) := by
  unfold execWload
  refine commandOp_memWf (fun t h₁ => ?_) h
  extract_lets _ _ _ _ _
  split
  · exact waitOut_memWf h₁
  · split
    · rename_i s₂ e
      have h₂ : s₂.memWf = true := (congrArg OutWf e).mp (queueCopy_memWf h₁)
      split
      · exact h₂
      · exact memWf_frame h₂
    · exact queueCopy_memWf h₁

theorem State.scrubBanks_memWf {core : Nat} {bank : Nat → Bool} (h : s.memWf = true) : (s.scrubBanks core bank).memWf = true :=
  memWf_foldl _ (fun _ _ h₁ => report_memWf _ _ _ _ _ _ _ _ _ (memWf_frame h₁)) _ _ (memWf_frame h)

theorem State.settleRfsh_memWf {core : Nat} (h : s.memWf = true) : (s.settleRfsh core).memWf = true := by
  unfold State.settleRfsh
  split
  · exact memWf_frame (scrubBanks_memWf h)
  · exact h

theorem execRfshComplete_memWf {core : Nat} (h : s.memWf = true) : OutWf (execRfshComplete core s) := by
  unfold execRfshComplete
  split
  · exact notNow_memWf h
  · exact settleRfsh_memWf h

theorem execAutomaticRefresh_memWf {core : Nat} {bank : Fin 16} (h : s.memWf = true) : OutWf (execAutomaticRefresh core bank s) := by
  unfold execAutomaticRefresh
  split
  · exact memWf_frame (scrubBanks_memWf h)
  · exact notNow_memWf h

/-! ### Lane memory words -/

theorem LaneRun.issued_memWf {x : LaneRun} {r : Issued} {f : Group → Group} (h : s.memWf = true) (hr : r.MemWf) : OutWf (x.issued s r f) := by
  unfold LaneRun.issued
  split
  · exact waitOut_memWf h
  · exact LaneRun.trap_memWf h
  · exact LaneRun.done_memWf hr

theorem laneLoad_memWf {i : Instr} {addr : LaneCtx → Nat → DWord} (h : s.memWf = true) : OutWf (laneLoad i addr s) := by
  unfold laneLoad
  refine laneGo_memWf h (fun x1 => ?_)
  split
  · exact LaneRun.done_memWf h
  · exact LaneRun.issued_memWf h (issue_memWf h)

theorem LaneRun.checked_memWf {x : LaneRun} {fault : Option (Nat × DWord × Mask)} {data : List (Vector LaneVal 32)} {go : State → Out}
    (h : s.memWf = true) (hgo : ∀ t, t.memWf = true → OutWf (go t)) : OutWf (x.checked s fault data go) := by
  unfold LaneRun.checked
  split
  · exact LaneRun.trap_memWf h
  · split
    split
    · exact LaneRun.trap_memWf h
    · refine hgo _ ?_
      split
      · exact (updCur_memWf ..).trans h
      · exact h

theorem laneStore_memWf {i : Instr} {addr : LaneCtx → Nat → DWord} (h : s.memWf = true) : OutWf (laneStore i addr s) := by
  unfold laneStore
  refine laneGo_memWf h (fun x1 => ?_)
  split
  · exact LaneRun.done_memWf h
  · exact LaneRun.checked_memWf h (fun _ h₁ => LaneRun.issued_memWf h (issue_memWf h₁))

theorem execLds_memWf {w : LaneWord} (h : s.memWf = true) : OutWf (execLds w s) := by
  unfold execLds
  refine laneGo_memWf h (fun x1 => ?_)
  split
  · exact LaneRun.done_memWf h
  · extract_lets _ _ s₁ _
    have h₁ : s₁.memWf = true := by
      unfold s₁
      split
      · exact acquireAt_memWf _ _ _ h
      · exact h
    split
    · exact LaneRun.trap_memWf h
    · split
      · exact waitOut_memWf h
      · exact LaneRun.done_memWf (late_memWf (haulWindow_memWf h₁))

theorem State.scratchPut_memWf {team a : Nat} {f : Nat → SecStore} (h : s.memWf = true) : (s.scratchPut team a f).memWf = true := by
  unfold State.scratchPut
  split
  · exact h
  · exact scrStore_memWf h

theorem execSts_memWf {w : LaneWord} (h : s.memWf = true) : OutWf (execSts w s) := by
  unfold execSts
  refine laneGo_memWf h (fun x1 => ?_)
  split
  · exact LaneRun.done_memWf h
  · extract_lets _ _ _ put
    have hput : ∀ t x2, t.memWf = true → (put t x2).memWf = true := fun _ _ h₁ => scratchPut_memWf h₁
    refine LaneRun.checked_memWf h (fun t h₁ => ?_)
    split
    · split
      · exact waitOut_memWf h
      · exact LaneRun.done_memWf (haulWindow_memWf (memWf_foldl _ (fun _ _ h₂ => hput _ _ h₂) _ _ h₁))
    · split
      · exact waitOut_memWf h
      · exact LaneRun.done_memWf (haulWindow_memWf (memWf_foldl _ (fun _ _ h₂ => hput _ _ h₂) _ _ h₁))

theorem laneAtomic_memWf {i : Instr} {kind : BitVec 4 → MemKind} (h : s.memWf = true) : OutWf (laneAtomic i kind s) := by
  unfold laneAtomic
  refine laneGo_memWf h (fun x1 => ?_)
  split
  · exact LaneRun.done_memWf h
  · exact LaneRun.issued_memWf h (issue_memWf h)

theorem execAtoms_memWf {w : LaneWord} (h : s.memWf = true) : OutWf (execAtoms w s) := by
  unfold execAtoms
  refine laneGo_memWf h fun x => ?_
  extract_lets _ q one
  have hone (acc : State × List (Nat × LaneVal)) (i : Nat) (hacc : acc.1.memWf = true) : (one acc i).1.memWf = true := by
    unfold one
    split
    next old new _ =>
    cases new with
    | none => exact hacc
    | some v => exact scratchPut_memWf hacc
  have hfold : ((lanesOf x.perf).foldl one (s, [])).1.memWf = true :=
    List.foldlRecOn (motive := fun acc => acc.1.memWf = true) _ _ h fun acc hacc i _ => hone acc i hacc
  clear_value one
  generalize (lanesOf x.perf).foldl one (s, []) = r at hfold ⊢
  obtain ⟨t, olds⟩ := r
  have ht : t.memWf = true := hfold
  have hdone (f : Outst → Outst) (g : Group → Group) :
      OutWf (x.done (((match q.acq with | some sc => t.acquireAt t.who sc.toNat | none => t).haulWindow q).late q x.dest x.origin x.check f) g) := by
    refine LaneRun.done_memWf (late_memWf (haulWindow_memWf ?_))
    split
    · exact acquireAt_memWf _ _ _ ht
    · exact ht
  split
  · exact LaneRun.done_memWf h
  · split
    · exact LaneRun.trap_memWf h
    · split <;> split
      · exact waitOut_memWf h
      · exact hdone _ _
      · exact waitOut_memWf h
      · exact hdone _ _

theorem State.refStore_memWf {p : Party} {th : DWord} {w : Nat} {r : DWord} (h : s.memWf = true) : (s.refStore p th w r).memWf = true := by
  unfold State.refStore
  extract_lets _ _ s₁
  have h₁ : s₁.memWf = true := settleSector_memWf (settleSector_memWf h)
  split
  · exact (haul_memWf ..).trans (homeStore_memWf _ _ _ _ (settleSector_memWf h₁))
  · exact putStore_memWf h₁
  · exact h₁

theorem State.dropHeaders_memWf {q : MemReq} (h : s.memWf = true) : (s.dropHeaders q).memWf = true :=
  (updGrp_memWf ..).trans h

theorem State.doRefs_memWf {q : MemReq} (h : s.memWf = true) : (s.doRefs q).1.memWf = true := by
  unfold State.doRefs
  refine List.foldlRecOn (motive := fun acc : State × List (Nat × RefResult) => acc.1.memWf = true) _ _ h fun acc hacc i _ => ?_
  show State.memWf (if _ then _ else _) = true
  split
  · exact refStore_memWf hacc
  · exact hacc

theorem State.fetchHeader_memWf {p : Party} {lane : Bool} {va : Nat} {d : BitVec 12} {pa : Nat} (h : s.memWf = true) : (s.fetchHeader p lane va d pa).memWf = true := by
  unfold State.fetchHeader
  extract_lets _
  split
  · exact h
  · split
    · exact drainEntry_memWf _ _ _ h
    · exact (haul_memWf ..).trans (sendPeer_memWf h)

theorem State.askHeader_memWf {q : MemReq} (h : s.memWf = true) : OptWf (s.askHeader q) := by
  unfold State.askHeader
  refine findSome_optWf (fun a => ?_) _
  split
  · split
    · exact fetchHeader_memWf h
    · exact trivial

theorem State.issueRef_memWf {q : MemReq} {rel : Option Nat} {origin : Origin} (h : s.memWf = true) : (s.issueRef q rel origin).MemWf := by
  unfold State.issueRef
  extract_lets _ _
  split
  · split
    · exact h
    · split
      · next s₁ e => exact (congrArg OptWf e).mp (askHeader_memWf h)
      · split
        · rename_i s₁ _ e
          have h₁ : s₁.memWf = true := (congrArg (·.1.memWf = true) e).mp (doRefs_memWf h)
          extract_lets s₂ s₃
          have h₂ : s₂.memWf = true := dropHeaders_memWf h₁
          have h₃ : s₃.memWf = true := (updGrp_memWf ..).trans (memWf_frame h₂)
          split
          · exact h₂
          · split
            · exact h₂
            · split
              · exact h
              · exact logLanes_memWf h₃
  · split
    · exact h
    · split
      · next s₁ e => exact (congrArg OptWf e).mp (askHeader_memWf h)
      · split
        · rename_i s₁ _ e
          have h₁ : s₁.memWf = true := (congrArg (·.1.memWf = true) e).mp (doRefs_memWf h)
          extract_lets s₂ s₃
          have h₂ : s₂.memWf = true := dropHeaders_memWf h₁
          have h₃ : s₃.memWf = true := (updGrp_memWf ..).trans (memWf_frame h₂)
          split
          · exact h₂
          · split
            · exact h₂
            · split
              · exact h
              · exact logLanes_memWf h₃

theorem execLaneStref_memWf {w : LaneWord} (h : s.memWf = true) : OutWf (execLaneStref w s) := by
  unfold execLaneStref
  refine laneGo_memWf h (fun x1 => ?_)
  extract_lets _ _ _ _ _
  split
  · next s₁ e => exact waitOut_memWf ((congrArg RefIssue.MemWf e).mp (issueRef_memWf h))
  · next s₁ _ _ _ _ e => exact laneTrapOut_memWf ((congrArg RefIssue.MemWf e).mp (issueRef_memWf h))
  · next s₁ e => exact LaneRun.done_memWf ((congrArg RefIssue.MemWf e).mp (issueRef_memWf h))

theorem State.askTile_memWf {q : MemReq} {lanes : Mask} {t : TileTry} (h : s.memWf = true) : OptFstWf (s.askTile q lanes t) := by
  unfold State.askTile
  refine findSome_optFstWf (fun a => ?_) _
  split
  · split
    · exact h
    · split
      · exact h
      · split
        · exact drainEntry_memWf _ _ _ h
        · exact (haul_memWf ..).trans (sendPeer_memWf h)
  · exact trivial

theorem TileTry.failed_memWf {t : TileTry} (h : s.memWf = true) : (t.failed s).MemWf := by
  unfold TileTry.failed
  extract_lets _
  split <;> exact h

theorem State.tilePhase_memWf {t : TileTry} (h : s.memWf = true) : (s.tilePhase t).MemWf := by
  unfold State.tilePhase
  extract_lets _ _ _ _ _ _ _ _ s₁ _
  have h₁ : s₁.memWf = true := by
    unfold s₁
    refine memWf_foldl _ (fun _ _ h => ?_) _ _ ?_
    · split
      · exact h
      · exact haulSector_memWf h
    · exact acquireAt_memWf _ _ _ h
  split
  · next s₂ _ e => exact (congrArg OptFstWf e).mp (askTile_memWf h)
  · next s₂ e => exact (congrArg OptFstWf e).mp (askTile_memWf h)
  · split
    · exact h₁
    · split
      · split
        · exact TileTry.failed_memWf h₁
        · exact h₁
      · exact h₁
      · split
        · exact h₁
        · exact TileTry.failed_memWf h₁

theorem State.tileLoop_memWf {t : TileTry} {n : Nat} (h : s.memWf = true) : (s.tileLoop t n).MemWf := by
  induction n generalizing s t with
  | zero => exact h
  | succ n ih =>
    have hp : (s.tilePhase t).MemWf := tilePhase_memWf h
    unfold State.tileLoop
    split
    · next u v e => exact ih ((congrArg TileStep.MemWf e).mp hp)
    · exact hp

theorem State.tileTurn_memWf {t : TileTry} (h : s.memWf = true) : (s.tileTurn t).memWf = true := by
  unfold State.tileTurn
  extract_lets _ put
  have hput : ∀ t x2, t.memWf = true → (put t x2).memWf = true := fun _ _ h₁ => (updGrp_memWf ..).trans h₁
  split
  · next s₁ _ e => exact hput _ _ ((congrArg TileStep.MemWf e).mp (tileLoop_memWf h))
  · next s₁ _ e => exact hput _ _ ((congrArg TileStep.MemWf e).mp (tileLoop_memWf h))
  · next s₁ _ e => exact (updGrp_memWf ..).trans (hput _ _ ((congrArg TileStep.MemWf e).mp (tileLoop_memWf h)))
  · next s₁ _ _ e => exact memWf_frame ((updGrp_memWf ..).trans (hput _ _ ((congrArg TileStep.MemWf e).mp (tileLoop_memWf h))))

theorem execTlda_memWf {w : LaneWord} (h : s.memWf = true) : OutWf (execTlda w s) := by
  unfold execTlda
  refine laneGo_memWf h (fun x1 => ?_)
  split
  · exact LaneRun.done_memWf h
  · extract_lets _ _ _ _ _ _ _ _ _ _ _ s₁
    have h₁ : s₁.memWf = true := (updCur_memWf ..).trans (memWf_frame h)
    split
    · exact LaneRun.trap_memWf h
    · split
      · exact waitOut_memWf h
      · exact LaneRun.done_memWf (logLanes_memWf h₁)

/-! ### The matrix sequencer -/

theorem State.queueCmd_memWf {slot : Nat} {kind : SeqKind} (h : s.memWf = true) : OutWf (s.queueCmd slot kind) := by
  unfold State.queueCmd
  split
  · exact waitOut_memWf h
  · exact doneAt_memWf (memWf_frame h)

theorem execMgang_memWf {a b : SNum} (h : s.memWf = true) : OutWf (execMgang a b s) := by
  unfold execMgang
  refine commandOp_memWf (fun t h₁ => ?_) h
  extract_lets _ _ _ _ _ _ _ s₂
  have h₂ : s₂.memWf = true := memWf_frame h₁
  split
  · exact doneAt_memWf h₁
  · split
    · exact waitOut_memWf h₁
    · exact doneAt_memWf (memWf_foldl _ (fun _ _ h₃ => memWf_frame h₃) _ _ h₂)

theorem State.watch_memWf {th : Nat} {gid : Fin 16} (h : s.memWf = true) : (s.watch th gid).memWf = true :=
  (updGrp_memWf ..).trans (memWf_frame h)

theorem execMready_memWf (h : s.memWf = true) : OutWf (execMready s) := by
  unfold execMready
  refine scalarGate_memWf h ?_
  split
  · exact waitOut_memWf h
  · split
    · exact doneAt_memWf h
    · exact doneAt_memWf ((updCur_memWf ..).trans (watch_memWf h))

theorem execMreadyGang_memWf (h : s.memWf = true) : OutWf (execMreadyGang s) := by
  unfold execMreadyGang
  extract_lets t
  have ht : t.memWf = true := watch_memWf h
  clear_value t
  refine scalarGate_memWf h ?_
  split
  · exact waitOut_memWf h
  · split
    · exact doneAt_memWf h
    · exact doneAt_memWf (memWf_frame ht)

theorem State.freeRows_memWf {core ps : Nat} {rows : List Nat} {n : Nat} (h : s.memWf = true) : (s.freeRows core ps rows n).memWf = true :=
  memWf_frame h

theorem State.stepRows_memWf {q : SeqCmd} {p : LoopParams} {see : Nat → Sector} {t : Nat} (h : s.memWf = true) : (s.stepRows q p see t).memWf = true := by
  unfold State.stepRows
  extract_lets _ _ _ _ _ _ _ _ row
  have hrow : ∀ t x2, t.memWf = true → (row t x2).memWf = true := by
    intro t i h₁
    unfold row
    extract_lets _ _ _ _ _ _ _ _
    split
    · exact freeRows_memWf h₁
    · exact memWf_frame h₁
  exact memWf_foldl _ (fun _ _ h₁ => hrow _ _ h₁) _ _ h

theorem State.setCmd_memWf {core : Nat} {q : SeqCmd} (h : s.memWf = true) : (s.setCmd core q).memWf = true :=
  memWf_frame h

theorem State.dropCmd_memWf {core : Nat} {q : SeqCmd} (h : s.memWf = true) : (s.dropCmd core q).memWf = true :=
  memWf_frame h

theorem State.updIssuer_memWf {q : SeqCmd} {f : Group → Group} (h : s.memWf = true) : (s.updIssuer q f).memWf = true :=
  (updGrp_memWf ..).trans h

theorem State.endCmd_memWf {core : Nat} {q : SeqCmd} {fault : Option (Nat × DWord)} (h : s.memWf = true) : (s.endCmd core q fault).memWf = true := by
  unfold State.endCmd
  extract_lets s₁ _ dead s₂ _ _
  have hdead : ∀ t, t.memWf = true → (dead t).memWf = true := by
    intro t h₁
    unfold dead
    split
    · split
      · exact fatalEnd_memWf (noteCause_memWf h₁)
      · exact h₁
    · exact h₁
  have h₁ : s₁.memWf = true := dropCmd_memWf h
  have h₂ : s₂.memWf = true := by
    unfold s₂
    split
    · exact h₁
    · exact memWf_frame h₁
  refine hdead _ ?_
  split
  · exact memWf_frame h₂
  · split
    · exact h₂
    · exact updIssuer_memWf h₂

theorem State.countExpert_memWf {q : SeqCmd} {p : LoopParams} (h : s.memWf = true) : (s.countExpert q p).memWf = true := by
  unfold State.countExpert
  split
  · exact h
  · exact memWf_frame h

theorem State.streamRead_memWf {p : Party} {core : Nat} {l : List Nat} (h : s.memWf = true) : (s.streamRead p core l).MemWf := by
  induction l generalizing s with
  | nil => exact h
  | cons sec rest ih =>
    unfold State.streamRead
    extract_lets got
    have hgot (t : State) (x : Sector) (h : t.memWf = true) : (got t x).MemWf := by
      show Stream'.MemWf (match t.streamRead p core rest with | .ok t see => _ | r => r)
      split
      · next e => exact (congrArg Stream'.MemWf e).mp (ih h)
      · exact ih h
    clear_value got
    split
    · trivial
    · trivial
    · split
      · exact hgot _ _ (bumpBy_memWf h)
      · split
        · exact hgot _ _ h
        · split
          · trivial
          · split
            · trivial
            · split
              · exact drainEntry_memWf _ _ _ h
              · exact (haul_memWf ..).trans (sendPeer_memWf h)
    · extract_lets t
      have ht : t.memWf = true := by
        show (State.haulSector _ _ _ _).memWf = true
        exact haulSector_memWf (fillFor_memWf (settleSector_memWf h))
      clear_value t
      split
      · exact hgot _ _ (bumpBy_memWf ht)
      · split
        · trivial
        · exact hgot _ _ ht

theorem State.performStep_memWf {core : Nat} {q : SeqCmd} {p : LoopParams} {see : Nat → Sector} (h : s.memWf = true) : (s.performStep core q p see).memWf = true := by
  unfold State.performStep
  extract_lets _ s₁ _
  have h₁ : s₁.memWf = true := countExpert_memWf (stepRows_memWf h)
  split
  · exact endCmd_memWf h₁
  · exact setCmd_memWf h₁

theorem State.stallStep_memWf {core : Nat} {q : SeqCmd} {late busy : Bool} (h : s.memWf = true) : (s.stallStep core q late busy).memWf = true := by
  unfold State.stallStep
  extract_lets _ s₁
  have h₁ : s₁.memWf = true := by
    unfold s₁
    split
    · split
      · exact h
      · exact updIssuer_memWf h
    · exact h
  exact setCmd_memWf h₁

theorem execKStep_memWf {core : Nat} (h : s.memWf = true) : OutWf (execKStep core s) := by
  unfold execKStep
  split
  · exact notNow_memWf h
  · split
    · exact notNow_memWf h
    · split
      · exact notNow_memWf h
      · extract_lets _ _ _ _
        split
        · exact stallStep_memWf h
        · split
          · exact notNow_memWf h
          · split
            · exact endCmd_memWf h
            · split
              · split
                · exact notNow_memWf h
                · exact askEngine_memWf h
              · exact notNow_memWf h
              · next s₁ e => exact (congrArg Stream'.MemWf e).mp (streamRead_memWf (memWf_frame h))
              · exact endCmd_memWf h
              · next s₁ _ e => exact performStep_memWf ((congrArg Stream'.MemWf e).mp (streamRead_memWf (memWf_frame h)))

theorem execCb3TableArrival_memWf {core : Nat} (h : s.memWf = true) : OutWf (execCb3TableArrival core s) := by
  unfold execCb3TableArrival
  split
  · exact notNow_memWf h
  · split
    · exact notNow_memWf h
    · split
      · exact notNow_memWf h
      · extract_lets _ _
        split
        · exact notNow_memWf h
        · split
          · split
            · exact notNow_memWf h
            · exact askEngine_memWf h
          · exact notNow_memWf h
          · next s₁ e => exact (congrArg Stream'.MemWf e).mp (streamRead_memWf (memWf_frame h))
          · exact endCmd_memWf h
          · rename_i s₁ _ e
            have h₁ : s₁.memWf = true := (congrArg Stream'.MemWf e).mp (streamRead_memWf (memWf_frame h))
            extract_lets _ s₂
            have h₂ : s₂.memWf = true := by
              unfold s₂
              split
              · exact h₁
              · exact updIssuer_memWf h₁
            exact setCmd_memWf h₂

theorem State.startLoop_memWf {core : Nat} {q : SeqCmd} {p : LoopParams} {snaps : KMap Touched} (h : s.memWf = true) : (s.startLoop core q p snaps).memWf = true := by
  unfold State.startLoop
  extract_lets s₁
  have h₁ : s₁.memWf = true := by
    unfold s₁
    split
    · exact freeRows_memWf h
    · exact h
  exact setCmd_memWf h₁

theorem State.zeroSlot_memWf {core ps : Nat} (h : s.memWf = true) : (s.zeroSlot core ps).memWf = true :=
  memWf_frame h

theorem State.storeRow_memWf {q : SeqCmd} {o : MoutParams} {a : Int} {l : List LaneVal} (h : s.memWf = true) : (s.storeRow q o a l).MemWf := by
  unfold State.storeRow
  extract_lets _ _ _
  split
  · split
    · exact trivial
    · exact haulCores_memWf (memWf_foldl _ (fun _ _ h₁ => scrPut_memWf h₁) _ _ h)
  · split
    · exact trivial
    · split
      · exact trivial
      · split
        · exact trivial
        · split
          · exact trivial
          · show State.memWf _ = true
            refine memWf_foldl _ (fun _ _ h => ?_) _ _ ?_
            · split
              · extract_lets s₁
                have h₁ : s₁.memWf = true := fillFor_memWf h
                split
                · split
                  · exact haulSector_memWf (homeStore_memWf _ _ _ _ (settleSector_memWf h₁))
                  · exact putStore_memWf h₁
                · exact putStore_memWf h₁
                · exact h₁
            · exact h

theorem State.lockTile_memWf {core : Nat} {q : SeqCmd} {o : MoutParams} (h : s.memWf = true) : (s.lockTile core q o).MemWf := by
  unfold State.lockTile
  extract_lets _ _
  split
  · exact trivial
  · split
    · exact trivial
    · exact trivial
    · extract_lets s₁ _
      have h₁ : s₁.memWf = true := haulSector_memWf (settleSector_memWf h)
      split
      · exact h₁
      · exact homeWrite_memWf _ _ _ _ h₁
    · split
      · exact trivial
      · split
        · exact trivial
        · split
          · exact drainEntry_memWf _ _ _ h
          · exact (haul_memWf ..).trans (sendPeer_memWf h)

theorem State.unlockTile_memWf {core : Nat} {q : SeqCmd} {o : MoutParams} {odd : DWord} (h : s.memWf = true) : (s.unlockTile core q o odd).MemWf := by
  unfold State.unlockTile
  extract_lets _ _ _ _
  split
  · split
    · exact drainAll_memWf _ _ _ h
    · exact trivial
  · split
    · exact trivial
    · split
      · exact haulSector_memWf (homeWrite_memWf _ _ _ _ h)
      · split
        · exact dropWrite_memWf h
        · split
          · exact trivial
          · exact (haul_memWf ..).trans (sendPeer_memWf h)
      · exact trivial
      · exact trivial

theorem State.askRows_memWf {core : Nat} {q : SeqCmd} {va : Nat} (h : s.memWf = true) : (s.askRows core q va).memWf = true := by
  unfold State.askRows
  extract_lets _ s₁ _
  have h₁ : s₁.memWf = true := memWf_frame h
  split
  · exact h
  · split
    · exact h₁
    · exact logLanes_memWf h₁

theorem State.pumpRows_memWf {core : Nat} {q : SeqCmd} {o : MoutParams} {n : Nat} (h : s.memWf = true) : (s.pumpRows core q o n).memWf = true := by
  induction n generalizing s with
  | zero =>
    unfold State.pumpRows
    split
    · exact endCmd_memWf h
    · next odd _ =>
      have hu : (s.unlockTile core q o odd).MemWf := unlockTile_memWf h
      split
      · exact setCmd_memWf (askRows_memWf h)
      · exact setCmd_memWf h
      · next t e => exact setCmd_memWf ((congrArg Packet.MemWf e).mp hu)
      · exact endCmd_memWf h
      · next t _ e => exact endCmd_memWf ((congrArg Packet.MemWf e).mp hu)
  | succ n ih =>
    unfold State.pumpRows
    extract_lets i
    have hr : (s.storeRow q o (o.dadr.toNat + i * o.rstr) ((q.tile[i]?).getD [])).MemWf := storeRow_memWf h
    split
    · exact setCmd_memWf (askRows_memWf h)
    · exact setCmd_memWf h
    · next t e => exact setCmd_memWf ((congrArg Packet.MemWf e).mp hr)
    · exact endCmd_memWf h
    · next t _ e => exact ih ((congrArg Packet.MemWf e).mp hr)

theorem State.pumpMout_memWf {core : Nat} {q : SeqCmd} {o : MoutParams} (h : s.memWf = true) : (s.pumpMout core q o).memWf = true := by
  unfold State.pumpMout
  extract_lets s₁
  have h₁ : s₁.memWf = true := memWf_frame h
  split
  · split
    · exact askRows_memWf h₁
    · exact h₁
    · next s₂ e => exact (congrArg Packet.MemWf e).mp (lockTile_memWf h₁)
    · exact endCmd_memWf h₁
    · next s₂ _ e => exact pumpRows_memWf (setCmd_memWf ((congrArg Packet.MemWf e).mp (lockTile_memWf h₁)))
    · next s₂ e => exact (congrArg Packet.MemWf e).mp (lockTile_memWf h₁)
  · exact pumpRows_memWf h₁

theorem State.pumpMouts_memWf {core : Nat} (h : s.memWf = true) : (s.pumpMouts core).memWf = true := by
  unfold State.pumpMouts
  refine memWf_foldl _ (fun _ _ h => ?_) _ _ ?_
  · split
    · split
      · exact pumpMout_memWf h
      · exact h
  · exact h

theorem State.startMout_memWf {core : Nat} {q : SeqCmd} {o : MoutParams} (h : s.memWf = true) : (s.startMout core q o).memWf = true := by
  unfold State.startMout
  extract_lets _ _ _ _
  split
  · split
    · exact endCmd_memWf h
    · exact pumpMout_memWf (setCmd_memWf (updIssuer_memWf h))
  · exact pumpMout_memWf (setCmd_memWf h)

theorem execSequencerCommandStart_memWf {core : Nat} (h : s.memWf = true) : OutWf (execSequencerCommandStart core s) := by
  unfold execSequencerCommandStart
  split
  · exact notNow_memWf h
  · split
    · exact notNow_memWf h
    · split
      · exact endCmd_memWf (zeroSlot_memWf h)
      · exact startMout_memWf h
      · exact notNow_memWf h
      · split
        · exact startLoop_memWf h
        · split
          · exact notNow_memWf h
          · extract_lets s₁ _
            have h₁ : s₁.memWf = true := (updGrp_memWf ..).trans h
            show State.memWf _ = true
            split
            · exact startLoop_memWf h₁
            · exact setCmd_memWf h₁

theorem execGangShareStart_memWf {core : Nat} (h : s.memWf = true) : OutWf (execGangShareStart core s) := by
  unfold execGangShareStart
  split
  · exact notNow_memWf h
  · split
    · split
      · exact notNow_memWf h
      · extract_lets _ s₁
        have h₁ : s₁.memWf = true := memWf_frame h
        split
        · exact endCmd_memWf h₁
        · exact startLoop_memWf h₁
    · exact notNow_memWf h

theorem execGangCompletion_memWf {gang : Nat} (h : s.memWf = true) : OutWf (execGangCompletion gang s) := by
  unfold execGangCompletion
  split
  · exact notNow_memWf h
  · split
    · exact notNow_memWf h
    · extract_lets _ s₁ s₂
      have h₁ : s₁.memWf = true := memWf_foldl _ (fun _ _ h₁ => haulCores_memWf (scrCount_memWf h₁)) _ _ h
      have h₂ : s₂.memWf = true := by
        unfold s₂
        split
        · exact h₁
        · exact (updGrp_memWf ..).trans h₁
      exact memWf_frame h₂

theorem execMoutAonRetry_memWf {core : Nat} (h : s.memWf = true) : OutWf (execMoutAonRetry core s) := by
  unfold execMoutAonRetry
  split
  · exact notNow_memWf h
  · exact pumpMout_memWf h

theorem State.unwatch_memWf {th : Nat} (h : s.memWf = true) : (s.unwatch th).memWf = true :=
  memWf_frame h

theorem State.settleSlots_memWf {slot : Option Nat} (h : s.memWf = true) : (s.settleSlots slot).memWf = true := by
  unfold State.settleSlots
  extract_lets _
  refine memWf_foldl _ (fun _ _ h => ?_) _ _ ?_
  · extract_lets _ _ s₁
    have h₁ : s₁.memWf = true := by
      unfold s₁
      refine memWf_foldl _ (fun _ _ h => ?_) _ _ ?_
      · split
        · exact h
        · exact freeRows_memWf h
      · exact h
    split
    · exact h
    · exact unwatch_memWf (memWf_frame h₁)
  · exact unwatch_memWf h

theorem mwaitOn_memWf {slot : Option Nat} (h : s.memWf = true) : OutWf (mwaitOn slot s) := by
  unfold mwaitOn
  split
  · exact blockedOut_memWf h
  · extract_lets on first
    clear_value first
    split
    · exact trapAt_memWf ((updCur_memWf ..).trans h)
    · exact doneAt_memWf (settleSlots_memWf h)

theorem execMldc_memWf {a : SNum} (h : s.memWf = true) : OutWf (execMldc a s) := by
  unfold execMldc
  refine commandOp_memWf (fun t h₁ => ?_) h
  extract_lets _ _ _ _ _ _ _ _ _ _ _ _ s₂
  have h₂ : s₂.memWf = true := late_memWf h₁
  split
  · exact blockedOut_memWf h₁
  · exact doneAt_memWf (memWf_frame ((updCur_memWf ..).trans h₂))

/-! ### Objects and their walkers -/

theorem execMkobj_memWf {a : SNum} (h : s.memWf = true) : OutWf (execMkobj a s) := by
  unfold execMkobj
  refine commandOp_memWf (fun s h => ?_) h
  extract_lets hdr n parts place places inside pa _ st t u
  have ht : t.memWf = true := memWf_foldl _ (fun _ _ h => fillFor_memWf h) _ _ h
  have hu : u.memWf = true := by
    obtain ⟨hm, hd, hi⟩ := t.memWf_iff.1 ht
    refine (State.memWf_iff _).2 ⟨hm, ?_, hi⟩
    exact List.foldlRecOn (motive := fun m => KMap.wf 0 m = true) _ _ hd fun m hm _ _ => clearT_wf _ _ hm
  clear_value u inside
  split
  · exact trapAt_memWf h
  · split
    · exact waitOut_memWf h
    · split
      · exact trapAt_memWf ((updCur_memWf ..).trans h)
      · exact waitOut_memWf (askPage_memWf h)
      · split
        · exact trapAt_memWf h
        · split
          · exact waitOut_memWf h
          · exact doneAt_memWf (putStore_memWf hu)

theorem execStref_memWf {a : SNum} {rel : Bool} {sc : BitVec 2} (h : s.memWf = true) : OutWf (execStref a rel sc s) := by
  unfold execStref
  refine commandOp_memWf (fun t h₁ => ?_) h
  split
  · next s₂ e => exact waitOut_memWf ((congrArg RefIssue.MemWf e).mp (issueRef_memWf h₁))
  · next s₂ _ _ _ _ e => exact trapAt_memWf ((congrArg RefIssue.MemWf e).mp (issueRef_memWf h₁))
  · next s₂ e => exact doneAt_memWf ((congrArg RefIssue.MemWf e).mp (issueRef_memWf h₁))

theorem execLdhdr_memWf {d a : SNum} (h : s.memWf = true) : OutWf (execLdhdr d a s) := by
  unfold execLdhdr
  refine commandOp_memWf (fun t h₁ => ?_) h
  extract_lets _ _ s₂
  have h₂ : s₂.memWf = true := (updCur_memWf ..).trans (fillFor_memWf (settleSector_memWf h₁))
  split
  · exact waitOut_memWf h₁
  · split
    · split
      · exact trapAt_memWf ((updCur_memWf ..).trans h₁)
      · exact waitOut_memWf (askPage_memWf h₁)
    · exact trapAt_memWf h₁
    · exact waitOut_memWf (fetchHeader_memWf h₁)
    · exact trapAt_memWf h₁
    · exact trapAt_memWf ((updCur_memWf ..).trans h₁)
    · exact lateResult_memWf (acquireAt_memWf _ _ _ h₂)

theorem execPub_memWf {d a : SNum} (h : s.memWf = true) : OutWf (execPub d a s) := by
  unfold execPub
  refine commandOp_memWf (fun s h => ?_) h
  extract_lets sg ver w bits t seq go
  have ht : t.memWf = true := by
    unfold t
    split
    · exact h
    · exact (updCur_memWf ..).trans h
  clear_value t bits
  have hgo : OutWf go := by
    unfold go
    split
    · exact waitOut_memWf h
    · split
      next u id e =>
      have hu : u.memWf = true := (congrArg (·.1.memWf = true) e).mp (awaitScalar_memWf ht)
      extract_lets walk _ u'
      have hu' : u'.memWf = true := memWf_frame hu
      clear_value u'
      split
      · exact scalarTrap_memWf hu'
      · exact advance_memWf hu'
  clear_value go
  split
  · exact hgo
  · split
    · split
      · exact trapAt_memWf ((updCur_memWf ..).trans h)
      · exact waitOut_memWf (askPage_memWf h)
    · split
      · exact hgo
      · exact trapAt_memWf h
    · exact trapAt_memWf h

theorem State.setWalk_memWf {w : Nat} {w1 : Walk} (h : s.memWf = true) : (s.setWalk w w1).memWf = true :=
  memWf_frame h

theorem State.failWalk_memWf {w : Nat} {x : Walk} {poison : Option Nat} (h : s.memWf = true) : (s.failWalk w x poison).memWf = true := by
  unfold State.failWalk
  extract_lets t
  have ht : t.memWf = true := by
    unfold t
    cases poison with
    | none => exact h
    | some pa => exact reportMemErr_memWf h
  exact setWalk_memWf ht

theorem State.drainPlace_memWf {core sec : Nat} (h : s.memWf = true) : (s.drainPlace core sec).memWf = true :=
  drainAll_memWf _ _ _ h

theorem State.scanObject_memWf {w : Nat} {x : Walk} {o : DWord} {len n : Nat} (h : s.memWf = true) : (s.scanObject w x o len n).memWf = true := by
  induction n generalizing s x with
  | zero => exact setWalk_memWf h
  | succ k ih =>
    unfold State.scanObject
    extract_lets i va
    split
    · exact setWalk_memWf (askEngine_memWf h)
    · split
      · exact failWalk_memWf h
      · exact ih (carry_memWf (drainPlace_memWf h))
    · exact ih h

theorem State.stampObject_memWf {w : Nat} {w1 : Walk} {o : DWord} {rest : List DWord} (h : s.memWf = true) : (s.stampObject w w1 o rest).memWf = true := by
  unfold State.stampObject
  extract_lets _
  split
  · exact setWalk_memWf h
  · split
    · exact askEngine_memWf h
    · split
      · exact failWalk_memWf h
      · extract_lets s₁ _ _ _ _ _ s₂
        have h₁ : s₁.memWf = true := carry_memWf (settlePlace_memWf h)
        have h₂ : s₂.memWf = true := homeStore_memWf _ _ _ _ h₁
        split
        · exact setWalk_memWf h₁
        · split
          · exact setWalk_memWf h₁
          · exact scanObject_memWf h₂
    · exact setWalk_memWf h

theorem execReachWalkStep_memWf {w : Fin 7} {i : Nat} (h : s.memWf = true) : OutWf (execReachWalkStep w i s) := by
  unfold execReachWalkStep
  split
  · exact notNow_memWf h
  · split
    · exact notNow_memWf h
    · split
      · exact scanObject_memWf h
      · exact stampObject_memWf h
      · exact setWalk_memWf h

theorem State.walkResult_memWf {w : Nat} {w1 : Walk} (h : s.memWf = true) : (s.walkResult w w1).memWf = true := by
  unfold State.walkResult
  extract_lets _ _ s₁ s₂
  have h₁ : s₁.memWf = true := memWf_frame h
  have h₂ : s₂.memWf = true := (updGrp_memWf ..).trans h₁
  split
  · exact (updGrp_memWf ..).trans h₂
  · exact h₂

theorem State.storeRoot_memWf {w : Nat} {w1 : Walk} (h : s.memWf = true) : (s.storeRoot w w1).memWf = true := by
  unfold State.storeRoot
  split
  · exact setWalk_memWf (carry_memWf (homeWrite_memWf _ _ _ _ h))
  · split
    · exact setWalk_memWf (dropWrite_memWf h)
    · exact setWalk_memWf (sendPeer_memWf h)
  · exact setWalk_memWf h

theorem execReachWalkEnd_memWf {w : Fin 7} {i : Nat} (h : s.memWf = true) : OutWf (execReachWalkEnd w i s) := by
  unfold execReachWalkEnd
  split
  · exact notNow_memWf h
  · split
    · exact walkResult_memWf h
    · split
      · exact notNow_memWf h
      · extract_lets _ _ ask s₁ s₂
        have hask : ∀ x, OutWf (ask x) := by
          intro a
          unfold ask
          split
          · exact notNow_memWf h
          · exact askEngine_memWf h
        have h₁ : s₁.memWf = true := by
          unfold s₁
          split
          · exact h
          · exact storeRoot_memWf h
        have h₂ : s₂.memWf = true := by
          unfold s₂
          split
          · split
            · exact homeAdd_memWf _ _ _ h₁
            · exact h₁
          · exact h₁
        split
        · exact hask _
        · split
          · exact hask _
          · split
            · exact notNow_memWf h
            · split
              · exact h₁
              · exact walkResult_memWf h₂

/-! ### Launches and joins -/

theorem State.handOut_memWf {gh : Nat} (h : s.memWf = true) : (s.handOut gh).memWf = true :=
  memWf_frame h

theorem State.newGrid_memWf {g : Grid} (h : s.memWf = true) : (s.newGrid g).1.memWf = true :=
  memWf_frame h

theorem State.takeGrid_memWf {g : Grid} (h : s.memWf = true) : (s.takeGrid g).memWf = true := by
  unfold State.takeGrid
  extract_lets _
  split
  · rename_i s₁ _ e
    have h₁ : s₁.memWf = true := (congrArg (·.1.memWf = true) e).mp (newGrid_memWf (memWf_frame h))
    extract_lets _
    split
    · exact handOut_memWf h₁
    · exact memWf_frame h₁

theorem State.refuseStalled_memWf {ctx : BitVec 8} (h : s.memWf = true) : (s.refuseStalled ctx).memWf = true := by
  unfold State.refuseStalled
  refine memWf_foldl _ (fun _ _ h => ?_) _ _ ?_
  · split
    · exact newGrid_memWf ((updGrp_memWf ..).trans h)
    · exact h
  · exact h

theorem State.homeSectors_memWf {p : Party} {l : List Nat} (h : s.memWf = true) : (s.homeSectors p l).MemWf := by
  induction l generalizing s with
  | nil => exact h
  | cons sec rest ih =>
    unfold State.homeSectors
    extract_lets one
    have hone : one.MemWf := by
      unfold one
      split
      · split
        · exact h
        · exact carry_memWf (fillFor_memWf h)
      · exact paramSector_memWf h
    clear_value one
    split
    · exact hone
    · exact hone
    · next t _ =>
      have ht : (t.homeSectors p rest).MemWf := ih hone
      split
      · next u _ e => exact (congrArg ParamRead.MemWf e).mp ht
      · exact ht

theorem launchRecord_memWf {a : DWord} {bs : List Byte} (h : s.memWf = true) : OutWf (launchRecord s a bs) := by
  unfold launchRecord
  extract_lets _ _ done refuse s₁ _
  have hdone : ∀ t, t.memWf = true → OutWf (done t) := fun _ h₁ => advance_memWf ((updCur_memWf ..).trans h₁)
  have hrefuse : ∀ t x2, t.memWf = true → OutWf (refuse t x2) := fun _ _ h₁ => hdone _ (newGrid_memWf h₁)
  have h₁ : s₁.memWf = true := (updCur_memWf ..).trans h
  split
  · split
    · exact memWf_frame h₁
    · exact hrefuse _ _ h
  · split
    · exact memWf_frame h₁
    · split
      · split
        · exact hrefuse _ _ ((updCur_memWf ..).trans h)
        · exact waitOut_memWf (askPage_memWf h)
      · exact hdone _ (takeGrid_memWf h)

theorem execLaunch_memWf {a : SNum} (h : s.memWf = true) : OutWf (execLaunch a s) := by
  unfold execLaunch
  refine commandOp_memWf (fun t h₁ => ?_) h
  split
  · exact waitOut_memWf h₁
  · split
    · next s₂ e => exact waitOut_memWf ((congrArg ParamRead.MemWf e).mp (homeSectors_memWf h₁))
    · next s₂ _ _ e => exact trapAt_memWf ((congrArg ParamRead.MemWf e).mp (homeSectors_memWf h₁))
    · next s₂ _ e => exact launchRecord_memWf ((congrArg ParamRead.MemWf e).mp (homeSectors_memWf h₁))

theorem joinLoad_memWf {d : SNum} {stat : DWord} (h : s.memWf = true) : OutWf (joinLoad d stat s) :=
  scalarLoad_memWf ((updCur_memWf ..).trans h)

/-! ### The host's registers -/

theorem State.popHost_memWf (h : s.memWf = true) : s.popHost.memWf = true :=
  memWf_frame h

theorem State.serr_memWf {n : Nat} (h : s.memWf = true) : (s.serr n).memWf = true :=
  memWf_frame h

theorem State.ctxErr_memWf {n e : Nat} (h : s.memWf = true) : (s.ctxErr n e).memWf = true :=
  memWf_frame h

theorem State.hostEvent_memWf {k : RegEvent} (h : s.memWf = true) : OptSndWf (s.hostEvent k) := by
  unfold State.hostEvent
  split
  · split
    · exact memWf_frame h
    · exact trivial
  · exact trivial

theorem onHost_memWf {k : RegEvent} {f : DWord → State → Out} (hf : ∀ x1 t, t.memWf = true → OutWf (f x1 t)) (h : s.memWf = true) : OutWf (onHost k f s) := by
  unfold onHost
  split
  · next s₁ e => exact hf _ _ ((congrArg OptSndWf e).mp (hostEvent_memWf h))
  · exact notNow_memWf h

theorem State.mgmtBlocked_memWf (h : s.memWf = true) : s.mgmtBlocked.memWf = true :=
  report_memWf _ _ _ _ _ _ _ _ _ h

theorem State.mgmtRead_memWf {t : MgmtTarget} {a n : Nat} (h : s.memWf = true) : (s.mgmtRead t a n).memWf = true := by
  unfold State.mgmtRead
  extract_lets give
  have hgive : ∀ t x2, t.memWf = true → (give t x2).memWf = true := fun _ _ h₁ => memWf_frame h₁
  split
  · exact hgive _ _ (mgmtBlocked_memWf h)
  · split
    · exact hgive _ _ h
    · exact hgive _ _ h
    · exact hgive _ _ h
    · refine bumpBy_memWf (hgive _ _ h)

theorem State.mgmtWrite_memWf {t : MgmtTarget} {a : Nat} {data : List Byte} (h : s.memWf = true) : (s.mgmtWrite t a data).memWf = true := by
  unfold State.mgmtWrite
  split
  · exact mgmtBlocked_memWf h
  · split
    · exact memWf_frame h
    · exact memWf_frame h
    · split
      · exact putRecord_memWf _ _ (memWf_frame h)
      · exact h
    · exact h

theorem execErdropRead_memWf (h : s.memWf = true) : OutWf (execErdropRead s) := by
  unfold execErdropRead
  split
  · extract_lets s₁ _ s₂ _
    have h₁ : s₁.memWf = true := memWf_frame h
    have h₂ : s₂.memWf = true := memWf_frame h₁
    show State.memWf _ = true
    split
    · exact memWf_frame h₂
    · exact h₂
  · show State.memWf _ = true
    split
    · exact memWf_frame h
    · exact mgmtRead_memWf (memWf_frame h)
  · exact notNow_memWf h

theorem State.fwDone_memWf {code : Nat} (h : s.memWf = true) : (s.fwDone code).memWf = true :=
  memWf_frame h

theorem State.refuseUnknown_memWf (h : s.memWf = true) : s.refuseUnknown.memWf = true := by
  unfold State.refuseUnknown
  extract_lets _
  split
  · exact fwDone_memWf h
  · exact h

theorem State.ctxWrite_memWf {n o : Nat} {v : DWord} (h : s.memWf = true) : (s.ctxWrite n o v).memWf = true := by
  unfold State.ctxWrite
  extract_lets c disabled
  have hdisabled (f : Ctx → Ctx) : (disabled f).memWf = true := by
    unfold disabled
    split
    · exact memWf_frame h
    · exact ctxErr_memWf h
  clear_value disabled
  split
  · exact hdisabled _
  · split
    · exact hdisabled _
    · split
      · exact hdisabled _
      · split
        · exact hdisabled _
        · split
          · exact hdisabled _
          · split
            · exact memWf_frame h
            · exact h

theorem State.fwWrite_memWf {off : Nat} {v : DWord} (h : s.memWf = true) : (s.fwWrite off v).memWf = true := by
  unfold State.fwWrite
  extract_lets _
  split
  · exact serr_memWf h
  · split
    · exact memWf_frame h
    · split
      · exact refuseUnknown_memWf (memWf_frame h)
      · exact h

theorem State.devWrite_memWf {off : Nat} {v : DWord} (h : s.memWf = true) : (s.devWrite off v).memWf = true := by
  unfold State.devWrite
  extract_lets _
  split
  · split
    · exact memWf_frame h
    · exact serr_memWf h
  · split
    · exact nameReadmit_memWf h
    · split
      · exact memWf_frame h
      · split
        · exact memWf_frame h
        · split
          · split
            · exact memWf_frame h
            · exact serr_memWf h
          · split
            · split
              · exact serr_memWf h
              · exact memWf_frame h
            · split
              · exact fwWrite_memWf h
              · exact h

theorem execRegisterWrite_memWf (h : s.memWf = true) : OutWf (execRegisterWrite s) := by
  unfold execRegisterWrite
  split
  · split
    · exact notNow_memWf h
    · split
      · exact memWf_frame h
      · split
        · exact ctxWrite_memWf (memWf_frame h)
        · exact devWrite_memWf (memWf_frame h)
  · show State.memWf _ = true
    split
    · exact memWf_frame h
    · exact mgmtWrite_memWf (memWf_frame h)
  · exact notNow_memWf h

/-! ### Events of the host -/

theorem execStartTimeout_memWf (h : s.memWf = true) : OutWf (execStartTimeout s) := by
  unfold execStartTimeout
  split
  · exact startTimedOut_memWf h
  · exact notNow_memWf h

theorem execFeatureCommit_memWf (h : s.memWf = true) : OutWf (execFeatureCommit s) := by
  unfold execFeatureCommit
  refine onHost_memWf (fun x1 t h₁ => ?_) h
  extract_lets _ _
  split
  · exact serr_memWf h₁
  · split
    · exact memWf_frame h₁
    · exact serr_memWf h₁

theorem execMdcfgWrite_memWf (h : s.memWf = true) : OutWf (execMdcfgWrite s) := by
  unfold execMdcfgWrite
  refine onHost_memWf (fun x1 t h₁ => ?_) h
  split
  · exact serr_memWf h₁
  · split
    · exact serr_memWf h₁
    · exact memWf_frame h₁

theorem execMdrgnWrite_memWf (h : s.memWf = true) : OutWf (execMdrgnWrite s) := by
  unfold execMdrgnWrite
  split
  · split
    · extract_lets s₁ _
      have h₁ : s₁.memWf = true := memWf_frame h
      split
      · exact serr_memWf h₁
      · split
        · exact serr_memWf h₁
        · exact memWf_frame h₁
    · exact notNow_memWf h
  · exact notNow_memWf h

theorem execErqBaseWrite_memWf (h : s.memWf = true) : OutWf (execErqBaseWrite s) := by
  unfold execErqBaseWrite
  refine onHost_memWf (fun x1 t h₁ => ?_) h
  split
  · exact serr_memWf h₁
  · split
    · exact serr_memWf h₁
    · exact memWf_frame h₁

theorem execErqSizeWrite_memWf (h : s.memWf = true) : OutWf (execErqSizeWrite s) := by
  unfold execErqSizeWrite
  refine onHost_memWf (fun x1 t h₁ => ?_) h
  split
  · exact serr_memWf h₁
  · split
    · exact serr_memWf h₁
    · exact memWf_foldl _ (fun _ _ h₂ => ringPut_memWf h₂) _ _ (memWf_frame h₁)

theorem execAttReq_memWf (h : s.memWf = true) : OutWf (execAttReq s) := by
  unfold execAttReq
  refine onHost_memWf (fun x1 t h₁ => ?_) h
  split
  · exact memWf_frame h₁
  · exact h₁

theorem execAttestationReportWritten_memWf (h : s.memWf = true) : OutWf (execAttestationReportWritten s) := by
  obtain ⟨hm, hd, hi⟩ := s.memWf_iff.1 h
  unfold execAttestationReportWritten
  split
  · exact notNow_memWf h
  · refine signal_memWf (bump_memWf ((State.memWf_iff _).2 ⟨hm, hd, ?_⟩))
    exact writeBytes_wf _ _ hi

theorem execMboxExt_memWf (h : s.memWf = true) : OutWf (execMboxExt s) := by
  unfold execMboxExt
  refine onHost_memWf (fun x1 t h₁ => ?_) h
  split
  · exact serr_memWf h₁
  · show State.memWf _ = true
    split
    · exact memWf_frame h₁
    · exact h₁

theorem execMboxExtensionMade_memWf (h : s.memWf = true) : OutWf (execMboxExtensionMade s) := by
  unfold execMboxExtensionMade
  split
  · exact notNow_memWf h
  · exact memWf_frame h

theorem fwRun_memWf {type : Nat} {named : List Nat} {st : BitVec 4 → Bool} {f : List Byte → State → Nat ⊕ State} (hf : ∀ x1 t, t.memWf = true → FwWf (f x1 t))
    (h : s.memWf = true) : OutWf (fwRun type named st f s) := by
  unfold fwRun
  extract_lets _
  split
  · exact notNow_memWf h
  · split
    · exact fwDone_memWf h
    · split
      · exact fwDone_memWf h
      · split
        · exact fwDone_memWf h
        · next s₁ e => exact fwDone_memWf ((congrArg FwWf e).mp (hf _ _ h))

theorem execFwreqDeviceNumber_memWf (h : s.memWf = true) : OutWf (execFwreqDeviceNumber s) := by
  unfold execFwreqDeviceNumber
  refine fwRun_memWf (fun x1 t h₁ => ?_) h
  split
  · exact trivial
  · exact memWf_frame h₁

theorem execFwreqPortSet_memWf (h : s.memWf = true) : OutWf (execFwreqPortSet s) := by
  unfold execFwreqPortSet
  refine fwRun_memWf (fun x1 t h₁ => ?_) h
  extract_lets _ _ _
  split
  · exact trivial
  · split
    · exact trivial
    · exact memWf_frame h₁

theorem execFwreqPartitionEntry_memWf (h : s.memWf = true) : OutWf (execFwreqPartitionEntry s) := by
  unfold execFwreqPartitionEntry
  refine fwRun_memWf (fun x1 t h₁ => ?_) h
  extract_lets _ _ _
  split
  · exact trivial
  · exact memWf_frame h₁

theorem execFwreqTenantBudget_memWf (h : s.memWf = true) : OutWf (execFwreqTenantBudget s) := by
  unfold execFwreqTenantBudget
  refine fwRun_memWf (fun x1 t h₁ => ?_) h
  extract_lets _ _
  split
  · exact trivial
  · exact memWf_frame h₁

theorem execFwreqPortRetrain_memWf (h : s.memWf = true) : OutWf (execFwreqPortRetrain s) := by
  unfold execFwreqPortRetrain
  refine fwRun_memWf (fun x1 t h₁ => ?_) h
  extract_lets _
  split
  · exact trivial
  · split
    · exact trivial
    · exact memWf_frame h₁

theorem execFwreqSliceThreshold_memWf (h : s.memWf = true) : OutWf (execFwreqSliceThreshold s) := by
  unfold execFwreqSliceThreshold
  refine fwRun_memWf (fun x1 t h₁ => ?_) h
  split
  · exact trivial
  · exact memWf_frame h₁

theorem execMgmtRestartComplete_memWf (h : s.memWf = true) : OutWf (execMgmtRestartComplete s) := by
  unfold execMgmtRestartComplete
  split
  · exact notNow_memWf h
  · exact refuseUnknown_memWf (memWf_frame h)

theorem execCtxEnable_memWf (h : s.memWf = true) : OutWf (execCtxEnable s) := by
  unfold execCtxEnable
  split
  · extract_lets s₁ _
    have h₁ : s₁.memWf = true := memWf_frame h
    split
    · exact h₁
    · split
      · exact ctxErr_memWf h₁
      · exact memWf_frame h₁
  · exact notNow_memWf h

theorem execCtxSetupComplete_memWf {n : BitVec 8} (h : s.memWf = true) : OutWf (execCtxSetupComplete n s) := by
  unfold execCtxSetupComplete
  extract_lets _ s₁
  have h₁ : s₁.memWf = true := memWf_frame h
  split
  · exact notNow_memWf h
  · exact memWf_frame h₁

theorem State.forgetL1_memWf {n : Nat} (h : s.memWf = true) : (s.forgetL1 n).memWf = true :=
  memWf_frame h

theorem State.killCtx_memWf {n : Nat} (h : s.memWf = true) : (s.killCtx n).memWf = true := by
  unfold State.killCtx
  extract_lets _ s₁ s₂ s₃ s₄ s₅
  have h₂ : s₂.memWf = true := refuseStalled_memWf (memWf_frame h)
  clear_value s₂
  have h₃ : s₃.memWf = true := memWf_foldl _ (fun _ _ h => killGrid_memWf h) _ _ h₂
  have h₄ : s₄.memWf = true := memWf_foldl _ (fun _ _ h => killStream_memWf h) _ _ h₃
  clear_value s₄
  have h₅ : s₅.memWf = true := forgetL1_memWf h₄
  clear_value s₅
  exact memWf_frame h₅

theorem execCtxKill_memWf (h : s.memWf = true) : OutWf (execCtxKill s) := by
  unfold execCtxKill
  split
  · extract_lets s₁
    have h₁ : s₁.memWf = true := memWf_frame h
    show State.memWf _ = true
    split
    · exact killCtx_memWf h₁
    · exact h₁
  · exact notNow_memWf h

theorem execCtxKillComplete_memWf {n : BitVec 8} (h : s.memWf = true) : OutWf (execCtxKillComplete n s) := by
  unfold execCtxKillComplete
  split
  · exact notNow_memWf h
  · exact memWf_frame h

theorem State.hostFail_memWf {n va : Nat} (h : s.memWf = true) : (s.hostFail n va).memWf = true :=
  report_memWf _ _ _ _ _ _ _ _ _ (ctxErr_memWf (dropRefused_memWf h))

theorem State.startStream_memWf {n : Nat} {i : Fin 4} {slot : Nat × Nat} {bs : List Byte} (h : s.memWf = true) : (s.startStream n i slot bs).memWf = true := by
  unfold State.startStream
  extract_lets _ _
  split
  · exact ctxErr_memWf h
  · exact memWf_frame h

theorem State.recordSector_memWf {n va : Nat} (h : s.memWf = true) : (s.recordSector n va).MemWf := by
  unfold State.recordSector
  split
  · exact askHub_memWf h
  · exact hostFail_memWf h
  · split
    · exact reportMemErr_memWf (ctxErr_memWf h)
    · exact trivial
  · split
    · exact trivial
    · exact ctxErr_memWf h
    · split
      · exact ctxErr_memWf h
      · split
        · exact trivial
        · exact sendPeer_memWf h

theorem State.readRecord_memWf {n a : Nat} {l : List Nat} (h : s.memWf = true) : RecordWf (s.readRecord n a l) := by
  induction l with
  | nil => trivial
  | cons sec rest ih =>
    have hr : (s.recordSector n (max a (64 * sec))).MemWf := recordSector_memWf h
    unfold State.readRecord
    split
    · split
      · trivial
      · exact ih
    · exact hr

theorem State.tryStream_memWf {n : Nat} {i : Fin 4} {a : Nat} (h : s.memWf = true) : (s.tryStream n i a).MemWf := by
  unfold State.tryStream
  extract_lets gone
  have hgone : ∀ t, t.memWf = true → (gone t).memWf = true := fun _ h₁ => memWf_frame h₁
  split
  · exact ctxErr_memWf h
  · split
    · exact ctxErr_memWf h
    · split
      · exact trivial
      · next s₁ e => exact (congrArg RecordWf e).mp (readRecord_memWf h)
      · next s₁ e => exact hgone _ ((congrArg RecordWf e).mp (readRecord_memWf h))
      · exact trivial
      · exact startStream_memWf (hgone _ h)

theorem State.holdStart_memWf {n : Nat} {i : Fin 4} {a : DWord} (h : s.memWf = true) : (s.holdStart n i a).memWf = true :=
  memWf_frame h

theorem State.nextStart_memWf {n : Nat} {c : Ctx} (h : s.memWf = true) : OptWf (s.nextStart n c) := by
  unfold State.nextStart
  split
  · exact trivial
  · split
    · next s₁ e => exact (congrArg StartTry.MemWf e).mp (tryStream_memWf (memWf_frame h))
    · next s₁ e => exact memWf_frame ((congrArg StartTry.MemWf e).mp (tryStream_memWf (memWf_frame h)))
    · exact trivial

theorem execStreamStart_memWf (h : s.memWf = true) : OutWf (execStreamStart s) := by
  unfold execStreamStart
  split
  · next n i _ _ a _ _ _ =>
    extract_lets t c
    have ht : t.memWf = true := popHost_memWf h
    clear_value t
    split
    · exact notNow_memWf h
    · split
      · exact ctxErr_memWf ht
      · split
        · exact memWf_frame ht
        · have htry : (if c.starts.isEmpty then t.tryStream n i a.toNat else .wait).MemWf := by
            split
            · exact tryStream_memWf ht
            · trivial
          generalize (if c.starts.isEmpty then t.tryStream n i a.toNat else StartTry.wait) = r at htry ⊢
          cases r with
          | done u => exact htry
          | ask u => exact holdStart_memWf htry
          | wait => exact holdStart_memWf ht
  · have hnext : OptWf (if s.dev.startReq.isSome ∨ s.dev.stopped then none else s.ctxs.findSome? fun e => s.nextStart e.1 e.2) := by
      split
      · trivial
      · exact findSome_optWf (fun _ => nextStart_memWf h) _
    split
    · next u e => exact (congrArg OptWf e).mp hnext
    · exact notNow_memWf h

theorem State.ring_memWf {n a : Nat} {v : DWord} (h : s.memWf = true) : OptWf (s.ring n a v) := by
  unfold State.ring
  split
  · exact hostFail_memWf h
  · split
    · exact trivial
    · exact hostFail_memWf h
    · split
      · exact trivial
      · exact carry_memWf (homeAdd_memWf _ _ _ h)
    · split
      · exact trivial
      · split
        · exact dropWrite_memWf h
        · split
          · exact trivial
          · exact sendAtom64_memWf h

theorem State.ringNext_memWf {n : Nat} {c : Ctx} (h : s.memWf = true) : OptWf (s.ringNext n c) := by
  unfold State.ringNext
  split
  · exact trivial
  · refine or_optWf ?_ ?_
    · exact ring_memWf (memWf_frame h)
    · split
      · exact askHub_memWf h
      · exact trivial

theorem execDoorbell_memWf (h : s.memWf = true) : OutWf (execDoorbell s) := by
  unfold execDoorbell
  split
  · next n i _ _ v _ _ _ =>
    extract_lets t c a u
    have ht : t.memWf = true := popHost_memWf h
    clear_value t
    have hu : u.memWf = true := memWf_frame ht
    clear_value u
    split
    · exact ctxErr_memWf ht
    · split
      · exact memWf_frame ht
      · have hring : OptWf (if c.bells.isEmpty then t.ring n a v else none) := by
          split
          · exact ring_memWf ht
          · trivial
        split
        · next w e => exact (congrArg OptWf e).mp hring
        · show State.memWf _ = true
          split
          · exact getD_memWf (askHub_memWf hu) hu
          · exact hu
  · split
    · next u e => exact (congrArg OptWf e).mp (findSome_optWf (fun _ => ringNext_memWf h) _)
    · exact notNow_memWf h

theorem State.hostWrite_memWf {pa : Nat} {bs : List Byte} (h : s.memWf = true) : (s.hostWrite pa bs).memWf = true :=
  memWf_foldl _ (fun _ _ h₁ => carry_memWf (homeStore_memWf _ _ _ _ h₁)) _ _ h

theorem execCxlMemHostWrite_memWf (h : s.memWf = true) : OutWf (execCxlMemHostWrite s) := by
  unfold execCxlMemHostWrite
  split
  · show State.memWf _ = true
    split
    · exact hostWrite_memWf (memWf_frame h)
    · exact memWf_frame h
  · exact notNow_memWf h

theorem execCxlMemHostRead_memWf (h : s.memWf = true) : OutWf (execCxlMemHostRead s) := by
  unfold execCxlMemHostRead
  split
  · extract_lets s₁ s₂ _
    have h₁ : s₁.memWf = true := memWf_frame h
    have h₂ : s₂.memWf = true := by
      unfold s₂
      refine memWf_foldl _ (fun _ _ h => ?_) _ _ ?_
      · split
        · exact carry_memWf h
        · exact h
      · exact h₁
    exact memWf_frame h₂
  · exact notNow_memWf h

theorem execWatchedLineInvalidation_memWf (h : s.memWf = true) : OutWf (execWatchedLineInvalidation s) := by
  unfold execWatchedLineInvalidation
  split
  · next pa data _ _ =>
    extract_lets t
    have ht : t.memWf = true := popHost_memWf h
    clear_value t
    split
    · obtain ⟨hm, hd, hi⟩ := t.memWf_iff.1 ht
      refine memWf_foldl _ (fun _ _ h => noteWatches_memWf h) _ _ (memWf_foldl _ (fun _ _ h => settleHub_memWf h) _ _ ?_)
      exact (State.memWf_iff _).2 ⟨writeBytes_wf _ _ hm, hd, hi⟩
    · exact ht
  · exact notNow_memWf h

/-! ### Events of the package -/

theorem execSeamFlit_memWf {seam : Fin 10} {crcOk : Bool} {bytes : Nat} (h : s.memWf = true) : OutWf (execSeamFlit seam crcOk bytes s) := by
  unfold execSeamFlit
  extract_lets _ _
  split
  · exact notNow_memWf h
  · exact memWf_frame h

theorem State.stopDevice_memWf (h : s.memWf = true) : s.stopDevice.memWf = true :=
  memWf_frame (killAll_memWf h)

theorem execHubSeamLoss_memWf {die : Fin 6} (h : s.memWf = true) : OutWf (execHubSeamLoss die s) := by
  unfold execHubSeamLoss
  extract_lets _ _
  split
  · exact notNow_memWf h
  · exact report_memWf _ _ _ _ _ _ _ _ _ (stopDevice_memWf (memWf_frame h))

theorem execDeviceStop_memWf (h : s.memWf = true) : OutWf (execDeviceStop s) := by
  unfold execDeviceStop
  split
  · exact notNow_memWf h
  · exact memWf_foldl _ (fun _ _ h₁ => killCtx_memWf h₁) _ _ (memWf_frame h)

theorem State.trimWatches_memWf {home : Nat} (h : s.memWf = true) : (s.trimWatches home).memWf = true :=
  memWf_foldl _ (fun _ _ h₁ => (updGrp_memWf ..).trans h₁) _ _ (memWf_frame h)

theorem execSliceRetirement_memWf {slice : Fin 576} (h : s.memWf = true) : OutWf (execSliceRetirement slice s) := by
  unfold execSliceRetirement
  extract_lets _ _ _
  split
  · exact notNow_memWf h
  · split
    · exact report_memWf _ _ _ _ _ _ _ _ _ (memWf_frame h)
    · extract_lets s₁ s₂
      have h₁ : s₁.memWf = true := redirect_memWf h
      have h₂ : s₂.memWf = true := memWf_frame h₁
      exact report_memWf _ _ _ _ _ _ _ _ _ (trimWatches_memWf h₂)

theorem execPowerLimitWrite_memWf (h : s.memWf = true) : OutWf (execPowerLimitWrite s) := by
  unfold execPowerLimitWrite
  split
  · exact memWf_frame h
  · exact notNow_memWf h

theorem State.throttle_memWf (h : s.memWf = true) : s.throttle.memWf = true :=
  report_memWf _ _ _ _ _ _ _ _ _ (memWf_frame h)

theorem execThrotNAssert_memWf (h : s.memWf = true) : OutWf (execThrotNAssert s) := by
  unfold execThrotNAssert
  split
  · exact notNow_memWf h
  · exact throttle_memWf h

theorem execThrotNRelease_memWf (h : s.memWf = true) : OutWf (execThrotNRelease s) := by
  unfold execThrotNRelease
  split
  · exact notNow_memWf h
  · exact report_memWf _ _ _ _ _ _ _ _ _ (memWf_frame h)

theorem execCoolantExcursion_memWf (h : s.memWf = true) : OutWf (execCoolantExcursion s) := by
  unfold execCoolantExcursion
  show State.memWf _ = true
  split
  · exact h
  · exact throttle_memWf h

theorem execThermalShutdown_memWf (h : s.memWf = true) : OutWf (execThermalShutdown s) := by
  unfold execThermalShutdown
  split
  · exact notNow_memWf h
  · exact report_memWf _ _ _ _ _ _ _ _ _ (killGrids_memWf h)

theorem execMemoryScrub_memWf {pa : Nat} (h : s.memWf = true) : OutWf (execMemoryScrub pa s) := by
  unfold execMemoryScrub
  extract_lets sec _ t bs _ u
  have ht : t.memWf = true := report_memWf _ _ _ _ _ _ _ _ _ h
  clear_value t
  have hu : u.memWf = true := by
    unfold u
    split
    · exact memWf_frame ht
    · exact ht
  clear_value u
  split
  · exact notNow_memWf h
  · split
    · split
      · exact notNow_memWf h
      · exact bump_memWf (memWf_frame h)
    · obtain ⟨hm, hd, hi⟩ := u.memWf_iff.1 hu
      exact bumpBy_memWf ((State.memWf_iff _).2 ⟨writeBytes_wf _ _ hm, hd, hi⟩)

theorem execCorrectedErrorReport_memWf {slice : Fin 576} (h : s.memWf = true) : OutWf (execCorrectedErrorReport slice s) := by
  unfold execCorrectedErrorReport
  extract_lets _ _ _
  split
  · exact notNow_memWf h
  · exact report_memWf _ _ _ _ _ _ _ _ _ (memWf_frame h)

theorem execFatalDieError_memWf {die : Fin 6} (h : s.memWf = true) : OutWf (execFatalDieError die s) := by
  unfold execFatalDieError
  split
  · exact notNow_memWf h
  · exact memWf_frame h

theorem State.cxlLost_memWf {port : Fin 4} {sev : Nat} (h : s.memWf = true) : (s.cxlLost port sev).memWf = true :=
  report_memWf _ _ _ _ _ _ _ _ _ (memWf_frame h)

theorem execCxlPortLoss_memWf {port : Fin 4} (h : s.memWf = true) : OutWf (execCxlPortLoss port s) := by
  unfold execCxlPortLoss
  split
  · exact notNow_memWf h
  · exact cxlLost_memWf h

theorem execHostPortLoss_memWf (h : s.memWf = true) : OutWf (execHostPortLoss s) := by
  unfold execHostPortLoss
  split
  · exact notNow_memWf h
  · exact stopDevice_memWf (cxlLost_memWf h)

theorem State.acceptInvals_memWf {n : Nat} (h : s.memWf = true) : (s.acceptInvals n).memWf = true := by
  induction n generalizing s with
  | zero => exact h
  | succ n ih =>
    unfold State.acceptInvals
    split
    · exact h
    · extract_lets s₁ x add s₂
      have h₁ : s₁.memWf = true := memWf_foldl _ (fun _ _ h => applyInvals_memWf _ _ h) _ _ h
      have hadd (t : State) (d : Nat) (h : t.memWf = true) : (add t d).memWf = true := memWf_frame h
      clear_value s₁
      split
      · exact h₁
      · exact ih (applyInvals_memWf _ _ (hadd _ _ (memWf_foldl _ hadd _ _ (memWf_frame h₁))))

theorem execInvalidationLogApply_memWf {die : Fin 6} (h : s.memWf = true) : OutWf (execInvalidationLogApply die s) := by
  unfold execInvalidationLogApply
  split
  · exact acceptInvals_memWf (applyInvals_memWf _ _ h)
  · exact notNow_memWf h

/-! ### The operand log -/

theorem State.setEntry_memWf {core : Nat} {e : LogEntry} {lanes refused : Mask} (h : s.memWf = true) : (s.setEntry core e lanes refused).memWf = true := by
  unfold State.setEntry
  extract_lets _ s₁
  have h₁ : s₁.memWf = true := memWf_frame h
  split
  · exact (updGrp_memWf ..).trans h₁
  · exact h₁

theorem State.logFault_memWf {q : MemReq} {cause : Nat} {info : DWord} {lanes : Mask} (h : s.memWf = true) : (s.logFault q cause info lanes).memWf = true :=
  (updGrp_memWf ..).trans h

theorem State.replayRef_memWf {core : Nat} {e : LogEntry} {go : Mask} (h : s.memWf = true) : (s.replayRef core e go).memWf = true := by
  unfold State.replayRef
  extract_lets _ _
  split
  · next s₁ e => exact (congrArg OptWf e).mp (askHeader_memWf h)
  · split
    · rename_i s₁ _ e
      have h₁ : s₁.memWf = true := (congrArg (·.1.memWf = true) e).mp (doRefs_memWf h)
      extract_lets s₂ s₃
      have h₂ : s₂.memWf = true := dropHeaders_memWf h₁
      have h₃ : s₃.memWf = true := by
        unfold s₃
        split
        · exact logFault_memWf h₂
        · exact h₂
      exact setEntry_memWf h₃

theorem State.replayCommand_memWf {core : Nat} {e : LogEntry} {i : Instr} (h : s.memWf = true) : (s.replayCommand core e i).memWf = true := by
  unfold State.replayCommand
  extract_lets _ s₁ fail
  have hfail : ∀ t x2 x3, t.memWf = true → (fail t x2 x3).memWf = true := fun _ _ _ h₁ => setEntry_memWf (logFault_memWf h₁)
  have h₁ : s₁.memWf = true := memWf_frame h
  split
  · exact h₁
  · split
    · next s₂ e => exact (congrArg ParamRead.MemWf e).mp (paramBytes_memWf h₁)
    · next s₂ _ _ e => exact hfail _ _ _ ((congrArg ParamRead.MemWf e).mp (paramBytes_memWf h₁))
    · rename_i s₂ _ e
      have h₂ : s₂.memWf = true := (congrArg ParamRead.MemWf e).mp (paramBytes_memWf h₁)
      extract_lets _
      split
      · exact hfail _ _ _ h₂
      · split
        · exact hfail _ _ _ h₂
        · split
          · exact h₁
          · next s₃ _ e => exact setEntry_memWf ((updGrp_memWf ..).trans ((congrArg OptFstWf e).mp (copyStart_memWf h₂)))

theorem State.replay_memWf {core : Nat} {e : LogEntry} (h : s.memWf = true) : (s.replay core e).memWf = true := by
  unfold State.replay
  extract_lets _ _ _ _
  split
  · exact h
  · split
    · exact replayRef_memWf (memWf_frame h)
    · exact replayCommand_memWf h
    · exact setEntry_memWf h
    · exact setEntry_memWf h
    · split
      · exact h
      · split
        · exact fatalEnd_memWf (noteCause_memWf (memWf_frame h))
        · exact acqDone_memWf (setEntry_memWf (doLanes_memWf (memWf_frame h)))

theorem State.replayCore_memWf {core : Nat} (h : s.memWf = true) : (s.replayCore core).memWf = true := by
  unfold State.replayCore
  refine pumpMouts_memWf ?_
  refine memWf_foldl _ (fun _ _ h => ?_) _ _ ?_
  · split
    · exact replay_memWf h
    · exact h
  · exact h

theorem State.askLog_memWf {core : Nat} (h : s.memWf = true) : (s.askLog core).memWf = true := by
  unfold State.askLog
  refine memWf_foldl _ (fun _ _ h => ?_) _ _ ?_
  · refine memWf_foldl _ (fun _ _ h => ?_) _ _ ?_
    · split
      · exact askEngine_memWf h
      · exact h
    · exact h
  · exact h

/-! ### Events of the links -/

theorem execTirsolFlitReceive_memWf {port : Fin 12} {flit : Sector} (h : s.memWf = true) : OutWf (execTirsolFlitReceive port flit s) := by
  unfold execTirsolFlitReceive
  extract_lets _
  split
  · exact notNow_memWf h
  · split
    · exact updPort_memWf h
    · split
      · exact h
      · exact updPort_memWf h

theorem State.remoteWrite_memWf {q : TReq} (h : s.memWf = true) : (s.remoteWrite q).memWf = true :=
  memWf_foldl _ (fun _ _ h₁ => homeStore_memWf _ _ _ _ h₁) _ _ h

theorem State.perform_memWf {q : TReq} (h : s.memWf = true) : (s.perform q).1.memWf = true := by
  have hfold (op pa : Nat) (l : List (LaneVal × LaneVal)) :
      (l.foldl (fun (acc : State × List LaneVal) x => let r := acc.1.homeAtom32 op pa x.1 x.2; (r.1, acc.2 ++ [r.2])) (s, [])).1.memWf = true :=
    List.foldlRecOn (motive := fun acc : State × List LaneVal => acc.1.memWf = true) _ _ h
      fun acc hacc _ _ => homeAtom32_memWf acc.1 _ _ _ _ hacc
  unfold State.perform
  extract_lets pa secs small r
  have hsmall (op : Nat) : (small op).1.memWf = true := hfold op pa _
  have hr : r.1.memWf = true := homeAtom64_memWf _ _ _ _ _ h
  clear_value small r secs
  generalize (pa / 64 :: if opKind q.op ≤ 2 then secs else []) = named
  split
  · exact h
  · split
    · split <;> exact h
    · exact remoteWrite_memWf h
    · exact remoteWrite_memWf h
    · split
      · exact h
      · split
        · exact hr
        · exact hsmall _
    · split
      · exact h
      · exact hsmall _
    · exact h

theorem State.respond_memWf {port : Fin 12} {q : TReq} {status : Nat} {applied : Bool} {data : List Byte}
    (h : s.memWf = true) : (s.respond port q status applied data).memWf = true :=
  updPort_memWf h

theorem execTirsolRequestArrival_memWf {port : Fin 12} {q : TReq} (h : s.memWf = true) : OutWf (execTirsolRequestArrival port q s) := by
  unfold execTirsolRequestArrival
  split
  · exact notNow_memWf h
  · split
    · exact notNow_memWf h
    · split
      · exact updPort_memWf h
      · extract_lets s₁ _ _ s₂ _
        have h₁ : s₁.memWf = true := updPort_memWf h
        have h₂ : s₂.memWf = true := memWf_frame h₁
        split
        · exact h₂
        · split
          · exact respond_memWf h₂
          · split
            · exact respond_memWf h₂
            · split
              · rename_i s₃ _ _ e
                have h₃ : s₃.memWf = true := (congrArg (·.1.memWf = true) e).mp (perform_memWf h₂)
                extract_lets s₄ _ _
                have h₄ : s₄.memWf = true := by
                  unfold s₄
                  split
                  · exact carry_memWf h₃
                  · exact h₃
                exact respond_memWf (memWf_frame h₄)

theorem State.dropSent_memWf {p : BitVec 12} {seq : BitVec 24} (h : s.memWf = true) : (s.dropSent p seq).memWf = true :=
  memWf_frame h

theorem State.answered_memWf {q : MemReq} {lanes : Mask} (h : s.memWf = true) : (s.answered q lanes).memWf = true := by
  unfold State.answered
  extract_lets _ s₁
  have h₁ : s₁.memWf = true := memWf_frame h
  split
  · exact acqDone_memWf h₁
  · exact pump_memWf h₁

theorem State.answerLoad_memWf {q : MemReq} {lanes : Mask} {data : List Byte} (h : s.memWf = true) : (s.answerLoad q lanes data).memWf = true := by
  unfold State.answerLoad
  extract_lets s₁ s₂ s₃
  have h₁ : s₁.memWf = true := giveLoad_memWf h
  have h₂ : s₂.memWf = true := by
    unfold s₂
    split
    · exact memWf_frame h₁
    · exact h₁
  have h₃ : s₃.memWf = true := by
    unfold s₃
    split
    · exact h₂
    · exact fillL1With_memWf h₂
  exact answered_memWf h₃

theorem State.answerAtomic_memWf {q : MemReq} {lanes : List Nat} {data : List Byte} (h : s.memWf = true) : (s.answerAtomic q lanes data).memWf = true :=
  answered_memWf (memWf_frame ((updGrp_memWf ..).trans h))

theorem State.answerReq_memWf {p : BitVec 12} {t : TSent} {status applied : Nat} {data : List Byte}
    (h : s.memWf = true) : (s.answerReq p t status applied data).memWf = true := by
  unfold State.answerReq
  split
  · exact h
  · extract_lets _ _ _ _ s₁
    have h₁ : s₁.memWf = true := (updGrp_memWf ..).trans h
    split
    · split
      · exact answerLoad_memWf h
      · exact answerAtomic_memWf h
    · split
      · exact answered_memWf h₁
      · exact answerAtomic_memWf h₁

theorem State.answerSector_memWf {t : TSent} {data : List Byte} (h : s.memWf = true) : (s.answerSector t data).memWf = true := by
  unfold State.answerSector
  extract_lets _
  split
  · exact memWf_frame h
  · split
    · exact h
    · exact fillL1With_memWf (memWf_frame h)

theorem State.failSector_memWf {t : TSent} {info : DWord} (h : s.memWf = true) : (s.failSector t info).memWf = true := by
  unfold State.failSector
  extract_lets _
  split
  · exact h
  · split
    · exact setEntry_memWf (logFault_memWf h)
    · split
      · split
        · next s₁ e => exact (congrArg OutWf e).mp (laneTrapOut_memWf (memWf_frame h))
        · exact h
      · exact h
    · exact scalarTrap_memWf h

theorem State.answerHeader_memWf {t : TSent} {fail : Option DWord} {data : List Byte} (h : s.memWf = true) : (s.answerHeader t fail data).memWf = true := by
  unfold State.answerHeader
  split
  · exact h
  · exact replayCore_memWf ((updGrp_memWf ..).trans h)

theorem State.answerTile_memWf {t : TSent} {fail : Option DWord} {data : List Byte} (h : s.memWf = true) : (s.answerTile t fail data).memWf = true :=
  (updGrp_memWf ..).trans h

theorem State.answerWait_memWf {t : TSent} {data : List Byte} (h : s.memWf = true) : (s.answerWait t data).memWf = true := by
  unfold State.answerWait
  extract_lets _ _ s₁
  have h₁ : s₁.memWf = true := acquireAt_memWf _ _ _ h
  split
  · split
    · exact h
    · exact (updGrp_memWf ..).trans h₁
  · split
    · exact h
    · split
      · next s₂ e => exact (congrArg OutWf e).mp (joinLoad_memWf (memWf_frame h₁))
      · exact h
  · exact h

theorem State.answerHub_memWf {t : TSent} {ok : Bool} {data : List Byte} (h : s.memWf = true) : (s.answerHub t ok data).memWf = true := by
  unfold State.answerHub
  split
  · extract_lets _
    split
    · exact memWf_frame h
    · exact h
  · exact h

theorem State.answerLock_memWf {peer : BitVec 12} {t : TSent} {q : SeqCmd} {o : MoutParams} {fail : Option DWord} {data : List Byte}
    (h : s.memWf = true) : (s.answerLock peer t q o fail data).memWf = true := by
  unfold State.answerLock
  extract_lets _ _ _
  split
  · exact endCmd_memWf h
  · split
    · split
      · exact h
      · exact sendAtom64_memWf h
    · split
      · exact h
      · exact pumpMout_memWf (setCmd_memWf h)

theorem State.answerCopy_memWf {peer : BitVec 12} {t : TSent} {c : Copy} {fail : Option DWord} {data : List Byte}
    (h : s.memWf = true) : (s.answerCopy peer t c fail data).memWf = true := by
  unfold State.answerCopy
  split
  · split
    · exact answerSector_memWf h
    · exact stopCopy_memWf h
  · extract_lets s₁
    have h₁ : s₁.memWf = true := updCopy_memWf h
    split
    · exact h₁
    · split
      · exact failReplica_memWf h₁
      · exact stopCopy_memWf h₁
    · exact stopCopy_memWf h₁

theorem State.posted_memWf {t : TSent} (h : s.memWf = true) : (s.posted t).memWf = true := by
  unfold State.posted
  extract_lets _
  split
  · exact h
  · exact cleanL1_memWf h

theorem State.response_memWf {peer : BitVec 12} {t : TSent} {st applied : Nat} {data : List Byte}
    (h : s.memWf = true) : (s.response peer t st applied data).memWf = true := by
  unfold State.response
  extract_lets _ _
  split
  · exact posted_memWf h
  · split
    · split
      · exact answerHub_memWf h
      · exact h
    · split
      · split
        · split
          · exact answerWait_memWf h
          · exact scalarTrap_memWf h
        · split
          · exact answerHeader_memWf h
          · split
            · exact answerSector_memWf h
            · split
              · split
                · exact endCmd_memWf h
                · exact h
              · exact failSector_memWf h
      · split
        · exact answerCopy_memWf h
        · split
          · exact answerLock_memWf h
          · exact h
        · split
          · exact answerTile_memWf h
          · exact answerReq_memWf h

theorem State.failLanes_memWf {q : MemReq} {lanes : Mask} {info : DWord} (h : s.memWf = true) : (s.failLanes q lanes info).memWf = true :=
  memWf_frame ((updGrp_memWf ..).trans h)

theorem State.markFstat_memWf {p : Party} {bits : DWord} (h : s.memWf = true) : (s.markFstat p bits).memWf = true :=
  (updGrp_memWf ..).trans h

theorem State.sentGone_memWf {p : BitVec 12} {t : TSent} (h : s.memWf = true) : (s.sentGone p t).memWf = true := by
  unfold State.sentGone
  split
  · exact h
  · extract_lets s₁
    have h₁ : s₁.memWf = true := memWf_foldl _ (fun _ _ h₁ => markFstat_memWf h₁) _ _ h
    split
    · exact h₁
    · split
      · exact updCopy_memWf h₁
      · exact response_memWf h₁

theorem State.losePeer_memWf {p : BitVec 12} (h : s.memWf = true) : (s.losePeer p).memWf = true := by
  unfold State.losePeer
  extract_lets _ _ gone s₁ s₂
  have hgone : ∀ t, t.memWf = true → (gone t).memWf = true := fun _ h₁ => memWf_frame h₁
  have h₁ : s₁.memWf = true := memWf_foldl _ (fun _ _ h₁ => sentGone_memWf h₁) _ _ (hgone _ h)
  have h₂ : s₂.memWf = true := memWf_foldl _ (fun _ _ h₂ => markFstat_memWf (failLanes_memWf h₂)) _ _ h₁
  exact hgone _ h₂

theorem State.loseDown_memWf (h : s.memWf = true) : s.loseDown.memWf = true :=
  memWf_foldl _ (fun _ _ h₁ => losePeer_memWf h₁) _ _ h

theorem State.portDown_memWf {port : Fin 12} (h : s.memWf = true) : (s.portDown port).memWf = true :=
  loseDown_memWf (report_memWf _ _ _ _ _ _ _ _ _ (updPort_memWf h))

theorem execLossOfSignal_memWf {port : Fin 12} (h : s.memWf = true) : OutWf (execLossOfSignal port s) := by
  unfold execLossOfSignal
  split
  · exact notNow_memWf h
  · exact portDown_memWf h

theorem State.revivePeers_memWf {port : Fin 12} (h : s.memWf = true) : (s.revivePeers port).memWf = true :=
  memWf_frame h

theorem execRetrainEnd_memWf {port : Fin 12} {ok : Bool} (h : s.memWf = true) : OutWf (execRetrainEnd port ok s) := by
  unfold execRetrainEnd
  extract_lets _
  split
  · exact notNow_memWf h
  · split
    · exact revivePeers_memWf (updPort_memWf h)
    · split
      · exact updPort_memWf h
      · exact portDown_memWf (updPort_memWf h)

theorem execTirsolResponseArrival_memWf {peer : BitVec 12} {seq : BitVec 24} {status : BitVec 2} {applied : Bool} {data : List Byte}
    (h : s.memWf = true) : OutWf (execTirsolResponseArrival peer seq status applied data s) := by
  unfold execTirsolResponseArrival
  split
  · exact notNow_memWf h
  · split
    · exact transmit_memWf h
    · exact pumpPeer_memWf (response_memWf (dropSent_memWf h))

theorem execRetransmitTimeout_memWf {peer : BitVec 12} {seq : BitVec 24} (h : s.memWf = true) : OutWf (execRetransmitTimeout peer seq s) := by
  unfold execRetransmitTimeout
  extract_lets _ _
  split
  · exact notNow_memWf h
  · split
    · exact losePeer_memWf h
    · exact transmit_memWf (memWf_frame h)

/-! ### Clusters placed -/

theorem State.startCluster_memWf {gh die k : Nat} {places : List Place} (h : s.memWf = true) : (s.startCluster gh die k places).memWf = true :=
  memWf_foldl _ (fun _ _ h₁ => acquireAt_memWf _ _ _ (memWf_frame h₁)) _ _ (memWf_frame h)

/-! ### System instructions -/

theorem execRft_memWf (h : s.memWf = true) : OutWf (execRft s) := by
  unfold execRft
  refine scalarGate_memWf h ?_
  split
  · exact waitOut_memWf h
  · exact returnFromTrap_memWf h

theorem execUnassignedOpcode_memWf {lane : Bool} {op : BitVec 8} (h : s.memWf = true) : OutWf (execUnassignedOpcode lane op s) := by
  unfold execUnassignedOpcode
  split
  · exact trapAt_memWf h
  · split
    · exact trivial
    · split
      · exact trivial
      · split
        · exact trivial
        · exact laneTrapOut_memWf h

theorem execCsrw_memWf {d : SNum} {csr : BitVec 12} (h : s.memWf = true) : OutWf (execCsrw d csr s) := by
  unfold execCsrw
  extract_lets _ _
  refine scalarGate_memWf h ?_
  split
  · exact trapAt_memWf h
  · refine needRegs_memWf h ?_
    split
    · exact trapAt_memWf h
    · exact doneAt_memWf ((updCur_memWf ..).trans h)

theorem execCwb_memWf {a b : SNum} (h : s.memWf = true) : OutWf (execCwb a b s) := by
  unfold execCwb
  refine scalarOp_memWf (fun t h₁ => ?_) h
  extract_lets _ _ _ _ s₂ _ _
  have h₂ : s₂.memWf = true := drainAll_memWf _ _ _ h₁
  split
  · exact trapAt_memWf h₁
  · split
    · exact doneAt_memWf h₁
    · split
      · exact waitOut_memWf h₂
      · exact doneAt_memWf h₂

theorem State.teamDone_memWf {th : Nat} (h : s.memWf = true) : (s.teamDone th).memWf = true := by
  unfold State.teamDone
  extract_lets gh t
  have ht : t.memWf = true := tryCbar_memWf (releaseTeam_memWf h)
  clear_value t
  exact memWf_frame ht

theorem State.endGroup_memWf {th : Nat} {g : Fin 16} (h : s.memWf = true) : (s.endGroup th g).memWf = true := by
  unfold State.endGroup
  extract_lets _ s₁ s₂
  have h₁ : s₁.memWf = true := (updGrp_memWf ..).trans h
  have h₂ : s₂.memWf = true := memWf_frame h₁
  split
  · exact teamDone_memWf h₂
  · exact tryCbar_memWf (tryRegather_memWf (tryBar_memWf ((updGrp_memWf ..).trans h₂)))

theorem execGend_memWf (h : s.memWf = true) : OutWf (execGend s) := by
  unfold execGend
  refine scalarGate_memWf h ?_
  split
  · exact waitOut_memWf h
  · split
    · exact endStream_memWf h
    · split
      · exact endGroup_memWf h
      · exact waitOut_memWf h

theorem execEcrd_memWf {d a : SNum} (h : s.memWf = true) : OutWf (execEcrd d a s) := by
  unfold execEcrd
  refine scalarGate_memWf h (needRegs_memWf h ?_)
  split
  · exact trapAt_memWf h
  · exact advance_memWf ((updCur_memWf ..).trans (late_memWf h))

theorem execEcclr_memWf {a : SNum} (h : s.memWf = true) : OutWf (execEcclr a s) := by
  unfold execEcclr
  refine scalarOp_memWf (fun t h₁ => ?_) h
  split
  · exact trapAt_memWf h₁
  · exact doneAt_memWf (memWf_frame h₁)

/-! ### The launch unit, saving and resuming -/

theorem State.meetDep_memWf {gh i : Nat} (h : s.memWf = true) : (s.meetDep gh i).memWf = true := by
  unfold State.meetDep
  extract_lets _ _ s₁
  have h₁ : s₁.memWf = true := memWf_frame h
  split
  · exact handOut_memWf h₁
  · exact h₁

theorem execDependenceCounterWrite_memWf {grid : Nat} {i : Fin 4} (h : s.memWf = true) : OutWf (execDependenceCounterWrite grid i s) := by
  unfold execDependenceCounterWrite
  extract_lets _
  split
  · exact notNow_memWf h
  · split
    · exact notNow_memWf h
    · split
      · exact meetDep_memWf h
      · split
        · split
          · next s₁ e => exact (congrArg OptWf e).mp (askHub_memWf h)
          · exact notNow_memWf h
        · split
          · exact memWf_frame h
          · exact meetDep_memWf (memWf_frame h)

theorem execStealMessage_memWf {grid : Nat} {thief victim : Fin 6} (h : s.memWf = true) : OutWf (execStealMessage grid thief victim s) := by
  unfold execStealMessage
  extract_lets _ _ _ _ _ _ _
  split
  · exact notNow_memWf h
  · split <;> exact memWf_frame h

theorem State.exchangeTenant_memWf {n : Nat} (h : s.memWf = true) : (s.exchangeTenant n).memWf = true :=
  memWf_frame h

theorem State.exchangeGrid_memWf {gh : Nat} (h : s.memWf = true) : (s.exchangeGrid gh).memWf = true :=
  memWf_frame h

theorem State.lapseClaims_memWf {die : Nat} (h : s.memWf = true) : (s.lapseClaims die).memWf = true := by
  unfold State.lapseClaims
  split
  · exact h
  · exact memWf_frame h

theorem execRemainingCountReport_memWf (h : s.memWf = true) : OutWf (execRemainingCountReport s) := by
  unfold execRemainingCountReport
  extract_lets s₁ s₂ s₃
  have h₁ : s₁.memWf = true := memWf_foldl _ (fun _ _ h₁ => exchangeGrid_memWf h₁) _ _ h
  have h₂ : s₂.memWf = true := by
    unfold s₂
    refine memWf_foldl _ (fun _ _ h => ?_) _ _ ?_
    · split
      · exact exchangeTenant_memWf h
      · exact h
    · exact h₁
  have h₃ : s₃.memWf = true := memWf_foldl _ (fun _ _ h₃ => lapseClaims_memWf h₃) _ _ h₂
  exact memWf_frame h₃

theorem execTeamPlacement_memWf {grid : Nat} {die : Fin 6} {places : List Place} (h : s.memWf = true) : OutWf (execTeamPlacement grid die places s) := by
  unfold execTeamPlacement
  extract_lets _ _
  split
  · exact notNow_memWf h
  · split
    · exact notNow_memWf h
    · exact startCluster_memWf (memWf_frame h)

theorem State.askHalt_memWf {th : Nat} {swap : Bool} (h : s.memWf = true) : (s.askHalt th swap).memWf = true :=
  memWf_foldl _ (fun _ _ h₁ => memWf_frame h₁) _ _ h

theorem State.makeRoom_memWf {gh die : Nat} {swap : Bool} {l : List Nat} (h : s.memWf = true) : (s.makeRoom gh die swap l).memWf = true :=
  memWf_foldl _ (fun _ _ h₁ => askHalt_memWf h₁) _ _ (memWf_frame h)

theorem execPreemptionRequest_memWf {die : Fin 6} {grid : Nat} (h : s.memWf = true) : OutWf (execPreemptionRequest die grid s) := by
  unfold execPreemptionRequest
  split
  · exact notNow_memWf h
  · split
    · exact notNow_memWf h
    · exact makeRoom_memWf h

theorem execTeamSwap_memWf {team grid : Nat} (h : s.memWf = true) : OutWf (execTeamSwap team grid s) := by
  unfold execTeamSwap
  extract_lets _ _ _
  split
  · exact notNow_memWf h
  · exact makeRoom_memWf h

theorem State.saveWrite_memWf {th va : Nat} {bs : List Byte} (h : s.memWf = true) : (s.saveWrite th va bs).memWf = true := by
  unfold State.saveWrite
  extract_lets _
  refine memWf_foldl _ (fun _ _ h => ?_) _ _ ?_
  · split
    · exact haulSector_memWf (homeStore_memWf _ _ _ _ h)
    · exact h
  · exact h

theorem State.withPages_memWf {pasid : BitVec 20} {l : List (Nat × List (Nat × Nat))} {go : Out}
    (h : s.memWf = true) (hgo : OutWf go) : OutWf (s.withPages pasid l go) := by
  unfold State.withPages
  split
  · split
    · exact notNow_memWf h
    · exact askEngine_memWf h
  · exact hgo

theorem State.setDir_memWf {th state : Nat} (h : s.memWf = true) : (s.setDir th state).memWf = true :=
  memWf_frame (saveWrite_memWf h)

theorem State.endStalls_memWf {th : Nat} (h : s.memWf = true) : (s.endStalls th).memWf = true := by
  unfold State.endStalls
  extract_lets _ s₁
  have h₁ : s₁.memWf = true := by
    unfold s₁
    refine memWf_foldl _ (fun _ _ h => ?_) _ _ ?_
    · split
      · exact updIssuer_memWf h
      · exact h
    · exact h
  exact memWf_frame h₁

theorem State.haltTeam_memWf {th slot : Nat} (h : s.memWf = true) : (s.haltTeam th slot).memWf = true :=
  saveWrite_memWf (endStalls_memWf (memWf_frame h))

theorem State.switchInvals_memWf {cores : List Nat} (h : s.memWf = true) : (s.switchInvals cores).memWf = true :=
  memWf_foldl _ (fun _ _ h₁ => applyInvals_memWf _ _ h₁) _ _ h

theorem execTeamSaveComplete_memWf {team : Nat} (h : s.memWf = true) : OutWf (execTeamSaveComplete team s) := by
  unfold execTeamSaveComplete
  extract_lets _ _ _ _ _ _ _ _ _ s₁ s₂ s₃ s₄ s₅
  have h₁ : s₁.memWf = true := (setTeam_memWf ..).trans h
  clear_value s₁
  have h₂ : s₂.memWf = true := memWf_frame h₁
  clear_value s₂
  have h₃ : s₃.memWf = true := (updCore_memWf ..).trans h₂
  clear_value s₃
  have h₄ : s₄.memWf = true := memWf_foldl _ (fun _ _ h => bumpBy_memWf (saveWrite_memWf h)) _ _ h₃
  have h₅ : s₅.memWf = true := memWf_foldl _ (fun _ _ h => saveWrite_memWf h) _ _ h₄
  clear_value s₅
  split
  · exact notNow_memWf h
  · exact withPages_memWf h (switchInvals_memWf (setDir_memWf h₅))

theorem State.freshL1_memWf {th core : Nat} (h : s.memWf = true) : (s.freshL1 th core).memWf = true :=
  noFills_memWf (memWf_frame h)

theorem State.resumeTeam_memWf {th : Nat} {p : Place} (h : s.memWf = true) : (s.resumeTeam th p).memWf = true := by
  unfold State.resumeTeam
  extract_lets _ _ _ s₁ s₂ _ _ s₃ s₄ s₅
  have h₁ : s₁.memWf = true := memWf_frame h
  have h₂ : s₂.memWf = true := by
    unfold s₂
    split
    · exact h₁
    · exact freshL1_memWf h₁
  have h₃ : s₃.memWf = true := memWf_frame h₂
  have h₄ : s₄.memWf = true := memWf_frame h₃
  have h₅ : s₅.memWf = true := by
    unfold s₅
    refine memWf_foldl _ (fun _ _ h => ?_) _ _ ?_
    · extract_lets _
      split
      · exact h
      · exact saveWrite_memWf h
    · exact h₄
  exact h₅

theorem State.resumeCluster_memWf {th : Nat} {straddled : Bool} {l : List (Nat × Place)} (h : s.memWf = true) : (s.resumeCluster th straddled l).memWf = true :=
  memWf_foldl _ (fun _ _ h₁ => setDir_memWf (resumeTeam_memWf h₁)) _ _ (memWf_foldl _ (fun _ _ h₁ => memWf_frame h₁) _ _ h)

theorem State.forgetGrid_memWf {gh : Nat} (h : s.memWf = true) : (s.forgetGrid gh).memWf = true :=
  memWf_frame (memWf_foldl _ (fun _ _ h₁ => setDir_memWf h₁) _ _ h)

theorem execGridEnd_memWf {grid : Nat} (h : s.memWf = true) : OutWf (execGridEnd grid s) := by
  unfold execGridEnd
  extract_lets _ _
  split
  · exact notNow_memWf h
  · split
    · exact notNow_memWf h
    · next s₁ e => exact (congrArg EndWrites.MemWf e).mp (endWrites_memWf h)
    · next s₁ e => exact memWf_frame ((congrArg EndWrites.MemWf e).mp (endWrites_memWf h))
    · next s₁ e => exact tryStart_memWf (forgetGrid_memWf ((congrArg EndWrites.MemWf e).mp (endWrites_memWf h)))

/-! ### Events of a core -/

theorem execSpoolEntryStart_memWf {team : Nat} {gid : Fin 16} (h : s.memWf = true) : OutWf (execSpoolEntryStart team gid s) := by
  unfold execSpoolEntryStart
  extract_lets _ _
  split
  · exact notNow_memWf h
  · split
    · exact (updGrp_memWf ..).trans h
    · exact (updGrp_memWf ..).trans h
    · exact notNow_memWf h

theorem orNotNow_memWf {r : Out} (h : s.memWf = true) (hr : OutWf r) : OutWf (orNotNow s r) := by
  unfold orNotNow
  split
  · split
    · exact notNow_memWf h
    · exact hr
  · exact hr

theorem savedReady_memWf {p : Party} (h : s.memWf = true) : OutWf (savedReady p s) := by
  unfold savedReady
  split
  · split
    · exact setDir_memWf h
    · exact notNow_memWf h
  · exact notNow_memWf h

theorem execWatchEntryWake_memWf {p : Party} (h : s.memWf = true) : OutWf (execWatchEntryWake p s) := by
  unfold execWatchEntryWake
  split
  · exact notNow_memWf h
  · split
    · exact savedReady_memWf h
    · extract_lets s₁
      have h₁ : s₁.memWf = true := acquireAt_memWf _ _ _ (memWf_frame h)
      split
      · exact suspReached_memWf h₁
      · exact orNotNow_memWf h (joinLoad_memWf h₁)
      · exact notNow_memWf h

theorem execSuspPoll_memWf {p : Party} (h : s.memWf = true) : OutWf (execSuspPoll p s) := by
  unfold execSuspPoll
  extract_lets s₁
  have h₁ : s₁.memWf = true := memWf_frame h
  split
  · exact savedReady_memWf h
  · split
    · exact notNow_memWf h
    · split
      · exact polling_memWf (waitCounter_memWf h₁ (fun _ h₂ => suspReached_memWf h₂))
      · exact polling_memWf (waitCounter_memWf h₁ (fun _ h₂ => joinLoad_memWf h₂))
      · exact notNow_memWf h

theorem execSleepuWake_memWf {p : Party} (h : s.memWf = true) : OutWf (execSleepuWake p s) := by
  unfold execSleepuWake
  split
  · split
    · exact wakeSleep_memWf (memWf_frame h)
    · exact notNow_memWf h
  · exact notNow_memWf h

theorem execDemotionEnd_memWf {p : Party} (h : s.memWf = true) : OutWf (execDemotionEnd p s) := by
  unfold execDemotionEnd
  extract_lets _
  split
  · exact notNow_memWf h
  · exact (updGrp_memWf ..).trans h

/-! ### Control words -/

theorem LaneRun.control_memWf {l : LaneRun} {f : Group → Block → Group} (h : s.memWf = true) : OutWf (l.control s f) :=
  (updCur_memWf ..).trans h

theorem LaneRun.illField_memWf {l : LaneRun} (h : s.memWf = true) : OutWf (l.illField s) :=
  LaneRun.trap_memWf h

theorem execLbr_memWf {w : LaneWord} (h : s.memWf = true) : OutWf (execLbr w s) := by
  unfold execLbr
  refine laneGo_memWf h (fun x1 => ?_)
  extract_lets _ _ _ _ _
  split
  · exact LaneRun.illField_memWf h
  · split
    · exact LaneRun.control_memWf h
    · split
      · exact LaneRun.control_memWf h
      · split
        · exact LaneRun.trap_memWf h
        · exact LaneRun.control_memWf h

theorem execLjmp_memWf {w : LaneWord} (h : s.memWf = true) : OutWf (execLjmp w s) := by
  unfold execLjmp
  refine laneGo_memWf h (fun x1 => ?_)
  split
  · exact LaneRun.illField_memWf h
  · exact LaneRun.control_memWf h

theorem execLfmt_memWf {w : LaneWord} (h : s.memWf = true) : OutWf (execLfmt w s) := by
  unfold execLfmt
  refine laneGo_memWf h fun x => ?_
  extract_lets v
  clear_value v
  split
  · exact LaneRun.illField_memWf h
  · exact LaneRun.control_memWf h

/-! ### Collective words -/

theorem execQblk_memWf {w : LaneWord} (h : s.memWf = true) : OutWf (execQblk w s) := by
  unfold execQblk
  refine laneGo_memWf h (fun x1 => ?_)
  split
  · extract_lets _ _ _
    split
    · exact LaneRun.trap_memWf h
    · exact LaneRun.done_memWf h

theorem execVote_memWf {w : LaneWord} (h : s.memWf = true) : OutWf (execVote w s) := by
  unfold execVote
  refine laneGo_memWf h (fun x1 => ?_)
  split
  · exact LaneRun.write_memWf h
  · exact LaneRun.done_memWf h

theorem foldOp_memWf {i : Instr} {scan : Bool} (h : s.memWf = true) : OutWf (foldOp i scan s) :=
  laneGo_memWf h (fun _ => LaneRun.write_memWf (memWf_frame h))

/-! ### Events of memory and halting -/

theorem State.atomAt_memWf {q : MemReq} {op : Nat} {wide : Bool} {i : Nat} (h : s.memWf = true) : (s.atomAt q op wide i).memWf = true := by
  unfold State.atomAt
  extract_lets _ s₁ _ give _
  have hgive : ∀ t x2, t.memWf = true → (give t x2).memWf = true := fun _ _ h₁ => memWf_frame ((updGrp_memWf ..).trans h₁)
  have h₁ : s₁.memWf = true := haulSector_memWf (settleSector_memWf h)
  split
  · exact hgive _ _ h₁
  · split
    · exact hgive _ _ (homeAtom32_memWf _ _ _ _ _ h₁)
    · split
      · exact hgive _ _ (homeAtom64_memWf _ _ _ _ _ h₁)
      · exact hgive _ _ (homeAtom32_memWf _ _ _ _ _ h₁)

theorem execAtomicAtHome_memWf {i : Nat} (h : s.memWf = true) : OutWf (execAtomicAtHome i s) := by
  unfold execAtomicAtHome
  split
  · exact notNow_memWf h
  · split
    · exact notNow_memWf h
    · split
      · exact notNow_memWf h
      · exact acqDone_memWf (memWf_foldl _ (fun _ _ h₁ => atomAt_memWf h₁) _ _ (memWf_frame h))

theorem State.dropResult_memWf {p : Party} {id : Nat} (h : s.memWf = true) : (s.dropResult p id).memWf = true :=
  memWf_frame ((updGrp_memWf ..).trans h)

theorem State.landTrap_memWf {p : Party} {o : Outst} {t : LateTrap} (h : s.memWf = true) : (s.landTrap p o t).memWf = true := by
  unfold State.landTrap
  split
  · extract_lets s₁ _ _ s₂
    have h₁ : s₁.memWf = true := (updGrp_memWf ..).trans (dropResult_memWf h)
    have h₂ : s₂.memWf = true := scalarTrap_memWf h₁
    split
    · exact fatalEnd_memWf (noteCause_memWf h₁)
    · split
      · exact raiseLane_memWf ((updGrp_memWf ..).trans (memWf_frame h₁))
      · split
        · exact h₂
        · exact (updGrp_memWf ..).trans h₂

theorem State.land_memWf {p : Party} {o : Outst} (h : s.memWf = true) : OptWf (s.land p o) := by
  unfold State.land
  split
  · split
    · exact trivial
    · exact landTrap_memWf h
  · exact (updGrp_memWf ..).trans (dropResult_memWf h)

theorem State.pursue_memWf {p : Party} {o : Outst} (h : s.memWf = true) : OptWf (s.pursue p o) := by
  unfold State.pursue
  extract_lets _ s₁
  have h₁ : s₁.memWf = true := by
    unfold s₁
    split
    · exact replay_memWf h
    · exact tileTurn_memWf h
    · exact h
  split
  · exact h₁
  · exact trivial

theorem execMemoryResponseArrival_memWf {p : Party} {i : Nat} (h : s.memWf = true) : OutWf (execMemoryResponseArrival p i s) := by
  unfold execMemoryResponseArrival
  split
  · exact notNow_memWf h
  · split
    · exact notNow_memWf h
    · split
      · split
        · next s₁ e => exact (congrArg OptWf e).mp (pursue_memWf h)
        · exact notNow_memWf h
      · split
        · rename_i s₁ e
          have h₁ : s₁.memWf = true := (congrArg OptWf e).mp (land_memWf h)
          show State.memWf _ = true
          split
          · exact pumpMouts_memWf h₁
          · exact h₁
        · exact notNow_memWf h

theorem State.fillCache_memWf {die : Nat} {t : Trans} (h : s.memWf = true) : (s.fillCache die t).memWf = true :=
  memWf_frame h

theorem State.askLogs_memWf {die : Nat} (h : s.memWf = true) : (s.askLogs die).memWf = true :=
  memWf_foldl _ (fun _ _ h₁ => askLog_memWf h₁) _ _ h

theorem State.granted_memWf {die : Nat} {t : Trans} (h : s.memWf = true) : (s.granted die t).memWf = true :=
  askLogs_memWf (memWf_foldl _ (fun _ _ h₁ => replayCore_memWf h₁) _ _ (fillCache_memWf h))

theorem execAtsTranslationCompletion_memWf {die : Fin 7} {t : Trans} {granted : Bool} (h : s.memWf = true) : OutWf (execAtsTranslationCompletion die t granted s) := by
  unfold execAtsTranslationCompletion
  extract_lets _ s₁ _
  have h₁ : s₁.memWf = true := by
    unfold s₁
    split
    · exact granted_memWf h
    · exact h
  split
  · exact notNow_memWf h
  · split
    · exact h
    · exact memWf_frame h₁

theorem State.refuseCopies_memWf {core : Nat} {pasid : BitVec 20} {page : Nat} {write : Bool}
    (h : s.memWf = true) : (s.refuseCopies core pasid page write).memWf = true := by
  unfold State.refuseCopies
  refine memWf_foldl _ (fun _ _ h => ?_) _ _ ?_
  · split
    · exact h
    · split
      · exact stopCopy_memWf h
      · exact h
  · exact h

theorem State.refuseCmds_memWf {core : Nat} {pasid : BitVec 20} {page : Nat} {write : Bool} (h : s.memWf = true) : (s.refuseCmds core pasid page write).memWf = true := by
  unfold State.refuseCmds
  extract_lets one
  have hone : ∀ t x2, t.memWf = true → (one t x2).memWf = true := by
    intro t q h₁
    unfold one
    split
    · split
      · exact endCmd_memWf h₁
      · exact h₁
    · exact h₁
  exact memWf_foldl _ (fun _ _ h₁ => hone _ _ h₁) _ _ h

theorem State.refuseWalks_memWf {die : Nat} {pasid : BitVec 20} {page : Nat} (h : s.memWf = true) : (s.refuseWalks die pasid page).memWf = true :=
  memWf_foldl _ (fun _ _ h₁ => failWalk_memWf h₁) _ _ h

theorem State.reportRefused_memWf {core : Nat} (h : s.memWf = true) : (s.reportRefused core).memWf = true := by
  unfold State.reportRefused
  refine pumpMouts_memWf ?_
  refine memWf_foldl _ (fun _ _ h => ?_) _ _ ?_
  · extract_lets _
    split
    · exact h
    · split
      · split
        · split
          · exact endCmd_memWf h
          · exact h
        · exact h
      · split
        · exact h
        · split
          · exact getD_memWf (land_memWf h) h
          · exact h
  · exact h

theorem State.refusePage_memWf {die : Nat} {r : PageReq} (h : s.memWf = true) : (s.refusePage die r).memWf = true := by
  unfold State.refusePage
  extract_lets _ s₁ s₂ s₃ _ s₄ _ s₅
  have h₁ : s₁.memWf = true := memWf_frame h
  have h₂ : s₂.memWf = true := memWf_foldl _ (fun _ _ h₂ => (updGrp_memWf ..).trans h₂) _ _ h₁
  have h₃ : s₃.memWf = true := by
    unfold s₃
    split
    · exact memWf_frame h₂
    · exact h₂
  have h₄ : s₄.memWf = true := memWf_frame h₃
  have h₅ : s₅.memWf = true := memWf_foldl _ (fun _ _ h₅ => reportRefused_memWf (refuseCmds_memWf (refuseCopies_memWf h₅))) _ _ h₄
  exact askLogs_memWf (refuseWalks_memWf h₅)

theorem execPageResponse_memWf {die : Fin 7} {t : Trans} {granted : Bool} (h : s.memWf = true) : OutWf (execPageResponse die t granted s) := by
  unfold execPageResponse
  split
  · exact h
  · split
    · exact notNow_memWf h
    · split
      · exact granted_memWf h
      · exact memWf_foldl _ (fun _ _ h₁ => refusePage_memWf h₁) _ _ h

theorem State.settleParty_memWf {p : Party} (h : s.memWf = true) : (s.settleParty p).memWf = true := by
  unfold State.settleParty
  extract_lets s₁ _ _
  have h₁ : s₁.memWf = true := by
    unfold s₁
    refine memWf_foldl _ (fun _ _ h => ?_) _ _ ?_
    · split
      · exact h
      · exact getD_memWf (land_memWf h) h
    · exact h
  split
  · exact h₁
  · exact memWf_frame h₁

theorem execTeamHalt_memWf {team : Nat} (h : s.memWf = true) : OutWf (execTeamHalt team s) := by
  unfold execTeamHalt
  extract_lets _ _ _ _ s₁
  have h₁ : s₁.memWf = true := memWf_foldl _ (fun _ _ h₁ => settleParty_memWf h₁) _ _ h
  split
  · exact notNow_memWf h
  · refine withPages_memWf h ?_
    show State.memWf _ = true
    refine switchInvals_memWf ?_
    refine memWf_foldl _ (fun _ _ h => ?_) _ _ ?_
    · split
      · exact haltTeam_memWf h
      · exact h
    · exact h₁

theorem State.resumed_memWf {cores : List Nat} (h : s.memWf = true) : (s.resumed cores).memWf = true :=
  memWf_foldl _ (fun _ _ h₁ => reportRefused_memWf (replayCore_memWf (askLog_memWf h₁))) _ _ (switchInvals_memWf h)

theorem execTeamResume_memWf {team : Nat} {place : Place} (h : s.memWf = true) : OutWf (execTeamResume team place s) := by
  unfold execTeamResume
  extract_lets _ _ _ _ _
  split
  · exact withPages_memWf h (setDir_memWf h)
  · split
    · exact notNow_memWf h
    · split
      · exact notNow_memWf h
      · extract_lets _ s₁
        have h₁ : s₁.memWf = true := resumed_memWf (resumeCluster_memWf h)
        split
        · exact notNow_memWf h
        · exact withPages_memWf h (memWf_foldl _ (fun _ _ h₂ => memWf_frame h₂) _ _ h₁)

theorem execCoalescingBufferDrain_memWf {core i : Nat} (h : s.memWf = true) : OutWf (execCoalescingBufferDrain core i s) := by
  unfold execCoalescingBufferDrain
  split
  · exact notNow_memWf h
  · split
    · exact replayCore_memWf (drainEntry_memWf _ _ _ h)
    · exact notNow_memWf h

theorem execSacqpProbe_memWf {i : Nat} (h : s.memWf = true) : OutWf (execSacqpProbe i s) := by
  unfold execSacqpProbe
  split
  · exact notNow_memWf h
  · extract_lets _ _ s₁ s₂
    have h₁ : s₁.memWf = true := drainAll_memWf _ _ _ (memWf_frame h)
    have h₂ : s₂.memWf = true := memWf_frame h₁
    split
    · exact notNow_memWf h
    · split
      · split
        · exact h₁
        · exact notNow_memWf h
      · split
        · exact fatalEnd_memWf h₂
        · exact acqDone_memWf (logLanes_memWf (doLanes_memWf h₂))

/-! ### Messages -/

theorem State.post_memWf {v : DWord} {cc id : Nat} {multi : Bool} (h : s.memWf = true) : (s.post v cc id multi).memWf = true :=
  memWf_frame h

theorem execSend_memWf {d a : SNum} (h : s.memWf = true) : OutWf (execSend d a s) := by
  unfold execSend
  refine commandOp_memWf (fun t h₁ => ?_) h
  split
  · exact waitOut_memWf h₁
  · exact advance_memWf (post_memWf (awaitScalar_memWf h₁))

theorem execSendm_memWf {d a b : SNum} (h : s.memWf = true) : OutWf (execSendm d a b s) := by
  unfold execSendm
  refine commandOp_memWf (fun t h₁ => ?_) h
  split
  · exact doneAt_memWf (ws_memWf h₁)
  · split
    · exact waitOut_memWf h₁
    · exact advance_memWf (memWf_foldl _ (fun _ _ h₂ => post_memWf h₂) _ _ (awaitScalar_memWf h₁))

theorem State.deliver_memWf {th buf ctr : Nat} {data : List Byte} {src : Nat} {dieBit : Bool} {tag : BitVec 16}
    (h : s.memWf = true) : (s.deliver th buf ctr data src dieBit tag).memWf = true :=
  memWf_frame (scrCount_memWf (scrPutBytes_memWf (scrPutBytes_memWf h)))

theorem execRecv_memWf {d a : SNum} (h : s.memWf = true) : OutWf (execRecv d a s) := by
  unfold execRecv
  refine commandOp_memWf (fun t h₁ => ?_) h
  extract_lets _ _ _ _
  split
  · exact lateResult_memWf (deliver_memWf (memWf_frame h₁))
  · split
    · exact lateResult_memWf (memWf_frame h₁)
    · exact lateResult_memWf h₁

theorem execRcancel_memWf {d a : SNum} (h : s.memWf = true) : OutWf (execRcancel d a s) := by
  unfold execRcancel
  refine commandOp_memWf (fun t h₁ => ?_) h
  extract_lets _ _
  split
  · exact lateResult_memWf (memWf_frame h₁)
  · exact lateResult_memWf h₁

theorem State.receive_memWf {m : Msg} (h : s.memWf = true) : (s.receive m).1.memWf = true := by
  unfold State.receive
  extract_lets src
  split
  · exact h
  · extract_lets t c hit
    clear_value t c hit
    split
    · exact h
    · split
      · exact deliver_memWf (memWf_frame h)
      · split
        · exact bumpBy_memWf (scrPutBytes_memWf (memWf_frame h))
        · split
          · exact h
          · exact (updGrp_memWf ..).trans h

theorem State.haulMsg_memWf {m : Msg} (h : s.memWf = true) : (s.haulMsg m).memWf = true := by
  unfold State.haulMsg
  split
  · exact haulCores_memWf h
  · exact h

theorem execMessageArrival_memWf {i : Nat} (h : s.memWf = true) : OutWf (execMessageArrival i s) := by
  unfold execMessageArrival
  split
  · exact notNow_memWf h
  · extract_lets _
    split
    · exact notNow_memWf h
    · exact memWf_frame (receive_memWf (haulMsg_memWf h))

theorem execSendStatusArrival_memWf {i : Nat} (h : s.memWf = true) : OutWf (execSendStatusArrival i s) := by
  unfold execSendStatusArrival
  split
  · exact notNow_memWf h
  · split
    · exact notNow_memWf h
    · exact (updGrp_memWf ..).trans (memWf_frame h)

theorem execOvfqRaise_memWf {team : Nat} (h : s.memWf = true) : OutWf (execOvfqRaise team s) := by
  unfold execOvfqRaise
  split
  · exact notNow_memWf h
  · extract_lets _
    split
    · exact notNow_memWf h
    · split
      · exact notNow_memWf h
      · exact scalarTrap_memWf ((updGrp_memWf ..).trans h)

theorem execTrapDelivery_memWf {team : Nat} {gid : Fin 16} (h : s.memWf = true) : OutWf (execTrapDelivery team gid s) := by
  unfold execTrapDelivery
  extract_lets _
  split
  · exact deliverLane_memWf h
  · exact notNow_memWf h

/-! ### Scalar arithmetic and jumps -/

theorem divOp_memWf {i : Instr} {d a b : SNum} {f : DWord → DWord → DWord} (h : s.memWf = true) : OutWf (divOp i d a b f s) := by
  unfold divOp
  refine scalarGate_memWf h (needRegs_memWf h ?_)
  split
  · exact trapAt_memWf h
  · exact doneAt_memWf (ws_memWf h)

theorem execSbr_memWf {cnd : BitVec 3} {a b : SNum} {off : BitVec 11} (h : s.memWf = true) : OutWf (execSbr cnd a b off s) := by
  unfold execSbr
  refine scalarOp_memWf (fun t h₁ => ?_) h
  show State.memWf _ = true
  split
  · exact jumpTo_memWf h₁
  · exact advance_memWf h₁

theorem execSjr_memWf {d a : SNum} (h : s.memWf = true) : OutWf (execSjr d a s) := by
  unfold execSjr
  refine scalarGate_memWf h (needRegs_memWf h ?_)
  extract_lets _ _
  split
  · exact trapAt_memWf h
  · split
    · exact trapAt_memWf h
    · exact jumpTo_memWf (ws_memWf h)

/-! ### Every instruction and event -/

/-- Every instruction and event keeps the form: through the driver that it shares with its like, or by its own lemma. -/
theorem exec_memWf (i : Instr) (h : s.memWf = true) : OutWf (exec i s) := by
  unfold exec
  cases i
  case fadd | fsub | fmul | ffma | fmin | fmax | fclass | frnd | ffrac | fldexp | fdot2 | fdot4 | faddi | fmuli | ffmai | iaddi | iandi | iori | ixori |
      ishli | ishri | israi | movi | iadd | isub | imul | imulh | imulhu | imad | imin | imax | iminu | imaxu | vand | vor | vxor | vandn | vshl |
      vshr | vsra | popc | clz | brev | bfe | bfi | prmt | vmov | vsel | lut | pmovToWord | frcp | frsq | fsqrt | fdiv | fexp2 | flog2 | fsin | fcos |
      ftanh | fsigm | cvtfi | cvtif | cvtff | scaleblk | bnd | setb | clrb | efget => exact vecOp_memWf h
  case sadd | ssub | sand | sor | sxor | sandn | sshl | sshr | ssra | sslt | ssltu | smin | smax | sminu | smaxu | smul | smulh | smulhu | spopc |
      sclz | sctz | saddi | sandi | sori | sxori | sshli | sshri | ssrai | slti | sltiu | slui | saddpc | csrr => exact aluOp_memWf h
  case fcmp | icmpi | icmp | icmpu | plop | pmovToPredicate => exact predOp_memWf h
  case sdiv | sdivu | srem | sremu => exact divOp_memWf h
  case vmatch | lid | lslot | chkb => exact laneGo_memWf h (fun _ => LaneRun.write_memWf h)
  case mloop | mzero | mout => exact commandOp_memWf (fun _ h₁ => queueCmd_memWf h₁) h
  case pleat | efclr | efset => exact laneGo_memWf h (fun _ => LaneRun.done_memWf h)
  case lend | lexit | lnop => exact laneGo_memWf h (fun _ => LaneRun.control_memWf h)
  case conventionalReset | functionLevelReset => exact requestStart_memWf h
  case warmStartRequest | coldStartRequest => exact onHost_memWf (fun _ _ h₁ => requestStart_memWf (nameReadmit_memWf h₁)) h
  case sld | slda => exact scalarGate_memWf h (needRegs_memWf h (scalarLoad_memWf h))
  case sst | sstl => exact scalarGate_memWf h (needRegs_memWf h (scalarStore_memWf h))
  case cbar | cbarL => exact cbarArrive_memWf h
  case copy | copym => exact scalarGate_memWf h (needRegs_memWf h (copyIssue_memWf h))
  case mwait | mwaitAll => exact commandOp_memWf (fun _ h₁ => mwaitOn_memWf h₁) h
  case vreduce | vscan => exact foldOp_memWf h
  case vld | ldx => exact laneLoad_memWf h
  case vst | stx => exact laneStore_memWf h
  case atom | atomagg => exact laneAtomic_memWf h
  case startTimeout => exact execStartTimeout_memWf h
  case featureCommit => exact execFeatureCommit_memWf h
  case mdcfgWrite => exact execMdcfgWrite_memWf h
  case mdrgnWrite => exact execMdrgnWrite_memWf h
  case erqBaseWrite => exact execErqBaseWrite_memWf h
  case erqSizeWrite => exact execErqSizeWrite_memWf h
  case erdropRead => exact execErdropRead_memWf h
  case attReq => exact execAttReq_memWf h
  case attestationReportWritten => exact execAttestationReportWritten_memWf h
  case mboxExt => exact execMboxExt_memWf h
  case mboxExtensionMade => exact execMboxExtensionMade_memWf h
  case fwreqDeviceNumber => exact execFwreqDeviceNumber_memWf h
  case fwreqPortSet => exact execFwreqPortSet_memWf h
  case fwreqPartitionEntry => exact execFwreqPartitionEntry_memWf h
  case fwreqTenantBudget => exact execFwreqTenantBudget_memWf h
  case fwreqPortRetrain => exact execFwreqPortRetrain_memWf h
  case fwreqSliceThreshold => exact execFwreqSliceThreshold_memWf h
  case ctxEnable => exact execCtxEnable_memWf h
  case ctxSetupComplete => exact execCtxSetupComplete_memWf h
  case ctxKill => exact execCtxKill_memWf h
  case ctxKillComplete => exact execCtxKillComplete_memWf h
  case streamStart => exact execStreamStart_memWf h
  case doorbell => exact execDoorbell_memWf h
  case registerWrite => exact execRegisterWrite_memWf h
  case mgmtWatchdogMiss => exact memWf_frame h
  case mgmtRestartComplete => exact execMgmtRestartComplete_memWf h
  case seamFlit => exact execSeamFlit_memWf h
  case hubSeamLoss => exact execHubSeamLoss_memWf h
  case deviceStop => exact execDeviceStop_memWf h
  case sliceRetirement => exact execSliceRetirement_memWf h
  case powerLimitWrite => exact execPowerLimitWrite_memWf h
  case throtNAssert => exact execThrotNAssert_memWf h
  case throtNRelease => exact execThrotNRelease_memWf h
  case coolantExcursion => exact execCoolantExcursion_memWf h
  case thermalShutdown => exact execThermalShutdown_memWf h
  case cxlPortLoss => exact execCxlPortLoss_memWf h
  case hostPortLoss => exact execHostPortLoss_memWf h
  case cxlMemHostWrite => exact execCxlMemHostWrite_memWf h
  case cxlMemHostRead => exact execCxlMemHostRead_memWf h
  case watchedLineInvalidation => exact execWatchedLineInvalidation_memWf h
  case atsInvalidationRequest => exact acceptInvals_memWf (memWf_frame h)
  case invalidationLogApply => exact execInvalidationLogApply_memWf h
  case tirsolFlitReceive => exact execTirsolFlitReceive_memWf h
  case retrainEnd => exact execRetrainEnd_memWf h
  case lossOfSignal => exact execLossOfSignal_memWf h
  case tirsolRequestArrival => exact execTirsolRequestArrival_memWf h
  case tirsolResponseArrival => exact execTirsolResponseArrival_memWf h
  case retransmitTimeout => exact execRetransmitTimeout_memWf h
  case dependenceCounterWrite => exact execDependenceCounterWrite_memWf h
  case stealMessage => exact execStealMessage_memWf h
  case remainingCountReport => exact execRemainingCountReport_memWf h
  case teamPlacement => exact execTeamPlacement_memWf h
  case preemptionRequest => exact execPreemptionRequest_memWf h
  case teamHalt => exact execTeamHalt_memWf h
  case teamSaveComplete => exact execTeamSaveComplete_memWf h
  case teamResume => exact execTeamResume_memWf h
  case teamSwap => exact execTeamSwap_memWf h
  case gridEnd => exact execGridEnd_memWf h
  case spoolEntryStart => exact execSpoolEntryStart_memWf h
  case trapDelivery => exact execTrapDelivery_memWf h
  case watchEntryWake => exact execWatchEntryWake_memWf h
  case suspPoll => exact execSuspPoll_memWf h
  case sleepuWake => exact execSleepuWake_memWf h
  case demotionEnd => exact execDemotionEnd_memWf h
  case messageArrival => exact execMessageArrival_memWf h
  case sendStatusArrival => exact execSendStatusArrival_memWf h
  case ovfqRaise => exact execOvfqRaise_memWf h
  case coalescingBufferDrain => exact execCoalescingBufferDrain_memWf h
  case atomicAtHome => exact execAtomicAtHome_memWf h
  case memoryResponseArrival => exact execMemoryResponseArrival_memWf h
  case atsTranslationCompletion => exact execAtsTranslationCompletion_memWf h
  case pageResponse => exact execPageResponse_memWf h
  case copyPacket => exact execCopyPacket_memWf h
  case copyCompletion => exact execCopyCompletion_memWf h
  case sacqpProbe => exact execSacqpProbe_memWf h
  case reachWalkStep => exact execReachWalkStep_memWf h
  case reachWalkEnd => exact execReachWalkEnd_memWf h
  case sequencerCommandStart => exact execSequencerCommandStart_memWf h
  case kStep => exact execKStep_memWf h
  case cb3TableArrival => exact execCb3TableArrival_memWf h
  case automaticRefresh => exact execAutomaticRefresh_memWf h
  case rfshComplete => exact execRfshComplete_memWf h
  case gangShareStart => exact execGangShareStart_memWf h
  case gangCompletion => exact execGangCompletion_memWf h
  case sbr => exact execSbr_memWf h
  case sj => exact scalarOp_memWf (fun _ h₁ => jumpTo_memWf h₁) h
  case sjl => exact scalarGate_memWf h (needRegs_memWf h (jumpTo_memWf (ws_memWf h)))
  case sjr => exact execSjr_memWf h
  case slds => exact execSlds_memWf h
  case satom => exact scalarGate_memWf h (needRegs_memWf h (scalarIssued_memWf h (issue_memWf h)))
  case sfence => exact execSfence_memWf h
  case sacqp => exact execSacqp_memWf h
  case lrun => exact execLrun_memWf h
  case ldrain => exact execLdrain_memWf h
  case setfmt => exact execSetfmt_memWf h
  case setalw => exact execSetalw_memWf h
  case pause => exact execPause_memWf h
  case susp => exact execSusp_memWf h
  case sleepu => exact execSleepu_memWf h
  case bar => exact execBar_memWf h
  case regather => exact execRegather_memWf h
  case elect => exact execElect_memWf h
  case send => exact execSend_memWf h
  case sendm => exact execSendm_memWf h
  case recv => exact execRecv_memWf h
  case rprobe => exact commandOp_memWf (fun _ h₁ => lateResult_memWf h₁) h
  case rcancel => exact execRcancel_memWf h
  case cwait => exact execCwait_memWf h
  case mgang => exact execMgang_memWf h
  case mready => exact execMready_memWf h
  case mreadyGang => exact execMreadyGang_memWf h
  case mldc => exact execMldc_memWf h
  case wload => exact execWload_memWf h
  case wdir => exact commandOp_memWf (fun _ h₁ => doneAt_memWf (memWf_frame h₁)) h
  case rfsh => exact scalarGate_memWf h (doneAt_memWf (memWf_frame (settleRfsh_memWf h)))
  case ecrd => exact execEcrd_memWf h
  case ecclr => exact execEcclr_memWf h
  case pub => exact execPub_memWf h
  case mkobj => exact execMkobj_memWf h
  case stref => exact execStref_memWf h
  case ldhdr => exact execLdhdr_memWf h
  case launch => exact execLaunch_memWf h
  case join => exact commandOp_memWf (fun _ h₁ => polling_memWf (waitCounter_memWf h₁ (fun _ h₂ => joinLoad_memWf h₂))) h
  case nop => exact scalarGate_memWf h (doneAt_memWf h)
  case trap => exact scalarGate_memWf h (trapAt_memWf h)
  case rft => exact execRft_memWf h
  case csrw => exact execCsrw_memWf h
  case cwb => exact execCwb_memWf h
  case icinv => exact scalarOp_memWf (fun _ h₁ => doneAt_memWf ((updCur_memWf ..).trans (memWf_frame h₁))) h
  case ifence => exact scalarGate_memWf h (doneAt_memWf ((updCur_memWf ..).trans h))
  case gend => exact execGend_memWf h
  case qblk => exact execQblk_memWf h
  case vote => exact execVote_memWf h
  case lds => exact execLds_memWf h
  case sts => exact execSts_memWf h
  case atoms => exact execAtoms_memWf h
  case laneStref => exact execLaneStref_memWf h
  case tlda => exact execTlda_memWf h
  case lbr => exact execLbr_memWf h
  case ljmp => exact execLjmp_memWf h
  case lfmt => exact execLfmt_memWf h
  case unassignedOpcode => exact execUnassignedOpcode_memWf h
  case moutAonRetry => exact execMoutAonRetry_memWf h
  case memoryScrub => exact execMemoryScrub_memWf h
  case correctedErrorReport => exact execCorrectedErrorReport_memWf h
  case fatalDieError => exact execFatalDieError_memWf h

/-! ### Time -/

theorem State.noteWaits_memWf {start : Nat} (h : s.memWf = true) : (s.noteWaits start).memWf = true := by
  unfold State.noteWaits
  split
  · exact h
  · exact memWf_frame h

theorem State.noteStarved_memWf {ran : Option (Party × Bool × Nat)} (h : s.memWf = true) : (s.noteStarved ran).memWf = true := by
  unfold State.noteStarved
  split
  · exact h
  · exact memWf_frame h

theorem State.settle_memWf {s₀ : State} (h : s.memWf = true) : (s₀.settle s).memWf = true := by
  unfold State.settle
  extract_lets _ s₁ s₂ s₃
  have h₁ : s₁.memWf = true := memWf_frame h
  have h₂ : s₂.memWf = true := noteWaits_memWf (noteStarved_memWf h₁)
  have h₃ : s₃.memWf = true := memWf_frame h₂
  split
  · exact memWf_frame h₃
  · exact h₂

/-! ### One step -/

theorem Todo.go_memWf {x : Todo} (h : x.MemWf) : OutWf x.go := by
  cases x with
  | run i t => exact exec_memWf i h
  | out o => exact h

theorem State.noteReady_memWf {ran : Option (Party × Bool × Nat)} (h : s.memWf = true) : (s.noteReady ran).memWf = true :=
  memWf_frame h

theorem State.goOn_memWf {s₀ : State} (h : s.memWf = true) : (s₀.goOn s).memWf = true :=
  turnOver_memWf (noteReady_memWf (settle_memWf h))

end

/-- Settles O59: what a step picks is canonical, every instruction and event keeps the form, and so does the time that passes after it. -/
theorem stepKeepsMemory : Obligations.StepKeepsMemory := by
  unfold Obligations.StepKeepsMemory
  intro s t h e
  have hgo : OutWf s.pick.go := Todo.go_memWf (pick_memWf h)
  unfold step at e
  split at e
  · next u hu =>
    cases e
    exact goOn_memWf ((congrArg OutWf hu).mp hgo)
  · cases e
  · cases e

end Sys2Proof.Machine
end

section
/-! Events of the package (01 R13, R14, R22 to R25, R28, R29; 02 R34; 03 R75, R79, R81, R412): what a record, a kill and the
give-up of watch entries leave alone, one equation for each event where it happens, and the statement about all of them. -/

namespace Sys2Proof.Machine

/-! ### What a record changes (R79, R80) -/

/-- A report takes a record number and touches only the error ring: the I/O space, and the ring's own registers. -/
theorem State.report_frame (s : State) (type source sev loc pa count ctx detail : Nat) :
    ∃ io buf drop head msix, s.report type source sev loc pa count ctx detail =
      { s with iomem := io, dev := { s.dev with recSeq := s.dev.recSeq + 1, startBuf := buf, erdrop := drop, erqHead := head, msix := msix } } := by
  unfold State.report State.putRecord State.ringPut State.signal
  dsimp only
  split
  · split <;> exact ⟨_, _, _, _, _, rfl⟩
  · split <;> exact ⟨_, _, _, _, _, rfl⟩

section

variable (s : State) (type source sev loc pa count ctx detail : Nat)

@[simp] theorem State.report_recSeq : (s.report type source sev loc pa count ctx detail).dev.recSeq = s.dev.recSeq + 1 := by
  obtain ⟨_, _, _, _, _, h⟩ := s.report_frame type source sev loc pa count ctx detail
  rw [h]

/-- The parts of the device that package events speak of, beside the ring. -/
@[simp] theorem State.report_keeps :
    (s.report type source sev loc pa count ctx detail).mem = s.mem ∧
    (s.report type source sev loc pa count ctx detail).mp = s.mp ∧
    (s.report type source sev loc pa count ctx detail).seams = s.seams ∧
    (s.report type source sev loc pa count ctx detail).watches = s.watches ∧
    (s.report type source sev loc pa count ctx detail).poison = s.poison := by
  obtain ⟨_, _, _, _, _, h⟩ := s.report_frame type source sev loc pa count ctx detail
  simp [h]

@[simp] theorem State.report_keeps_dev :
    (s.report type source sev loc pa count ctx detail).dev.stopped = s.dev.stopped ∧
    (s.report type source sev loc pa count ctx detail).dev.throt = s.dev.throt ∧
    (s.report type source sev loc pa count ctx detail).dev.clock = s.dev.clock ∧
    (s.report type source sev loc pa count ctx detail).dev.cxlUp = s.dev.cxlUp ∧
    (s.report type source sev loc pa count ctx detail).dev.linkLost = s.dev.linkLost := by
  obtain ⟨_, _, _, _, _, h⟩ := s.report_frame type source sev loc pa count ctx detail
  simp [h]

end

/-! ### What kills and given-up watch entries leave alone (R14, R24) -/

/-- What every step of a fold leaves alone, the fold leaves alone. -/
theorem foldl_keeps {α β : Type} (view : State → β) (f : State → α → State) (hf : ∀ s a, view (f s a) = view s) (l : List α) (s : State) :
    view (l.foldl f s) = view s := by
  induction l generalizing s with
  | nil => rfl
  | cons a l ih => rw [List.foldl_cons, ih, hf]

@[simp] theorem State.releaseTeam_seams (s : State) (h : Nat) : (s.releaseTeam h).seams = s.seams := rfl

@[simp] theorem State.endStream_seams (s : State) (k kind cause : Nat) : (s.endStream k kind cause).seams = s.seams := rfl

@[simp] theorem State.killGrid_seams (s : State) (gh : Nat) : (s.killGrid gh).seams = s.seams := by
  unfold State.killGrid
  dsimp only
  split
  · rfl
  · exact foldl_keeps State.seams _ (fun t h => t.releaseTeam_seams h) _ s

@[simp] theorem State.killStream_seams (s : State) (k : Nat) : (s.killStream k).seams = s.seams := by
  unfold State.killStream
  split <;> rfl

@[simp] theorem State.killAll_seams (s : State) : s.killAll.seams = s.seams :=
  (foldl_keeps State.seams _ (fun t k => t.killStream_seams k) _ _).trans (foldl_keeps State.seams _ (fun t h => t.killGrid_seams h) _ s)

@[simp] theorem State.stopDevice_seams (s : State) : s.stopDevice.seams = s.seams := s.killAll_seams

@[simp] theorem State.stopDevice_stopped (s : State) : s.stopDevice.dev.stopped = true := rfl

section

variable (s : State) (home : Nat)

/-- Giving up watch entries changes the waits of their parties, and the watch table only by taking entries out of it. -/
theorem State.trimWatches_watches : ∃ keep : Watch → Bool, (s.trimWatches home).watches = s.watches.filter keep :=
  ⟨_, foldl_keeps State.watches _ (fun t (w : Watch) => t.setGrp_watches w.party _) _ _⟩

theorem State.mem_of_mem_trimWatches {w : Watch} (h : w ∈ (s.trimWatches home).watches) : w ∈ s.watches := by
  obtain ⟨keep, hk⟩ := s.trimWatches_watches home
  exact (List.mem_filter.1 (hk ▸ h)).1

@[simp] theorem State.trimWatches_mp : (s.trimWatches home).mp = s.mp :=
  foldl_keeps State.mp _ (fun t (w : Watch) => t.setGrp_mp w.party _) _ _

@[simp] theorem State.trimWatches_mem : (s.trimWatches home).mem = s.mem :=
  foldl_keeps State.mem _ (fun t (w : Watch) => t.setGrp_mem w.party _) _ _

end

/-! ### Redirected slices, moved watch entries and the clock (R23, R24, R28) -/

/-- The slice table reads back a redirection (R23). -/
theorem State.redirect_sltOf (s : State) (n m : Nat) : (s.redirect n m).sltOf n = BitVec.ofNat 8 (0x80 + m % 32) :=
  KMap.get_set_same _ _ _ _

/-- No watch entry stays at a slice whose entries moved to another (R24). -/
theorem home_of_moved {l : List Watch} {n m : Nat} {e : Watch} (h : e ∈ l.map fun w => if w.home = n then { w with home := m } else w) :
    e.home ≠ n ∨ m = n := by
  obtain ⟨w, -, rfl⟩ := List.mem_map.1 h
  split
  · exact ne_or_eq m n
  · next hw => exact .inl hw

theorem freeClock_range (n : Nat) : 800 ≤ freeClock n ∧ freeClock n ≤ 1600 ∧ freeClock n % 100 = 0 := by
  unfold freeClock
  omega

/-! ### Each event, where it happens -/

section

variable {s : State}

theorem execSeamFlit_next {m : Fin 10} {ok : Bool} {bytes : Nat} (hup : (s.seams.get m).up = true) (hlim : m.val < 6 → (s.seams.get m).failed < 65) :
    execSeamFlit m ok bytes s = .next { s with
      seams := s.seams.set m (if ok then { s.seams.get m with carried := (s.seams.get m).carried + bytes, failed := 0 }
        else { s.seams.get m with retried := (s.seams.get m).retried + 1, failed := (s.seams.get m).failed + 1 }) } := by
  unfold execSeamFlit
  refine if_neg ?_
  simpa [hup] using hlim

theorem execHubSeamLoss_next {die : Fin 6} (hup : (s.seams.get ⟨die.val, by omega⟩).up = true) (hfail : 65 ≤ (s.seams.get ⟨die.val, by omega⟩).failed) :
    execHubSeamLoss die s = .next (({ s with seams := s.seams.set die.val { s.seams.get ⟨die.val, by omega⟩ with up := false } }.stopDevice).report
      6 1 3 (locOf die.val 0 0 0 0 0) 0 1 0xFFFF 0) := by
  unfold execHubSeamLoss
  refine if_neg ?_
  simpa [hup] using hfail

/-- No work is left once no stream is and every grid is closed. -/
theorem State.unfinished_eq_false (hstreams : s.streams = []) (hgrids : ∀ e ∈ s.grids, e.2.closed = true) : s.unfinished = false := by
  simpa [State.unfinished, hstreams] using hgrids

/-- Retirement is due at a slice whose count has reached the threshold, in a live stack, not retired and not refused before (R22). -/
def State.retirementDue (s : State) (sl : Fin 576) : Prop :=
  s.dev.threshold ≤ KMap.get 0 s.mp.corrected sl.val ∧ s.retiredSlice sl.val = false ∧ s.dev.stackMap.getLsbD (sl.val / 32) = true ∧
    s.mp.turnedDown.contains sl.val = false

theorem State.retirementDue.guard {sl : Fin 576} (h : s.retirementDue sl) :
    ¬ (KMap.get 0 s.mp.corrected sl.val < s.dev.threshold || s.retiredSlice sl.val || !s.dev.stackMap.getLsbD (sl.val / 32) ||
      s.mp.turnedDown.contains sl.val) = true := by
  obtain ⟨hcount, hret, hstack, hdown⟩ := h
  simp only [hret, hstack, hdown, decide_eq_false (Nat.not_lt.2 hcount)]
  decide

theorem execSliceRetirement_refused {sl : Fin 576} (hdue : s.retirementDue sl) (hnone : s.servingSlice sl.val = none) :
    execSliceRetirement sl s = .next (({ s with mp := { s.mp with turnedDown := s.mp.turnedDown ++ [sl.val] } }).report 4 1 0
      (locOf (sl.val / 96) (sl.val / 32 % 3) 0 sl.val (sl.val / 32) 0) 0 (KMap.get 0 s.mp.corrected sl.val) 0xFFFF 0) :=
  (if_neg hdue.guard).trans (by rw [hnone])

theorem execSliceRetirement_moved {sl : Fin 576} {k : Nat} (hdue : s.retirementDue sl) (hsome : s.servingSlice sl.val = some k) :
    execSliceRetirement sl s = .next ((State.trimWatches { s.redirect sl.val k with
        watches := s.watches.map fun w => if w.home = sl.val then { w with home := k } else w } k).report 3 1 0
      (locOf (sl.val / 96) (sl.val / 32 % 3) 0 sl.val (sl.val / 32) 0) 0 (KMap.get 0 s.mp.corrected sl.val) 0xFFFF 0) :=
  (if_neg hdue.guard).trans (by rw [hsome])

theorem execPowerLimitWrite_next {w : Nat} (hw : s.hostq.head? = some (.power w)) :
    execPowerLimitWrite s = .next ({ s.popHost with
      dev := { s.dev with powerLimit := w, clock := if s.dev.throt then 800 else freeClock s.fresh } }).bump := by
  obtain ⟨l, hq⟩ := List.head?_eq_some_iff.1 hw
  simp only [execPowerLimitWrite, hq]
  rfl

theorem execMemoryScrub_poisoned {pa : Nat} (hpa : s.paOk (64 * (pa / 64)) = true) (hpoison : s.poison.contains (pa / 64) = true) :
    execMemoryScrub pa s = .next ({ s.report 2 0 0 (s.locOfPa (64 * (pa / 64))) (64 * (pa / 64)) 1 0xFFFF 1 with
      mp := if (Config.freeWord s.fresh).getLsbD 0 then { s.mp with badLines := s.mp.badLines ++ [pa / 64] } else s.mp
      mem := writeBytes s.mem (64 * (pa / 64)) ((List.range 64).map fun i => (Config.freeWord (s.fresh + 1 + i)).setWidth 8)
      poison := s.poison.filter (· != pa / 64) }.bumpBy 65) := by
  simp only [execMemoryScrub, hpa, hpoison, Bool.not_true, Bool.false_eq_true, if_false]
  split <;> simp

theorem execMemoryScrub_counted {pa : Nat} (hpa : s.paOk (64 * (pa / 64)) = true) (hpoison : s.poison.contains (pa / 64) = false) (hhbm : s.isHbm pa = true) :
    execMemoryScrub pa s = .next { s with
      mp := { s.mp with corrected := KMap.modify 0 s.mp.corrected (s.homeOf pa) (· + (Config.freeWord s.fresh).toNat % 2 ^ 16) } }.bump := by
  simp only [execMemoryScrub, hpa, hpoison, hhbm, Bool.not_true, Bool.not_false, Bool.false_eq_true, if_false, if_true]

end

/-- Settles O43, event by event. -/
theorem packageEvents : Obligations.PackageEvents := by
  unfold Obligations.PackageEvents
  intro m die sl port w bytes pa ok
  refine ⟨?seamFlit, ?hubSeamLoss, ?deviceStop, ?retirementRefused, ?sliceRetired, ?powerLimit, ?throtAssert, ?throtRelease, ?coolant,
    ?thermal, ?cxlPort, ?hostPort, ?scrubPoison, ?scrubCount, ?correctedReport, ?fatalDie⟩
  case seamFlit =>
    rintro s ⟨hup, hlim⟩
    refine ⟨_, execSeamFlit_next hup hlim, fun hok => ?_, fun hok => ?_, fun k hk => ?_, rfl⟩
    · simp [vec_get_set, hok]
    · simp [vec_get_set, hok]
    · simp [vec_get_set, Fin.val_ne_of_ne hk.symm]
  case hubSeamLoss =>
    rintro s ⟨hup, hfail⟩
    refine ⟨_, execHubSeamLoss_next hup hfail, ?_, ?_⟩
    · simp
    · simp [vec_get_set]
  case deviceStop =>
    rintro s ⟨hstop, hstate, hstart, hstreams, hgrids⟩
    refine if_neg ?_
    simpa [hstop, hstart, State.unfinished_eq_false hstreams hgrids] using hstate
  case retirementRefused =>
    rintro s ⟨hdue, hnone⟩
    exact execSliceRetirement_refused hdue hnone
  case sliceRetired =>
    rintro k s ⟨hdue, hsome⟩
    refine ⟨_, execSliceRetirement_moved hdue hsome, ?_, ?_, fun e he => ?_, ?_⟩
    · simpa [State.sltOf] using s.redirect_sltOf sl.val k
    · simp [State.redirect]
    · exact home_of_moved (State.mem_of_mem_trimWatches _ _ (by simpa using he))
    · simp [State.redirect]
  case powerLimit =>
    intro s hw
    refine ⟨_, execPowerLimitWrite_next hw, ?_⟩
    have hc := freeClock_range s.fresh
    cases ht : s.dev.throt <;> simp [State.popHost, hc, ht]
  case throtAssert =>
    intro s ht
    refine ⟨s.throttle, if_neg (by simp [ht]), ?_⟩
    simp [State.throttle]
  case throtRelease =>
    intro s ht
    refine ⟨_, if_neg (by simp [ht]), ?_⟩
    have hc := freeClock_range s.fresh
    simp [hc]
  case coolant =>
    intro s _
    refine ⟨_, rfl, ?_⟩
    split
    · next ht => exact ⟨ht, rfl, fun _ => rfl⟩
    · next ht => simp [State.throttle, ht]
  case thermal =>
    intro s ht
    exact if_neg (by simp [ht])
  case cxlPort =>
    rintro s ⟨hup, hne⟩
    refine ⟨s.cxlLost port 1, if_neg (by simp [hup, hne]), ?_⟩
    simp [State.cxlLost]
  case hostPort =>
    intro s hup
    exact ⟨_, if_neg (by simp [hup]), State.stopDevice_stopped _⟩
  case scrubPoison =>
    rintro s ⟨hpa, hpoison⟩
    refine ⟨_, execMemoryScrub_poisoned hpa hpoison, fun a ha => ?_, ?_, ?_⟩
    · exact readByte_writeBytes_other _ _ _ _ (by simp only [List.length_map, List.length_range]; omega)
    · simp
    · simp
  case scrubCount =>
    rintro s ⟨hpa, hpoison, hhbm⟩
    exact ⟨_, execMemoryScrub_counted hpa hpoison hhbm, rfl, fun k hk => KMap.get_set_other _ _ _ hk⟩
  case correctedReport =>
    intro s hrun
    refine ⟨_, if_neg (by simp [hrun]), ?_⟩
    simp
  case fatalDie =>
    intro s hlive
    exact ⟨_, if_neg (by simp [hlive]), rfl, rfl, rfl⟩

end Sys2Proof.Machine
end

section
/-! Accesses of the host to memory (02 R33; 03 R59, R65): what bytes a store of a run of bytes leaves, and which watch entries a written
line marks. -/

namespace Sys2Proof.Machine

/-! ### Runs of bytes as the store of a sector -/

/-- Bit j of byte k of a little-endian number. -/
theorem testBit_leBytes (bs : List Byte) (k j : Nat) (hk : k < bs.length) (hj : j < 8) :
    (leBytes bs).testBit (8 * k + j) = bs[k].getLsbD j := by
  induction bs generalizing k with
  | nil => simp at hk
  | cons b bs ih =>
    have hsplit : leBytes (b :: bs) = 2 ^ 8 * leBytes bs + b.toNat := by rw [leBytes]; omega
    rw [hsplit, Nat.testBit_two_pow_mul_add _ b.isLt]
    cases k with
    | zero => simp [hj, BitVec.getLsbD]
    | succ k =>
      rw [if_neg (by omega), show 8 * (k + 1) + j - 8 = 8 * k + j by omega, ih k (by simpa using hk)]
      rfl

/-- The byte mask of a store of a run covers the run. -/
theorem secBytes_mask {off : Nat} {bs : List Byte} (bnd : Nat → Bound) (i : Nat) (hfit : off + bs.length ≤ 64) :
    (secBytes off bs bnd).mask.getLsbD i = true ↔ off ≤ i ∧ i < off + bs.length := by
  simp only [secBytes, BitVec.getLsbD_ofNat, Nat.testBit_mul_two_pow, Nat.testBit_two_pow_sub_one, Bool.and_eq_true, decide_eq_true_eq]
  omega

/-- The data of a store of a run hold its bytes from its offset on. -/
theorem secBytes_byte {off : Nat} {bs : List Byte} (bnd : Nat → Bound) {i : Nat} (hi : i < bs.length) (hfit : off + bs.length ≤ 64) :
    (secBytes off bs bnd).data.byte (off + i) = bs[i] := by
  refine BitVec.eq_of_getLsbD_eq fun j hj => ?_
  have hplace : 8 * (off + i) + j - 8 * off = 8 * i + j := by omega
  simp only [secBytes, Sector.byte, BitVec.getLsbD_extractLsb', BitVec.getLsbD_ofNat, Nat.testBit_mul_two_pow, hplace, testBit_leBytes bs i j hi hj]
  simp only [hj, decide_true, Bool.true_and, decide_eq_true (show 8 * (off + i) + j < 512 by omega), decide_eq_true (show 8 * off ≤ 8 * (off + i) + j by omega)]

/-! ### Pieces of a run cut at sector boundaries -/

/-- A piece of a run (sector, offset, bytes) holds a byte's address. -/
abbrev pieceHolds (e : Nat × Nat × List Byte) (a : Nat) : Prop := 64 * e.1 + e.2.1 ≤ a ∧ a < 64 * e.1 + e.2.1 + e.2.2.length

/-- A piece lies within its sector, and its bytes are those of a run of bytes at an address. -/
def PieceOf (pa : Nat) (data : List Byte) (e : Nat × Nat × List Byte) : Prop :=
  e.2.1 + e.2.2.length ≤ 64 ∧ pa ≤ 64 * e.1 + e.2.1 ∧ e.2.2 <+: data.drop (64 * e.1 + e.2.1 - pa)

theorem PieceOf.getElem {pa : Nat} {data : List Byte} {e : Nat × Nat × List Byte} (h : PieceOf pa data e) {i : Nat} (hi : i < e.2.2.length) :
    e.2.2[i] = data[64 * e.1 + e.2.1 + i - pa]?.getD 0 := by
  obtain ⟨-, hpa, hpre⟩ := h
  have hget := (List.prefix_iff_getElem?.1 hpre) i hi
  rw [List.getElem?_drop, show 64 * e.1 + e.2.1 - pa + i = 64 * e.1 + e.2.1 + i - pa by omega] at hget
  rw [hget, Option.getD_some]

theorem pieceOf_of_mem_sectorPieces {pa : Nat} {data : List Byte} {e : Nat × Nat × List Byte} (h : e ∈ sectorPieces pa data) : PieceOf pa data e := by
  obtain ⟨k, -, rfl⟩ := List.mem_map.1 h
  have hskip : 64 * (pa / 64 + k) + (if k = 0 then pa % 64 else 0) - pa = if k = 0 then 0 else 64 * k - pa % 64 := by split <;> omega
  refine ⟨?_, ?_, ?_⟩
  · dsimp only
    rw [List.length_take]
    split <;> omega
  · dsimp only
    split <;> omega
  · dsimp only
    rw [hskip]
    exact List.take_prefix _ _

/-- The pieces of a run hold its bytes, and no other. -/
theorem sectorPieces_hold (pa : Nat) (data : List Byte) (a : Nat) :
    (∃ e ∈ sectorPieces pa data, pieceHolds e a) ↔ pa ≤ a ∧ a < pa + data.length := by
  constructor
  · rintro ⟨e, he, hlo, hhi⟩
    obtain ⟨-, hpa, hpre⟩ := pieceOf_of_mem_sectorPieces he
    have hlen := hpre.length_le
    rw [List.length_drop] at hlen
    omega
  · rintro ⟨hlo, hhi⟩
    refine ⟨_, List.mem_map.2 ⟨a / 64 - pa / 64, List.mem_range.2 (by omega), rfl⟩, ?_, ?_⟩
    · dsimp only
      split <;> omega
    · simp only [List.length_take, List.length_drop]
      split <;> omega

/-! ### A host write (R33) -/

/-- Counted traffic changes the seams alone. -/
theorem State.carry_only (s : State) (a b bytes : Nat) : ∃ seams, s.carry a b bytes = { s with seams := seams } := by
  unfold State.carry
  dsimp only
  split <;> exact ⟨_, rfl⟩

@[simp] theorem State.carry_mem (s : State) (a b bytes : Nat) : (s.carry a b bytes).mem = s.mem := by
  obtain ⟨_, h⟩ := s.carry_only a b bytes
  rw [h]

/-- A host store at its home leaves the bytes of its piece, and every other byte as it was. -/
theorem readByte_hostStore (s : State) {pa : Nat} {data : List Byte} {e : Nat × Nat × List Byte} (h : PieceOf pa data e) (a : Nat) :
    readByte (s.homeStore e.1 (hostStore e.2.1 e.2.2) false).mem a =
      if pieceHolds e a then data[a - pa]?.getD 0 else readByte s.mem a := by
  obtain ⟨hfit, -, -⟩ := id h
  have hmask : (a / 64 = e.1 ∧ (hostStore e.2.1 e.2.2).mask.getLsbD (a % 64) = true) ↔ pieceHolds e a := by
    rw [show (hostStore e.2.1 e.2.2).mask = (secBytes e.2.1 e.2.2 fun _ => bInf).mask from rfl, secBytes_mask _ _ hfit]
    omega
  refine (readByte_writeMasked s.mem e.1 _ a).trans ?_
  simp only [hmask]
  split
  · next hin =>
    obtain ⟨hlo, hhi⟩ := hin
    have hoff : a % 64 = e.2.1 + (a - (64 * e.1 + e.2.1)) := by omega
    have hi : a - (64 * e.1 + e.2.1) < e.2.2.length := by omega
    rw [hoff]
    refine (secBytes_byte (fun _ => bInf) hi hfit).trans ((h.getElem hi).trans ?_)
    rw [Nat.add_sub_cancel' hlo]
  · rfl

/-- The pieces of a run stored one after the other leave the bytes of the run where a piece holds them. -/
theorem readByte_hostPieces {pa : Nat} {data : List Byte} (a : Nat) (l : List (Nat × Nat × List Byte)) (hl : ∀ e ∈ l, PieceOf pa data e) (s : State) :
    readByte (l.foldl (fun s (e : Nat × Nat × List Byte) =>
        (s.homeStore e.1 (hostStore e.2.1 e.2.2) false).carry 6 (dieOfHome (s.homeOf (64 * e.1))) e.2.2.length) s).mem a =
      if ∃ e ∈ l, pieceHolds e a then data[a - pa]?.getD 0 else readByte s.mem a := by
  induction l generalizing s with
  | nil => simp
  | cons e l ih =>
    rw [List.foldl_cons, ih (fun x hx => hl x (List.mem_cons_of_mem _ hx)), State.carry_mem, readByte_hostStore s (hl e List.mem_cons_self)]
    by_cases hrest : ∃ x ∈ l, pieceHolds x a
    · simp [hrest]
    · by_cases hhere : pieceHolds e a <;> simp [hrest, hhere]

/-- A host write leaves its bytes, and every other byte as it was. -/
theorem State.readByte_hostWrite (s : State) (pa : Nat) (data : List Byte) (a : Nat) :
    readByte (s.hostWrite pa data).mem a = if pa ≤ a ∧ a < pa + data.length then data[a - pa]?.getD 0 else readByte s.mem a := by
  refine (readByte_hostPieces a _ (fun _ he => pieceOf_of_mem_sectorPieces he) s).trans ?_
  simp only [sectorPieces_hold]

/-! ### Marked watch entries (R59) -/

/-- A watch entry after a write of sectors: marked where its counter lies in one of them and has reached its target. -/
def Watch.noted (s : State) (secs : List Nat) (x : Watch) : Watch :=
  if x.pa / 64 ∈ secs ∧ x.target.toNat ≤ (s.read64 x.pa).toNat then { x with hit := true } else x

theorem Watch.noted_eq (s : State) (secs : List Nat) (x : Watch) : x.noted s secs = { x with hit := (x.noted s secs).hit } := by
  unfold Watch.noted
  split <;> rfl

theorem Watch.noted_hit (s : State) (secs : List Nat) (x : Watch) :
    (x.noted s secs).hit = true ↔ x.hit = true ∨ (x.pa / 64 ∈ secs ∧ x.target.toNat ≤ (s.read64 x.pa).toNat) := by
  unfold Watch.noted
  split
  · next h => simp [h]
  · next h => simp [h]

/-- Entries noted at one sector and then at others are noted at all of them. -/
theorem Watch.noted_cons (s : State) (sec : Nat) (secs : List Nat) (x : Watch) :
    (if x.pa / 64 = sec ∧ x.target.toNat ≤ (s.read64 x.pa).toNat then { x with hit := true } else x : Watch).noted s secs = x.noted s (sec :: secs) := by
  unfold Watch.noted
  by_cases hsec : x.pa / 64 = sec
  · by_cases ht : x.target.toNat ≤ (s.read64 x.pa).toNat <;> simp [hsec, ht]
  · simp [hsec]

/-- Written sectors noted one after the other change no memory, and the watch table entry by entry. -/
theorem foldl_noteWatches (secs : List Nat) (s : State) :
    (secs.foldl (fun t sec => t.noteWatches sec) s).mem = s.mem ∧ (secs.foldl (fun t sec => t.noteWatches sec) s).hostq = s.hostq ∧
      (secs.foldl (fun t sec => t.noteWatches sec) s).watches = s.watches.map (Watch.noted s secs) := by
  refine ⟨foldl_keeps State.mem (fun t sec => t.noteWatches sec) (fun _ _ => rfl) _ _,
    foldl_keeps State.hostq (fun t sec => t.noteWatches sec) (fun _ _ => rfl) _ _, ?_⟩
  induction secs generalizing s with
  | nil => exact (List.map_id'' (fun _ => if_neg (by simp)) s.watches).symm
  | cons sec secs ih =>
    rw [List.foldl_cons, ih, State.noteWatches, List.map_map]
    exact List.map_congr_left fun x _ => Watch.noted_cons s sec secs x

/-- Sectors written back from the hub cache change nothing else. -/
theorem foldl_settleHub (secs : List Nat) (s : State) :
    ∃ cache, secs.foldl (fun t sec => t.settleHub sec) s = { s with hubCache := cache } := by
  induction secs generalizing s with
  | nil => exact ⟨_, rfl⟩
  | cons sec secs ih => exact ih (s.settleHub sec)

/-- Traffic counted for some of the sectors of a run changes the seams alone. -/
theorem foldl_carry (counts : Nat → Bool) (die : Nat → Nat) (secs : List Nat) (s : State) :
    ∃ seams, secs.foldl (fun t sec => if counts sec then t.carry 6 (die sec) 64 else t) s = { s with seams := seams } := by
  induction secs generalizing s with
  | nil => exact ⟨_, rfl⟩
  | cons sec secs ih =>
    rw [List.foldl_cons]
    split
    · obtain ⟨_, hcarry⟩ := s.carry_only 6 (die sec) 64
      rw [hcarry]
      exact ih _
    · exact ih s

/-! ### Each event, where it happens -/

section

variable {s : State} {pa len : Nat} {data : List Byte}

theorem execCxlMemHostWrite_next (hq : s.hostq.head? = some (.memWrite pa data)) :
    execCxlMemHostWrite s = .next (if (List.range data.length).all fun i => s.isHbm (pa + i) then s.popHost.hostWrite pa data else s.popHost) := by
  obtain ⟨l, hl⟩ := List.head?_eq_some_iff.1 hq
  rw [execCxlMemHostWrite, hl]

theorem execCxlMemHostRead_next (hq : s.hostq.head? = some (.memRead pa len)) :
    ∃ seams, execCxlMemHostRead s = .next { s.popHost with
      seams := seams
      dev := { s.dev with reads := s.dev.reads ++ [(List.range len).map fun i => if s.isHbm (pa + i) then readByte s.mem (pa + i) else 0] } } := by
  obtain ⟨l, hl⟩ := List.head?_eq_some_iff.1 hq
  obtain ⟨seams, hseams⟩ := foldl_carry (fun sec => s.isHbm (64 * sec)) (fun sec => dieOfHome (s.homeOf (64 * sec))) (codeSectors pa len) s.popHost
  refine ⟨seams, ?_⟩
  simp only [execCxlMemHostRead, hl, hseams]
  rfl

theorem execWatchedLineInvalidation_next (hq : s.hostq.head? = some (.line pa data)) (hhost : ∀ i < data.length, s.isHost (pa + i) = true) :
    ∃ u : State, execWatchedLineInvalidation s = .next ((codeSectors pa data.length).foldl (fun t sec => t.noteWatches sec) u) ∧
      u.mem = writeBytes s.mem pa data ∧ u.hostq = s.hostq.tail ∧ u.watches = s.watches := by
  obtain ⟨l, hl⟩ := List.head?_eq_some_iff.1 hq
  obtain ⟨cache, hcache⟩ := foldl_settleHub (codeSectors pa data.length) { s.popHost with mem := writeBytes s.mem pa data }
  refine ⟨{ s.popHost with mem := writeBytes s.mem pa data, hubCache := cache }, ?_, rfl, rfl, rfl⟩
  have hall : ((List.range data.length).all fun i => s.isHost (pa + i)) = true := by simpa using hhost
  rw [execWatchedLineInvalidation, hl, ← hcache]
  exact if_pos hall

end

/-- Settles O44, event by event. -/
theorem hostMemoryEvents : Obligations.HostMemoryEvents := by
  unfold Obligations.HostMemoryEvents
  intro pa len data
  refine ⟨?written, ?outside, ?bytes, ?read, ?line⟩
  case written =>
    rintro s ⟨hq, hin⟩
    exact (execCxlMemHostWrite_next hq).trans (congrArg _ (if_pos (by simpa using hin)))
  case outside =>
    rintro s ⟨hq, hout⟩
    exact (execCxlMemHostWrite_next hq).trans (congrArg _ (if_neg (by simpa using hout)))
  case bytes => exact fun s a => s.readByte_hostWrite pa data a
  case read =>
    intro s hq
    obtain ⟨seams, h⟩ := execCxlMemHostRead_next hq
    exact ⟨_, h, rfl, rfl, rfl⟩
  case line =>
    rintro s ⟨hq, hhost⟩
    obtain ⟨u, h, hmem, hhostq, hwatches⟩ := execWatchedLineInvalidation_next hq hhost
    obtain ⟨hm, hq', hw⟩ := foldl_noteWatches (codeSectors pa data.length) u
    refine ⟨_, h, hm.trans hmem, hq'.trans hhostq, by rw [hw, List.length_map, hwatches], fun k hk hk' => ?_⟩
    simp only [hw, hwatches, List.getElem_map, State.read64, hm]
    exact ⟨Watch.noted_eq _ _ _, Watch.noted_hit _ _ _⟩

end Sys2Proof.Machine
end

section
/-! Events of the Tirsol links (02 R35 to R48): what sending leaves alone at a port and at a peer, what a request performed at its home
leaves alone, one equation for each way an event goes, and the statement about all of them. -/

namespace Sys2Proof.Machine

/-! ### What sending leaves alone (R36, R38, R41) -/

theorem Port.sendAll_rx (p : Port) (l : List (Nat × List Byte)) : (p.sendAll l).rx = p.rx := by
  induction l generalizing p with
  | nil => rfl
  | cons f l ih =>
    rw [Port.sendAll]
    split
    · rfl
    · exact ih _

/-- Queueing flits at a port leaves what it has received. -/
@[simp] theorem Port.queue_rx (p : Port) (l : List (Nat × List Byte)) : (p.queue l).rx = p.rx := by
  unfold Port.queue Port.flush
  split
  · rfl
  · exact Port.sendAll_rx _ _

section

variable (s : State) (port : Fin 12) (f : Port → Port)

@[simp] theorem State.updPort_get : (s.updPort port f).ports.get port = f (s.ports.get port) := by
  simp [State.updPort, vec_get_set]

/-- A port changed leaves the other ports and memory. -/
theorem State.updPort_others : (∀ k, k ≠ port → (s.updPort port f).ports.get k = s.ports.get k) ∧ (s.updPort port f).mem = s.mem :=
  ⟨fun _ hk => by simp [State.updPort, vec_get_set, Fin.val_ne_of_ne hk.symm], rfl⟩

@[simp] theorem State.updPort_mem : (s.updPort port f).mem = s.mem := rfl
@[simp] theorem State.updPort_peer (n : Nat) : (s.updPort port f).peer n = s.peer n := rfl

end

/-- Counting a grid's traffic changes the grids alone. -/
theorem State.countTirsol_only (s : State) (p : Party) (n : Nat) : ∃ grids, s.countTirsol p n = { s with grids := grids } := by
  cases p with
  | stream k => exact ⟨_, rfl⟩
  | group t g =>
    unfold State.countTirsol
    dsimp only
    split <;> exact ⟨_, rfl⟩

/-- A request put on the link changes ports and counts alone. -/
theorem State.transmit_only (s : State) (p : BitVec 12) (t : TSent) : ∃ ports grids, s.transmit p t = { s with ports := ports, grids := grids } := by
  unfold State.transmit
  obtain ⟨grids, h⟩ := (s.updPort (portFin t.port) fun x => x.queue (t.flits s.ownDev p (s.peer p.toNat).ackt)).countTirsol_only t.party
    (64 * (t.flits s.ownDev p (s.peer p.toNat).ackt).length)
  exact ⟨_, grids, h⟩

@[simp] theorem State.transmit_mem (s : State) (p : BitVec 12) (t : TSent) : (s.transmit p t).mem = s.mem := by
  obtain ⟨_, _, h⟩ := s.transmit_only p t
  rw [h]

@[simp] theorem State.transmit_peer (s : State) (p : BitVec 12) (t : TSent) (n : Nat) : (s.transmit p t).peer n = s.peer n := by
  obtain ⟨_, _, h⟩ := s.transmit_only p t
  rw [h]
  rfl

@[simp] theorem State.carry_ports (s : State) (a b bytes : Nat) : (s.carry a b bytes).ports = s.ports := by
  obtain ⟨_, h⟩ := s.carry_only a b bytes
  rw [h]

/-! ### What a request performed at its home leaves alone (R39, R41) -/

@[simp] theorem State.homeAtom64_ports (s : State) (op pa : Nat) (x y : DWord) : (s.homeAtom64 op pa x y).1.ports = s.ports := by
  simp only [State.homeAtom64]
  split <;> rfl

@[simp] theorem State.homeAtom32_ports (s : State) (op pa : Nat) (x y : LaneVal) : (s.homeAtom32 op pa x y).1.ports = s.ports := by
  simp only [State.homeAtom32]
  split <;> rfl

theorem State.remoteWrite_ports (s : State) (q : TReq) : (s.remoteWrite q).ports = s.ports :=
  List.foldlRecOn (motive := fun t : State => t.ports = s.ports) _ _ rfl fun _ h _ _ => h

/-- A request performed leaves the ports as they were. -/
theorem State.perform_ports (s : State) (q : TReq) : (s.perform q).1.ports = s.ports := by
  have hfold (op pa : Nat) (l : List (LaneVal × LaneVal)) :
      (l.foldl (fun (acc : State × List LaneVal) x => let r := acc.1.homeAtom32 op pa x.1 x.2; (r.1, acc.2 ++ [r.2])) (s, [])).1.ports = s.ports :=
    List.foldlRecOn (motive := fun acc : State × List LaneVal => acc.1.ports = s.ports) _ _ rfl
      fun acc hacc _ _ => (acc.1.homeAtom32_ports _ _ _ _).trans hacc
  unfold State.perform
  extract_lets pa secs small r
  have hsmall (op : Nat) : (small op).1.ports = s.ports := hfold op pa _
  have hr : r.1.ports = s.ports := s.homeAtom64_ports _ _ _ _
  clear_value small r secs
  generalize (pa / 64 :: if opKind q.op ≤ 2 then secs else []) = named
  split
  · rfl
  · split
    · split <;> rfl
    · exact s.remoteWrite_ports q
    · exact s.remoteWrite_ports q
    · split
      · rfl
      · split
        · exact hr
        · exact hsmall _
    · split
      · rfl
      · exact hsmall _
    · rfl

section

variable (s : State) (port : Fin 12) (q : TReq) (status : Nat) (applied : Bool) (data : List Byte)

/-- A response leaves memory, the peers, and what its port has received. -/
@[simp] theorem State.respond_keeps : (s.respond port q status applied data).mem = s.mem ∧
    (∀ n, (s.respond port q status applied data).peer n = s.peer n) ∧
    ((s.respond port q status applied data).ports.get port).rx = (s.ports.get port).rx :=
  ⟨rfl, fun _ => rfl, by simp [State.respond]⟩

end

/-! ### Flits and retraining, where they happen (R35 to R37) -/

section

variable {s : State} {port : Fin 12} {flit : Sector}

/-- The port carries flits: it has trained, is not down and does not retrain. -/
def Port.Live (p : Port) : Prop := p.trained = true ∧ p.down = false ∧ p.retraining = false

theorem Port.Live.guard {p : Port} (h : p.Live) : ¬ (!p.trained || p.down || p.retraining) = true := by
  obtain ⟨htrained, hdown, hretraining⟩ := h
  simp [htrained, hdown, hretraining]

theorem execTirsolFlitReceive_taken (hlive : (s.ports.get port).Live) (hright : flitOk flit = true ∧ flitSeq flit = (s.ports.get port).lack + 1) :
    execTirsolFlitReceive port flit s = .next (s.updPort port (·.accept flit)) :=
  (if_neg hlive.guard).trans (if_pos hright)

theorem execTirsolFlitReceive_known (hlive : (s.ports.get port).Live) (hwrong : ¬ (flitOk flit = true ∧ flitSeq flit = (s.ports.get port).lack + 1))
    (hasked : flitOk flit = true ∧ (s.ports.get port).asked = true) : execTirsolFlitReceive port flit s = .next s :=
  (if_neg hlive.guard).trans ((if_neg hwrong).trans (if_pos hasked))

theorem execTirsolFlitReceive_asked (hlive : (s.ports.get port).Live) (hwrong : ¬ (flitOk flit = true ∧ flitSeq flit = (s.ports.get port).lack + 1))
    (hasked : ¬ (flitOk flit = true ∧ (s.ports.get port).asked = true)) : execTirsolFlitReceive port flit s = .next (s.updPort port Port.ask) :=
  (if_neg hlive.guard).trans ((if_neg hwrong).trans (if_neg hasked))

/-- A port that has retrained: it carries flits again, and sends those that wait (R36). -/
def Port.retrained (p : Port) : Port :=
  { p with retraining := false, down := false, trained := true, failed := 0, asked := false, replays := 0, resent := 0 }.flush

theorem execRetrainEnd_ok (h : (s.ports.get port).retraining = true) :
    execRetrainEnd port true s = .next ((s.updPort port Port.retrained).revivePeers port) :=
  if_neg (by simp [h])

theorem execRetrainEnd_failedOnce (h : (s.ports.get port).retraining = true) (hfirst : (s.ports.get port).failed = 0) :
    execRetrainEnd port false s = .next (s.updPort port fun p => { p with failed := p.failed + 1 }) :=
  (if_neg (by simp [h])).trans <| (if_neg Bool.false_ne_true).trans <| if_pos (by omega)

theorem execRetrainEnd_failedTwice (h : (s.ports.get port).retraining = true) (hagain : (s.ports.get port).failed ≠ 0) :
    execRetrainEnd port false s = .next ((s.updPort port fun p => { p with failed := p.failed + 1 }).portDown port) :=
  (if_neg (by simp [h])).trans <| (if_neg Bool.false_ne_true).trans <| if_neg (by omega)

end

/-! ### Requests at their home, where they happen (R38 to R42) -/

section

variable {s : State} {port : Fin 12} {q : TReq} {rest : List Sector}

/-- The window of a request's source without the entries that the request acknowledges (R41). -/
def State.windowFor (s : State) (q : TReq) : List WinEntry := (s.peer q.src.toNat).window.filter fun e => !seqLe e.seq q.ackt

/-- The state in which a request is looked up: its flits taken, the window of its source trimmed (R41). -/
def State.arrived (s : State) (port : Fin 12) (q : TReq) (rest : List Sector) : State :=
  (s.updPort port fun p => { p with rx := rest }).setPeer q.src.toNat { s.peer q.src.toNat with window := s.windowFor q, acked := some q.ackt }

theorem execTirsolRequestArrival_misdirected (hparse : parseReq (s.ports.get port).rx = some (q, rest)) {n : BitVec 12}
    (hdev : s.dev.devNum = some n) (hne : n ≠ q.dst) : execTirsolRequestArrival port q s = .next (s.updPort port fun p => { p with rx := rest }) := by
  simp [execTirsolRequestArrival, hparse, hdev, hne]

/-- A device without a number takes every request, one with a number those for it (log 45). -/
theorem not_elsewhere (hdev : s.dev.devNum = none ∨ s.dev.devNum = some q.dst) : ¬ (s.dev.devNum.any (· != q.dst)) = true := by
  rcases hdev with h | h <;> simp [h]

/-- A request that its home has not seen: not acknowledged by its source, not older than the window, not in it, and the window has room (R41). -/
def IsNew (q : TReq) (win : List WinEntry) : Prop :=
  seqLe q.seq q.ackt = false ∧ (win = [] ∨ ∃ e ∈ win, seqLe q.seq e.seq = false) ∧ (∀ e ∈ win, e.seq ≠ q.seq) ∧ win.length < 1024

/-- The checks that the home makes let new requests through and no other; no entry having the request's number, one that it does not precede
is before it. -/
theorem isNew_iff_checks {win : List WinEntry} :
    IsNew q win ↔ (seqLe q.seq q.ackt || !win.isEmpty && win.all fun e => seqLe q.seq e.seq && q.seq != e.seq) = false ∧
      win.find? (fun e => e.seq == q.seq) = none ∧ win.length < 1024 := by
  have hfind : win.find? (fun e => e.seq == q.seq) = none ↔ ∀ e ∈ win, e.seq ≠ q.seq := by simp
  have hyoung (hdiff : ∀ e ∈ win, e.seq ≠ q.seq) : (!win.isEmpty && win.all fun e => seqLe q.seq e.seq && q.seq != e.seq) = false ↔
      win = [] ∨ ∃ e ∈ win, seqLe q.seq e.seq = false := by
    rw [Bool.and_eq_false_iff, Bool.not_eq_false', List.isEmpty_iff, List.all_eq_false]
    refine or_congr_right (exists_congr fun e => and_congr_right fun he => ?_)
    simp [(hdiff e he).symm]
  rw [hfind, Bool.or_eq_false_iff]
  constructor
  · rintro ⟨hack, hwin, hdiff, hroom⟩
    exact ⟨⟨hack, (hyoung hdiff).2 hwin⟩, hdiff, hroom⟩
  · rintro ⟨⟨hack, hwin⟩, hdiff, hroom⟩
    exact ⟨hack, (hyoung hdiff).1 hwin, hdiff, hroom⟩

/-- A request that is not new is dropped, or answered again: nothing is performed. -/
theorem execTirsolRequestArrival_known (hparse : parseReq (s.ports.get port).rx = some (q, rest))
    (hdev : s.dev.devNum = none ∨ s.dev.devNum = some q.dst) (hnew : ¬ IsNew q (s.windowFor q)) :
    ∃ t, execTirsolRequestArrival port q s = .next t ∧ (t.ports.get port).rx = rest ∧ t.mem = s.mem ∧ (t.peer q.src.toNat).window = s.windowFor q := by
  unfold execTirsolRequestArrival
  rw [hparse]
  dsimp only
  rw [if_neg (not_not_intro rfl), if_neg (not_elsewhere hdev)]
  split
  · exact ⟨_, rfl, by simp, rfl, by simp [State.windowFor]⟩
  next hold =>
  split
  · exact ⟨_, rfl, by simp, by simp, by simp [State.windowFor]⟩
  next hfind =>
  split
  · exact ⟨_, rfl, by simp, by simp, by simp [State.windowFor]⟩
  next hroom => exact absurd (isNew_iff_checks.2 ⟨Bool.eq_false_of_not_eq_true hold, hfind, Nat.lt_of_not_le hroom⟩) hnew

/-- The state that a new request leaves: it is performed, its answer kept in the window of its source and sent (R41). -/
def State.answerNew (s : State) (port : Fin 12) (q : TReq) (win : List WinEntry) : State :=
  let r := s.perform q
  let t := if r.2.1 = 0 then r.1.carry 6 (dieOfHome (s.homeOf q.pa.toNat)) (64 * max 1 q.len.toNat) else r.1
  (t.setPeer q.src.toNat { t.peer q.src.toNat with
    window := win ++ [{ seq := q.seq, status := BitVec.ofNat 2 r.2.1, applied := r.2.1 == 0, data := r.2.2 }] }).respond port q r.2.1 (r.2.1 == 0) r.2.2

theorem State.answerNew_keeps (win : List WinEntry) : (s.answerNew port q win).mem = (s.perform q).1.mem ∧
    ((s.answerNew port q win).ports.get port).rx = (s.ports.get port).rx ∧ ((s.answerNew port q win).peer q.src.toNat).window =
      win ++ [{ seq := q.seq, status := BitVec.ofNat 2 (s.perform q).2.1, applied := (s.perform q).2.1 == 0, data := (s.perform q).2.2 }] := by
  unfold State.answerNew
  dsimp only
  split <;> simp [State.perform_ports]

/-- A new request is performed once, and its answer kept in the window of its source. -/
theorem execTirsolRequestArrival_new (hparse : parseReq (s.ports.get port).rx = some (q, rest))
    (hdev : s.dev.devNum = none ∨ s.dev.devNum = some q.dst) (hnew : IsNew q (s.windowFor q)) :
    execTirsolRequestArrival port q s = .next ((s.arrived port q rest).answerNew port q (s.windowFor q)) := by
  obtain ⟨hold, hfind, hroom⟩ := isNew_iff_checks.1 hnew
  unfold execTirsolRequestArrival
  rw [hparse]
  dsimp only
  rw [if_neg (not_not_intro rfl), if_neg (not_elsewhere hdev)]
  split
  · next h => exact absurd h (Bool.eq_false_iff.1 hold)
  split
  · next h => exact nomatch hfind.symm.trans h
  split
  · next h => exact absurd hroom (Nat.not_lt_of_le h)
  rfl

end

/-! ### Responses and timeouts, where they happen (R42 to R46) -/

section

variable {s : State} {peer : BitVec 12} {seq : BitVec 24} {t : TSent}

@[simp] theorem State.dropSent_sent : ((s.dropSent peer seq).peer peer.toNat).sent = (s.peer peer.toNat).sent.filter (·.seq != seq) := by
  simp [State.dropSent]

@[simp] theorem State.dropSent_grp (p : Party) : (s.dropSent peer seq).grp p = s.grp p := by cases p <;> rfl

theorem execTirsolResponseArrival_busy {applied : Bool} {data : List Byte} (hsent : (s.peer peer.toNat).sent.find? (·.seq == seq) = some t) :
    execTirsolResponseArrival peer seq 3 applied data s = .next (s.transmit peer t) := by
  simp [execTirsolResponseArrival, hsent]

theorem execTirsolResponseArrival_done {status : BitVec 2} {applied : Bool} {data : List Byte}
    (hsent : (s.peer peer.toNat).sent.find? (·.seq == seq) = some t) (hbusy : status ≠ 3) :
    execTirsolResponseArrival peer seq status applied data s =
      .next (((s.dropSent peer seq).response peer t status.toNat applied.toNat data).pumpPeer peer) := by
  simp only [execTirsolResponseArrival, hsent, if_neg hbusy]

theorem State.response_posted {st applied : Nat} {data : List Byte} (hop : t.op = opPosted) : s.response peer t st applied data = s.posted t :=
  if_pos hop

/-- Data of code or of parameters go to the cache that asked for them. -/
theorem State.response_sector {applied : Nat} {data : List Byte} (hcore : t.core ≠ hubUnit) (hop : t.op = opRead) (hid : t.id = codeId ∨ t.id = paramId) :
    s.response peer t 0 applied data = s.answerSector t data := by
  have hposted : t.op ≠ opPosted := by rw [hop]; decide
  have hids : t.id < 4 ∧ t.id ≠ suspId ∧ t.id ≠ hdrId := by rcases hid with h | h <;> rw [h] <;> decide
  obtain ⟨hlow, hsusp, hhdr⟩ := hids
  exact (if_neg hposted).trans <| (if_neg hcore).trans <| (if_pos ⟨hop, hlow⟩).trans <| (if_neg hsusp).trans <| (if_neg hhdr).trans <| if_pos rfl

/-- A response that no copy, started command or TLDA waits for is that of an instruction's load or atomic. -/
theorem State.response_request {st applied : Nat} {data : List Byte} (hcore : t.core ≠ hubUnit) (hposted : t.op ≠ opPosted) (hid : 4 ≤ t.id)
    (hseq : ∀ c ∈ (s.core t.core).seq, c.id ≠ t.id) (hcopies : ∀ c ∈ (s.core t.core).copies, c.id ≠ t.id) (htiles : ∀ u ∈ (s.grp t.party).tiles, u.q.id ≠ t.id) :
    s.response peer t st applied data = s.answerReq peer t st applied data := by
  have hcopy : (s.core t.core).copies.find? (·.id == t.id) = none := by simpa using hcopies
  have hcmd : (s.core t.core).seq.find? (fun q => q.id == t.id && q.started) = none := by
    simpa using fun c hc hid' => absurd hid' (hseq c hc)
  have htile : ¬ (s.grp t.party).tiles.any (·.q.id == t.id) = true := by simpa using htiles
  refine (if_neg hposted).trans <| (if_neg hcore).trans <| (if_neg fun h => Nat.not_lt_of_le hid h.2).trans ?_
  rw [hcopy, hcmd]
  exact if_neg htile

/-! ### The loss of a peer and a retransmission (R42, R45, R46) -/

theorem State.losePeer_lost : ((s.losePeer peer).peer peer.toNat).lost = true ∧ ((s.losePeer peer).peer peer.toNat).sent = [] := by
  have h : ∃ x : Peer, (s.losePeer peer).peer peer.toNat = { x with lost := true, sent := [] } := ⟨_, State.peer_setPeer _ _ _⟩
  obtain ⟨x, hx⟩ := h
  rw [hx]
  exact ⟨rfl, rfl⟩

theorem execRetransmitTimeout_lost (hsent : (s.peer peer.toNat).sent.find? (·.seq == seq) = some t) (h : 4 ≤ t.tries ∨ s.livePorts peer = []) :
    execRetransmitTimeout peer seq s = .next (s.losePeer peer) := by
  have hlost : 4 ≤ t.tries ∨ (s.livePorts peer).isEmpty = true := by simpa using h
  simp only [execRetransmitTimeout, hsent, if_pos hlost]

/-- The port of a retransmission: the next live one after the last, or the lowest (R42). -/
def State.nextPort (s : State) (peer : BitVec 12) (t : TSent) : Nat :=
  match (s.livePorts peer).find? (t.port < ·) with | some n => n | none => (s.livePorts peer).headD 0

theorem State.nextPort_mem (hlive : s.livePorts peer ≠ []) : s.nextPort peer t ∈ s.livePorts peer := by
  unfold State.nextPort
  split
  · next h => exact List.mem_of_find?_eq_some h
  · cases h : s.livePorts peer with
    | nil => exact absurd h hlive
    | cons n l => exact List.mem_cons_self

/-- A request kept for its response after one more try at a port, where it is the one with the sequence number. -/
def retried (seq : BitVec 24) (port : Nat) (y : TSent) : TSent := if y.seq = seq then { y with tries := y.tries + 1, port := port } else y

theorem execRetransmitTimeout_again (hsent : (s.peer peer.toNat).sent.find? (·.seq == seq) = some t) (htries : t.tries < 4)
    (hlive : s.livePorts peer ≠ []) :
    ∃ u, execRetransmitTimeout peer seq s = .next u ∧ u.mem = s.mem ∧
      (u.peer peer.toNat).sent = (s.peer peer.toNat).sent.map (retried seq (s.nextPort peer t)) := by
  have hgo : ¬ (4 ≤ t.tries ∨ (s.livePorts peer).isEmpty = true) := by simpa [hlive] using htries
  simp only [execRetransmitTimeout, hsent, if_neg hgo]
  exact ⟨_, rfl, by simp, by rw [State.transmit_peer, State.peer_setPeer]; rfl⟩

end

/-- Settles O46, event by event. -/
theorem linkEvents : Obligations.LinkEvents := by
  unfold Obligations.LinkEvents
  intro port flit q peer seq status applied data
  refine ⟨?taken, ?known, ?asked, ?trained, ?failedOnce, ?failedTwice, ?signal, ?requests, ?busy, ?posted, ?sector, ?request, ?dropped, ?lost, ?timeoutLost, ?timeoutAgain⟩
  case taken =>
    rintro s ⟨hlive, hright⟩
    exact ⟨_, execTirsolFlitReceive_taken hlive hright, s.updPort_get port _, s.updPort_others port _⟩
  case known =>
    rintro s ⟨hlive, hwrong, hasked⟩
    exact execTirsolFlitReceive_known hlive hwrong hasked
  case asked =>
    rintro s ⟨hlive, hwrong, hasked⟩
    exact ⟨_, execTirsolFlitReceive_asked hlive hwrong hasked, s.updPort_get port _, s.updPort_others port _⟩
  case trained =>
    intro s h
    exact ⟨_, execRetrainEnd_ok h, s.updPort_get port Port.retrained, s.updPort_others port Port.retrained⟩
  case failedOnce =>
    rintro s ⟨h, hfirst⟩
    exact ⟨_, execRetrainEnd_failedOnce h hfirst, by simp [hfirst], s.updPort_others port _⟩
  case failedTwice =>
    rintro s ⟨h, hagain⟩
    exact execRetrainEnd_failedTwice h hagain
  case signal =>
    rintro s ⟨htrained, hdown⟩
    exact if_neg (by simp [htrained, hdown])
  case requests =>
    intro rest
    constructor
    · rintro s ⟨hparse, n, hdev, hne⟩
      exact execTirsolRequestArrival_misdirected hparse hdev hne
    · rintro s ⟨hparse, hdev⟩
      by_cases hnew : IsNew q (s.windowFor q)
      · obtain ⟨hmem, hrx, hwin⟩ := (s.arrived port q rest).answerNew_keeps (port := port) (q := q) (s.windowFor q)
        refine ⟨_, execTirsolRequestArrival_new hparse hdev hnew, hrx.trans ?_, fun hknown => ?_, fun _ _ _ _ => ⟨hmem, hwin⟩⟩
        · simp [State.arrived]
        · obtain ⟨hack, -, hdiff, hroom⟩ := hnew
          rcases hknown with h | ⟨e, he, h⟩ | h
          · exact absurd h (Bool.eq_false_iff.1 hack)
          · exact absurd h (hdiff e he)
          · exact absurd hroom (Nat.not_lt_of_le h)
      · obtain ⟨t, ht, hrx, hmem, hwin⟩ := execTirsolRequestArrival_known hparse hdev hnew
        exact ⟨t, ht, hrx, fun _ => ⟨hmem, hwin⟩, fun hack hdiff hyoung hroom => absurd ⟨hack, hyoung, hdiff, hroom⟩ hnew⟩
  case busy => exact fun t s hsent => execTirsolResponseArrival_busy hsent
  case posted =>
    rintro t s ⟨hsent, hbusy, hop⟩
    exact (execTirsolResponseArrival_done hsent hbusy).trans (by rw [State.response_posted hop])
  case sector =>
    rintro t s ⟨hsent, hcore, hop, hid⟩
    exact (execTirsolResponseArrival_done hsent (by decide)).trans (congrArg (fun u : State => Host.Outcome.next (u.pumpPeer peer)) (State.response_sector hcore hop hid))
  case request =>
    rintro t s ⟨hsent, hcore, hop, hid, hseq, hcopies, htiles⟩
    have hposted : t.op ≠ opPosted := by rcases hop with h | h | h <;> rw [h] <;> decide
    exact (execTirsolResponseArrival_done hsent (by decide)).trans (congrArg (fun u : State => Host.Outcome.next (u.pumpPeer peer))
      (State.response_request hcore hposted hid hseq hcopies (by simpa using htiles)))
  case dropped => exact fun s => State.dropSent_sent
  case lost => exact fun s => State.losePeer_lost
  case timeoutLost =>
    rintro t s ⟨hsent, h⟩
    exact execRetransmitTimeout_lost hsent h
  case timeoutAgain =>
    rintro t s ⟨hsent, htries, hlive⟩
    obtain ⟨u, hu, hmem, hkept⟩ := execRetransmitTimeout_again hsent htries hlive
    have hseq : t.seq = seq := by simpa using List.find?_some hsent
    have ht : retried seq (s.nextPort peer t) t = { t with tries := t.tries + 1, port := s.nextPort peer t } := if_pos hseq
    refine ⟨u, hu, by rw [hkept, List.length_map], ⟨retried seq (s.nextPort peer t) t, ?_, ?_⟩, fun y hy hne => ?_, hmem⟩
    · exact hkept ▸ List.mem_map_of_mem (List.mem_of_find?_eq_some hsent)
    · rw [ht]
      exact ⟨hseq, rfl, State.nextPort_mem hlive⟩
    · exact hkept ▸ List.mem_map.2 ⟨y, hy, if_neg hne⟩

end Sys2Proof.Machine
end

section
/-! The host's requests (03 R51, R53, R55, R60; log 9): what taking the oldest one leaves alone, what a write of 8 bytes at each
offset of BAR0 is, and what an event of such a write does where its write is the oldest request. -/

namespace Sys2Proof.Machine

/-! ### A request taken -/

section

variable (s : State)

@[simp] theorem State.popHost_dev : s.popHost.dev = s.dev := rfl
@[simp] theorem State.popHost_ctx (n : Nat) : s.popHost.ctx n = s.ctx n := rfl
@[simp] theorem State.popHost_hubLook (n va : Nat) (write : Bool) : s.popHost.hubLook n va write = s.hubLook n va write := rfl
@[simp] theorem State.popHost_mgmtPasses (t : MgmtTarget) (a n : Nat) (write : Bool) :
    s.popHost.mgmtPasses t a n write = s.mgmtPasses t a n write := rfl

end

/-! ### Elements replaced in a vector -/

/-- A bounded replacement within bounds is the replacement. -/
theorem vec_setIfInBounds {α : Type} {n : Nat} (x : Vector α n) {i : Nat} (a : α) (h : i < n) : x.setIfInBounds i a = x.set i a h := by
  ext k hk
  rw [Vector.getElem_setIfInBounds, Vector.getElem_set]

/-! ### What a write of 8 bytes is (R51) -/

section

variable {n o : Nat} {v : DWord}

/-- A context's window begins above those of the contexts before it. -/
theorem ctxWindow_ctx (hn : n < 256) (ho : o < 0x10000) : ctxWindow ((n + 1) * 0x10000 + o) = some (n, o) := by
  have hlo : ((n + 1) * 0x10000 + o) / 0x10000 - 1 = n := by omega
  have hmod : ((n + 1) * 0x10000 + o) % 0x10000 = o := by omega
  rw [ctxWindow, if_pos (by omega), hlo, hmod]

/-- A write of a context's control register kills unless it enables (R53). -/
theorem regEvent_control (hn : n < 256) :
    regEvent ((n + 1) * 0x10000) 8 v = if v.getLsbD 1 = true ∨ ¬ v.getLsbD 0 = true then .kill n else .enable n := by
  have hw : ctxWindow ((n + 1) * 0x10000) = some (n, 0) := by simpa only [Nat.add_zero] using ctxWindow_ctx (o := 0) hn (by omega)
  rw [regEvent, if_neg (by omega), hw]
  rfl

theorem regEvent_enable (hn : n < 256) (hen : v.getLsbD 0 = true) (hkill : v.getLsbD 1 = false) : regEvent ((n + 1) * 0x10000) 8 v = .enable n :=
  (regEvent_control hn).trans (if_neg (not_or.2 ⟨Bool.eq_false_iff.1 hkill, not_not.2 hen⟩))

theorem regEvent_kill (hn : n < 256) (h : v.getLsbD 0 = false ∨ v.getLsbD 1 = true) : regEvent ((n + 1) * 0x10000) 8 v = .kill n :=
  (regEvent_control hn).trans (if_pos (h.symm.imp id Bool.eq_false_iff.1))

theorem regEvent_strt (hn : n < 256) (i : Fin 4) : regEvent ((n + 1) * 0x10000 + 0x40 + 8 * i.val) 8 v = .strt n i := by
  have hw := ctxWindow_ctx (o := 0x40 + 8 * i.val) hn (by omega)
  have ha : ((n + 1) * 0x10000 + (0x40 + 8 * i.val)) % 8 = 0 := by omega
  have hi : Fin.ofNat 4 ((0x40 + 8 * i.val - 0x40) / 8) = i := Fin.ext (by simp only [Fin.val_ofNat]; omega)
  rw [Nat.add_assoc, regEvent, if_neg (by omega), hw]
  dsimp only
  rw [if_neg (by omega), if_pos (by omega), hi]

theorem regEvent_doorbell (hn : n < 256) (j : Fin 16) : regEvent ((n + 1) * 0x10000 + 0x200 + 8 * j.val) 8 v = .doorbell n j := by
  have hw := ctxWindow_ctx (o := 0x200 + 8 * j.val) hn (by omega)
  have ha : ((n + 1) * 0x10000 + (0x200 + 8 * j.val)) % 8 = 0 := by omega
  have hj : Fin.ofNat 16 ((0x200 + 8 * j.val - 0x200) / 8) = j := Fin.ext (by simp only [Fin.val_ofNat]; omega)
  rw [Nat.add_assoc, regEvent, if_neg (by omega), hw]
  dsimp only
  rw [if_neg (by omega), if_neg (by omega), if_pos (by omega), hj]

theorem regEvent_mdrgn (i : Fin 16) : regEvent (0x100 + 8 * i.val) 8 v = .mdrgn i.val := by
  have hi : (0x100 + 8 * i.val - 0x100) / 8 = i.val := by omega
  rw [regEvent, if_neg (by omega), ctxWindow, if_neg (by omega)]
  dsimp only
  rw [if_neg (by omega), if_neg (by omega), if_neg (by omega), if_pos (by omega), hi]

theorem regEvent_warm (h0 : v.getLsbD 0 = true) (h1 : v.getLsbD 1 = false) : regEvent 0x10 8 v = .warm := by
  have h : v[1] = false := h1
  simp [regEvent, ctxWindow, h0, h]

theorem regEvent_cold (h1 : v.getLsbD 1 = true) : regEvent 0x10 8 v = .cold := by
  simp [regEvent, ctxWindow, h1]

end

/-! ### Events of the oldest write -/

section

variable {s : State} {off : Nat} {v : DWord}

theorem State.wrote.hostq_eq (hq : s.wrote off v) : ∃ l, s.hostq = .write off 8 v :: l := List.head?_eq_some_iff.1 hq

/-- An event of a register happens where the oldest request is its write. -/
theorem onHost_wrote {k : RegEvent} (f : DWord → State → Out) (hq : s.wrote off v) (hk : regEvent off 8 v = k) : onHost k f s = f v s.popHost := by
  obtain ⟨l, hl⟩ := hq.hostq_eq
  simp only [onHost, State.hostEvent, hl, hk, if_true]

theorem hostCtl_wrote {k : RegEvent} (hq : s.wrote off v) (hk : regEvent off 8 v = k) : hostCtl s = some k := by
  obtain ⟨l, hl⟩ := hq.hostq_eq
  simp only [hostCtl, hl, hk]

end

end Sys2Proof.Machine
end

section
/-! Resets and start requests (03 R74 to R78): what a kill of all work leaves alone, what a request asks for and when the start begins,
and the statement about the events. -/

namespace Sys2Proof.Machine

/-! ### What kills leave of the registers (R75) -/

@[simp] theorem State.releaseTeam_dev (s : State) (h : Nat) : (s.releaseTeam h).dev = s.dev := rfl

@[simp] theorem State.killGrid_dev (s : State) (gh : Nat) : (s.killGrid gh).dev = s.dev := by
  unfold State.killGrid
  dsimp only
  split
  · rfl
  · exact foldl_keeps State.dev _ (fun t h => t.releaseTeam_dev h) _ s

@[simp] theorem State.killStream_dev (s : State) (k : Nat) : (s.killStream k).dev = s.dev := by
  unfold State.killStream
  split <;> rfl

@[simp] theorem State.killAll_dev (s : State) : s.killAll.dev = s.dev :=
  (foldl_keeps State.dev _ (fun t k => t.killStream_dev k) _ _).trans (foldl_keeps State.dev _ (fun t h => t.killGrid_dev h) _ s)

/-- Where there is no work, there is nothing to kill. -/
theorem State.killAll_of_idle {s : State} (hgrids : s.grids = []) (hstreams : s.streams = []) : s.killAll = s := by
  simp [State.killAll, State.killGrids, hgrids, hstreams]

/-! ### The start asked for (R74, R75) -/

section

variable {s : State}

/-- No start runs or waits. -/
def Dev.noStart (d : Dev) : Prop := d.starting = false ∧ d.startReq = none

theorem Dev.noStart_iff (d : Dev) : d.noStart ↔ ¬ (d.starting || d.startReq.isSome) = true := by
  simp [Dev.noStart]

/-- A start that is asked for stays asked for, once it has begun too: that the device has stopped makes no other start of a cold one. -/
theorem State.tryStart_startReq {cold : Bool} (hreq : s.dev.startReq = some (cold, false)) (hcold : s.dev.stopped = true → cold = true) :
    s.tryStart.dev.startReq = some (cold, false) := by
  have hor : (cold || s.dev.stopped) = cold := Bool.or_eq_left_iff_imp.2 hcold
  simp only [State.tryStart, hreq]
  split
  · exact hreq
  · simp only [State.beginStart, hor]

theorem State.tryStart_begins {cold again : Bool} (hreq : s.dev.startReq = some (cold, again)) (hrun : s.dev.starting = false) (hdone : s.unfinished = false) :
    s.tryStart = s.beginStart (cold || s.dev.stopped) false := by
  simp [State.tryStart, hreq, hrun, hdone]

/-- A request that finds no start running or waiting kills all work, and then begins its start or has it wait. -/
theorem State.requestStart_idle {cold : Bool} (h : s.dev.noStart) :
    s.requestStart cold = State.tryStart { s.killAll with
      dev := { s.dev with startReq := some (cold || s.dev.stopped || s.dev.state == 0 || s.dev.state == 9, false) } } := by
  refine (if_neg ((Dev.noStart_iff _).1 h)).trans ?_
  simp only [State.killAll_dev]

theorem State.requestStart_startReq {cold : Bool} (h : s.dev.noStart) :
    (s.requestStart cold).dev.startReq = some (cold || s.dev.stopped || s.dev.state == 0 || s.dev.state == 9, false) := by
  rw [State.requestStart_idle h]
  exact State.tryStart_startReq rfl fun (hs : s.dev.stopped = true) => by simp [hs]

/-- Without work the start enters state 1 at once. -/
theorem State.requestStart_begins {cold : Bool} (h : s.dev.noStart) (hgrids : s.grids = []) (hstreams : s.streams = []) :
    ∃ u : State, ∃ c : Bool, s.requestStart cold = u.beginStart c false := by
  rw [State.requestStart_idle h, State.killAll_of_idle hgrids hstreams]
  exact ⟨_, _, State.tryStart_begins rfl h.1 (State.unfinished_eq_false hstreams (by simp [hgrids]))⟩

/-- A request while a start runs or waits is ignored, with `serr` 3. -/
theorem State.requestStart_busy {cold : Bool} (h : ¬ s.dev.noStart) : s.requestStart cold = { s with dev := { s.dev with serr := 3 } } :=
  if_pos (not_not.1 (mt (Dev.noStart_iff _).2 h))

/-- Naming the dies to readmit changes nothing that a request looks at. -/
theorem State.nameReadmit_idle {v : DWord} (h : s.dev.noStart) : s.nameReadmit v = { s with dev := { s.dev with readmit := v.extractLsb' 8 6 } } :=
  if_neg ((Dev.noStart_iff _).1 h)

theorem State.nameReadmit_busy {v : DWord} (h : ¬ s.dev.noStart) : s.nameReadmit v = s :=
  if_pos (not_not.1 (mt (Dev.noStart_iff _).2 h))

/-- What a request that finds no start running or waiting leaves. -/
theorem State.requestStart_asked {cold : Bool} (h : s.dev.noStart) :
    (s.requestStart cold).dev.startReq = some (cold || s.dev.stopped || s.dev.state == 0 || s.dev.state == 9, false) ∧
      (s.grids = [] → s.streams = [] → (s.requestStart cold).dev.state = 1 ∧ (s.requestStart cold).time = 0 ∧ (s.requestStart cold).dev.recSeq = 0 ∧
        (s.requestStart cold).dev.erdrop = 0 ∧ (s.requestStart cold).dev.erqSet = false) := by
  refine ⟨State.requestStart_startReq h, fun hgrids hstreams => ?_⟩
  obtain ⟨u, c, hu⟩ := State.requestStart_begins (cold := cold) h hgrids hstreams
  rw [hu]
  exact ⟨rfl, rfl, rfl, rfl, rfl⟩

end

/-! ### Each event, where it happens -/

section

variable {s : State} {v : DWord}

theorem execWarmStartRequest_next (hq : s.wrote 0x10 v) (h0 : v.getLsbD 0 = true) (h1 : v.getLsbD 1 = false) :
    execWarmStartRequest s = .next ((s.popHost.nameReadmit v).requestStart false) :=
  onHost_wrote _ hq (regEvent_warm h0 h1)

theorem execColdStartRequest_next (hq : s.wrote 0x10 v) (h1 : v.getLsbD 1 = true) :
    execColdStartRequest s = .next ((s.popHost.nameReadmit v).requestStart true) :=
  onHost_wrote _ hq (regEvent_cold h1)

/-- A start that takes too long: a cold one has failed (R75). -/
theorem execStartTimeout_cold {again : Bool} (hrun : s.dev.starting = true) (hreq : s.dev.startReq = some (true, again)) :
    execStartTimeout s = .next s.startFailed := by
  simp [execStartTimeout, State.startTimedOut, hrun, hreq]

theorem execStartTimeout_warm {again : Bool} (hrun : s.dev.starting = true) (hreq : s.dev.startReq = some (false, again)) :
    execStartTimeout s = .next s.warmFailed := by
  simp [execStartTimeout, State.startTimedOut, hrun, hreq]

theorem State.warmFailed_repeated (h : s.dev.wfail < 2) :
    s.warmFailed = ({ s with dev := { s.dev with wfail := s.dev.wfail + 1 } } : State).beginStart false true := if_pos h

theorem State.warmFailed_cold (h : 2 ≤ s.dev.wfail) : s.warmFailed = s.beginStart true false := if_neg (Nat.not_lt.2 h)

end

/-- Settles O39, event by event. -/
theorem startEvents : Obligations.StartEvents := by
  unfold Obligations.StartEvents
  intro v again
  refine ⟨?conventional, ?functionLevel, ?warm, ?cold, ?conventionalBusy, ?functionLevelBusy, ?warmBusy, ?coldBusy, ?timeoutCold, ?timeoutWarm⟩
  case conventional => exact fun s (h : s.dev.noStart) => ⟨_, rfl, State.requestStart_asked h⟩
  case functionLevel => exact fun s (h : s.dev.noStart) => ⟨_, rfl, State.requestStart_asked h⟩
  case warm =>
    rintro s ⟨⟨hq, h0, h1⟩, (h : s.popHost.dev.noStart)⟩
    rw [show exec .warmStartRequest s = _ from execWarmStartRequest_next hq h0 h1, State.nameReadmit_idle h]
    exact ⟨_, rfl, State.requestStart_asked h⟩
  case cold =>
    rintro s ⟨⟨hq, h1⟩, (h : s.popHost.dev.noStart)⟩
    rw [show exec .coldStartRequest s = _ from execColdStartRequest_next hq h1, State.nameReadmit_idle h]
    exact ⟨_, rfl, State.requestStart_asked h⟩
  case conventionalBusy => exact fun s h => congrArg _ (State.requestStart_busy h)
  case functionLevelBusy => exact fun s h => congrArg _ (State.requestStart_busy h)
  case warmBusy =>
    rintro s ⟨⟨hq, h0, h1⟩, (h : ¬ s.popHost.dev.noStart)⟩
    refine (execWarmStartRequest_next hq h0 h1).trans ?_
    rw [State.nameReadmit_busy h, State.requestStart_busy h]
  case coldBusy =>
    rintro s ⟨⟨hq, h1⟩, (h : ¬ s.popHost.dev.noStart)⟩
    refine (execColdStartRequest_next hq h1).trans ?_
    rw [State.nameReadmit_busy h, State.requestStart_busy h]
  case timeoutCold =>
    rintro s ⟨hrun, hreq⟩
    exact ⟨_, execStartTimeout_cold hrun hreq, rfl, rfl⟩
  case timeoutWarm =>
    rintro s ⟨hrun, hreq⟩
    refine ⟨_, execStartTimeout_warm hrun hreq, ?_⟩
    by_cases hfail : s.dev.wfail < 2
    · rw [State.warmFailed_repeated hfail]
      exact ⟨rfl, rfl, rfl, fun _ => ⟨rfl, rfl⟩, fun h => absurd hfail (Nat.not_lt.2 h)⟩
    · rw [State.warmFailed_cold (Nat.not_lt.1 hfail)]
      exact ⟨rfl, rfl, rfl, fun h => absurd h hfail, fun _ => rfl⟩

end Sys2Proof.Machine
end

section
/-! Writes and reads of BAR0 (03 R51, R52, R63, R66, R67, R80; 07 R181, R182): each register's event where its write is the oldest
request, the accesses of the management cores, and the statement about the events. -/

namespace Sys2Proof.Machine

/-! ### The error ring set, and accesses that the filter blocks (R80, R66, R67) -/

/-- A record that goes to the set ring touches the I/O space and the ring's own registers. -/
theorem State.ringPut_frame (s : State) (r : List Byte) :
    ∃ io drop head msix, s.ringPut r = { s with iomem := io, dev := { s.dev with erdrop := drop, erqHead := head, msix := msix } } := by
  unfold State.ringPut State.signal
  dsimp only
  split <;> exact ⟨_, _, _, _, rfl⟩

/-- Records written to the ring one after the other leave its setting and memory alone. -/
theorem foldl_ringPut_keeps (l : List (List Byte)) (s : State) :
    (l.foldl (fun t r => t.ringPut r) s).dev.erqSet = s.dev.erqSet ∧ (l.foldl (fun t r => t.ringPut r) s).dev.erqSize = s.dev.erqSize ∧
      (l.foldl (fun t r => t.ringPut r) s).dev.startBuf = s.dev.startBuf ∧ (l.foldl (fun t r => t.ringPut r) s).mem = s.mem := by
  have hput (t : State) (r : List Byte) : ((t.ringPut r).dev.erqSet, (t.ringPut r).dev.erqSize, (t.ringPut r).dev.startBuf, (t.ringPut r).mem) =
      (t.dev.erqSet, t.dev.erqSize, t.dev.startBuf, t.mem) := by
    obtain ⟨_, _, _, _, h⟩ := t.ringPut_frame r
    rw [h]
  simpa only [Prod.mk.injEq] using foldl_keeps (fun t : State => (t.dev.erqSet, t.dev.erqSize, t.dev.startBuf, t.mem)) _ hput l s

/-- The record of a blocked access takes a number and leaves the other registers and the requests alone. -/
theorem State.mgmtBlocked_keeps (s : State) :
    s.mgmtBlocked.dev.recSeq = s.dev.recSeq + 1 ∧ s.mgmtBlocked.dev.mgmtReads = s.dev.mgmtReads ∧ s.mgmtBlocked.dev.sram = s.dev.sram ∧
      s.mgmtBlocked.dev.offer = s.dev.offer ∧ s.mgmtBlocked.hostq = s.hostq := by
  obtain ⟨_, _, _, _, _, h⟩ := s.report_frame 10 1 1 0 0 1 0xFFFF 0
  rw [State.mgmtBlocked, h]
  exact ⟨rfl, rfl, rfl, rfl, rfl⟩

/-! ### Each event, where it happens -/

section

variable {s : State} {v : DWord} {off size : Nat} {target : MgmtTarget} {data : List Byte}

theorem execFeatureCommit_accepted (hq : s.wrote 0x48 v) (hstate : s.dev.state = 7)
    (hfit : v = 0 ∧ s.dev.acceptLo.extractLsb' 12 52 = 0 ∧ s.dev.acceptLo.extractLsb' 0 12 &&& ~~~s.dev.offer = 0) :
    execFeatureCommit s = .next { s.popHost with dev := { s.dev with
      acceptHi := v, accepted := s.dev.acceptLo.extractLsb' 0 12, state := 8, meas := (s.dev.extend 6 [(s.dev.acceptLo.extractLsb' 0 12).toNat]).meas } } :=
  (onHost_wrote _ hq rfl).trans ((if_neg (not_not.2 hstate)).trans (if_pos hfit))

/-- The states in which the metadata configuration may not be written (R182). -/
theorem mdcfgBusy_iff (x : BitVec 4) : (!([0, 7, 8, 9].contains x.toNat)) = true ↔ ¬ x ∈ ([0, 7, 8, 9] : List (BitVec 4)) := by
  revert x; decide

theorem execMdrgnWrite_refused {i : Fin 16} (hq : s.wrote (0x100 + 8 * i.val) v) (h : s.dev.state ≠ 7) : execMdrgnWrite s = .next (s.popHost.serr 2) := by
  obtain ⟨l, hl⟩ := hq.hostq_eq
  simp only [execMdrgnWrite, hl, regEvent_mdrgn]
  exact if_pos h

theorem execMdrgnWrite_next {i : Fin 16} (hq : s.wrote (0x100 + 8 * i.val) v) (h : s.dev.state = 7) :
    execMdrgnWrite s = .next (if v.getLsbD 63 = true ∧ ¬ s.popHost.regionOk v = true then s.popHost.serr 4
      else { s.popHost with dev := { s.dev with mdrgn := s.dev.mdrgn.set i.val (v &&& ~~~(BitVec.ofNat 64 (2 ^ 31))) } }) := by
  obtain ⟨l, hl⟩ := hq.hostq_eq
  simp only [execMdrgnWrite, hl, regEvent_mdrgn, vec_setIfInBounds _ _ i.isLt]
  exact (if_neg (not_not.2 h)).trans (apply_ite Host.Outcome.next _ _ _).symm

theorem execErqSizeWrite_next (hq : s.wrote 0x208 v) (hset : s.dev.erqSet = false) (hstart : s.dev.starting = false) (hsize : v.toNat ∈ ringSizes) :
    execErqSizeWrite s = .next (s.dev.startBuf.foldl (fun t r => t.ringPut r)
      { s.popHost with dev := { s.dev with erqSize := v, erqSet := true, startBuf := [] } }) :=
  (onHost_wrote _ hq rfl).trans ((if_neg (by simp [hset, hstart])).trans (if_neg (by simp [hsize])))

theorem execErdropRead_host (hq : s.hostq.head? = some (.read off size)) :
    execErdropRead s = .next { s.popHost with dev := { s.dev with
      reads := s.dev.reads ++ [if size = 8 then bytesLE 8 (s.regRead off) else List.replicate size 0]
      erdrop := if size = 8 ∧ off = 0x220 then 0 else s.dev.erdrop } } := by
  obtain ⟨l, hl⟩ := List.head?_eq_some_iff.1 hq
  rw [execErdropRead, hl]
  dsimp only
  split <;> rfl

theorem execErdropRead_mgmt (hq : s.hostq.head? = some (.mgmtRead target off size)) (hrun : s.dev.mgmtRestart = false) :
    execErdropRead s = .next (s.popHost.mgmtRead target off size) := by
  obtain ⟨l, hl⟩ := List.head?_eq_some_iff.1 hq
  rw [execErdropRead, hl]
  simp only [hrun, Bool.false_eq_true, if_false]

theorem State.mgmtRead_blocked (h : s.mgmtPasses target off size false = false) :
    s.mgmtRead target off size = { s.mgmtBlocked with dev := { s.mgmtBlocked.dev with mgmtReads := s.mgmtBlocked.dev.mgmtReads ++ [List.replicate size 0] } } :=
  if_pos (by simp [h])

theorem State.mgmtRead_errorRing (h : s.mgmtPasses .errorRing off size false = true) :
    s.mgmtRead .errorRing off size =
      { s with dev := { s.dev with mgmtReads := s.dev.mgmtReads ++ [readBytes s.iomem (s.dev.erqBase.toNat + off) size] } } :=
  if_neg (by simp [h])

theorem execRegisterWrite_mgmt (hq : s.hostq.head? = some (.mgmtWrite target off data)) (hrun : s.dev.mgmtRestart = false) :
    execRegisterWrite s = .next (s.popHost.mgmtWrite target off data) := by
  obtain ⟨l, hl⟩ := List.head?_eq_some_iff.1 hq
  rw [execRegisterWrite, hl]
  simp only [hrun, Bool.false_eq_true, if_false]

/-- A write of another size, or not aligned, has no effect (R51). -/
theorem execRegisterWrite_unaligned (hq : s.hostq.head? = some (.write off size v)) (h : size ≠ 8 ∨ off % 8 ≠ 0) :
    execRegisterWrite s = .next s.popHost := by
  obtain ⟨l, hl⟩ := List.head?_eq_some_iff.1 hq
  have hplain : regEvent off size v = .plain := if_pos h
  rw [execRegisterWrite, hl]
  exact (if_neg (not_not.2 hplain)).trans (if_pos h)

theorem execRegisterWrite_dev (hq : s.wrote off v) (ha : off % 8 = 0) (hwin : ctxWindow off = none) (hplain : regEvent off 8 v = .plain) :
    execRegisterWrite s = .next (s.popHost.devWrite off v) := by
  obtain ⟨l, hl⟩ := hq.hostq_eq
  rw [execRegisterWrite, hl]
  simp [ha, hwin, hplain]

theorem execRegisterWrite_ctx {n o : Nat} (hq : s.wrote off v) (ha : off % 8 = 0) (hwin : ctxWindow off = some (n, o)) (hplain : regEvent off 8 v = .plain) :
    execRegisterWrite s = .next (s.popHost.ctxWrite n o v) := by
  obtain ⟨l, hl⟩ := hq.hostq_eq
  rw [execRegisterWrite, hl]
  simp [ha, hwin, hplain]

end

/-! ### Registers without an event of their own (Tables 3-1, 3-3) -/

section

variable (s : State) {v : DWord} {n : Nat}

theorem State.devWrite_acceptLo (h : s.dev.state = 7) : s.devWrite 0x40 v = { s with dev := { s.dev with acceptLo := v } } := if_pos h

/-- A disabled context takes its address space and its save area (R53). -/
theorem State.ctxWrite_pasid (h : (s.ctx n).state = 0) : s.ctxWrite n 0x8 v = s.setCtx n { s.ctx n with pasid := v.extractLsb' 0 20 } := if_pos h

theorem State.ctxWrite_save (h : (s.ctx n).state = 0) : s.ctxWrite n 0x28 v = s.setCtx n { s.ctx n with save := v &&& 0x01FFFFFFFFFFF000 } := if_pos h

end

/-- Settles O40, event by event. -/
theorem hostRegisterEvents : Obligations.HostRegisterEvents := by
  unfold Obligations.HostRegisterEvents
  intro v i off size n target data
  refine ⟨?commitLate, ?commitUnfit, ?commit, ?mdcfgBusy, ?mdcfgLarge, ?mdcfg, ?mdrgnBusy, ?mdrgnBad, ?mdrgn, ?baseSet, ?baseUnaligned, ?base,
    ?sizeSet, ?sizeBad, ?size, ?read, ?mgmtReadBlocked, ?mgmtReadRing, ?mgmtWriteBlocked, ?unaligned, ?device, ?context, ?registers⟩
  case commitLate =>
    rintro s ⟨hq, hstate⟩
    exact (onHost_wrote _ hq rfl).trans (if_pos hstate)
  case commitUnfit =>
    rintro s ⟨hq, hstate, hfit⟩
    exact (onHost_wrote _ hq rfl).trans ((if_neg (not_not.2 hstate)).trans (if_neg hfit))
  case commit =>
    rintro s ⟨hq, hstate, hfit⟩
    exact ⟨_, execFeatureCommit_accepted hq hstate hfit, rfl, rfl, hfit.1, rfl, rfl⟩
  case mdcfgBusy =>
    rintro s ⟨hq, hidle⟩
    exact (onHost_wrote _ hq rfl).trans (if_pos ((mdcfgBusy_iff _).2 hidle))
  case mdcfgLarge =>
    rintro s ⟨hq, hidle, hv⟩
    exact (onHost_wrote _ hq rfl).trans ((if_neg (mt (mdcfgBusy_iff _).1 (not_not.2 hidle))).trans (if_pos hv))
  case mdcfg =>
    rintro s ⟨hq, hidle, hv⟩
    exact (onHost_wrote _ hq rfl).trans ((if_neg (mt (mdcfgBusy_iff _).1 (not_not.2 hidle))).trans (if_neg (Nat.not_lt.2 hv)))
  case mdrgnBusy =>
    rintro s ⟨hq, hstate⟩
    exact execMdrgnWrite_refused hq hstate
  case mdrgnBad =>
    rintro s ⟨hq, hstate, hbad⟩
    exact (execMdrgnWrite_next hq hstate).trans (congrArg _ (if_pos (Classical.not_imp.1 hbad)))
  case mdrgn =>
    rintro s ⟨hq, hstate, hok⟩
    exact (execMdrgnWrite_next hq hstate).trans (congrArg _ (if_neg (fun h => h.2 (hok h.1))))
  case baseSet =>
    rintro s ⟨hq, hset⟩
    exact (onHost_wrote _ hq rfl).trans (if_pos hset)
  case baseUnaligned =>
    rintro s ⟨hq, hset, hv⟩
    exact (onHost_wrote _ hq rfl).trans ((if_neg (by simp [hset])).trans (if_pos hv))
  case base =>
    rintro s ⟨hq, hset, hv⟩
    exact (onHost_wrote _ hq rfl).trans ((if_neg (by simp [hset])).trans (if_neg (not_not.2 hv)))
  case sizeSet =>
    rintro s ⟨hq, h⟩
    exact (onHost_wrote _ hq rfl).trans (if_pos h)
  case sizeBad =>
    rintro s ⟨hq, hset, hstart, hv⟩
    exact (onHost_wrote _ hq rfl).trans ((if_neg (by simp [hset, hstart])).trans (if_pos (by simp [hv])))
  case size =>
    rintro s ⟨hq, hset, hstart, hv⟩
    obtain ⟨hset', hsize', hbuf', hmem'⟩ := foldl_ringPut_keeps s.dev.startBuf
      { s.popHost with dev := { s.dev with erqSize := v, erqSet := true, startBuf := [] } }
    exact ⟨_, execErqSizeWrite_next hq hset hstart hv, hset', hsize', hbuf', hmem'⟩
  case read => exact fun s hq => ⟨_, execErdropRead_host hq, rfl, rfl, rfl, rfl⟩
  case mgmtReadBlocked =>
    rintro s ⟨hq, hrun, hblocked⟩
    obtain ⟨hseq, hreads, -, -, hrest⟩ := s.popHost.mgmtBlocked_keeps
    refine ⟨_, execErdropRead_mgmt hq hrun, ?_⟩
    rw [State.mgmtRead_blocked (s := s.popHost) hblocked]
    exact ⟨by rw [hreads, State.popHost_dev], hseq, hrest⟩
  case mgmtReadRing =>
    rintro s ⟨hq, hrun, hpass⟩
    refine ⟨_, execErdropRead_mgmt hq hrun, ?_⟩
    rw [State.mgmtRead_errorRing (s := s.popHost) hpass]
    exact ⟨rfl, rfl, rfl⟩
  case mgmtWriteBlocked =>
    rintro s ⟨hq, hrun, hblocked⟩
    obtain ⟨hseq, -, hsram, hoffer, hrest⟩ := s.popHost.mgmtBlocked_keeps
    have hdrop : s.popHost.mgmtWrite target off data = s.popHost.mgmtBlocked := if_pos (by simp [hblocked])
    refine ⟨_, execRegisterWrite_mgmt hq hrun, ?_⟩
    rw [hdrop]
    exact ⟨hsram, hoffer, hseq, hrest⟩
  case unaligned =>
    rintro s ⟨hq, h⟩
    exact execRegisterWrite_unaligned hq h
  case device =>
    rintro s ⟨hq, ha, hwin, hplain⟩
    exact execRegisterWrite_dev hq ha hwin hplain
  case context =>
    intro hn hoff ha hplain s hq
    exact execRegisterWrite_ctx hq (by omega) (ctxWindow_ctx hn hoff) hplain
  case registers =>
    intro s
    refine ⟨rfl, fun h => ?_, fun h => if_neg h, fun h => ⟨?_, ?_⟩, fun h => ⟨if_neg h, if_neg h⟩⟩
    · rw [s.devWrite_acceptLo h]
    · rw [s.ctxWrite_pasid h, State.ctx_setCtx]
    · rw [s.ctxWrite_save h, State.ctx_setCtx]

end Sys2Proof.Machine
end

section
/-! Attestation, the digest mailbox, the management cores and their firmware requests (03 R67, R71 to R73; 04 R95; 01 R22; 02 R37):
what a pending request of a type comes to, and the statement about the events. -/

namespace Sys2Proof.Machine

/-! ### A pending request (R73, Table 3-15) -/

section

variable {s : State} {type : Nat} {named : List Nat} {st : BitVec 4 → Bool} {f : List Byte → State → Nat ⊕ State}

theorem State.fwAsks.guard (h : s.fwAsks type named) : ¬ (!s.dev.fwReq || s.dev.mgmtRestart || recN s.dev.fwBytes 0 2 != type) = true := by
  obtain ⟨hreq, hrun, htype, -⟩ := h
  simp [hreq, hrun, htype]

theorem State.fwAsks.reserved (h : s.fwAsks type named) :
    ¬ (s.dev.fwBytes.zipIdx.any fun b => 2 ≤ b.2 && !named.contains b.2 && b.1 != 0) = true := by
  obtain ⟨-, -, -, hzero⟩ := h
  simpa using hzero

theorem fwRun_refusedState (h : s.fwAsks type named) (hst : st s.dev.state = false) : fwRun type named st f s = .next (s.fwDone 3) :=
  (if_neg h.guard).trans ((if_neg h.reserved).trans (if_pos (by simp [hst])))

theorem fwRun_refused {code : Nat} (h : s.fwAsks type named) (hst : st s.dev.state = true) (hf : f s.dev.fwBytes s = .inl code) :
    fwRun type named st f s = .next (s.fwDone code) :=
  (if_neg h.guard).trans ((if_neg h.reserved).trans ((if_neg (by simp [hst])).trans (by rw [hf])))

theorem fwRun_applied {t : State} (h : s.fwAsks type named) (hst : st s.dev.state = true) (hf : f s.dev.fwBytes s = .inr t) :
    fwRun type named st f s = .next (t.fwDone 0) :=
  (if_neg h.guard).trans ((if_neg h.reserved).trans ((if_neg (by simp [hst])).trans (by rw [hf])))

end

/-- A request of a type that states allow and whose operands are refused with one code: all that it can come to (Table 3-15). -/
theorem happens_fwRun {i : Instr} {type : Nat} {named : List Nat} {st : BitVec 4 → Bool} {f : List Byte → State → Nat ⊕ State}
    {allowed bad : State → Prop} {code : Nat} {v : State → State} (hexec : ∀ s, exec i s = fwRun type named st f s)
    (hst : ∀ s, st s.dev.state = true ↔ allowed s) (hbad : ∀ s, bad s → f s.dev.fwBytes s = .inl code)
    (hgood : ∀ s, ¬ bad s → f s.dev.fwBytes s = .inr (v s)) :
    Happens i (fun s => s.fwAsks type named ∧ ¬ allowed s) (fun s => s.fwDone 3) ∧
    Happens i (fun s => s.fwAsks type named ∧ allowed s ∧ bad s) (fun s => s.fwDone code) ∧
    Happens i (fun s => s.fwAsks type named ∧ allowed s ∧ ¬ bad s) (fun s => (v s).fwDone 0) := by
  refine ⟨?_, ?_, ?_⟩
  · rintro s ⟨h, hno⟩
    exact (hexec s).trans (fwRun_refusedState h (Bool.eq_false_iff.2 fun hs => hno ((hst s).1 hs)))
  · rintro s ⟨h, hok, hb⟩
    exact (hexec s).trans (fwRun_refused h ((hst s).2 hok) (hbad s hb))
  · rintro s ⟨h, hok, hb⟩
    exact (hexec s).trans (fwRun_applied h ((hst s).2 hok) (hgood s hb))

theorem readyOrRunning_iff (x : BitVec 4) : readyOrRunning x = true ↔ x = 7 ∨ x = 8 := by
  simp [readyOrRunning]

/-- The reserved bits of a partition entry, as the field and as a quotient. -/
theorem fieldN_ofNat_16 (e : Nat) : fieldN (BitVec.ofNat 16 e) 12 3 = e / 2 ^ 12 % 8 := by
  simp only [fieldN, BitVec.extractLsb'_toNat, BitVec.toNat_ofNat, Nat.shiftRight_eq_div_pow]
  omega

/-! ### Each event, where it happens -/

section

variable {s : State} {v : DWord}

theorem execAttestationReportWritten_next (h : s.dev.attReq = true) :
    execAttestationReportWritten s = .next ((State.bump { s with
      iomem := writeBytes s.iomem s.dev.attAddr.toNat s.reportBuffer, dev := { s.dev with attReq := false } }).signal 1) :=
  if_neg (by simp [h])

theorem execMboxExt_refused (hq : s.wrote 0x540 v) (h : s.dev.mboxExt = true ∨ ¬ (s.dev.state = 7 ∨ s.dev.state = 8)) :
    execMboxExt s = .next (s.popHost.serr 2) :=
  (onHost_wrote _ hq rfl).trans (if_pos (by simpa using h))

theorem execMboxExt_next (hq : s.wrote 0x540 v) (hfree : s.dev.mboxExt = false) (hup : s.dev.state = 7 ∨ s.dev.state = 8) :
    execMboxExt s = .next (if v = 1 then { s.popHost with dev := { s.dev with mboxExt := true } } else s.popHost) :=
  (onHost_wrote _ hq rfl).trans (if_neg (by rcases hup with h | h <;> simp [hfree, h]))

theorem execMboxExtensionMade_next (h : s.dev.mboxExt = true) (hup : s.dev.state = 7 ∨ s.dev.state = 8) :
    execMboxExtensionMade s = .next { s with dev := { s.dev with
      mboxExt := false, meas := s.dev.meas.set 7 (s.dev.meas[7] ++ [s.dev.mbox.toList.flatMap fun w => bytesLE 8 w.toNat]) } } :=
  if_neg (by rcases hup with hs | hs <;> simp [h, hs])

/-- The operands of a port set (R73): device and mask of 12 bits, and no port that another device's set holds. -/
theorem execFwreqPortSet_next (h : s.fwAsks 2 [8, 9, 10, 11]) (hup : s.dev.state = 7 ∨ s.dev.state = 8) {p m : Nat}
    (hp : recN s.dev.fwBytes 8 2 = p) (hm : recN s.dev.fwBytes 10 2 = m) :
    execFwreqPortSet s = .next (
      if 2 ^ 12 ≤ p ∨ 2 ^ 12 ≤ m then s.fwDone 2
      else if ∃ e ∈ s.peers, e.1 ≠ p ∧ e.2.ports &&& BitVec.ofNat 12 m ≠ 0 then s.fwDone 4
      else (s.setPeer p { s.peer p with ports := BitVec.ofNat 12 m }).fwDone 0) := by
  have hst := (readyOrRunning_iff _).2 hup
  have htaken : (s.peers.any fun e => e.1 != p && (e.2.ports &&& BitVec.ofNat 12 m) != 0) = true ↔
      ∃ e ∈ s.peers, e.1 ≠ p ∧ e.2.ports &&& BitVec.ofNat 12 m ≠ 0 := by simp
  subst hp hm
  split
  · next hwide => exact fwRun_refused h hst (if_pos hwide)
  · next hwide =>
    split
    · next ht => exact fwRun_refused h hst ((if_neg hwide).trans (if_pos (htaken.2 ht)))
    · next ht => exact fwRun_applied h hst ((if_neg hwide).trans (if_neg (mt htaken.1 ht)))

theorem execFwreqPortRetrain_noPort (h : s.fwAsks 5 [8]) (hst : s.dev.state = 8) (hp : 12 ≤ recN s.dev.fwBytes 8 1) :
    execFwreqPortRetrain s = .next (s.fwDone 2) := by
  have hnone : s.ports[recN s.dev.fwBytes 8 1]? = none := Vector.getElem?_eq_none hp
  exact fwRun_refused h (by simp [hst]) (by simp only [hnone])

section

variable {p : Fin 12}

theorem execFwreqPortRetrain_up (h : s.fwAsks 5 [8]) (hst : s.dev.state = 8) (hp : recN s.dev.fwBytes 8 1 = p.val)
    (hdown : s.ports[p.val].down = false) : execFwreqPortRetrain s = .next (s.fwDone 5) :=
  fwRun_refused h (by simp [hst]) (by simp [hp, hdown])

theorem execFwreqPortRetrain_down (h : s.fwAsks 5 [8]) (hst : s.dev.state = 8) (hp : recN s.dev.fwBytes 8 1 = p.val)
    (hdown : s.ports[p.val].down = true) :
    execFwreqPortRetrain s = .next (State.fwDone { s with ports := s.ports.set p.val { s.ports[p.val] with retraining := true, failed := 0 } } 0) :=
  fwRun_applied h (by simp [hst]) (by simp [hp, hdown, vec_setIfInBounds])

end

end

/-- Settles O41, event by event. -/
theorem securityCoreEvents : Obligations.SecurityCoreEvents := by
  unfold Obligations.SecurityCoreEvents
  intro v
  refine ⟨?attReq, ?attReqIgnored, ?report, ?mboxRefused, ?mboxTaken, ?mboxIgnored, ?mboxMade, ?deviceNumber, ⟨?portState, ?portWide, ?portTaken, ?portSet⟩,
    ?partition, ?budget, ?retrain, ?retrainNone, ?retrainUp, ?threshold, ?watchdog, ?restarted⟩
  case attReq =>
    rintro s ⟨hq, h⟩
    exact (onHost_wrote _ hq rfl).trans (if_pos h)
  case attReqIgnored =>
    rintro s ⟨hq, h⟩
    exact (onHost_wrote _ hq rfl).trans (if_neg h)
  case report =>
    intro s h
    refine ⟨_, execAttestationReportWritten_next h, ?_⟩
    simp [State.signal]
  case mboxRefused =>
    rintro s ⟨hq, h⟩
    exact execMboxExt_refused hq h
  case mboxTaken =>
    rintro s ⟨hq, hfree, hup, hv⟩
    exact (execMboxExt_next hq hfree hup).trans (congrArg _ (if_pos hv))
  case mboxIgnored =>
    rintro s ⟨hq, hfree, hup, hv⟩
    exact (execMboxExt_next hq hfree hup).trans (congrArg _ (if_neg hv))
  case mboxMade =>
    rintro s ⟨hext, hup⟩
    refine ⟨_, execMboxExtensionMade_next hext hup, rfl, ?_, fun k hk => ?_, rfl⟩
    · simp
    · have hne : 7 ≠ k.val := fun h => hk (Fin.ext h.symm)
      simp [vec_get_set, hne]
  case deviceNumber =>
    refine happens_fwRun execFwreqDeviceNumber.eq_def ?_ ?_ ?_
    · exact fun s => beq_iff_eq
    · exact fun s h => if_pos h
    · exact fun s h => if_neg h
  case portState =>
    rintro s ⟨h, hup⟩
    exact show execFwreqPortSet s = _ from fwRun_refusedState h (Bool.eq_false_iff.2 fun hs => hup ((readyOrRunning_iff _).1 hs))
  case portWide =>
    rintro s ⟨h, hup, hwide⟩
    exact (execFwreqPortSet_next h hup rfl rfl).trans (congrArg _ (if_pos hwide))
  case portTaken =>
    rintro s ⟨h, hup, hwide, htaken⟩
    exact (execFwreqPortSet_next h hup rfl rfl).trans (congrArg _ ((if_neg hwide).trans (if_pos htaken)))
  case portSet =>
    rintro s ⟨h, hup, hwide, htaken⟩
    exact (execFwreqPortSet_next h hup rfl rfl).trans (congrArg _ ((if_neg hwide).trans (if_neg htaken)))
  case partition =>
    refine happens_fwRun execFwreqPartitionEntry.eq_def ?_ ?_ ?_
    · exact fun s => readyOrRunning_iff _
    · exact fun s h => if_pos (by rwa [fieldN_ofNat_16])
    · exact fun s h => if_neg (by rwa [fieldN_ofNat_16])
  case budget =>
    refine happens_fwRun execFwreqTenantBudget.eq_def ?_ ?_ ?_
    · exact fun s => readyOrRunning_iff _
    · exact fun s h => if_pos h
    · exact fun s h => if_neg h
  case retrain =>
    rintro p s ⟨h, hst, hp, hdown⟩
    refine ⟨_, execFwreqPortRetrain_down h hst hp hdown, ?_, ?_, fun q hq => ?_, rfl, rfl⟩
    · simp [State.fwDone, vec_get_set]
    · simp [State.fwDone, vec_get_set]
    · simp [State.fwDone, vec_get_set, Fin.val_ne_of_ne hq.symm]
  case retrainNone =>
    rintro s ⟨h, hst, hp⟩
    exact execFwreqPortRetrain_noPort h hst hp
  case retrainUp =>
    rintro p s ⟨h, hst, hp, hdown⟩
    exact execFwreqPortRetrain_up h hst hp hdown
  case threshold =>
    refine happens_fwRun execFwreqSliceThreshold.eq_def ?_ ?_ ?_
    · exact fun s => readyOrRunning_iff _
    · exact fun s h => if_pos h
    · exact fun s h => if_neg h
  case watchdog => exact fun s _ => rfl
  case restarted => exact fun s h => if_neg (by simp [h])

end Sys2Proof.Machine
end

section
/-! Contexts, streams and doorbells (03 R53 to R55, R60, R412): what a kill leaves of a context without work, what trying to start a stream
and ringing a doorbell come to, and the statement about the events. -/

namespace Sys2Proof.Machine

/-! ### Enabling, set-up and kills (R53, R54) -/

section

variable {s : State} {n : Nat}

/-- An enable where the context is disabled is refused unless the device takes work (R53, R412). -/
theorem execCtxEnable_next (h : hostCtl s = some (.enable n)) :
    execCtxEnable s = .next (if (s.ctx n).state ≠ 0 then s.popHost
      else if s.dev.state = 8 ∧ s.dev.startReq = none ∧ s.dev.stopped = false then s.popHost.setCtx n { s.ctx n with state := 3, en := true }
      else s.popHost.ctxErr n 2) := by
  have hwork : (s.dev.state ≠ 8 ∨ s.dev.stopped = true ∨ s.dev.startReq.isSome = true) ↔
      ¬ (s.dev.state = 8 ∧ s.dev.startReq = none ∧ s.dev.stopped = false) := by
    cases s.dev.startReq <;> cases s.dev.stopped <;> simp
  simp only [execCtxEnable, h, State.popHost_ctx, State.popHost_dev, hwork, ite_not, apply_ite Host.Outcome.next]

theorem execCtxKill_next (h : hostCtl s = some (.kill n)) :
    execCtxKill s = .next (if (s.ctx n).state = 1 ∨ (s.ctx n).state = 3 then s.popHost.killCtx n else s.popHost) := by
  simp only [execCtxKill, h]
  rfl

/-- Without teams and streams no LAUNCH is stalled. -/
theorem State.refuseStalled_of_idle {c : BitVec 8} (hteams : s.teams = []) (hstreams : s.streams = []) : s.refuseStalled c = s := by
  simp [State.refuseStalled, State.parties, hteams, hstreams]

/-- A context's registers at a kill (R54). -/
def Ctx.killed (c : Ctx) : Ctx := { c with state := 2, en := false, heldWrites := [], bells := [], starts := [], record := [] }

/-- A kill of a context without work changes its own registers, and drops what the host asked of it. -/
theorem State.killCtx_of_idle (hteams : s.teams = []) (hgrids : s.grids = []) (hstreams : s.streams = []) : (s.killCtx n).ctx n = (s.ctx n).killed := by
  have hstalled : (s.setCtx n (s.ctx n).killed).refuseStalled (BitVec.ofNat 8 n) = s.setCtx n (s.ctx n).killed :=
    State.refuseStalled_of_idle hteams hstreams
  have hg : (s.setCtx n (s.ctx n).killed).ctxGrids n = [] := by simp [State.ctxGrids, hgrids]
  have hs : (s.setCtx n (s.ctx n).killed).ctxStreams n = [] := by simp [State.ctxStreams, hstreams]
  rw [Ctx.killed] at hstalled hg hs
  simp only [State.killCtx, hstalled, hg, hs, List.foldl_nil]
  exact State.ctx_setCtx s n (s.ctx n).killed

theorem execCtxKillComplete_next {c : BitVec 8} (hstate : (s.ctx c.toNat).state = 2) (hgrids : ∀ e ∈ s.grids, e.2.ctx = c → e.2.closed = true)
    (hstreams : ∀ e ∈ s.streams, e.2.ctx ≠ c) : execCtxKillComplete c s = .next (s.setCtx c.toNat { s.ctx c.toNat with state := 0 }) := by
  have hg : s.ctxGrids c.toNat = [] := by simpa [State.ctxGrids, ← BitVec.toNat_eq] using hgrids
  have hs : s.ctxStreams c.toNat = [] := by simpa [State.ctxStreams, ← BitVec.toNat_eq] using hstreams
  exact if_neg (by simp [hstate, hg, hs])

end

/-! ### A stream's start (R55) -/

section

variable {s : State} {n a : Nat} {i : Fin 4}

theorem not_any_key (hnew : ∀ e ∈ s.streams, e.1 ≠ 4 * n + i.val) : ¬ (s.streams.any fun e => e.1 == 4 * n + i.val) = true := by
  simpa only [List.any_eq_true, beq_iff_eq, not_exists, not_and] using hnew

theorem State.tryStream_taken (h : ∃ e ∈ s.streams, e.1 = 4 * n + i.val) : s.tryStream n i a = .done (s.ctxErr n 3) :=
  if_pos (by simpa using h)

section

variable (hnew : ∀ e ∈ s.streams, e.1 ≠ 4 * n + i.val)
include hnew

theorem State.tryStream_full (hfull : s.freeSlot = none) : s.tryStream n i a = .done (s.ctxErr n 4) :=
  (if_neg (not_any_key hnew)).trans (by rw [hfull])

theorem State.tryStream_read {slot : Nat × Nat} {bs : List Byte} (hslot : s.freeSlot = some slot) (hread : s.readRecord n a (codeSectors a 64) = .inr bs) :
    s.tryStream n i a = .done ((s.setCtx n { s.ctx n with record := [] }).startStream n i slot ((bs.drop (a % 64)).take 64)) :=
  (if_neg (not_any_key hnew)).trans (by rw [hslot, hread])

theorem State.tryStream_failed {slot : Nat × Nat} {u : State} (hslot : s.freeSlot = some slot) (hread : s.readRecord n a (codeSectors a 64) = .inl (.fail u)) :
    s.tryStream n i a = .done (u.setCtx n { u.ctx n with record := [] }) :=
  (if_neg (not_any_key hnew)).trans (by rw [hslot, hread])

end

/-- A record's first sector is read at the record's own address. -/
theorem codeSectors_cons (a : Nat) : ∃ l, codeSectors a 64 = a / 64 :: l := by
  obtain ⟨k, hk⟩ : ∃ k, (a % 64 + 64 + 63) / 64 = k + 1 := ⟨(a % 64 + 63) / 64, by omega⟩
  exact ⟨_, by rw [codeSectors, hk, List.range_succ_eq_map, List.map_cons, Nat.add_zero]⟩

/-- A record at an address that cannot be translated fails at its first sector. -/
theorem State.readRecord_bad (h : s.hubLook n a false = .bad) : s.readRecord n a (codeSectors a 64) = .inl (.fail (s.hostFail n a)) := by
  obtain ⟨l, hl⟩ := codeSectors_cons a
  have hfirst : max a (64 * (a / 64)) = a := Nat.max_eq_left (Nat.mul_div_le a 64)
  rw [hl, State.readRecord, hfirst, State.recordSector, h]

/-- A translation failure of a host write: error 5 and one record. -/
theorem State.hostFail_keeps (s : State) (n va : Nat) :
    ((s.hostFail n va).ctx n).err = 5 ∧ (s.hostFail n va).streams = s.streams ∧ (s.hostFail n va).dev.recSeq = s.dev.recSeq + 1 ∧ (s.hostFail n va).mem = s.mem := by
  obtain ⟨_, _, _, _, _, h⟩ := ((s.dropRefused n va).ctxErr n 5).report_frame 11 0 1 0 0 1 n va
  rw [State.hostFail, h]
  exact ⟨congrArg Ctx.err (State.ctx_setCtx _ n _), rfl, rfl, rfl⟩

/-- An address that an instruction can have: a multiple of 4 below 2 ^ 57. -/
theorem codeAddr_iff (x : DWord) : x.toNat % 4 = 0 ∧ x.toNat < 2 ^ 57 ↔ ¬ (x.toNat % 4 ≠ 0 ∨ x.extractLsb' 57 7 ≠ 0) := by
  have hhigh : x.extractLsb' 57 7 = 0 ↔ x.toNat < 2 ^ 57 := by
    rw [← BitVec.toNat_inj, BitVec.extractLsb'_toNat, Nat.shiftRight_eq_div_pow]
    change x.toNat / 2 ^ 57 % 2 ^ 7 = 0 ↔ _
    omega
  rw [not_or, not_not, not_not, hhigh]

variable {slot : Nat × Nat} {bs : List Byte}

/-- The fields of a start record that R55 checks: its entry and its trap vector are addresses of code. -/
def recordLegal (bs : List Byte) : Prop :=
  ((recD bs 0).toNat % 4 = 0 ∧ (recD bs 0).toNat < 2 ^ 57) ∧ (recD bs 8).toNat % 4 = 0 ∧ (recD bs 8).toNat < 2 ^ 57

theorem recordLegal_iff : recordLegal bs ↔
    ¬ ((recD bs 0).toNat % 4 ≠ 0 ∨ (recD bs 0).extractLsb' 57 7 ≠ 0 ∨ (recD bs 8).toNat % 4 ≠ 0 ∨ (recD bs 8).extractLsb' 57 7 ≠ 0) := by
  rw [recordLegal, codeAddr_iff, codeAddr_iff, ← not_or, or_assoc]

theorem State.startStream_illegal (h : ¬ recordLegal bs) : s.startStream n i slot bs = s.ctxErr n 7 :=
  if_pos (by_contra fun hc => h (recordLegal_iff.2 hc))

theorem State.startStream_legal (h : recordLegal bs) :
    (s.startStream n i slot bs).stream (4 * n + i.val) =
      { ctx := BitVec.ofNat 8 n, i := i, ccore := slot.1, slot := slot.2, g := streamGroup bs, stat := recD bs 48, endc := recD bs 56, statDone := false } := by
  rw [State.startStream, if_neg (recordLegal_iff.1 h), State.stream_setStream]

@[simp] theorem Group.pc_ws (g : Group) (r : SNum) (x : DWord) : (g.ws r x).pc = g.pc := by
  unfold Group.ws
  split <;> rfl

@[simp] theorem Group.tvec_ws (g : Group) (r : SNum) (x : DWord) : (g.ws r x).tvec = g.tvec := by
  unfold Group.ws
  split <;> rfl

/-- A stream begins at its entry, with its trap vector and with four parameters in s1 to s4 (Table 3-5). -/
theorem streamGroup_pc (bs : List Byte) : (streamGroup bs).pc = (recD bs 0).extractLsb' 0 57 := by
  simp [streamGroup]

theorem streamGroup_tvec (bs : List Byte) : (streamGroup bs).tvec = recD bs 8 := by
  simp [streamGroup]

theorem sreg_streamGroup (bs : List Byte) {k : Fin 64} (h1 : 1 ≤ k.val) (h4 : k.val ≤ 4) : (streamGroup bs).sreg k = recD bs (8 + 8 * k.val) := by
  unfold streamGroup
  simp only [List.foldl_cons, List.foldl_nil]
  have hk : k = 1 ∨ k = 2 ∨ k = 3 ∨ k = 4 := by omega
  rcases hk with rfl | rfl | rfl | rfl
  all_goals simp [Group.sreg_ws_other]

end

section

variable {s : State} {n off : Nat} {i : Fin 4} {v : DWord} (hq : s.wrote off v) (hk : regEvent off 8 v = .strt n i) (hreq : s.dev.startReq = none)
include hq hk hreq

theorem execStreamStart_refused (h : (s.ctx n).state = 0 ∨ (s.ctx n).state = 2 ∨ s.dev.stopped = true) :
    execStreamStart s = .next (s.popHost.ctxErr n 6) := by
  obtain ⟨l, hl⟩ := hq.hostq_eq
  simp [execStreamStart, hostCtl_wrote hq hk, hl, hreq, h]

theorem execStreamStart_held (hstate : (s.ctx n).state = 3) (hrun : s.dev.stopped = false) :
    execStreamStart s = .next (s.popHost.setCtx n { s.ctx n with heldWrites := (s.ctx n).heldWrites ++ [.strt i v] }) := by
  obtain ⟨l, hl⟩ := hq.hostq_eq
  simp [execStreamStart, hostCtl_wrote hq hk, hl, hreq, hstate, hrun]

section

variable (hstate : (s.ctx n).state = 1) (hrun : s.dev.stopped = false)
include hstate hrun

/-- A start of a stream goes behind those of its context that wait. -/
theorem execStreamStart_behind (h : (s.ctx n).starts ≠ []) :
    execStreamStart s = .next (s.popHost.setCtx n { s.ctx n with starts := (s.ctx n).starts ++ [(i, v)] }) := by
  obtain ⟨l, hl⟩ := hq.hostq_eq
  simp [execStreamStart, hostCtl_wrote hq hk, hl, hreq, hstate, hrun, h, State.holdStart]

theorem execStreamStart_done {u : State} (h : (s.ctx n).starts = []) (htry : s.popHost.tryStream n i v.toNat = .done u) : execStreamStart s = .next u := by
  obtain ⟨l, hl⟩ := hq.hostq_eq
  simp [execStreamStart, hostCtl_wrote hq hk, hl, hreq, hstate, hrun, h, htry]

end

end

/-! ### Doorbells (R60) -/

section

variable {s : State} {n a pa : Nat} {v : DWord}

theorem State.ring_unaligned (h : a % 8 ≠ 0) : s.ring n a v = some (s.hostFail n a) := if_pos h

section

variable (ha : a % 8 = 0) (hlook : s.hubLook n a true = .here pa)
include ha hlook

theorem State.ring_home (hfly : s.hubFlying n opAtomic = false) : s.ring n a v = some ((s.homeAdd pa v).carry 6 (dieOfHome (s.homeOf pa)) 8) := by
  simp [State.ring, ha, hlook, hfly]

/-- An add waits for those of its context that peers have not answered. -/
theorem State.ring_waits (hfly : s.hubFlying n opAtomic = true) : s.ring n a v = none := by
  simp [State.ring, ha, hlook, hfly]

end

/-- What the hub has of an address depends on the context's address space and on the pages refused to it. -/
theorem State.hubLook_setCtx {x : Ctx} (hpasid : x.pasid = (s.ctx n).pasid) (hrefused : x.refused = (s.ctx n).refused) (va : Nat) (write : Bool) :
    (s.setCtx n x).hubLook n va write = s.hubLook n va write := by
  simp only [State.hubLook, State.lookHub, State.ctx_setCtx, hpasid, hrefused]
  rfl

end

section

variable {s : State} {n off : Nat} {j : Fin 16} {v : DWord} (hq : s.wrote off v) (hk : regEvent off 8 v = .doorbell n j)
include hq hk

theorem execDoorbell_refused (h : (s.ctx n).state = 0 ∨ (s.ctx n).state = 2) : execDoorbell s = .next (s.popHost.ctxErr n 6) := by
  obtain ⟨l, hl⟩ := hq.hostq_eq
  simp [execDoorbell, hostCtl_wrote hq hk, hl, h]

theorem execDoorbell_held (h : (s.ctx n).state = 3) :
    execDoorbell s = .next (s.popHost.setCtx n { s.ctx n with heldWrites := (s.ctx n).heldWrites ++ [.evadd j v] }) := by
  obtain ⟨l, hl⟩ := hq.hostq_eq
  simp [execDoorbell, hostCtl_wrote hq hk, hl, h]

theorem execDoorbell_done {u : State} (hstate : (s.ctx n).state = 1) (h : (s.ctx n).bells = [])
    (hring : s.popHost.ring n ((s.ctx n).evaddr.get j).toNat v = some u) : execDoorbell s = .next u := by
  obtain ⟨l, hl⟩ := hq.hostq_eq
  simp [execDoorbell, hostCtl_wrote hq hk, hl, hstate, h, hring]

/-- A doorbell whose page the hub has waits behind those of its context. -/
theorem execDoorbell_behind {pa : Nat} (hstate : (s.ctx n).state = 1) (hlook : s.hubLook n ((s.ctx n).evaddr.get j).toNat true = .here pa)
    (h : (s.ctx n).bells ≠ [] ∨ s.popHost.ring n ((s.ctx n).evaddr.get j).toNat v = none) :
    execDoorbell s = .next (s.popHost.setCtx n { s.ctx n with bells := (s.ctx n).bells ++ [(((s.ctx n).evaddr.get j).toNat, v)] }) := by
  obtain ⟨l, hl⟩ := hq.hostq_eq
  have hwait : (if (s.ctx n).bells = [] then s.popHost.ring n ((s.ctx n).evaddr.get j).toNat v else none) = none := by
    rcases h with h | h <;> simp [h]
  simp only [execDoorbell, hostCtl_wrote hq hk, hl, State.popHost_ctx, hstate, List.isEmpty_iff, hwait]
  rw [State.hubLook_setCtx, State.popHost_hubLook, hlook]
  all_goals rfl

end

/-- Settles O42, event by event. -/
theorem contextEvents : Obligations.ContextEvents := by
  unfold Obligations.ContextEvents
  intro v n i j pa
  have hn : n.toNat < 256 := n.isLt
  refine ⟨?enabled, ?enableRefused, ?enableIgnored, ?setup, ?killed, ?killIgnored, ?killLeaves, ?killComplete,
    ⟨?startRefused, ?startHeld, ?startTaken, ?startFull, ?startBehind, fun slot bs => ⟨?started, ?startBad, ?startRecord⟩⟩,
    ⟨?bellRefused, ?bellHeld, ?bellUnaligned, ?bellHome, ?bellBehind⟩⟩
  case enabled =>
    rintro s ⟨hq, h0, h1, hstate, hup⟩
    exact (execCtxEnable_next (hostCtl_wrote hq (regEvent_enable hn h0 h1))).trans (congrArg _ ((if_neg (not_not.2 hstate)).trans (if_pos hup)))
  case enableRefused =>
    rintro s ⟨hq, h0, h1, hstate, hup⟩
    exact (execCtxEnable_next (hostCtl_wrote hq (regEvent_enable hn h0 h1))).trans (congrArg _ ((if_neg (not_not.2 hstate)).trans (if_neg hup)))
  case enableIgnored =>
    rintro s ⟨hq, h0, h1, hstate⟩
    exact (execCtxEnable_next (hostCtl_wrote hq (regEvent_enable hn h0 h1))).trans (congrArg _ (if_pos hstate))
  case setup =>
    rintro s ⟨hstate, hrun⟩
    exact ⟨_, if_neg (by simp [hstate, hrun]), State.ctx_setCtx s n.toNat { s.ctx n.toNat with state := 1, heldWrites := [] }, rfl, rfl⟩
  case killed =>
    rintro s ⟨hq, hv, hstate⟩
    exact (execCtxKill_next (hostCtl_wrote hq (regEvent_kill hn hv))).trans (congrArg _ (if_pos hstate))
  case killIgnored =>
    rintro s ⟨hq, hv, h1, h3⟩
    exact (execCtxKill_next (hostCtl_wrote hq (regEvent_kill hn hv))).trans (congrArg _ (if_neg (not_or.2 ⟨h1, h3⟩)))
  case killLeaves => exact fun s hteams hgrids hstreams => State.killCtx_of_idle hteams hgrids hstreams
  case killComplete =>
    rintro s ⟨hstate, hgrids, hstreams⟩
    exact execCtxKillComplete_next hstate hgrids hstreams
  case startRefused =>
    rintro s ⟨⟨hq, hreq⟩, h⟩
    exact execStreamStart_refused hq (regEvent_strt hn i) hreq h
  case startHeld =>
    rintro s ⟨⟨hq, hreq⟩, hstate, hrun⟩
    exact execStreamStart_held hq (regEvent_strt hn i) hreq hstate hrun
  case startTaken =>
    rintro s ⟨⟨⟨hq, hreq⟩, hstate, hrun⟩, hstarts, htaken⟩
    exact execStreamStart_done hq (regEvent_strt hn i) hreq hstate hrun hstarts (State.tryStream_taken (s := s.popHost) htaken)
  case startFull =>
    rintro s ⟨⟨⟨hq, hreq⟩, hstate, hrun⟩, hstarts, hnew, hfull⟩
    exact execStreamStart_done hq (regEvent_strt hn i) hreq hstate hrun hstarts (State.tryStream_full (s := s.popHost) hnew hfull)
  case startBehind =>
    rintro s ⟨⟨⟨hq, hreq⟩, hstate, hrun⟩, hstarts⟩
    exact execStreamStart_behind hq (regEvent_strt hn i) hreq hstate hrun hstarts
  case started =>
    rintro s ⟨⟨⟨hq, hreq⟩, hstate, hrun⟩, hstarts, hnew, hslot, hread⟩
    exact execStreamStart_done hq (regEvent_strt hn i) hreq hstate hrun hstarts (State.tryStream_read (s := s.popHost) hnew hslot hread)
  case startBad =>
    rintro s ⟨⟨⟨hq, hreq⟩, hstate, hrun⟩, hstarts, hnew, hslot, hlook⟩
    obtain ⟨herr, hstreams, hseq, hmem⟩ := s.popHost.hostFail_keeps n.toNat v.toNat
    refine ⟨_, execStreamStart_done hq (regEvent_strt hn i) hreq hstate hrun hstarts
      (State.tryStream_failed (s := s.popHost) hnew hslot (State.readRecord_bad hlook)), ?_, hstreams, hseq, hmem⟩
    exact (congrArg Ctx.err (State.ctx_setCtx _ _ _)).trans herr
  case startRecord =>
    intro s
    refine ⟨fun h => State.startStream_illegal h, fun h => ?_⟩
    rw [State.startStream_legal h]
    exact ⟨(streamGroup_pc bs).trans (BitVec.setWidth_eq_extractLsb' (by omega)).symm, streamGroup_tvec bs, fun k h1 h4 => sreg_streamGroup bs h1 h4,
      rfl, rfl, BitVec.ofNat_toNat .., rfl⟩
  case bellRefused =>
    rintro s ⟨hq, h⟩
    exact execDoorbell_refused hq (regEvent_doorbell hn j) h
  case bellHeld =>
    rintro s ⟨hq, h⟩
    exact execDoorbell_held hq (regEvent_doorbell hn j) h
  case bellUnaligned =>
    rintro s ⟨hq, hstate, hbells, ha⟩
    exact execDoorbell_done hq (regEvent_doorbell hn j) hstate hbells (State.ring_unaligned ha)
  case bellHome =>
    rintro s ⟨hq, hstate, hbells, ha, hfly, hlook⟩
    exact execDoorbell_done hq (regEvent_doorbell hn j) hstate hbells (State.ring_home ha hlook hfly)
  case bellBehind =>
    rintro s ⟨hq, hstate, hwait, hlook⟩
    exact execDoorbell_behind hq (regEvent_doorbell hn j) hstate hlook (hwait.imp id fun ⟨hfly, ha⟩ => State.ring_waits ha hlook hfly)

end Sys2Proof.Machine
end

section
/-! The device as a start leaves it (03 R76; 01 R26): what the registers read, and the statement. -/

namespace Sys2Proof.Machine

/-- The registers of the accept word and of the error ring read zero after a start. -/
theorem regRead_reset_ring : ∀ off ∈ [0x40, 0x200, 0x208, 0x210, 0x218, 0x220], State.reset.regRead off = 0 := by decide

/-- No metadata region is defined after a start. -/
theorem regRead_reset_mdrgn : ∀ i : Fin 16, State.reset.regRead (0x100 + 8 * i.val) = 0 := by decide

/-- Settles O60: no table of the device has an entry, so every context, tenant and byte has the value that an unlisted one stands for. -/
theorem resetState : Obligations.ResetState := by
  unfold Obligations.ResetState
  exact ⟨rfl, fun _ => ⟨rfl, rfl, rfl, rfl, rfl, rfl⟩, rfl, rfl, rfl, regRead_reset_ring, regRead_reset_mdrgn,
    rfl, rfl, rfl, rfl, rfl, rfl, fun _ => rfl, fun _ => rfl, State.reset_memWf⟩

end Sys2Proof.Machine
end

section
/-! What a store at a home, a save, an invalidation log and an acquire leave of the teams and of the work that cores hold for them
(04 R107, R108; 07 R170, R190; 11 R263, R264): later proofs read these views instead of the operations. -/

namespace Sys2Proof.Machine

/-! ### The teams, and what cores hold for them -/

/-- What a core holds for its teams beside their memory: operand log, sequencer queue, receives and halt requests. -/
def Core.work (c : Core) : List LogEntry × List SeqCmd × List Posted × List Nat := (c.olog, c.seq, c.posted, c.haltReq)

/-- The teams of the device, with what each core holds for them. -/
def State.duties (s : State) : KMap Team × (Nat → List LogEntry × List SeqCmd × List Posted × List Nat) := (s.teams, fun n => (s.core n).work)

theorem State.team_of_duties {s t : State} (h : t.duties = s.duties) (k : Nat) : t.team k = s.team k := by
  have hteams : t.teams = s.teams := congrArg Prod.fst h
  unfold State.team
  rw [hteams]

theorem State.work_of_duties {s t : State} (h : t.duties = s.duties) (n : Nat) : (t.core n).work = (s.core n).work := congrFun (congrArg Prod.snd h) n

theorem State.duties_updCore (s : State) (n : Nat) {f : Core → Core} (hf : ∀ c, (f c).work = c.work) : (s.updCore n f).duties = s.duties := by
  refine Prod.ext rfl (funext fun m => ?_)
  show ((s.updCore n f).core m).work = (s.core m).work
  rw [State.updCore_core]
  split
  · next h => rw [hf, h]
  · rfl

section

variable (s : State)

@[simp] theorem State.carry_duties (a b bytes : Nat) : (s.carry a b bytes).duties = s.duties := by
  obtain ⟨_, h⟩ := s.carry_only a b bytes
  rw [h]
  rfl

@[simp] theorem State.carryFor_duties (p : Party) (a b bytes : Nat) : (s.carryFor p a b bytes).duties = s.duties := by
  unfold State.carryFor
  dsimp only
  split
  · split
    · exact s.carry_duties ..
    · exact s.carry_duties ..
  · exact s.carry_duties ..

@[simp] theorem State.drainTokens_duties (n bytes : Nat) : (s.drainTokens n bytes).duties = s.duties := by
  unfold State.drainTokens
  split <;> rfl

@[simp] theorem State.haul_duties (p : Party) (core die bytes : Nat) : (s.haul p core die bytes).duties = s.duties := by
  unfold State.haul
  split <;> simp

@[simp] theorem State.haulSector_duties (p : Party) (core pa : Nat) : (s.haulSector p core pa).duties = s.duties := s.haul_duties ..

@[simp] theorem State.homeStore_duties (sec : Nat) (st : SecStore) (copy : Bool) : (s.homeStore sec st copy).duties = s.duties := rfl

@[simp] theorem State.cleanL1_duties (core : Nat) (pasid : BitVec 20) (sec : Nat) : (s.cleanL1 core pasid sec).duties = s.duties :=
  s.duties_updCore core fun _ => rfl

@[simp] theorem State.sendReq_duties (p : BitVec 12) (t : TSent) : (s.sendReq p t).duties = s.duties := by
  unfold State.sendReq
  extract_lets x t
  obtain ⟨_, _, h⟩ := (s.setPeer p.toNat { x with sent := x.sent ++ [t], seqNext := x.seqNext + 1 }).transmit_only p t
  rw [h]
  rfl

@[simp] theorem State.drainEntry_duties (core : Nat) (e : CbEntry) : (s.drainEntry core e).duties = s.duties := by
  unfold State.drainEntry
  extract_lets w u
  have hu : u.duties = s.duties := s.duties_updCore core fun _ => rfl
  split
  · simp [hu]
  · split
    · exact hu
    · simp [hu]

@[simp] theorem State.drainAll_duties (core : Nat) (l : List CbEntry) : (s.drainAll core l).duties = s.duties :=
  foldl_keeps State.duties _ (fun t e => by split <;> simp) l s

/-- A die's invalidation log takes translations and L1 sectors away, and drains buffered stores (R190). -/
@[simp] theorem State.removeInvals_duties (die : Nat) (new : List Inval) : (s.removeInvals die new).duties = s.duties := by
  refine (foldl_keeps State.duties _ (fun t e => ?_) _ _).trans rfl
  refine (State.duties_updCore _ e.1 fun c => ?_).trans (t.drainAll_duties ..)
  rfl

@[simp] theorem State.completeInvals_duties (l : List Inval) : (s.completeInvals l).duties = s.duties := rfl

@[simp] theorem State.applyInvals_duties (die : Nat) : (s.applyInvals die).duties = s.duties := by
  unfold State.applyInvals
  split
  · rfl
  · extract_lets new t log left die' u
    have hu : u.duties = s.duties := by
      refine Eq.trans (b := t.duties) rfl ?_
      unfold t
      split
      · rfl
      · exact s.removeInvals_duties ..
    split
    · exact (u.completeInvals_duties _).trans hu
    · exact hu

@[simp] theorem State.switchInvals_duties (cores : List Nat) : (s.switchInvals cores).duties = s.duties :=
  foldl_keeps State.duties _ (fun t d => t.applyInvals_duties d) _ s

@[simp] theorem State.saveWrite_duties (h va : Nat) (bs : List Byte) : (s.saveWrite h va bs).duties = s.duties := by
  refine foldl_keeps State.duties _ (fun t e => ?_) _ s
  split
  · simp
  · rfl

@[simp] theorem State.freshL1_duties (h core : Nat) : (s.freshL1 h core).duties = s.duties := by
  unfold State.freshL1
  extract_lets p same
  refine Eq.trans ?_ (s.duties_updCore core (f := fun c => { c with l1 := c.l1.filter fun l => l.ctx != s.ctxOf p || same l }) fun _ => rfl)
  rfl

/-- Writing a directory entry's state changes that team's record alone (Table 11-6). -/
theorem State.setDir_team (h x : Nat) : (s.setDir h x).team h = { s.team h with dirState := x } := State.team_setTeam ..

theorem State.setDir_work (h x n : Nat) : ((s.setDir h x).core n).work = (s.core n).work := State.work_of_duties (s.saveWrite_duties ..) n

end

/-! ### Lives of teams -/

/-- Where each team is in its life. -/
def State.lives (s : State) (k : Nat) : TeamState := (s.team k).life

theorem State.lives_of_teams {s t : State} (h : t.teams = s.teams) : t.lives = s.lives := by
  funext k
  simp only [State.lives, State.team, h]

theorem State.lives_of_duties {s t : State} (h : t.duties = s.duties) : t.lives = s.lives := State.lives_of_teams (congrArg Prod.fst h)

/-- A group changed is the only part of its team that changes. -/
theorem State.updGrp_team (s : State) (p : Party) (f : Group → Group) (k : Nat) : ∃ gs, (s.updGrp p f).team k = { s.team k with groups := gs } := by
  cases p with
  | stream j => exact ⟨_, rfl⟩
  | group h g =>
    by_cases hk : k = h
    · subst hk; exact ⟨_, State.team_setTeam ..⟩
    · exact ⟨_, State.team_setTeam_other _ _ hk⟩

section

variable (s : State)

@[simp] theorem State.updGrp_lives (p : Party) (f : Group → Group) : (s.updGrp p f).lives = s.lives := by
  funext k
  obtain ⟨_, h⟩ := s.updGrp_team p f k
  show ((s.updGrp p f).team k).life = (s.team k).life
  rw [h]

theorem State.setTeam_lives (h : Nat) (x : Team) : (s.setTeam h x).lives = Function.update s.lives h x.life := by
  funext k
  by_cases hk : k = h
  · subst hk; simp [State.lives]
  · simp [State.lives, State.team_setTeam_other _ _ hk, hk]

theorem State.setTeam_lives_same {h : Nat} {x : Team} (hx : x.life = (s.team h).life) : (s.setTeam h x).lives = s.lives := by
  rw [State.setTeam_lives, hx]
  exact Function.update_eq_self h s.lives

@[simp] theorem State.setGrid_lives (h : Nat) (g : Grid) : (s.setGrid h g).lives = s.lives := rfl

@[simp] theorem State.updCore_lives (n : Nat) (f : Core → Core) : (s.updCore n f).lives = s.lives := rfl

@[simp] theorem State.seeGangs_lives (p : Party) : (s.seeGangs p).lives = s.lives := by
  unfold State.seeGangs
  split
  · rfl
  · dsimp only
    split <;> rfl

@[simp] theorem State.acquireAt_lives (p : Party) (scope : Nat) : (s.acquireAt p scope).lives = s.lives := by
  unfold State.acquireAt
  extract_lets core u t log
  have hu : u.lives = s.lives := by
    unfold u
    split
    · exact State.seeGangs_lives ..
    · rfl
  have ht : t.lives = s.lives := (State.lives_of_duties (u.applyInvals_duties _)).trans hu
  split
  · split
    · exact ht
    · exact (t.updGrp_lives ..).trans ht
  · exact hu

@[simp] theorem State.finishRdv_lives (teams : List Nat) (ps : List Party) (scope : Nat) : (s.finishRdv teams ps scope).lives = s.lives := by
  refine (foldl_keeps State.lives _ (fun t h => ?_) _ _).trans (foldl_keeps State.lives _ (fun t p => ?_) _ s)
  · exact t.setTeam_lives_same rfl
  · exact (State.acquireAt_lives ..).trans (t.updGrp_lives p _)

@[simp] theorem State.tryCbarKind_lives (h : Nat) (half : Bool) : (s.tryCbarKind h half).lives = s.lives := by
  unfold State.tryCbarKind
  extract_lets ts ps
  rw [apply_ite State.lives, s.finishRdv_lives, ite_self]

@[simp] theorem State.tryCbar_lives (h : Nat) : (s.tryCbar h).lives = s.lives :=
  (State.tryCbarKind_lives ..).trans (foldl_keeps State.lives _ (fun t k => t.tryCbarKind_lives k true) _ s)

@[simp] theorem State.noteCause_lives (p : Party) (cause : Nat) (info : DWord) : (s.noteCause p cause info).lives = s.lives := by
  unfold State.noteCause
  split
  · obtain ⟨_, _, _, _, _, h⟩ := s.report_frame 2 0 2 (s.locOfPa info.toNat) info.toNat 1 (s.ctxOf p) 0
    rw [State.reportMemErr, h]
    rfl
  · rfl

@[simp] theorem State.dropWait_lives (p : Party) : (s.dropWait p).lives = s.lives := s.updGrp_lives p _

@[simp] theorem State.dropResult_lives (p : Party) (id : Nat) : (s.dropResult p id).lives = s.lives :=
  (State.updCore_lives ..).trans (s.updGrp_lives p _)

@[simp] theorem State.endStream_lives (k kind cause : Nat) : (s.endStream k kind cause).lives = s.lives := State.lives_of_teams rfl

end

/-! ### Teams go on in their life, or end (04 R87, R107) -/

/-- No team changes its place in life, unless it ends. -/
def State.EndsOnly (s t : State) : Prop := ∀ k, t.lives k = s.lives k ∨ t.lives k = .ended

section

variable {s t u : State}

theorem State.EndsOnly.of_lives (h : t.lives = s.lives) : s.EndsOnly t := fun k => .inl (congrFun h k)

theorem State.EndsOnly.trans (hst : s.EndsOnly t) (htu : t.EndsOnly u) : s.EndsOnly u := fun k =>
  (htu k).elim (fun h => (hst k).imp h.trans h.trans) .inr

theorem State.EndsOnly.foldl {α : Type} {f : State → α → State} (hf : ∀ (t : State) a, t.EndsOnly (f t a)) (l : List α) (s : State) : s.EndsOnly (l.foldl f s) := by
  induction l generalizing s with
  | nil => exact .of_lives rfl
  | cons a l ih => exact (hf s a).trans (ih _)

theorem State.releaseTeam_lives (s : State) (h : Nat) : (s.releaseTeam h).lives = Function.update s.lives h .ended := by
  unfold State.releaseTeam
  extract_lets t u v
  exact State.setTeam_lives v h _

theorem State.releaseTeam_endsOnly (s : State) (h : Nat) : s.EndsOnly (s.releaseTeam h) := by
  intro k
  rw [s.releaseTeam_lives]
  by_cases hk : k = h
  · subst hk; exact .inr (Function.update_self ..)
  · exact .inl (Function.update_of_ne hk ..)

theorem State.teamFatal_endsOnly (s : State) (h cause : Nat) : s.EndsOnly (s.teamFatal h cause) := by
  unfold State.teamFatal
  extract_lets gh u g fate v w
  have hv : s.EndsOnly v := (s.releaseTeam_endsOnly h).trans (.of_lives ((u.setGrid_lives ..).trans (State.tryCbar_lives _ h)))
  have hw : v.EndsOnly w := .foldl (fun t k => t.releaseTeam_endsOnly k) _ v
  split
  · exact hv.trans (hw.trans (.of_lives (w.setGrid_lives ..)))
  · exact hv

theorem State.fatalEnd_endsOnly (s : State) (p : Party) (cause : Nat) : s.EndsOnly (s.fatalEnd p cause) := by
  cases p with
  | group h g => exact s.teamFatal_endsOnly h cause
  | stream k => exact .of_lives (s.endStream_lives k 1 cause)

theorem State.raiseLane_endsOnly (s : State) (p : Party) (t : LaneTrap) : s.EndsOnly (s.raiseLane p t) := by
  unfold State.raiseLane
  refine (State.EndsOnly.of_lives (s.noteCause_lives p t.cause.toNat t.info)).trans ?_
  dsimp only
  split
  · exact State.fatalEnd_endsOnly _ _ _
  · exact .of_lives (State.updGrp_lives ..)

theorem State.scalarTrap_endsOnly (s : State) (p : Party) (cause : Nat) (info : DWord) (ret : BitVec 57) (sempties : List SNum) :
    s.EndsOnly (s.scalarTrap p cause info ret sempties) := by
  unfold State.scalarTrap
  refine (State.EndsOnly.of_lives (s.noteCause_lives p cause info)).trans ?_
  dsimp only
  split
  · exact State.fatalEnd_endsOnly _ _ _
  · exact .of_lives ((State.updGrp_lives ..).trans (State.dropWait_lives ..))

/-- A result that traps ends its team, or leaves a trap to its group (R254 to R258). -/
theorem State.landTrap_endsOnly (s : State) (p : Party) (o : Outst) (t : LateTrap) : s.EndsOnly (s.landTrap p o t) := by
  unfold State.landTrap
  split
  extract_lets u empties id v
  have hu : s.EndsOnly u := .of_lives ((State.updGrp_lives ..).trans (State.dropResult_lives ..))
  have hv : s.EndsOnly v := hu.trans (u.scalarTrap_endsOnly _ _ _ _ _)
  split
  · exact hu.trans ((State.EndsOnly.of_lives (State.noteCause_lives ..)).trans (State.fatalEnd_endsOnly _ _ _))
  · split
    · refine hu.trans ((State.EndsOnly.of_lives ?_).trans (State.raiseLane_endsOnly _ _ _))
      exact State.updGrp_lives { u with handles := id + 1 } p _
    · split
      · exact hv
      · exact hv.trans (.of_lives (State.updGrp_lives ..))

theorem State.land_endsOnly (s : State) (p : Party) (o : Outst) : s.EndsOnly ((s.land p o).getD s) := by
  unfold State.land
  split
  · split
    · exact .of_lives rfl
    · exact s.landTrap_endsOnly _ _ _
  · extract_lets bre
    exact .of_lives (((s.dropResult p o.id).updGrp_lives p fun g => (if bre then g.setStat 1 else g).putResult o o.lanes true).trans (s.dropResult_lives p o.id))

/-- Settling what is on its way to a party at a halt may end teams, and does nothing else to a team's life (R263). -/
theorem State.settleParty_endsOnly (s : State) (p : Party) : s.EndsOnly (s.settleParty p) := by
  unfold State.settleParty
  extract_lets u loads entry
  have hu : s.EndsOnly u := by
    refine .foldl (fun t o => ?_) _ s
    split
    · exact .of_lives rfl
    · exact t.land_endsOnly p o
  split <;> exact hu

end

end Sys2Proof.Machine
end

section
/-! Dependences, steals, reports, placement, pre-emption, swaps and the end of a grid (04 R87, R88, R91 to R99, R106, R109): what each leaves,
and one equation for each event where it happens. -/

namespace Sys2Proof.Machine

/-! ### Dependences (R91, R92) -/

section

variable {s : State} {gh : Nat} {i : Fin 4} {d : DWord × Nat}

/-- A dependence that is met leaves the grid's list and the table; where it was the last, the grid is handed out. -/
theorem State.meetDep_keeps (s : State) (gh n : Nat) :
    ((s.meetDep gh n).grid gh).unmet = (s.grid gh).unmet.erase n ∧
    ((s.grid gh).unmet.erase n = [] → ((s.meetDep gh n).grid gh).handed = true) ∧
    (s.meetDep gh n).depReported gh n = false ∧ (s.meetDep gh n).mem = s.mem ∧ (s.meetDep gh n).teams = s.teams := by
  have hdep : (s.deptab.filter fun e => !(e.grid == gh && e.index == n)).any (fun e => e.grid == gh && e.index == n && e.met) = false := by
    rw [List.any_eq_false]
    intro e he
    obtain ⟨-, hkeep⟩ := List.mem_filter.1 he
    rw [Bool.not_eq_true'] at hkeep
    rw [hkeep, Bool.false_and]
    exact Bool.false_ne_true
  unfold State.meetDep
  extract_lets left g t
  have hgrid : t.grid gh = { s.grid gh with unmet := left } := State.grid_setGrid ..
  split
  · have hout : (t.handOut gh).grid gh = _ := State.grid_setGrid ..
    have hkeep : (t.handOut gh).mem = t.mem ∧ (t.handOut gh).teams = t.teams := ⟨rfl, rfl⟩
    refine ⟨?_, fun _ => ?_, hdep, hkeep⟩
    · rw [hout, hgrid]
    · rw [hout]
  · next hleft =>
    exact ⟨by rw [hgrid], fun hnil => absurd (List.isEmpty_iff.2 hnil) hleft, hdep, rfl, rfl⟩

theorem execDependenceCounterWrite_reported (hd : (s.grid gh).deps[i.val]? = some d) (hi : i.val ∈ (s.grid gh).unmet)
    (hrep : s.depReported gh i.val = true) : execDependenceCounterWrite gh i s = .next (s.meetDep gh i.val) := by
  simp [execDependenceCounterWrite, hd, hi, hrep]

theorem execDependenceCounterWrite_read (hd : (s.grid gh).deps[i.val]? = some d) (hi : i.val ∈ (s.grid gh).unmet)
    (hrep : s.depReported gh i.val = false) (hlook : s.lookHub (s.grid gh).ctx.toNat d.1.toNat false ≠ .miss) :
    execDependenceCounterWrite gh i s =
      .next (if s.depMet (s.grid gh).ctx.toNat d = true then s.bump.meetDep gh i.val else s.bump) := by
  simp only [execDependenceCounterWrite, hd, hrep, List.contains_iff_mem.2 hi]
  cases hl : s.lookHub (s.grid gh).ctx.toNat d.1.toNat false with
  | miss => exact absurd hl hlook
  | _ => cases s.depMet (s.grid gh).ctx.toNat d <;> rfl

end

/-! ### Steals (R94) -/

/-- Ranges cut after n clusters hold n and the others. -/
theorem countOf_cutRanges (n : Nat) (l : List (Nat × Nat)) (hn : n ≤ countOf l) :
    countOf (cutRanges n l).1 = n ∧ countOf (cutRanges n l).2 = countOf l - n := by
  induction l generalizing n with
  | nil => simp_all [cutRanges, countOf]
  | cons e l ih =>
    obtain ⟨f, k⟩ := e
    have hcons : countOf ((f, k) :: l) = k + countOf l := by simp [countOf]
    rw [hcons] at hn ⊢
    unfold cutRanges
    split
    · next h0 => simp [h0, countOf]
    · split
      · obtain ⟨h1, h2⟩ := ih (n - k) (by omega)
        simp only [countOf, List.map_cons, List.sum_cons] at h1 h2 ⊢
        omega
      · simp only [countOf, List.map_cons, List.sum_cons, List.map_nil, List.sum_nil]
        omega

/-- A search from left to right for the greatest finds the one that exceeds all others, be it still ahead or the best so far. -/
theorem foldl_greatest {rep : Nat → Nat} {f : Option Nat → Nat → Option Nat} (hnone : ∀ d, f none d = some d)
    (hsome : ∀ x d, f (some x) d = if rep x < rep d then some d else some x) {v : Nat} (l : List Nat) (b : Option Nat)
    (hl : ∀ d ∈ l, d ≠ v → rep d < rep v) (hb : ∀ x, b = some x → x ≠ v → rep x < rep v) (hv : v ∈ l ∨ b = some v) : l.foldl f b = some v := by
  induction l generalizing b with
  | nil => simpa using hv
  | cons d l ih =>
    rw [List.forall_mem_cons] at hl
    obtain ⟨hd, hl⟩ := hl
    have hstep : (f b d = some d ∧ b ≠ some v) ∨ (f b d = b ∧ (d = v → b = some v)) := by
      cases b with
      | none => exact .inl ⟨hnone d, nofun⟩
      | some x =>
        rw [hsome]
        by_cases hx : rep x < rep d
        · refine .inl ⟨if_pos hx, fun h => ?_⟩
          cases h
          exact absurd (hd (by rintro rfl; omega)) (by omega)
        · refine .inr ⟨if_neg hx, ?_⟩
          rintro rfl
          by_contra hne
          exact hx (hb x rfl fun h => hne (by rw [h]))
    rw [List.foldl_cons]
    obtain ⟨hf, hbv⟩ | ⟨hf, hdv⟩ := hstep <;> rw [hf]
    · refine ih (some d) hl (by rintro _ ⟨⟩; exact hd) ?_
      obtain h | h := hv
      · exact (List.mem_cons.1 h).elim (fun h => .inr (by rw [h])) .inl
      · exact absurd h hbv
    · refine ih b hl hb ?_
      obtain h | h := hv
      · exact (List.mem_cons.1 h).elim (fun h => .inr (hdv h.symm)) .inl
      · exact .inr h

section

variable {s : State} {gh : Nat} {thief victim : Fin 6}

/-- A die that may take clusters of a grid, and the die that all others have last reported fewer clusters than (R94). -/
def State.maySteal (s : State) (gh : Nat) (thief victim : Fin 6) : Prop :=
  (s.grid gh).handed = true ∧ (s.grid gh).closed = false ∧ thief.val ∈ s.liveDies ∧ victim.val ∈ s.liveDies ∧ thief ≠ victim ∧
    s.rangesOf gh thief.val = [] ∧ s.rangesOf gh victim.val ≠ [] ∧ thief.val ∉ (s.grid gh).turnedAway ∧
    ∀ d ∈ s.liveDies, d ≠ thief.val → d ≠ victim.val → KMap.get 0 (s.grid gh).reported d < KMap.get 0 (s.grid gh).reported victim.val

/-- The grid after a steal: the victim keeps the first half of its clusters, and the thief has the others. -/
def State.stolen (s : State) (gh : Nat) (thief victim : Fin 6) : State :=
  let l := s.rangesOf gh victim.val
  let r := cutRanges (countOf l - countOf l / 2) l
  s.setGrid gh { s.grid gh with ranges := KMap.set [] (KMap.set [] (s.grid gh).ranges victim.val r.1) thief.val r.2 }

theorem State.maySteal.ne (h : s.maySteal gh thief victim) : thief ≠ victim := by
  obtain ⟨-, -, -, -, hne, -⟩ := h
  exact hne

theorem execStealMessage_next (h : s.maySteal gh thief victim) :
    execStealMessage gh thief victim s = .next (if countOf (s.rangesOf gh victim.val) < 2
      then s.setGrid gh { s.grid gh with turnedAway := (s.grid gh).turnedAway ++ [thief.val] } else s.stolen gh thief victim) := by
  obtain ⟨hhanded, hclosed, hthief, hvictim, hne, hempty, hfull, hturned, hmost⟩ := h
  have hother : victim.val ∈ s.liveDies.filter (· != thief.val) :=
    List.mem_filter.2 ⟨hvictim, bne_iff_ne.2 fun e => hne (Fin.ext e.symm)⟩
  have hbest : (s.liveDies.filter (· != thief.val)).foldl (fun (b : Option Nat) d => match b with
      | some x => if KMap.get 0 (s.grid gh).reported x < KMap.get 0 (s.grid gh).reported d then some d else b
      | none => some d) none = some victim.val := by
    refine foldl_greatest (rep := fun d => KMap.get 0 (s.grid gh).reported d) (fun _ => rfl) (fun _ _ => rfl) _ none (fun d hd hdv => ?_) nofun (.inl hother)
    obtain ⟨hlive, hdt⟩ := List.mem_filter.1 hd
    exact hmost d hlive (bne_iff_ne.1 hdt) hdv
  have hleft : (s.liveDies.filter (· != thief.val)).all (fun d => (s.rangesOf gh d).isEmpty) = false := by
    rw [List.all_eq_false]
    exact ⟨_, hother, by simpa using hfull⟩
  unfold execStealMessage
  extract_lets g others rep best l n r
  have hb : best = some victim.val := hbest
  rw [if_neg, ← apply_ite Host.Outcome.next]
  · rfl
  · simp [g, others, hb, hleft, hhanded, hclosed, hthief, hempty, hturned]

/-- After a steal the victim has all but half of its clusters, rounded down, the thief that half, and no other die's clusters move. -/
theorem State.stolen_keeps (hne : thief ≠ victim) :
    countOf ((s.stolen gh thief victim).rangesOf gh victim.val) = countOf (s.rangesOf gh victim.val) - countOf (s.rangesOf gh victim.val) / 2 ∧
    countOf ((s.stolen gh thief victim).rangesOf gh thief.val) = countOf (s.rangesOf gh victim.val) / 2 ∧
    ∀ d, d ≠ thief.val → d ≠ victim.val → (s.stolen gh thief victim).rangesOf gh d = s.rangesOf gh d := by
  have hval : victim.val ≠ thief.val := fun h => hne (Fin.ext h.symm)
  obtain ⟨hkept, hgiven⟩ := countOf_cutRanges _ _ (Nat.sub_le (countOf (s.rangesOf gh victim.val)) (countOf (s.rangesOf gh victim.val) / 2))
  have hread (d : Nat) : (s.stolen gh thief victim).rangesOf gh d = KMap.get [] _ d := congrArg (fun g : Grid => KMap.get [] g.ranges d) (State.grid_setGrid ..)
  refine ⟨?_, ?_, fun d hdt hdv => ?_⟩
  · rw [hread, KMap.get_set_other _ _ _ hval, KMap.get_set_same, hkept]
  · rw [hread, KMap.get_set_same, hgiven]
    omega
  · rw [hread, KMap.get_set_other _ _ _ hdt, KMap.get_set_other _ _ _ hdv]
    rfl

end

/-! ### Reports (R94, R96) -/

/-- Memory, the teams and the cores: what a report leaves alone. -/
def State.body (s : State) : List Host.Cell × KMap Team × KMap Core := (s.mem, s.teams, s.cores)

theorem State.exchangeGrid_body (s : State) (gh : Nat) : (s.exchangeGrid gh).body = s.body := rfl

theorem State.exchangeTenant_body (s : State) (n : Nat) : (s.exchangeTenant n).body = s.body := rfl

theorem State.lapseClaims_body (s : State) (die : Nat) : (s.lapseClaims die).body = s.body := by
  unfold State.lapseClaims
  split <;> rfl

/-- What the distributors exchange is figures of grids and tenants, and claims that lapse. -/
theorem execRemainingCountReport_body (s : State) : ∃ t, execRemainingCountReport s = .next t ∧ t.body = s.body := by
  unfold execRemainingCountReport
  extract_lets t u
  have ht : t.body = s.body := foldl_keeps State.body _ State.exchangeGrid_body _ s
  have hu : u.body = t.body := by
    refine foldl_keeps State.body _ (fun t n => ?_) _ t
    rw [apply_ite State.body, t.exchangeTenant_body, ite_self]
  have hv : (u.liveDies.foldl (fun s d => s.lapseClaims d) u).body = u.body := foldl_keeps State.body _ State.lapseClaims_body _ u
  refine ⟨_, rfl, Eq.trans ?_ (hv.trans (hu.trans ht))⟩
  clear_value u t
  rfl

/-! ### Placement, pre-emption and swaps (R98, R99, R106, R109) -/

theorem mem_insertVictim {key : Nat → Nat × Nat} {h k : Nat} {l : List Nat} : k ∈ insertVictim key h l ↔ k = h ∨ k ∈ l := by
  induction l with
  | nil => simp [insertVictim]
  | cons x l ih =>
    unfold insertVictim
    split
    · exact List.mem_cons
    · simp only [List.mem_cons, ih]
      tauto

theorem mem_foldr_insertVictim {key : Nat → Nat × Nat} {k : Nat} {l : List Nat} : k ∈ l.foldr (insertVictim key) [] ↔ k ∈ l := by
  induction l with
  | nil => rfl
  | cons x l ih => rw [List.foldr_cons, mem_insertVictim, ih, List.mem_cons]

/-- The victims of a pre-emption run on the die and stand below the grid in priority; none of them is leaving already. -/
theorem State.mem_victims {s : State} {gh die k : Nat} (h : k ∈ s.victims gh die) :
    s.movable k = true ∧ s.leaving k = false ∧ dieOfCore (s.team k).core = die ∧ cfgPrio (s.grid (s.team k).grid).cfg < cfgPrio (s.grid gh).cfg := by
  have hk := (List.mem_filter.1 (mem_foldr_insertVictim.1 h)).2
  simpa [and_assoc] using hk

section

variable {s : State} {gh h : Nat}

theorem execPreemptionRequest_next {die : Fin 6} {l : List Nat} (hwork : s.hasWork gh die.val = true) (hroom : s.noRoom gh die.val = true)
    (hl : s.whenLeft.takeVictims gh die.val [] (s.victims gh die.val) = some l) :
    execPreemptionRequest die gh s = .next (s.makeRoom gh die.val false l) := by
  simp [execPreemptionRequest, hwork, hroom, hl]

theorem execTeamSwap_next (hswap : s.swappable h = true) (hwork : s.hasWork gh (dieOfCore (s.team h).core) = true)
    (hroom : s.noRoom gh (dieOfCore (s.team h).core) = true) (hadm : s.admits gh [] = true)
    (hgrid : (s.team h).grid = gh ∨ ((¬ ∃ e ∈ s.teams, e.2.grid = gh ∧ dieOfCore e.2.core = dieOfCore (s.team h).core ∧ s.swappable e.1 = true) ∧
      cfgPrio (s.grid (s.team h).grid).cfg ≤ cfgPrio (s.grid gh).cfg)) :
    execTeamSwap h gh s = .next (s.makeRoom gh (dieOfCore (s.team h).core) true [h]) := by
  unfold execTeamSwap
  refine if_neg ?_
  rw [not_exists] at hgrid
  obtain hgrid | ⟨hown, hprio⟩ := hgrid
  · simp [hswap, hwork, hroom, hadm, hgrid]
  · have hnone : (s.teams.any fun e => e.2.grid == gh && dieOfCore e.2.core == dieOfCore (s.team h).core && s.swappable e.1) = false := by
      simpa using hown
    simp [hswap, hwork, hroom, hadm, hnone, hprio]

theorem execTeamPlacement_next {die : Fin 6} {places : List Place} {k n : Nat} {rest : List (Nat × Nat)}
    (hhanded : (s.grid gh).handed = true) (hclosed : (s.grid gh).closed = false) (hsaved : s.savedReady gh = false)
    (hsite : places.map (·.core) ∈ s.sites gh die.val) (hfits : ∀ p ∈ places, s.placeFits gh p = true)
    (hadm : s.admits gh (places.map (·.core)) = true) (hfirst : s.firstInLine gh die.val = true) (hranges : s.rangesOf gh die.val = (k, n) :: rest) :
    execTeamPlacement gh die places s = .next (
      let u := s.setGrid gh { s.grid gh with ranges := KMap.set [] (s.grid gh).ranges die.val (if n ≤ 1 then rest else (k + 1, n - 1) :: rest) }
      (u.setDie die.val ((u.die die.val).served gh (cfgPrio (s.grid gh).cfg))).startCluster gh die.val k places) := by
  have hall : places.all (s.placeFits gh) = true := List.all_eq_true.2 hfits
  simp [execTeamPlacement, hhanded, hclosed, hsaved, hsite, hall, hadm, hfirst, hranges]

end

/-! ### The end of a grid (R88) -/

section

variable {s : State} {gh ctx pa pb v : Nat} {a b : DWord}

/-- A unit's write of 8 bytes to this device's own memory changes memory, what watches it and the seams' counts. -/
theorem State.unitWrite_here {add : Bool} (h : s.hubLook ctx a.toNat true = .here pa) :
    s.unitWrite ctx a v add = ((if add then s.homeAdd pa (BitVec.ofNat 64 v) else s.homeWrite pa 8 v).settleHub (pa / 64)).carry 6 (dieOfHome (s.homeOf pa)) 8 := by
  simp only [State.unitWrite, h]

/-- The device once a grid's status word has been written at an address of its own memory (R88). -/
def State.statWritten (s : State) (pa v : Nat) : State := ((s.homeWrite pa 8 v).settleHub (pa / 64)).carry 6 (dieOfHome (s.homeOf pa)) 8

/-- A store at a home changes memory and what watches it. -/
theorem State.homeStore_only (s : State) (sec : Nat) (st : SecStore) (copy : Bool) : ∃ mem md poison hubCache watches deptab,
    s.homeStore sec st copy = { s with mem := mem, md := md, poison := poison, hubCache := hubCache, watches := watches, deptab := deptab } :=
  ⟨_, _, _, _, _, _, rfl⟩

/-- A write to memory moves no address. -/
theorem State.statWritten_places (s : State) (pa v : Nat) :
    (∀ n va write, (s.statWritten pa v).hubLook n va write = s.hubLook n va write) ∧ ∀ p, (s.statWritten pa v).homeOf p = s.homeOf p := by
  obtain ⟨_, hcarry⟩ := ((s.homeWrite pa 8 v).settleHub (pa / 64)).carry_only 6 (dieOfHome (s.homeOf pa)) 8
  obtain ⟨_, _, _, _, _, _, hstore⟩ := s.homeStore_only (pa / 64) (secStore (pa % 64) 8 v 0) false
  rw [State.statWritten, hcarry, State.homeWrite, hstore]
  exact ⟨fun _ _ _ => rfl, fun _ => rfl⟩

/-- The status word and then the counter, where both lie in this device's own memory (R88). -/
theorem State.endWrites_here (ha : s.hubLook ctx a.toNat true = .here pa) (hb : s.hubLook ctx b.toNat true = .here pb) :
    s.endWrites ctx a v (some b) false =
      .done ((((s.statWritten pa v).homeAdd pb 1).settleHub (pb / 64)).carry 6 (dieOfHome (s.homeOf pb)) 8) := by
  obtain ⟨hlook, hhome⟩ := s.statWritten_places pa v
  have hstat : s.unitWrite ctx a v false = s.statWritten pa v := State.unitWrite_here ha
  have hcnt : (s.statWritten pa v).unitWrite ctx b 1 true = _ := State.unitWrite_here ((hlook ..).trans hb)
  simp only [State.endWrites, ha, hb, Option.any_some, hstat, hcnt, hhome]
  rfl

theorem execGridEnd_done (hopen : (s.grid gh).closed = false)
    (hran : (s.grid gh).refused = true ∨ ((s.grid gh).handed = true ∧ (s.grid gh).ranges = [] ∧ s.teamsOf gh = [])) (hidle : s.gridBusy gh = false)
    {t : State} (hdone : s.endWrites (s.grid gh).ctx.toNat (s.grid gh).stat (s.grid gh).status (some (s.grid gh).ccnt) (s.grid gh).statDone = .done t) :
    execGridEnd gh s = .next (t.forgetGrid gh).tryStart := by
  unfold execGridEnd
  extract_lets g ran
  have hr : ran = true := by
    obtain h | ⟨h1, h2, h3⟩ := hran
    · simp [ran, g, h]
    · simp [ran, g, h1, h2, h3]
  rw [if_neg (by simp [g, hopen, hr, hidle])]
  simp only [g, hdone]

end

end Sys2Proof.Machine
end

section
/-! Teams halted, saved and resumed (04 R107, R108; 11 R263 to R265): what each step of a switch leaves of a team, and one equation for
each event where it happens. -/

namespace Sys2Proof.Machine

/-- Where every page that a switch writes is there, the switch goes on. -/
theorem State.withPages_go {s : State} {pasid : BitVec 20} {l : List (Nat × List (Nat × Nat))} {go : Out}
    (h : ∀ e ∈ l, s.savePage e.1 pasid e.2 = none) : s.withPages pasid l go = go := by
  have hnone : (l.findSome? fun e => (s.savePage e.1 pasid e.2).map fun va => (e.1, va)) = none :=
    List.findSome?_eq_none_iff.2 fun e he => by rw [h e he, Option.map_none]
  simp only [State.withPages, hnone]

/-! ### Halting (R107, R263) -/

/-- What a halt changes of a team: its life, its directory entry, its save slot and its core. -/
def Team.standing (t : Team) : TeamState × Nat × Nat × Nat := (t.life, t.dirState, t.saveSlot, t.core)

/-- How each team stands, and which halts are asked for at each core. -/
def State.standing (s : State) : (Nat → TeamState × Nat × Nat × Nat) × (Nat → List Nat) := (fun k => (s.team k).standing, fun n => (s.core n).haltReq)

theorem State.standing_of_duties {s t : State} (h : t.duties = s.duties) : t.standing = s.standing :=
  Prod.ext (funext fun k => congrArg Team.standing (State.team_of_duties h k))
    (funext fun n => congrArg (fun w : List LogEntry × List SeqCmd × List Posted × List Nat => w.2.2.2) (State.work_of_duties h n))

theorem State.updGrp_standing (s : State) (p : Party) (f : Group → Group) : (s.updGrp p f).standing = s.standing := by
  refine Prod.ext (funext fun k => ?_) (funext fun n => congrArg Core.haltReq (s.updGrp_core p f n))
  obtain ⟨_, h⟩ := s.updGrp_team p f k
  show ((s.updGrp p f).team k).standing = (s.team k).standing
  rw [h]
  rfl

theorem State.setTeam_standing (s : State) (h : Nat) (x : Team) :
    (s.setTeam h x).standing = (Function.update s.standing.1 h x.standing, s.standing.2) := by
  refine Prod.ext (funext fun k => ?_) rfl
  show ((s.setTeam h x).team k).standing = Function.update s.standing.1 h x.standing k
  by_cases hk : k = h
  · subst hk; rw [State.team_setTeam, Function.update_self]
  · rw [State.team_setTeam_other _ _ hk, Function.update_of_ne hk]; rfl

theorem State.updCore_standing (s : State) (n : Nat) (f : Core → Core) :
    (s.updCore n f).standing = (s.standing.1, Function.update s.standing.2 n (f (s.core n)).haltReq) := by
  refine Prod.ext rfl (funext fun m => ?_)
  show ((s.updCore n f).core m).haltReq = Function.update s.standing.2 n (f (s.core n)).haltReq m
  rw [State.updCore_core]
  by_cases hm : m = n
  · subst hm; rw [if_pos rfl, Function.update_self]
  · rw [if_neg hm, Function.update_of_ne hm]; rfl

/-- The stalls that end at a halt are counted for groups, and change commands of the sequencer (06 R165). -/
theorem State.endStalls_standing (s : State) (h : Nat) : (s.endStalls h).standing = s.standing := by
  unfold State.endStalls
  extract_lets core t
  have ht : t.standing = s.standing := by
    refine foldl_keeps State.standing _ (fun u q => ?_) _ s
    split
    · exact u.updGrp_standing ..
    · rfl
  exact (State.updCore_standing t core _).trans ((congrArg (Prod.mk t.standing.1) (Function.update_eq_self core t.standing.2)).trans ht)

/-- A halt puts the team in its save slot with its directory entry saying so, and takes its halt request away; other teams stay. -/
theorem State.haltTeam_standing (s : State) (h slot : Nat) :
    (s.haltTeam h slot).standing = (Function.update s.standing.1 h (.saving, 1, slot, (s.team h).core),
      Function.update s.standing.2 (s.team h).core ((s.core (s.team h).core).haltReq.filter (· != h))) := by
  unfold State.haltTeam
  extract_lets ctx seq t c u v
  have hu : u.standing = (Function.update s.standing.1 h (.saving, 1, slot, (s.team h).core), s.standing.2) :=
    s.setTeam_standing h { t with life := .saving, saveSlot := slot, saveSeq := seq, dirState := 1 }
  have hteam : u.team h = { t with life := .saving, saveSlot := slot, saveSeq := seq, dirState := 1 } :=
    s.team_setTeam h { t with life := .saving, saveSlot := slot, saveSeq := seq, dirState := 1 }
  have hcore : (u.team h).core = (s.team h).core := by rw [hteam]
  refine (State.standing_of_duties (v.saveWrite_duties ..)).trans ((State.endStalls_standing ..).trans ?_)
  rw [State.updCore_standing, hu, hcore]
  rfl

/-- A team that a halt into one of some save slots has ended with: it has ended, or lies halted in a slot, its halt no longer asked for. -/
def State.HaltedIn (s : State) (slots : List Nat) (k : Nat) : Prop :=
  (s.team k).life = .ended ∨ ((s.team k).life = .saving ∧ (s.team k).dirState = 1 ∧ (s.team k).saveSlot ∈ slots ∧ k ∉ (s.core (s.team k).core).haltReq)

section

variable {s t : State} {slots : List Nat} {h k slot : Nat}

theorem State.HaltedIn.of_standing (h : t.standing = s.standing) (hk : s.HaltedIn slots k) : t.HaltedIn slots k := by
  have hteam : (t.team k).standing = (s.team k).standing := congrFun (congrArg Prod.fst h) k
  have hreq (n : Nat) : (t.core n).haltReq = (s.core n).haltReq := congrFun (congrArg Prod.snd h) n
  simp only [Team.standing, Prod.mk.injEq] at hteam
  obtain ⟨hlife, hdir, hslot, hcore⟩ := hteam
  rwa [State.HaltedIn, hlife, hdir, hslot, hcore, hreq]

/-- A team that is halted leaves no halt request behind. -/
theorem State.haltTeam_halted (hslot : slot ∈ slots) : (s.haltTeam h slot).HaltedIn slots h := by
  obtain ⟨hteams, hreq⟩ := Prod.mk.inj (s.haltTeam_standing h slot)
  have hteam : ((s.haltTeam h slot).team h).standing = (.saving, 1, slot, (s.team h).core) := (congrFun hteams h).trans (Function.update_self ..)
  simp only [Team.standing, Prod.mk.injEq] at hteam
  obtain ⟨hlife, hdir, hsave, hcore⟩ := hteam
  refine .inr ⟨hlife, hdir, by rwa [hsave], ?_⟩
  rw [hcore, show ((s.haltTeam h slot).core (s.team h).core).haltReq = _ from (congrFun hreq _).trans (Function.update_self ..)]
  simp

/-- A halt leaves other teams as they stand, and asks for no halt. -/
theorem State.haltTeam_other (hk : k ≠ h) : ((s.haltTeam h slot).team k).standing = (s.team k).standing ∧
    ∀ n, ((s.haltTeam h slot).core n).haltReq ⊆ (s.core n).haltReq := by
  obtain ⟨hteams, hreq⟩ := Prod.mk.inj (s.haltTeam_standing h slot)
  refine ⟨(congrFun hteams k).trans (Function.update_of_ne hk ..), fun n => ?_⟩
  rw [show ((s.haltTeam h slot).core n).haltReq = _ from congrFun hreq n]
  by_cases hn : n = (s.team h).core
  · subst hn; rw [Function.update_self]; exact List.filter_subset_self _
  · rw [Function.update_of_ne hn]; exact List.Subset.refl _

theorem State.HaltedIn.haltTeam (hk : s.HaltedIn slots k) (hslot : slot ∈ slots) : (s.haltTeam h slot).HaltedIn slots k := by
  by_cases hkh : k = h
  · subst hkh; exact s.haltTeam_halted hslot
  · obtain ⟨hteam, hreq⟩ := s.haltTeam_other (slot := slot) hkh
    simp only [Team.standing, Prod.mk.injEq] at hteam
    obtain ⟨hlife, hdir, hsave, hcore⟩ := hteam
    rw [State.HaltedIn, hlife, hdir, hsave, hcore]
    exact hk.imp_right fun ⟨h1, h2, h3, h4⟩ => ⟨h1, h2, h3, fun hmem => h4 (hreq _ hmem)⟩

/-- Teams halted into save slots, those that a trap has ended left out (Table 4-8). -/
def State.haltInto (s : State) (l : List (Nat × Nat)) : State := l.foldl (fun s e => if (s.team e.1).life = .running then s.haltTeam e.1 e.2 else s) s

/-- A team that runs or has been dealt with has been dealt with once its turn has come, and stays so. -/
theorem State.haltInto_halted (l : List (Nat × Nat)) (s : State) (hslots : ∀ e ∈ l, e.2 ∈ slots)
    (hk : s.HaltedIn slots k ∨ ((s.team k).life = .running ∧ k ∈ l.map (·.1))) : (s.haltInto l).HaltedIn slots k := by
  induction l generalizing s with
  | nil => simpa [State.haltInto] using hk
  | cons e l ih =>
    obtain ⟨hslot, hslots⟩ := List.forall_mem_cons.1 hslots
    refine ih _ hslots ?_
    dsimp only
    obtain hk | ⟨hrun, hk⟩ := hk
    · left
      split
      · exact hk.haltTeam hslot
      · exact hk
    · by_cases hke : k = e.1
      · subst hke
        rw [if_pos hrun]
        exact .inl (s.haltTeam_halted hslot)
      · rw [List.map_cons, List.mem_cons] at hk
        refine .inr ⟨?_, hk.resolve_left hke⟩
        split
        · exact (congrArg Prod.fst (s.haltTeam_other hke).1).trans hrun
        · exact hrun

/-! ### A team halted, where it happens -/

/-- Everything on its way to the running teams of a cluster settled (R263). -/
def State.settled (s : State) (h : Nat) : State := ((s.clusterRuns h).flatMap s.partiesOf).foldl (fun s p => s.settleParty p) s

theorem execTeamHalt_next (hrun : (s.team h).life = .running) (hleaving : ∀ k ∈ s.clusterRuns h, s.leaving k = true)
    (hmsgs : ∀ m ∈ s.msgs, m.team ∉ (s.team h).cluster) (hroom : (s.clusterRuns h).length ≤ (s.freeSlots (s.ctxOf (.group h 0))).length)
    (hpages : ∀ e ∈ (s.clusterRuns h).zip (s.freeSlots (s.ctxOf (.group h 0))), s.savePage (s.team e.1).core (s.ctx (s.ctxOf (.group h 0))).pasid
      [((s.ctx (s.ctxOf (.group h 0))).save.toNat + 64 * e.2, 64)] = none) :
    execTeamHalt h s = .next (((s.settled h).haltInto ((s.clusterRuns h).zip (s.freeSlots (s.ctxOf (.group h 0))))).switchInvals
      ((s.clusterRuns h).map fun k => (s.team k).core)) := by
  have hzip : (s.clusterRuns h).zip ((s.freeSlots (s.ctxOf (.group h 0))).take (s.clusterRuns h).length) =
      (s.clusterRuns h).zip (s.freeSlots (s.ctxOf (.group h 0))) := by
    rw [List.zip_eq_zip_take_min (l₂ := s.freeSlots _), min_eq_left hroom, List.take_length]
  unfold execTeamHalt
  extract_lets t ctx c slots u
  have hfree : ¬ slots.length < (s.clusterRuns h).length := by simpa [slots, ctx] using hroom
  rw [if_neg (by simpa [t, hrun, hfree] using ⟨hleaving, hmsgs⟩), State.withPages_go]
  · simp only [slots, ctx, hzip]
    rfl
  · simp only [slots, ctx, hzip, List.forall_mem_map]
    exact hpages

/-- Every team of the cluster that ran has ended, or lies halted in a save slot that was free. -/
theorem State.halted_after (hroom : (s.clusterRuns h).length ≤ slots.length) (cores : List Nat) (hk : k ∈ s.clusterRuns h) :
    (((s.settled h).haltInto ((s.clusterRuns h).zip slots)).switchInvals cores).HaltedIn slots k := by
  have hrun : (s.team k).life = .running := by simpa using (List.mem_filter.1 hk).2
  have hin : k ∈ ((s.clusterRuns h).zip slots).map (·.1) := by rwa [← List.unzip_fst, List.unzip_zip_left hroom]
  refine .of_standing (State.standing_of_duties (State.switchInvals_duties ..)) (State.haltInto_halted _ _ (fun e he => (List.of_mem_zip he).2) ?_)
  obtain hlife | hlife := State.EndsOnly.foldl (fun t p => t.settleParty_endsOnly p) ((s.clusterRuns h).flatMap s.partiesOf) s k
  · exact .inr ⟨hlife.trans hrun, hin⟩
  · exact .inl (.inl hlife)

end

/-! ### Saving (R107, R263, R264) -/

section

variable {s : State} {h : Nat}

/-- The pages that a save of a team writes: its directory entry, what its image holds, and what the tables leave open. -/
def State.saveRanges (s : State) (h : Nat) : List (Nat × Nat) :=
  let base := (s.ctx (s.ctxOf (.group h 0))).save.toNat
  let slot := (s.team h).saveSlot
  (base + 64 * slot, 64) :: ((s.slotBytes h (s.imageOf h)).map fun e => (base + slotBase slot + e.1, e.2.length)) ++
    (slotOpen (s.grid (s.team h).grid).ngrp).map fun e => (base + slotBase slot + e.1, e.2)

/-- The record of a team that has been saved (R107, R110, R264). -/
def State.savedTeam (s : State) (h : Nat) : Team :=
  { s.team h with life := .saved, image := some (s.imageOf h), savedAt := s.moment, groups := (s.team h).groups.map Group.giveUp }

/-- The device once a team's record says that it is saved, and its room on its core is free (R107, R264). -/
def State.vacated (s : State) (h : Nat) : State :=
  let u := s.setTeam h (s.savedTeam h)
  { u with watches := u.watches.filter fun w => w.party.isStream || w.party.teamOf != h }.updCore (s.team h).core
    fun c => c.without (s.team h) h (s.grid (s.team h).grid).scrBytes

/-- A save slot filled: free bytes where the tables leave the layout open, and what the image holds (R264; log 16). -/
def State.storeSlot (s : State) (h base : Nat) (free : List (Nat × Nat)) (bytes : List (Nat × List Byte)) : State :=
  bytes.foldl (fun s e => s.saveWrite h (base + e.1) e.2) (free.foldl (fun s e =>
    (s.saveWrite h (base + e.1) ((List.range e.2).map fun i => (Config.freeWord (s.fresh + i)).setWidth 8)).bumpBy e.2) s)

theorem State.storeSlot_duties (s : State) (h base : Nat) (free : List (Nat × Nat)) (bytes : List (Nat × List Byte)) :
    (s.storeSlot h base free bytes).duties = s.duties := by
  unfold State.storeSlot
  refine (foldl_keeps State.duties _ (fun u e => ?_) _ _).trans (foldl_keeps State.duties _ (fun u e => ?_) _ s)
  · exact u.saveWrite_duties ..
  · exact u.saveWrite_duties h (base + e.1) _

/-- The device with a team's state in its save slot (R107, R264). -/
def State.stored (s : State) (h : Nat) : State :=
  (s.vacated h).storeSlot h ((s.ctx (s.ctxOf (.group h 0))).save.toNat + slotBase (s.team h).saveSlot) (slotOpen (s.grid (s.team h).grid).ngrp)
    (s.slotBytes h (s.imageOf h))

theorem execTeamSaveComplete_next (hlife : (s.team h).life = .saving) (hcbuf : (s.core (s.team h).core).cbuf = []) (howes : s.peerOwes h = false)
    (hpages : s.savePage (s.team h).core (s.ctx (s.ctxOf (.group h 0))).pasid (s.saveRanges h) = none) :
    execTeamSaveComplete h s =
      .next (((s.stored h).setDir h (if (s.stored h).teamReady h then 2 else 3)).switchInvals [(s.team h).core]) := by
  unfold execTeamSaveComplete
  dsimp only
  rw [if_neg (by simp [hlife, hcbuf, howes]), State.withPages_go]
  · rfl
  · rw [List.forall_mem_singleton]
    exact hpages

/-- Once its state lies in its slot, the team's record says so with the state of its directory entry, and the receives it had posted
have left its core. -/
theorem State.stored_after (d : Nat) (cores : List Nat) :
    (((s.stored h).setDir h d).switchInvals cores).team h = { s.savedTeam h with dirState := d } ∧
    ((((s.stored h).setDir h d).switchInvals cores).core (s.team h).core).posted = (s.core (s.team h).core).posted.filter (·.team != h) := by
  have hduties : (s.stored h).duties = (s.vacated h).duties := State.storeSlot_duties ..
  constructor
  · rw [State.team_of_duties (State.switchInvals_duties ..), State.setDir_team, State.team_of_duties hduties, State.vacated]
    simp only [State.updCore_team]
    exact congrArg (fun x : Team => { x with dirState := d }) (s.team_setTeam h (s.savedTeam h))
  · have hwork := (State.work_of_duties (State.switchInvals_duties _ cores) (s.team h).core).trans
      (((s.stored h).setDir_work h d _).trans (State.work_of_duties hduties _))
    simp only [Core.work, Prod.mk.injEq] at hwork
    obtain ⟨-, -, hposted, -⟩ := hwork
    rw [hposted, State.vacated, State.updCore_core, if_pos rfl]
    rfl

end

/-! ### Resuming (R108, R142, R264) -/

/-- Each team of a list in the half of its cluster that it takes (R101). -/
theorem foldl_far (f : Nat → Bool) (l : List Nat) (s : State) (k : Nat) :
    (l.foldl (fun s j => s.setTeam j { s.team j with far := f (s.team j).cc }) s).team k =
      if k ∈ l then { s.team k with far := f (s.team k).cc } else s.team k := by
  induction l generalizing s with
  | nil => rfl
  | cons j l ih =>
    rw [List.foldl_cons, ih]
    by_cases hk : k = j
    · subst hk; simp
    · simp [State.team_setTeam_other _ _ hk, hk]

section

variable {s : State} {h : Nat} {p : Place}

/-- What a resume on a place changes of a team, and what it brings to the core (R108). -/
theorem State.resumeTeam_keeps (s : State) (h : Nat) (p : Place) :
    (∃ since groups, (s.resumeTeam h p).team h =
      { s.team h with life := .running, core := p.core, scrBase := p.scr, accMap := p.acc, image := none, since := since, groups := groups }) ∧
    ((s.resumeTeam h p).core p.core).olog = (s.core p.core).olog ++ ((s.team h).image.getD Core.empty).olog ∧
    ∃ f : SeqCmd → SeqCmd, ((s.resumeTeam h p).core p.core).seq = (s.core p.core).seq ++ ((s.team h).image.getD Core.empty).seq.map f := by
  unfold State.resumeTeam
  extract_lets t im n s1 s2 free msgs s3 s4 s5
  have h2 : s2.duties = s1.duties := by
    unfold s2
    split
    · rfl
    · exact s1.freshL1_duties ..
  have h5 : s5.duties = s4.duties := by
    refine foldl_keeps State.duties _ (fun u k => ?_) _ s4
    dsimp only
    split
    · rfl
    · exact u.saveWrite_duties ..
  have hwork2 : (s2.core p.core).work = (s.core p.core).work := State.work_of_duties h2 p.core
  have hwork5 : (s5.core p.core).work = (s4.core p.core).work := State.work_of_duties h5 p.core
  simp only [Core.work, Prod.mk.injEq] at hwork2 hwork5
  obtain ⟨holog2, hseq2, -⟩ := hwork2
  obtain ⟨holog5, hseq5, -⟩ := hwork5
  refine ⟨?_, ?_, ?_⟩
  · have h4 : s4.team h = s2.team h := by simp only [s4, s3, State.updCore_team]
    rw [State.team_of_duties h5, h4, State.team_of_duties h2]
    exact ⟨_, _, State.team_setTeam ..⟩
  · rw [holog5, ← holog2]
    simp only [s4, s3, State.updCore_core, if_pos]
    rfl
  · rw [hseq5, ← hseq2]
    simp only [s4, s3, State.updCore_core, if_pos]
    exact ⟨_, rfl⟩

/-- On a core without logged accesses and engine commands nothing goes on and nothing is reported. -/
theorem State.resumed_idle {n : Nat} (h : (s.core n).olog = [] ∧ (s.core n).seq = []) : s.resumed [n] = s.switchInvals [n] := by
  have hw : ((s.switchInvals [n]).core n).work = (s.core n).work := State.work_of_duties (State.switchInvals_duties ..) n
  simp only [Core.work, Prod.mk.injEq] at hw
  obtain ⟨holog, hseq, -, -⟩ := hw
  rw [h.1] at holog
  rw [h.2] at hseq
  simp [State.resumed, State.askLog, State.replayCore, State.pumpMouts, Core.mouts, State.reportRefused, holog, hseq]

/-- A die that has taken a cluster of a grid keeps no room for it any more (R106, R110). -/
theorem foldl_taken (gh : Nat) (l : List Nat) (s : State) {d : Nat} (hd : d ∈ l ∨ ∀ c ∈ (s.die d).claims, c.1 ≠ gh) :
    ∀ c ∈ ((l.foldl (fun u d => u.setDie d ((u.die d).taken gh)) s).die d).claims, c.1 ≠ gh := by
  induction l generalizing s with
  | nil => simpa using hd
  | cons e l ih =>
    refine ih _ ?_
    by_cases hde : d = e
    · subst hde
      right
      intro c hc
      rw [State.die_setDie] at hc
      exact bne_iff_ne.1 (List.mem_filter.1 hc).2
    · rw [State.die_setDie_other _ _ hde]
      exact hd.imp_left fun h => (List.mem_cons.1 h).resolve_left hde

/-- The record of a team that stands as a resume on a place leaves it, in the half of its cluster that it takes there (R101, R108). -/
def State.BackOn (s : State) (h : Nat) (p : Place) (straddled : Bool) (t : Team) : Prop :=
  let cfg := (s.grid (s.team h).grid).cfg
  ∃ since groups far, t = { s.team h with life := .running, core := p.core, scrBase := p.scr, accMap := p.acc, image := none, since := since,
                                          groups := groups, far := far, dirState := 4 } ∧
    (h ∈ (s.team h).cluster → far = (straddled && inFar (cfgRows cfg) (cfgCols cfg) (s.team h).cc))

/-- The team of a cluster that resumes alone, on a core without logged accesses and engine commands to which it brings none. -/
theorem State.resumeCluster_alone {straddled : Bool}
    (holog : ((s.team h).image.getD Core.empty).olog = []) (hseq : ((s.team h).image.getD Core.empty).seq = [])
    (hcore : (s.core p.core).olog = [] ∧ (s.core p.core).seq = []) :
    s.BackOn h p straddled ((s.resumeCluster h straddled [(h, p)]).team h) ∧
    ((s.resumeCluster h straddled [(h, p)]).core p.core).olog = [] ∧ ((s.resumeCluster h straddled [(h, p)]).core p.core).seq = [] := by
  unfold State.resumeCluster
  extract_lets cfg u
  have hu : u.team h = if h ∈ (s.team h).cluster then { s.team h with far := straddled && inFar (cfgRows cfg) (cfgCols cfg) (s.team h).cc } else s.team h :=
    foldl_far (fun c => straddled && inFar (cfgRows cfg) (cfgCols cfg) c) (s.team h).cluster s h
  have hucore (n : Nat) : u.core n = s.core n := by
    refine foldl_keeps (fun s => s.core n) _ (fun t k => ?_) _ s
    exact State.core_setTeam ..
  have himage : (u.team h).image = (s.team h).image := by rw [hu]; split <;> rfl
  obtain ⟨⟨since, groups, hteam⟩, holog', f, hseq'⟩ := u.resumeTeam_keeps h p
  rw [himage, holog, hucore, hcore.1] at holog'
  rw [himage, hseq, hucore, hcore.2] at hseq'
  have hwork := (u.resumeTeam h p).setDir_work h 4 p.core
  simp only [Core.work, Prod.mk.injEq] at hwork
  obtain ⟨hwolog, hwseq, -⟩ := hwork
  refine ⟨⟨since, groups, (u.team h).far, ?_, fun hin => by rw [hu, if_pos hin]⟩, hwolog.trans holog', hwseq.trans hseq'⟩
  rw [List.foldl_cons, List.foldl_nil, State.setDir_team, hteam, hu]
  split <;> rfl

/-- The team after a resume alone, whatever claims of dies have been taken (R106, R108). -/
theorem State.resumed_alone {straddled : Bool} (gh : Nat) (dies : List Nat)
    (holog : ((s.team h).image.getD Core.empty).olog = []) (hseq : ((s.team h).image.getD Core.empty).seq = [])
    (hcore : (s.core p.core).olog = [] ∧ (s.core p.core).seq = []) :
    s.BackOn h p straddled
      ((dies.foldl (fun u d => u.setDie d ((u.die d).taken gh)) ((s.resumeCluster h straddled [(h, p)]).resumed [p.core])).team h) := by
  obtain ⟨hback, hidle⟩ := s.resumeCluster_alone (straddled := straddled) holog hseq hcore
  have htaken (u : State) : (dies.foldl (fun u d => u.setDie d ((u.die d).taken gh)) u).team h = u.team h := by
    refine foldl_keeps (fun u => u.team h) _ (fun v d => ?_) dies u
    rfl
  rw [htaken, State.resumed_idle hidle, State.team_of_duties (State.switchInvals_duties ..)]
  exact hback

theorem execTeamResume_settled (hlife : (s.team h).life = .running) (hdir : (s.team h).dirState = 4)
    (hpage : s.savePage (s.team h).core (s.pasidOf (.group h 0)) [((s.ctx (s.ctxOf (.group h 0))).save.toNat + 64 * (s.team h).saveSlot, 64)] = none) :
    execTeamResume h p s = .next (s.setDir h 0) := by
  unfold execTeamResume
  dsimp only
  rw [if_pos ⟨hlife, hdir⟩, State.withPages_go]
  rw [List.forall_mem_singleton]
  exact hpage

theorem execTeamResume_next {l : List (Nat × Place)} {straddled : Bool} (hlife : (s.team h).life = .saved) (hready : s.clusterReady h = true)
    (hearliest : ∀ k ∈ s.teamsOf (s.team h).grid, (s.team k).saveSeq < (s.team h).saveSeq → s.clusterReady k = true → k ∈ (s.team h).cluster)
    (hfirst : s.firstInLine (s.team h).grid (dieOfCore p.core) = true) (hplaces : s.resumePlaces h p = some (l, straddled))
    (hadm : s.admits (s.team h).grid (l.map (·.2.core)) = true)
    (hpages : ∀ e ∈ l, s.savePage e.2.core (s.pasidOf (.group h 0)) [((s.ctx (s.ctxOf (.group h 0))).save.toNat + 64 * (s.team e.1).saveSlot, 64)] = none) :
    execTeamResume h p s = .next (((l.map (·.2.core)).map dieOfCore).dedup.foldl (fun u d => u.setDie d ((u.die d).taken (s.team h).grid))
      ((s.resumeCluster h straddled l).resumed (l.map (·.2.core)))) := by
  unfold execTeamResume
  dsimp only
  rw [if_neg (by simp [hlife]), if_neg (by simpa [hlife, hready, hfirst] using hearliest)]
  simp only [hplaces]
  rw [if_neg (by simp [hadm]), State.withPages_go]
  rw [List.forall_mem_map]
  exact hpages

end

end Sys2Proof.Machine
end

section
/-! The statement about the events of grids and teams (04 R87 to R110; 11 R263 to R265). -/

namespace Sys2Proof.Machine

/-- Settles O47: each event by its equation where it happens, and what it leaves by the views of teams and cores that its steps keep. -/
theorem gridEvents : Obligations.GridEvents := by
  unfold Obligations.GridEvents
  intro gh h i thief victim die places pl
  dsimp only
  refine ⟨fun d => ⟨?dependenceReported, ?dependenceMet, ?dependenceUnmet⟩, fun s n => ?metDependence, ?steal, ?report, fun k n rest => ?placement,
    fun l => ?preemption, fun s k hk => s.mem_victims hk, ?swap, ?halt, ?save, ⟨?settled, fun l straddled => ?resume⟩, fun pa pb => ?gridEnd⟩
  case dependenceReported =>
    rintro s ⟨⟨hd, hi⟩, hrep⟩
    exact execDependenceCounterWrite_reported hd hi hrep
  case dependenceMet =>
    rintro s ⟨⟨⟨hd, hi⟩, hrep, hlook⟩, hmet⟩
    exact (execDependenceCounterWrite_read hd hi hrep hlook).trans (by rw [if_pos hmet])
  case dependenceUnmet =>
    rintro s ⟨⟨⟨hd, hi⟩, hrep, hlook⟩, hunmet⟩
    exact (execDependenceCounterWrite_read hd hi hrep hlook).trans (by rw [if_neg (by rw [hunmet]; exact Bool.false_ne_true)])
  case metDependence => exact s.meetDep_keeps gh n
  case steal =>
    intro s hmay
    refine ⟨_, execStealMessage_next hmay, fun hfew => if_pos hfew, fun hmany => ?_, ?_⟩
    · rw [if_neg (by omega)]
      exact State.stolen_keeps (State.maySteal.ne hmay)
    · split <;> rfl
  case report =>
    intro s _
    obtain ⟨t, ht, hbody⟩ := execRemainingCountReport_body s
    simp only [State.body, Prod.mk.injEq] at hbody
    exact ⟨t, ht, hbody⟩
  case placement =>
    rintro s ⟨⟨hhanded, hclosed, hsaved, hsite, hfits, hadm, hfirst⟩, hranges⟩
    exact execTeamPlacement_next hhanded hclosed hsaved hsite hfits hadm hfirst hranges
  case preemption =>
    rintro s ⟨hwork, hroom, hl⟩
    exact execPreemptionRequest_next hwork hroom hl
  case swap =>
    rintro s ⟨hswap, hwork, hroom, hadm, hgrid⟩
    exact execTeamSwap_next hswap hwork hroom hadm hgrid
  case halt =>
    rintro s ⟨hrun, hleaving, hmsgs, hroom, hpages⟩
    exact ⟨_, execTeamHalt_next hrun hleaving hmsgs hroom hpages, fun k hk => State.halted_after hroom _ hk⟩
  case save =>
    rintro s ⟨hlife, hcbuf, howes, hpages⟩
    obtain ⟨hteam, hposted⟩ := s.stored_after (h := h) (if (s.stored h).teamReady h then 2 else 3) [(s.team h).core]
    refine ⟨_, execTeamSaveComplete_next hlife hcbuf howes hpages, ?_⟩
    dsimp only
    rw [hteam]
    exact ⟨rfl, rfl, rfl, by split <;> simp, rfl, hposted⟩
  case settled =>
    rintro s ⟨hlife, hdir, hpage⟩
    exact execTeamResume_settled hlife hdir hpage
  case resume =>
    rintro s ⟨hlife, hready, hearliest, hfirst, hplaces, hadm, hpages⟩
    refine ⟨_, execTeamResume_next hlife hready hearliest hfirst hplaces hadm hpages, fun e he => ?_, ?_⟩
    · exact foldl_taken _ _ _ (.inl (List.mem_dedup.2 (List.mem_map_of_mem (List.mem_map_of_mem he))))
    · rintro rfl holog hseq hcoreLog hcoreSeq
      obtain ⟨since, groups, far, hteam, hfar⟩ := s.resumed_alone (straddled := straddled) (s.team h).grid _ holog hseq ⟨hcoreLog, hcoreSeq⟩
      rw [List.map_singleton, hteam]
      exact ⟨rfl, rfl, rfl, rfl, rfl, rfl, hfar⟩
  case gridEnd =>
    rintro s ⟨hopen, hran, hidle, hstat, ha, hb⟩
    refine execGridEnd_done hopen hran hidle ?_
    rw [hstat]
    exact State.endWrites_here ha hb

end Sys2Proof.Machine
end

section
/-! Messages sent, received, looked for and given up by scalar instructions (05 R135 to R138; 16 R383 to R385): a command whose registers
are full and whose checks pass makes its effect, and the statement about the five instructions. -/

namespace Sys2Proof.Machine

/-! ### Commands whose checks pass (R253, R360, R411) -/

@[simp] theorem check_eq_none {bad : Bool} {cause : Nat} {info : DWord} : check bad cause info = none ↔ bad = false := by
  simp [check]

@[simp] theorem alignCheck_eq_none {v : DWord} {n : Nat} : alignCheck v n = none ↔ v.toNat % n = 0 := by
  simp [alignCheck]

@[simp] theorem State.ownCheck_eq_none {s : State} {a n : Nat} : s.ownCheck a n = none ↔ a + n ≤ (s.grid s.curTeam.grid).scrBytes := by
  simp [State.ownCheck]

theorem zeroAbove_of_lt {v : DWord} {n : Nat} (h : v.toNat < 2 ^ n) : zeroAbove v n = true := decide_eq_true h

/-- A ready command none of whose checks fails makes its effect. -/
theorem commandOp_ready {i : Instr} {reads writes : List SNum} {checks : State → List (Option (Nat × DWord))} {s : State} (f : State → Out)
    (hready : scalarReady i reads writes s = true) (hchecks : ∀ c ∈ checks s, c = none) : commandOp i reads writes checks f s = f s := by
  have hnone : (checks s).findSome? id = none := List.findSome?_eq_none_iff.2 hchecks
  have hchecked : checked s (checks s) (f s) = f s := by rw [checked, hnone]
  exact (gated_ready _ hready).trans hchecked

section

variable {s : State} {d a b : SNum}

/-- The parameter register of SEND and SENDM passes its checks (R383). -/
theorem State.sendChecks_pass {i : Instr} {v : DWord} (hfields : v.toNat < 2 ^ 54) (hsome : 0 < sendLen v) (hmost : sendLen v ≤ 256)
    (hfits : sendAddr v + sendLen v ≤ (s.grid s.curTeam.grid).scrBytes) : ∀ c ∈ s.sendChecks i v, c = none := by
  simp [State.sendChecks, zeroAbove_of_lt hfields, hfits]
  omega

/-- The source that RECV and RPROBE name is a member of a cluster, or any (R384, R385). -/
theorem recvIll_eq_false {v : DWord} (hfields : v.toNat < 2 ^ 45) (hsrc : recvSrc v < 12 ∨ recvSrc v = 15) : recvIll v = false := by
  simp [recvIll, zeroAbove_of_lt hfields]
  omega

theorem execSend_next (hready : scalarReady (.send d a) [a] [d] s = true) (hchecks : ∀ c ∈ s.sendChecks (.send d a) (s.rs a), c = none)
    (hto : sendTo (s.rs a) < s.curTeam.cluster.length) (hrel : s.released s.who 0 = true) :
    execSend d a s = .next (((s.awaitScalar d).1.post (s.rs a) (sendTo (s.rs a)) (s.awaitScalar d).2 false).advance) := by
  refine (commandOp_ready _ hready ?_).trans ?_
  · simpa [or_imp, forall_and, State.teamCount, Nat.not_le.2 hto] using hchecks
  · simp [hrel]

theorem execSendm_effect (hready : scalarReady (.sendm d a b) [a, b] [d] s = true) (hchecks : ∀ c ∈ s.sendChecks (.sendm d a b) (s.rs a), c = none)
    (hto : sendTo (s.rs a) = 0) (hmask : zeroAbove (s.rs b) 12 = true) (hmembers : s.badMembers (s.rs b) = 0) :
    execSendm d a b s = if s.rs b = 0 then .next (s.ws d 0).advance else if !s.released s.who 0 then waitOut s else
      .next (((List.range 12).filter fun n => (s.rs b).getLsbD n).foldl (fun t n => t.post (s.rs a) n (s.awaitScalar d).2 true) (s.awaitScalar d).1).advance := by
  refine commandOp_ready _ hready ?_
  simpa [or_imp, forall_and, hto, hmask, hmembers] using hchecks

theorem execRecv_effect (hready : scalarReady (.recv d a) [a, blockReg a 1] [d] s = true) (hill : recvIll (s.rs a) = false)
    (hctr : zeroAbove (s.par a 1) 25 = true) (hbuf : recvBuf (s.rs a) % 64 = 0) (halign : (s.par a 1).toNat % 8 = 0)
    (hroom : recvBuf (s.rs a) + 264 ≤ (s.grid s.curTeam.grid).scrBytes) (hctrRoom : (s.par a 1).toNat + 8 ≤ (s.grid s.curTeam.grid).scrBytes) :
    execRecv d a s =
      match s.queued s.who.teamOf (BitVec.ofNat 4 (recvSrc (s.rs a))) (recvTag (s.rs a)) with
      | some m => lateResult ((s.updCore (s.coreOf s.who) fun c => { c with msgq := c.msgq.filter fun x => x.place != m.place }).deliver s.who.teamOf
          (recvBuf (s.rs a)) (s.par a 1).toNat (readBytes (s.core (s.coreOf s.who)).scratch (Config.overflowBase + 256 * m.place) m.len) m.src m.dieBit m.tag) d 1
      | none =>
        if (s.core (s.coreOf s.who)).posted.length < Config.postedMax then
          lateResult (s.updCore (s.coreOf s.who) fun c => { c with posted := c.posted ++
            [⟨s.who.teamOf, BitVec.ofNat 4 (recvSrc (s.rs a)), recvTag (s.rs a), recvBuf (s.rs a), (s.par a 1).toNat⟩] }) d 0
        else lateResult s d 2 := by
  refine (commandOp_ready _ hready ?_).trans rfl
  simp [hill, hctr, hbuf, halign, hroom, hctrRoom]

theorem execRprobe_effect (hready : scalarReady (.rprobe d a) [a] [d] s = true) (hill : recvIll (s.rs a) = false) (hbuf : recvBuf (s.rs a) = 0) :
    execRprobe d a s = lateResult s d (match s.queued s.who.teamOf (BitVec.ofNat 4 (recvSrc (s.rs a))) (recvTag (s.rs a)) with
      | some m => BitVec.ofNat 64 (m.len + 2 ^ 9 * m.src + 2 ^ 13 * m.dieBit.toNat + 2 ^ 16)
      | none => 0) := by
  refine (commandOp_ready _ hready ?_).trans rfl
  simp [hill, hbuf]

theorem execRcancel_effect (hready : scalarReady (.rcancel d a) [a] [d] s = true) (hbuf : zeroAbove (s.rs a) 25 = true) :
    execRcancel d a s =
      if (s.core (s.coreOf s.who)).posted.any (fun p => p.team == s.who.teamOf && p.buf == (s.rs a).toNat) then
        lateResult (s.updCore (s.coreOf s.who) fun c => { c with
          posted := dropFirst (fun p => p.team == s.who.teamOf && p.buf == (s.rs a).toNat) c.posted }) d 1
      else lateResult s d 0 := by
  refine (commandOp_ready _ hready ?_).trans rfl
  simp [hbuf]

end

/-- Settles O20, instruction by instruction. -/
theorem messageInstructions : Obligations.MessageInstructions := by
  unfold Obligations.MessageInstructions
  intro d a b
  refine ⟨?send, ?sendm, ?toNobody, ⟨?posts, ?full, ?takes⟩, ?probeNone, ?probeSome, ?cancels, ?cancelNone⟩
  case send =>
    rintro s hready ⟨⟨hfields, hsome, hmost, hfits⟩, hto, hrel⟩
    exact execSend_next hready (State.sendChecks_pass hfields hsome hmost hfits) hto hrel
  case sendm =>
    rintro s hready ⟨⟨hfields, hsome, hmost, hfits⟩, hto, hmask, hmembers, hne, hrel⟩
    refine (execSendm_effect hready (State.sendChecks_pass hfields hsome hmost hfits) hto (zeroAbove_of_lt hmask) hmembers).trans ?_
    rw [if_neg hne, hrel]
    rfl
  case toNobody =>
    rintro s hready ⟨⟨hfields, hsome, hmost, hfits⟩, hto, hzero⟩
    have hmembers : s.badMembers (s.rs b) = 0 := by simp [State.badMembers, hzero]
    refine (execSendm_effect hready (State.sendChecks_pass hfields hsome hmost hfits) hto (by rw [hzero]; rfl) hmembers).trans ?_
    exact if_pos hzero
  case posts =>
    rintro s hready ⟨⟨⟨hfields, hsrc⟩, hctr, hbuf, halign, hroom, hctrRoom⟩, hnone, hposted⟩
    refine (execRecv_effect hready (recvIll_eq_false hfields hsrc) (zeroAbove_of_lt hctr) hbuf halign hroom hctrRoom).trans ?_
    simp only [hnone]
    exact if_pos hposted
  case full =>
    rintro s hready ⟨⟨⟨hfields, hsrc⟩, hctr, hbuf, halign, hroom, hctrRoom⟩, hnone, hposted⟩
    refine (execRecv_effect hready (recvIll_eq_false hfields hsrc) (zeroAbove_of_lt hctr) hbuf halign hroom hctrRoom).trans ?_
    simp only [hnone]
    exact if_neg (Nat.not_lt.2 hposted)
  case takes =>
    rintro m s hready ⟨⟨⟨hfields, hsrc⟩, hctr, hbuf, halign, hroom, hctrRoom⟩, hhit⟩
    refine (execRecv_effect hready (recvIll_eq_false hfields hsrc) (zeroAbove_of_lt hctr) hbuf halign hroom hctrRoom).trans ?_
    simp only [hhit]
    rfl
  case probeNone =>
    rintro s hready ⟨⟨hfields, hsrc⟩, hbuf, hnone⟩
    refine (execRprobe_effect hready (recvIll_eq_false hfields hsrc) hbuf).trans ?_
    simp only [hnone]
    rfl
  case probeSome =>
    rintro m s hready ⟨⟨hfields, hsrc⟩, hbuf, hhit⟩
    refine (execRprobe_effect hready (recvIll_eq_false hfields hsrc) hbuf).trans ?_
    simp only [hhit]
    rfl
  case cancels =>
    rintro s hready ⟨hbuf, hmine⟩
    exact (execRcancel_effect hready (zeroAbove_of_lt hbuf)).trans (if_pos hmine)
  case cancelNone =>
    rintro s hready ⟨hbuf, hnone⟩
    exact (execRcancel_effect hready (zeroAbove_of_lt hbuf)).trans (if_neg (by rw [hnone]; exact Bool.false_ne_true))

end Sys2Proof.Machine
end

section
/-! Messages on their way (05 R135 to R138): what a delivery leaves of the teams, of the other messages and of the receives posted at a
core, one equation for each way a message can be received, and the statement about its arrival, its status and OVFQ. -/

namespace Sys2Proof.Machine

/-! ### Traffic and scratch leave the mail alone (R137; 01 R13) -/

/-- The teams, the messages on their way, and what each core holds posted and queued. -/
def State.mail (s : State) : KMap Team × List Msg × (Nat → List Posted × List QMsg) := (s.teams, s.msgs, fun n => ((s.core n).posted, (s.core n).msgq))

theorem State.team_of_mail {s t : State} (h : t.mail = s.mail) (k : Nat) : t.team k = s.team k := by
  have hteams : t.teams = s.teams := congrArg Prod.fst h
  unfold State.team
  rw [hteams]

theorem State.msgs_of_mail {s t : State} (h : t.mail = s.mail) : t.msgs = s.msgs := congrArg (fun x => x.2.1) h

theorem State.held_of_mail {s t : State} (h : t.mail = s.mail) (n : Nat) :
    (t.core n).posted = (s.core n).posted ∧ (t.core n).msgq = (s.core n).msgq :=
  Prod.mk.inj (congrArg (fun x => x.2.2 n) h)

/-- Counted traffic of a party changes the seams and the grids alone. -/
theorem State.carryFor_only (s : State) (p : Party) (a b bytes : Nat) : ∃ seams grids, s.carryFor p a b bytes = { s with seams := seams, grids := grids } := by
  obtain ⟨seams, h⟩ := s.carry_only a b bytes
  unfold State.carryFor
  simp only [h]
  cases p with
  | stream k => exact ⟨_, _, rfl⟩
  | group t g =>
    dsimp only
    split
    · exact ⟨_, _, rfl⟩
    · exact ⟨_, _, rfl⟩

theorem State.haulMsg_only (s : State) (m : Msg) : ∃ seams grids, s.haulMsg m = { s with seams := seams, grids := grids } := by
  unfold State.haulMsg
  split
  · exact s.carryFor_only _ _ _ _
  · exact ⟨_, _, rfl⟩

section

variable (s : State) (m : Msg)

@[simp] theorem State.haulMsg_team (k : Nat) : (s.haulMsg m).team k = s.team k := by
  obtain ⟨_, _, h⟩ := s.haulMsg_only m
  rw [h]
  rfl

@[simp] theorem State.haulMsg_core (n : Nat) : (s.haulMsg m).core n = s.core n := by
  obtain ⟨_, _, h⟩ := s.haulMsg_only m
  rw [h]
  rfl

@[simp] theorem State.haulMsg_grp (p : Party) : (s.haulMsg m).grp p = s.grp p := by
  obtain ⟨_, _, h⟩ := s.haulMsg_only m
  rw [h]
  cases p <;> rfl

@[simp] theorem State.haulMsg_msgs : (s.haulMsg m).msgs = s.msgs := by
  obtain ⟨_, _, h⟩ := s.haulMsg_only m
  rw [h]

end

section

variable (s : State)

theorem State.updCore_mail (n : Nat) {f : Core → Core} (hf : ∀ c, (f c).posted = c.posted ∧ (f c).msgq = c.msgq) : (s.updCore n f).mail = s.mail := by
  refine Prod.ext rfl (Prod.ext rfl (funext fun k => ?_))
  show (((s.updCore n f).core k).posted, ((s.updCore n f).core k).msgq) = ((s.core k).posted, (s.core k).msgq)
  rw [State.updCore_core]
  split
  · next h => rw [(hf _).1, (hf _).2, h]
  · rfl

theorem State.scrPutBytes_mail (core a : Nat) (bs : List Byte) (bnd : Nat → Bound) : (s.scrPutBytes core a bs bnd).mail = s.mail := by
  unfold State.scrPutBytes
  refine foldl_keeps State.mail _ (fun t e => ?_) _ s
  exact t.updCore_mail core fun _ => ⟨rfl, rfl⟩

theorem State.scrCount_mail (core a : Nat) : (s.scrCount core a).mail = s.mail := by
  simp only [State.scrCount]
  exact State.scrPutBytes_mail ..

/-- A delivered message changes scratch alone. -/
theorem State.deliver_mail (h buf ctr : Nat) (data : List Byte) (src : Nat) (dieBit : Bool) (tag : BitVec 16) :
    (s.deliver h buf ctr data src dieBit tag).mail = s.mail := by
  unfold State.deliver
  extract_lets t s1 s2
  exact (s2.scrCount_mail _ _).trans ((s1.scrPutBytes_mail _ _ _ _).trans (s.scrPutBytes_mail _ _ _ _))

end

/-! ### Receives that a message meets (R136) -/

/-- The first element that meets a test is the only one taken out. -/
theorem length_dropFirst {α : Type} {f : α → Bool} {l : List α} (h : ∃ x ∈ l, f x = true) : (dropFirst f l).length + 1 = l.length := by
  induction l with
  | nil => obtain ⟨x, hx, -⟩ := h; cases hx
  | cons x l ih =>
    by_cases hx : f x = true
    · simp [dropFirst, hx]
    · obtain ⟨y, hy, hfy⟩ := h
      have hmem : y ∈ l := (List.mem_cons.1 hy).resolve_left fun e => hx (e ▸ hfy)
      simp [dropFirst, hx, ih ⟨y, hmem, hfy⟩]

/-- A receive posted by a team that takes a message of a source (R136). -/
def Posted.takes (h cc : Nat) (tag : BitVec 16) (p : Posted) : Bool := p.team == h && wants p.src p.tag cc tag

theorem Posted.takes_iff {h cc : Nat} {tag : BitVec 16} {p : Posted} :
    p.takes h cc tag = true ↔ p.team = h ∧ (p.src = 15 ∨ p.src.toNat = cc) ∧ p.tag = tag := by
  simp [Posted.takes, wants]

/-! ### A message at its receiving team (R136 to R138) -/

section

variable {s : State} {m : Msg} {h k : Nat}

theorem State.receive_msgs (s : State) (m : Msg) : (s.receive m).1.msgs = s.msgs := by
  unfold State.receive
  extract_lets src
  split
  · rfl
  · extract_lets t c hit
    split
    · rfl
    · split
      · exact (State.msgs_of_mail (State.deliver_mail ..)).trans rfl
      · split
        · exact (State.msgs_of_mail (State.scrPutBytes_mail ..)).trans rfl
        · split
          · rfl
          · exact State.setGrp_msgs ..

theorem State.receive_late (hto : (s.team m.team).cluster[m.cc]? = some h) (hended : (s.team h).life = .ended) : s.receive m = (s, 2) := by
  unfold State.receive
  simp only [hto]
  exact if_pos hended

variable (hto : (s.team m.team).cluster[m.cc]? = some h) (hlive : (s.team h).life ≠ .ended)
include hto hlive

/-- A message that meets a receive is delivered, and the receive is gone. -/
theorem State.receive_matched (hmeets : ∃ p ∈ (s.core (s.team h).core).posted, p.takes h (s.team m.team).cc m.tag = true) :
    (s.receive m).2 = 0 ∧ (s.receive m).1.mail = (s.setCore (s.team h).core { s.core (s.team h).core with
      posted := dropFirst (Posted.takes h (s.team m.team).cc m.tag) (s.core (s.team h).core).posted }).mail := by
  obtain ⟨p, hp⟩ := Option.isSome_iff_exists.1 (List.find?_isSome.2 hmeets)
  unfold State.receive
  simp only [hto]
  rw [if_neg hlive, show List.find? (fun p : Posted => p.team == h && wants p.src p.tag (s.team m.team).cc m.tag) _ = some p from hp]
  exact ⟨rfl, State.deliver_mail ..⟩

variable (hnone : ∀ p ∈ (s.core (s.team h).core).posted, ¬ p.takes h (s.team m.team).cc m.tag = true)
include hnone

/-- A message that meets no receive waits in the lowest free place of the overflow queue. -/
theorem State.receive_queued (hplace : (s.core (s.team h).core).freePlace = some k) :
    (s.receive m).2 = 0 ∧ (s.receive m).1.mail = (s.setCore (s.team h).core { s.core (s.team h).core with
      msgq := (s.core (s.team h).core).msgq ++ [⟨k, h, m.data.length, (s.team m.team).cc, (s.team m.team).far, m.tag⟩] }).mail := by
  unfold State.receive
  simp only [hto]
  rw [if_neg hlive, show List.find? (fun p : Posted => p.team == h && wants p.src p.tag (s.team m.team).cc m.tag) _ = none from List.find?_eq_none.2 hnone]
  simp only [hplace]
  exact ⟨trivial, State.scrPutBytes_mail ..⟩

/-- Where no place is free, the lowest-numbered group of the receiving team is told. -/
theorem State.receive_refused {g : Fin 16} {rest : List (Fin 16)} (hplace : (s.core (s.team h).core).freePlace = none)
    (hgroups : (s.team h).liveGroups = g :: rest) :
    s.receive m = (s.updGrp (.group h g) fun x => { x with ovfq := x.ovfq ++ [ovfqInfo (s.team m.team).cc (s.team m.team).far m.tag] }, 1) := by
  unfold State.receive
  simp only [hto]
  rw [if_neg hlive, show List.find? (fun p : Posted => p.team == h && wants p.src p.tag (s.team m.team).cc m.tag) _ = none from List.find?_eq_none.2 hnone]
  simp only [hplace, hgroups]

end

/-! ### Each event, where it happens -/

section

variable {s : State} {m : Msg} {i h k : Nat}

/-- The device after a message has been received, its status on its way back to the sender (R135). -/
def State.replied (i : Nat) (m : Msg) (r : State × Nat) : State := { r.1 with msgs := r.1.msgs.set i { m with status := some r.2 } }

theorem State.replied_status {r : State × Nat} (hm : s.msgs[i]? = some m) (hkeeps : r.1.msgs = s.msgs) :
    (State.replied i m r).msgs[i]? = some { m with status := some r.2 } := by
  rw [State.replied, hkeeps]
  exact List.getElem?_set_self (List.getElem?_eq_some_iff.1 hm).1

theorem execMessageArrival_next (hm : s.msgs[i]? = some m) (hstatus : m.status = none)
    (hfirst : ∀ x ∈ s.msgs.take i, x.status = none → ¬ ((s.team x.team).core = (s.team m.team).core ∧ x.cc = m.cc ∧
      (s.team x.team).cluster = (s.team m.team).cluster ∧ x.tag = m.tag)) :
    execMessageArrival i s = .next (State.replied i m ((s.haulMsg m).receive m)) := by
  unfold execMessageArrival
  simp only [hm]
  refine if_neg ?_
  simpa [hstatus, and_assoc] using hfirst

/-- What a status adds to the sender's result: itself, or for a SENDM the bit of a member that has not taken the message (R135, R138). -/
def Msg.statusWord (m : Msg) (k : Nat) : DWord := if !m.multi then BitVec.ofNat 64 k else if k = 0 then 0 else BitVec.ofNat 64 (2 ^ m.cc)

/-- A status noted in a group's result, which is complete with the last one (R135, R138). -/
def Group.noteStatus (g : Group) (id : Nat) (v : DWord) (last : Bool) : Group :=
  let g := g.updOutst id fun o => { o with sval := o.sval ||| v }
  if last then g.landScalar id else g

/-- The device after a message's status has reached its sender. -/
def State.statusTaken (s : State) (i : Nat) (m : Msg) (k : Nat) : State :=
  { s with msgs := s.msgs.eraseIdx i }.updGrp (.group m.team m.gid) fun g =>
    g.noteStatus m.id (m.statusWord k) (!(s.msgs.eraseIdx i).any fun x => x.id == m.id)

theorem State.statusTaken_grp : (s.statusTaken i m k).grp (.group m.team m.gid) =
    (s.grp (.group m.team m.gid)).noteStatus m.id (m.statusWord k) (!(s.msgs.eraseIdx i).any fun x => x.id == m.id) := State.updGrp_grp ..

theorem execSendStatusArrival_next (hm : s.msgs[i]? = some m) (hstatus : m.status = some k) :
    execSendStatusArrival i s = .next (s.statusTaken i m k) := by
  unfold execSendStatusArrival
  simp only [hm, hstatus]
  rfl

/-- The only result of a group filled with its last status (R115). -/
theorem Group.noteStatus_last {g : Group} {o : Outst} {d : Fin 64} (v : DWord) (hout : g.outst = [o]) (hdest : o.dest = .sreg d) :
    g.noteStatus o.id v true = { g with outst := [] }.ws d (o.sval ||| v) := by
  simp [Group.noteStatus, Group.landScalar, Group.updOutst, hout, hdest]

@[simp] theorem Group.outst_ws (g : Group) (d : SNum) (v : DWord) : (g.ws d v).outst = g.outst := by
  unfold Group.ws
  split <;> rfl

/-- A register written is full (05 R115). -/
@[simp] theorem Group.sfull_ws (g : Group) (d : SNum) (v : DWord) : (g.ws d v).sfull d = true := by
  unfold Group.ws Group.sfull
  split
  · next h => simp [h]
  · simp [vec_get_set]

/-- A wait that ends is the only part of its group that changes. -/
theorem State.dropWait_grp (s : State) (p : Party) : (s.dropWait p).grp p = { s.grp p with wait := .none } :=
  s.updGrp_grp p fun g => { g with wait := .none }

/-- A recoverable trap outside a handler enters the party's own (11 R254). -/
theorem State.scalarTrap_grp {p : Party} {cause : Nat} {info : DWord} {ret : BitVec 57} {sempties : List SNum} (hmem : cause ≠ cMemerr)
    (hclass : causeClass cause = .recoverable) (hvec : (s.grp p).vec ≠ 0) (hinh : (s.grp p).inh = false) :
    (s.scalarTrap p cause info ret sempties).grp p = { s.grp p with wait := .none }.enterScalar cause info ret sempties := by
  unfold State.scalarTrap
  rw [State.noteCause, if_neg hmem]
  dsimp only
  rw [if_neg (by simpa [hclass, hinh] using hvec), State.updGrp_grp, State.dropWait_grp]

theorem execOvfqRaise_next {g : Fin 16} {rest : List (Fin 16)} {x : DWord} {more : List DWord} (hgroups : (s.team h).liveGroups = g :: rest)
    (hruns : s.runs (.group h g) = true) (hovfq : (s.grp (.group h g)).ovfq = x :: more) (hinh : (s.grp (.group h g)).inh = false)
    (hrdv : (s.grp (.group h g)).rdv = none) :
    execOvfqRaise h s = .next ((s.updGrp (.group h g) fun y => { y with ovfq := more }).scalarTrap (.group h g) cOvfq x (s.grp (.group h g)).pc []) := by
  unfold execOvfqRaise
  simp only [hgroups, hovfq]
  exact if_neg (by simp [hruns, Group.ovfqDue, hovfq, hinh, hrdv])

end

/-- Settles O49, event by event. -/
theorem messageEvents : Obligations.MessageEvents := by
  unfold Obligations.MessageEvents
  intro i h m k
  have hmsgs (s : State) : ((s.haulMsg m).receive m).1.msgs = s.msgs := (State.receive_msgs _ m).trans (s.haulMsg_msgs m)
  refine ⟨⟨?answered, ?matched, ?queued, ?late, ?refused⟩, ?status, ?statusRest, ?ovfq⟩
  case answered =>
    rintro s ⟨hm, hstatus, hfirst⟩
    refine ⟨_, execMessageArrival_next hm hstatus hfirst, ?_, _, State.replied_status hm (hmsgs s)⟩
    rw [State.replied, List.length_set, hmsgs]
  case matched =>
    rintro s ⟨⟨hm, hstatus, hfirst⟩, hto, hlive, p, hp, hmeets⟩
    have htakes : ∃ p ∈ (s.core (s.team h).core).posted, p.takes h (s.team m.team).cc m.tag = true := ⟨p, hp, Posted.takes_iff.2 hmeets⟩
    obtain ⟨hzero, hmail⟩ := State.receive_matched (s := s.haulMsg m) (m := m) (h := h) (by simpa using hto) (by simpa using hlive) (by simpa using htakes)
    obtain ⟨hposted, hmsgq⟩ := State.held_of_mail hmail (s.team h).core
    have hteam := State.team_of_mail hmail h
    refine ⟨_, execMessageArrival_next hm hstatus hfirst, ?_, ?_, ?_⟩
    · rw [← hzero]
      exact State.replied_status hm (hmsgs s)
    · show ((((s.haulMsg m).receive m).1.core (((s.haulMsg m).receive m).1.team h).core).posted).length + 1 = _
      rw [hteam]
      simp [hposted, length_dropFirst htakes]
    · show (((s.haulMsg m).receive m).1.core (((s.haulMsg m).receive m).1.team h).core).msgq = _
      rw [hteam]
      simp [hmsgq]
  case queued =>
    rintro s ⟨⟨hm, hstatus, hfirst⟩, hto, hlive, hnone, hplace⟩
    have hnone' : ∀ p ∈ (s.core (s.team h).core).posted, ¬ p.takes h (s.team m.team).cc m.tag = true := fun p hp ht => hnone p hp (Posted.takes_iff.1 ht)
    obtain ⟨hzero, hmail⟩ := State.receive_queued (s := s.haulMsg m) (m := m) (h := h) (by simpa using hto) (by simpa using hlive) (by simpa using hnone')
      (by simpa using hplace)
    obtain ⟨hposted, hmsgq⟩ := State.held_of_mail hmail (s.team h).core
    have hteam := State.team_of_mail hmail h
    refine ⟨_, execMessageArrival_next hm hstatus hfirst, ?_, ?_⟩
    · rw [← hzero]
      exact State.replied_status hm (hmsgs s)
    · show (((s.haulMsg m).receive m).1.core (((s.haulMsg m).receive m).1.team h).core).msgq = _
      rw [hteam]
      simp [hmsgq]
  case late =>
    rintro s ⟨⟨hm, hstatus, hfirst⟩, hto, hended⟩
    have hlate := State.receive_late (s := s.haulMsg m) (m := m) (h := h) (by simpa using hto) (by simpa using hended)
    refine ⟨_, execMessageArrival_next hm hstatus hfirst, ?_⟩
    refine (State.replied_status hm (hmsgs s)).trans ?_
    rw [hlate]
  case refused =>
    rintro g rest s ⟨⟨hm, hstatus, hfirst⟩, hto, hlive, hnone, hplace, hgroups⟩
    have hnone' : ∀ p ∈ (s.core (s.team h).core).posted, ¬ p.takes h (s.team m.team).cc m.tag = true := fun p hp ht => hnone p hp (Posted.takes_iff.1 ht)
    have hrefused := State.receive_refused (s := s.haulMsg m) (m := m) (h := h) (by simpa using hto) (by simpa using hlive) (by simpa using hnone')
      (by simpa using hplace) (g := g) (rest := rest) (by simpa using hgroups)
    refine ⟨_, execMessageArrival_next hm hstatus hfirst, (State.replied_status hm (hmsgs s)).trans ?_, ?_⟩
    · rw [hrefused]
    · show (((s.haulMsg m).receive m).1.grp (.group h g)).ovfq = _
      rw [hrefused]
      simp [ovfqInfo]
  case status =>
    intro p v d o
    rintro s ⟨hm, hstatus, hlast, hout, hid, hdest⟩
    have hword : m.statusWord k = v := by simp [Msg.statusWord, v]
    have hall : (!(s.msgs.eraseIdx i).any fun x => x.id == m.id) = true := by simpa using hlast
    refine ⟨_, execSendStatusArrival_next hm hstatus, State.setGrp_msgs .., ?_⟩
    have hgrp : (s.statusTaken i m k).grp p = { s.grp p with outst := [] }.ws d (o.sval ||| v) := by
      rw [State.statusTaken_grp, hall, hword, ← hid]
      exact Group.noteStatus_last v hout hdest
    rw [hgrp]
    exact ⟨by simp, fun hd => ⟨by simp [hd], by simp⟩, fun r hr => Group.sreg_ws_other _ _ hr⟩
  case statusRest =>
    rintro s ⟨hm, hstatus⟩
    exact ⟨_, execSendStatusArrival_next hm hstatus, State.setGrp_msgs .., State.setGrp_mem ..⟩
  case ovfq =>
    rintro g rest x more s ⟨hgroups, hruns, hovfq, hinh, hrdv, hvec⟩
    refine ⟨_, execOvfqRaise_next hgroups hruns hovfq hinh hrdv, ?_⟩
    have hgrp : (s.updGrp (.group h g) fun y => { y with ovfq := more }).grp (.group h g) = { s.grp (.group h g) with ovfq := more } := s.updGrp_grp ..
    dsimp only
    rw [State.scalarTrap_grp (by decide) (by decide) (by rw [hgrp]; exact hvec) (by rw [hgrp]; exact hinh), hgrp]
    exact ⟨rfl, rfl, rfl, rfl⟩

end Sys2Proof.Machine
end

section
/-! What traffic, requests to peers, translations, drains and acquires leave of the parties, their watch entries and memory (01 R13; 02 R38;
07 R169 to R171, R188 to R191): later proofs read these views instead of the operations. -/

namespace Sys2Proof.Machine

/-! ### The parties and memory -/

/-- The parties with their groups, the owners of the watch entries, and the map of homes. -/
def State.actors (s : State) : Party × KMap Team × KMap Stream × Place3 × List Party :=
  (s.who, s.teams, s.streams, s.mp, s.watches.map Watch.party)

/-- The parties, memory and its metadata. -/
def State.still (s : State) : (Party × KMap Team × KMap Stream × Place3 × List Party) × List Host.Cell × KMap DWord := (s.actors, s.mem, s.md)

/-- Only the map of memory says where an address has its home (01 R16 to R23). -/
theorem State.homeOf_of_mp {s t : State} (h : t.mp = s.mp) (pa : Nat) : t.homeOf pa = s.homeOf pa := by
  have hhbm : t.isHbm = s.isHbm := by unfold State.isHbm State.hbmEnd; rw [h]
  have hstack : t.stackOf = s.stackOf := by unfold State.stackOf State.bktOf; rw [h]
  have hslice : t.sliceOf = s.sliceOf := by unfold State.sliceOf; rw [hhbm, hstack]
  have hslt : t.sltOf = s.sltOf := by unfold State.sltOf; rw [h]
  unfold State.homeOf
  rw [hslice, hslt]

section

variable {s t : State} (h : t.actors = s.actors)
include h

theorem State.who_of_actors : t.who = s.who := congrArg Prod.fst h

theorem State.grp_of_actors (p : Party) : t.grp p = s.grp p := by
  have hteams : t.teams = s.teams := congrArg (fun a => a.2.1) h
  have hstreams : t.streams = s.streams := congrArg (fun a => a.2.2.1) h
  cases p with
  | group k g => simp only [State.grp, State.team, hteams]
  | stream k => simp only [State.grp, State.stream, hstreams]

theorem State.homeOf_of_actors (pa : Nat) : t.homeOf pa = s.homeOf pa := State.homeOf_of_mp (congrArg (fun a => a.2.2.2.1) h) pa

theorem State.watchers_of_actors : t.watches.map Watch.party = s.watches.map Watch.party := congrArg (fun a => a.2.2.2.2) h

end

theorem State.actors_of_still {s t : State} (h : t.still = s.still) : t.actors = s.actors := congrArg Prod.fst h

theorem State.mem_of_still {s t : State} (h : t.still = s.still) : t.mem = s.mem ∧ t.md = s.md := Prod.mk.inj (congrArg Prod.snd h)

/-! ### What leaves both alone -/

section

variable (s : State)

@[simp] theorem State.updCore_still (n : Nat) (f : Core → Core) : (s.updCore n f).still = s.still := rfl

@[simp] theorem State.carry_still (a b bytes : Nat) : (s.carry a b bytes).still = s.still := by
  obtain ⟨_, h⟩ := s.carry_only a b bytes
  rw [h]
  rfl

@[simp] theorem State.carryFor_still (p : Party) (a b bytes : Nat) : (s.carryFor p a b bytes).still = s.still := by
  obtain ⟨_, _, h⟩ := s.carryFor_only p a b bytes
  rw [h]
  rfl

@[simp] theorem State.drainTokens_still (n bytes : Nat) : (s.drainTokens n bytes).still = s.still := by
  unfold State.drainTokens
  split <;> rfl

@[simp] theorem State.haul_still (p : Party) (core die bytes : Nat) : (s.haul p core die bytes).still = s.still := by
  unfold State.haul
  split <;> simp

@[simp] theorem State.haulSector_still (p : Party) (core pa : Nat) : (s.haulSector p core pa).still = s.still := s.haul_still ..

@[simp] theorem State.sendReq_still (p : BitVec 12) (t : TSent) : (s.sendReq p t).still = s.still := by
  unfold State.sendReq
  extract_lets x t
  obtain ⟨_, _, h⟩ := (s.setPeer p.toNat { x with sent := x.sent ++ [t], seqNext := x.seqNext + 1 }).transmit_only p t
  rw [h]
  rfl

/-- A buffered sector of a peer is sent, or dropped where the peer is lost; no byte of this device's memory changes. -/
theorem State.drainEntry_still {e : CbEntry} (h : e.peer ≠ none) (core : Nat) : (s.drainEntry core e).still = s.still := by
  unfold State.drainEntry
  extract_lets w u
  split
  · next hnone => exact absurd hnone h
  · split
    · rfl
    · simp only [State.haul_still, State.sendReq_still]
      rfl

/-- Translations come into the TLBs of a core and its block. -/
@[simp] theorem State.fillTlbs_still (core : Nat) (t : Trans) : (s.fillTlbs core t).still = s.still := by
  unfold State.fillTlbs
  split
  · rfl
  · extract_lets dn d b bt olds u v
    have hv : v.still = s.still := by
      unfold v
      split
      · rfl
      · split
        · rfl
        · exact foldl_keeps State.still _ (fun w c => w.updCore_still c _) _ u
    split
    · exact hv
    · exact hv

@[simp] theorem State.fillFor_still (core : Nat) (pasid : BitVec 20) (va : Nat) (write : Bool) : (s.fillFor core pasid va write).still = s.still := by
  unfold State.fillFor
  split
  · exact s.fillTlbs_still ..
  · rfl

@[simp] theorem State.fillL1_still (core : Nat) (p : Party) (va pa : Nat) (hint : BitVec 2) : (s.fillL1 core p va pa hint).still = s.still := by
  unfold State.fillL1 State.fillL1With
  split
  · rfl
  · rfl

@[simp] theorem State.askEngine_still (die : Nat) (pasid : BitVec 20) (va : Nat) (write : Bool) : (s.askEngine die pasid va write).still = s.still := by
  unfold State.askEngine State.askPageFor
  extract_lets d page here same
  split
  · rfl
  · split <;> rfl

/-- Requests for sectors of peers sent: nothing of this device's memory changes. -/
@[simp] theorem State.pump_still (q : MemReq) : (s.pump q).still = s.still := by
  refine foldl_keeps State.still _ (fun t i => ?_) _ s
  split
  · rfl
  · next p _ =>
    dsimp only
    split
    · rfl
    · split
      · next e he =>
        have hpeer := List.find?_some he
        simp only [Bool.and_eq_true, beq_iff_eq] at hpeer
        exact t.drainEntry_still (by rw [hpeer.1]; exact Option.some_ne_none _) _
      · split
        · simp
        · simp

end

/-! ### What leaves the parties alone (R170, R171, R190) -/

section

variable (s : State)

theorem State.noteWatches_watchers (sec : Nat) : (s.noteWatches sec).watches.map Watch.party = s.watches.map Watch.party := by
  rw [State.noteWatches, List.map_map]
  refine List.map_congr_left fun x _ => ?_
  show (if _ then _ else _ : Watch).party = x.party
  split <;> rfl

@[simp] theorem State.homeStore_actors (sec : Nat) (st : SecStore) (copy : Bool) : (s.homeStore sec st copy).actors = s.actors := by
  unfold State.actors
  rw [show (s.homeStore sec st copy).watches.map Watch.party = s.watches.map Watch.party from State.noteWatches_watchers _ sec]
  rfl

@[simp] theorem State.drainEntry_actors (core : Nat) (e : CbEntry) : (s.drainEntry core e).actors = s.actors := by
  cases hpeer : e.peer with
  | some p => exact State.actors_of_still (s.drainEntry_still (by rw [hpeer]; exact Option.some_ne_none p) core)
  | none =>
    unfold State.drainEntry
    simp only [hpeer]
    exact (State.actors_of_still (State.haulSector_still ..)).trans (State.homeStore_actors ..)

@[simp] theorem State.drainAll_actors (core : Nat) (l : List CbEntry) : (s.drainAll core l).actors = s.actors :=
  foldl_keeps State.actors _ (fun t e => by split <;> simp) l s

@[simp] theorem State.removeInvals_actors (die : Nat) (new : List Inval) : (s.removeInvals die new).actors = s.actors := by
  refine (foldl_keeps State.actors _ (fun t e => ?_) _ _).trans rfl
  exact t.drainAll_actors ..

@[simp] theorem State.applyInvals_actors (die : Nat) : (s.applyInvals die).actors = s.actors := by
  unfold State.applyInvals
  split
  · rfl
  · extract_lets new t log left die' u
    have hu : u.actors = s.actors := by
      refine Eq.trans (b := t.actors) rfl ?_
      unfold t
      split
      · rfl
      · exact s.removeInvals_actors ..
    split
    · exact hu
    · exact hu

@[simp] theorem State.seeGangs_actors (p : Party) : (s.seeGangs p).actors = s.actors := by
  unfold State.seeGangs
  split
  · rfl
  · dsimp only
    split <;> rfl

/-- An acquire notes in its group until when it waits for the invalidation log, and changes no other part of a group (R171, R190). -/
theorem State.acquireAt_only (p : Party) (scope : Nat) : ∃ u : State, u.actors = s.actors ∧
    (s.acquireAt p scope = u ∨ ∃ n : Nat → Nat, s.acquireAt p scope = u.updGrp p fun g => { g with invalTill := n g.invalTill }) := by
  unfold State.acquireAt
  extract_lets core u t log
  have hu : u.actors = s.actors := by
    unfold u
    split
    · exact (State.seeGangs_actors ..).trans rfl
    · rfl
  have ht : t.actors = s.actors := (u.applyInvals_actors _).trans hu
  by_cases hscope : 2 ≤ scope
  · rw [if_pos hscope]
    refine ⟨t, ht, ?_⟩
    by_cases hlog : log.isEmpty = true
    · exact .inl (if_pos hlog)
    · exact .inr ⟨fun n => log.foldl (fun n x => max n (x.seq + 1)) n, if_neg hlog⟩
  · exact ⟨u, hu, .inl (if_neg hscope)⟩

theorem State.acquireAt_keeps (p : Party) (scope : Nat) : (s.acquireAt p scope).who = s.who ∧
    (∃ n, (s.acquireAt p scope).grp p = { s.grp p with invalTill := n }) ∧ (∀ pa, (s.acquireAt p scope).homeOf pa = s.homeOf pa) ∧
    (s.acquireAt p scope).watches.map Watch.party = s.watches.map Watch.party := by
  obtain ⟨u, hu, h | ⟨n, h⟩⟩ := s.acquireAt_only p scope
  · rw [h]
    exact ⟨State.who_of_actors hu, ⟨_, State.grp_of_actors hu p⟩, State.homeOf_of_actors hu, State.watchers_of_actors hu⟩
  · rw [h]
    refine ⟨(u.updGrp_who ..).trans (State.who_of_actors hu), ⟨n (s.grp p).invalTill, ?_⟩, fun pa => ?_, ?_⟩
    · rw [State.updGrp_grp, State.grp_of_actors hu]
    · exact (State.homeOf_of_mp (State.setGrp_mp ..) pa).trans (State.homeOf_of_actors hu pa)
    · rw [← State.watchers_of_actors hu, State.updGrp, State.setGrp_watches]

end

end Sys2Proof.Machine
end

section
/-! Blocks that start, waits that end or are looked at again, and demotions that end (05 R119, R134, R140; 11 R259; 13 R310, R312): one
equation for each event where it happens, and the statement about them. -/

namespace Sys2Proof.Machine

/-! ### Blocks at their start (R119, R259) -/

/-- A stack of one record that has lanes and has not arrived stays as it is (R126). -/
theorem Group.setStack_single {g : Group} {q : Split} (b : Block) (hpc : q.pc ≠ q.rpc) (heff : g.eff q ≠ 0) :
    g.setStack b [q] = { g with block := some { b with stack := [q] } } := by
  have hsweep (n : Nat) : sweep g n [q] = [q] := by
    cases n with
    | zero => rfl
    | succ n => simpa [sweep, hpc] using fun h => absurd h heff
  unfold Group.setStack
  rw [hsweep]
  rfl

/-- A trap block with a live lane and a word beyond its header starts with one record, and the block that runs is held. -/
theorem Group.startTrapBlock_record {g : Group} {e : SpoolEntry} {b : Block} (rest : List SpoolEntry) (hblock : g.block = some b)
    (hlane : e.mask &&& g.live ≠ 0) (hlen : e.len ≠ 1) :
    g.startTrapBlock e rest = { g with held := some b, heldFin := g.fin, trapq := rest, fin := 0, block := some ⟨e, [startRecord e]⟩ } := by
  unfold Group.startTrapBlock
  rw [hblock]
  have hall : ~~~(0 : Mask) = BitVec.allOnes 32 := by decide
  refine Group.setStack_single _ hlen.symm ?_
  simpa only [Group.eff, startRecord, hall, BitVec.and_allOnes] using hlane

section

variable {s : State} {h : Nat} {k : Fin 16} {e : SpoolEntry} {rest : List SpoolEntry}

theorem execSpoolEntryStart_spool (hruns : s.runs (.group h k) = true) (hblock : (s.grp (.group h k)).block = none)
    (hstopped : (s.grp (.group h k)).laneStopped = false) (hlate : (s.grp (.group h k)).headLate = false) (htrapq : (s.grp (.group h k)).trapq = [])
    (hspool : (s.grp (.group h k)).spool = e :: rest) :
    execSpoolEntryStart h k s = .next (s.updGrp (.group h k) fun g => { g with fin := 0 }.setStack (Block.start e) [startRecord e]) := by
  have hdue : (s.grp (.group h k)).startDue = true := by simp [Group.startDue, hblock, htrapq, hspool, hstopped, hlate]
  unfold execSpoolEntryStart
  dsimp only
  rw [if_neg (by simp [hruns, hdue]), htrapq, hspool]

theorem execSpoolEntryStart_trap {b : Block} (hruns : s.runs (.group h k) = true) (hblock : (s.grp (.group h k)).block = some b)
    (htrap : b.entry.trap = false) (hopen0 : (s.grp (.group h k)).pairOpen 0 = false) (hopen1 : (s.grp (.group h k)).pairOpen 1 = false)
    (htrapq : (s.grp (.group h k)).trapq = e :: rest) :
    execSpoolEntryStart h k s = .next (s.updGrp (.group h k) fun g => g.startTrapBlock e rest) := by
  have hdue : (s.grp (.group h k)).startDue = true := by simp [Group.startDue, hblock, htrapq, htrap, hopen0, hopen1]
  unfold execSpoolEntryStart
  dsimp only
  rw [if_neg (by simp [hruns, hdue]), htrapq]

end

/-! ### Waits that end or are looked at again (R134, R140, R312) -/

section

variable {s : State} {p : Party} {ea target : DWord} {cont : BitVec 57} {pa : Nat}

/-- The device as an event of a party's wait looks at it. -/
def State.lookedAtBy (s : State) (p : Party) : State := { s with who := p, stalled := false, starved := false }

/-- A SUSP that has been reached: its party goes on at the continuation. -/
def State.reached (s : State) (cont : BitVec 57) : State := (s.updCur fun g => { g with wait := .none }).jumpTo cont

theorem State.reached_cur (s : State) (cont : BitVec 57) : (s.reached cont).cur = { s.cur with wait := .none }.goTo cont := by
  simp [State.reached]

theorem State.reached_who (s : State) (cont : BitVec 57) : (s.reached cont).who = s.who := by
  simp [State.reached, State.jumpTo]

theorem execWatchEntryWake_next (hruns : s.runs p = true) (hhit : ∃ w ∈ s.watches, w.party = p ∧ w.hit = true)
    (hwait : (s.grp p).wait = .susp ea target cont true) :
    execWatchEntryWake p s = .next ((({ s.lookedAtBy p with watches := s.watches.filter fun w => w.party != p }).acquireAt p 3).reached cont) := by
  have hany : (s.watches.any fun w => w.party == p && w.hit) = true := by simpa using hhit
  unfold execWatchEntryWake
  dsimp only
  rw [if_neg (by simp [hany]), if_neg (by simp [hruns]), hwait]
  rfl

/-- The counter of a wait lies on this device, and nothing earlier of the party comes before it. -/
def State.counterThere (s : State) (p : Party) (ea : DWord) (pa : Nat) : Prop :=
  s.look (s.coreOf p) (s.pasidOf p) ea.toNat false = .here pa ∧ s.poison.contains (pa / 64) = false ∧ s.acqPending p false = false ∧
    s.pagesHeld p [ea.toNat] = false

/-- The executing party waits on with a watch entry of its own. -/
def State.watching (s : State) (pa : Nat) (target : DWord) (w : Wait) : State :=
  { s with watches := s.watches ++ [({ home := s.homeOf pa, party := s.who, pa := pa, target := target, hit := false } : Watch)] }.updCur fun g => { g with wait := w }

/-- The executing party waits on without a watch entry, and looks again at a cycle. -/
def State.pollingOn (s : State) (w : Wait) (till : DWord) : State := s.updCur fun g => { g with wait := w, pollAt := till }

/-- A party that waits on keeps its pc, and knows whether it holds an entry. -/
theorem State.waitsOn (s : State) (room : Bool) (w : Bool → Wait) (pa : Nat) (target till : DWord) :
    ∃ u, (if room = true then .next (s.watching pa target (w true)) else .next (s.pollingOn (w false) till) : Out) = .next u ∧
      u.who = s.who ∧ u.cur.pc = s.cur.pc ∧ u.cur.wait = w room := by
  cases room with
  | true =>
    have hcur : (s.watching pa target (w true)).cur = { s.cur with wait := w true } := State.cur_updCur ..
    exact ⟨_, if_pos rfl, State.updCur_who .., by rw [hcur], by rw [hcur]⟩
  | false =>
    have hcur : (s.pollingOn (w false) till).cur = { s.cur with wait := w false, pollAt := till } := State.cur_updCur ..
    exact ⟨_, if_neg Bool.false_ne_true, State.updCur_who .., by rw [hcur], by rw [hcur]⟩

/-- A wait whose counter is there reads it: it is over where the counter has its target, and else takes a watch entry or polls on. -/
theorem waitCounter_there {w : Bool → Wait} {reached : State → Out} (watch : Bool) (hthere : s.counterThere s.who ea pa) :
    waitCounter s watch ea target w reached =
      if !(s.readCounter s.who ea.toNat pa).2.ult target then reached (s.acquireAt s.who 3)
      else if watch && (s.acquireAt s.who 3).watchRoom ((s.acquireAt s.who 3).homeOf pa) then .next ((s.acquireAt s.who 3).watching pa target (w true))
      else .next ((s.acquireAt s.who 3).pollingOn (w false) (s.cyc s.who + 256)) := by
  obtain ⟨hlook, hpoison, hacq, hheld⟩ := hthere
  unfold waitCounter
  dsimp only
  rw [if_neg (by simp [hacq, hheld]), hlook]
  dsimp only
  rw [if_neg (by simpa using hpoison)]
  rfl

/-- A party that waits without a watch entry is demoted (R134), and goes on waiting as it did. -/
theorem polling_keeps (t : State) : ∃ u, polling (.next t) = .next u ∧ u.who = t.who ∧ u.cur.wait = t.cur.wait ∧ u.cur.pc = t.cur.pc := by
  unfold polling
  dsimp only
  split
  · exact ⟨_, rfl, by simp⟩
  · exact ⟨_, rfl, by simp⟩
  · exact ⟨_, rfl, rfl, rfl, rfl⟩

theorem execSuspPoll_reads (hruns : s.runs p = true) (hwait : (s.grp p).wait = .susp ea target cont false) (hdue : (s.grp p).pollAt.toNat ≤ (s.cyc p).toNat) :
    execSuspPoll p s = polling (waitCounter (s.lookedAtBy p) true ea target (.susp ea target cont) (suspReached cont)) := by
  have hult : (s.cyc p).ult (s.grp p).pollAt = false := by simpa [BitVec.ult] using hdue
  unfold execSuspPoll
  dsimp only
  rw [if_neg (by simp [hruns]), if_neg (by simp [hult]), hwait]
  rfl

variable (hruns : s.runs p = true) (hwait : (s.grp p).wait = .susp ea target cont false) (hdue : (s.grp p).pollAt.toNat ≤ (s.cyc p).toNat)
  (hthere : s.counterThere p ea pa)
include hruns hwait hdue hthere

/-- A poll that finds its counter at the target ends the wait. -/
theorem execSuspPoll_reached (hreached : target.toNat ≤ ((s.lookedAtBy p).readCounter p ea.toNat pa).2.toNat) :
    ∃ t, execSuspPoll p s = .next t ∧ (t.grp p).wait = .none ∧ (t.grp p).pc = cont := by
  have hult : ((s.lookedAtBy p).readCounter (s.lookedAtBy p).who ea.toNat pa).2.ult target = false := decide_eq_false (Nat.not_lt.2 hreached)
  obtain ⟨hwho, -, -, -⟩ := (s.lookedAtBy p).acquireAt_keeps p 3
  obtain ⟨u, hu, huwho, huwait, hupc⟩ := polling_keeps (((s.lookedAtBy p).acquireAt p 3).reached cont)
  have hcur := State.reached_cur ((s.lookedAtBy p).acquireAt p 3) cont
  have hup : u.who = p := huwho.trans ((State.reached_who ..).trans hwho)
  refine ⟨u, ?_, ?_, ?_⟩
  · rw [execSuspPoll_reads hruns hwait hdue, waitCounter_there true (s := s.lookedAtBy p) hthere, hult]
    exact hu
  · rw [← hup]
    exact huwait.trans (by rw [hcur]; rfl)
  · rw [← hup]
    exact hupc.trans (by rw [hcur]; rfl)

/-- A poll that finds its counter below the target waits on, with a watch entry where the table has room. -/
theorem execSuspPoll_waits (hbelow : ((s.lookedAtBy p).readCounter p ea.toNat pa).2.toNat < target.toNat) :
    ∃ t, execSuspPoll p s = .next t ∧ (t.grp p).pc = (s.grp p).pc ∧
      (t.grp p).wait = .susp ea target cont (((s.lookedAtBy p).readCounter p ea.toNat pa).1.watchRoom (s.homeOf pa)) := by
  have hult : ((s.lookedAtBy p).readCounter (s.lookedAtBy p).who ea.toNat pa).2.ult target = true := decide_eq_true hbelow
  obtain ⟨hwho, ⟨n, hgrp⟩, hhome, -⟩ := (s.lookedAtBy p).acquireAt_keeps p 3
  rw [execSuspPoll_reads hruns hwait hdue, waitCounter_there true (s := s.lookedAtBy p) hthere, hult, if_neg (by decide), Bool.true_and,
    show (s.lookedAtBy p).who = p from rfl, hhome, show ((s.lookedAtBy p).readCounter p ea.toNat pa).1 = (s.lookedAtBy p).acquireAt p 3 from rfl,
    show (s.lookedAtBy p).homeOf pa = s.homeOf pa from rfl]
  generalize (s.lookedAtBy p).acquireAt p 3 = t at hwho hgrp
  have hpc : t.cur.pc = (s.grp p).pc := by rw [State.cur, show t.who = p from hwho, hgrp]; rfl
  obtain ⟨u, hu, huwho, hupc, huwait⟩ := t.waitsOn (t.watchRoom (s.homeOf pa)) (.susp ea target cont) pa target ((s.lookedAtBy p).cyc p + 256)
  obtain ⟨v, hv, hvwho, hvwait, hvpc⟩ := polling_keeps u
  have hvp : v.who = p := hvwho.trans (huwho.trans hwho)
  rw [← hvp]
  refine ⟨v, ?_, hvpc.trans (hupc.trans ?_), hvwait.trans huwait⟩
  · rw [← hvp] at hu
    rw [hu]
    exact hv
  · rw [hpc, hvp]

end

/-- The copies that a wake covers lie on cores: a party's group does not say (R186, R187). -/
@[simp] theorem State.covered_updCur (s : State) (f : Group → Group) (p : Party) (w : DWord) : (s.updCur f).covered p w = s.covered p w := by
  simp [State.covered, State.copiesOf]

@[simp] theorem State.acquireAt_zero (s : State) (p : Party) : s.acquireAt p 0 = s := rfl

/-- A wake that covers no copy makes no check, and goes on (R312). -/
theorem wakeChecks_none {s : State} {w : DWord} (h : s.covered s.who w = []) : wakeChecks w s = .next (s.updCur fun g => { g with wakeAt := none }) := by
  simp [wakeChecks, h]

/-- The device after a party has woken from SLEEPU (R312). -/
def State.woken (s : State) (p : Party) : State :=
  (({ s with who := p }.updCur fun g => { g with wait := .none, wakeAt := some (s.cyc p) }).advance).updCur fun g => { g with wakeAt := none }

theorem execSleepuWake_next {s : State} {p : Party} {target : DWord} (hruns : s.runs p = true) (hwait : (s.grp p).wait = .sleep target)
    (hdue : target.toNat ≤ (s.cyc p).toNat) (hcopies : s.covered p (s.cyc p) = []) : execSleepuWake p s = .next (s.woken p) := by
  have hheld : s.wakeHeld p = false := by simp [State.wakeHeld, hcopies]
  have hule : target.ule (s.cyc p) = true := decide_eq_true hdue
  unfold execSleepuWake
  rw [hwait]
  dsimp only
  rw [if_pos (by rw [hruns, hheld, hule]; rfl)]
  refine wakeChecks_none ?_
  rw [State.advance, State.covered_updCur, State.covered_updCur, State.updCur_who, State.updCur_who]
  exact hcopies

theorem State.woken_who (s : State) (p : Party) : (s.woken p).who = p := by
  simp [State.woken, State.advance]

theorem State.woken_cur (s : State) (p : Party) : (s.woken p).cur = { s.grp p with wait := .none, wakeAt := none, pc := (s.grp p).pc + 4 } := by
  rw [State.woken, State.cur_updCur, State.advance_cur, State.cur_updCur]
  rfl

theorem execDemotionEnd_next {s : State} {p : Party} (hruns : s.runs p = true) (hset : (s.grp p).demoteEnd ≠ 0)
    (hdue : (s.grp p).demoteEnd.toNat ≤ (s.cyc p).toNat) : execDemotionEnd p s = .next (s.updGrp p fun g => { g with demoteEnd := 0 }) := by
  have hult : (s.cyc p).ult (s.grp p).demoteEnd = false := decide_eq_false (Nat.not_lt.2 hdue)
  have hne : ((s.grp p).demoteEnd == 0) = false := by simpa using hset
  unfold execDemotionEnd
  dsimp only
  rw [if_neg (by rw [hruns, hult, hne]; decide)]

/-- Settles O48, event by event. -/
theorem groupEvents : Obligations.GroupEvents := by
  unfold Obligations.GroupEvents
  intro h k p ea target cont pa
  refine ⟨?spool, ?trapBlock, ?wake, ?poll, ?sleepu, ?demotion⟩
  case spool =>
    rintro e rest s ⟨hruns, hblock, hstopped, hlate, htrapq, hspool⟩
    exact execSpoolEntryStart_spool hruns hblock hstopped hlate htrapq hspool
  case trapBlock =>
    rintro e rest b s ⟨hruns, hblock, htrap, hopen0, hopen1, htrapq, hlane, hlen⟩
    refine ⟨_, execSpoolEntryStart_trap hruns hblock htrap hopen0 hopen1 htrapq, ?_⟩
    dsimp only
    rw [State.updGrp_grp, Group.startTrapBlock_record rest hblock hlane hlen]
    exact ⟨rfl, rfl, rfl, _, rfl, rfl, rfl, rfl⟩
  case wake =>
    rintro s ⟨hruns, hhit, hwait⟩
    obtain ⟨hwho, -, -, hwatchers⟩ := State.acquireAt_keeps { s.lookedAtBy p with watches := s.watches.filter fun w => w.party != p } p 3
    refine ⟨_, execWatchEntryWake_next hruns hhit hwait, ?_⟩
    generalize State.acquireAt _ p 3 = t at hwho hwatchers
    have hgrp : (t.reached cont).grp p = { t.grp p with wait := .none }.goTo cont := by
      have hcur := t.reached_cur cont
      rwa [State.cur, State.cur, State.reached_who, show t.who = p from hwho] at hcur
    rw [hgrp]
    refine ⟨rfl, rfl, fun w hw => ?_⟩
    have hmem : w.party ∈ (s.watches.filter fun w => w.party != p).map Watch.party := by
      rw [← hwatchers]
      exact List.mem_map_of_mem (by simpa [State.reached, State.jumpTo, State.updCur, State.setCur] using hw)
    obtain ⟨x, hx, hxw⟩ := List.mem_map.1 hmem
    rw [← hxw]
    simpa using (List.mem_filter.1 hx).2
  case poll =>
    intro at' there' read s
    rintro ⟨hruns, hwait, hdue, hthere⟩
    rcases Nat.lt_or_ge ((s.lookedAtBy p).readCounter p ea.toNat pa).2.toNat target.toNat with hbelow | hreached
    · obtain ⟨t, ht, hpc, hw⟩ := execSuspPoll_waits hruns hwait hdue hthere hbelow
      exact ⟨t, ht, fun h => absurd h (Nat.not_le.2 hbelow), fun _ => ⟨hpc, hw⟩⟩
    · obtain ⟨t, ht, hw, hpc⟩ := execSuspPoll_reached hruns hwait hdue hthere hreached
      exact ⟨t, ht, fun _ => ⟨hw, hpc⟩, fun h => absurd h (Nat.not_lt.2 hreached)⟩
  case sleepu =>
    rintro s ⟨hruns, hwait, hdue, hcopies⟩
    have hcur : (s.woken p).grp p = { s.grp p with wait := .none, wakeAt := none, pc := (s.grp p).pc + 4 } := by
      rw [← s.woken_cur p, State.cur, State.woken_who]
    refine ⟨_, execSleepuWake_next hruns hwait hdue hcopies, ?_⟩
    dsimp only
    rw [hcur]
    exact ⟨rfl, rfl, rfl, by simp [State.woken]⟩
  case demotion =>
    rintro s ⟨hruns, hset, hdue⟩
    exact execDemotionEnd_next hruns hset hdue

end Sys2Proof.Machine
end

section
/-! Bytes of sectors and of stores within one sector (00 R5; 07 R169): a sector read byte by byte, and which bytes a store of a number names
and what it leaves in them. -/

namespace Sys2Proof.Machine

/-- A sector made of 64 bytes holds them in order. -/
theorem sectorOfBytes_byte (bs : List Byte) {i : Nat} (hlen : bs.length = 64) (hi : i < bs.length) : (sectorOfBytes bs).byte i = bs[i] := by
  refine BitVec.eq_of_getLsbD_eq fun j hj => ?_
  simp only [sectorOfBytes, Sector.byte, BitVec.getLsbD_extractLsb', BitVec.getLsbD_ofNat, testBit_leBytes _ i j hi hj,
    decide_eq_true hj, decide_eq_true (show 8 * i + j < 512 by omega), Bool.true_and]

/-- A sector read from memory holds the bytes of its addresses. -/
theorem readSector_byte (m : List Host.Cell) (sec : Nat) {i : Nat} (hi : i < 64) : (readSector m sec).byte i = readByte m (64 * sec + i) := by
  have hlen : (readBytes m (64 * sec) 64).length = 64 := by simp [readBytes, KMap.getRange]
  rw [readSector, sectorOfBytes_byte _ hlen (by rw [hlen]; exact hi)]
  simp [readBytes, KMap.getRange, readByte]

/-- A store's bytes over those a sector held (R169). -/
theorem mergeData_byte (old : Sector) (st : SecStore) {i : Nat} (hi : i < 64) :
    (mergeData old st).byte i = if st.mask.getLsbD i then st.data.byte i else old.byte i := by
  rw [mergeData, sectorOfBytes_byte _ (by simp) (by simpa using hi)]
  simp

/-- The bytes of an 8-byte field of a sector are the sector's own. -/
theorem extractLsb'_word_byte (x : Sector) (off : Nat) {k : Nat} (hk : k < 8) : (x.extractLsb' (8 * off) 64).extractLsb' (8 * k) 8 = x.byte (off + k) := by
  refine BitVec.eq_of_getLsbD_eq fun j hj => ?_
  simp only [Sector.byte, BitVec.getLsbD_extractLsb', decide_eq_true hj, decide_eq_true (show 8 * k + j < 64 by omega), Bool.true_and]
  congr 1
  omega

/-- A store of n bytes at an offset names those bytes. -/
theorem secStore_mask {off n : Nat} (v : Nat) (b : Bound) (i : Nat) (hfit : off + n ≤ 64) :
    (secStore off n v b).mask.getLsbD i = true ↔ off ≤ i ∧ i < off + n := by
  have hmask : (secStore off n v b).mask = (secBytes off (List.replicate n 0) fun _ => 0).mask := by simp [secStore, secBytes]
  rw [hmask, secBytes_mask _ _ (by simpa using hfit), List.length_replicate]

/-- The data of a store of a word's low n bytes hold them from the offset on. -/
theorem secStore_byte {off n : Nat} (v : DWord) (b : Bound) {k : Nat} (hk : k < n) (hn : n ≤ 8) (hfit : off + n ≤ 64) :
    (secStore off n v.toNat b).data.byte (off + k) = v.extractLsb' (8 * k) 8 := by
  refine BitVec.eq_of_getLsbD_eq fun j hj => ?_
  have hplace : 8 * (off + k) + j - 8 * off = 8 * k + j := by omega
  simp only [secStore, Sector.byte, BitVec.getLsbD_extractLsb', BitVec.getLsbD_ofNat, Nat.testBit_mul_two_pow, Nat.testBit_mod_two_pow, hplace,
    decide_eq_true hj, decide_eq_true (show 8 * (off + k) + j < 512 by omega), decide_eq_true (show 8 * off ≤ 8 * (off + k) + j by omega),
    decide_eq_true (show 8 * k + j < 8 * n by omega), Bool.true_and]
  rfl

end Sys2Proof.Machine
end

section
/-! What says where an address lies (07 R188; 01 R16): traffic, drains and requests to peers leave it alone. -/

namespace Sys2Proof.Machine

/-- What says where an address of a party lies: the parties' cores and contexts, the map of memory and the translations held. -/
def State.maps (s : State) : (KMap Team × KMap Stream × KMap Ctx × (Nat → BitVec 8)) × (Place3 × Env) × KMap Die × (Nat → List Trans) :=
  ((s.teams, s.streams, s.ctxs, fun n => (s.grid n).ctx), (s.mp, s.env), s.dies, fun n => (s.core n).tlb)

section

variable {s t : State} (h : t.maps = s.maps)
include h

theorem State.coreOf_of_maps (p : Party) : t.coreOf p = s.coreOf p := by
  have hteams : t.teams = s.teams := congrArg (fun m => m.1.1) h
  have hstreams : t.streams = s.streams := congrArg (fun m => m.1.2.1) h
  cases p with
  | group k g => simp only [State.coreOf, State.team, hteams]
  | stream k => simp only [State.coreOf, State.stream, hstreams]

theorem State.pasidOf_of_maps (p : Party) : t.pasidOf p = s.pasidOf p := by
  have hteams : t.teams = s.teams := congrArg (fun m => m.1.1) h
  have hctxs : t.ctxs = s.ctxs := congrArg (fun m => m.1.2.2.1) h
  have hgrids : ∀ n, (t.grid n).ctx = (s.grid n).ctx := fun n => congrArg (fun m => m.1.2.2.2 n) h
  cases p with
  | group k g => simp only [State.pasidOf, State.ctxOf, State.ctx, State.team, hteams, hctxs, hgrids]
  | stream k => simp only [State.pasidOf, State.ctxOf, State.ctx, hctxs]

theorem State.look_of_maps (core : Nat) (pasid : BitVec 20) (va : Nat) (write : Bool) : t.look core pasid va write = s.look core pasid va write := by
  have hmp : t.mp = s.mp := congrArg (fun m => m.2.1.1) h
  have henv : t.env = s.env := congrArg (fun m => m.2.1.2) h
  have hdies : t.dies = s.dies := congrArg (fun m => m.2.2.1) h
  have htlb : ∀ n, (t.core n).tlb = (s.core n).tlb := fun n => congrArg (fun m => m.2.2.2 n) h
  have hok : t.paOk = s.paOk := by
    unfold State.paOk State.isHost State.isHostMem State.isHbm State.hbmEnd
    rw [hmp, henv]
  have htrans : t.translate core pasid va write = s.translate core pasid va write := by
    unfold State.translate State.die
    rw [hdies, htlb]
  unfold State.look
  rw [htrans, hok]

theorem State.lookLane_of_maps (q : MemReq) (i : Nat) : t.lookLane q i = s.lookLane q i := by
  unfold State.lookLane
  rw [State.coreOf_of_maps h, State.pasidOf_of_maps h, State.look_of_maps h]

end

section

variable (s : State)

theorem State.updCore_maps {n : Nat} {f : Core → Core} (h : ∀ c, (f c).tlb = c.tlb) : (s.updCore n f).maps = s.maps := by
  have htlb : (fun m => ((s.updCore n f).core m).tlb) = fun m => (s.core m).tlb := by
    funext m
    rw [State.updCore_core]
    split
    · next hm => rw [h, hm]
    · rfl
  exact congrArg (fun x => (_, _, _, x)) htlb

theorem State.setGrid_maps {n : Nat} {g : Grid} (h : g.ctx = (s.grid n).ctx) : (s.setGrid n g).maps = s.maps := by
  have hctx : (fun m => ((s.setGrid n g).grid m).ctx) = fun m => (s.grid m).ctx := by
    funext m
    by_cases hm : m = n
    · rw [hm, State.grid_setGrid, h]
    · rw [State.grid_setGrid_other _ _ hm]
  exact congrArg (fun x => ((_, _, _, x), _)) hctx

@[simp] theorem State.carryFor_maps (p : Party) (a b bytes : Nat) : (s.carryFor p a b bytes).maps = s.maps := by
  have hcarry : (s.carry a b bytes).maps = s.maps := by
    obtain ⟨_, h⟩ := s.carry_only a b bytes
    rw [h]
    rfl
  unfold State.carryFor
  extract_lets n t
  split
  · dsimp only
    split
    · exact hcarry
    · refine (State.setGrid_maps t ?_).trans hcarry
      rfl
  · exact hcarry

@[simp] theorem State.haul_maps (p : Party) (core die bytes : Nat) : (s.haul p core die bytes).maps = s.maps := by
  unfold State.haul
  rw [State.carryFor_maps]
  split
  · unfold State.drainTokens
    split <;> rfl
  · rfl

@[simp] theorem State.sendReq_maps (p : BitVec 12) (t : TSent) : (s.sendReq p t).maps = s.maps := by
  unfold State.sendReq State.transmit State.countTirsol
  extract_lets x t l
  split
  · dsimp only
    split
    · rfl
    · refine State.setGrid_maps _ ?_
      rfl
  · rfl

@[simp] theorem State.homeStore_maps (sec : Nat) (st : SecStore) (copy : Bool) : (s.homeStore sec st copy).maps = s.maps := rfl

@[simp] theorem State.drainEntry_maps (core : Nat) (e : CbEntry) : (s.drainEntry core e).maps = s.maps := by
  unfold State.drainEntry
  extract_lets w u
  have hu : u.maps = s.maps := s.updCore_maps fun _ => rfl
  have hclean : (u.cleanL1 core e.pasid e.va).maps = u.maps := u.updCore_maps fun _ => rfl
  split
  · rw [State.haulSector, State.haul_maps, State.homeStore_maps, hclean, hu]
  · split
    · exact hu
    · rw [State.haul_maps, State.sendReq_maps, hu]

@[simp] theorem State.drainAll_maps (core : Nat) (l : List CbEntry) : (s.drainAll core l).maps = s.maps :=
  foldl_keeps State.maps _ (fun t e => by split <;> simp) l s

end

end Sys2Proof.Machine
end

section
/-! Buffered stores, atomics, results and probes (05 R115; 07 R170; 08 R200, R202; 10 R236): what each performs at its home or leaves in its
registers, one equation for each event where it happens, and the statement about them. -/

namespace Sys2Proof.Machine

/-! ### A buffered sector at its home (R170) -/

theorem State.canDrain_here {e : CbEntry} (s : State) (hpeer : e.peer = none) : s.canDrain e = true := by
  simp [State.canDrain, hpeer]

/-- A buffered sector drained leaves its bytes at its home, and every other byte as it was. -/
theorem State.readByte_drainEntry (s : State) (core : Nat) {e : CbEntry} (hpeer : e.peer = none) (a : Nat) :
    readByte (s.drainEntry core e).mem a =
      if a / 64 = e.pa ∧ e.store.mask.getLsbD (a % 64) = true then e.store.data.byte (a % 64) else readByte s.mem a := by
  unfold State.drainEntry
  simp only [hpeer]
  rw [(State.mem_of_still (State.haulSector_still ..)).1]
  exact readByte_writeMasked s.mem e.pa e.store a

theorem execCoalescingBufferDrain_next {s : State} {core i : Nat} {e : CbEntry} (hentry : (s.core core).cbuf[i]? = some e) (hdrain : s.canDrain e = true) :
    execCoalescingBufferDrain core i s = .next ((s.drainEntry core e).replayCore core) := by
  unfold execCoalescingBufferDrain
  rw [hentry]
  exact if_pos hdrain

/-! ### Atomics at their homes (R200, R236) -/

/-- The word that an 8-byte atomic leaves where it finds `old` (13 R277). -/
def atomWord (op : Nat) (old x y : DWord) : DWord := if op = 9 then (if old = x then y else old) else atomInt op old x

/-- An 8-byte atomic leaves that word; one that does not store leaves what it finds. -/
theorem atom64_word (op : Nat) (old x y : DWord) (bo bx : Bound) :
    (atom64 op old x y bo bx).1 = atomWord op old x y ∧ ((atom64 op old x y bo bx).2.2 = false → atomWord op old x y = old) := by
  by_cases hop : op = 9
  · subst hop
    by_cases hold : old = x
    · simp [atom64, atomWord, hold]
    · simp [atom64, atomWord, hold]
  · simp [atom64, atomWord, hop]

/-- The 8-byte word at an aligned address of this device's memory. -/
def State.wordAt (s : State) (pa : Nat) : DWord := (readSector s.mem (pa / 64)).extractLsb' (8 * (pa % 64)) 64

theorem State.wordAt_byte (s : State) {pa k : Nat} (halign : pa % 8 = 0) (hk : k < 8) : (s.wordAt pa).extractLsb' (8 * k) 8 = readByte s.mem (pa + k) := by
  rw [State.wordAt, extractLsb'_word_byte _ _ hk, readSector_byte _ _ (by omega)]
  congr 1
  omega

theorem State.homeAtom64_eq (s : State) (op pa : Nat) (x y : DWord) : ∃ bo, let r := atom64 op (s.wordAt pa) x y bo 0
    s.homeAtom64 op pa x y = (if r.2.2 then s.homeStore (pa / 64) (secStore (pa % 64) 8 r.1.toNat r.2.1) false else s, s.wordAt pa) := ⟨_, rfl⟩

/-- An 8-byte atomic at its home leaves its word there, and every other byte as it was. -/
theorem State.readByte_homeAtom64 (s : State) (op : Nat) {pa : Nat} (x y : DWord) (halign : pa % 8 = 0) (a : Nat) :
    readByte (s.homeAtom64 op pa x y).1.mem a =
      if pa ≤ a ∧ a < pa + 8 then (atomWord op (s.wordAt pa) x y).extractLsb' (8 * (a - pa)) 8 else readByte s.mem a := by
  obtain ⟨bo, h⟩ := s.homeAtom64_eq op pa x y
  obtain ⟨hword, hkeeps⟩ := atom64_word op (s.wordAt pa) x y bo 0
  rw [h]
  dsimp only
  cases hstores : (atom64 op (s.wordAt pa) x y bo 0).2.2 with
  | true =>
    have hmask : (a / 64 = pa / 64 ∧ (secStore (pa % 64) 8 (atom64 op (s.wordAt pa) x y bo 0).1.toNat (atom64 op (s.wordAt pa) x y bo 0).2.1).mask.getLsbD (a % 64) = true) ↔
        pa ≤ a ∧ a < pa + 8 := by
      rw [secStore_mask _ _ _ (by omega)]
      omega
    rw [if_pos rfl]
    refine (readByte_writeMasked s.mem (pa / 64) _ a).trans ?_
    simp only [hmask]
    split
    · next hin =>
      obtain ⟨hlo, hhi⟩ := hin
      rw [show a % 64 = pa % 64 + (a - pa) by omega, secStore_byte _ _ (by omega) (Nat.le_refl 8) (by omega), hword]
    · rfl
  | false =>
    rw [if_neg Bool.false_ne_true, hkeeps hstores]
    split
    · next hin =>
      obtain ⟨hlo, hhi⟩ := hin
      rw [s.wordAt_byte halign (by omega), Nat.add_sub_cancel' hlo]
    · rfl

theorem execAtomicAtHome_next {s : State} {i op : Nat} {q : MemReq} {wide : Bool} (hatom : s.atoms[i]? = some q) (hop : q.atomOp = some (op, wide))
    (hhere : ∀ n < 32, q.peerOf n = none) :
    execAtomicAtHome i s = .next (((lanesOf q.lanes).foldl (fun (s : State) n => s.atomAt q op wide n) { s with atoms := s.atoms.eraseIdx i }).acqDone q) := by
  unfold execAtomicAtHome
  simp only [hatom, hop]
  refine if_neg ?_
  simpa [lanesOf] using fun n hn _ => hhere n hn

/-! ### Results that arrive (R115, R116) -/

section

variable {s : State} {p : Party} {i : Nat} {o : Outst}

/-- A result that does not trap has no refused page in the operand log (R192). -/
theorem State.refusedEntry_of_lateTrap (h : s.lateTrap p o = none) : s.refusedEntry p o.id = none := by
  cases hentry : s.refusedEntry p o.id with
  | none => rfl
  | some e =>
    unfold State.lateTrap at h
    rw [hentry] at h
    dsimp only at h
    split at h <;> simp_all

/-- A result that leaves no refused page behind leaves the operand logs as they were. -/
theorem State.dropResult_olog (h : s.refusedEntry p o.id = none) : ((s.dropResult p o.id).core (s.coreOf p)).olog = (s.core (s.coreOf p)).olog := by
  unfold State.dropResult
  simp only [State.updCore_core, if_pos, State.updGrp_core]
  refine List.filter_eq_self.2 fun e he => ?_
  simpa [or_iff_not_imp_left] using List.find?_eq_none.1 h e he

/-- The device after a result without a trap has reached its destination. -/
def State.landed (s : State) (p : Party) (o : Outst) : State :=
  let bre := match o.check with | some (alw, fmt) => (o.breach alw fmt).1 != 0 | none => false
  (s.dropResult p o.id).updGrp p fun g => (if bre then g.setStat 1 else g).putResult o o.lanes true

theorem execMemoryResponseArrival_next (hruns : s.runs p = true) (hout : (s.grp p).outst[i]? = some o) (hpending : s.pendingId p o.id = false)
    (htrap : s.lateTrap p o = none) : execMemoryResponseArrival p i s = .next (s.landed p o) := by
  have hland : s.land p o = some (s.landed p o) := by
    unfold State.land
    rw [htrap]
    rfl
  have holog : ((s.landed p o).core (s.coreOf p)).olog = (s.core (s.coreOf p)).olog := by
    rw [State.landed, State.updGrp_core]
    exact State.dropResult_olog (State.refusedEntry_of_lateTrap htrap)
  unfold execMemoryResponseArrival
  simp only [hout]
  rw [if_neg (by simp [hruns]), if_neg (by simp [hpending]), hland]
  dsimp only
  rw [holog, if_neg (Nat.lt_irrefl _)]

theorem State.landed_mem : (s.landed p o).mem = s.mem := by
  simp [State.landed, State.dropResult]

/-- The group of a result that has landed: its record and its loop are gone, and its destination is filled. -/
theorem State.landed_grp : ∃ gstat, (s.landed p o).grp p =
    { s.grp p with outst := (s.grp p).outst.filter (·.id != o.id), tiles := (s.grp p).tiles.filter (·.q.id != o.id), gstat := gstat }.putResult o o.lanes true := by
  unfold State.landed
  extract_lets bre
  rw [State.updGrp_grp, State.dropResult, State.updCore_grp, State.updGrp_grp]
  cases bre with
  | true => exact ⟨_, rfl⟩
  | false => exact ⟨_, rfl⟩

/-- The failure predicate of a loop is the only thing written beside a result's destination (15 R348). -/
theorem Group.putResult_pred (g : Group) (o : Outst) (lanes : Mask) :
    ∃ preds, g.putResult o lanes true = { g with preds := preds }.putResult { o with pred := none } lanes true := by
  cases hpred : o.pred with
  | none => exact ⟨g.preds, by unfold Group.putResult; rw [hpred]⟩
  | some x =>
    by_cases hn : x.1 < 7
    · exact ⟨g.preds.set x.1 (blend lanes (g.predMask x.1) (if x.2 then BitVec.allOnes 32 else 0)), by
        unfold Group.putResult Group.setPred; simp only [hpred, hn, if_true, dite_true]⟩
    · exact ⟨g.preds, by unfold Group.putResult Group.setPred; simp only [hpred, hn, if_true, dite_false]⟩

@[simp] theorem Group.vregs_ws (g : Group) (d : SNum) (v : DWord) : (g.ws d v).vregs = g.vregs := by
  unfold Group.ws
  split <;> rfl

/-- A scalar destination takes the result's value (R115). -/
theorem Group.putResult_sreg (g : Group) {d : SNum} (hdest : o.dest = .sreg d) : ∃ preds, g.putResult o o.lanes true = { g with preds := preds }.ws d o.sval := by
  obtain ⟨preds, h⟩ := g.putResult_pred o o.lanes
  exact ⟨preds, h.trans (by simp [Group.putResult, hdest])⟩

theorem Group.putResult_vec (g : Group) {v : Nat} {w : Vector LaneVal 32} (hdest : o.dest = .vec v) (hwords : o.words = [w]) :
    ∃ preds, g.putResult o o.lanes true = { g with preds := preds }.putV v o.lanes
      { full := true, lanes := Vector.ofFn fun i => if o.lanes.getLsbD i.val then w[i] else (g.vreg v).lanes[i] } := by
  obtain ⟨preds, h⟩ := g.putResult_pred o o.lanes
  exact ⟨preds, h.trans (by simp [Group.putResult, hdest, hwords]; rfl)⟩

end

/-! ### Probes (R202) -/

section

variable {s : State} {i n : Nat} {q : MemReq}

/-- The device after the probed core has drained what it can. -/
def State.probed (s : State) (q : MemReq) (n : Nat) : State := { s with who := q.party }.drainAll n (s.core n).cbuf

/-- What the named core held is at its homes. -/
def State.probeDone (s : State) (q : MemReq) (n : Nat) : Prop := ((s.probed q n).core n).cbuf = [] ∧ (s.probed q n).postedFrom n (fun _ => true) = false

theorem State.probeDone_iff : s.probeDone q n ↔ (!((s.probed q n).core n).cbuf.isEmpty || (s.probed q n).postedFrom n (fun _ => true)) = false := by
  unfold State.probeDone
  rw [Bool.or_eq_false_iff, Bool.not_eq_false', List.isEmpty_iff]

/-- A probe may act: its party runs, and neither its core's log nor its own request keeps it. -/
structure State.probeFree (s : State) (i n : Nat) (q : MemReq) : Prop where
  probe : s.probes[i]? = some (n, q)
  runs : s.runs q.party = true
  log : ∀ e ∈ (s.core n).olog, e.req.lanes = 0
  room : s.missLanes q = 0 ∨ (s.core (s.coreOf q.party)).olog.length < Config.ologEntries

/-- The device after the probe has left the queue. -/
def State.probeGone (s : State) (i n : Nat) (q : MemReq) : State := { s.probed q n with probes := (s.probed q n).probes.eraseIdx i }

theorem State.probeGone_lookLane (j : Nat) : (s.probeGone i n q).lookLane q j = s.lookLane q j :=
  State.lookLane_of_maps ((State.drainAll_maps ..).trans rfl) q j

theorem State.probeFree.start (h : s.probeFree i n q) :
    (!s.runs q.party || (s.core n).olog.any (fun e => e.req.lanes != 0) ||
      (s.missLanes q != 0 && decide (Config.ologEntries ≤ (s.core (s.coreOf q.party)).olog.length))) = false := by
  obtain ⟨-, hruns, hlog, hroom⟩ := h
  have hany : (s.core n).olog.any (fun e => e.req.lanes != 0) = false := by simpa using hlog
  rw [hruns, hany]
  rcases hroom with hmiss | hroom
  · simp [hmiss]
  · simp [Nat.not_le.2 hroom]

/-- A probe whose core holds nothing any more performs its request. -/
theorem execSacqpProbe_done (h : s.probeFree i n q) (hdone : s.probeDone q n) (hlook : ∀ j < 32, (s.probeGone i n q).lookLane q j ≠ .bad) :
    execSacqpProbe i s = .next ((((s.probeGone i n q).doLanes q).logLanes q (s.missLanes q) .scalar).acqDone q) := by
  unfold execSacqpProbe
  simp only [h.probe]
  rw [if_neg (Bool.eq_false_iff.1 h.start)]
  refine (if_neg (Bool.eq_false_iff.1 (State.probeDone_iff.1 hdone))).trans (if_neg ?_)
  rw [List.any_eq_true]
  rintro ⟨j, hj, hbad⟩
  have hnot := hlook j (BitVec.lt_of_getLsbD (mem_lanesOf.1 hj))
  rw [State.probeGone_lookLane] at hnot
  split at hbad
  · next hlane => exact hnot hlane
  · exact Bool.false_ne_true hbad

/-- A probe that has drained a sector and still finds one leaves it for later. -/
theorem execSacqpProbe_drains (h : s.probeFree i n q) (hdone : ¬ s.probeDone q n) (hless : ((s.probed q n).core n).cbuf.length < (s.core n).cbuf.length) :
    execSacqpProbe i s = .next (s.probed q n) := by
  unfold execSacqpProbe
  simp only [h.probe]
  rw [if_neg (Bool.eq_false_iff.1 h.start)]
  exact (if_pos (Bool.eq_true_of_not_eq_false fun hquiet => hdone (State.probeDone_iff.2 hquiet))).trans (if_pos hless)

end

/-- Settles O50, event by event. -/
theorem memoryEvents : Obligations.MemoryEvents := by
  unfold Obligations.MemoryEvents
  intro core i p e q o d
  refine ⟨?drain, ?drained, ?atomic, ?atomicBytes, ?scalarResult, ?laneResult, ?probe⟩
  case drain =>
    rintro s ⟨hentry, hdrain⟩
    exact execCoalescingBufferDrain_next hentry hdrain
  case drained => exact fun hpeer s a => ⟨s.canDrain_here hpeer, s.readByte_drainEntry core hpeer a⟩
  case atomic =>
    rintro op wide hop hhere s hatom
    exact execAtomicAtHome_next hatom hop hhere
  case atomicBytes =>
    intro s op pa x y halign old
    have hold : old = s.wordAt pa := rfl
    refine ⟨rfl, fun a ha => ?_, fun n hn => ?_⟩
    · rw [s.readByte_homeAtom64 op x y halign, if_neg (by omega)]
    · rw [s.readByte_homeAtom64 op x y halign, if_pos (by omega), Nat.add_sub_cancel_left, ← hold]
      congr 1
      split
      · rfl
      · next hop => exact if_neg hop
  case scalarResult =>
    rintro s ⟨hruns, hout, hpending, htrap, hdest, hd, -⟩
    refine ⟨_, execMemoryResponseArrival_next hruns hout hpending htrap, ?_⟩
    obtain ⟨gstat, hgrp⟩ := State.landed_grp (s := s) (p := p) (o := o)
    obtain ⟨preds, hput⟩ := Group.putResult_sreg _ hdest
    rw [hgrp, hput]
    refine ⟨?_, Group.sfull_ws .., fun r hr => ?_, Group.outst_ws .., Group.vregs_ws .., State.landed_mem⟩
    · rw [Group.sreg_ws, if_neg hd]
    · rw [Group.sreg_ws_other _ _ hr]
      rfl
  case laneResult =>
    rintro v w s ⟨hruns, hout, hpending, htrap, hdest, hv, hwords⟩
    refine ⟨_, execMemoryResponseArrival_next hruns hout hpending htrap, ?_⟩
    obtain ⟨gstat, hgrp⟩ := State.landed_grp (s := s) (p := p) (o := o)
    obtain ⟨preds, hput⟩ := Group.putResult_vec _ hdest hwords
    rw [hgrp, hput]
    refine ⟨?_, fun n => ?_, fun r hr => ?_, Group.sregs_putV .., State.landed_mem⟩
    · rw [Group.vreg_putV, if_pos ⟨rfl, hv⟩]
    · rw [Group.vreg_putV, if_pos ⟨rfl, hv⟩]
      simp
      rfl
    · rw [Group.vreg_putV, if_neg (fun hc => hr hc.1)]
      rfl
  case probe =>
    intro n at' u gone t
    refine ⟨?_, ?_⟩
    · rintro s ⟨⟨hprobe, hruns, hlog, hroom⟩, hgone, hlook⟩
      exact execSacqpProbe_done ⟨hprobe, hruns, hlog, hroom⟩ hgone hlook
    · rintro s ⟨⟨hprobe, hruns, hlog, hroom⟩, hgone, hless⟩
      exact execSacqpProbe_drains ⟨hprobe, hruns, hlog, hroom⟩ hgone hless

end Sys2Proof.Machine
end

section
/-! What scalar instructions leave unchanged (05 R114; 13 R293, R299; 07 R170): a register write, a load and a store, each with what its
request may touch, and the statement about them. -/

namespace Sys2Proof.Machine

/-! ### A register written (R293) -/

section

variable (s : State)

theorem State.updCur_only (f : Group → Group) : ∃ teams streams, s.updCur f = { s with teams := teams, streams := streams } :=
  ⟨_, _, s.setGrp_only s.who (f s.cur)⟩

theorem State.updCur_grp_other (f : Group → Group) {p : Party} (h : p ≠ s.who) : (s.updCur f).grp p = s.grp p := s.grp_setGrp_other _ h

@[simp] theorem State.advance_md : s.advance.md = s.md := s.updCur_md _

@[simp] theorem State.advance_who : s.advance.who = s.who := s.updCur_who _

theorem State.advance_grp_other {p : Party} (h : p ≠ s.who) : s.advance.grp p = s.grp p := s.updCur_grp_other _ h

theorem State.advance_ws_only (d : SNum) (v : DWord) : ∃ teams streams, (s.ws d v).advance = { s with teams := teams, streams := streams } := by
  obtain ⟨_, _, hws⟩ := s.updCur_only (·.ws d v)
  obtain ⟨teams, streams, hadvance⟩ := (s.ws d v).updCur_only fun g => { g with pc := g.pc + 4 }
  exact ⟨teams, streams, hadvance.trans (by rw [State.ws, hws])⟩

end

theorem Group.ws_only (g : Group) (d : SNum) (v : DWord) : g.ws d v = { g with sregs := (g.ws d v).sregs } := by
  unfold Group.ws
  split <;> rfl

/-! ### A destination made empty (R115) -/

section

variable (g : Group) (d : SNum) (why : RegFill)

theorem Group.sempty_only : g.sempty d why = { g with sregs := (g.sempty d why).sregs } := by
  unfold Group.sempty
  split <;> rfl

/-- A group that moves on with a destination emptied and other outstanding results. -/
theorem Group.sempty_next {g u : Group} {l : List Outst} (h : u = { g with outst := l }) :
    { u.sempty d why with pc := (u.sempty d why).pc + 4 } = { g.sempty d why with pc := g.pc + 4, outst := l } := by
  subst h
  unfold Group.sempty
  split <;> rfl

/-- An emptied register keeps its value. -/
@[simp] theorem Group.sreg_sempty (r : SNum) : (g.sempty d why).sreg r = g.sreg r := by
  unfold Group.sempty
  split
  · rfl
  · unfold Group.sreg
    by_cases hr : d = r
    · simp [vec_get_set, hr]
    · simp [vec_get_set, Fin.val_ne_of_ne hr]

theorem Group.sfull_sempty_other {r : SNum} (h : r ≠ d) : (g.sempty d why).sfull r = g.sfull r := by
  unfold Group.sempty
  split
  · rfl
  · simp [Group.sfull, vec_get_set, Fin.val_ne_of_ne h.symm]

end

/-! ### Requests that issue (07 R191, R192; 08 R198) -/

/-- A request that is ready issues. -/
theorem State.issue_ready {s : State} {q : MemReq} {rel : Option Nat} (dest : Dest) (origin : Origin) (check : Option (DWord × Word))
    (h : s.requestReady q rel = true) : s.issue q rel dest origin check = .go (s.requested q rel dest origin check) := by
  unfold State.requestReady at h
  simp only [Bool.and_eq_true, Option.isNone_iff_eq_none] at h
  obtain ⟨⟨⟨⟨⟨hfault, hheld⟩, hacq⟩, hrel⟩, hlog⟩, hroom⟩ := h
  unfold State.issue
  rw [hfault]
  refine if_neg ?_
  have hsecs : s.roomFor (s.coreOf q.party) (s.pasidOf q.party)
      (if q.isStore = true then (lanesOf (q.lanes &&& ~~~(s.missLanes q))).map fun i => q.va i / 64 else []) = true := by
    cases hstore : q.isStore with
    | true => simpa [hstore] using hroom
    | false => rfl
  have hfull : (s.missLanes q != 0 && s.logFull (s.coreOf q.party)) = false := by
    simpa [State.logFull, Bool.and_eq_false_imp, imp_iff_not_or] using hlog
  cases rel with
  | none => simp_all
  | some sc => simp_all

theorem State.addrFault_of_ready {s : State} {q : MemReq} {rel : Option Nat} (h : s.requestReady q rel = true) : s.addrFault q = none := by
  unfold State.requestReady at h
  simp only [Bool.and_eq_true, Option.isNone_iff_eq_none] at h
  tauto

/-- The address of an SM-format access (R299). -/
theorem smAddr_eq (s : State) (base : SNum) (sz : BitVec 2) (off : BitVec 10) : smAddr (s.rs base) sz off = smEa s base sz off := by
  unfold smAddr smEa
  rw [BitVec.shiftLeft_eq_mul_twoPow, BitVec.ofInt_mul]
  congr 2
  rw [show (2 ^ sz.toNat : Int) = ((2 ^ sz.toNat : Nat) : Int) by simp, BitVec.ofInt_natCast]
  exact BitVec.eq_of_toNat_eq (by simp)

theorem exec_sld {s : State} {t base : SNum} {sz : BitVec 2} {off : BitVec 10} (hready : scalarReady (.sld t base sz off) [base] [t] s = true)
    (hissue : s.requestReady (loadReq s base sz off none) none = true) :
    exec (.sld t base sz off) s = .next (s.loading (loadReq s base sz off none) none t) := by
  refine (gated_ready _ hready).trans ?_
  unfold scalarLoad
  rw [smAddr_eq]
  exact congrArg (fun r => scalarIssued s r (·.sempty t .pending)) (State.issue_ready (.sreg t) .scalar none hissue)

theorem exec_sst {s : State} {t base : SNum} {sz : BitVec 2} {off : BitVec 10} (hready : scalarReady (.sst t base sz off) [t, base] [] s = true)
    (hissue : s.requestReady (storeReq s t base sz off) none = true) :
    exec (.sst t base sz off) s = .next (s.storing (storeReq s t base sz off) none) := by
  refine (gated_ready _ hready).trans ?_
  unfold scalarStore
  rw [smAddr_eq, show s.issue { scalarReq s.who .store (2 ^ sz.toNat) (smEa s base sz off) with x := s.rs t } none .none .scalar none = _ from
    State.issue_ready .none .scalar none hissue]
  rfl

/-! ### What a load's request may touch -/

/-- Nothing of the parties and of memory changes but the outstanding results of one group. -/
structure State.OutstOnly (p : Party) (s t : State) : Prop where
  who : t.who = s.who
  mem : t.mem = s.mem
  md : t.md = s.md
  grp : t.grp p = { s.grp p with outst := (t.grp p).outst }
  others : ∀ q, q ≠ p → t.grp q = s.grp q

section

variable {p : Party} {s t u : State}

theorem State.OutstOnly.of_still (h : t.still = s.still) : State.OutstOnly p s t := by
  have hgrp := State.grp_of_actors (State.actors_of_still h)
  exact ⟨State.who_of_actors (State.actors_of_still h), (State.mem_of_still h).1, (State.mem_of_still h).2, by rw [hgrp], fun q _ => hgrp q⟩

theorem State.OutstOnly.refl (p : Party) (s : State) : State.OutstOnly p s s := .of_still rfl

theorem State.OutstOnly.trans (hst : State.OutstOnly p s t) (htu : State.OutstOnly p t u) : State.OutstOnly p s u where
  who := htu.who.trans hst.who
  mem := htu.mem.trans hst.mem
  md := htu.md.trans hst.md
  grp := by rw [htu.grp, hst.grp]
  others q hq := (htu.others q hq).trans (hst.others q hq)

theorem State.OutstOnly.ite {c : Prop} [Decidable c] (ht : State.OutstOnly p s t) (hu : State.OutstOnly p s u) : State.OutstOnly p s (if c then t else u) := by
  split
  · exact ht
  · exact hu

theorem State.OutstOnly.updGrp (s : State) {f : Group → Group} (hf : ∀ g, f g = { g with outst := (f g).outst }) : State.OutstOnly p s (s.updGrp p f) where
  who := s.updGrp_who ..
  mem := s.updGrp_mem ..
  md := s.updGrp_md ..
  grp := by rw [State.updGrp_grp]; exact hf _
  others _ hq := s.updGrp_grp_other _ hq

theorem State.OutstOnly.updOutst (s : State) (p : Party) (id : Nat) (f : Outst → Outst) : State.OutstOnly p s (s.updGrp p fun g => g.updOutst id f) :=
  .updGrp s fun _ => rfl

end

section

variable (s : State) (q : MemReq)

/-- A request whose lanes have their physical addresses is still its party's (R188). -/
theorem State.placed_party : (s.placed q).party = q.party := by
  unfold State.placed
  rfl

theorem State.doPeer_outstOnly (lanes : Mask) : State.OutstOnly q.party s (s.doPeer q lanes) := by
  unfold State.doPeer
  refine .ite (.refl q.party s) ?_
  extract_lets q' lost u q''
  have hlost : ∀ f, State.OutstOnly q.party s (s.updGrp q'.party fun g => g.updOutst q'.id f) := fun f => by
    rw [show q'.party = q.party from s.placed_party q]
    exact .updOutst s q.party q'.id f
  have hu : State.OutstOnly q.party s u := .ite (.refl q.party s) (hlost _)
  exact .ite hu (hu.trans (.of_still ((State.pump_still ..).trans rfl)))

theorem State.doLoad_outstOnly (lanes : Mask) : State.OutstOnly q.party s (s.doLoad q lanes) := by
  unfold State.doLoad
  extract_lets core q' v w
  have hv : State.OutstOnly q.party s v := s.placed_party q ▸ .updOutst s q'.party q'.id _
  have hw : State.OutstOnly q.party s w := .ite (hv.trans (.of_still (t := v.bumpBy 512) rfl)) hv
  refine hw.trans (.of_still (foldl_keeps State.still _ (fun u i => ?_) _ w))
  split
  · rfl
  · dsimp only
    split <;> simp

theorem State.logLanes_still (lanes : Mask) (origin : Origin) : (s.logLanes q lanes origin).still = s.still := by
  unfold State.logLanes
  split
  · rfl
  · extract_lets core u
    refine (State.updCore_still ..).trans (foldl_keeps State.still _ (fun w i => ?_) _ s)
    split
    · exact w.askEngine_still ..
    · rfl

/-- A load without an acquire changes the outstanding results of its group, and nothing else of the parties and of memory. -/
theorem State.requested_load_outstOnly (hkind : q.kind = .load) (hacq : q.acq = none) (dest : Dest) (origin : Origin) (check : Option (DWord × Word)) :
    State.OutstOnly q.party s (s.requested q none dest origin check) := by
  unfold State.requested
  extract_lets miss q' u v
  have hu : State.OutstOnly q.party s u := .of_still rfl
  have hv : State.OutstOnly q.party s v := .ite hu (hu.trans (.updGrp u fun _ => rfl))
  have hlanes : State.OutstOnly q.party v (v.doLanes q') := by
    unfold State.doLanes
    extract_lets here peer
    rw [show q'.kind = .load from hkind]
    exact (v.doPeer_outstOnly q' peer).trans ((v.doPeer q' peer).doLoad_outstOnly q' here)
  unfold State.acqDone
  rw [show q'.acq = none from hacq]
  exact (hv.trans hlanes).trans (.of_still (State.logLanes_still ..))

end

/-! ### What a store's request leaves -/

/-- What a store needs of the device: who has which address space, and the buffers. -/
def State.buffers (s : State) : KMap Team × KMap Grid × KMap Ctx × (Nat → List CbEntry) := (s.teams, s.grids, s.ctxs, fun n => (s.core n).cbuf)

section

variable {s t : State} (h : t.buffers = s.buffers)
include h

theorem State.cbuf_of_buffers (n : Nat) : (t.core n).cbuf = (s.core n).cbuf := congrArg (fun b => b.2.2.2 n) h

theorem State.pasidOf_of_buffers (p : Party) : t.pasidOf p = s.pasidOf p := by
  have hteams : t.teams = s.teams := congrArg (fun b => b.1) h
  have hgrids : t.grids = s.grids := congrArg (fun b => b.2.1) h
  have hctxs : t.ctxs = s.ctxs := congrArg (fun b => b.2.2.1) h
  unfold State.pasidOf State.ctxOf State.ctx State.grid State.team
  rw [hteams, hgrids, hctxs]

end

section

variable (s : State)

theorem State.updCore_buffers {n : Nat} {f : Core → Core} (h : ∀ c, (f c).cbuf = c.cbuf) : (s.updCore n f).buffers = s.buffers := by
  have hcbuf : (fun m => ((s.updCore n f).core m).cbuf) = fun m => (s.core m).cbuf := by
    funext m
    rw [State.updCore_core]
    split
    · next hm => rw [h, hm]
    · rfl
  exact congrArg (fun b => (_, _, _, b)) hcbuf

theorem State.fillTlbs_buffers (core : Nat) (t : Trans) : (s.fillTlbs core t).buffers = s.buffers := by
  unfold State.fillTlbs
  split
  · rfl
  · extract_lets dn d b bt olds u v
    have hv : v.buffers = s.buffers := by
      unfold v
      split
      · rfl
      · split
        · rfl
        · exact foldl_keeps State.buffers _ (fun w c => State.updCore_buffers w fun x => by rfl) _ u
    split
    · exact hv
    · exact (State.updCore_buffers v fun c => by rfl).trans hv

theorem State.fillFor_buffers (core : Nat) (pasid : BitVec 20) (va : Nat) (write : Bool) : (s.fillFor core pasid va write).buffers = s.buffers := by
  unfold State.fillFor
  split
  · exact s.fillTlbs_buffers ..
  · rfl

end

/-- Changing the elements that m selects leaves the others as they were. -/
theorem filter_not_map {α : Type} {m : α → Bool} {f : α → α} (l : List α) (hm : ∀ a, m (f a) = m a) (hf : ∀ a, m a = false → f a = a) :
    (l.map f).filter (fun a => !m a) = l.filter fun a => !m a := by
  have hsame : (fun a => !m a) ∘ f = fun a => !m a := funext fun a => congrArg (!·) (hm a)
  rw [List.filter_map, hsame]
  exact (List.map_congr_left fun a ha => hf a (by simpa using (List.mem_filter.1 ha).2)).trans (List.map_id _)

/-- The entry of a buffer that a store to a sector of an address space enters: that of the address, or of the physical sector (R170). -/
def entryFor (buf : List CbEntry) (pasid : BitVec 20) (va pa : Nat) (peer : Option (BitVec 12)) : Option CbEntry :=
  buf.find? fun e => e.pasid == pasid && (e.va == va || (e.peer == peer && e.pa == pa))

theorem entryFor_some {buf : List CbEntry} {pasid : BitVec 20} {va pa : Nat} {peer : Option (BitVec 12)} {o : CbEntry}
    (h : entryFor buf pasid va pa peer = some o) : o.pasid = pasid ∧ o ∈ buf := by
  have hfound := List.find?_some h
  simp only [Bool.and_eq_true, beq_iff_eq] at hfound
  exact ⟨hfound.1, List.mem_of_find?_eq_some h⟩

section

variable {s : State} {core va pa : Nat} {p : Party} {peer : Option (BitVec 12)} {st : SecStore}

theorem State.bufStore_still : (s.bufStore core p va pa peer st).still = s.still := rfl

/-- A store to a sector that the buffer does not hold takes an entry of its own. -/
theorem State.cbuf_bufStore_new (h : entryFor (s.core core).cbuf (s.pasidOf p) va pa peer = none) :
    ((s.bufStore core p va pa peer st).core core).cbuf = (s.core core).cbuf ++ [⟨s.pasidOf p, va, pa, peer, st, [p]⟩] := by
  unfold State.bufStore
  extract_lets c pasid old merged buf region own l1
  rw [State.core_setCore]
  show buf = _
  unfold buf
  rw [show old = none from h]

/-- An entry of the buffer with a store and its party entered. -/
def CbEntry.enter (o e : CbEntry) (st : SecStore) (p : Party) : CbEntry :=
  { e with store := mergeStores o.store st, by_ := if e.by_.contains p then e.by_ else e.by_ ++ [p] }

/-- A store to a sector that the buffer holds enters there. -/
theorem State.cbuf_bufStore_old {o : CbEntry} (h : entryFor (s.core core).cbuf (s.pasidOf p) va pa peer = some o) :
    ((s.bufStore core p va pa peer st).core core).cbuf =
      (s.core core).cbuf.map fun e => if e.pasid == s.pasidOf p && e.va == o.va then o.enter e st p else e := by
  unfold State.bufStore
  extract_lets c pasid old merged buf region own l1
  rw [State.core_setCore]
  show buf = _
  unfold buf merged
  rw [show old = some o from h]
  rfl


/-- The entry that a store has taken, the others as they were. -/
theorem State.bufStore_new_entry (s : State) (h : entryFor (s.core core).cbuf (s.pasidOf p) va pa peer = none) :
    let buf := ((s.bufStore core p va pa peer st).core core).cbuf
    let mine (e : CbEntry) : Bool := e.pasid == s.pasidOf p && e.va == va
    buf.filter (fun e => !mine e) = (s.core core).cbuf.filter (fun e => !mine e) ∧ ∃ e ∈ buf, mine e = true ∧ e.pa = pa ∧ e.store = st := by
  intro buf mine
  rw [show buf = _ from State.cbuf_bufStore_new h]
  exact ⟨by simp [mine], _, List.mem_append_right _ (List.mem_singleton_self _), by simp [mine], rfl, rfl⟩

/-- The entry that a store has entered, the others as they were. -/
theorem State.bufStore_old_entry (s : State) {o : CbEntry} (h : entryFor (s.core core).cbuf (s.pasidOf p) va pa peer = some o) :
    let buf := ((s.bufStore core p va pa peer st).core core).cbuf
    let mine (e : CbEntry) : Bool := e.pasid == s.pasidOf p && e.va == o.va
    buf.filter (fun e => !mine e) = (s.core core).cbuf.filter (fun e => !mine e) ∧
      ∃ e ∈ buf, mine e = true ∧ e.pa = o.pa ∧ e.store = mergeStores o.store st := by
  intro buf mine
  obtain ⟨hsame, hmem⟩ := entryFor_some h
  have hmine : mine o = true := by simp [mine, hsame]
  rw [show buf = _ from State.cbuf_bufStore_old h]
  refine ⟨filter_not_map _ (fun e => ?_) fun e he => if_neg (Bool.eq_false_iff.1 he), _, List.mem_map_of_mem hmem, ?_⟩
  · split <;> rfl
  · rw [if_pos hmine]
    exact ⟨hmine, rfl, rfl⟩
end

/-- A store over another: its own bytes, and the other's where it has none (R170). -/
theorem mergeStores_at (a b : SecStore) {k : Nat} (hk : k < 64) : (mergeStores a b).mask.getLsbD k = (a.mask.getLsbD k || b.mask.getLsbD k) ∧
    (mergeStores a b).data.byte k = if b.mask.getLsbD k then b.data.byte k else a.data.byte k :=
  ⟨BitVec.getLsbD_or .., mergeData_byte a.data b hk⟩

/-! ### A scalar store's request (R170) -/

section

variable {s : State} {q : MemReq} {pa : Nat}

theorem State.placed_paOf (hlook : s.lookLane q 0 = .here pa) : (s.placed q).paOf 0 = pa := by
  unfold State.placed MemReq.paOf
  simp [hlook]

theorem State.placed_peerOf (hlook : s.lookLane q 0 = .here pa) : (s.placed q).peerOf 0 = none := by
  unfold State.placed MemReq.peerOf
  simp [hlook]

theorem State.placed_va (i : Nat) : (s.placed q).va i = q.va i := by
  simp only [State.placed, MemReq.va]

/-- A scalar store's bytes (R301). -/
theorem MemReq.storeOf_scalar (h : q.lane = false) (i : Nat) : q.storeOf i = secStore (q.va i % 64) q.bytes q.x.toNat 0 :=
  if_neg (by rw [h]; exact Bool.false_ne_true)

theorem State.placed_storeOf (h : q.lane = false) (i : Nat) : (s.placed q).storeOf i = secStore (q.va i % 64) q.bytes q.x.toNat 0 := by
  rw [MemReq.storeOf_scalar (by unfold State.placed; exact h), State.placed_va]
  simp only [State.placed]

variable (hlook : ∀ i < 32, s.lookLane q i = .here pa)
include hlook

theorem State.peerLanes_of_here : s.peerLanes q = 0 := by
  refine (maskOf_eq_zero _).2 fun i hi => ?_
  simp [hlook i hi]

variable (hkind : q.kind = .store)
include hkind

/-- No lane lacks its page. -/
theorem State.missLanes_of_here : s.missLanes q = 0 := by
  refine (maskOf_eq_zero _).2 fun i hi => ?_
  have hits : s.loadHits q i = false := by simp [State.loadHits, MemReq.isLoad, hkind]
  have hplace : s.lookAt q.party (q.va i) q.writes = .here pa := hlook i hi
  simp [State.laneNeeds, MemReq.places, hkind, hits, hplace]

/-- One lane's store to this device enters the buffer. -/
theorem State.doLanes_store (hlane : q.lane = false) (hlanes : q.lanes = 1) : s.doLanes q =
    (s.fillFor (s.coreOf q.party) (s.pasidOf q.party) (q.va 0) true).putStore (s.coreOf q.party) q.party (q.va 0 / 64) (pa / 64) none (secStore (q.va 0 % 64) q.bytes q.x.toNat 0) := by
  have hall : s.hereLanes q ||| s.peerLanes q = 1 := by
    rw [State.hereLanes, State.missLanes_of_here hlook hkind, State.peerLanes_of_here hlook, hlanes]
    decide
  have hfirst : lanesOf 1 = [0] := by decide
  unfold State.doLanes
  simp only [hkind, hall]
  unfold State.doStore
  simp only [hfirst, List.foldl_cons, List.foldl_nil]
  rw [State.placed_party, State.placed_va, State.placed_storeOf hlane, State.placed_paOf (hlook 0 (by decide)), State.placed_peerOf (hlook 0 (by decide))]

theorem State.requested_store (hlane : q.lane = false) (hlanes : q.lanes = 1) (hacq : q.acq = none) (dest : Dest) (origin : Origin) (check : Option (DWord × Word)) :
    s.requested q none dest origin check = ({ s with handles := s.handles + 1 }.fillFor (s.coreOf q.party) (s.pasidOf q.party) (q.va 0) true).putStore
      (s.coreOf q.party) q.party (q.va 0 / 64) (pa / 64) none (secStore (q.va 0 % 64) q.bytes q.x.toNat 0) := by
  have hmiss := State.missLanes_of_here hlook hkind
  unfold State.requested
  extract_lets miss q' u v
  have hv : v = u := if_pos (by simp [miss, hmiss, MemReq.isStore, q', hkind])
  have hplaced : ∀ i < 32, u.lookLane q' i = .here pa := fun i hi => (State.lookLane_of_maps (s := s) (t := u) rfl q i).trans (hlook i hi)
  rw [hv, State.doLanes_store (q := q') hplaced hkind hlane hlanes, State.logLanes, if_pos hmiss, State.acqDone, show q'.acq = none from hacq]
  rfl

end

/-- Every lane of a scalar store has its address. -/
theorem storeReq_va (s : State) (t base : SNum) (sz : BitVec 2) (off : BitVec 10) {i : Nat} (hi : i < 32) :
    (storeReq s t base sz off).va i = (smEa s base sz off).toNat := by
  simp [storeReq, scalarReq, MemReq.va, hi]

/-- A scalar store that is aligned lies within one sector. -/
theorem storeReq_fits {s : State} {t base : SNum} {sz : BitVec 2} {off : BitVec 10} (h : s.addrFault (storeReq s t base sz off) = none) :
    (smEa s base sz off).toNat % 64 + 2 ^ sz.toNat ≤ 64 := by
  have halign : (smEa s base sz off).toNat % 2 ^ sz.toNat = 0 := by
    by_contra hne
    unfold State.addrFault at h
    extract_lets al ac at h
    have hal : al ≠ 0 := fun hzero => by
      have hlane := (maskOf_eq_zero _).1 hzero 0 (by decide)
      rw [storeReq_va s t base sz off (by decide)] at hlane
      simp [storeReq, scalarReq, MemReq.blank] at hlane
      omega
    rw [if_pos hal] at h
    exact Option.some_ne_none _ h
  have hsz : sz.toNat < 4 := sz.isLt
  interval_cases sz.toNat <;> omega

/-- A scalar store to this device enters the buffer of its core; translations aside, nothing happens before. -/
theorem State.requested_storeReq {s : State} {t base : SNum} {sz : BitVec 2} {off : BitVec 10} {pa : Nat} (hcore : s.coreOf s.who < Config.coreCount)
    (hlook : s.look (s.coreOf s.who) (s.pasidOf s.who) (smEa s base sz off).toNat true = .here pa) :
    ∃ w : State, w.still = s.still ∧ w.buffers = s.buffers ∧ s.requested (storeReq s t base sz off) none .none .scalar none =
      w.bufStore (s.coreOf s.who) s.who ((smEa s base sz off).toNat / 64) (pa / 64) none
        (secStore ((smEa s base sz off).toNat % 64) (2 ^ sz.toNat) (s.rs t).toNat 0) := by
  have hplaced : ∀ i < 32, s.lookLane (storeReq s t base sz off) i = .here pa := fun i hi => by
    rw [State.lookLane, storeReq_va s t base sz off hi]
    exact hlook
  refine ⟨{ s with handles := s.handles + 1 }.fillFor (s.coreOf s.who) (s.pasidOf s.who) (smEa s base sz off).toNat true, ?_, ?_, ?_⟩
  · exact (State.fillFor_still ..).trans rfl
  · exact (State.fillFor_buffers ..).trans rfl
  rw [State.requested_store hplaced rfl rfl rfl rfl, State.putStore, storeReq_va s t base sz off (by decide)]
  exact if_pos hcore

/-- What a scalar store leaves at a byte of its sector. -/
theorem secStore_at {off n : Nat} (v : DWord) (k : Nat) (hn : n ≤ 8) (hfit : off + n ≤ 64) :
    if off ≤ k ∧ k < off + n then (secStore off n v.toNat 0).mask.getLsbD k = true ∧ (secStore off n v.toNat 0).data.byte k = v.extractLsb' (8 * (k - off)) 8
    else (secStore off n v.toNat 0).mask.getLsbD k = false := by
  split
  · next hin =>
    obtain ⟨hlo, hhi⟩ := hin
    refine ⟨(secStore_mask _ _ _ hfit).2 ⟨hlo, hhi⟩, ?_⟩
    conv_lhs => rw [← Nat.add_sub_cancel' hlo]
    exact secStore_byte v 0 (by omega) hn hfit
  · next hout => exact Bool.eq_false_iff.2 fun hmask => hout ((secStore_mask _ _ _ hfit).1 hmask)

/-- What it leaves there over a store that the buffer held before. -/
theorem mergeStores_secStore_at (a : SecStore) {off n : Nat} (v : DWord) {k : Nat} (hk : k < 64) (hn : n ≤ 8) (hfit : off + n ≤ 64) :
    if off ≤ k ∧ k < off + n then (mergeStores a (secStore off n v.toNat 0)).mask.getLsbD k = true ∧
      (mergeStores a (secStore off n v.toNat 0)).data.byte k = v.extractLsb' (8 * (k - off)) 8
    else (mergeStores a (secStore off n v.toNat 0)).mask.getLsbD k = a.mask.getLsbD k ∧
      (mergeStores a (secStore off n v.toNat 0)).data.byte k = a.data.byte k := by
  obtain ⟨hmask, hdata⟩ := mergeStores_at a (secStore off n v.toNat 0) hk
  have hbyte := secStore_at v k hn hfit
  rw [hmask, hdata]
  split at hbyte
  · next hin =>
    obtain ⟨hset, hval⟩ := hbyte
    rw [if_pos hin, hset]
    exact ⟨Bool.or_true _, hval⟩
  · next hout =>
    rw [if_neg hout, hbyte]
    exact ⟨Bool.or_false _, rfl⟩

/-- Settles O57, instruction by instruction. -/
theorem scalarFrame : Obligations.ScalarFrame := by
  unfold Obligations.ScalarFrame
  refine ⟨?write, ?load, ?store⟩
  case write =>
    intro s d v t
    have hcur : t.cur = { s.cur.ws d v with pc := s.cur.pc + 4 } := by simp [t]
    obtain ⟨_, _, honly⟩ := s.advance_ws_only d v
    refine ⟨fun hd => ?_, Group.sreg_zero _, fun r hr => ?_, ?_, ?_, fun p hp => ?_, ?_⟩
    · rw [hcur]
      exact (Group.sreg_ws s.cur d v).trans (if_neg hd)
    · rw [hcur]
      exact Group.sreg_ws_other s.cur v hr
    · rw [hcur]
    · rw [hcur, Group.ws_only]
    · exact ((s.ws d v).advance_grp_other (by simpa [State.ws] using hp)).trans (s.updCur_grp_other _ hp)
    · rw [show t = _ from honly]
  case load =>
    intro t base sz off s hready hissue
    refine ⟨_, exec_sld hready hissue, ?_⟩
    obtain ⟨hwho, hmem, hmd, hgrp, hothers⟩ := s.requested_load_outstOnly (loadReq s base sz off none) rfl rfl (.sreg t) .scalar none
    unfold State.loading
    generalize s.requested (loadReq s base sz off none) none (.sreg t) .scalar none = u at *
    have hu : u.cur = { s.cur with outst := u.cur.outst } := by
      rw [State.cur, hwho]
      exact hgrp
    have hcur : ((u.updCur (·.sempty t .pending)).advance).cur = { s.cur.sempty t .pending with pc := s.cur.pc + 4, outst := u.cur.outst } := by
      rw [State.advance_cur, State.cur_updCur]
      exact Group.sempty_next t .pending hu
    refine ⟨?_, ?_, ?_, fun r => ?_, fun r hr => ?_, ?_, fun p hp => ?_⟩
    · rw [State.advance_mem, State.updCur_mem, hmem]
    · rw [State.advance_md, State.updCur_md, hmd]
    · rw [hcur]
    · rw [hcur]
      exact s.cur.sreg_sempty t .pending r
    · rw [hcur]
      exact s.cur.sfull_sempty_other t .pending hr
    · rw [hcur, Group.sempty_only]
    · have hother : p ≠ u.who := by rwa [hwho]
      rw [State.advance_grp_other _ (by rwa [State.updCur_who]), State.updCur_grp_other _ _ hother]
      exact hothers p hp
  case store =>
    intro t base sz off s pa hready hissue hcore ea n old mine hlook
    refine ⟨_, exec_sst hready hissue, ?_⟩
    have hfit : ea % 64 + n ≤ 64 := storeReq_fits (State.addrFault_of_ready hissue)
    have hn : n ≤ 8 := Nat.pow_le_pow_right (by decide) (Nat.le_of_lt_succ sz.isLt)
    obtain ⟨w, hstill, hbuffers, hrequested⟩ := State.requested_storeReq (t := t) hcore hlook
    have hwho : w.who = s.who := State.who_of_actors (State.actors_of_still hstill)
    have hgrp := State.grp_of_actors (State.actors_of_still hstill)
    unfold State.storing
    rw [hrequested]
    refine ⟨?_, ?_, ?_, fun p hp => ?_, ?_⟩
    · exact (State.advance_mem _).trans (State.mem_of_still hstill).1
    · exact (State.advance_md _).trans (State.mem_of_still hstill).2
    · rw [State.advance_cur]
      have hcur : (w.bufStore (s.coreOf s.who) s.who (ea / 64) (pa / 64) none (secStore (ea % 64) n (s.rs t).toNat 0)).cur = s.cur := by
        show w.grp w.who = s.grp s.who
        rw [hwho, hgrp]
      rw [hcur]
    · rw [State.advance_grp_other _ (by show p ≠ w.who; rwa [hwho])]
      exact hgrp p
    · have hcbuf : (w.core (s.coreOf s.who)).cbuf = (s.core (s.coreOf s.who)).cbuf := State.cbuf_of_buffers hbuffers _
      have hpasid : w.pasidOf s.who = s.pasidOf s.who := State.pasidOf_of_buffers hbuffers _
      have hold : entryFor (w.core (s.coreOf s.who)).cbuf (w.pasidOf s.who) (ea / 64) (pa / 64) none = old := by
        rw [hcbuf, hpasid]
        rfl
      rw [State.advance_core]
      clear_value old
      cases old with
      | none =>
        obtain ⟨hothers, e, he, hmine, hpa, hstore⟩ := w.bufStore_new_entry (st := secStore (ea % 64) n (s.rs t).toNat 0) hold
        rw [hcbuf, hpasid] at hothers
        rw [hpasid] at hmine
        refine ⟨hothers, e, he, hmine, hpa, fun k _ => ?_⟩
        have hbyte := secStore_at (s.rs t) k hn hfit
        rw [hstore]
        split at hbyte
        · next hin =>
          rw [if_pos hin]
          exact hbyte
        · next hout =>
          rw [if_neg hout]
          exact ⟨hbyte, fun o ho => (Option.some_ne_none o ho.symm).elim⟩
      | some o =>
        obtain ⟨hothers, e, he, hmine, hpa, hstore⟩ := w.bufStore_old_entry (st := secStore (ea % 64) n (s.rs t).toNat 0) hold
        rw [hcbuf, hpasid] at hothers
        rw [hpasid] at hmine
        refine ⟨hothers, e, he, hmine, hpa, fun k hk => ?_⟩
        have hbyte := mergeStores_secStore_at o.store (s.rs t) hk hn hfit
        rw [hstore]
        split at hbyte
        · next hin =>
          rw [if_pos hin]
          exact hbyte
        · next hout =>
          rw [if_neg hout]
          exact ⟨hbyte.1, fun o' ho' => Option.some.inj ho' ▸ hbyte.2⟩

end Sys2Proof.Machine
end

section
/-! One row of a K-step (06 R149, R150; 10 R247, R248): a row whose operands are finite has the values, the unit and the bound of its
exact sums, a NaN operand makes its element NaN and its bound ∞, and an integer row saturates. -/

namespace Sys2Proof.Machine

/-! ### Exact sums and products (R218, R315) -/

theorem qabs_eq_abs (q : Rat) : qabs q = |q| := by
  unfold qabs
  split
  · next h => exact (abs_of_neg h).symm
  · next h => exact (abs_of_nonneg (not_lt.1 h)).symm

theorem qmax_eq_max (a b : Rat) : qmax a b = max a b := (max_def a b).symm

theorem FVal.mul_finite {a b : FVal} (ha : a.isFinite = true) (hb : b.isFinite = true) :
    (a.mul b).isFinite = true ∧ (a.mul b).toRat = a.toRat * b.toRat := by
  cases a <;> cases b <;> simp_all [FVal.mul, FVal.isFinite, FVal.toRat]

theorem FVal.mul_nan {a b : FVal} (h : a = .nan ∨ b = .nan) : a.mul b = .nan := by
  rcases h with rfl | rfl
  · rfl
  · cases a <;> rfl

theorem sumF_nan {rdn : Bool} {l : List FVal} (h : FVal.nan ∈ l) : sumF rdn l = .nan := by
  unfold sumF
  rw [if_pos (List.any_eq_true.2 ⟨.nan, h, by simp⟩)]

/-- A sum of finite addends is the exact one; only the sign of a zero depends on more than the values (R315). -/
theorem sumF_of_finite (rdn : Bool) {l : List FVal} (h : ∀ v ∈ l, v.isFinite = true) :
    ∃ neg, sumF rdn l = if (l.map FVal.toRat).sum = 0 then .zero neg else .num (l.map FVal.toRat).sum := by
  have hno : ∀ w : FVal, w.isFinite = false → l.any (· == w) = false := by
    intro w hw
    refine List.any_eq_false.2 fun v hv hvw => ?_
    have hfin := h v hv
    rw [eq_of_beq hvw, hw] at hfin
    exact Bool.false_ne_true hfin
  unfold sumF
  rw [hno .nan rfl, hno (.inf false) rfl, hno (.inf true) rfl, ← List.sum_eq_foldl]
  exact ⟨_, rfl⟩

theorem sumF_finite (rdn : Bool) {l : List FVal} (h : ∀ v ∈ l, v.isFinite = true) :
    (sumF rdn l).isFinite = true ∧ (sumF rdn l).toRat = (l.map FVal.toRat).sum := by
  obtain ⟨neg, hsum⟩ := sumF_of_finite rdn h
  rw [hsum]
  split
  · next hzero => exact ⟨rfl, hzero.symm⟩
  · exact ⟨rfl, rfl⟩

/-- A dot product of finite elements is their exact one (R149). -/
theorem sumF_mul_finite {α : Type} {l : List α} {f g : α → FVal} (hf : ∀ x ∈ l, (f x).isFinite = true) (hg : ∀ x ∈ l, (g x).isFinite = true) :
    (sumF false (l.map fun x => (f x).mul (g x))).isFinite = true ∧
      (sumF false (l.map fun x => (f x).mul (g x))).toRat = (l.map fun x => (f x).toRat * (g x).toRat).sum := by
  have hmul : ∀ x ∈ l, ((f x).mul (g x)).isFinite = true ∧ ((f x).mul (g x)).toRat = (f x).toRat * (g x).toRat :=
    fun x hx => FVal.mul_finite (hf x hx) (hg x hx)
  obtain ⟨hfin, hval⟩ := sumF_finite false (l := l.map fun x => (f x).mul (g x)) (by simpa using fun x hx => (hmul x hx).1)
  refine ⟨hfin, hval.trans ?_⟩
  rw [List.map_map]
  exact congrArg List.sum (List.map_congr_left fun x hx => (hmul x hx).2)

/-! ### Results that are rounded (R149, R219) -/

/-- Rounding to FP32 to nearest gives no number 0. -/
theorem roundF_num_ne_zero {x w : Rat} (h : roundF (ffmt 0) .rne false (.num x) = .num w) : w ≠ 0 := by
  simp only [roundF] at h
  split at h
  · exact (FVal.noConfusion h)
  · next hne =>
    split at h
    · cases h
      exact hne
    · exact (FVal.noConfusion h)

/-- Only the sign bit of a code of zero depends on its sign. -/
theorem encodeF_zero_magnitude (neg : Bool) : BitVec.ofNat 32 (encodeF (ffmt 0) (.zero neg)) &&& 0x7FFFFFFF = 0 := by
  cases neg <;> decide

/-! ### One element under a unit (R150, R247) -/

/-- An element's value under a unit, and the magnitude that it flushes, in a row of a largest magnitude. -/
def unitStep (u : FUnit) (big : Rat) (x : FVal × FVal) : FVal × Rat :=
  let t := sumF false [x.1, x.2]
  match u, t with
  | .short, .num v =>
    if big = 0 then (t, 0)
    else
      let z := truncTz v (pow2 (floorLog2 big - 16))
      let y := if z = 0 then FVal.zero (decide (v < 0)) else roundF (ffmt 0) .rne false (.num z)
      match y with
      | .num w => if qabs w < pow2 (-126) then (.zero (decide (v < 0)), qabs w) else (y, 0)
      | y => (y, 0)
  | _, t => (roundF (ffmt 0) .rne false t, 0)

theorem RowIn.trial_eq (r : RowIn) (u : FUnit) : r.trial u =
    let big := bigOf (r.c ++ r.s)
    let l := (r.c.zip r.s).map (unitStep u big)
    (l.map (·.1), if big = 0 then 0 else match u with
      | .short => pow2 (floorLog2 big - 15) + l.foldl (fun a x => a + x.2) 0
      | _ => pow2 (floorLog2 big - 23)) := rfl

theorem unitStep_nan {u : FUnit} {big : Rat} {x : FVal × FVal} (h : x.1 = .nan ∨ x.2 = .nan) : unitStep u big x = (.nan, 0) := by
  have hsum : sumF false [x.1, x.2] = .nan := sumF_nan (by rcases h with h | h <;> simp [h])
  unfold unitStep
  rw [hsum]
  cases u <;> rfl

/-- The unit of a row: SHORT or FULL. -/
def unitOf (short : Bool) : FUnit := if short then .short else .full

theorem KRow.result_of_zero {r : KRow} {short : Bool} {j : Nat} (hx : r.x j = 0) : r.flushed short j = 0 ∧ r.result short j = .zero false := by
  have hy : r.y short j = .zero false := by
    have htrunc : truncTz 0 (pow2 (floorLog2 r.big - 16)) = 0 := by
      rw [truncTz, show qabs 0 = 0 from rfl, zero_div, show Rat.floor 0 = 0 from rfl]
      simp [qsign]
    simp [KRow.y, hx, htrunc]
  have hflushed : r.flushed short j = 0 := by
    simp [KRow.flushed, hy, FVal.toRat, qabs]
  exact ⟨hflushed, by rw [KRow.result, if_pos hflushed, hy]⟩

/-- A column's value under SHORT before subnormals are flushed (R150). -/
theorem KRow.y_short {r : KRow} (j : Nat) (hbig : r.big ≠ 0) : r.y true j =
    if truncTz (r.x j) (pow2 (floorLog2 r.big - 16)) = 0 then .zero (decide (r.x j < 0))
    else roundF (ffmt 0) .rne false (.num (truncTz (r.x j) (pow2 (floorLog2 r.big - 16)))) := by
  simp [KRow.y, hbig]

theorem KRow.y_short_ne_zero {r : KRow} {j : Nat} {w : Rat} (hbig : r.big ≠ 0) (hw : r.y true j = .num w) : w ≠ 0 := by
  rw [KRow.y_short j hbig] at hw
  split at hw
  · exact FVal.noConfusion hw
  · exact roundF_num_ne_zero hw

/-- An exact sum that is not zero, under SHORT (R150). -/
theorem unitStep_short {r : KRow} {j : Nat} {x : FVal × FVal} (hbig : r.big ≠ 0) (hsum : sumF false [x.1, x.2] = .num (r.x j)) :
    unitStep .short r.big x = (r.result true j, r.flushed true j) := by
  unfold unitStep
  rw [hsum]
  simp only [if_neg hbig, ← KRow.y_short j hbig]
  unfold KRow.result KRow.flushed
  cases hv : r.y true j with
  | num w =>
    have hw : qabs w ≠ 0 := by
      rw [qabs_eq_abs]
      exact abs_ne_zero.2 (KRow.y_short_ne_zero hbig hv)
    by_cases hsmall : qabs w < pow2 (-126)
    · simp [FVal.toRat, hsmall, hw, hbig]
    · simp [FVal.toRat, hsmall]
  | _ => simp [FVal.toRat, qabs]

/-- A finite element under a unit is the row's result for its column; only the sign of an exact zero is its own. -/
theorem unitStep_of_finite {r : KRow} (short : Bool) {j : Nat} {x : FVal × FVal} (h1 : x.1.isFinite = true) (h2 : x.2.isFinite = true)
    (hx : x.1.toRat + x.2.toRat = r.x j) (hbig : r.x j ≠ 0 → r.big ≠ 0) :
    ∃ neg, unitStep (unitOf short) r.big x = (if r.x j = 0 then .zero neg else r.result short j, r.flushed short j) := by
  obtain ⟨neg, hsum⟩ := sumF_of_finite false (l := [x.1, x.2]) (by simp [h1, h2])
  rw [show ([x.1, x.2].map FVal.toRat).sum = r.x j by simp [hx]] at hsum
  refine ⟨neg, ?_⟩
  by_cases hzero : r.x j = 0
  · rw [if_pos hzero] at hsum
    rw [if_pos hzero, (KRow.result_of_zero hzero).1]
    unfold unitStep
    rw [hsum]
    cases short <;> rfl
  · rw [if_neg hzero] at hsum
    rw [if_neg hzero]
    cases short with
    | true => exact unitStep_short (hbig hzero) hsum
    | false =>
      unfold unitStep
      rw [hsum]
      simp [unitOf, KRow.result, KRow.flushed, KRow.y, hzero]

/-! ### A row under a unit (R149, R247, R248) -/

/-- A row's values and bound under a unit. -/
def RowIn.under (r : RowIn) (u : FUnit) : List FVal × Bound :=
  ((r.trial u).1, if (r.c ++ r.s ++ (r.trial u).1).all FVal.isFinite then roundUpB16 (badd (badd r.rowb r.eps) (some (r.trial u).2)) else bInf)

/-- The least magnitude of a row's values; none where one is not finite. -/
def leastMag (l : List FVal) : Option Rat :=
  if l.all FVal.isFinite then some ((l.map fun v => qabs v.toRat).foldl qmin ((l.map fun v => qabs v.toRat).headD 0)) else none

/-- The allowance admits a row's bound (R248). -/
def Allow.admits (a : Allow) (x : List FVal × Bound) : Bool := ble (bval x.2) (bmul (some (pow2 (-(a.head : Int)))) (limitOf a (leastMag x.1)))

/-- SHORT is a row's unit (R248, Table 10-8). -/
def RowIn.isShort (r : RowIn) (a : Allow) : Bool :=
  match a.sel with
  | 0 => false
  | 1 | 2 => a.admits (r.under .short)
  | _ => true

theorem RowIn.choose_eq (r : RowIn) (a : Allow) :
    r.choose a = ((r.under (unitOf (r.isShort a))).1.map fun v => BitVec.ofNat 32 (encodeF (ffmt 0) v), (r.under (unitOf (r.isShort a))).2) := by
  have hgo : RowIn.choose.go r.under a.admits (matrixPolicy a.sel) = r.under (unitOf (r.isShort a)) := by
    have hcond : ∀ b : Bool, (if b = true then r.under .short else r.under .full) = r.under (unitOf b) := fun b => by cases b <;> rfl
    unfold RowIn.isShort
    rcases hsel : a.sel with _ | _ | _ | n
    · rfl
    · simpa [matrixPolicy, RowIn.choose.go] using hcond _
    · simpa [matrixPolicy, RowIn.choose.go] using hcond _
    · rfl
  rw [← hgo]
  rfl

/-- A NaN among a row's operands makes its element NaN and the row's bound ∞ (R149, R247). -/
theorem RowIn.choose_nan {r : RowIn} (a : Allow) {j : Nat} (hc : j < r.c.length) (hs : j < r.s.length) (h : r.c[j] = .nan ∨ r.s[j] = .nan) :
    (r.choose a).1[j]? = some 0x7FC00000 ∧ (r.choose a).2 = bInf := by
  rw [RowIn.choose_eq]
  constructor
  · have hval : (r.under (unitOf (r.isShort a))).1[j]? = some .nan := by
      simp [RowIn.under, RowIn.trial_eq, hc, hs, unitStep_nan (x := (r.c[j], r.s[j])) h]
    simp only [List.getElem?_map, hval]
    rfl
  · refine if_neg fun hall => ?_
    have hfin : ∀ v ∈ r.c ++ r.s, v.isFinite = true := fun v hv => List.all_eq_true.1 hall v (List.mem_append_left _ hv)
    rcases h with h | h
    · exact Bool.false_ne_true ((congrArg FVal.isFinite h).symm.trans (hfin _ (List.mem_append_left _ (List.getElem_mem hc))))
    · exact Bool.false_ne_true ((congrArg FVal.isFinite h).symm.trans (hfin _ (List.mem_append_right _ (List.getElem_mem hs))))

/-! ### A row of finite operands (R150, R247, R248) -/

/-- Finite elements and sums of products that have a row's exact values. -/
structure KRow.Has (r : KRow) (c s : Nat → FVal) : Prop where
  addend : ∀ j < r.n, (c j).isFinite = true ∧ (c j).toRat = r.c j
  dot : ∀ j < r.n, (s j).isFinite = true ∧ (s j).toRat = r.s j

/-- A row's elements and sums as a K-step takes them. -/
def KRow.input (r : KRow) (c s : Nat → FVal) : RowIn := { c := (List.range r.n).map c, s := (List.range r.n).map s, rowb := r.old, eps := r.eps }

theorem le_foldl_qmax {α : Type} (f : α → Rat) (l : List α) (m : Rat) : m ≤ l.foldl (fun m x => qmax m (qabs (f x))) m := by
  induction l generalizing m with
  | nil => exact le_rfl
  | cons a l ih => exact ((le_max_left m _).trans_eq (qmax_eq_max m _).symm).trans (ih _)

/-- A largest magnitude of 0 leaves only zeros. -/
theorem foldl_qmax_eq_zero {α : Type} {f : α → Rat} {l : List α} {m : Rat} (hm : 0 ≤ m) (h : l.foldl (fun m x => qmax m (qabs (f x))) m = 0) :
    m = 0 ∧ ∀ x ∈ l, f x = 0 := by
  induction l generalizing m with
  | nil => exact ⟨h, by simp⟩
  | cons a l ih =>
    have hmax : qmax m (qabs (f a)) = max m |f a| := by rw [qmax_eq_max, qabs_eq_abs]
    rw [List.foldl_cons, hmax] at h
    obtain ⟨hzero, hrest⟩ := ih (le_max_of_le_left hm) h
    have habs : |f a| ≤ 0 := hzero ▸ le_max_right m _
    exact ⟨le_antisymm (hzero ▸ le_max_left m _) hm, List.forall_mem_cons.2 ⟨abs_nonpos_iff.1 habs, hrest⟩⟩

theorem KRow.big_ne_zero {r : KRow} {j : Nat} (hj : j < r.n) (hx : r.x j ≠ 0) : r.big ≠ 0 := by
  intro hbig
  have hc : 0 ≤ (List.range r.n).foldl (fun m j => qmax m (qabs (r.c j))) 0 := le_foldl_qmax ..
  obtain ⟨hc0, hs⟩ := foldl_qmax_eq_zero hc hbig
  obtain ⟨-, hc⟩ := foldl_qmax_eq_zero le_rfl hc0
  exact hx (by rw [KRow.x, hc j (List.mem_range.2 hj), hs j (List.mem_range.2 hj), add_zero])

theorem leastMag_congr {α : Type} {l : List α} {f g : α → FVal} (h : ∀ x ∈ l, (f x).isFinite = (g x).isFinite ∧ (f x).toRat = (g x).toRat) :
    leastMag (l.map f) = leastMag (l.map g) := by
  have hfin : (l.map f).map FVal.isFinite = (l.map g).map FVal.isFinite := by simpa using fun x hx => (h x hx).1
  have hall : (l.map f).all FVal.isFinite = (l.map g).all FVal.isFinite := by
    simpa only [List.all_map, Function.id_comp] using congrArg (List.all · id) hfin
  have habs : (l.map f).map (fun v => qabs v.toRat) = (l.map g).map fun v => qabs v.toRat := by
    simpa using fun x hx => congrArg qabs (h x hx).2
  unfold leastMag
  rw [hall, habs]

section

variable {r : KRow} {c s : Nat → FVal} (h : r.Has c s)
include h

theorem KRow.Has.bigOf_eq : bigOf ((r.input c s).c ++ (r.input c s).s) = r.big := by
  have hc : (List.range r.n).foldl (fun m j => qmax m (qabs (c j).toRat)) 0 = (List.range r.n).foldl (fun m j => qmax m (qabs (r.c j))) 0 :=
    List.foldl_ext _ _ _ fun m j hj => by rw [(h.addend j (List.mem_range.1 hj)).2]
  rw [bigOf, KRow.input, List.foldl_append, List.foldl_map, List.foldl_map, hc]
  exact List.foldl_ext _ _ _ fun m j hj => by rw [(h.dot j (List.mem_range.1 hj)).2]

/-- The values of a row under a unit: the results for its columns, but for the signs of exact zeros, and the unit's own term. -/
theorem KRow.Has.trial_eq (short : Bool) : ∃ neg : Nat → Bool, (r.input c s).trial (unitOf short) =
    ((List.range r.n).map fun j => if r.x j = 0 then .zero (neg j) else r.result short j, r.ustep short) := by
  have hstep : ∀ j, ∃ neg, j < r.n → unitStep (unitOf short) r.big (c j, s j) = (if r.x j = 0 then .zero neg else r.result short j, r.flushed short j) := by
    intro j
    by_cases hj : j < r.n
    · obtain ⟨neg, hneg⟩ := unitStep_of_finite short (x := (c j, s j)) (h.addend j hj).1 (h.dot j hj).1
        (by rw [(h.addend j hj).2, (h.dot j hj).2, KRow.x]) (KRow.big_ne_zero hj)
      exact ⟨neg, fun _ => hneg⟩
    · exact ⟨false, fun hlt => absurd hlt hj⟩
  choose neg hneg using hstep
  have hl : ((r.input c s).c.zip (r.input c s).s).map (unitStep (unitOf short) r.big) =
      (List.range r.n).map fun j => (if r.x j = 0 then .zero (neg j) else r.result short j, r.flushed short j) := by
    rw [KRow.input, List.zip_map', List.map_map]
    exact List.map_congr_left fun j hj => hneg j (List.mem_range.1 hj)
  refine ⟨neg, ?_⟩
  rw [RowIn.trial_eq, h.bigOf_eq]
  dsimp only
  rw [hl, List.map_map, List.foldl_map, KRow.ustep, List.sum_eq_foldl, List.foldl_map]
  cases short <;> rfl

/-- Of a row of finite operands, only the results can be infinite. -/
theorem KRow.Has.all_finite (short : Bool) (neg : Nat → Bool) :
    ((r.input c s).c ++ (r.input c s).s ++ (List.range r.n).map fun j => if r.x j = 0 then .zero (neg j) else r.result short j).all FVal.isFinite =
      (List.range r.n).all fun j => (r.result short j).isFinite := by
  have hres : ∀ j, (if r.x j = 0 then .zero (neg j) else r.result short j).isFinite = (r.result short j).isFinite := by
    intro j
    split
    · next hzero =>
      rw [(KRow.result_of_zero hzero).2]
      rfl
    · rfl
  have hc : (r.input c s).c.all FVal.isFinite = true := by simpa [KRow.input] using fun j hj => (h.addend j hj).1
  have hs : (r.input c s).s.all FVal.isFinite = true := by simpa [KRow.input] using fun j hj => (h.dot j hj).1
  rw [List.all_append, List.all_append, hc, hs, List.all_map]
  exact congrArg (List.all (List.range r.n)) (funext hres)

/-- A row under a unit: its values and its bound. -/
theorem KRow.Has.under_eq (short : Bool) : ∃ neg : Nat → Bool, (r.input c s).under (unitOf short) =
    ((List.range r.n).map fun j => if r.x j = 0 then .zero (neg j) else r.result short j, r.bound short) := by
  obtain ⟨neg, htrial⟩ := h.trial_eq short
  refine ⟨neg, ?_⟩
  rw [RowIn.under, htrial, h.all_finite]
  rfl

/-- The row's unit is the one its statement names (R248). -/
theorem KRow.Has.isShort_eq (a : Allow) : (r.input c s).isShort a = r.short a := by
  obtain ⟨neg, hunder⟩ := h.under_eq true
  have hleast : leastMag ((List.range r.n).map fun j => if r.x j = 0 then .zero (neg j) else r.result true j) = leastMag ((List.range r.n).map (r.result true)) := by
    refine leastMag_congr fun j _ => ?_
    split
    · next hzero =>
      rw [(KRow.result_of_zero hzero).2]
      exact ⟨rfl, rfl⟩
    · exact ⟨rfl, rfl⟩
  have hadmits : a.admits ((r.input c s).under .short) = ble (bval (r.bound true)) (bmul (some (pow2 (-(a.head : Int)))) (limitOf a (leastMag ((List.range r.n).map (r.result true))))) := by
    rw [show FUnit.short = unitOf true from rfl, hunder, Allow.admits, hleast]
  unfold RowIn.isShort
  rw [hadmits]
  rfl

/-- A K-step's row of finite operands (R149, R150, R247, R248). -/
theorem KRow.Has.choose_eq (a : Allow) : ∃ neg : Nat → Bool, (r.input c s).choose a =
    ((List.range r.n).map fun j => BitVec.ofNat 32 (encodeF (ffmt 0) (if r.x j = 0 then .zero (neg j) else r.result (r.short a) j)), r.bound (r.short a)) := by
  obtain ⟨neg, hunder⟩ := h.under_eq (r.short a)
  refine ⟨neg, ?_⟩
  rw [RowIn.choose_eq, h.isShort_eq, hunder, List.map_map]
  rfl

end

/-! ### An integer row (R149) -/

theorem toInt_ofInt_clamp (v : Int) :
    (BitVec.ofInt 32 (if v < -(2 ^ 31) then -(2 ^ 31) else if 2 ^ 31 - 1 < v then 2 ^ 31 - 1 else v)).toInt = max (-(2 ^ 31)) (min (2 ^ 31 - 1) v) := by
  have hclamp : (if v < -(2 ^ 31) then -(2 ^ 31) else if 2 ^ 31 - 1 < v then 2 ^ 31 - 1 else v) = max (-(2 ^ 31)) (min (2 ^ 31 - 1) v) := by
    split
    · omega
    · split <;> omega
  rw [hclamp]
  exact BitVec.toInt_ofInt_eq_self (by decide) (by omega) (by omega)

/-- An integer row: each sum clamped to 32 bits, and the bound ∞ where one was. -/
theorem intRow_range (n : Nat) (c : Nat → Word) (s : Nat → Int) (rowb eps : Option Rat) :
    ∃ l : Nat → Word, intRow ((List.range n).map c) ((List.range n).map s) rowb eps = ((List.range n).map l,
        if ∃ j < n, (c j).toInt + s j < -(2 ^ 31) ∨ 2 ^ 31 - 1 < (c j).toInt + s j then bInf else roundUpB16 (badd rowb eps)) ∧
      ∀ j, (l j).toInt = max (-(2 ^ 31)) (min (2 ^ 31 - 1) ((c j).toInt + s j)) := by
  refine ⟨fun j => _, ?_, fun j => toInt_ofInt_clamp ((c j).toInt + s j)⟩
  have hany : ((List.range n).map fun j => (c j).toInt + s j).any (fun v => decide (v < -(2 ^ 31)) || decide (2 ^ 31 - 1 < v)) =
      decide (∃ j < n, (c j).toInt + s j < -(2 ^ 31) ∨ 2 ^ 31 - 1 < (c j).toInt + s j) := by
    rw [Bool.eq_iff_iff]
    simp
  unfold intRow
  rw [List.zip_map', List.map_map]
  dsimp only [Function.comp_def]
  rw [hany, List.map_map]
  simp only [decide_eq_true_eq]
  rfl

end Sys2Proof.Machine
end

section
/-! The accumulator under a K-step (06 R147, R149; 08 R204): a row written leaves every other row and the columns beyond its own, and a
step writes each of its rows once, with the values and the bound that its operands give. -/

namespace Sys2Proof.Machine

/-! ### Rows of a slot (R147) -/

theorem Core.accWord_of_acc {c d : Core} (h : c.acc = d.acc) (ps i j : Nat) : c.accWord ps i j = d.accWord ps i j := by
  rw [Core.accWord, h, ← Core.accWord]

theorem Core.rowBound_of_accBnd {c d : Core} (h : c.accBnd = d.accBnd) (ps i : Nat) : c.rowBound ps i = d.rowBound ps i := by
  rw [Core.rowBound, h, ← Core.rowBound]

section

variable (c : Core) (ps i : Nat) (l : List Word) (b : Bound)

theorem Core.rowBound_setRow (k : Nat) : (c.setRow ps i l b).rowBound ps k = if k = i then b else c.rowBound ps k := by
  unfold Core.rowBound Core.setRow
  split
  · next h => rw [h, KMap.get_set_same]
  · next h => exact KMap.get_set_other _ _ _ (by omega)

theorem Core.accWord_setRow (hl : l.length ≤ 64) (k : Nat) {j : Nat} (hj : j < 64) :
    (c.setRow ps i l b).accWord ps k j = if k = i then (l[j]?).getD (c.accWord ps k j) else c.accWord ps k j := by
  unfold Core.accWord Core.setRow
  dsimp only
  split
  · next h =>
    subst h
    by_cases hin : j < l.length
    · rw [KMap.get_setRange_in l _ _ _ hin, List.getElem?_eq_getElem hin, Option.getD_some]
    · rw [List.getElem?_eq_none (Nat.not_lt.1 hin), Option.getD_none, KMap.get_setRange_other l _ _ _ (by omega)]
  · next h => exact KMap.get_setRange_other l _ _ _ (by omega)

end

/-- Two cores hold the same elements and bound in a row of a slot. -/
def Core.sameRow (ps i : Nat) (c d : Core) : Prop := (∀ j < 64, c.accWord ps i j = d.accWord ps i j) ∧ c.rowBound ps i = d.rowBound ps i

theorem Core.sameRow.refl (ps i : Nat) (c : Core) : Core.sameRow ps i c c := ⟨fun _ _ => rfl, rfl⟩

theorem Core.sameRow.trans {ps i : Nat} {c d e : Core} (hcd : Core.sameRow ps i c d) (hde : Core.sameRow ps i d e) : Core.sameRow ps i c e :=
  ⟨fun j hj => (hcd.1 j hj).trans (hde.1 j hj), hcd.2.trans hde.2⟩

theorem Core.sameRow_setRow {c : Core} {ps i k : Nat} {l : List Word} {b : Bound} (hl : l.length ≤ 64) (h : k ≠ i) : Core.sameRow ps k (c.setRow ps i l b) c :=
  ⟨fun j hj => by rw [c.accWord_setRow ps i l b hl k hj, if_neg h], by rw [Core.rowBound_setRow, if_neg h]⟩

/-! ### Memory and the queues of the sequencers -/

/-- Memory, and the commands in each core's queue. -/
def State.queues (s : State) : List Host.Cell × (Nat → List SeqCmd) := (s.mem, fun n => (s.core n).seq)

theorem State.updCore_queues (s : State) {n : Nat} {f : Core → Core} (h : ∀ c, (f c).seq = c.seq) : (s.updCore n f).queues = s.queues := by
  unfold State.queues
  simp only [State.updCore_core, State.updCore_mem, Prod.mk.injEq, true_and]
  funext m
  split
  · next hm => rw [h, hm]
  · rfl

/-! ### A slot set to zero (R371) -/

/-- The first n rows of a slot zero, with exact bounds. -/
def Core.zeroed (c : Core) (ps n : Nat) : Core := (List.range n).foldl (fun c i => c.setRow ps i (List.replicate 64 0) 0) c

theorem Core.zeroed_succ (c : Core) (ps n : Nat) : c.zeroed ps (n + 1) = (c.zeroed ps n).setRow ps n (List.replicate 64 0) 0 := by
  simp only [Core.zeroed, List.range_succ, List.foldl_append, List.foldl_cons, List.foldl_nil]

theorem Core.zeroed_row (c : Core) (ps n : Nat) : ∀ k < n, (c.zeroed ps n).rowBound ps k = 0 ∧ ∀ j < 64, (c.zeroed ps n).accWord ps k j = 0 := by
  induction n with
  | zero => exact fun k hk => absurd hk (Nat.not_lt_zero k)
  | succ n ih =>
    intro k hk
    rw [Core.zeroed_succ, Core.rowBound_setRow]
    refine ⟨?_, fun j hj => ?_⟩
    · split
      · rfl
      · exact (ih k (by omega)).1
    · rw [Core.accWord_setRow _ _ _ _ _ (by simp) _ hj]
      split
      · rw [List.getElem?_replicate, if_pos hj, Option.getD_some]
      · exact (ih k (by omega)).2 j hj

/-! ### Rows written one after another (R149) -/

section

variable {f : State → Nat → State} {core ps n : Nat} (hn : n ≤ 64)
  (hf : ∀ s i, ∃ l b, l.length = n ∧ (f s i).core core = (s.core core).setRow ps i l b)
include hn hf

theorem foldl_rows_other (u : State) (m k : Nat) (hk : m ≤ k) : Core.sameRow ps k (((List.range m).foldl f u).core core) (u.core core) := by
  induction m with
  | zero => exact .refl ..
  | succ m ih =>
    obtain ⟨l, b, hlen, hstep⟩ := hf ((List.range m).foldl f u) m
    rw [List.range_succ, List.foldl_append, List.foldl_cons, List.foldl_nil, hstep]
    exact (Core.sameRow_setRow (hlen ▸ hn) (by omega)).trans (ih (by omega))

theorem foldl_rows_columns (u : State) (m k : Nat) {j : Nat} (hnj : n ≤ j) (hj : j < 64) :
    (((List.range m).foldl f u).core core).accWord ps k j = (u.core core).accWord ps k j := by
  refine foldl_keeps (fun t => (t.core core).accWord ps k j) f (fun t i => ?_) _ u
  obtain ⟨l, b, hlen, hstep⟩ := hf t i
  rw [hstep, Core.accWord_setRow _ _ _ _ _ (hlen ▸ hn) _ hj, List.getElem?_eq_none (hlen ▸ hnj), Option.getD_none, ite_self]

/-- A row is as its own step leaves it, where that step has found it as it was at first. -/
theorem foldl_rows_row (u : State) (m : Nat) {i : Nat} (hi : i < m) :
    ∃ s, Core.sameRow ps i (s.core core) (u.core core) ∧ Core.sameRow ps i (((List.range m).foldl f u).core core) ((f s i).core core) := by
  induction m with
  | zero => exact absurd hi (Nat.not_lt_zero i)
  | succ m ih =>
    rw [List.range_succ, List.foldl_append, List.foldl_cons, List.foldl_nil]
    by_cases hlast : i = m
    · subst hlast
      exact ⟨_, foldl_rows_other hn hf u i i le_rfl, .refl ..⟩
    · obtain ⟨s, hbefore, hafter⟩ := ih (by omega)
      obtain ⟨l, b, hlen, hstep⟩ := hf ((List.range m).foldl f u) m
      refine ⟨s, hbefore, ?_⟩
      rw [hstep]
      exact (Core.sameRow_setRow (hlen ▸ hn) hlast).trans hafter

end

/-! ### The operands of a K-step (R149, R151, R152, R247) -/

/-- The largest of magnitudes. -/
def mostOf (l : List Rat) : Option Rat := some (l.foldl (fun m x => qmax m (qabs x)) 0)

theorem magOf_of_finite {α : Type} {l : List α} {f : α → FVal} (h : ∀ x ∈ l, (f x).isFinite = true) : magOf (l.map f) = mostOf (l.map fun x => (f x).toRat) := by
  rw [magOf, if_pos (by simpa using h), bigOf, mostOf, List.foldl_map, List.foldl_map]

/-- A K-step of a loop: the device that it reads, the command, its parameters, and the sectors of its stream. -/
structure KStep where
  dev : State
  cmd : SeqCmd
  loop : LoopParams
  see : Nat → Sector

namespace KStep

variable (x : KStep)

/-- The elements of a column of B. -/
def b (j : Nat) : List BElem := (x.cmd.stored x.cmd.step).map (x.dev.bElem x.cmd x.loop x.see j)
/-- The elements of a row of A that a column of B multiplies. -/
def a (i j : Nat) : List AElem := (x.b j).map fun y => x.dev.aElem x.cmd x.loop i y.pos
/-- Every element of A that a row multiplies. -/
def row (i : Nat) : List AElem := (List.range x.loop.n).flatMap (x.a i)
/-- Every element of B. -/
def all : List BElem := (List.range x.loop.n).flatMap x.b
/-- The largest bound of a row's elements. -/
def bA (i : Nat) : Option Rat := (x.row i).foldl (fun m y => bmax m (bval y.bnd)) (some 0)
/-- The largest bound of a column of B. -/
def bB : Option Rat := (List.range x.loop.n).foldl (fun m j => bmax m (bval (BitVec.ofNat 16 (x.dev.bRead x.cmd x.loop x.see j 0 2)))) (some 0)
/-- The part of a row's bound that its operands give (R247), from their largest magnitudes. -/
def eps (i : Nat) (aMax bMax : Option Rat) : Option Rat :=
  bmul (some (stepK (fmtMB x.cmd.fmt) : Rat)) (badd (badd (bmul (x.bA i) bMax) (bmul aMax x.bB)) (bmul (x.bA i) x.bB))
/-- The physical slot of the accumulator. -/
def slot : Nat := (x.dev.team x.cmd.onTeam).accSlot x.cmd.slot
/-- The core whose accumulator it is. -/
def core : Nat := (x.dev.team x.cmd.onTeam).core
/-- An integer element's sum of products. -/
def sum (i j : Nat) : Int := (((x.a i j).zip (x.b j)).map fun y => y.1.n * y.2.n).sum
/-- A float element's sum of products. -/
def dot (i j : Nat) : FVal := sumF false (((x.a i j).zip (x.b j)).map fun y => y.1.f.mul y.2.f)

/-- A float row as a K-step takes it. -/
def floatRow (c : Core) (i : Nat) : RowIn where
  c := (List.range x.loop.n).map fun j => decodeF (ffmt 0) (c.accWord x.slot i j).toNat
  s := (List.range x.loop.n).map (x.dot i)
  rowb := bval (c.rowBound x.slot i)
  eps := x.eps i (magOf ((x.row i).map (·.f))) (magOf (x.all.map (·.f)))

/-- What a row becomes, where the accumulator's core is as given and no operand has raced. -/
def result (c : Core) (i : Nat) : List Word × Bound :=
  if isIntFmt (fmtMB x.cmd.fmt) then
    intRow ((List.range x.loop.n).map (c.accWord x.slot i)) ((List.range x.loop.n).map (x.sum i)) (bval (c.rowBound x.slot i))
      (x.eps i (mostOf ((x.row i).map fun y => (y.n : Rat))) (mostOf (x.all.map fun y => (y.n : Rat))))
  else (x.floatRow c i).choose (allow x.cmd.alw)

/-- One row's step: a row that raced gets free values (R204). -/
def stepRow (s : State) (i : Nat) : State :=
  if (x.row i).any (·.raced) then s.freeRows x.core x.slot [i] x.loop.n
  else s.updCore x.core fun c => c.setRow x.slot i (x.result (s.core x.core) i).1 (x.result (s.core x.core) i).2

theorem stepRows_eq : x.dev.stepRows x.cmd x.loop x.see x.cmd.step = (List.range x.loop.m).foldl x.stepRow x.dev := by
  unfold State.stepRows
  refine congrArg (fun f => List.foldl f x.dev (List.range x.loop.m)) (funext fun s => funext fun i => ?_)
  have hcols : ((List.range x.loop.n).map fun j => (x.cmd.stored x.cmd.step).map fun n => x.dev.bElem x.cmd x.loop x.see j n) = (List.range x.loop.n).map x.b := rfl
  have hrow : ((List.range x.loop.n).map x.b).map (fun col => col.map fun y => x.dev.aElem x.cmd x.loop i y.pos) = (List.range x.loop.n).map (x.a i) := by
    rw [List.map_map]
    rfl
  dsimp only
  rw [hcols, hrow, List.zip_map']
  simp only [List.map_map, ← List.sum_eq_foldl]
  unfold stepRow result
  simp only [mostOf, List.foldl_map]
  by_cases hint : isIntFmt (fmtMB x.cmd.fmt) = true
  · simp only [if_pos hint]
    rfl
  · simp only [if_neg hint]
    rfl

/-! ### A row after the step (R149, R247, R248) -/

theorem result_length (c : Core) (i : Nat) : (x.result c i).1.length = x.loop.n := by
  unfold result
  split
  · simp [intRow]
  · rw [RowIn.choose_eq]
    simp [RowIn.under, RowIn.trial_eq, floatRow]

theorem result_congr {c d : Core} {i : Nat} (hn : x.loop.n ≤ 64) (h : Core.sameRow x.slot i c d) : x.result c i = x.result d i := by
  have hold : (List.range x.loop.n).map (c.accWord x.slot i) = (List.range x.loop.n).map (d.accWord x.slot i) :=
    List.map_congr_left fun j hj => h.1 j ((List.mem_range.1 hj).trans_le hn)
  have hfloat : x.floatRow c i = x.floatRow d i := by
    have hdec := congrArg (List.map fun w : Word => decodeF (ffmt 0) w.toNat) hold
    simp only [List.map_map, Function.comp_def] at hdec
    rw [floatRow, floatRow, hdec, h.2]
  rw [result, result, hold, h.2, hfloat]

/-- A row's step writes that row alone, and takes free values at most. -/
theorem stepRow_only (s : State) (i : Nat) :
    ∃ l b k, l.length = x.loop.n ∧ x.stepRow s i = (s.updCore x.core fun c => c.setRow x.slot i l b).bumpBy k := by
  unfold stepRow
  split
  · exact ⟨(List.range x.loop.n).map fun j => Config.freeWord (s.fresh + 64 * i + j), bInf, 4096, by simp, rfl⟩
  · exact ⟨_, _, 0, x.result_length _ _, rfl⟩

theorem stepRow_core (s : State) (i : Nat) :
    ∃ l b, l.length = x.loop.n ∧ (x.stepRow s i).core x.core = (s.core x.core).setRow x.slot i l b := by
  obtain ⟨l, b, k, hlen, hstep⟩ := x.stepRow_only s i
  refine ⟨l, b, hlen, ?_⟩
  rw [hstep]
  exact (s.updCore_core _ _ fun c => c.setRow x.slot i l b).trans (if_pos rfl)

/-- A row whose operands have not raced becomes its result, computed from what it was before the step. -/
theorem stepRows_row (hn : x.loop.n ≤ 64) {i : Nat} (hi : i < x.loop.m) (hrace : ∀ y ∈ x.row i, y.raced = false) :
    let c := (x.dev.stepRows x.cmd x.loop x.see x.cmd.step).core x.core
    c.rowBound x.slot i = (x.result (x.dev.core x.core) i).2 ∧
      ∀ j < x.loop.n, some (c.accWord x.slot i j) = (x.result (x.dev.core x.core) i).1[j]? := by
  obtain ⟨s, hbefore, hafter⟩ := foldl_rows_row hn x.stepRow_core x.dev x.loop.m hi
  have hstep : (x.stepRow s i).core x.core = (s.core x.core).setRow x.slot i (x.result (x.dev.core x.core) i).1 (x.result (x.dev.core x.core) i).2 := by
    rw [stepRow, if_neg (by simpa using hrace), x.result_congr hn hbefore, State.updCore_core, if_pos rfl]
  have hlen := x.result_length (x.dev.core x.core) i
  rw [hstep] at hafter
  rw [x.stepRows_eq]
  refine ⟨by rw [hafter.2, Core.rowBound_setRow, if_pos rfl], fun j hj => ?_⟩
  rw [hafter.1 j (by omega), Core.accWord_setRow _ _ _ _ _ (by omega) _ (by omega), if_pos rfl, List.getElem?_eq_getElem (by omega), Option.getD_some]

/-- Rows and columns outside the loop's keep what they held. -/
theorem stepRows_other (hn : x.loop.n ≤ 64) (i : Nat) :
    let c := (x.dev.stepRows x.cmd x.loop x.see x.cmd.step).core x.core
    (x.loop.m ≤ i → Core.sameRow x.slot i c (x.dev.core x.core)) ∧
      ∀ j < 64, x.loop.n ≤ j → c.accWord x.slot i j = (x.dev.core x.core).accWord x.slot i j := by
  rw [x.stepRows_eq]
  exact ⟨foldl_rows_other hn x.stepRow_core x.dev x.loop.m i, fun j hj hnj => foldl_rows_columns hn x.stepRow_core x.dev x.loop.m i hnj hj⟩

/-- The step leaves memory and every core's queue alone. -/
theorem stepRows_keeps : (x.dev.stepRows x.cmd x.loop x.see x.cmd.step).queues = x.dev.queues := by
  rw [x.stepRows_eq]
  refine foldl_keeps State.queues _ (fun s i => ?_) _ _
  obtain ⟨l, b, k, -, hstep⟩ := x.stepRow_only s i
  rw [hstep]
  exact s.updCore_queues (f := fun c => c.setRow x.slot i l b) fun _ => rfl

/-- A row's exact values and the terms of its bound, for finite operands (R149, R247). -/
def krow (c : Core) (i : Nat) : KRow where
  n := x.loop.n
  c := fun j => (decodeF (ffmt 0) (c.accWord x.slot i j).toNat).toRat
  s := fun j => (((x.a i j).zip (x.b j)).map fun y => y.1.f.toRat * y.2.f.toRat).sum
  old := bval (c.rowBound x.slot i)
  eps := x.eps i (mostOf ((x.row i).map (·.f.toRat))) (mostOf (x.all.map (·.f.toRat)))

section

variable {x} {c : Core} {i : Nat}

theorem result_float (hfloat : isIntFmt (fmtMB x.cmd.fmt) = false) : x.result c i = (x.floatRow c i).choose (allow x.cmd.alw) :=
  if_neg (Bool.eq_false_iff.1 hfloat)

/-- A row of finite operands meets its exact values. -/
theorem krow_has (hc : ∀ j < x.loop.n, (decodeF (ffmt 0) (c.accWord x.slot i j).toNat).isFinite = true) (hrow : ∀ y ∈ x.row i, y.f.isFinite = true)
    (hall : ∀ y ∈ x.all, y.f.isFinite = true) : (x.krow c i).Has (fun j => decodeF (ffmt 0) (c.accWord x.slot i j).toNat) (x.dot i) where
  addend := fun j hj => ⟨hc j hj, rfl⟩
  dot := by
    intro j hj
    refine sumF_mul_finite (f := fun y : AElem × BElem => y.1.f) (g := fun y => y.2.f) (fun y hy => hrow _ ?_) fun y hy => hall _ ?_
    · exact List.mem_flatMap.2 ⟨j, List.mem_range.2 hj, (List.of_mem_zip hy).1⟩
    · exact List.mem_flatMap.2 ⟨j, List.mem_range.2 hj, (List.of_mem_zip hy).2⟩

theorem floatRow_eq (hrow : ∀ y ∈ x.row i, y.f.isFinite = true) (hall : ∀ y ∈ x.all, y.f.isFinite = true) :
    x.floatRow c i = (x.krow c i).input (fun j => decodeF (ffmt 0) (c.accWord x.slot i j).toNat) (x.dot i) := by
  unfold floatRow
  rw [magOf_of_finite hrow, magOf_of_finite hall]
  rfl

variable (hn : x.loop.n ≤ 64) (hi : i < x.loop.m) (hrace : ∀ y ∈ x.row i, y.raced = false)
include hn hi hrace

/-- An integer row after the step (R149). -/
theorem stepRows_int (hint : isIntFmt (fmtMB x.cmd.fmt) = true) :
    let old := x.dev.core x.core
    let new := (x.dev.stepRows x.cmd x.loop x.see x.cmd.step).core x.core
    let total (j : Nat) : Int := (old.accWord x.slot i j).toInt + x.sum i j
    (∀ j < x.loop.n, (new.accWord x.slot i j).toInt = max (-(2 ^ 31)) (min (2 ^ 31 - 1) (total j))) ∧
      new.rowBound x.slot i = if ∃ j < x.loop.n, total j < -(2 ^ 31) ∨ 2 ^ 31 - 1 < total j then bInf
        else roundUpB16 (badd (bval (old.rowBound x.slot i)) (x.eps i (mostOf ((x.row i).map fun y => (y.n : Rat))) (mostOf (x.all.map fun y => (y.n : Rat))))) := by
  intro old new total
  obtain ⟨hbound, hword⟩ := x.stepRows_row hn hi hrace
  obtain ⟨l, hl, hval⟩ := intRow_range x.loop.n (old.accWord x.slot i) (x.sum i) (bval (old.rowBound x.slot i))
    (x.eps i (mostOf ((x.row i).map fun y => (y.n : Rat))) (mostOf (x.all.map fun y => (y.n : Rat))))
  have hres : x.result old i = _ := (if_pos hint).trans hl
  rw [hres] at hbound hword
  refine ⟨fun j hj => ?_, hbound⟩
  have hnew := hword j hj
  rw [List.getElem?_map, List.getElem?_range hj] at hnew
  exact (congrArg BitVec.toInt (Option.some.inj hnew)).trans (hval j)

/-- A row of finite operands after the step (R149, R150, R247, R248). -/
theorem stepRows_finite (hfloat : isIntFmt (fmtMB x.cmd.fmt) = false)
    (hc : ∀ j < x.loop.n, (decodeF (ffmt 0) ((x.dev.core x.core).accWord x.slot i j).toNat).isFinite = true) (hrow : ∀ y ∈ x.row i, y.f.isFinite = true)
    (hall : ∀ y ∈ x.all, y.f.isFinite = true) :
    let r := x.krow (x.dev.core x.core) i
    let new := (x.dev.stepRows x.cmd x.loop x.see x.cmd.step).core x.core
    let short := r.short (allow x.cmd.alw)
    (∀ j < x.loop.n, (r.x j ≠ 0 → new.accWord x.slot i j = BitVec.ofNat 32 (encodeF (ffmt 0) (r.result short j))) ∧
        (r.x j = 0 → new.accWord x.slot i j &&& 0x7FFFFFFF = 0)) ∧
      new.rowBound x.slot i = r.bound short := by
  intro r new short
  obtain ⟨hbound, hword⟩ := x.stepRows_row hn hi hrace
  obtain ⟨neg, hneg⟩ := (krow_has hc hrow hall).choose_eq (allow x.cmd.alw)
  rw [result_float hfloat, floatRow_eq hrow hall, hneg] at hbound hword
  refine ⟨fun j hj => ?_, hbound⟩
  have hnew := hword j hj
  rw [List.getElem?_map, List.getElem?_range (show j < (x.krow (x.dev.core x.core) i).n from hj)] at hnew
  have hval : new.accWord x.slot i j = BitVec.ofNat 32 (encodeF (ffmt 0) (if r.x j = 0 then .zero (neg j) else r.result short j)) := Option.some.inj hnew
  rw [hval]
  refine ⟨fun hx => by rw [if_neg hx], fun hx => ?_⟩
  rw [if_pos hx]
  exact encodeF_zero_magnitude _

/-- An element with a NaN among its operands after the step (R149). -/
theorem stepRows_nan (hfloat : isIntFmt (fmtMB x.cmd.fmt) = false) {j : Nat} (hj : j < x.loop.n)
    (hnan : decodeF (ffmt 0) ((x.dev.core x.core).accWord x.slot i j).toNat = .nan ∨ ∃ y ∈ (x.a i j).zip (x.b j), y.1.f = .nan ∨ y.2.f = .nan) :
    let new := (x.dev.stepRows x.cmd x.loop x.see x.cmd.step).core x.core
    new.accWord x.slot i j = 0x7FC00000 ∧ new.rowBound x.slot i = bInf := by
  intro new
  obtain ⟨hbound, hword⟩ := x.stepRows_row hn hi hrace
  have hdot : (∃ y ∈ (x.a i j).zip (x.b j), y.1.f = .nan ∨ y.2.f = .nan) → x.dot i j = .nan := by
    rintro ⟨y, hy, hyn⟩
    exact sumF_nan (List.mem_map.2 ⟨y, hy, FVal.mul_nan hyn⟩)
  rw [result_float hfloat] at hbound hword
  obtain ⟨hval, hinf⟩ := RowIn.choose_nan (r := x.floatRow (x.dev.core x.core) i) (allow x.cmd.alw) (j := j) (by simpa [floatRow] using hj)
    (by simpa [floatRow] using hj) (by simpa [floatRow] using hnan.imp_right hdot)
  exact ⟨Option.some.inj ((hword j hj).trans hval), hbound.trans hinf⟩

end

end KStep

end Sys2Proof.Machine
end

section
/-! Commands of a sequencer (06 R149, R155 to R160, R163, R164; 08 R204; 16 R365, R367 to R372): what a command changed, ended or counted
leaves, and one equation for each way in which the command at the head goes on. -/

namespace Sys2Proof.Machine

/-! ### The queue of a sequencer (R365) -/

section

variable (s : State) (core : Nat) (q : SeqCmd)

theorem State.setCmd_seq : ((s.setCmd core q).core core).seq = (s.core core).seq.map fun x => if x.id = q.id ∧ x.onTeam = q.onTeam then q else x := by
  rw [State.setCmd, State.updCore_core, if_pos rfl]

theorem State.setCmd_grp (p : Party) : (s.setCmd core q).grp p = s.grp p := s.updCore_grp ..

theorem State.mem_setCmd {x : SeqCmd} (hx : x ∈ (s.core core).seq) (hid : x.id = q.id) (hteam : x.onTeam = q.onTeam) : q ∈ ((s.setCmd core q).core core).seq := by
  rw [s.setCmd_seq]
  exact List.mem_map.2 ⟨x, hx, if_pos ⟨hid, hteam⟩⟩

theorem State.setCmd_slots (n : Nat) : ((s.setCmd core q).core n).acc = (s.core n).acc ∧ ((s.setCmd core q).core n).accBnd = (s.core n).accBnd := by
  rw [State.setCmd, State.updCore_core]
  split
  · next h => rw [h]; exact ⟨rfl, rfl⟩
  · exact ⟨rfl, rfl⟩

/-- A command changed together with the group that issued it. -/
theorem State.setCmd_issuer (f : Group → Group) {q' : SeqCmd} (hid : q'.id = q.id) (hteam : q'.onTeam = q.onTeam) :
    let t := (s.updIssuer q f).setCmd core q'
    t.grp (.group q.team q.gid) = f (s.grp (.group q.team q.gid)) ∧ t.mem = s.mem ∧
      ((∃ x ∈ (s.core core).seq, x.id = q.id ∧ x.onTeam = q.onTeam) → q' ∈ (t.core core).seq) := by
  refine ⟨?_, s.updGrp_mem .., fun ⟨x, hx, hxid, hxteam⟩ => State.mem_setCmd _ _ _ ?_ (hxid.trans hid.symm) (hxteam.trans hteam.symm)⟩
  · rw [State.setCmd_grp]
    exact s.updGrp_grp ..
  · rw [State.updIssuer, State.updGrp_core]
    exact hx

/-- A command that ends without a fault and writes no output leaves the queue of its core, and stays known to those that wait for it. -/
theorem State.endCmd_eq (h : ∀ o, q.kind ≠ .mout o) :
    ∃ gangs, s.endCmd core q none = { (s.dropCmd core q).updCore core (fun c => { c with past := c.past ++ [q] }) with gangs := gangs } := by
  unfold State.endCmd
  cases hkind : q.kind with
  | mout o => exact absurd hkind (h o)
  | share gang p => exact ⟨_, rfl⟩
  | zero => exact ⟨_, rfl⟩
  | loop p => exact ⟨_, rfl⟩

variable {s core q} (h : ∀ o, q.kind ≠ .mout o)
include h

theorem State.endCmd_mem : (s.endCmd core q none).mem = s.mem := by
  obtain ⟨gangs, hend⟩ := s.endCmd_eq core q h
  rw [hend]
  rfl

theorem State.endCmd_slots (n : Nat) : ((s.endCmd core q none).core n).acc = (s.core n).acc ∧ ((s.endCmd core q none).core n).accBnd = (s.core n).accBnd := by
  obtain ⟨gangs, hend⟩ := s.endCmd_eq core q h
  rw [hend]
  show (((s.dropCmd core q).updCore core fun c => { c with past := c.past ++ [q] }).core n).acc = _ ∧
    (((s.dropCmd core q).updCore core fun c => { c with past := c.past ++ [q] }).core n).accBnd = _
  by_cases hn : n = core
  · subst hn
    simp only [State.dropCmd, State.updCore_core, if_pos, and_self]
  · simp only [State.dropCmd, State.updCore_core, if_neg hn, and_self]

theorem State.endCmd_gone : ∀ x ∈ ((s.endCmd core q none).core core).seq, ¬ (x.id = q.id ∧ x.onTeam = q.onTeam) := by
  obtain ⟨gangs, hend⟩ := s.endCmd_eq core q h
  rw [hend]
  show ∀ x ∈ (((s.dropCmd core q).updCore core fun c => { c with past := c.past ++ [q] }).core core).seq, _
  simp only [State.dropCmd, State.updCore_core, if_pos]
  intro x hx
  simpa [not_and_or, imp_iff_not_or] using (List.mem_filter.1 hx).2

end

/-! ### A step that is performed (R149, R156, R370) -/

theorem State.countExpert_only (s : State) (q : SeqCmd) (p : LoopParams) : ∃ dies, s.countExpert q p = { s with dies := dies } := by
  unfold State.countExpert
  split
  · exact ⟨s.dies, rfl⟩
  · exact ⟨_, rfl⟩

/-- A command after a step, with what it has read of A. -/
def SeqCmd.stepped (q : SeqCmd) (reads : List Nat) : SeqCmd := { q with step := q.step + 1, reads := reads }

/-- What a performed step leaves beside the rows it writes: memory, and the command, gone or one step on. -/
theorem State.performStep_leaves (s : State) (core : Nat) {q : SeqCmd} (p : LoopParams) (see : Nat → Sector) (hkind : ∀ o, q.kind ≠ .mout o) :
    let t := s.performStep core q p see
    let rows := s.stepRows q p see q.step
    t.mem = rows.mem ∧ (∀ n, (t.core n).acc = (rows.core n).acc ∧ (t.core n).accBnd = (rows.core n).accBnd) ∧
      if p.kn / p.ppos q.fmt ≤ q.step + 1 then ∀ x ∈ (t.core core).seq, ¬ (x.id = q.id ∧ x.onTeam = q.onTeam)
      else (∃ x ∈ (rows.core core).seq, x.id = q.id ∧ x.onTeam = q.onTeam) →
        ∃ x ∈ (t.core core).seq, x.id = q.id ∧ x.onTeam = q.onTeam ∧ x.step = q.step + 1 := by
  intro t rows
  obtain ⟨dies, hcount⟩ := rows.countExpert_only q p
  obtain ⟨reads, ht⟩ : ∃ reads, t = if p.kn / p.ppos q.fmt ≤ q.step + 1 then (rows.countExpert q p).endCmd core (q.stepped reads) none
      else (rows.countExpert q p).setCmd core (q.stepped reads) := ⟨_, rfl⟩
  clear_value t
  rw [hcount] at ht
  have hkind' : ∀ o, (q.stepped reads).kind ≠ .mout o := hkind
  by_cases hlast : p.kn / p.ppos q.fmt ≤ q.step + 1
  · rw [if_pos hlast] at ht ⊢
    rw [ht]
    exact ⟨State.endCmd_mem hkind', State.endCmd_slots hkind', State.endCmd_gone hkind'⟩
  · rw [if_neg hlast] at ht ⊢
    rw [ht]
    exact ⟨rfl, State.setCmd_slots { rows with dies := dies } core (q.stepped reads), fun ⟨x, hx, hid, hteam⟩ =>
      ⟨q.stepped reads, State.mem_setCmd { rows with dies := dies } core (q.stepped reads) hx hid hteam, rfl, rfl, rfl⟩⟩

/-! ### Stalls and their counters (R158, R160) -/

/-- A stall counter has counted one more stall, of so many cycles. -/
theorem countStall_fields (v : DWord) (cycles : Nat) : fieldN (countStall v cycles) 0 32 = min (fieldN v 0 32 + 1) (2 ^ 32 - 1) ∧
    fieldN (countStall v cycles) 32 32 = min (fieldN v 32 32 + cycles) (2 ^ 32 - 1) := by
  unfold countStall
  generalize fieldN v 0 32 + 1 = a
  generalize fieldN v 32 32 + cycles = b
  simp only [fieldN, BitVec.extractLsb'_toNat, BitVec.toNat_ofNat, Nat.shiftRight_eq_div_pow]
  omega

/-- The K-step's table is not there yet (R158). -/
def SeqCmd.late (q : SeqCmd) (p : LoopParams) : Bool := fmtMB q.fmt == 14 && !q.tables.any (fun e => e.1 == q.tableOf p)

theorem SeqCmd.late_iff {q : SeqCmd} {p : LoopParams} : q.late p = true ↔ fmtMB q.fmt = 14 ∧ ¬ ∃ e ∈ q.tables, e.1 = q.tableOf p := by
  rw [SeqCmd.late, Bool.and_eq_true, beq_iff_eq, Bool.not_eq_true', Bool.eq_false_iff, ne_eq, List.any_eq_true]
  simp only [beq_iff_eq]

/-- A bank that the K-step reads is busy (R160). -/
def State.banksBusy (s : State) (core : Nat) (q : SeqCmd) (p : LoopParams) : Bool := (q.units p q.step).any fun u => s.bankBusy core (u % 6144 % 16)

theorem State.banksBusy_iff {s : State} {core : Nat} {q : SeqCmd} {p : LoopParams} :
    s.banksBusy core q p = true ↔ ∃ u ∈ q.units p q.step, s.bankBusy core (u % 6144 % 16) = true := List.any_eq_true

theorem SeqCmd.late_eq_false {q : SeqCmd} {p : LoopParams} (h : fmtMB q.fmt = 14 → ∃ e ∈ q.tables, e.1 = q.tableOf p) : q.late p = false :=
  Bool.eq_false_iff.2 fun hlate => (SeqCmd.late_iff.1 hlate).2 (h (SeqCmd.late_iff.1 hlate).1)

theorem State.banksBusy_eq_false {s : State} {core : Nat} {q : SeqCmd} {p : LoopParams} (h : ∀ u ∈ q.units p q.step, s.bankBusy core (u % 6144 % 16) = false) :
    s.banksBusy core q p = false := by simpa [State.banksBusy] using h

/-- A stall of a command begins or ends (R158, R160). -/
def SeqCmd.stallTurns (q : SeqCmd) (late busy : Bool) : Bool :=
  (late && q.tableStall.isNone) || (busy && q.bankStall.isNone) || (!busy && q.bankStall.isSome)

/-- A stall at a bank that is over has lasted until its end, where no refresh has begun since (R160, R161). -/
theorem State.bankWaited_eq {s : State} {core since till : Nat} (hend : (s.core core).rfshEnd = none) (hlast : (s.core core).wrsched.toNat ≤ till + 65536)
    (hover : till ≤ (s.coreCyc core).toNat) : s.bankWaited core since till = till - since := by
  unfold State.bankWaited
  have hbefore : (s.core core).wrsched.toNat - 65536 ≤ till := Nat.sub_le_iff_le_add.2 hlast
  rw [hend]
  dsimp only
  rw [if_neg (fun h => Nat.not_lt.2 hbefore h.1), Nat.min_eq_left hover]

theorem State.stallStep_table {s : State} {core : Nat} {q : SeqCmd} (htable : q.tableStall = none) (hbank : q.bankStall = none) :
    s.stallStep core q true false = s.setCmd core { q with tableStall := some s.time } := by
  unfold State.stallStep
  simp [htable, hbank]

theorem State.stallStep_bank {s : State} {core : Nat} {q : SeqCmd} (hbank : q.bankStall = none) :
    s.stallStep core q false true = s.setCmd core { q with bankStall := some ((s.coreCyc core).toNat, (s.coreCyc core).toNat + s.bankCycles core) } := by
  unfold State.stallStep
  simp [hbank]

theorem State.stallStep_bankEnds {s : State} {core since till : Nat} {q : SeqCmd} (hbank : q.bankStall = some (since, till)) :
    s.stallStep core q false false =
      (s.updIssuer q fun g => { g with wrstall := countStall g.wrstall (s.bankWaited core since till) }).setCmd core { q with bankStall := none } := by
  unfold State.stallStep
  simp [hbank]

/-! ### The K-step, where it happens -/

section

variable {s : State} {core : Nat} {q : SeqCmd} {p : LoopParams} (hhead : (s.core core).headCmd = some q) (hruns : s.cmdRuns q = true)
  (hstarted : q.started = true) (hparams : q.params = some p)
include hhead hruns hstarted hparams

theorem execKStep_stalls (h : q.stallTurns (q.late p) (s.banksBusy core q p) = true) :
    execKStep core s = .next (s.stallStep core q (q.late p) (s.banksBusy core q p)) := by
  unfold execKStep
  simp only [hhead, hparams, hstarted, hruns]
  exact if_pos h

theorem execKStep_waits (h : q.stallTurns (q.late p) (s.banksBusy core q p) = false) (hwait : q.late p = true ∨ s.banksBusy core q p = true) :
    execKStep core s = .next { s with stalled := true } := by
  unfold execKStep
  simp only [hhead, hparams, hstarted, hruns]
  show (if q.stallTurns (q.late p) (s.banksBusy core q p) = true then _ else if (q.late p || s.banksBusy core q p) = true then _ else _) = _
  rw [if_neg (Bool.eq_false_iff.1 h), if_pos (by simpa using hwait)]
  rfl

theorem execKStep_performs {u : State} {see : Nat → Sector} (hlate : q.late p = false) (hbusy : s.banksBusy core q p = false) (hstall : q.bankStall = none)
    (hgood : ∀ x ∈ q.units p q.step, s.unitBad core x = false)
    (hread : { s with who := .group q.onTeam q.gid }.streamRead (.group q.onTeam q.gid) core (q.sectors p q.step) = .ok u see) :
    execKStep core s = .next (u.performStep core q p see) := by
  unfold execKStep
  simp only [hhead, hparams, hstarted, hruns, hread]
  show (if q.stallTurns (q.late p) (s.banksBusy core q p) = true then _ else if (q.late p || s.banksBusy core q p) = true then _ else
    if (q.units p q.step).any (s.unitBad core) = true then _ else _) = _
  rw [hlate, hbusy, if_neg (by simp [SeqCmd.stallTurns, hstall]), if_neg (by decide), if_neg (by simpa using hgood)]

end

/-! ### A codebook table's block, where it arrives (R158) -/

/-- A command whose block of the table plane is in its slot. -/
def SeqCmd.filled (q : SeqCmd) (p : LoopParams) (b : Nat) (see : Nat → Sector) : SeqCmd := { q with
  tableStall := none
  tables := (q.tables.filter fun e => b ≤ e.1 + 1) ++
    [(b, (List.range 1024).map fun i => (see ((p.tbl.toNat + 1024 * b + i) / 64)).byte ((p.tbl.toNat + 1024 * b + i) % 64))] }

section

variable {s u : State} {core b : Nat} {q : SeqCmd} {p : LoopParams} {see : Nat → Sector} (hhead : (s.core core).headCmd = some q)
  (hruns : s.cmdRuns q = true) (hstarted : q.started = true) (hparams : q.params = some p) (hfmt : fmtMB q.fmt = 14) (hnext : q.nextTable p = some b)
  (hread : { s with who := .group q.onTeam q.gid }.streamRead (.group q.onTeam q.gid) core (codeSectors (p.tbl.toNat + 1024 * b) 1024) = .ok u see)
include hhead hruns hstarted hparams hfmt hnext hread

theorem execCb3TableArrival_early (hstall : q.tableStall = none) : execCb3TableArrival core s = .next (u.setCmd core (q.filled p b see)) := by
  unfold execCb3TableArrival
  simp only [hhead, hparams, hnext, hread, hstall]
  exact if_neg (by simp [hfmt, hstarted, hruns])

theorem execCb3TableArrival_late {t0 : Nat} (hstall : q.tableStall = some t0) : execCb3TableArrival core s =
    .next ((u.updIssuer q fun g => { g with cbstall := countStall g.cbstall (u.time - t0) }).setCmd core (q.filled p b see)) := by
  unfold execCb3TableArrival
  simp only [hhead, hparams, hnext, hread, hstall]
  exact if_neg (by simp [hfmt, hstarted, hruns])

end

/-! ### Commands that start (R365, R367 to R369, R371, R372) -/

section

variable {s : State} {core : Nat} {q : SeqCmd} (hhead : (s.core core).headCmd = some q) (hruns : s.cmdRuns q = true) (hstarted : q.started = false)
include hhead hruns hstarted

theorem execSequencerCommandStart_zero (hkind : q.kind = .zero) :
    execSequencerCommandStart core s = .next ((s.zeroSlot core ((s.team q.onTeam).accSlot q.slot)).endCmd core q none) := by
  unfold execSequencerCommandStart
  simp only [hhead, hkind]
  exact if_neg (by simp [hstarted, hruns])

theorem execSequencerCommandStart_mout {o : MoutParams} (hkind : q.kind = .mout o) : execSequencerCommandStart core s = .next (s.startMout core q o) := by
  unfold execSequencerCommandStart
  simp only [hhead, hkind]
  exact if_neg (by simp [hstarted, hruns])

/-- The contributors whose token a loop has still to take (R367). -/
def SeqCmd.wanted (q : SeqCmd) (p : LoopParams) : List (Fin 16) := (List.finRange 16).filter fun g => p.cmask.getLsbD g.val && !q.snaps.any (·.1 == g.val)

section

variable {p : LoopParams} (hkind : q.kind = .loop p)
include hkind

theorem execSequencerCommandStart_loop (hwanted : q.wanted p = []) : execSequencerCommandStart core s = .next (s.startLoop core q p q.snaps) := by
  unfold SeqCmd.wanted at hwanted
  unfold execSequencerCommandStart
  simp only [hhead, hkind, hwanted]
  exact if_neg (by simp [hstarted, hruns])

variable {g : Fin 16} {rest : List (Fin 16)} (hwanted : q.wanted p = g :: rest)
include hwanted

theorem execSequencerCommandStart_waits (hready : (s.grp (.group q.onTeam g)).ready = none) :
    execSequencerCommandStart core s = .next { s with stalled := true } := by
  unfold SeqCmd.wanted at hwanted
  unfold execSequencerCommandStart
  simp only [hhead, hkind, hwanted, hready]
  exact if_neg (by simp [hstarted, hruns])

theorem execSequencerCommandStart_takes {r : Touched} (hready : (s.grp (.group q.onTeam g)).ready = some r) :
    execSequencerCommandStart core s =
      let u := s.updGrp (.group q.onTeam g) fun x => { x with ready := none }
      .next (if rest = [] then u.startLoop core q p (q.snaps ++ [(g.val, r)]) else u.setCmd core { q with snaps := q.snaps ++ [(g.val, r)] }) := by
  unfold SeqCmd.wanted at hwanted
  unfold execSequencerCommandStart
  simp only [hhead, hkind, hwanted, hready, List.isEmpty_iff]
  exact if_neg (by simp [hstarted, hruns])

end

theorem execGangShareStart_starts {id : Nat} {p : LoopParams} {scr : Fin 16 × Touched} (hkind : q.kind = .share id p)
    (htoken : (s.team q.onTeam).gangToken = some scr) (hphase : (s.core core).wphase = none ∨ s.dirHit core p q.fmt = none) :
    execGangShareStart core s =
      .next ((s.setTeam q.onTeam { s.team q.onTeam with gangToken := none }).startLoop core q p [(scr.1.val, scr.2)]) := by
  unfold execGangShareStart
  simp only [hhead, hkind, htoken]
  refine (if_neg (by simp [hstarted, hruns])).trans (if_neg ?_)
  show ¬ ((s.core core).wphase.isSome && (s.dirHit core p q.fmt).isSome) = true
  rcases hphase with hphase | hphase <;> simp [hphase]

end

theorem State.zeroSlot_core (s : State) (core ps : Nat) : (s.zeroSlot core ps).core core = (s.core core).zeroed ps 64 := by
  unfold State.zeroSlot
  rw [State.updCore_core, if_pos rfl, Core.zeroed]

/-- An MZERO performed leaves its slot zero with exact bounds (R371). -/
theorem State.zeroSlot_ended (s : State) (core ps : Nat) {q : SeqCmd} (hkind : q.kind = .zero) :
    let t := (s.zeroSlot core ps).endCmd core q none
    (∀ i < 64, ∀ j < 64, (t.core core).accWord ps i j = 0) ∧ (∀ i < 64, (t.core core).rowBound ps i = 0) ∧ t.mem = s.mem ∧
      ∀ x ∈ (t.core core).seq, ¬ (x.id = q.id ∧ x.onTeam = q.onTeam) := by
  intro t
  have hnot : ∀ o, q.kind ≠ .mout o := fun o => by rw [hkind]; exact SeqKind.noConfusion
  obtain ⟨hacc, hbnd⟩ := State.endCmd_slots hnot (s := s.zeroSlot core ps) (core := core) core
  rw [State.zeroSlot_core] at hacc hbnd
  have hrows := (s.core core).zeroed_row ps 64
  refine ⟨fun i hi j hj => ?_, fun i hi => ?_, State.endCmd_mem hnot, State.endCmd_gone hnot⟩
  · rw [Core.accWord_of_acc hacc]
    exact (hrows i hi).2 j hj
  · rw [Core.rowBound_of_accBnd hbnd]
    exact (hrows i hi).1

/-! ### Outputs that try again (R205) -/

theorem execMoutAonRetry_next {s : State} {core : Nat} {q : SeqCmd} {o : MoutParams} {rest : List (SeqCmd × MoutParams)}
    (h : ((s.core core).mouts true).filter (fun x => x.2.aon && (x.1.locked.isNone || x.1.rows == x.2.m) && s.cmdRuns x.1) = (q, o) :: rest) :
    execMoutAonRetry core s = .next (s.pumpMout core q o) := by
  unfold execMoutAonRetry
  rw [h]

/-! ### The end of a gang (R164) -/

/-- The gangs whose shares are not all over, and memory. -/
def State.ganged (s : State) : KMap Gang × List Host.Cell := (s.gangs, s.mem)

theorem State.scrCount_ganged (s : State) (core a : Nat) : (s.scrCount core a).ganged = s.ganged := by
  simp only [State.scrCount, State.scrPutBytes]
  refine foldl_keeps State.ganged _ (fun t e => ?_) _ s
  rfl

theorem State.carryFor_ganged (s : State) (p : Party) (a b bytes : Nat) : (s.carryFor p a b bytes).ganged = s.ganged := by
  obtain ⟨seams, grids, h⟩ := s.carryFor_only p a b bytes
  rw [h]
  rfl

/-- The device with a gang's end counted at every member that has not ended. -/
def State.gangCounted (s : State) (g : Gang) : State :=
  (g.members.filter fun h => (s.team h).life != .ended).foldl (fun s h => let t := s.team h
    (s.scrCount t.core (t.scrAddr g.evoff)).haulCores (.group g.team g.gid) (s.team g.team).core t.core 8) s

/-- The device with what stopped a gang's shares kept for the MWAIT of its group, unless its team has ended. -/
def State.gangStopped (s : State) (gang : Nat) (g : Gang) : State :=
  if (s.team g.team).life = .ended then s else s.updGrp (.group g.team g.gid) fun x =>
    { x with seqFaults := x.seqFaults ++ g.faults.map fun f => ⟨gang, g.slot, f.1, f.2⟩ }

theorem State.gangCounted_ganged (s : State) (g : Gang) : (s.gangCounted g).ganged = s.ganged := by
  unfold State.gangCounted
  refine foldl_keeps State.ganged _ (fun t h => ?_) _ s
  exact (State.carryFor_ganged ..).trans (State.scrCount_ganged ..)

theorem State.gangStopped_ganged (s : State) (gang : Nat) (g : Gang) : (s.gangStopped gang g).ganged = s.ganged := by
  unfold State.gangStopped
  split
  · rfl
  · exact Prod.ext (State.setGrp_gangs ..) (State.setGrp_mem ..)

theorem execGangCompletion_next {s : State} {gang : Nat} {g : Gang} (hgang : s.gangs.find? (·.1 == gang) = some (gang, g)) (hpending : g.pending = [])
    (hlive : ∀ h ∈ g.members, (s.team h).life ≠ .saving ∧ (s.team h).life ≠ .saved) :
    execGangCompletion gang s = .next { (s.gangCounted g).gangStopped gang g with gangs := s.gangs.filter fun e => e.1 != gang } := by
  have hgangs : ((s.gangCounted g).gangStopped gang g).gangs = s.gangs :=
    congrArg Prod.fst ((State.gangStopped_ganged ..).trans (State.gangCounted_ganged ..))
  rw [← hgangs]
  unfold execGangCompletion
  rw [hgang]
  exact if_neg (by simpa [hpending] using hlive)

end Sys2Proof.Machine
end

section
/-! The statement about the events of a core's sequencer (06 R149 to R164; 08 R204, R205; 10 R247, R248; 16 R365 to R372). -/

namespace Sys2Proof.Machine

/-- Settles O52, event by event: a K-step by the row that its operands give, every other event by its equation where it happens. -/
theorem sequencerEvents : Obligations.SequencerEvents := by
  unfold Obligations.SequencerEvents
  intro core q p o gang g ps head
  refine ⟨?zero, ?mout, ⟨?loop, fun g' rest => ⟨?waits, fun r => ?takes⟩⟩, ⟨?performs, ?tableStall, ⟨?bankStall, ?tableWait, ?bankWait, ?bankEnd⟩, ?table⟩, ?share, ?gang, ?retry⟩
  case zero =>
    rintro s ⟨⟨hhead, hruns⟩, hstarted, hkind⟩
    exact ⟨_, execSequencerCommandStart_zero hhead hruns hstarted hkind, s.zeroSlot_ended core _ hkind⟩
  case mout =>
    rintro s ⟨⟨hhead, hruns⟩, hstarted, hkind⟩
    exact execSequencerCommandStart_mout hhead hruns hstarted hkind
  case loop =>
    rintro s ⟨⟨⟨hhead, hruns⟩, hstarted, hkind⟩, hwanted⟩
    exact execSequencerCommandStart_loop hhead hruns hstarted hkind hwanted
  case waits =>
    rintro s ⟨⟨⟨hhead, hruns⟩, hstarted, hkind⟩, hwanted, hready⟩
    exact execSequencerCommandStart_waits hhead hruns hstarted hkind hwanted hready
  case takes =>
    rintro s ⟨⟨⟨hhead, hruns⟩, hstarted, hkind⟩, hwanted, hready⟩
    exact execSequencerCommandStart_takes hhead hruns hstarted hkind hwanted hready
  case performs =>
    rintro u see - hn s ⟨⟨⟨hhead, hruns⟩, hstarted, hparams⟩, htable, hquiet, hbank, hgood, hread⟩
    refine ⟨_, execKStep_performs hhead hruns hstarted hparams (SeqCmd.late_eq_false htable) (State.banksBusy_eq_false hquiet) hbank hgood hread, ?_⟩
    have hkind : ∀ o, q.kind ≠ .mout o := fun o hkind => by simp [SeqCmd.params, hkind] at hparams
    let x : KStep := ⟨u, q, p, see⟩
    obtain ⟨hmem, hslots, hqueue⟩ := u.performStep_leaves core p see hkind
    obtain ⟨hsame, hseq⟩ := Prod.mk.inj x.stepRows_keeps
    have hword : ∀ i j, ((u.performStep core q p see).core x.core).accWord x.slot i j = ((u.stepRows q p see q.step).core x.core).accWord x.slot i j :=
      fun i j => Core.accWord_of_acc (hslots x.core).1 ..
    have hbound : ∀ i, ((u.performStep core q p see).core x.core).rowBound x.slot i = ((u.stepRows q p see q.step).core x.core).rowBound x.slot i :=
      fun i => Core.rowBound_of_accBnd (hslots x.core).2 ..
    refine ⟨hmem.trans hsame, fun i _ j hj hout => ?outside, fun i _ hi => ?rowsBelow, ?queue,
      fun i hi hrace => ⟨fun hint => ?int, fun hfloat => ⟨fun hc hrow hall => ?finite, fun j hj hnan => ?nan⟩⟩⟩
    case outside =>
      obtain ⟨hrows, hcolumns⟩ := x.stepRows_other hn i
      exact (hword i j).trans (hout.elim (fun hi => (hrows hi).1 j hj) (hcolumns j hj))
    case rowsBelow =>
      obtain ⟨hrows, -⟩ := x.stepRows_other hn i
      exact (hbound i).trans (hrows hi).2
    case queue =>
      have hrows : ((u.stepRows q p see q.step).core core).seq = (u.core core).seq := congrFun hseq core
      rw [hrows] at hqueue
      exact hqueue
    case int =>
      obtain ⟨hval, hbnd⟩ := x.stepRows_int hn hi hrace hint
      exact ⟨fun j hj => (congrArg BitVec.toInt (hword i j)).trans (hval j hj), (hbound i).trans hbnd⟩
    case finite =>
      obtain ⟨hval, hbnd⟩ := x.stepRows_finite hn hi hrace hfloat hc hrow hall
      rw [← hbound i] at hbnd
      refine ⟨fun j hj => ?_, hbnd⟩
      have hj' := hval j hj
      rw [← hword i j] at hj'
      exact hj'
    case nan =>
      obtain ⟨hval, hbnd⟩ := x.stepRows_nan hn hi hrace hfloat hj hnan
      exact ⟨(hword i j).trans hval, (hbound i).trans hbnd⟩
  case tableStall =>
    rintro s ⟨⟨⟨hhead, hruns⟩, hstarted, hparams⟩, hfmt, htable, hstall, hbank, hquiet⟩
    have hstep := execKStep_stalls hhead hruns hstarted hparams
    rw [SeqCmd.late_iff.2 ⟨hfmt, htable⟩, State.banksBusy_eq_false hquiet, State.stallStep_table hstall hbank] at hstep
    exact hstep (by simp [SeqCmd.stallTurns, hstall])
  case bankStall =>
    rintro s ⟨⟨⟨hhead, hruns⟩, hstarted, hparams⟩, hlate, hbank, hbusy⟩
    have hstep := execKStep_stalls hhead hruns hstarted hparams
    rw [Bool.eq_false_iff.2 (mt SeqCmd.late_iff.1 hlate), State.banksBusy_iff.2 hbusy, State.stallStep_bank hbank] at hstep
    exact hstep (by simp [SeqCmd.stallTurns, hbank])
  case tableWait =>
    rintro s ⟨⟨⟨hhead, hruns⟩, hstarted, hparams⟩, hlate, hstall, hbank, hquiet⟩
    refine execKStep_waits hhead hruns hstarted hparams ?_ (.inl (SeqCmd.late_iff.2 hlate))
    rw [SeqCmd.late_iff.2 hlate, State.banksBusy_eq_false hquiet]
    simp [SeqCmd.stallTurns, hstall, hbank]
  case bankWait =>
    rintro s ⟨⟨⟨hhead, hruns⟩, hstarted, hparams⟩, hlate, hbank, hbusy⟩
    refine execKStep_waits hhead hruns hstarted hparams ?_ (.inr (State.banksBusy_iff.2 hbusy))
    rw [Bool.eq_false_iff.2 (mt SeqCmd.late_iff.1 hlate), State.banksBusy_iff.2 hbusy]
    simp [SeqCmd.stallTurns, hbank]
  case bankEnd =>
    rintro since till s ⟨⟨⟨hhead, hruns⟩, hstarted, hparams⟩, hlate, hquiet, hbank, hend, hlast, hover⟩
    have hstep := execKStep_stalls hhead hruns hstarted hparams
    rw [Bool.eq_false_iff.2 (mt SeqCmd.late_iff.1 hlate), State.banksBusy_eq_false hquiet, State.stallStep_bankEnds hbank] at hstep
    obtain ⟨hgrp, hrest⟩ := s.setCmd_issuer core q (fun g => { g with wrstall := countStall g.wrstall (s.bankWaited core since till) })
      (q' := { q with bankStall := none }) rfl rfl
    refine ⟨_, hstep (by simp [SeqCmd.stallTurns, hbank]), ?_, hrest⟩
    rw [hgrp, State.bankWaited_eq hend hlast hover]
    exact countStall_fields ..
  case table =>
    intro b u see
    refine ⟨?early, fun t0 => ?late⟩
    case early =>
      rintro s ⟨⟨⟨⟨hhead, hruns⟩, hstarted, hparams⟩, hfmt, hnext, hread⟩, hstall⟩
      exact execCb3TableArrival_early hhead hruns hstarted hparams hfmt hnext hread hstall
    case late =>
      rintro s ⟨⟨⟨⟨hhead, hruns⟩, hstarted, hparams⟩, hfmt, hnext, hread⟩, hstall⟩
      refine ⟨_, execCb3TableArrival_late hhead hruns hstarted hparams hfmt hnext hread hstall, ?_⟩
      obtain ⟨hgrp, hrest⟩ := u.setCmd_issuer core q (fun g => { g with cbstall := countStall g.cbstall (u.time - t0) }) (q' := q.filled p b see) rfl rfl
      refine ⟨?_, hrest⟩
      rw [hgrp]
      exact countStall_fields ..
  case share =>
    rintro id scr s ⟨⟨hhead, hruns⟩, hstarted, hkind, htoken, hphase⟩
    exact execGangShareStart_starts hhead hruns hstarted hkind htoken hphase
  case gang =>
    rintro s ⟨hgang, hpending, hlive⟩
    exact ⟨_, execGangCompletion_next hgang hpending hlive, rfl, congrArg Prod.snd ((State.gangStopped_ganged ..).trans (State.gangCounted_ganged ..))⟩
  case retry =>
    rintro rest s hretry
    exact execMoutAonRetry_next hretry

end Sys2Proof.Machine
end

section
/-! Misaligned and too high addresses of scalar accesses (07 R167, R168; 13 R299, R302, R303, R305): what the checks of a request of one
lane answer, each scalar access whose request fails them, and the statement about them. -/

namespace Sys2Proof.Machine

/-! ### The checks of a request of one lane (R167) -/

/-- A request of n bytes at an address by lane 0 alone. -/
structure MemReq.OneLane (q : MemReq) (n : Nat) (ea : DWord) : Prop where
  lanes : q.lanes = 1
  bytes : q.bytes = n
  addr : q.addr = Vector.replicate 32 ea

theorem MemReq.OneLane.va {q : MemReq} {n : Nat} {ea : DWord} (h : q.OneLane n ea) : q.va 0 = ea.toNat := by
  simp [MemReq.va, h.addr]

/-- What such a request's one lane passes or not. -/
theorem maskOf_first (f : Nat → Bool) : (maskOf fun i => (1 : Mask).getLsbD i && f i) = if f 0 then 1 else 0 := by
  refine BitVec.eq_of_getLsbD_eq fun i hi => ?_
  rw [maskOf_getLsbD _ hi]
  cases i with
  | zero => cases f 0 <;> decide
  | succ i =>
    have hout : (1 : Mask).getLsbD (i + 1) = false := by simp
    rw [hout]
    split
    · exact hout.symm
    · simp

section

variable {s : State} {q : MemReq} {n : Nat} {ea : DWord} (hq : q.OneLane n ea)
include hq

theorem State.addrFault_align (h : ea.toNat % n ≠ 0) : s.addrFault q = some (cAlign, BitVec.ofNat 64 (ea.toNat % 2 ^ 57), 1) := by
  have hfirst : (maskOf fun i => q.lanes.getLsbD i && q.va i % q.bytes != 0) = 1 := by
    rw [hq.lanes, maskOf_first, hq.va, hq.bytes, if_pos (bne_iff_ne.2 h)]
  have hlow : lowestLane 1 = 0 := by decide
  unfold State.addrFault
  extract_lets al ac
  rw [show al = 1 from hfirst, hlow, hq.va]
  exact if_pos (by decide)

theorem State.addrFault_access (halign : ea.toNat % n = 0) (hfar : 2 ^ 57 ≤ ea.toNat) :
    s.addrFault q = some (cAccess, BitVec.ofNat 64 (ea.toNat % 2 ^ 57), 1) := by
  have hnone : (maskOf fun i => q.lanes.getLsbD i && q.va i % q.bytes != 0) = 0 := by
    rw [hq.lanes, maskOf_first, hq.va, hq.bytes, halign]
    rfl
  have hlow : lowestLane 1 = 0 := by decide
  unfold State.addrFault
  extract_lets al ac
  have hac : ac = 1 := by
    unfold ac
    rw [hq.lanes, maskOf_first, hq.va, decide_eq_true hfar, Bool.true_or, if_pos rfl]
  rw [show al = 0 from hnone, hac, hlow, hq.va, if_neg (by decide)]
  exact if_pos (by decide)

end

/-! ### Scalar accesses whose request fails them (R299, R300, R303, R305) -/

theorem State.issue_fault {s : State} {q : MemReq} {c : Nat} {x : DWord} {m : Mask} (rel : Option Nat) (dest : Dest) (origin : Origin)
    (check : Option (DWord × Word)) (h : s.addrFault q = some (c, x, m)) : s.issue q rel dest origin check = .trap c x m := by
  unfold State.issue
  rw [h]

/-- An instruction that traps at issue where the checks of its request fail. -/
def TrapsByFault (i : Instr) (reads writes : List SNum) (q : State → MemReq) : Prop :=
  ∀ (s : State) (c : Nat) (x : DWord) (m : Mask), scalarReady i reads writes s = true → s.addrFault (q s) = some (c, x, m) → exec i s = trapAt s c x

/-- Such an instruction raises ALIGN, and ACCESS where its address is aligned. -/
theorem TrapsByFault.alignAccess {i : Instr} {reads writes : List SNum} {q : State → MemReq} (h : TrapsByFault i reads writes q) {ea : State → DWord} {n : Nat}
    (hq : ∀ s, (q s).OneLane n (ea s)) :
    TrapsWhen i reads writes (fun s => (ea s).toNat % n ≠ 0) 0x0D (fun s => BitVec.ofNat 64 ((ea s).toNat % 2 ^ 57)) ∧
      TrapsWhen i reads writes (fun s => (ea s).toNat % n = 0 ∧ 2 ^ 57 ≤ (ea s).toNat) 0x0E (fun s => BitVec.ofNat 64 ((ea s).toNat % 2 ^ 57)) :=
  ⟨fun s hready hmis => h s _ _ 1 hready (State.addrFault_align (hq s) hmis),
    fun s hready hfar => h s _ _ 1 hready (State.addrFault_access (hq s) hfar.1 hfar.2)⟩

section

variable (t base b : SNum) (sz sc ord : BitVec 2) (off : BitVec 10) (op : BitVec 4)

theorem scalarLoad_fault {s : State} {ea : DWord} {bytes c : Nat} {x : DWord} {m : Mask} {acq : Option (BitVec 2)}
    (h : s.addrFault { scalarReq s.who .load bytes ea with acq := acq } = some (c, x, m)) : scalarLoad s t ea bytes acq = trapAt s c x :=
  congrArg (fun r => scalarIssued s r (·.sempty t .pending)) (State.issue_fault none (.sreg t) .scalar none h)

theorem scalarStore_fault {s : State} {y ea : DWord} {bytes c : Nat} {x : DWord} {m : Mask} {rel : Option Nat}
    (h : s.addrFault { scalarReq s.who .store bytes ea with x := y } = some (c, x, m)) : scalarStore s y ea bytes rel = trapAt s c x := by
  unfold scalarStore
  rw [State.issue_fault rel .none .scalar none h]

theorem sld_trapsByFault : TrapsByFault (.sld t base sz off) [base] [t] (loadReq · base sz off none) := by
  intro s c x m hready hfault
  refine (gated_ready _ hready).trans ?_
  rw [smAddr_eq]
  exact scalarLoad_fault t hfault

theorem slda_trapsByFault : TrapsByFault (.slda t base sz sc off) [base] [t] (loadReq · base sz off (some sc)) := by
  intro s c x m hready hfault
  refine (gated_ready _ hready).trans ?_
  rw [smAddr_eq]
  exact scalarLoad_fault t hfault

theorem sst_trapsByFault : TrapsByFault (.sst t base sz off) [t, base] [] (storeReq · t base sz off) := by
  intro s c x m hready hfault
  refine (gated_ready _ hready).trans ?_
  rw [smAddr_eq]
  exact scalarStore_fault hfault

theorem sstl_trapsByFault : TrapsByFault (.sstl t base sz sc off) [t, base] [] (storeReq · t base sz off) := by
  intro s c x m hready hfault
  refine (gated_ready _ hready).trans ?_
  rw [smAddr_eq]
  exact scalarStore_fault hfault

/-- The request of an atomic: 8 bytes for the operations up to 9, else 4 (R303). -/
def satomReq (s : State) : MemReq :=
  { scalarReq s.who (.atomic op (op.toNat ≤ 9)) (if op.toNat ≤ 9 then 8 else 4) (s.rs base) with
    x := s.rs b, y := if op = 9 ∨ op = 12 then s.par b 1 else 0, acq := acqOf ord sc }

theorem satom_trapsByFault : TrapsByFault (.satom t base b op ord sc) ([base, b] ++ if op = 9 ∨ op = 12 then [blockReg b 1] else []) [t]
    (satomReq base b sc ord op) := by
  intro s c x m hready hfault
  refine (gated_ready _ hready).trans ?_
  exact congrArg (fun r => scalarIssued s r (·.sempty t .pending)) (State.issue_fault (relOf ord sc) (.sreg t) .scalar none hfault)

/-- A promoted acquire checks its address whether or not there is a core to probe. -/
theorem sacqp_trapsByFault : TrapsByFault (.sacqp t base b sc) [base, b] [t] (fun s => { scalarReq s.who .load 8 (s.rs base) with acq := some sc }) := by
  intro s c x m hready hfault
  refine (gated_ready _ hready).trans ?_
  extract_lets core q₀ q
  have hprobe : s.addrFault q = some (c, x, m) := hfault
  split
  · exact scalarLoad_fault t hfault
  · rw [hprobe]

/-! ### Loads from scratch (R168, R302) -/

theorem State.scratchFault_align {s : State} {team n : Nat} {ea : DWord} (h : ea.toNat % n ≠ 0) : s.scratchFault team ea n = some cAlign := if_pos h

theorem State.scratchFault_access {s : State} {team n : Nat} {ea : DWord} (halign : ea.toNat % n = 0) (hnone : s.scratchTarget team ea.toNat = none) :
    s.scratchFault team ea n = some cAccess := by
  unfold State.scratchFault
  rw [if_neg (not_not_intro halign), hnone]

/-- A load from scratch whose address fails a check. -/
theorem exec_slds_fault {s : State} {c : Nat} (hready : scalarReady (.slds t base sz off) [base] [t] s = true)
    (h : s.scratchFault s.who.teamOf (smEa s base sz off) (2 ^ sz.toNat) = some c) :
    exec (.slds t base sz off) s = trapAt s c (BitVec.ofNat 64 ((smEa s base sz off).toNat % 2 ^ 57)) := by
  have hinfo : ((smEa s base sz off).extractLsb' 0 57).setWidth 64 = BitVec.ofNat 64 ((smEa s base sz off).toNat % 2 ^ 57) :=
    BitVec.eq_of_toNat_eq (by simp)
  refine (gated_ready _ hready).trans ?_
  rw [smAddr_eq, ← hinfo]
  dsimp only
  rw [h]

end

/-- Settles O6: the request of a scalar access has one lane, and the checks of its address come before everything else that its instruction does. -/
theorem scalarAddressTraps : Obligations.ScalarAddressTraps := by
  unfold Obligations.ScalarAddressTraps
  intro t base b sz sc ord off op
  obtain ⟨hsld, hsld'⟩ := (sld_trapsByFault t base sz off).alignAccess fun _ => ⟨rfl, rfl, rfl⟩
  obtain ⟨hslda, hslda'⟩ := (slda_trapsByFault t base sz sc off).alignAccess fun _ => ⟨rfl, rfl, rfl⟩
  obtain ⟨hsst, hsst'⟩ := (sst_trapsByFault t base sz off).alignAccess fun _ => ⟨rfl, rfl, rfl⟩
  obtain ⟨hsstl, hsstl'⟩ := (sstl_trapsByFault t base sz sc off).alignAccess fun _ => ⟨rfl, rfl, rfl⟩
  obtain ⟨hsatom, hsatom'⟩ := (satom_trapsByFault t base b sc ord op).alignAccess fun _ => ⟨rfl, rfl, rfl⟩
  obtain ⟨hsacqp, hsacqp'⟩ := (sacqp_trapsByFault t base b sc).alignAccess fun _ => ⟨rfl, rfl, rfl⟩
  refine ⟨hsld, hsld', hslda, hslda', hsst, hsst', hsstl, hsstl', ?_, ?_, hsatom, hsatom', hsacqp, hsacqp'⟩
  · exact fun s hready hmis => exec_slds_fault t base sz off hready (State.scratchFault_align hmis)
  · exact fun s hready ⟨halign, hnone⟩ => exec_slds_fault t base sz off hready (State.scratchFault_access halign hnone)

end Sys2Proof.Machine
end

section
/-! Invalidations and the host's answers about pages (07 R188, R190 to R192): what applying an invalidation log leaves of the dies and of the
waiting invalidations, one equation for each way an event goes, and the statement about all of them. -/

namespace Sys2Proof.Machine

/-! ### What traffic and drains leave of the dies and of the waiting invalidations (R170, R190) -/

/-- The dies, and the invalidation requests that wait for room in their logs. -/
def State.invals (s : State) : (Nat → Die) × List (BitVec 20 × Nat × Nat) := (s.die, s.dev.invalWait)

section

variable (s : State)

theorem State.setDie_invals (n : Nat) (d : Die) : (s.setDie n d).invals = (Function.update s.die n d, s.dev.invalWait) := by
  refine Prod.ext (funext fun m => ?_) rfl
  show (s.setDie n d).die m = Function.update s.die n d m
  by_cases hm : m = n
  · rw [hm, State.die_setDie, Function.update_self]
  · rw [State.die_setDie_other _ _ hm, Function.update_of_ne hm]

@[simp] theorem State.haul_invals (p : Party) (core die bytes : Nat) : (s.haul p core die bytes).invals = s.invals := by
  unfold State.haul
  obtain ⟨_, _, h⟩ := (if die < 6 then s.drainTokens (s.tenantOf p) bytes else s).carryFor_only p (dieOfCore core) die bytes
  rw [h]
  split
  · unfold State.drainTokens
    split <;> rfl
  · rfl

@[simp] theorem State.sendReq_invals (p : BitVec 12) (t : TSent) : (s.sendReq p t).invals = s.invals := by
  unfold State.sendReq
  extract_lets x t
  obtain ⟨_, _, h⟩ := (s.setPeer p.toNat { x with sent := x.sent ++ [t], seqNext := x.seqNext + 1 }).transmit_only p t
  rw [h]
  rfl

@[simp] theorem State.drainEntry_invals (core : Nat) (e : CbEntry) : (s.drainEntry core e).invals = s.invals := by
  unfold State.drainEntry
  extract_lets w u
  split
  · rw [State.haulSector, State.haul_invals]
    rfl
  · split
    · rfl
    · rw [State.haul_invals, State.sendReq_invals]
      rfl

theorem State.drainAll_invals (core : Nat) (l : List CbEntry) : (s.drainAll core l).invals = s.invals :=
  foldl_keeps State.invals _ (fun t e => by split <;> simp) l s

/-! ### A die applies its log (R190) -/

/-- A translation that no invalidation of a list matches. -/
def survives (new : List Inval) (t : Trans) : Bool := !(new.any fun x => invalHits x t)

/-- A die without the translations that some invalidations match. -/
def Die.without (d : Die) (new : List Inval) : Die :=
  { d with
    tcache := d.tcache.filter (survives new)
    btlb := d.btlb.filterMap fun (k, l) => if (l.filter (survives new)).isEmpty then none else some (k, l.filter (survives new)) }

/-- The entries of a die's log that it has not applied yet. -/
def Die.news (d : Die) : List Inval := d.invlog.filter (!·.removed)

/-- A die that has applied its new entries, with what its log then holds. -/
def Die.applied (d : Die) (log : List Inval) : Die := { if d.news.isEmpty then d else d.without d.news with invlog := log }

theorem Die.applied_tcache (d : Die) (log : List Inval) : (d.applied log).tcache = d.tcache.filter (survives d.news) := by
  unfold Die.applied
  split
  · next hempty => exact (List.filter_eq_self.2 fun t _ => by rw [List.isEmpty_iff.1 hempty]; rfl).symm
  · rfl

theorem State.removeInvals_invals (die : Nat) (new : List Inval) :
    (s.removeInvals die new).invals = (Function.update s.die die ((s.die die).without new), s.dev.invalWait) := by
  refine (foldl_keeps State.invals _ (fun t e => ?_) _ _).trans (s.setDie_invals die ((s.die die).without new))
  exact t.drainAll_invals ..

/-- A die that applies its log keeps entries alone whose removal is done; other dies and the waiting requests stay. -/
theorem State.applyInvals_invals (die : Nat) : ∃ log, (∀ x ∈ log, x.removed = true) ∧
    (s.applyInvals die).invals = (Function.update s.die die ((s.die die).applied log), s.dev.invalWait) := by
  unfold State.applyInvals
  split
  · next hempty =>
    have hlog : (s.die die).invlog = [] := List.isEmpty_iff.1 hempty
    refine ⟨[], by simp, ?_⟩
    have hsame : (s.die die).applied [] = s.die die := by
      have hnews : (s.die die).news.isEmpty = true := by rw [Die.news, hlog]; rfl
      rw [Die.applied, if_pos hnews, ← hlog]
    rw [hsame, Function.update_eq_self]
    rfl
  · extract_lets new t log left die' u
    refine ⟨left, fun x hx => ?_, ?_⟩
    · obtain ⟨y, -, rfl⟩ := List.mem_map.1 (List.mem_filter.1 hx).1
      split
      · assumption
      · rfl
    · have ht : t.invals = (Function.update s.die die (if (s.die die).news.isEmpty then s.die die else (s.die die).without (s.die die).news), s.dev.invalWait) := by
        unfold t new Die.news
        split
        · rw [Function.update_eq_self]
          rfl
        · exact s.removeInvals_invals ..
      obtain ⟨hdie, hwait⟩ := Prod.mk.inj ht
      have hu : u.invals = (Function.update s.die die ((s.die die).applied left), s.dev.invalWait) := by
        unfold u die'
        rw [State.setDie_invals, hdie, hwait, Function.update_idem, Function.update_self]
        rfl
      split
      · exact hu
      · exact hu

theorem State.applyInvals_die_other {die n : Nat} (h : n ≠ die) : (s.applyInvals die).die n = s.die n := by
  obtain ⟨log, -, hinvals⟩ := s.applyInvals_invals die
  exact (congrFun (Prod.mk.inj hinvals).1 n).trans (Function.update_of_ne h ..)

theorem State.applyInvals_invalWait (die : Nat) : (s.applyInvals die).dev.invalWait = s.dev.invalWait := by
  obtain ⟨log, -, hinvals⟩ := s.applyInvals_invals die
  exact (Prod.mk.inj hinvals).2

theorem State.applyInvals_die (die : Nat) : ∃ log, (∀ x ∈ log, x.removed = true) ∧ (s.applyInvals die).die die = (s.die die).applied log := by
  obtain ⟨log, hlog, hinvals⟩ := s.applyInvals_invals die
  exact ⟨log, hlog, (congrFun (Prod.mk.inj hinvals).1 die).trans (Function.update_self ..)⟩

/-- A translation that an applied entry matches is gone from the cache. -/
theorem State.applyInvals_misses {die : Nat} {x : Inval} {y : Trans} (hx : x ∈ (s.die die).invlog) (hnew : x.removed = false)
    (hy : y ∈ ((s.applyInvals die).die die).tcache) : invalHits x y = false := by
  obtain ⟨log, -, hdie⟩ := s.applyInvals_die die
  rw [hdie, Die.applied_tcache] at hy
  have hkept := (List.mem_filter.1 hy).2
  rw [survives, Bool.not_eq_true', List.any_eq_false] at hkept
  exact Bool.eq_false_iff.2 (hkept x (List.mem_filter.2 ⟨hx, by rw [hnew]; rfl⟩))

end

/-! ### An invalidation request enters the logs (R190) -/

/-- An entry appended to a die's log. -/
def State.logInval (s : State) (x : Inval) (d : Nat) : State := s.setDie d { s.die d with invlog := (s.die d).invlog ++ [x] }

/-- The dies of a list take the entry once each. -/
theorem State.logInvals_invlog (x : Inval) (l : List Nat) (hl : l.Nodup) (s : State) (d : Nat) :
    ((l.foldl (fun t d => t.logInval x d) s).die d).invlog = (s.die d).invlog ++ if d ∈ l then [x] else [] := by
  induction l generalizing s with
  | nil => simp
  | cons a l ih =>
    obtain ⟨ha, hl⟩ := List.nodup_cons.1 hl
    rw [List.foldl_cons, ih hl]
    by_cases hd : d = a
    · subst hd
      rw [if_neg ha, if_pos List.mem_cons_self, State.logInval, State.die_setDie, List.append_nil]
    · rw [State.logInval, State.die_setDie_other _ _ hd]
      simp [hd]

/-- A device whose logs have room, when the oldest invalidation request enters them. -/
theorem State.acceptInvals_room {s : State} {pasid : BitVec 20} {va size : Nat} {rest : List (BitVec 20 × Nat × Nat)} (n : Nat)
    (hwait : s.dev.invalWait = (pasid, va, size) :: rest) (hroom : ∀ d < 6, (s.die d).invlog.length < 4096) :
    s.acceptInvals (n + 1) =
      (let x : Inval := { pasid := pasid, va := va, size := size, seq := s.handles, removed := false, ids := [], posted := [] }
       let t := { s with handles := s.handles + 1, dev := { s.dev with invalWait := rest } }
       (((t.liveDies.foldl (fun t d => t.logInval x d) t).logInval x 6).applyInvals 6).acceptInvals n) := by
  have hlive : ∀ d ∈ s.liveDies, ¬ 4096 ≤ (s.die d).invlog.length := fun d hd => by
    have hlt : d < 6 := List.mem_range.1 (List.mem_filter.1 hd).1
    exact Nat.not_le.2 (hroom d hlt)
  have hfull : (s.liveDies.filter fun d => 4096 ≤ (s.die d).invlog.length) = [] :=
    List.filter_eq_nil_iff.2 fun d hd => by simpa using hlive d hd
  have hnone : (s.liveDies.any fun d => 4096 ≤ (s.die d).invlog.length) = false :=
    List.any_eq_false.2 fun d hd => by simpa using hlive d hd
  rw [State.acceptInvals, hwait]
  dsimp only
  rw [hfull, List.foldl_nil, hnone]
  rfl

/-- The only waiting request enters the log of every live die. -/
theorem State.acceptInvals_single {s : State} {pasid : BitVec 20} {va size : Nat} (hwait : s.dev.invalWait = [(pasid, va, size)])
    (hroom : ∀ d < 6, (s.die d).invlog.length < 4096) :
    (s.acceptInvals 1).dev.invalWait = [] ∧ ∀ d < 6, s.dev.dmap.getLsbD d = true →
      ((s.acceptInvals 1).die d).invlog =
        (s.die d).invlog ++ [{ pasid := pasid, va := va, size := size, seq := s.handles, removed := false, ids := [], posted := [] }] := by
  rw [State.acceptInvals_room 0 hwait hroom]
  extract_lets x dev t
  rw [State.acceptInvals]
  refine ⟨?_, fun d hd hlive => ?_⟩
  · rw [State.applyInvals_invalWait]
    exact congrArg Dev.invalWait (foldl_keeps State.dev (fun t d => t.logInval x d) (fun _ _ => rfl) _ t)
  · have hmem : d ∈ t.liveDies := List.mem_filter.2 ⟨List.mem_range.2 hd, hlive⟩
    have hnodup : t.liveDies.Nodup := List.nodup_range.filter _
    rw [State.applyInvals_die_other _ (by omega), State.logInval, State.die_setDie_other _ _ (by omega), State.logInvals_invlog _ _ hnodup, if_pos hmem]
    rfl

/-! ### Translations and page responses, where they happen (R188, R191, R192) -/

theorem length_eraseDups_le {α : Type} [BEq α] (l : List α) : l.eraseDups.length ≤ l.length := by
  induction hn : l.length using Nat.strong_induction_on generalizing l with
  | _ n ih =>
    cases l with
    | nil => exact Nat.zero_le _
    | cons a l =>
      have hfilter := List.length_filter_le (fun b => !b == a) l
      rw [List.length_cons] at hn
      have hrest := ih _ (by omega) (l.filter fun b => !b == a) rfl
      rw [List.eraseDups_cons, List.length_cons]
      omega

/-- The first n entries of a table hold every entry of a part of at most n at its head. -/
theorem mem_keepEntries_append {n : Nat} {a b : List Trans} {t : Trans} (ht : t ∈ a) (h : a.length ≤ n) : t ∈ keepEntries n (a ++ b) := by
  unfold keepEntries
  extract_lets key keys
  refine List.mem_filter.2 ⟨List.mem_append_left b ht, ?_⟩
  have hkey : key t ∈ (a.map key).eraseDups := List.mem_eraseDups.2 (List.mem_map_of_mem ht)
  have hlen : (a.map key).eraseDups.length ≤ n := (length_eraseDups_le _).trans (by rwa [List.length_map])
  have hfirst : (a.map key).eraseDups ⊆ keys := fun k hk => by
    unfold keys
    rw [List.map_append, List.eraseDups_append, List.take_append, List.take_of_length_le hlen]
    exact List.mem_append_left _ hk
  exact List.contains_iff_mem.2 (hfirst hkey)

section

variable {s : State} {die : Fin 7} {t : Trans}

/-- An answer fills the cache with the entries of the requests it meets, unless there are too many of them (R188). -/
theorem State.mem_fillCache {die : Nat} {r : PageReq} {y : Trans} (hr : r ∈ (s.die die).reqs.filter (·.met t))
    (hy : y ∈ transEntries t (max (8192 * r.page) t.va)) :
    y ∈ ((s.fillCache die t).die die).tcache ∨
      65536 < (((s.die die).reqs.filter (·.met t)).flatMap fun r => transEntries t (max (8192 * r.page) t.va)).length := by
  unfold State.fillCache
  extract_lets d new
  rw [State.die_setDie]
  refine (Nat.lt_or_ge _ _).symm.imp_left fun hlen => mem_keepEntries_append ?_ ?_
  · exact List.mem_dedup.2 (List.mem_flatMap.2 ⟨r, hr, hy⟩)
  · exact (List.dedup_sublist _).length_le.trans hlen

/-- A translation for a page that waits for one (R188, R191). -/
theorem execAtsTranslationCompletion_asked (granted : Bool) (hformed : transFormed t = true)
    (hasked : ∃ r ∈ (s.die die.val).reqs, r.within t = true ∧ r.pri = false) :
    execAtsTranslationCompletion die t granted s =
      (let u := if granted then s.granted die.val t else s
       .next (u.setDie die.val { u.die die.val with reqs := (u.die die.val).reqs.map fun r => if r.within t then { r with pri := true } else r })) := by
  obtain ⟨r, hr, hwithin, hpri⟩ := hasked
  have hany : (s.die die.val).reqs.any (fun r => r.within t && !r.pri) = true := List.any_eq_true.2 ⟨r, hr, by rw [hwithin, hpri]; rfl⟩
  unfold execAtsTranslationCompletion
  simp only [hformed, hany]
  rfl

/-- A translation for no page that waits for one is ignored (R193). -/
theorem execAtsTranslationCompletion_unasked (granted : Bool) (hformed : transFormed t = true)
    (hnone : ∀ r ∈ (s.die die.val).reqs, r.within t = true → r.pri = true) : execAtsTranslationCompletion die t granted s = .next s := by
  have hany : (s.die die.val).reqs.any (fun r => r.within t && !r.pri) = false :=
    List.any_eq_false.2 fun r hr => by simpa using hnone r hr
  unfold execAtsTranslationCompletion
  simp only [hformed, hany]
  rfl

/-- A response to page requests of the die: the page is there, or each of them is refused (R192). -/
theorem execPageResponse_asked (granted : Bool) (hformed : transFormed t = true)
    (hasked : ∃ r ∈ (s.die die.val).reqs, r.within t = true ∧ r.pri = true) :
    execPageResponse die t granted s =
      .next (if granted then s.granted die.val t
        else ((s.die die.val).reqs.filter fun r => r.pri && r.within t).foldl (fun s r => s.refusePage die.val r) s) := by
  obtain ⟨r, hr, hwithin, hpri⟩ := hasked
  have hmem : r ∈ (s.die die.val).reqs.filter fun r => r.pri && r.within t := List.mem_filter.2 ⟨hr, by rw [hpri, hwithin]; rfl⟩
  unfold execPageResponse
  split
  · next hnil => exact absurd (hnil ▸ hmem) List.not_mem_nil
  · next hcons =>
    rw [hcons, hformed]
    cases granted <;> rfl

/-- A response to no page request is ignored (R193). -/
theorem execPageResponse_unasked (granted : Bool) (hnone : ∀ r ∈ (s.die die.val).reqs, r.within t = true → r.pri = false) :
    execPageResponse die t granted s = .next s := by
  have hnil : (s.die die.val).reqs.filter (fun r => r.pri && r.within t) = [] :=
    List.filter_eq_nil_iff.2 fun r hr hboth => by
      obtain ⟨hpri, hwithin⟩ := Bool.and_eq_true_iff.1 hboth
      exact Bool.false_ne_true ((hnone r hr hwithin).symm.trans hpri)
  unfold execPageResponse
  rw [hnil]

end

/-- Settles O45, event by event. -/
theorem translationEvents : Obligations.TranslationEvents := by
  unfold Obligations.TranslationEvents
  intro pasid va size die d t0
  refine ⟨?request, ?apply, ?applied, ⟨?denied, ?translated⟩, ?cache, ?ignored, ?noResponse, ?granted, ?refused⟩
  case request =>
    rintro s ⟨hwait, hroom⟩
    have hone : s.dev.invalWait ++ [(pasid, va, size)] = [(pasid, va, size)] := by rw [hwait]; rfl
    refine ⟨({ s with dev := { s.dev with invalWait := s.dev.invalWait ++ [(pasid, va, size)] } } : State).acceptInvals 1, ?_, ?_⟩
    · show execAtsInvalidationRequest pasid va size s = _
      unfold execAtsInvalidationRequest
      rw [hone]
      rfl
    · exact State.acceptInvals_single hone hroom
  case apply =>
    rintro s ⟨x, hx, hdone⟩
    refine if_pos (List.any_eq_true.2 ⟨x, hx, ?_⟩)
    rcases hdone with hnew | hperformed
    · rw [hnew]
      rfl
    · rw [hperformed]
      exact Bool.or_true _
  case applied =>
    refine fun s => ⟨?_, fun x hx hnew y hy => s.applyInvals_misses hx hnew hy⟩
    obtain ⟨log, hlog, hdie⟩ := s.applyInvals_die die.val
    rw [hdie]
    exact hlog
  case denied =>
    rintro s ⟨hformed, hasked⟩
    refine ⟨_, execAtsTranslationCompletion_asked false hformed hasked, ?_, rfl, rfl⟩
    rw [State.die_setDie]
    rfl
  case translated => exact fun s ⟨hformed, hasked⟩ => execAtsTranslationCompletion_asked true hformed hasked
  case cache =>
    refine fun s => ⟨?_, fun r hr y hy => State.mem_fillCache hr hy⟩
    rw [State.fillCache, State.die_setDie]
  case ignored => exact fun s ⟨hformed, hnone⟩ => execAtsTranslationCompletion_unasked true hformed hnone
  case noResponse => exact fun granted s hnone => execPageResponse_unasked granted hnone
  case granted => exact fun s ⟨hformed, hasked⟩ => execPageResponse_asked true hformed hasked
  case refused => exact fun s ⟨hformed, hasked⟩ => execPageResponse_asked false hformed hasked

end Sys2Proof.Machine
end

section
/-! Copies, refreshes and reach walks (06 R160 to R162; 07 R183, R184, R187; 08 R208, R209): what a scrub leaves alone, one equation for each
way an event goes, and the statement about all of them. -/

namespace Sys2Proof.Machine

/-! ### Copies, where they go on (R183, R184, R187) -/

section

variable {s : State} {core i : Nat} {c : Copy}

/-- A packet that its source gives and its destination takes. -/
theorem State.packet_moves {u v : State} {l : List CopyByte} {ds : List (BitVec 12)}
    (hread : { s with who := .group c.team c.gid }.packetRead (.group c.team c.gid) c (c.srcAt c.pos) c.packetLen = .ok u l)
    (hwrite : u.packetWrite (.group c.team c.gid) c (c.dstAt c.pos) l = .ok v ds) :
    s.packet core c = .next (v.updCopy core c.id fun c' => { c' with pos := c'.pos + c.packetLen, waiting := c'.waiting ++ ds }) := by
  unfold State.packet
  simp only [hread, hwrite]

/-- A packet whose source stops the copy. -/
theorem State.packet_stops {k : Nat} {n : DWord}
    (hread : { s with who := .group c.team c.gid }.packetRead (.group c.team c.gid) c (c.srcAt c.pos) c.packetLen = .stop k n) :
    s.packet core c = .next ({ s with who := .group c.team c.gid }.stopCopy core c k n) := by
  unfold State.packet
  simp only [hread]

theorem State.copyCount_none (s : State) (core : Nat) (p : Party) (h : c.ev = none) : s.copyCount core p c = .ok s () := by
  unfold State.copyCount
  rw [h]

/-- A counter in this device's memory is counted up at its home, behind what the core has buffered there. -/
theorem State.copyCount_here {p : Party} {v : DWord} {k : BitVec 2} {pa : Nat} (hkind : c.kind = .copy) (hev : c.ev = some (v, k))
    (hlook : s.lookAt p v.toNat true = .here pa) :
    s.copyCount core p c = .ok (((s.settleSector p v.toNat).homeAdd pa 1).haul p core (dieOfHome (s.homeOf pa)) 8) () := by
  unfold State.copyCount
  rw [hkind, hev]
  dsimp only
  rw [hlook]

variable (hcopy : (s.core core).copies[i]? = some c) (hstopped : c.stopped = none) (hruns : s.copyRuns c = true)
include hcopy hstopped hruns

theorem execCopyPacket_goes (hpos : c.pos < c.total) : execCopyPacket core i s = s.packet core c := by
  unfold execCopyPacket
  simp only [hcopy]
  exact if_neg (by simp [hstopped, hruns, hpos])

theorem execCopyCompletion_counts {u : State} (hdone : c.total ≤ c.pos) (hwaiting : c.waiting = [])
    (hcount : { s with who := .group c.team c.gid }.copyCount core (.group c.team c.gid) c = .ok u ()) :
    execCopyCompletion core i s =
      .next (if c.failed.isSome then u.updCopy core c.id fun c' => { c' with stopped := c'.failed, ev := none } else u.dropCopy core c.id) := by
  unfold execCopyCompletion
  simp only [hcopy]
  rw [if_neg (by simp [hstopped, hruns, hdone]), if_neg (by simp [hwaiting]), hcount]

end

/-! ### Refreshes (R161, R162) -/

/-- A scrub leaves memory alone: it changes its core, the errors of the weight store, and the error ring. -/
theorem State.scrubBanks_mem (s : State) (core : Nat) (bank : Nat → Bool) : (s.scrubBanks core bank).mem = s.mem := by
  unfold State.scrubBanks
  extract_lets here soft env t
  refine (foldl_keeps State.mem _ (fun u e => ?_) _ _).trans rfl
  exact (State.report_keeps ..).1

/-- An RFSH that is over has scrubbed its core, and the schedule of automatic refreshes follows it. -/
theorem execRfshComplete_over {s : State} {core : Nat} {e : DWord} (hend : (s.core core).rfshEnd = some e) (hover : e.toNat ≤ (s.coreCyc core).toNat) :
    execRfshComplete core s = .next ((s.scrubBanks core fun _ => true).updCore core fun k => { k with rfshEnd := none, wrsched := e + 65536 }) := by
  have hfound : s.rfshOver core = some e := by
    unfold State.rfshOver
    simp only [hend]
    exact if_pos (decide_eq_true hover)
  unfold execRfshComplete State.settleRfsh
  rw [hfound]
  rfl

/-! ### Reach walks (R208, R209) -/

/-- A walk after its root store, where it has one still to make. -/
def State.rootStored (s : State) (w : Nat) (x : Walk) : State := if x.rooted || x.rst == 0 then s else s.storeRoot w x

/-- A walk of scope 4 after the add to its version counter. -/
def State.versionAdded (s : State) (w : Nat) (x : Walk) : State :=
  if x.sigma = 4 then (match s.lookWalker w x.pasid x.ver.toNat true with | .here pa => s.homeAdd pa 1 | _ => s) else s

section

variable {s : State} {w : Nat} {x : Walk}

theorem State.rootStored_of_made (h : x.rooted = true ∨ x.rst = 0) : s.rootStored w x = s := if_pos (by simpa using h)

theorem State.rootStored_of_unmade (hrooted : x.rooted = false) (hrst : x.rst ≠ 0) : s.rootStored w x = s.storeRoot w x :=
  if_neg (by simpa [hrooted] using hrst)

theorem State.versionAdded_of_lt (h : x.sigma < 4) : s.versionAdded w x = s := if_neg (Nat.ne_of_lt h)

theorem State.versionAdded_here {pa : Nat} (hsigma : x.sigma = 4) (h : s.lookWalker w x.pasid x.ver.toNat true = .here pa) :
    s.versionAdded w x = s.homeAdd pa 1 := by
  unfold State.versionAdded
  rw [if_pos hsigma, h]

end

theorem State.storeRoot_here {s : State} {w pa : Nat} {x : Walk} (h : s.lookWalker w x.pasid x.rst.toNat true = .here pa) :
    s.storeRoot w x = ((s.homeWrite pa 8 x.root.toNat).carry w (dieOfHome (s.homeOf pa)) 8).setWalk w { x with rooted := true } := by
  unfold State.storeRoot
  rw [h]

/-- A root store in this device changes its own walk alone, and that only in that it is made. -/
theorem State.storeRoot_walks {s : State} {w pa : Nat} {x : Walk} (h : s.lookWalker w x.pasid x.rst.toNat true = .here pa) :
    ((s.storeRoot w x).die w).walks = (s.die w).walks.map fun y => if y.seq = x.seq then { x with rooted := true } else y := by
  obtain ⟨_, hcarry⟩ := (s.homeWrite pa 8 x.root.toNat).carry_only w (dieOfHome (s.homeOf pa)) 8
  rw [State.storeRoot_here h, State.setWalk, State.die_setDie, hcarry]
  rfl

theorem State.rootDone_of_none {s : State} {y : Walk} (h : y.rootAt = none) : s.rootDone y = true := by
  unfold State.rootDone
  rw [h]

/-- No root store of the walk is on its way once it is made in this device. -/
theorem State.rootStored_roots {s : State} {w : Nat} {x : Walk} (hmine : x.rootAt = none) (hroots : ∀ y ∈ (s.die w).walks, y.seq = x.seq → y.rootAt = none)
    (hroot : x.rooted = false → x.rst ≠ 0 → ∃ pa, s.lookWalker w x.pasid x.rst.toNat true = .here pa) :
    ∀ y ∈ ((s.rootStored w x).die w).walks, y.seq = x.seq → y.rootAt = none := by
  by_cases hmade : x.rooted = true ∨ x.rst = 0
  · rw [State.rootStored_of_made hmade]
    exact hroots
  · obtain ⟨hunmade, hrst⟩ := not_or.1 hmade
    have hrooted : x.rooted = false := Bool.eq_false_iff.2 hunmade
    obtain ⟨pa, hpa⟩ := hroot hrooted hrst
    rw [State.rootStored_of_unmade hrooted hrst, State.storeRoot_walks hpa]
    intro y hy hseq
    obtain ⟨z, hz, rfl⟩ := List.mem_map.1 hy
    by_cases hz' : z.seq = x.seq
    · rw [if_pos hz']
      exact hmine
    · rw [if_neg hz'] at hseq
      exact absurd hseq hz'

section

variable {s : State} {w : Fin 7} {i : Nat} {x : Walk} (hwalk : (s.die w.val).walks[i]? = some x)
include hwalk

theorem execReachWalkStep_object {o : DWord} {rest : List DWord} (hstamped : x.stamped = false) (hfailed : x.failed = false) (hscan : x.scan = none)
    (hqueue : x.queue = o :: rest) : execReachWalkStep w i s = .next (s.stampObject w.val x o rest) := by
  unfold execReachWalkStep
  simp only [hwalk, hstamped, hfailed, hscan, hqueue]
  rfl

theorem execReachWalkStep_words {o : DWord} {len k : Nat} (hstamped : x.stamped = false) (hfailed : x.failed = false)
    (hscan : x.scan = some (o, len, k)) : execReachWalkStep w i s = .next (s.scanObject w.val x o len (len - k)) := by
  unfold execReachWalkStep
  simp only [hwalk, hstamped, hfailed, hscan]
  rfl

theorem execReachWalkEnd_failed (hfailed : x.failed = true) : execReachWalkEnd w i s = .next (s.walkResult w.val x) := by
  unfold execReachWalkEnd
  simp only [hwalk]
  exact if_pos hfailed

/-- A stamped walk no store of which is on its way ends, where its root and its version counter lie in this device. -/
theorem execReachWalkEnd_ends (hfailed : x.failed = false) (hstamped : x.stamped = true) (hdeps : ∀ d ∈ x.deps, s.stamping d.1 d.2 = false)
    (hroots : ∀ y ∈ (s.die w.val).walks, y.seq = x.seq → y.rootAt = none)
    (hroot : x.rooted = false → x.rst ≠ 0 → ∃ pa, s.lookWalker w.val x.pasid x.rst.toNat true = .here pa)
    (hver : x.sigma = 4 → ∃ pa, s.lookWalker w.val x.pasid x.ver.toNat true = .here pa) :
    execReachWalkEnd w i s = .next (((s.rootStored w.val x).versionAdded w.val x).walkResult w.val x) := by
  have hmine : x.rootAt = none := hroots x (List.mem_of_getElem? hwalk) rfl
  have hmet : (x.deps.any fun d => s.stamping d.1 d.2) = false := List.any_eq_false.2 fun d hd => by simp [hdeps d hd]
  have hstored : (((s.rootStored w.val x).die w.val).walks.all fun y => y.seq != x.seq || (s.rootStored w.val x).rootDone y) = true := by
    refine List.all_eq_true.2 fun y hy => ?_
    by_cases hseq : y.seq = x.seq
    · rw [State.rootDone_of_none (State.rootStored_roots hmine hroots hroot y hy hseq), Bool.or_true]
    · simp [hseq]
  unfold execReachWalkEnd
  simp only [hwalk]
  rw [if_neg (by simp [hfailed]), if_neg (by simp [hstamped, hmet]), if_neg ?noRootPage, if_neg ?noVersionPage, if_neg ?notBusy]
  · refine if_neg fun hwaits => ?_
    obtain ⟨-, hpending⟩ := Bool.and_eq_true_iff.1 hwaits
    rw [Bool.not_eq_true'] at hpending
    exact Bool.false_ne_true (hpending.symm.trans hstored)
  case noRootPage =>
    rintro ⟨hrooted, hrst, hneed⟩
    obtain ⟨pa, hpa⟩ := hroot (by simpa using hrooted) hrst
    simp [hpa] at hneed
  case noVersionPage =>
    rintro ⟨hsigma, hneed⟩
    obtain ⟨pa, hpa⟩ := hver hsigma
    simp [hpa] at hneed
  case notBusy =>
    rw [State.rootDone_of_none hmine]
    by_cases hrooted : x.rooted = true
    · simp [hrooted]
    · by_cases hrst : x.rst = 0
      · simp [hrst]
      · obtain ⟨pa, hpa⟩ := hroot (Bool.eq_false_iff.2 hrooted) hrst
        simp [hpa]

end

/-- Settles O51, event by event. -/
theorem engineEvents : Obligations.EngineEvents := by
  unfold Obligations.EngineEvents
  intro core i c bank w x
  extract_lets p goes
  refine ⟨?packet, ?packetStop, ?done, ?doneFailed, ?noCounter, ?counter, ?automatic, ?rfsh, ⟨?object, ?words, ?failed, ?unrooted, ?stored⟩⟩
  case packet =>
    rintro u l v ds s ⟨⟨hcopy, hstopped, hruns⟩, hpos, hread, hwrite⟩
    exact (execCopyPacket_goes hcopy hstopped hruns hpos).trans (State.packet_moves hread hwrite)
  case packetStop =>
    rintro k n s ⟨⟨hcopy, hstopped, hruns⟩, hpos, hread⟩
    exact (execCopyPacket_goes hcopy hstopped hruns hpos).trans (State.packet_stops hread)
  case done =>
    rintro u s ⟨⟨hcopy, hstopped, hruns⟩, hdone, hwaiting, hfailed, hcount⟩
    refine (execCopyCompletion_counts hcopy hstopped hruns hdone hwaiting hcount).trans ?_
    rw [hfailed]
    rfl
  case doneFailed =>
    rintro u s ⟨⟨hcopy, hstopped, hruns⟩, hdone, hwaiting, hfailed, hcount⟩
    refine (execCopyCompletion_counts hcopy hstopped hruns hdone hwaiting hcount).trans ?_
    rw [if_pos (Option.isSome_iff_ne_none.2 hfailed)]
  case noCounter => exact fun s hev => s.copyCount_none core p hev
  case counter => exact fun s v k pa hkind hev hlook => State.copyCount_here hkind hev hlook
  case automatic => exact fun s hdue => if_pos hdue
  case rfsh =>
    rintro e s ⟨hend, hover⟩
    refine ⟨_, execRfshComplete_over hend hover, ?_, ?_, ?_⟩
    · simp
    · simp
    · exact (State.updCore_mem ..).trans (s.scrubBanks_mem ..)
  case object =>
    rintro o rest s ⟨hwalk, hstamped, hfailed, hscan, hqueue⟩
    exact execReachWalkStep_object hwalk hstamped hfailed hscan hqueue
  case words =>
    rintro o len k s ⟨hwalk, hstamped, hfailed, hscan⟩
    exact execReachWalkStep_words hwalk hstamped hfailed hscan
  case failed => exact fun s ⟨hwalk, hfailed⟩ => execReachWalkEnd_failed hwalk hfailed
  case unrooted =>
    rintro s ⟨⟨hwalk, hfailed, hstamped, hdeps, hroots⟩, hrst, hsigma⟩
    refine (execReachWalkEnd_ends hwalk hfailed hstamped hdeps hroots (fun _ h => absurd hrst h) (by omega)).trans ?_
    rw [State.rootStored_of_made (.inr hrst), State.versionAdded_of_lt hsigma]
  case stored =>
    refine fun pa => ⟨?_, ?_⟩
    · rintro s ⟨⟨hwalk, hfailed, hstamped, hdeps, hroots⟩, hrooted, hrst, hsigma, hlook⟩
      refine (execReachWalkEnd_ends hwalk hfailed hstamped hdeps hroots (fun _ _ => ⟨pa, hlook⟩) (by omega)).trans ?_
      rw [State.rootStored_of_unmade hrooted hrst, State.storeRoot_here hlook, State.versionAdded_of_lt hsigma]
    · rintro s ⟨⟨hwalk, hfailed, hstamped, hdeps, hroots⟩, hrst, hsigma, hlook⟩
      refine (execReachWalkEnd_ends hwalk hfailed hstamped hdeps hroots (fun _ h => absurd hrst h) (fun _ => ⟨pa, hlook⟩)).trans ?_
      rw [State.rootStored_of_made (.inr hrst), State.versionAdded_here hsigma hlook]

end Sys2Proof.Machine
end

section
/-! Traps that a lane word raises at issue (07 R167, R168; 10 R242, R243; 11 R255, R256; 15 R343, R344): what such a trap leaves, results and
quantised elements that breach, requests with misaligned lanes, and the statement about them. -/

namespace Sys2Proof.Machine

/-! ### A word that traps having performed nothing (R255, R256) -/

/-- A lane word has raised a cause in the lanes of a mask: its trap l waits for delivery and its record is marked with it; of the device
only the executing group and the counter of handles differ, of the group only its traps and that record. -/
structure LaneRun.Raised (x : LaneRun) (s t : State) (cause : Nat) (mask : Mask) (l : LaneTrap) : Prop where
  waits : l ∈ t.cur.laneTraps
  cause : l.cause = BitVec.ofNat 8 cause
  mask : l.mask = mask
  redo : l.redo = x.allRedo
  word : l.word = x.q.pc
  group : t.cur = { s.cur with laneTraps := t.cur.laneTraps, block := s.cur.block.map (Block.mark · x.pos l.id) }
  device : ∃ handles teams streams, t = { s with handles := handles, teams := teams, streams := streams }

section

variable {x : LaneRun} {s t : State} {cause : Nat} {mask : Mask} {l : LaneTrap} (h : x.Raised s t cause mask l)
include h

theorem LaneRun.Raised.vregs : t.cur.vregs = s.cur.vregs := by rw [h.group]

theorem LaneRun.Raised.preds : t.cur.preds = s.cur.preds := by rw [h.group]

theorem LaneRun.Raised.outst : t.cur.outst = s.cur.outst := by rw [h.group]

theorem LaneRun.Raised.block : t.cur.block = s.cur.block.map (Block.mark · x.pos l.id) := by rw [h.group]

theorem LaneRun.Raised.mem : t.mem = s.mem := by
  obtain ⟨_, _, _, ht⟩ := h.device
  rw [ht]

theorem LaneRun.Raised.cores : t.cores = s.cores := by
  obtain ⟨_, _, _, ht⟩ := h.device
  rw [ht]

end

/-- A cause that ends no grid leaves a lane trap to the group. -/
theorem State.raiseLane_waits {s : State} {p : Party} {l : LaneTrap} (hcause : l.cause.toNat ≠ cMemerr) :
    s.raiseLane p l = s.updGrp p fun g => { g with laneTraps := if l.slot = 0 then l :: g.laneTraps else g.laneTraps ++ [l] } := by
  have hclass : causeClass l.cause.toNat ≠ .gridEnding := by
    unfold causeClass
    rw [if_neg (show ¬ l.cause.toNat = 0x13 from hcause)]
    split <;> decide
  unfold State.raiseLane
  rw [State.noteCause, if_neg hcause]
  exact if_neg fun h => hclass (eq_of_beq h)

/-- The trap that such a word leaves. -/
def LaneRun.trapLeft (x : LaneRun) (s : State) (cause : Nat) (info : DWord) (mask : Mask) : LaneTrap :=
  { id := s.handles, cause := BitVec.ofNat 8 cause, info := info, mask := mask, redo := x.allRedo, word := x.q.pc, slot := x.b.slotOf x.pos,
    second := x.q.second, first := x.pairs, empties := [], twin := s.cur.laneTraps.isEmpty }

/-- Outside a trap block such a word leaves its trap to the group. -/
theorem LaneRun.trap_raises {x : LaneRun} {s : State} {cause : Nat} {info : DWord} {mask : Mask} (hblock : x.b.entry.trap = false)
    (hcause : (BitVec.ofNat 8 cause).toNat ≠ cMemerr) : ∃ t l, x.trap s cause info mask = .next t ∧ x.Raised s t cause mask l := by
  let l := x.trapLeft s cause info mask
  let u := { s with handles := s.handles + 1 }.updCur fun g => { g with block := g.block.map (Block.mark · x.pos l.id) }
  let t := u.updGrp s.who fun g => { g with laneTraps := if l.slot = 0 then l :: g.laneTraps else g.laneTraps ++ [l] }
  have hwho : u.who = s.who := State.updCur_who ..
  have hu : u.grp s.who = { s.cur with block := s.cur.block.map (Block.mark · x.pos l.id) } := by
    have hcur : u.cur = _ := State.cur_updCur ..
    rwa [State.cur, hwho] at hcur
  have ht : t.cur = { u.grp s.who with laneTraps := if l.slot = 0 then l :: (u.grp s.who).laneTraps else (u.grp s.who).laneTraps ++ [l] } := by
    rw [State.cur, show t.who = s.who from (State.updGrp_who ..).trans hwho]
    exact State.updGrp_grp ..
  have htrap : x.trap s cause info mask = .next t := by
    unfold LaneRun.trap laneTrapOut
    rw [hblock, if_neg Bool.false_ne_true]
    exact congrArg Host.Outcome.next (State.raiseLane_waits (l := l) hcause)
  refine ⟨t, l, htrap, ⟨?waits, rfl, rfl, rfl, rfl, ?group, ?device⟩⟩
  case waits =>
    rw [ht]
    dsimp only
    split <;> simp
  case group => rw [ht, hu]
  case device => exact ⟨_, _, _, (State.setGrp_only ..).trans (by rw [show u = _ from State.setGrp_only ..])⟩

/-- Some slot passes a test. -/
theorem maskOf_ne_zero {f : Nat → Bool} : maskOf f ≠ 0 ↔ ∃ n < 32, f n = true := by
  rw [Ne, maskOf_eq_zero]
  simp

/-! ### Results and quantised elements that breach (10 R242, R243) -/

/-- The lanes whose written results breach are those of the mask in which the write's check traps. -/
theorem LaneRun.write_breaches {x : LaneRun} {f : Nat → LaneRes} (s : State) (kind : Nat) (hchk : (allow x.c.alw).chkall = true)
    (hbte : (allow x.c.alw).bte = true) (hbreach : x.breaching f ≠ []) :
    ∃ info mask, x.write s false kind f = x.trap s cBreach info mask ∧ ∀ n < 32, mask.getLsbD n = (x.breaching f).contains n := by
  have hbad := x.write_bad false f
  unfold LaneRun.write
  extract_lets res at? a scalar low checked bad
  have hne : bad ≠ 0 := fun hzero => by
    have := hbad.1 hzero
    simp [hchk, hbreach] at this
  refine ⟨_, bad, if_pos ⟨hne, hbte⟩, fun n hn => ?_⟩
  unfold bad
  rw [maskOf_getLsbD _ hn, Bool.eq_iff_iff]
  cases hp : x.perf.getLsbD n with
  | false => simp [LaneRun.breaching, mem_lanesOf, hp]
  | true => simp [LaneRun.breaching, mem_lanesOf, hp, hn, checked, a, hchk, scalar, low, res]

/-- A word that writes one register of what g gives in its lanes traps where that breaches. -/
theorem vecOp_breaches {i : Instr} {r : LaneRow} {w : LaneWord} {f : State → LaneRun → Nat → LaneRes} {g : LaneCtx → Nat → LaneRes}
    (hrow : laneRow i = some (r, w)) (hexec : ∀ s, exec i s = vecOp i g s) (hres : ∀ s x, x.c.w = w → f s x = g x.c) : LaneBreaches i f := by
  intro s x hready hblock hchk hbte hbreach
  have hf : f s x = g x.c := hres s x (laneReady_word hready hrow).1
  rw [hf] at hbreach ⊢
  obtain ⟨info, mask, hwrite, hmask⟩ := x.write_breaches s 0 hchk hbte hbreach
  obtain ⟨t, l, htrap, h⟩ := x.trap_raises (s := s) (cause := cBreach) (info := info) (mask := mask) hblock (by decide)
  refine ⟨t, l, ?_, h.waits, h.cause, fun n hn => ?_, h.redo, h.word, h.vregs, h.preds, h.block, h.mem⟩
  · rw [hexec, vecOp, laneGo_ready _ hready, hwrite, htrap]
  · rw [h.mask, hmask n hn]

/-- A performed lane whose element of the quantised block breaches, as QBLK would write it. -/
def LaneRun.elementBreaches (x : LaneRun) (n : Nat) : Bool :=
  let el : QElem := ((qblkOf x.c).2[n]?).getD ⟨0, none, .nan, none⟩
  x.perf.getLsbD n && breaches (allow x.c.alw) (roundUpB16 el.bnd) el.y

/-- QBLK traps in the lanes whose elements breach. -/
theorem execQblk_breaches {w : LaneWord} {s : State} {x : LaneRun} (hready : laneReady (.qblk w) s = some x)
    (hchk : (allow x.c.alw).chkall = true) (hbte : (allow x.c.alw).bte = true) (hbreach : maskOf x.elementBreaches ≠ 0) :
    ∃ info, exec (.qblk w) s = x.trap s cBreach info (maskOf x.elementBreaches) := by
  have hbad : (maskOf fun n => (allow x.c.alw).chkall && x.perf.getLsbD n &&
      breaches (allow x.c.alw) (roundUpB16 (((qblkOf x.c).2[n]?).getD ⟨0, none, .nan, none⟩).bnd) (((qblkOf x.c).2[n]?).getD ⟨0, none, .nan, none⟩).y) =
      maskOf x.elementBreaches := by
    rw [hchk]
    rfl
  rw [show exec (.qblk w) s = _ from laneGo_ready _ hready]
  dsimp only
  rw [hbad]
  exact ⟨_, if_pos ⟨hbreach, hbte⟩⟩

/-! ### Requests with misaligned lanes (07 R167, R168) -/

/-- A lane that a request performs and whose address is no multiple of its bytes. -/
def MemReq.misaligned (q : MemReq) (n : Nat) : Bool := q.lanes.getLsbD n && q.va n % q.bytes != 0

section

variable {s : State} {q : MemReq} (h : maskOf q.misaligned ≠ 0)
include h

theorem MemReq.lanes_ne_zero : q.lanes ≠ 0 := fun hzero =>
  h ((maskOf_eq_zero _).2 fun n _ => by simp [MemReq.misaligned, hzero])

theorem State.addrFault_misaligned :
    s.addrFault q = some (cAlign, BitVec.ofNat 64 (q.va (lowestLane (maskOf q.misaligned)) % 2 ^ 57), maskOf q.misaligned) := if_pos h

theorem State.scratchFaults_misaligned (team : Nat) :
    s.scratchFaults team q = some (cAlign, BitVec.ofNat 64 (q.va (lowestLane (maskOf q.misaligned))), maskOf q.misaligned) := if_pos h

end

/-- A lane access that raises ALIGN in the misaligned lanes of its request. -/
def AlignsLanes (i : Instr) (req : LaneRun → State → MemReq) : Prop :=
  ∀ (s : State) (x : LaneRun), laneReady i s = some x → maskOf (req x s).misaligned ≠ 0 →
    ∃ info, exec i s = x.trap s cAlign info (maskOf (req x s).misaligned)

section

variable {i : Instr} {addr : LaneCtx → Nat → DWord}

theorem laneLoad_alignsLanes (hexec : ∀ s, exec i s = laneLoad i addr s) : AlignsLanes i fun x s => x.loadReq s (addr x.c) := by
  intro s x hready hmis
  have hfault := State.issue_fault none x.dest x.origin x.check (State.addrFault_misaligned (s := s) hmis)
  exact ⟨_, (hexec s).trans ((laneGo_ready _ hready).trans ((if_neg (MemReq.lanes_ne_zero hmis)).trans (congrArg (fun r => x.issued s r _) hfault)))⟩

theorem laneStore_alignsLanes (hexec : ∀ s, exec i s = laneStore i addr s) : AlignsLanes i fun x s => x.storeReq s (addr x.c) := by
  intro s x hready hmis
  have hfault := State.addrFault_misaligned (s := s) hmis
  exact ⟨_, (hexec s).trans ((laneGo_ready _ hready).trans ((if_neg (MemReq.lanes_ne_zero hmis)).trans (congrArg (fun r => x.checked s r _ _) hfault)))⟩

end

section

variable (w : LaneWord)

theorem lds_alignsLanes : AlignsLanes (.lds w) fun x s => x.loadReq s x.c.addrScratch := by
  intro s x hready hmis
  obtain ⟨-, rfl, -⟩ := laneReady_word hready rfl
  have hfault := State.scratchFaults_misaligned (s := s) hmis s.who.teamOf
  have hperf : x.perf ≠ 0 := MemReq.lanes_ne_zero hmis
  rw [show exec (.lds x.w) s = _ from laneGo_ready _ hready]
  dsimp only [LaneRun.loadReq] at hfault ⊢
  rw [if_neg hperf, hfault]
  exact ⟨_, rfl⟩

theorem sts_alignsLanes : AlignsLanes (.sts w) fun x s => x.storeReq s x.c.addrScratch := by
  intro s x hready hmis
  obtain ⟨-, rfl, -⟩ := laneReady_word hready rfl
  have hfault := State.scratchFaults_misaligned (s := s) hmis s.who.teamOf
  exact ⟨_, (laneGo_ready _ hready).trans ((if_neg (MemReq.lanes_ne_zero hmis)).trans (congrArg (fun r => x.checked s r _ _) hfault))⟩

end

/-- Outside a trap block the misaligned lanes of such an access have raised ALIGN, and the access has issued nothing. -/
theorem AlignsLanes.raises {i : Instr} {req : LaneRun → State → MemReq} (h : AlignsLanes i req) (hlanes : ∀ x s, (req x s).lanes = x.perf)
    (s : State) (x : LaneRun) (hready : laneReady i s = some x) (hblock : x.b.entry.trap = false) :
    let q := req x s
    let mis (n : Nat) : Bool := x.perf.getLsbD n && q.va n % q.bytes != 0
    (∃ n < 32, mis n = true) → ∃ t l, exec i s = .next t ∧ l ∈ t.cur.laneTraps ∧ l.cause = 0x0D ∧ (∀ n < 32, l.mask.getLsbD n = mis n) ∧
      l.redo = x.allRedo ∧ l.word = x.q.pc ∧ t.cur.outst = s.cur.outst ∧ t.cur.vregs = s.cur.vregs ∧ t.mem = s.mem ∧ t.cores = s.cores := by
  intro q mis hmis
  have hq : mis = q.misaligned := by
    unfold mis
    rw [← hlanes x s]
    rfl
  rw [hq] at hmis ⊢
  obtain ⟨info, hexec⟩ := h s x hready (maskOf_ne_zero.2 hmis)
  obtain ⟨t, l, htrap, hl⟩ := LaneRun.trap_raises (s := s) (cause := cAlign) (info := info) (mask := maskOf q.misaligned) hblock (by decide)
  exact ⟨t, l, hexec.trans htrap, hl.waits, hl.cause, fun n hn => hl.mask ▸ maskOf_getLsbD _ hn, hl.redo, hl.word, hl.outst, hl.vregs, hl.mem, hl.cores⟩

/-- Settles O28: each word traps before it has performed anything, and its trap names the lanes that breach or are misaligned. -/
theorem laneTraps : Obligations.LaneTraps := by
  unfold Obligations.LaneTraps
  refine ⟨fun w => ?results, fun w s x hready hblock => ?quantised, fun w => ?misaligned⟩
  case results =>
    extract_lets ia ib a b c
    refine ⟨?_, ?_, ?_, ?_, ?_, ?_, ?_⟩
    all_goals exact vecOp_breaches (w := w) rfl (fun _ => rfl) (by rintro s x rfl; rfl)
  case quantised =>
    intro el bad hchk hbte hbreach
    obtain ⟨info, hexec⟩ := execQblk_breaches hready hchk hbte (maskOf_ne_zero.2 hbreach)
    obtain ⟨t, l, htrap, h⟩ := LaneRun.trap_raises (s := s) (cause := cBreach) (info := info) (mask := maskOf x.elementBreaches) hblock (by decide)
    exact ⟨t, l, hexec.trans htrap, h.waits, h.cause, fun n hn => h.mask ▸ maskOf_getLsbD _ hn, h.redo, h.word, h.vregs, h.mem⟩
  case misaligned =>
    have hload {i : Instr} {addr : LaneCtx → Nat → DWord} (hexec : ∀ s, exec i s = laneLoad i addr s) :=
      (laneLoad_alignsLanes hexec).raises fun _ _ => rfl
    have hstore {i : Instr} {addr : LaneCtx → Nat → DWord} (hexec : ∀ s, exec i s = laneStore i addr s) :=
      (laneStore_alignsLanes hexec).raises fun _ _ => rfl
    exact ⟨hload fun _ => rfl, hload fun _ => rfl, hstore fun _ => rfl, hstore fun _ => rfl,
      (lds_alignsLanes w).raises fun _ _ => rfl, (sts_alignsLanes w).raises fun _ _ => rfl⟩

end Sys2Proof.Machine
end

section
/-! Entry of a trap (11 R254 to R256, Tables 11-1 and 11-4): what a scalar trap and the delivery of a lane trap write, and the statements
about both. -/

namespace Sys2Proof.Machine

/-! ### What the trap registers hold -/

/-- An address of code is its word number times 4. -/
theorem codeAddr_eq (x : DWord) : x.extractLsb' 0 57 &&& ~~~3#57 = BitVec.ofNat 57 (4 * (x.extractLsb' 2 55).toNat) := by
  apply BitVec.eq_of_getLsbD_eq
  intro i hi
  rw [BitVec.getLsbD_ofNat, show 4 = 2 ^ 2 from rfl, Nat.testBit_two_pow_mul, BitVec.testBit_toNat, BitVec.getLsbD_and, BitVec.getLsbD_not,
    show 3#57 = BitVec.ofNat 57 (2 ^ 2 - 1) from rfl, BitVec.getLsbD_ofNat, Nat.testBit_two_pow_sub_one]
  by_cases h : i < 2
  · simp [h]
  · have hle : 2 ≤ i := by omega
    have hlow : i - 2 < 55 := by omega
    simp [h, hi, hle, hlow]

theorem Group.vec_eq (g : Group) : g.vec = BitVec.ofNat 57 (4 * (g.tvec.extractLsb' 2 55).toNat) := codeAddr_eq g.tvec

/-- A stream has a handler where the handler's word number is not 0 (Table 11-1). -/
theorem Group.vec_ne_zero {g : Group} (h : g.tvec.extractLsb' 2 55 ≠ 0) : g.vec ≠ 0 := by
  intro hzero
  rw [g.vec_eq] at hzero
  have hmod : 4 * (g.tvec.extractLsb' 2 55).toNat % 2 ^ 57 = 0 := by simpa using congrArg BitVec.toNat hzero
  have hlt := (g.tvec.extractLsb' 2 55).isLt
  exact h (BitVec.eq_of_toNat_eq (show _ = 0 by omega))

/-- The causes of Table 11-2 that a handler may take (R251). -/
theorem causeClass_recoverable {cause : Nat}
    (h : [0x04, 0x05, 0x06, 0x07, 0x08, 0x09, 0x0A, 0x0B, 0x0C, 0x0F, 0x11, 0x12, 0x16].contains cause = true) : causeClass cause = .recoverable := by
  have hmem : cause ≠ 0x13 := by rintro rfl; revert h; decide
  rw [causeClass, if_neg hmem, if_pos h]

theorem ne_memerr_of_recoverable {cause : Nat} (h : causeClass cause = .recoverable) : cause ≠ cMemerr := by
  rintro rfl
  revert h
  decide

theorem tcauseOf_scalar {α : Type} (cause : Nat) (pending : List α) :
    tcauseOf cause false 0 false (!pending.isEmpty) 0 = BitVec.ofNat 64 (cause + (if pending = [] then 0 else 2 ^ 11) + 2 ^ 12) := by
  cases pending <;> simp [tcauseOf]

theorem tcauseOf_lane {α : Type} (cause slot word : Nat) (second : Bool) (pending : List α) :
    tcauseOf cause true slot second (!pending.isEmpty) word = BitVec.ofNat 64 (cause + 2 ^ 8 + 2 ^ 9 * slot + (if second then 2 ^ 10 else 0) +
      (if pending = [] then 0 else 2 ^ 11) + 2 ^ 12 + 2 ^ 16 * word) := by
  cases pending <;> simp [tcauseOf]

/-! ### Scalar traps (R254) -/

/-- A recoverable scalar trap of a stream that has a handler and runs none ends its wait and enters the handler; nothing else happens. -/
theorem State.scalarTrap_handled {s : State} {p : Party} {cause : Nat} {info : DWord} {ret : BitVec 57} {sempties : List SNum}
    (hclass : causeClass cause = .recoverable) (hvec : (s.grp p).vec ≠ 0) (hinh : (s.grp p).inh = false) :
    s.scalarTrap p cause info ret sempties = (s.dropWait p).updGrp p fun g => g.enterScalar cause info ret sempties := by
  unfold State.scalarTrap
  rw [State.noteCause, if_neg (ne_memerr_of_recoverable hclass)]
  exact if_neg (by simpa [hclass, hinh] using hvec)

theorem State.dropWait_grp_other (s : State) {p q : Party} (h : q ≠ p) : (s.dropWait p).grp q = s.grp q := s.updGrp_grp_other _ h

@[simp] theorem State.dropWait_mem (s : State) (p : Party) : (s.dropWait p).mem = s.mem := s.updGrp_mem p _

@[simp] theorem State.dropWait_md (s : State) (p : Party) : (s.dropWait p).md = s.md := s.updGrp_md p _

@[simp] theorem State.dropWait_cores (s : State) (p : Party) : (s.dropWait p).cores = s.cores := State.setGrp_cores ..

@[simp] theorem State.dropWait_who (s : State) (p : Party) : (s.dropWait p).who = s.who := s.updGrp_who p _

/-- Settles O8: the entry is known as a whole, and each clause reads a part of it. -/
theorem scalarTrapEntry : Obligations.ScalarTrapEntry := by
  unfold Obligations.ScalarTrapEntry
  intro s p cause info ret empties hcause htvec hinh g t
  have hclass := causeClass_recoverable hcause
  have hvec : g.vec ≠ 0 := Group.vec_ne_zero htvec
  have hgrp : t.grp p = { g with wait := .none }.enterScalar cause info ret empties :=
    State.scalarTrap_grp (ne_memerr_of_recoverable hclass) hclass hvec hinh
  have ht : t = (s.dropWait p).updGrp p fun g => g.enterScalar cause info ret empties := State.scalarTrap_handled hclass hvec hinh
  refine ⟨?cause, ?info, ?mask, ?redo, ?ret, ?pc, ?wait, ?group, fun q hq => ?others, ?mem, ?md, ?cores⟩
  case cause => rw [hgrp]; exact tcauseOf_scalar cause g.laneTraps
  case info | mask | redo | ret | wait | group => rw [hgrp]; rfl
  case pc => rw [hgrp]; exact g.vec_eq
  case others => rw [ht, State.updGrp_grp_other _ _ hq, s.dropWait_grp_other hq]
  case mem => rw [ht, State.updGrp_mem, s.dropWait_mem]
  case md => rw [ht, State.updGrp_md, s.dropWait_md]
  case cores => rw [ht, State.updGrp, State.setGrp_cores, s.dropWait_cores]

/-! ### Lane traps (R255, R256) -/

theorem State.deliverLane_nil {s : State} {p : Party} (h : (s.grp p).laneTraps = []) : s.deliverLane p = s := by
  rw [State.deliverLane, h]

/-- The first lane trap of a stream with a handler is delivered where its cause is recoverable. -/
theorem State.deliverLane_cons {s : State} {p : Party} {l : LaneTrap} {rest : List LaneTrap} (htraps : (s.grp p).laneTraps = l :: rest)
    (hclass : causeClass l.cause.toNat = .recoverable) (hvec : (s.grp p).vec ≠ 0) :
    s.deliverLane p = (s.dropWait p).updGrp p fun g => g.enterLane l rest := by
  rw [State.deliverLane, htraps]
  exact if_neg (by simpa [hclass] using hvec)

theorem State.deliverLane_grp {s : State} {p : Party} {l : LaneTrap} {rest : List LaneTrap} (htraps : (s.grp p).laneTraps = l :: rest)
    (hclass : causeClass l.cause.toNat = .recoverable) (hvec : (s.grp p).vec ≠ 0) :
    (s.deliverLane p).grp p = { s.grp p with wait := .none }.enterLane l rest := by
  rw [State.deliverLane_cons htraps hclass hvec, State.updGrp_grp, State.dropWait_grp]

theorem State.deliverLane_mem {s : State} {p : Party} {l : LaneTrap} {rest : List LaneTrap} (htraps : (s.grp p).laneTraps = l :: rest)
    (hclass : causeClass l.cause.toNat = .recoverable) (hvec : (s.grp p).vec ≠ 0) : (s.deliverLane p).mem = s.mem := by
  rw [State.deliverLane_cons htraps hclass hvec, State.updGrp_mem, State.dropWait_mem]

/-- A lane trap that waits at a boundary of a running group, outside a handler, is delivered there (R255, R257). -/
theorem execTrapDelivery_next {s : State} {team : Nat} {gid : Fin 16} (hruns : s.runs (.group team gid) = true)
    (hdue : (s.grp (.group team gid)).trapDue = true) : exec (.trapDelivery team gid) s = .next (s.deliverLane (.group team gid)) := by
  show execTrapDelivery team gid s = _
  exact if_pos (by simp [hruns, hdue])

/-- Settles O9: the trap is due at the boundary, and its delivery is known as a whole. -/
theorem laneTrapDelivery : Obligations.LaneTrapDelivery := by
  unfold Obligations.LaneTrapDelivery
  intro s team gid l rest p g hruns htraps hinh hrdv hopen0 hopen1 hcause htvec
  have hclass := causeClass_recoverable hcause
  have hvec : g.vec ≠ 0 := Group.vec_ne_zero htvec
  have hfree : g.inh = false := hinh
  have hdue : g.trapDue = true := by simp [Group.trapDue, htraps, hfree, hrdv, hopen0, hopen1]
  have hgrp := State.deliverLane_grp htraps hclass hvec
  refine ⟨_, execTrapDelivery_next hruns hdue, ?cause, ?info, ?mask, ?redo, ?ret, ?pc, ?pending, ?vregs, ?sregs, State.deliverLane_mem htraps hclass hvec⟩
  case cause => rw [hgrp]; exact tcauseOf_lane ..
  case pc => rw [hgrp]; exact g.vec_eq
  case info | mask | redo | ret | pending | vregs | sregs => rw [hgrp]; rfl

end Sys2Proof.Machine
end

section
/-! A trap that no handler takes (11 R251, R258; 04 R87; 03 R58): the end of a team whose cluster is itself alone, and of a control stream,
and the statement about both. -/

namespace Sys2Proof.Machine

/-- A fatal trap, or one without a handler or in one, ends its party and does nothing else. -/
theorem State.scalarTrap_fatal {s : State} {p : Party} {cause : Nat} {info : DWord} {ret : BitVec 57} {sempties : List SNum}
    (hclass : causeClass cause ≠ .gridEnding) (hend : causeClass cause = .fatal ∨ (s.grp p).vec = 0 ∨ (s.grp p).inh = true) :
    s.scalarTrap p cause info ret sempties = s.fatalEnd p cause := by
  have hmem : cause ≠ cMemerr := by rintro rfl; exact hclass rfl
  unfold State.scalarTrap
  rw [State.noteCause, if_neg hmem]
  exact if_pos (hend.imp_left fun h => by rw [h]; rfl)

/-! ### The end of a team (R87) -/

section

variable (s : State) (h : Nat)

theorem State.releaseTeam_team :
    (s.releaseTeam h).team h = { s.team h with life := .ended, groups := (s.team h).groups.map Group.freed, remap := [], image := none } := by
  unfold State.releaseTeam
  exact State.team_setTeam ..

theorem State.releaseTeam_grid (gh : Nat) : (s.releaseTeam h).grid gh = s.grid gh := rfl

theorem State.releaseTeam_mem : (s.releaseTeam h).mem = s.mem := rfl

theorem State.releaseTeam_ended (k : Fin 16) : ((s.releaseTeam h).grp (.group h k)).ended = true := by
  show (((s.releaseTeam h).team h).groups.get k).ended = true
  rw [s.releaseTeam_team]
  show (((s.team h).groups.map Group.freed)[k.val]).ended = true
  rw [Vector.getElem_map]
  rfl

end

/-- Nobody waits any more at the rendezvous of a cluster whose only team has ended. -/
theorem State.tryCbarKind_ended {s : State} {h : Nat} (half : Bool) (hcluster : (s.team h).cluster = [h]) (hlife : (s.team h).life = .ended) :
    s.tryCbarKind h half = s := by
  have hteams : s.clusterTeams h half = [] := by simp [State.clusterTeams, hcluster, hlife]
  unfold State.tryCbarKind
  rw [hteams]
  exact if_pos (.inl rfl)

theorem State.tryCbar_ended {s : State} {h : Nat} (hcluster : (s.team h).cluster = [h]) (hlife : (s.team h).life = .ended) : s.tryCbar h = s := by
  have hhalf := s.tryCbarKind_ended true hcluster hlife
  unfold State.tryCbar
  rw [hcluster]
  simp only [List.foldl_cons, List.foldl_nil, hhalf]
  exact s.tryCbarKind_ended false hcluster hlife

/-- A grid one of whose teams has failed (04 R87, R89). -/
def Grid.failed (g : Grid) (cause : Nat) : Grid :=
  { g with nfail := g.nfail + 1, incomplete := true, fate := match g.fate with | .running => GridEnd.faulted (BitVec.ofNat 8 cause) | f => f }

/-- A team that is its whole cluster is released where a fatal cause ends it, and its grid counts the failure. -/
theorem State.teamFatal_alone {s : State} {h cause : Nat} (hclass : causeClass cause ≠ .gridEnding) (hcluster : (s.team h).cluster = [h]) :
    s.teamFatal h cause = (s.releaseTeam h).setGrid (s.team h).grid ((s.grid (s.team h).grid).failed cause) := by
  have hrelease := s.releaseTeam_team h
  have htry : (s.releaseTeam h).tryCbar h = s.releaseTeam h :=
    State.tryCbar_ended (by rw [hrelease]; exact hcluster) (by rw [hrelease])
  unfold State.teamFatal
  dsimp only
  rw [htry, if_neg fun hend => hclass (eq_of_beq hend), s.releaseTeam_grid]
  rfl

/-! ### The end of a control stream (R58) -/

theorem State.endStream_grp (s : State) (k kind cause : Nat) :
    (s.endStream k kind cause).grp (.stream k) = { s.grp (.stream k) with wait := .ending kind cause, outst := [] } :=
  s.updGrp_grp (.stream k) fun g => { g with wait := .ending kind cause, outst := [] }

theorem State.endStream_mem (s : State) (k kind cause : Nat) : (s.endStream k kind cause).mem = s.mem := s.updGrp_mem ..

theorem State.endStream_watches {s : State} {k kind cause : Nat} {w : Watch} (h : w ∈ (s.endStream k kind cause).watches) : w.party ≠ .stream k := by
  simpa using (List.mem_filter.1 h).2

/-- Settles O11: the trap is its party's end, of a team or of a control stream. -/
theorem fatalTrapEnds : Obligations.FatalTrapEnds := by
  unfold Obligations.FatalTrapEnds
  intro s cause info ret e hclass
  refine ⟨fun h g hend hcluster => ?team, fun k hend => ?stream⟩
  case team =>
    have hfatal : s.scalarTrap (.group h g) cause info ret e = s.teamFatal h cause := State.scalarTrap_fatal hclass hend
    rw [hfatal, State.teamFatal_alone hclass hcluster]
    refine ⟨congrArg Team.life (s.releaseTeam_team h), s.releaseTeam_ended h, ?failures, ?incomplete, s.releaseTeam_mem h⟩
    case failures => rw [State.grid_setGrid]; rfl
    case incomplete => rw [State.grid_setGrid]; rfl
  case stream =>
    have hfatal : s.scalarTrap (.stream k) cause info ret e = s.endStream k 1 cause := State.scalarTrap_fatal hclass hend
    rw [hfatal]
    exact ⟨congrArg Group.wait (s.endStream_grp k 1 cause), fun w => State.endStream_watches, s.endStream_mem k 1 cause⟩

end Sys2Proof.Machine
end

section
/-! Return from a trap (11 R257, R260): what RFT gives back of the group, the lane trap that is still pending, and the statement about both. -/

namespace Sys2Proof.Machine

/-! ### Registers left empty become full -/

/-- v(r) full with what it holds. -/
def Group.fillV (g : Group) (r : Nat) : Group := g.setV r { g.vreg r with full := true }

theorem Group.setV_only (g : Group) (r : Nat) (v : VReg) : g.setV r v = { g with vregs := (g.setV r v).vregs } := by
  unfold Group.setV
  split <;> rfl

theorem Group.foldl_fillV_only (g : Group) (l : List Nat) : ∃ vregs, l.foldl Group.fillV g = { g with vregs := vregs } :=
  List.foldlRecOn l Group.fillV (motive := fun u : Group => ∃ vregs, u = { g with vregs := vregs }) ⟨g.vregs, rfl⟩ fun u hu r _ => by
    obtain ⟨vregs, rfl⟩ := hu
    exact ⟨_, Group.setV_only ..⟩

theorem Group.lanes_fillV (g : Group) (r n : Nat) : ((g.fillV r).vreg n).lanes = (g.vreg n).lanes := by
  rw [Group.fillV, Group.vreg_setV]
  split
  · next h => rw [h.1]
  · rfl

theorem Group.full_fillV {g : Group} {n : Nat} (r : Nat) (h : (g.vreg n).full = true) : ((g.fillV r).vreg n).full = true := by
  rw [Group.fillV, Group.vreg_setV]
  split
  · rfl
  · exact h

theorem Group.full_fillV_same (g : Group) {r : Nat} (h : r < 112) : ((g.fillV r).vreg r).full = true := by
  rw [Group.fillV, Group.vreg_setV, if_pos ⟨rfl, h⟩]

theorem Group.lanes_foldl_fillV (g : Group) (l : List Nat) (n : Nat) : ((l.foldl Group.fillV g).vreg n).lanes = (g.vreg n).lanes :=
  List.foldlRecOn l Group.fillV (motive := fun u : Group => (u.vreg n).lanes = (g.vreg n).lanes) rfl fun u hu r _ => (u.lanes_fillV r n).trans hu

theorem Group.full_foldl_fillV {l : List Nat} {r : Nat} (hr : r ∈ l) (h : r < 112) (g : Group) : ((l.foldl Group.fillV g).vreg r).full = true := by
  induction l generalizing g with
  | nil => simp at hr
  | cons a l ih =>
    rcases List.mem_cons.1 hr with rfl | hr
    · exact List.foldlRecOn l Group.fillV (motive := fun u : Group => (u.vreg r).full = true) (g.full_fillV_same h) fun u hu k _ => Group.full_fillV k hu
    · exact ih hr _

theorem Group.foldl_sfill_only (g : Group) (l : List SNum) : ∃ sregs, l.foldl Group.sfill g = { g with sregs := sregs } :=
  List.foldlRecOn l Group.sfill (motive := fun u : Group => ∃ sregs, u = { g with sregs := sregs }) ⟨g.sregs, rfl⟩ fun u hu r _ => by
    obtain ⟨sregs, rfl⟩ := hu
    unfold Group.sfill
    split
    · exact ⟨_, rfl⟩
    · exact ⟨_, rfl⟩

theorem Group.sfull_sfill {g : Group} {n : SNum} (r : SNum) (h : g.sfull n = true ∨ n = r) : (g.sfill r).sfull n = true := by
  unfold Group.sfill
  by_cases hr : r = 0
  · rw [if_pos hr]
    exact h.elim id fun hn => by simp [Group.sfull, hn, hr]
  · rw [if_neg hr]
    unfold Group.sfull at h ⊢
    rw [vec_get_set]
    by_cases hn : r.val = n.val
    · simp [hn]
    · rw [if_neg hn]
      exact h.resolve_right fun heq => hn (congrArg Fin.val heq.symm)

theorem Group.sfull_foldl_sfill {l : List SNum} {r : SNum} (hr : r ∈ l) (g : Group) : (l.foldl Group.sfill g).sfull r = true := by
  induction l generalizing g with
  | nil => simp at hr
  | cons a l ih =>
    rcases List.mem_cons.1 hr with rfl | hr
    · exact List.foldlRecOn l Group.sfill (motive := fun u : Group => u.sfull r = true) (Group.sfull_sfill r (.inr rfl)) fun u hu k _ => Group.sfull_sfill k (.inl hu)
    · exact ih hr _

/-- A scalar register reads what it holds, full or not (05 R114). -/
theorem blockOnly.sreg {g t : Group} (h : blockOnly g t) (r : SNum) : t.sreg r = g.sreg r := by
  unfold Group.sreg
  rw [h.2]

/-! ### What RFT gives back (R260) -/

/-- The group after RFT, before its pc and its trap registers: the record resumed, the registers that the trapped instruction left empty full. -/
def Group.restored (g : Group) (c : TrapCtx) : Group :=
  c.sempties.foldl Group.sfill (c.empties.foldl Group.fillV (if c.lane then g.resumeLane c else g))

/-- The group outside its handler again, at the instruction that `c.tret` names. -/
def Group.returned (g : Group) : Group :=
  { g.goTo (g.tret.extractLsb' 0 57 &&& ~~~3#57) with
    tcause := g.tcause &&& ~~~(BitVec.ofNat 64 (2 ^ 12)), trap := none, spool := g.spool.map ({ · with late := false }) }

theorem Group.returned_pc (g : Group) : g.returned.pc = BitVec.ofNat 57 (4 * (g.tret.extractLsb' 2 55).toNat) := codeAddr_eq g.tret

/-- Of `c.tcause`, the return clears `inh` alone. -/
theorem Group.returned_tcause (g : Group) (i : Nat) : g.returned.tcause.getLsbD i = (g.tcause.getLsbD i && i != 12) := by
  show (g.tcause &&& ~~~(BitVec.ofNat 64 (2 ^ 12))).getLsbD i = _
  rw [BitVec.getLsbD_and, BitVec.getLsbD_not, BitVec.getLsbD_ofNat, Nat.testBit_two_pow]
  by_cases hi : i < 64
  · by_cases h : i = 12
    · simp [h]
    · simp [hi, h, Ne.symm h]
  · simp [BitVec.getLsbD_of_ge _ _ (Nat.le_of_not_lt hi)]

theorem blockOnly_resumeLane (g : Group) (c : TrapCtx) : blockOnly g (g.resumeLane c) := by
  unfold Group.resumeLane
  split
  · exact blockOnly_refl g
  · extract_lets redo
    split
    · exact blockOnly_refl g
    · split
      · exact blockOnly_refl g
      · extract_lets q
        split
        · exact blockOnly_setStack ..
        · exact blockOnly_moveTo ..

/-- The restored group differs in its vector registers, the fill of its scalar registers and the running block alone. -/
theorem Group.restored_only (g : Group) (c : TrapCtx) : ∃ vregs, blockOnly { g with vregs := vregs } (g.restored c) := by
  have hresumed : blockOnly g (if c.lane then g.resumeLane c else g) := by
    split
    · exact blockOnly_resumeLane g c
    · exact blockOnly_refl g
  obtain ⟨vregs, hfilled⟩ := Group.foldl_fillV_only (if c.lane then g.resumeLane c else g) c.empties
  refine ⟨vregs, blockOnly_trans ?_ (blockOnly_foldl _ blockOnly_sfill c.sempties _)⟩
  rw [hfilled]
  exact ⟨by rw [hresumed.1], hresumed.2⟩

theorem Group.restored_laneTraps (g : Group) (c : TrapCtx) : (g.restored c).laneTraps = g.laneTraps := by
  obtain ⟨_, h, -⟩ := g.restored_only c
  rw [h]

theorem Group.restored_tvec (g : Group) (c : TrapCtx) : (g.restored c).tvec = g.tvec := by
  obtain ⟨_, h, -⟩ := g.restored_only c
  rw [h]

theorem Group.restored_tret (g : Group) (c : TrapCtx) : (g.restored c).tret = g.tret := by
  obtain ⟨_, h, -⟩ := g.restored_only c
  rw [h]

theorem Group.restored_preds (g : Group) (c : TrapCtx) : (g.restored c).preds = g.preds := by
  obtain ⟨_, h, -⟩ := g.restored_only c
  rw [h]

section

variable {g : Group} {c : TrapCtx}

theorem Group.restored_scalar (hlane : c.lane = false) (hempties : c.empties = []) : g.restored c = c.sempties.foldl Group.sfill g := by
  simp [Group.restored, hlane, hempties]

theorem Group.restored_lane (hlane : c.lane = true) (hsempties : c.sempties = []) : g.restored c = c.empties.foldl Group.fillV (g.resumeLane c) := by
  simp [Group.restored, hlane, hsempties]

theorem Group.restored_lane_block (hlane : c.lane = true) (hsempties : c.sempties = []) : (g.restored c).block = (g.resumeLane c).block := by
  obtain ⟨_, h⟩ := (g.resumeLane c).foldl_fillV_only c.empties
  rw [Group.restored_lane hlane hsempties, h]

theorem Group.restored_lane_lanes (hlane : c.lane = true) (hsempties : c.sempties = []) (r : Nat) : ((g.restored c).vreg r).lanes = (g.vreg r).lanes := by
  have hvregs : (g.resumeLane c).vregs = g.vregs := by rw [(blockOnly_resumeLane g c).1]
  rw [Group.restored_lane hlane hsempties, Group.lanes_foldl_fillV, Group.vreg, hvregs, ← Group.vreg]

theorem Group.restored_lane_full (hlane : c.lane = true) (hsempties : c.sempties = []) {r : Nat} (hr : r ∈ c.empties) (h : r < 112) :
    ((g.restored c).vreg r).full = true := by
  rw [Group.restored_lane hlane hsempties]
  exact Group.full_foldl_fillV hr h _

variable {b : Block} {pos : Nat} {q : Split}

/-- The record that trapped performs its word again in the lanes that had not, where there are any. -/
theorem Group.resumeLane_redo (hblock : g.block = some b) (hpos : b.trapAt? c.id = some pos) (hrec : b.rec? pos = some q)
    (hredo : g.tredo.setWidth 32 &&& c.allowed ≠ 0) :
    g.resumeLane c = g.setStack b (b.stack.set pos
      { q with traps := q.traps.erase c.id, jumped := false, pc := c.word, redo := some (g.tredo.setWidth 32 &&& c.allowed), second := c.second }) := by
  unfold Group.resumeLane
  simp only [hblock, hpos, hrec]
  exact if_pos hredo

/-- It goes on after its word where there are none. -/
theorem Group.resumeLane_on (hblock : g.block = some b) (hpos : b.trapAt? c.id = some pos) (hrec : b.rec? pos = some q)
    (hredo : g.tredo.setWidth 32 &&& c.allowed = 0) :
    g.resumeLane c = g.moveTo
      { b with stack := b.stack.set pos { q with traps := q.traps.erase c.id, jumped := false, redo := none, second := false } } pos
      (c.word + if c.first then 2 else 1) := by
  unfold Group.resumeLane
  simp only [hblock, hpos, hrec]
  exact if_neg (not_not.2 hredo)

end

/-! ### The device after RFT -/

section

variable {s : State} {c : TrapCtx} (htrap : s.cur.trap = some c)
include htrap

/-- The device with the group as RFT leaves it, before a pending lane trap is delivered. -/
theorem State.returnFromTrap_eq : s.returnFromTrap s.who = (s.setCur (s.cur.restored c).returned).deliverLane s.who := by
  unfold State.returnFromTrap State.updGrp
  simp only [show (s.grp s.who).trap = some c from htrap]
  rfl

/-- Where no lane trap is pending, RFT changes its group alone. -/
theorem State.returnFromTrap_last (hnone : s.cur.laneTraps = []) : s.returnFromTrap s.who = s.setCur (s.cur.restored c).returned := by
  rw [State.returnFromTrap_eq htrap]
  apply State.deliverLane_nil
  rw [State.setCur, State.grp_setGrp]
  exact (s.cur.restored_laneTraps c).trans hnone

/-- A pending lane trap is delivered to the group as RFT leaves it. -/
theorem State.returnFromTrap_next {l : LaneTrap} {rest : List LaneTrap} (htraps : s.cur.laneTraps = l :: rest)
    (hclass : causeClass l.cause.toNat = .recoverable) (htvec : s.cur.tvec.extractLsb' 2 55 ≠ 0) :
    (s.returnFromTrap s.who).cur = { (s.cur.restored c).returned with wait := .none }.enterLane l rest ∧
      (s.returnFromTrap s.who).mem = s.mem := by
  have hgrp : (s.setCur (s.cur.restored c).returned).grp s.who = (s.cur.restored c).returned := State.grp_setGrp ..
  have hpending : ((s.setCur (s.cur.restored c).returned).grp s.who).laneTraps = l :: rest := by
    rw [hgrp]
    exact (s.cur.restored_laneTraps c).trans htraps
  have hvec : ((s.setCur (s.cur.restored c).returned).grp s.who).vec ≠ 0 := by
    rw [hgrp]
    apply Group.vec_ne_zero
    rwa [show (s.cur.restored c).returned.tvec = s.cur.tvec from s.cur.restored_tvec c]
  have hwho : (s.returnFromTrap s.who).who = s.who := by
    rw [State.returnFromTrap_eq htrap, State.deliverLane_cons hpending hclass hvec, State.updGrp_who, State.dropWait_who]
    exact State.setGrp_who ..
  refine ⟨?_, ?_⟩
  · rw [State.cur, hwho, State.returnFromTrap_eq htrap, State.deliverLane_grp hpending hclass hvec, hgrp]
  · rw [State.returnFromTrap_eq htrap, State.deliverLane_mem hpending hclass hvec]
    exact State.setGrp_mem ..

/-- Whether or not a lane trap is pending, the lane side is as RFT leaves it. -/
theorem State.returnFromTrap_lane (hpending : s.cur.laneTraps = [] ∨ s.cur.tvec.extractLsb' 2 55 ≠ 0 ∧
      ∀ l ∈ s.cur.laneTraps, causeClass l.cause.toNat = .recoverable) :
    let g := (s.returnFromTrap s.who).cur
    g.block = (s.cur.restored c).block ∧ g.vregs = (s.cur.restored c).vregs ∧ g.preds = s.cur.preds := by
  have hpreds := s.cur.restored_preds c
  cases htraps : s.cur.laneTraps with
  | nil =>
    rw [State.returnFromTrap_last htrap htraps, State.cur_setCur]
    exact ⟨rfl, rfl, hpreds⟩
  | cons l rest =>
    rw [htraps] at hpending
    obtain ⟨htvec, hall⟩ := hpending.resolve_left (List.cons_ne_nil _ _)
    rw [(State.returnFromTrap_next htrap htraps (hall l List.mem_cons_self) htvec).1]
    exact ⟨rfl, rfl, hpreds⟩

end

/-- RFT outside a handler is illegal. -/
theorem execRft_illegal {s : State} (h : s.cur.tcause.getLsbD 12 = false) : exec .rft s = .next (s.scalarTrap s.who 0x01 0x3E s.cur.pc []) := by
  have hill : s.illopNow .rft = true := by
    show (!s.cur.tcause.getLsbD 12) = true
    rw [h]
    rfl
  show scalarGate .rft s _ = _
  exact if_pos (by rw [hill, Bool.or_true])

theorem execRft_legal {s : State} (h : scalarReady .rft [] [] s = true) :
    exec .rft s = if s.cur.trapBlocks ≠ 0 then waitOut s else .next (s.returnFromTrap s.who) := by
  unfold scalarReady at h
  simp only [Bool.and_eq_true] at h
  exact scalarGate_legal _ h.1.1

/-- Settles O10: what RFT gives back is known before a pending lane trap is delivered, and the delivery leaves the lane side alone. -/
theorem returnFromTrap : Obligations.ReturnFromTrap := by
  unfold Obligations.ReturnFromTrap
  refine ⟨fun s => execRft_illegal, fun s hready hpre => (execRft_legal hready).trans (if_pos hpre.2),
    fun s hready hpre => (execRft_legal hready).trans (if_neg (not_not.2 hpre.2)), ?scalar, ?lane, ?pending⟩
  case scalar =>
    intro s c htrap hlane hempties hnone t
    have hrestored : s.cur.restored c = c.sempties.foldl Group.sfill s.cur := Group.restored_scalar hlane hempties
    obtain ⟨sregs, hsfill⟩ := s.cur.foldl_sfill_only c.sempties
    have ht : t = s.setCur (s.cur.restored c).returned := State.returnFromTrap_last htrap hnone
    have hcur : t.cur = ({ s.cur with sregs := sregs } : Group).returned := by rw [ht, State.cur_setCur, hrestored, hsfill]
    refine ⟨?inh, fun i hi => ?tcause, ?pc, fun r hr => ?full, fun r => ?value, ?group, ?mem⟩
    case inh => rw [hcur, Group.returned_tcause]; simp
    case tcause => rw [hcur, Group.returned_tcause]; simp [hi]
    case pc => rw [hcur]; exact Group.returned_pc _
    case full =>
      have hr := Group.sfull_foldl_sfill hr s.cur
      rw [hsfill] at hr
      rw [hcur]
      exact hr
    case value =>
      have hr := (blockOnly_foldl _ blockOnly_sfill c.sempties s.cur).sreg r
      rw [hsfill] at hr
      rw [hcur]
      exact hr
    case group => rw [hcur]; rfl
    case mem => rw [ht]; exact State.setGrp_mem ..
  case lane =>
    intro s c b pos q htrap hlane hsempties hpending hblock hpos hrec redo q' t
    obtain ⟨htblock, htvregs, htpreds⟩ := State.returnFromTrap_lane htrap hpending
    have hresumed : t.cur.block = (s.cur.resumeLane c).block := by rw [htblock, Group.restored_lane_block hlane hsempties]
    have hvreg (r : Nat) : t.cur.vreg r = (s.cur.restored c).vreg r := by rw [Group.vreg, htvregs, ← Group.vreg]
    refine ⟨fun hredo => ?again, fun hredo => ?on, fun r hr hlt => ?full, fun r => ?lanes, htpreds, fun hnone => ?last⟩
    case again => rw [hresumed, Group.resumeLane_redo hblock hpos hrec hredo]
    case on => rw [hresumed, Group.resumeLane_on hblock hpos hrec hredo]
    case full => rw [hvreg]; exact Group.restored_lane_full hlane hsempties hr hlt
    case lanes => rw [hvreg]; exact Group.restored_lane_lanes hlane hsempties r
    case last =>
      have ht : t = s.setCur (s.cur.restored c).returned := State.returnFromTrap_last htrap hnone
      rw [ht, State.cur_setCur, Group.returned_tcause, Group.returned_pc, s.cur.restored_tret]
      exact ⟨by simp, rfl, State.setGrp_mem ..⟩
  case pending =>
    intro s c l rest htrap htraps hcause htvec t
    obtain ⟨hcur, hmem⟩ := State.returnFromTrap_next htrap htraps (causeClass_recoverable hcause) htvec
    have hpc : (s.cur.restored c).returned.pc = BitVec.ofNat 57 (4 * (s.cur.tret.extractLsb' 2 55).toNat) := by
      rw [Group.returned_pc, s.cur.restored_tret]
    refine ⟨?tcause, ?tinfo, ?tmask, ?tredo, ?tret, ?pc, ?rest, hmem⟩
    case tcause => rw [hcur]; exact tcauseOf_lane ..
    case tinfo | tmask | tredo | rest => rw [hcur]; rfl
    case tret =>
      rw [hcur]
      show (s.cur.restored c).returned.pc.setWidth 64 = _
      rw [hpc]
      have := (s.cur.tret.extractLsb' 2 55).isLt
      apply BitVec.eq_of_toNat_eq
      simp only [BitVec.toNat_setWidth, BitVec.toNat_ofNat]
      omega
    case pc =>
      rw [hcur]
      show (s.cur.restored c).returned.vec = _
      rw [Group.vec_eq, show (s.cur.restored c).returned.tvec = s.cur.tvec from s.cur.restored_tvec c]

end Sys2Proof.Machine
end

section
/-! Rank 1 of every instruction and the next state that it answers (11 R253; 01 R10; 05 R115, R116; 12 R275, R279): a scalar instruction passes
the gate of rank 1 and a lane word the lane driver, and behind them every branch of their meanings answers a next state. One lemma for each
shared operation, one for each instruction that has a meaning of its own, and the statement. -/

namespace Sys2Proof.Machine

/-! ### Outcomes that are a next state -/

/-- An outcome that is a next state, no fault and no refusal. -/
def Answers (o : Out) : Prop := ∃ t, o = .next t

theorem answers_next (t : State) : Answers (.next t) := ⟨t, rfl⟩

theorem answers_waitOut (s : State) : Answers (waitOut s) := ⟨_, rfl⟩

theorem answers_blockedOut (s : State) : Answers (blockedOut s) := ⟨_, rfl⟩

theorem answers_trapAt (s : State) (cause : Nat) (info : DWord) : Answers (trapAt s cause info) := ⟨_, rfl⟩

theorem answers_doneAt (s : State) : Answers (doneAt s) := ⟨_, rfl⟩

theorem answers_lateResult (s : State) (d : SNum) (v : DWord) : Answers (lateResult s d v) := ⟨_, rfl⟩

theorem Answers.ite {c : Prop} [Decidable c] {a b : Out} (ha : Answers a) (hb : Answers b) : Answers (if c then a else b) := by
  split
  · exact ha
  · exact hb

/-- What the form of an instruction's meaning says of the whole of it: it is behind the gate of rank 1 and answers a next state there, or it is
that of a lane word whose own effect does; an event has no words, and an unassigned opcode no meaning. -/
inductive ExecForm (i : Instr) (s : State) : Out → Prop where
  | scalar {body : Out} (hrow : laneRow i = none) (hbody : Answers body) : ExecForm i s (scalarGate i s body)
  | lane {row : LaneRow × LaneWord} {body : LaneRun → Out} (hrow : laneRow i = some row) (hbody : ∀ x, Answers (body x)) : ExecForm i s (laneGo i s body)
  | event {o : Out} (hside : sideOf i = .event) : ExecForm i s o
  | unassigned {o : Out} {lane : Bool} {op : BitVec 8} (hi : i = .unassignedOpcode lane op) : ExecForm i s o

/-! ### The drivers of scalar instructions -/

theorem Answers.needRegs {reads writes : List SNum} {s : State} {body : Out} (h : Answers body) : Answers (needRegs reads writes s body) := by
  rcases needRegs_cases reads writes s body with hrun | hwait | ⟨r, -, -, -, hempty⟩
  · rwa [hrun]
  · rw [hwait]; exact answers_blockedOut s
  · rw [hempty]; exact answers_trapAt ..

theorem Answers.checked {s : State} {l : List (Option (Nat × DWord))} {body : Out} (h : Answers body) : Answers (checked s l body) := by
  unfold Machine.checked
  split
  · exact answers_trapAt ..
  · exact h

section

variable {i : Instr} {s : State} {reads writes : List SNum}

theorem ExecForm.registers {body : Out} (hrow : laneRow i = none) (hbody : Answers body) : ExecForm i s (scalarGate i s (needRegs reads writes s body)) :=
  .scalar hrow hbody.needRegs

theorem ExecForm.alu {d : SNum} {f : State → DWord} (hrow : laneRow i = none) : ExecForm i s (aluOp i d reads f s) := .registers hrow (answers_next _)

theorem ExecForm.op {f : State → Out} (hrow : laneRow i = none) (hf : Answers (f s)) : ExecForm i s (scalarOp i reads f s) := .registers hrow hf

theorem ExecForm.div {d a b : SNum} {f : DWord → DWord → DWord} (hrow : laneRow i = none) : ExecForm i s (divOp i d a b f s) :=
  .registers hrow ((answers_trapAt ..).ite (answers_doneAt _))

theorem ExecForm.command {checks : State → List (Option (Nat × DWord))} {f : State → Out} {pre : List (Option (Nat × DWord))}
    (hrow : laneRow i = none) (hf : Answers (f s)) : ExecForm i s (commandOp i reads writes checks f s pre) :=
  .scalar hrow ((answers_waitOut s).checked.ite hf.checked.needRegs)

end

/-! ### Memory, fences and branches -/

section

variable (s : State)

theorem answers_scalarIssued (r : Issued) (f : Group → Group) : Answers (scalarIssued s r f) := by
  cases r with
  | wait => exact answers_waitOut s
  | trap cause info lanes => exact answers_trapAt s cause info
  | go t => exact answers_next _

theorem answers_scalarLoad (t : SNum) (ea : DWord) (bytes : Nat) (acq : Option (BitVec 2)) : Answers (scalarLoad s t ea bytes acq) :=
  answers_scalarIssued ..

theorem answers_scalarStore (x ea : DWord) (bytes : Nat) (rel : Option Nat) : Answers (scalarStore s x ea bytes rel) := by
  unfold scalarStore
  split
  · exact answers_waitOut s
  · exact answers_trapAt ..
  · exact answers_next _

theorem answers_fenceDone (kind sc : Nat) : Answers (s.fenceDone kind sc) := (answers_next _).ite (answers_next _)

theorem execSlds_form (t base : SNum) (sz : BitVec 2) (off : BitVec 10) : ExecForm (.slds t base sz off) s (execSlds t base sz off s) := by
  refine .registers rfl ?_
  dsimp only
  split
  · exact answers_trapAt ..
  · exact (answers_waitOut s).ite (answers_next _)

theorem execSacqp_form (d a b : SNum) (sc : BitVec 2) : ExecForm (.sacqp d a b sc) s (execSacqp d a b sc s) := by
  refine .registers rfl ((answers_scalarLoad ..).ite ?_)
  split
  · exact answers_trapAt ..
  · exact (answers_waitOut s).ite (answers_next _)

theorem execSjr_form (d a : SNum) : ExecForm (.sjr d a) s (execSjr d a s) :=
  .registers rfl ((answers_trapAt ..).ite ((answers_trapAt ..).ite (answers_next _)))

theorem execLrun_form (a b : SNum) : ExecForm (.lrun a b) s (execLrun a b s) := by
  refine .scalar rfl ?_
  dsimp only
  split
  · exact answers_trapAt ..
  · refine ((answers_trapAt ..).ite ((answers_trapAt ..).ite ((answers_blockedOut s).ite ?_))).needRegs
    split
    · exact answers_waitOut _
    · exact answers_trapAt ..
    · exact (answers_blockedOut _).ite ((answers_trapAt ..).ite ((answers_trapAt ..).ite (answers_next _)))

/-! ### Waits -/

theorem Answers.polling {o : Out} (h : Answers o) : Answers (polling o) := by
  obtain ⟨t, rfl⟩ := h
  unfold Machine.polling
  dsimp only
  split
  · exact answers_next _
  · exact answers_next _
  · exact answers_next _

theorem answers_waitCounter (watch : Bool) (ea target : DWord) (w : Bool → Wait) {reached : State → Out} (h : ∀ t, Answers (reached t)) :
    Answers (waitCounter s watch ea target w reached) := by
  unfold waitCounter
  refine (answers_waitOut s).ite ?_
  split
  · exact (answers_trapAt ..).ite (answers_waitOut _)
  · exact answers_trapAt ..
  · exact (answers_trapAt ..).ite ((answers_waitOut s).ite (answers_next _))
  · exact (answers_trapAt ..).ite ((h _).ite ((answers_next _).ite (answers_next _)))

theorem answers_wakeSleep : Answers (wakeSleep s) := by
  unfold wakeSleep wakeChecks
  dsimp only
  split
  · exact answers_next _
  · split
    · exact answers_next _
    · exact answers_next _

theorem execSusp_form (a b : SNum) (off : BitVec 11) : ExecForm (.susp a b off) s (execSusp a b off s) := by
  refine .op rfl ?_
  split
  · exact answers_trapAt ..
  · exact (answers_waitCounter s _ _ _ _ fun _ => answers_next _).polling

/-! ### Messages -/

theorem execRecv_form (d a : SNum) : ExecForm (.recv d a) s (execRecv d a s) := by
  refine .command rfl ?_
  dsimp only
  split
  · exact answers_lateResult ..
  · exact (answers_lateResult ..).ite (answers_lateResult ..)

/-! ### Copies and the weight store -/

theorem answers_copyGo (d : SNum) (c : Copy) : Answers (s.copyGo d c) := by
  refine (answers_waitOut s).ite ?_
  split
  · exact answers_waitOut s
  · exact answers_doneAt _

theorem answers_logCopy (f : CopyForm) (ops : List DWord) (va : Nat) : Answers (s.logCopy f ops va) := (answers_waitOut s).ite (answers_next _)

theorem answers_copyIssue (f : CopyForm) (ops : List DWord) : Answers (s.copyIssue f ops) := by
  refine (answers_trapAt ..).ite (Answers.checked ?_)
  refine (answers_copyGo s ..).checked.ite ((answers_waitOut s).ite ((answers_logCopy s ..).ite ?_))
  split
  · exact answers_waitOut _
  · exact answers_trapAt ..
  · exact (answers_copyGo _ ..).checked

theorem execCwait_form (a : SNum) (p : Bool) : ExecForm (.cwait a p) s (execCwait a p s) := by
  refine .op rfl ((answers_blockedOut s).ite ?_)
  split
  · exact answers_doneAt _
  · exact answers_trapAt ..

theorem answers_queueCopy (d : SNum) (c : Copy) : Answers (s.queueCopy d c) := by
  unfold State.queueCopy
  split
  · exact answers_waitOut s
  · exact answers_doneAt _

theorem execWload_form (d a : SNum) : ExecForm (.wload d a) s (execWload d a s) := by
  refine .command rfl ((answers_waitOut s).ite ?_)
  split
  · exact (answers_next _).ite (answers_next _)
  · exact answers_queueCopy s ..

/-! ### The matrix engine -/

theorem answers_queueCmd (slot : Nat) (kind : SeqKind) : Answers (s.queueCmd slot kind) := (answers_waitOut s).ite (answers_doneAt _)

theorem answers_mwaitOn (slot : Option Nat) : Answers (mwaitOn slot s) := by
  refine (answers_blockedOut s).ite ?_
  extract_lets on first
  generalize first = fault
  split
  · exact answers_trapAt ..
  · exact answers_doneAt _

/-! ### Objects and grids -/

theorem execMkobj_form (a : SNum) : ExecForm (.mkobj a) s (execMkobj a s) := by
  refine .command rfl ((answers_trapAt ..).ite ((answers_waitOut s).ite ?_))
  split
  · exact answers_trapAt ..
  · exact answers_waitOut _
  · exact (answers_trapAt ..).ite ((answers_waitOut s).ite (answers_doneAt _))

theorem execStref_form (a : SNum) (rel : Bool) (sc : BitVec 2) : ExecForm (.stref a rel sc) s (execStref a rel sc s) := by
  refine .command rfl ?_
  dsimp only
  split
  · exact answers_waitOut _
  · exact answers_trapAt ..
  · exact answers_doneAt _

theorem execLdhdr_form (d a : SNum) : ExecForm (.ldhdr d a) s (execLdhdr d a s) := by
  refine .command rfl ((answers_waitOut s).ite ?_)
  split
  · exact (answers_trapAt ..).ite (answers_waitOut _)
  · exact answers_trapAt ..
  · exact answers_waitOut _
  · exact answers_trapAt ..
  · exact answers_trapAt ..
  · exact answers_lateResult ..

theorem execPub_form (d a : SNum) : ExecForm (.pub d a) s (execPub d a s) := by
  refine .command rfl ?_
  extract_lets sg ver w bits u seq go
  have hgo : Answers go := (answers_waitOut s).ite ((answers_next _).ite (answers_next _))
  refine hgo.ite ?_
  split
  · exact (answers_trapAt ..).ite (answers_waitOut _)
  · exact hgo.ite (answers_trapAt ..)
  · exact answers_trapAt ..

theorem answers_launchRecord (a : DWord) (bs : List Byte) : Answers (launchRecord s a bs) := by
  unfold launchRecord
  dsimp only
  split
  · exact (answers_next _).ite (answers_next _)
  · refine (answers_next _).ite ?_
    split
    · exact (answers_next _).ite (answers_waitOut _)
    · exact answers_next _

theorem execLaunch_form (a : SNum) : ExecForm (.launch a) s (execLaunch a s) := by
  refine .command rfl ((answers_waitOut s).ite ?_)
  split
  · exact answers_waitOut _
  · exact answers_trapAt ..
  · exact answers_launchRecord ..

theorem execJoin_form (d a : SNum) : ExecForm (.join d a) s (execJoin d a s) :=
  .command rfl (answers_waitCounter s _ _ _ _ fun _ => answers_scalarLoad ..).polling

/-! ### The system -/

theorem execEcrd_form (d a : SNum) : ExecForm (.ecrd d a) s (execEcrd d a s) := by
  refine .registers rfl ?_
  split
  · exact answers_trapAt ..
  · exact answers_next _

theorem execEcclr_form (a : SNum) : ExecForm (.ecclr a) s (execEcclr a s) := by
  refine .op rfl ?_
  split
  · exact answers_trapAt ..
  · exact answers_doneAt _

theorem execGend_form : ExecForm .gend s (execGend s) := by
  refine .scalar rfl ((answers_waitOut s).ite ?_)
  split
  · exact answers_next _
  · exact (answers_next _).ite (answers_waitOut s)

end

/-! ### The driver of lane words, and what they share -/

theorem answers_laneTrapOut (s : State) (b : Block) (pos : Nat) (q : Split) (cause : Nat) (info : DWord) (mask redo : Mask) (first : Bool)
    (empties : List Nat) : Answers (laneTrapOut s b pos q cause info mask redo first empties) := (answers_next _).ite (answers_next _)

section

variable (x : LaneRun) (s : State)

theorem answers_trap (cause : Nat) (info : DWord) (mask : Mask) : Answers (x.trap s cause info mask) := answers_laneTrapOut ..

theorem answers_done (f : Group → Group) : Answers (x.done s f) := answers_next _

theorem answers_write (always : Bool) (kind : Nat) (f : Nat → LaneRes) : Answers (x.write s always kind f) :=
  (answers_trap ..).ite (answers_done ..)

theorem answers_control (f : Group → Block → Group) : Answers (x.control s f) := answers_next _

theorem answers_issued (r : Issued) (f : Group → Group) : Answers (x.issued s r f) := by
  cases r with
  | wait => exact answers_waitOut s
  | trap cause info lanes => exact answers_trap ..
  | go t => exact answers_done ..

theorem answers_laneChecked (fault : Option (Nat × DWord × Mask)) (data : List (Vector LaneVal 32)) {go : State → Out} (h : ∀ t, Answers (go t)) :
    Answers (x.checked s fault data go) := by
  cases fault with
  | none => exact (answers_trap ..).ite (h _)
  | some e => exact answers_trap ..

end

section

variable {i : Instr} {s : State} {row : LaneRow × LaneWord}

theorem ExecForm.vec {f : LaneCtx → Nat → LaneRes} (hrow : laneRow i = some row) : ExecForm i s (vecOp i f s) :=
  .lane hrow fun x => answers_write x s false 0 (f x.c)

theorem ExecForm.pred {int : Bool} {f : LaneCtx → Nat → Bool × Bool} (hrow : laneRow i = some row) : ExecForm i s (predOp i int f s) :=
  .lane hrow fun _ => (answers_trap ..).ite (answers_done ..)

theorem ExecForm.load {addr : LaneCtx → Nat → DWord} (hrow : laneRow i = some row) : ExecForm i s (laneLoad i addr s) :=
  .lane hrow fun _ => (answers_done ..).ite (answers_issued ..)

theorem ExecForm.store {addr : LaneCtx → Nat → DWord} (hrow : laneRow i = some row) : ExecForm i s (laneStore i addr s) :=
  .lane hrow fun x => (answers_done ..).ite (answers_laneChecked x s _ _ fun _ => answers_issued ..)

theorem ExecForm.atomic {kind : BitVec 4 → MemKind} (hrow : laneRow i = some row) : ExecForm i s (laneAtomic i kind s) :=
  .lane hrow fun _ => (answers_done ..).ite (answers_issued ..)

end

section

variable (w : LaneWord) (s : State)

theorem execLds_form : ExecForm (.lds w) s (execLds w s) := by
  refine .lane rfl fun x => (answers_done ..).ite ?_
  extract_lets q
  split
  · exact answers_trap ..
  · exact (answers_waitOut s).ite (answers_done ..)

theorem execSts_form : ExecForm (.sts w) s (execSts w s) :=
  .lane rfl fun _ => (answers_done ..).ite (answers_laneChecked _ _ _ _ fun _ => (answers_waitOut s).ite (answers_done ..))

theorem execAtoms_form : ExecForm (.atoms w) s (execAtoms w s) := by
  refine .lane rfl fun x => (answers_done ..).ite ?_
  extract_lets q
  split
  · exact answers_trap ..
  · exact (answers_waitOut s).ite (answers_done ..)

theorem execLaneStref_form : ExecForm (.laneStref w) s (execLaneStref w s) := by
  refine .lane rfl fun x => ?_
  dsimp only
  split
  · exact answers_waitOut _
  · exact answers_laneTrapOut ..
  · exact answers_done ..

theorem execTlda_form : ExecForm (.tlda w) s (execTlda w s) := by
  refine .lane rfl fun x => (answers_done ..).ite ?_
  extract_lets v id q qv log
  split
  · exact answers_trap ..
  · exact (answers_waitOut s).ite (answers_done ..)

theorem execLbr_form : ExecForm (.lbr w) s (execLbr w s) := by
  refine .lane rfl fun x => (answers_trap ..).ite ((answers_control ..).ite ((answers_control ..).ite ?_))
  split
  · exact answers_trap ..
  · exact answers_control ..

end

/-! ### Every instruction -/

/-- An instruction without an opcode that is no register operation has no words. -/
theorem sideOf_event {i : Instr} (hcode : encodeScalar i = 0) (hside : sideOf i = if (fop (encodeScalar i)).toNat != 0 then .scalar else .event) :
    sideOf i = .event := by
  rw [hside, hcode]
  rfl

theorem exec_form (i : Instr) (s : State) : ExecForm i s (exec i s) := by
  unfold exec
  cases i
  case sadd | ssub | sand | sor | sxor | sandn | sshl | sshr | ssra | sslt | ssltu | smin | smax | sminu | smaxu | smul | smulh | smulhu | spopc |
      sclz | sctz | saddi | sandi | sori | sxori | sshli | sshri | ssrai | slti | sltiu | slui | saddpc | csrr => exact .alu rfl
  case sdiv | sdivu | srem | sremu => exact .div rfl
  case sld | slda => exact .registers rfl (answers_scalarLoad ..)
  case sst | sstl => exact .registers rfl (answers_scalarStore ..)
  case satom => exact .registers rfl (answers_scalarIssued ..)
  case slds => exact execSlds_form ..
  case sacqp => exact execSacqp_form ..
  case sfence => exact .scalar rfl ((answers_fenceDone ..).ite (answers_waitOut s))
  case sbr | sj => exact .op rfl (answers_next _)
  case sjl => exact .registers rfl (answers_next _)
  case sjr => exact execSjr_form ..
  case lrun => exact execLrun_form ..
  case ldrain => exact .scalar rfl ((answers_doneAt s).ite (answers_waitOut s))
  case setfmt => exact .op rfl ((answers_trapAt ..).ite (answers_doneAt _))
  case setalw => exact .op rfl ((answers_trapAt ..).ite ((answers_trapAt ..).ite (answers_doneAt _)))
  case pause => exact .scalar rfl ((answers_trapAt ..).ite (answers_doneAt _))
  case susp => exact execSusp_form ..
  case sleepu => exact .op rfl ((answers_wakeSleep s).ite (answers_next _))
  case bar | cbar | cbarL => exact .scalar rfl ((answers_waitOut s).ite (answers_next _))
  case regather => exact .scalar rfl ((answers_trapAt ..).ite ((answers_waitOut s).ite (answers_next _)))
  case elect => exact .registers rfl ((answers_doneAt _).ite (answers_doneAt _))
  case send => exact .command rfl ((answers_waitOut s).ite (answers_next _))
  case sendm => exact .command rfl ((answers_doneAt _).ite ((answers_waitOut s).ite (answers_next _)))
  case recv => exact execRecv_form ..
  case rprobe => exact .command rfl (answers_lateResult ..)
  case rcancel => exact .command rfl ((answers_lateResult ..).ite (answers_lateResult ..))
  case copy | copym => exact .registers rfl (answers_copyIssue ..)
  case cwait => exact execCwait_form ..
  case mloop | mzero | mout => exact .command rfl (answers_queueCmd ..)
  case mgang => exact .command rfl ((answers_doneAt s).ite ((answers_waitOut s).ite (answers_doneAt _)))
  case mready | mreadyGang => exact .scalar rfl ((answers_waitOut s).ite ((answers_doneAt s).ite (answers_doneAt _)))
  case mwait | mwaitAll => exact .command rfl (answers_mwaitOn ..)
  case mldc => exact .command rfl ((answers_blockedOut s).ite (answers_doneAt _))
  case wload => exact execWload_form ..
  case wdir => exact .command rfl (answers_doneAt _)
  case rfsh | nop | ifence => exact .scalar rfl (answers_doneAt _)
  case ecrd => exact execEcrd_form ..
  case ecclr => exact execEcclr_form ..
  case pub => exact execPub_form ..
  case mkobj => exact execMkobj_form ..
  case stref => exact execStref_form ..
  case ldhdr => exact execLdhdr_form ..
  case launch => exact execLaunch_form ..
  case join => exact execJoin_form ..
  case trap => exact .scalar rfl (answers_trapAt ..)
  case rft => exact .scalar rfl ((answers_waitOut s).ite (answers_next _))
  case csrw => exact .scalar rfl ((answers_trapAt ..).ite ((answers_trapAt ..).ite (answers_doneAt _)).needRegs)
  case cwb => exact .op rfl ((answers_trapAt ..).ite ((answers_doneAt s).ite ((answers_waitOut _).ite (answers_doneAt _))))
  case icinv => exact .op rfl (answers_doneAt _)
  case gend => exact execGend_form s
  case fadd | fsub | fmul | ffma | fmin | fmax | fclass | frnd | ffrac | fldexp | fdot2 | fdot4 | faddi | fmuli | ffmai | iaddi | iandi | iori | ixori |
      ishli | ishri | israi | movi | iadd | isub | imul | imulh | imulhu | imad | imin | imax | iminu | imaxu | vand | vor | vxor | vandn | vshl |
      vshr | vsra | popc | clz | brev | bfe | bfi | prmt | vmov | vsel | lut | pmovToWord | frcp | frsq | fsqrt | fdiv | fexp2 | flog2 | fsin | fcos |
      ftanh | fsigm | cvtfi | cvtif | cvtff | scaleblk | bnd | setb | clrb | efget => exact .vec rfl
  case fcmp | icmpi | icmp | icmpu | plop | pmovToPredicate => exact .pred rfl
  case vmatch | lid | lslot | chkb | vreduce | vscan => exact .lane rfl fun _ => answers_write ..
  case pleat | efclr | efset => exact .lane rfl fun _ => answers_done ..
  case vote => exact .lane rfl fun _ => (answers_write ..).ite (answers_done ..)
  case qblk => exact .lane rfl fun _ => (answers_trap ..).ite (answers_done ..)
  case vld | ldx => exact .load rfl
  case vst | stx => exact .store rfl
  case atom | atomagg => exact .atomic rfl
  case lds => exact execLds_form ..
  case sts => exact execSts_form ..
  case atoms => exact execAtoms_form ..
  case laneStref => exact execLaneStref_form ..
  case tlda => exact execTlda_form ..
  case lbr => exact execLbr_form ..
  case ljmp | lfmt => exact .lane rfl fun _ => (answers_trap ..).ite (answers_control ..)
  case lend | lexit | lnop => exact .lane rfl fun _ => answers_control ..
  case unassignedOpcode => exact .unassigned rfl
  -- What is left has no words: the events.
  all_goals exact .event (sideOf_event rfl rfl)

/-! ### Rank 1 -/

/-- A word with a row in the lane table is a lane word. -/
theorem sideOf_lane {i : Instr} {row : LaneRow × LaneWord} (h : laneRow i = some row) (hop : ∀ l op, i ≠ .unassignedOpcode l op) : sideOf i = .lane := by
  unfold sideOf
  split
  · exact absurd rfl (hop _ _)
  · exact if_pos (by rw [h]; rfl)

theorem laneRow_of_laneRunOf {i : Instr} {s : State} {x : LaneRun} (h : laneRunOf i s = some x) : (laneRow i).isSome = true := by
  unfold laneRunOf at h
  split at h
  · next hrow _ => rw [hrow]; rfl
  · cases h

section

variable {i : Instr} {s : State}

/-- A scalar instruction is behind the gate of rank 1, and answers a next state there. -/
theorem exec_scalar (hop : ∀ l op, i ≠ .unassignedOpcode l op) (hside : sideOf i = .scalar) : ∃ body, exec i s = scalarGate i s body ∧ Answers body := by
  generalize ho : exec i s = o
  cases ho ▸ exec_form i s with
  | scalar hrow hbody => exact ⟨_, rfl, hbody⟩
  | lane hrow hbody => rw [sideOf_lane hrow hop] at hside; cases hside
  | event h => rw [h] at hside; cases hside
  | unassigned h => exact absurd h (hop _ _)

/-- A lane word is behind the lane driver, and its own effect answers a next state. -/
theorem exec_lane (hop : ∀ l op, i ≠ .unassignedOpcode l op) (hside : sideOf i = .lane) {x : LaneRun} (hx : laneRunOf i s = some x) :
    ∃ body, exec i s = laneGo i s body ∧ ∀ x, Answers (body x) := by
  generalize ho : exec i s = o
  cases ho ▸ exec_form i s with
  | scalar hrow hbody => exact absurd (laneRow_of_laneRunOf hx) (by rw [hrow]; exact Bool.false_ne_true)
  | lane hrow hbody => exact ⟨_, rfl, hbody⟩
  | event h => rw [h] at hside; cases hside
  | unassigned h => exact absurd h (hop _ _)

theorem Answers.gate {body : Out} (h : Answers body) : Answers (scalarGate i s body) := by
  rcases scalarGate_cases i s body with hrun | hillop | hfeature | hfield
  · rwa [hrun]
  · rw [hillop]; exact answers_trapAt ..
  · rw [hfeature]; exact answers_trapAt ..
  · rw [hfield]; exact answers_trapAt ..

theorem scalarGate_illop (body : Out) (hbare : ((s.who.isStream && streamIllegal i) || s.illopNow i) = true) :
    scalarGate i s body = trapAt s cIllop (opInfo i) := if_pos hbare

theorem scalarGate_feature (body : Out) (hbare : ((s.who.isStream && streamIllegal i) || s.illopNow i) = false) (hmissing : featureMissing i s = true) :
    scalarGate i s body = trapAt s cFeature (BitVec.ofNat 64 ((featureOf i).getD 0)) := by
  rw [scalarGate, hbare, if_neg Bool.false_ne_true, if_pos hmissing]

theorem scalarGate_illField (body : Out) (hbare : ((s.who.isStream && streamIllegal i) || s.illopNow i) = false) (hfeature : featureMissing i s = false)
    (hfields : fieldsOk i = false) : scalarGate i s body = trapAt s cIllfld (opInfo i) := by
  rw [scalarGate, hbare, if_neg Bool.false_ne_true, hfeature, if_neg Bool.false_ne_true, hfields]
  rfl

section

variable {x : LaneRun} (body : LaneRun → Out) (hx : laneRunOf i s = some x)
include hx

theorem laneGo_feature (hmissing : featureMissing i s = true) :
    laneGo i s body = x.trap s cFeature (BitVec.ofNat 64 ((featureOf i).getD 0)) x.perf := by
  rw [laneGo, hx]
  exact if_pos hmissing

theorem laneGo_illField (hfeature : featureMissing i s = false) (hfits : laneFits i x.r x.w s.cur x.b.entry.dmask x.q.fmt = false) :
    laneGo i s body = x.trap s cIllfld (x.r.op.setWidth 64) x.perf := by
  rw [laneGo, hx]
  dsimp only
  rw [hfeature, if_neg Bool.false_ne_true, hfits]
  rfl

/-- The first empty and marked source raises EMPTY (R116). -/
theorem laneGo_empty (hfeature : featureMissing i s = false) (hfits : laneFits i x.r x.w s.cur x.b.entry.dmask x.q.fmt = true) {e : Nat × Bool}
    {rest : List (Nat × Bool)} (hempty : (laneReads i x.r x.w).filter (fun e => !(s.cur.vreg e.1).full && e.2) = e :: rest) :
    laneGo i s body = x.trap s cEmpty (BitVec.ofNat 64 e.1) x.perf := by
  have hfind : ((laneReads i x.r x.w).filter fun e => !(s.cur.vreg e.1).full).find? (·.2) = some e := by
    rw [← List.head?_filter, List.filter_filter]
    simp only [Bool.and_comm] at hempty ⊢
    rw [hempty]
    rfl
  rw [laneGo, hx]
  dsimp only
  rw [hfeature, if_neg Bool.false_ne_true, hfits, if_neg (by simp), hfind]

theorem answers_laneGo {body : LaneRun → Out} (hbody : ∀ x, Answers (body x)) : Answers (laneGo i s body) := by
  rw [laneGo, hx]
  refine (answers_trap ..).ite ((answers_trap ..).ite ?_)
  dsimp only
  split
  · exact answers_trap ..
  · exact (answers_blockedOut s).ite (hbody x)

end

end

/-- Settles O58: the traps of rank 1 are the gate's and the lane driver's, and no form of meaning answers anything but a next state. -/
theorem illegalInstructionsTrap : Obligations.IllegalInstructionsTrap := by
  unfold Obligations.IllegalInstructionsTrap
  intro i s hop
  refine ⟨fun hside => ?scalar, fun hside x hx => ?lane⟩
  case scalar =>
    intro traps bare
    obtain ⟨body, hexec, hbody⟩ := exec_scalar (s := s) hop hside
    unfold traps
    rw [hexec]
    exact ⟨scalarGate_illop body, scalarGate_feature body, scalarGate_illField body, hbody.gate⟩
  case lane =>
    obtain ⟨body, hexec, hbody⟩ := exec_lane hop hside hx
    rw [hexec]
    exact ⟨laneGo_feature body hx, laneGo_illField body hx, fun e rest hfeature hfits hempty => laneGo_empty body hx hfeature hfits hempty,
      answers_laneGo hx hbody⟩

end Sys2Proof.Machine
end

section
/-! The two encodings and their decoders (12 R274 to R279, Tables 12-5 to 12-10, 12-14 and 16-1). A word equals a concatenation exactly where each
of its fields equals its part; so every format has one lemma that says which fields a word of that format has. The decoder's table is then read once
from the word (what it answers encodes to the word) and once from the instruction (its word decodes to it). -/

namespace Sys2Proof

/-! ### Fields of words -/

section

variable {k m n s : Nat}

/-- A field of two parts. -/
theorem slice_eq_append_iff {x : BitVec m} {y : BitVec n} {w : BitVec k} :
    w.extractLsb' s (m + n) = x ++ y ↔ w.extractLsb' (s + n) m = x ∧ w.extractLsb' s n = y := by
  rw [← BitVec.extractLsb'_append_extractLsb'_eq_extractLsb' rfl]
  constructor
  · intro h
    have hhi := congrArg (BitVec.extractLsb' n m) h
    have hlo := congrArg (BitVec.extractLsb' 0 n) h
    rw [BitVec.extractLsb'_append_eq_left, BitVec.extractLsb'_append_eq_left] at hhi
    rw [BitVec.extractLsb'_append_eq_right, BitVec.extractLsb'_append_eq_right] at hlo
    exact ⟨hhi, hlo⟩
  · rintro ⟨rfl, rfl⟩
    rfl

/-- A word is the field of all its bits. -/
theorem eq_iff_slice_eq {x w : BitVec n} : x = w ↔ w.extractLsb' 0 n = x := by
  rw [BitVec.extractLsb'_eq_self, eq_comm]

theorem slice_eq_ofFin_iff {d : SNum} {w : BitVec k} : w.extractLsb' s 6 = BitVec.ofFin (w := 6) d ↔ (w.extractLsb' s 6).toFin = d :=
  ⟨fun h => congrArg BitVec.toFin h, fun h => congrArg BitVec.ofFin h⟩

theorem slice_eq_ofBool_iff {x : Bool} {w : BitVec k} : w.extractLsb' s 1 = BitVec.ofBool x ↔ w.getLsbD s = x := by
  rw [BitVec.getLsbD_eq_extractLsb']
  generalize w.extractLsb' s 1 = b
  revert b
  cases x <;> decide

theorem eq_ofNat_of_toNat {x : BitVec n} (h : x.toNat = k) : x = BitVec.ofNat n k := by
  rw [← h, BitVec.ofNat_toNat, BitVec.setWidth_eq]

end

/-! ### Masks of unused bits (R275) -/

section

variable {k m n s : Nat} {w u : BitVec k}

/-- A word that a mask clears is zero in every field where the mask is all ones. -/
theorem slice_eq_zero (hmask : w &&& u = 0) (hones : u.extractLsb' s n = BitVec.allOnes n) : w.extractLsb' s n = 0 := by
  have h := congrArg (BitVec.extractLsb' s n) hmask
  rwa [BitVec.extractLsb'_and, hones, BitVec.and_allOnes, BitVec.ofNat_eq_ofNat, BitVec.extractLsb'_zero] at h

/-- A mask of one run of ones clears a word that is zero there. -/
theorem and_eq_zero_of_slice (hzero : w.extractLsb' s n = 0) (hrun : u = (BitVec.allOnes n).setWidth k <<< s) : w &&& u = 0 := by
  subst hrun
  refine BitVec.eq_of_getLsbD_eq fun i hi => ?_
  rw [BitVec.getLsbD_and]
  by_cases hin : s ≤ i ∧ i - s < n
  · have hbit : w.getLsbD i = false := by
      simpa [hin, Nat.add_sub_cancel' hin.1] using congrArg (BitVec.getLsbD · (i - s)) hzero
    rw [hbit, Bool.false_and, BitVec.ofNat_eq_ofNat, BitVec.getLsbD_zero]
  · simp only [not_and_or, not_le, not_lt] at hin
    rcases hin with hlow | hhigh
    · simp [hlow]
    · simp [Nat.not_lt.mpr hhigh]

/-- A mask clears a field of two parts where it clears both. -/
theorem slice_and_eq_zero_iff : w.extractLsb' s (m + n) &&& u.extractLsb' s (m + n) = 0 ↔
    w.extractLsb' (s + n) m &&& u.extractLsb' (s + n) m = 0 ∧ w.extractLsb' s n &&& u.extractLsb' s n = 0 := by
  have hzero : (0 : BitVec (m + n)) = (0 : BitVec m) ++ (0 : BitVec n) := by simp
  rw [← BitVec.extractLsb'_and, hzero, slice_eq_append_iff, BitVec.extractLsb'_and, BitVec.extractLsb'_and]

/-- A mask clears a word of two parts where it clears both. -/
theorem append_and_eq_zero_iff {x : BitVec m} {y : BitVec n} {u : BitVec (m + n)} :
    (x ++ y) &&& u = 0 ↔ x &&& u.extractLsb' n m = 0 ∧ y &&& u.extractLsb' 0 n = 0 := by
  have hparts := slice_and_eq_zero_iff (m := m) (n := n) (s := 0) (w := x ++ y) (u := u)
  rwa [BitVec.extractLsb'_eq_self, BitVec.extractLsb'_eq_self, Nat.zero_add, BitVec.extractLsb'_append_eq_left,
    BitVec.extractLsb'_append_eq_right] at hparts

end

/-! ### The formats of Table 12-5 -/

section

variable {w : BitVec 32} {op : BitVec 6} {d a b : SNum}

theorem sr_eq_iff {f : BitVec 8} : sr op d a b f = w ↔ (((fop w = op ∧ fd w = d) ∧ fa w = a) ∧ fb w = b) ∧ fn w = f := by
  rw [eq_iff_slice_eq]
  change w.extractLsb' 0 (6 + 6 + 6 + 6 + 8) = _ ↔ _
  simp only [sr, slice_eq_append_iff, slice_eq_ofFin_iff]
  rfl

theorem si_eq_iff {imm : BitVec 14} : si op d a imm = w ↔ ((fop w = op ∧ fd w = d) ∧ fa w = a) ∧ w.extractLsb' 0 14 = imm := by
  rw [eq_iff_slice_eq]
  change w.extractLsb' 0 (6 + 6 + 6 + 14) = _ ↔ _
  simp only [si, slice_eq_append_iff, slice_eq_ofFin_iff]
  rfl

theorem su_eq_iff {imm : BitVec 20} : su op d imm = w ↔ (fop w = op ∧ fd w = d) ∧ w.extractLsb' 0 20 = imm := by
  rw [eq_iff_slice_eq]
  change w.extractLsb' 0 (6 + 6 + 20) = _ ↔ _
  simp only [su, slice_eq_append_iff, slice_eq_ofFin_iff]
  rfl

theorem sb_eq_iff {cnd : BitVec 3} {off : BitVec 11} :
    sb op a b cnd off = w ↔ (((fop w = op ∧ fd w = a) ∧ fa w = b) ∧ w.extractLsb' 11 3 = cnd) ∧ w.extractLsb' 0 11 = off := by
  rw [eq_iff_slice_eq]
  change w.extractLsb' 0 (6 + 6 + 6 + 3 + 11) = _ ↔ _
  simp only [sb, slice_eq_append_iff, slice_eq_ofFin_iff]
  rfl

theorem sj_eq_iff {off : BitVec 26} : sj op off = w ↔ fop w = op ∧ w.extractLsb' 0 26 = off := by
  rw [eq_iff_slice_eq]
  change w.extractLsb' 0 (6 + 26) = _ ↔ _
  simp only [sj, slice_eq_append_iff]
  rfl

theorem sm_eq_iff {sz sc : BitVec 2} {off : BitVec 10} : sm op d a sz sc off = w ↔
    ((((fop w = op ∧ fd w = d) ∧ fa w = a) ∧ w.extractLsb' 12 2 = sz) ∧ w.extractLsb' 10 2 = sc) ∧ w.extractLsb' 0 10 = off := by
  rw [eq_iff_slice_eq]
  change w.extractLsb' 0 (6 + 6 + 6 + 2 + 2 + 10) = _ ↔ _
  simp only [sm, slice_eq_append_iff, slice_eq_ofFin_iff]
  rfl

/-- The word of TRAP (Table 12-8). -/
theorem trapWord_eq_iff {imm : BitVec 16} {f : BitVec 8} :
    op ++ (0 : BitVec 2) ++ imm ++ f = w ↔ ((fop w = op ∧ w.extractLsb' 24 2 = 0) ∧ w.extractLsb' 8 16 = imm) ∧ fn w = f := by
  rw [eq_iff_slice_eq]
  change w.extractLsb' 0 (6 + 2 + 16 + 8) = _ ↔ _
  simp only [slice_eq_append_iff]
  rfl

/-- The words of CSRR and CSRW (Table 12-8). -/
theorem csrWord_eq_iff {r : BitVec 12} {f : BitVec 8} :
    op ++ BitVec.ofFin (w := 6) d ++ r ++ f = w ↔ ((fop w = op ∧ fd w = d) ∧ w.extractLsb' 8 12 = r) ∧ fn w = f := by
  rw [eq_iff_slice_eq]
  change w.extractLsb' 0 (6 + 6 + 12 + 8) = _ ↔ _
  simp only [slice_eq_append_iff, slice_eq_ofFin_iff]
  rfl

theorem sr_and_eq_zero_iff {u : BitVec 32} {f : BitVec 8} : sr op d a b f &&& u = 0 ↔
    (((op &&& u.extractLsb' 26 6 = 0 ∧ BitVec.ofFin (w := 6) d &&& u.extractLsb' 20 6 = 0) ∧ BitVec.ofFin (w := 6) a &&& u.extractLsb' 14 6 = 0) ∧
      BitVec.ofFin (w := 6) b &&& u.extractLsb' 8 6 = 0) ∧ f &&& u.extractLsb' 0 8 = 0 := by
  generalize hw : sr op d a b f = w
  obtain ⟨⟨⟨⟨rfl, rfl⟩, rfl⟩, rfl⟩, rfl⟩ := sr_eq_iff.mp hw
  have hall : w &&& u = 0 ↔ w.extractLsb' 0 32 &&& u.extractLsb' 0 32 = 0 := by simp only [BitVec.extractLsb'_eq_self]
  rw [hall]
  change w.extractLsb' 0 (6 + 6 + 6 + 6 + 8) &&& u.extractLsb' 0 (6 + 6 + 6 + 6 + 8) = 0 ↔ _
  simp only [slice_and_eq_zero_iff]
  rfl

end

/-! ### The parts of an immediate and of fn (Tables 12-6, 12-8, 16-1) -/

section

variable {k : Nat} {v : BitVec k} {w : BitVec 32} {x y : Bool} {u1 : BitVec 1} {u2 v2 : BitVec 2} {u3 : BitVec 3} {u4 v4 : BitVec 4}

/-- The immediate of a shift. -/
theorem imm14_eq_shift_iff {u8 : BitVec 8} {u6 : BitVec 6} : w.extractLsb' 0 14 = u8 ++ u6 ↔ w.extractLsb' 6 8 = u8 ∧ w.extractLsb' 0 6 = u6 := by
  change w.extractLsb' 0 (8 + 6) = _ ↔ _
  simp only [slice_eq_append_iff]

/-- fn of SATOM. -/
theorem fn_eq_atomic_iff : fn w = u4 ++ v2 ++ u2 ↔ (w.extractLsb' 4 4 = u4 ∧ w.extractLsb' 2 2 = v2) ∧ w.extractLsb' 0 2 = u2 := by
  change w.extractLsb' 0 (4 + 2 + 2) = _ ↔ _
  simp only [slice_eq_append_iff]

/-- fn of SFENCE. -/
theorem fn_eq_fence_iff : fn w = u3 ++ v2 ++ BitVec.ofBool x ++ u2 ↔
    ((w.extractLsb' 5 3 = u3 ∧ w.extractLsb' 3 2 = v2) ∧ w.getLsbD 2 = x) ∧ w.extractLsb' 0 2 = u2 := by
  change w.extractLsb' 0 (3 + 2 + 1 + 2) = _ ↔ _
  simp only [slice_eq_append_iff, slice_eq_ofBool_iff]

/-- fn of SACQP. -/
theorem fn_eq_scope_iff {u6 : BitVec 6} : fn w = u6 ++ u2 ↔ w.extractLsb' 2 6 = u6 ∧ w.extractLsb' 0 2 = u2 := by
  change w.extractLsb' 0 (6 + 2) = _ ↔ _
  simp only [slice_eq_append_iff]

/-- fn of REGATHER. -/
theorem fn_eq_key_iff {u7 : BitVec 7} : fn w = u1 ++ u7 ↔ w.extractLsb' 7 1 = u1 ∧ w.extractLsb' 0 7 = u7 := by
  change w.extractLsb' 0 (1 + 7) = _ ↔ _
  simp only [slice_eq_append_iff]

/-- fn of COPYM. -/
theorem fn_eq_flags_iff : fn w = u2 ++ BitVec.ofBool y ++ BitVec.ofBool x ++ u4 ↔
    ((w.extractLsb' 6 2 = u2 ∧ w.getLsbD 5 = y) ∧ w.getLsbD 4 = x) ∧ w.extractLsb' 0 4 = u4 := by
  change w.extractLsb' 0 (2 + 1 + 1 + 4) = _ ↔ _
  simp only [slice_eq_append_iff, slice_eq_ofBool_iff]

/-- fn of STREF. -/
theorem fn_eq_release_iff : fn w = u1 ++ v2 ++ BitVec.ofBool x ++ u4 ↔
    ((w.extractLsb' 7 1 = u1 ∧ w.extractLsb' 5 2 = v2) ∧ w.getLsbD 4 = x) ∧ w.extractLsb' 0 4 = u4 := by
  change w.extractLsb' 0 (1 + 2 + 1 + 4) = _ ↔ _
  simp only [slice_eq_append_iff, slice_eq_ofBool_iff]

/-- A low byte with a flag in [4], as fn of COPY and CWAIT. -/
theorem byte_eq_flag_iff :
    v.extractLsb' 0 8 = u3 ++ BitVec.ofBool x ++ u4 ↔ (v.extractLsb' 5 3 = u3 ∧ v.getLsbD 4 = x) ∧ v.extractLsb' 0 4 = u4 := by
  change v.extractLsb' 0 (3 + 1 + 4) = _ ↔ _
  simp only [slice_eq_append_iff, slice_eq_ofBool_iff]

/-- A low byte with a flag in [0]. -/
theorem byte_eq_low_iff {u7 : BitVec 7} : v.extractLsb' 0 8 = u7 ++ BitVec.ofBool x ↔ v.extractLsb' 1 7 = u7 ∧ v.getLsbD 0 = x := by
  change v.extractLsb' 0 (7 + 1) = _ ↔ _
  simp only [slice_eq_append_iff, slice_eq_ofBool_iff]

theorem byte_eq_nibbles_iff : v.extractLsb' 0 8 = v4 ++ u4 ↔ v.extractLsb' 4 4 = v4 ∧ v.extractLsb' 0 4 = u4 := by
  change v.extractLsb' 0 (4 + 4) = _ ↔ _
  simp only [slice_eq_append_iff]

variable {f : BitVec 8}

/-- fn by the selector [3:0] of Table 16-1. -/
theorem fn_eq_iff_selector : fn w = f ↔ w.extractLsb' 4 4 = f.extractLsb' 4 4 ∧ w.extractLsb' 0 4 = f.extractLsb' 0 4 := by
  have hf := byte_eq_nibbles_iff.mpr ⟨Eq.refl (f.extractLsb' 4 4), Eq.refl (f.extractLsb' 0 4)⟩
  rw [← byte_eq_nibbles_iff, ← hf, BitVec.extractLsb'_eq_self]
  rfl

/-- fn by the flag [4] of MREADY and MWAIT. -/
theorem fn_eq_iff_flag : fn w = f ↔ (w.extractLsb' 5 3 = f.extractLsb' 5 3 ∧ w.getLsbD 4 = f.getLsbD 4) ∧ w.extractLsb' 0 4 = f.extractLsb' 0 4 := by
  have hf := byte_eq_flag_iff.mpr ⟨⟨Eq.refl (f.extractLsb' 5 3), Eq.refl (f.getLsbD 4)⟩, Eq.refl (f.extractLsb' 0 4)⟩
  rw [← byte_eq_flag_iff, ← hf, BitVec.extractLsb'_eq_self]
  rfl

/-- fn by the flag [0] of CBAR. -/
theorem fn_eq_iff_low : fn w = f ↔ w.extractLsb' 1 7 = f.extractLsb' 1 7 ∧ w.getLsbD 0 = f.getLsbD 0 := by
  have hf := byte_eq_low_iff.mpr ⟨Eq.refl (f.extractLsb' 1 7), Eq.refl (f.getLsbD 0)⟩
  rw [← byte_eq_low_iff, ← hf, BitVec.extractLsb'_eq_self]
  rfl

end

/-! ### Which side an instruction stands on -/

section

variable {i : Instr}

theorem sideOf_of_opcode (hassigned : ∀ l op, i ≠ .unassignedOpcode l op) (hrow : laneRow i = none) (hop : fop (encodeScalar i) ≠ 0) :
    sideOf i = .scalar := by
  have hop' : ((fop (encodeScalar i)).toNat != 0) = true := by
    rw [bne_iff_ne]
    exact fun h => hop (eq_ofNat_of_toNat h)
  unfold sideOf
  split
  · exact absurd rfl (hassigned _ _)
  · rw [hrow, if_neg (by decide), if_pos hop']

/-- An instruction of Table 12-7, whose opcode is 0, is a scalar one. -/
theorem sideOf_salu (hside : sideOf i = if (fop (encodeScalar i)).toNat != 0 then .scalar else .scalar) : sideOf i = .scalar :=
  hside.trans (ite_self _)

/-- What has no scalar word and no row of Table 12-7 is no scalar instruction. -/
theorem sideOf_ne_scalar (hcode : encodeScalar i = 0)
    (hside : sideOf i = if (laneRow i).isSome then .lane else if (fop (encodeScalar i)).toNat != 0 then .scalar else .event) : sideOf i ≠ .scalar := by
  rw [hside, hcode]
  cases (laneRow i).isSome <;> decide

theorem laneRow_of_sideOf (hassigned : ∀ l op, i ≠ .unassignedOpcode l op) (hside : sideOf i = .lane) : ∃ r x, laneRow i = some (r, x) := by
  cases hrow : laneRow i with
  | some row => exact ⟨row.1, row.2, rfl⟩
  | none =>
    unfold sideOf at hside
    rw [hrow] at hside
    split at hside
    · exact absurd rfl (hassigned _ _)
    · rw [if_neg (by decide)] at hside
      split at hside
      · cases hside
      · split at hside <;> cases hside

end

/-! ### From a scalar word to its instruction and back -/

/-- A word whose unused bits are 0 is the encoding of what the decoder reads from it: an instruction, and the bits it leaves unused. -/
def ReadsBack (w : BitVec 32) (p : Instr × BitVec 32) : Prop :=
  (∀ l op, p.1 ≠ .unassignedOpcode l op) → w &&& p.2 = 0 → encodeScalar p.1 = w ∧ sideOf p.1 = .scalar

section

variable {w u : BitVec 32} {i : Instr}

theorem readsBack_unassigned {l : Bool} {op : BitVec 8} : ReadsBack w (.unassignedOpcode l op, u) := fun h => absurd rfl (h l op)

theorem readsBack_of_opcode (hrow : laneRow i = none) (hop : fop w ≠ 0) (hcode : w &&& u = 0 → encodeScalar i = w) : ReadsBack w (i, u) := by
  intro hassigned hmask
  have hi := hcode hmask
  exact ⟨hi, sideOf_of_opcode hassigned hrow (hi ▸ hop)⟩

theorem readsBack_sr {op : BitVec 6} {d a b : SNum} {f : BitVec 8} (hcode : encodeScalar i = sr op d a b f) (hrow : laneRow i = none) (hop : fop w = op)
    (hne : op ≠ 0) (hfields : w &&& u = 0 → ((fd w = d ∧ fa w = a) ∧ fb w = b) ∧ fn w = f) : ReadsBack w (i, u) := by
  refine readsBack_of_opcode hrow (hop ▸ hne) fun hmask => ?_
  rw [hcode, sr_eq_iff]
  simpa only [hop, true_and] using hfields hmask

theorem readsBack_decodeSalu (hop : fop w = 0) : ReadsBack w (decodeSalu w) := by
  unfold decodeSalu
  split
  case h_26 => exact readsBack_unassigned
  all_goals
    rename_i hfn
    replace hfn := eq_ofNat_of_toNat hfn
    refine fun _ hmask => ⟨?_, sideOf_salu rfl⟩
    unfold encodeScalar
    dsimp only at hmask
    simp [sr_eq_iff, hop, hfn, fb, slice_eq_zero hmask]

/-- In every row of the opcode map, the fields that the instruction names are copied from the word, and the others are 0 where the mask says so. -/
theorem readsBack_decodeScalarRaw (w : BitVec 32) : ReadsBack w (decodeScalarRaw w) := by
  unfold decodeScalarRaw
  split
  case h_1 hop => exact readsBack_decodeSalu (eq_ofNat_of_toNat hop)
  case h_55 => exact readsBack_unassigned
  all_goals
    rename_i hop
    replace hop := eq_ofNat_of_toNat hop
  -- CBAR
  case h_33 =>
    cases hflag : w.getLsbD 0
    all_goals
      refine readsBack_sr rfl rfl hop (by decide) fun hmask => ?_
      rw [fn_eq_iff_low, hflag]
      simp [slice_eq_zero hmask, fd, fa, fb]
  -- MREADY and MWAIT
  case h_44 | h_45 =>
    cases hflag : w.getLsbD 4
    all_goals
      refine readsBack_sr rfl rfl hop (by decide) fun hmask => ?_
      rw [fn_eq_iff_flag, hflag]
      simp [slice_eq_zero hmask, fd, fa, fb]
  -- RPROBE and RCANCEL, ECRD and ECCLR, LAUNCH and JOIN
  case h_49 | h_51 | h_53 =>
    split
    case h_3 => exact readsBack_unassigned
    all_goals
      rename_i hsel
      refine readsBack_sr rfl rfl hop (by decide) fun hmask => ?_
      rw [fn_eq_iff_selector, eq_ofNat_of_toNat hsel]
      simp [slice_eq_zero hmask, fd, fb]
  -- WLOAD, WDIR and RFSH
  case h_50 =>
    split
    case h_4 => exact readsBack_unassigned
    all_goals
      rename_i hsel
      refine readsBack_sr rfl rfl hop (by decide) fun hmask => ?_
      rw [fn_eq_iff_selector, eq_ofNat_of_toNat hsel]
      simp [slice_eq_zero hmask, fd, fa, fb]
  -- PUB, MKOBJ, STREF and LDHDR
  case h_52 =>
    split
    case h_5 => exact readsBack_unassigned
    all_goals
      rename_i hsel
      refine readsBack_sr rfl rfl hop (by decide) fun hmask => ?_
    case h_3 =>
      rw [fn_eq_release_iff, eq_ofNat_of_toNat hsel]
      simp [slice_eq_zero hmask, fd, fb]
    all_goals
      rw [fn_eq_iff_selector, eq_ofNat_of_toNat hsel]
      simp [slice_eq_zero hmask, fd, fb]
  -- The instructions of Table 12-8
  case h_54 =>
    split
    case h_10 => exact readsBack_unassigned
    all_goals
      rename_i hfn
      replace hfn := eq_ofNat_of_toNat hfn
    case h_2 =>
      exact readsBack_of_opcode rfl (by rw [hop]; decide) fun hmask => trapWord_eq_iff.mpr ⟨⟨⟨hop, slice_eq_zero hmask rfl⟩, rfl⟩, hfn⟩
    case h_4 | h_5 => exact readsBack_of_opcode rfl (by rw [hop]; decide) fun _ => csrWord_eq_iff.mpr ⟨⟨⟨hop, rfl⟩, rfl⟩, hfn⟩
    all_goals
      refine readsBack_sr rfl rfl hop (by decide) fun hmask => ?_
      simp [hfn, slice_eq_zero hmask, fd, fa, fb]
  -- The opcodes with one instruction each
  all_goals
    refine readsBack_of_opcode rfl (by rw [hop]; decide) fun hmask => ?_
    unfold encodeScalar
    simp only [sr_eq_iff, si_eq_iff, su_eq_iff, sb_eq_iff, sj_eq_iff, sm_eq_iff, hop, imm14_eq_shift_iff, fn_eq_atomic_iff, fn_eq_fence_iff,
      fn_eq_scope_iff, fn_eq_key_iff, fn_eq_flags_iff]
    simp [slice_eq_zero hmask, fd, fa, fb, fn, byte_eq_flag_iff]

end

/-- The decoder reads an instruction from a word whose unused bits are 0. -/
def ReadsAs (w : BitVec 32) (i : Instr) : Prop := ∃ u, decodeScalarRaw w = (i, u) ∧ w &&& u = 0

section

variable {i : Instr} {w : BitVec 32}

theorem readsAs_sr {u : BitVec 32} {op : BitVec 6} {d a b : SNum} {f : BitVec 8} (hcode : encodeScalar i = sr op d a b f)
    (hdecode : ∀ w, fop w = op → fd w = d → fa w = a → fb w = b → fn w = f → decodeScalarRaw w = (i, u))
    (hmask : (((op &&& u.extractLsb' 26 6 = 0 ∧ BitVec.ofFin (w := 6) d &&& u.extractLsb' 20 6 = 0) ∧ BitVec.ofFin (w := 6) a &&& u.extractLsb' 14 6 = 0) ∧
      BitVec.ofFin (w := 6) b &&& u.extractLsb' 8 6 = 0) ∧ f &&& u.extractLsb' 0 8 = 0) : ReadsAs (encodeScalar i) i := by
  obtain ⟨⟨⟨⟨hop, hd⟩, ha⟩, hb⟩, hfn⟩ := sr_eq_iff.mp hcode.symm
  exact ⟨u, hdecode _ hop hd ha hb hfn, hcode ▸ sr_and_eq_zero_iff.mpr hmask⟩

theorem decodeScalarRaw_salu (hop : fop w = 0) : decodeScalarRaw w = decodeSalu w := by
  rw [decodeScalarRaw, hop]
  rfl

/-- The word of an instruction has the opcode and the selector of its row, and the decoder takes its operands from where the encoder put them. -/
theorem readsAs_encodeScalar (hassigned : ∀ l op, i ≠ .unassignedOpcode l op) (hside : sideOf i = .scalar) : ReadsAs (encodeScalar i) i := by
  cases i
  case unassignedOpcode => exact absurd rfl (hassigned _ _)
  -- Table 12-7
  case sadd | ssub | sand | sor | sxor | sandn | sshl | sshr | ssra | sslt | ssltu | smin | smax | sminu | smaxu | smul | smulh | smulhu | sdiv | sdivu |
      srem | sremu | spopc | sclz | sctz =>
    apply readsAs_sr rfl
    · intro w hop _ _ _ hfn
      subst_vars
      rw [decodeScalarRaw_salu hop, decodeSalu, hfn]
      rfl
    · simp
  -- Registers alone
  case sjr | lrun | ldrain | setfmt | setalw | sleepu | bar | elect | send | sendm | recv | mloop | mgang | mout | mldc =>
    apply readsAs_sr rfl
    · intro w hop _ _ _ _
      subst_vars
      rw [decodeScalarRaw, hop]
      rfl
    · simp
  case mzero n =>
    apply readsAs_sr rfl
    · intro w hop _ _ hb _
      obtain rfl : w.extractLsb' 8 6 = n := congrArg BitVec.ofFin hb
      rw [decodeScalarRaw, hop]
      rfl
    · simp
  -- A selector in fn
  case rprobe | rcancel | wload | wdir | rfsh | ecrd | ecclr | pub | mkobj | ldhdr | launch | join =>
    apply readsAs_sr rfl
    · intro w hop _ _ _ hfn
      subst_vars
      rw [decodeScalarRaw, hop, (fn_eq_iff_selector.mp hfn).2]
      rfl
    · simp
  case nop | rft | cwb | ifence | gend =>
    apply readsAs_sr rfl
    · intro w hop _ _ _ hfn
      subst_vars
      rw [decodeScalarRaw, hop, hfn]
      rfl
    · simp
  case icinv c _ _ =>
    apply readsAs_sr rfl
    · intro w hop hd _ _ hfn
      obtain rfl : w.extractLsb' 20 6 = c := congrArg BitVec.ofFin hd
      subst_vars
      rw [decodeScalarRaw, hop, hfn]
      rfl
    · simp
  -- A flag in fn that selects the instruction
  case cbar | cbarL =>
    apply readsAs_sr rfl
    · intro w hop _ _ _ hfn
      rw [decodeScalarRaw, hop, (fn_eq_iff_low.mp hfn).2]
      rfl
    · simp
  case mready | mreadyGang | mwaitAll =>
    apply readsAs_sr rfl
    · intro w hop _ _ _ hfn
      rw [decodeScalarRaw, hop, (fn_eq_iff_flag.mp hfn).1.2]
      rfl
    · simp
  case mwait n =>
    apply readsAs_sr rfl
    · intro w hop _ _ hb hfn
      obtain rfl : w.extractLsb' 8 6 = n := congrArg BitVec.ofFin hb
      rw [decodeScalarRaw, hop, (fn_eq_iff_flag.mp hfn).1.2]
      rfl
    · simp
  -- Operands in fn
  case satom =>
    apply readsAs_sr rfl
    · intro w hop _ _ _ hfn
      obtain ⟨⟨_, _⟩, _⟩ := fn_eq_atomic_iff.mp hfn
      subst_vars
      rw [decodeScalarRaw, hop]
      rfl
    · simp
  case sfence =>
    apply readsAs_sr rfl
    · intro w hop _ _ _ hfn
      obtain ⟨⟨⟨_, _⟩, _⟩, _⟩ := fn_eq_fence_iff.mp hfn
      subst_vars
      rw [decodeScalarRaw, hop]
      rfl
    · refine ⟨by simp, ?_⟩
      rw [append_and_eq_zero_iff]
      simp only [append_and_eq_zero_iff]
      simp
  case sacqp =>
    apply readsAs_sr rfl
    · intro w hop _ _ _ hfn
      obtain ⟨_, _⟩ := fn_eq_scope_iff.mp hfn
      subst_vars
      rw [decodeScalarRaw, hop]
      rfl
    · refine ⟨by simp, ?_⟩
      rw [append_and_eq_zero_iff]
      simp
  case regather =>
    apply readsAs_sr rfl
    · intro w hop _ _ _ hfn
      obtain ⟨_, _⟩ := fn_eq_key_iff.mp hfn
      subst_vars
      rw [decodeScalarRaw, hop]
      rfl
    · refine ⟨by simp, ?_⟩
      rw [append_and_eq_zero_iff]
      simp
  case copy | cwait =>
    apply readsAs_sr rfl
    · intro w hop _ _ _ hfn
      obtain ⟨⟨_, _⟩, _⟩ := byte_eq_flag_iff.mp hfn
      subst_vars
      rw [decodeScalarRaw, hop]
      rfl
    · refine ⟨by simp, ?_⟩
      rw [append_and_eq_zero_iff]
      simp only [append_and_eq_zero_iff]
      simp
  case copym =>
    apply readsAs_sr rfl
    · intro w hop _ _ _ hfn
      obtain ⟨⟨⟨_, _⟩, _⟩, _⟩ := fn_eq_flags_iff.mp hfn
      subst_vars
      rw [decodeScalarRaw, hop]
      rfl
    · refine ⟨by simp, ?_⟩
      rw [append_and_eq_zero_iff]
      simp only [append_and_eq_zero_iff]
      simp
  case stref =>
    apply readsAs_sr rfl
    · intro w hop _ _ _ hfn
      obtain ⟨⟨⟨_, _⟩, _⟩, hsel⟩ := fn_eq_release_iff.mp hfn
      subst_vars
      rw [decodeScalarRaw, hop, hsel]
      rfl
    · refine ⟨by simp, ?_⟩
      rw [append_and_eq_zero_iff]
      simp only [append_and_eq_zero_iff]
      simp
  -- The formats with an immediate or an offset
  case saddi | sandi | sori | sxori | slti | sltiu =>
    generalize hw : encodeScalar _ = w
    obtain ⟨⟨⟨hop, rfl⟩, rfl⟩, rfl⟩ := si_eq_iff.mp hw
    exact ⟨_, by rw [decodeScalarRaw, hop]; rfl, BitVec.and_zero⟩
  case sshli | sshri | ssrai =>
    generalize hw : encodeScalar _ = w
    obtain ⟨⟨⟨hop, rfl⟩, rfl⟩, himm⟩ := si_eq_iff.mp hw
    obtain ⟨hunused, rfl⟩ := imm14_eq_shift_iff.mp himm
    exact ⟨_, by rw [decodeScalarRaw, hop]; rfl, and_eq_zero_of_slice hunused rfl⟩
  case slui | saddpc =>
    generalize hw : encodeScalar _ = w
    obtain ⟨⟨hop, rfl⟩, rfl⟩ := su_eq_iff.mp hw
    exact ⟨_, by rw [decodeScalarRaw, hop]; rfl, BitVec.and_zero⟩
  case pause =>
    generalize hw : encodeScalar _ = w
    obtain ⟨⟨hop, hd⟩, rfl⟩ := su_eq_iff.mp hw
    exact ⟨_, by rw [decodeScalarRaw, hop]; rfl, and_eq_zero_of_slice (congrArg BitVec.ofFin hd) rfl⟩
  case sbr =>
    generalize hw : encodeScalar _ = w
    obtain ⟨⟨⟨⟨hop, rfl⟩, rfl⟩, rfl⟩, rfl⟩ := sb_eq_iff.mp hw
    exact ⟨_, by rw [decodeScalarRaw, hop]; rfl, BitVec.and_zero⟩
  case susp =>
    generalize hw : encodeScalar _ = w
    obtain ⟨⟨⟨⟨hop, rfl⟩, rfl⟩, hunused⟩, rfl⟩ := sb_eq_iff.mp hw
    exact ⟨_, by rw [decodeScalarRaw, hop]; rfl, and_eq_zero_of_slice hunused rfl⟩
  case sj | sjl =>
    generalize hw : encodeScalar _ = w
    obtain ⟨hop, rfl⟩ := sj_eq_iff.mp hw
    exact ⟨_, by rw [decodeScalarRaw, hop]; rfl, BitVec.and_zero⟩
  case sld | slds | sst =>
    generalize hw : encodeScalar _ = w
    obtain ⟨⟨⟨⟨⟨hop, rfl⟩, rfl⟩, rfl⟩, hunused⟩, rfl⟩ := sm_eq_iff.mp hw
    exact ⟨_, by rw [decodeScalarRaw, hop]; rfl, and_eq_zero_of_slice hunused rfl⟩
  case slda | sstl =>
    generalize hw : encodeScalar _ = w
    obtain ⟨⟨⟨⟨⟨hop, rfl⟩, rfl⟩, rfl⟩, rfl⟩, rfl⟩ := sm_eq_iff.mp hw
    exact ⟨_, by rw [decodeScalarRaw, hop]; rfl, BitVec.and_zero⟩
  case trap =>
    generalize hw : encodeScalar _ = w
    obtain ⟨⟨⟨hop, hunused⟩, rfl⟩, hfn⟩ := trapWord_eq_iff.mp hw
    exact ⟨_, by rw [decodeScalarRaw, hop, hfn]; rfl, and_eq_zero_of_slice hunused rfl⟩
  case csrr | csrw =>
    generalize hw : encodeScalar _ = w
    obtain ⟨⟨⟨hop, rfl⟩, rfl⟩, hfn⟩ := csrWord_eq_iff.mp hw
    exact ⟨_, by rw [decodeScalarRaw, hop, hfn]; rfl, BitVec.and_zero⟩
  -- What is left has no scalar words: the lane words and the events.
  all_goals exact absurd hside (sideOf_ne_scalar rfl rfl)

theorem decodeScalar_eq_ok_iff : decodeScalar w = .ok i ↔ ReadsAs w i ∧ WellFormed i := by
  unfold decodeScalar ReadsAs
  obtain ⟨j, u⟩ := decodeScalarRaw w
  dsimp only
  constructor
  · intro h
    split at h
    · next hok => cases h; exact ⟨⟨u, rfl, hok.1⟩, hok.2⟩
    · cases h
  · rintro ⟨⟨_, heq, hmask⟩, hfields⟩
    cases heq
    exact if_pos ⟨hmask, hfields⟩

theorem decodeScalar_encodeScalar (hassigned : ∀ l op, i ≠ .unassignedOpcode l op) (hside : sideOf i = .scalar) (hfields : WellFormed i) :
    decodeScalar (encodeScalar i) = .ok i := decodeScalar_eq_ok_iff.mpr ⟨readsAs_encodeScalar hassigned hside, hfields⟩

theorem ReadsAs.encode (h : ReadsAs w i) (hassigned : ∀ l op, i ≠ .unassignedOpcode l op) : encodeScalar i = w ∧ sideOf i = .scalar := by
  obtain ⟨u, hdecode, hmask⟩ := h
  have hback := readsBack_decodeScalarRaw w
  rw [hdecode] at hback
  exact hback hassigned hmask

end

/-! ### Lane words (Tables 12-9, 12-10, 12-14) -/

theorem Src.bits_eq_iff {x : Src} {b : BitVec 21} : x.bits = b ↔ Src.ofBits b = x := by
  rw [eq_iff_slice_eq]
  change b.extractLsb' 0 (5 + 3 + 3 + 1 + 1 + 1 + 7) = _ ↔ _
  obtain ⟨reg, neg, abs, fe, sub, route, arg⟩ := x
  simp only [Src.bits, slice_eq_append_iff, slice_eq_ofBool_iff, Src.ofBits, Src.mk.injEq]
  tauto

theorem laneBits_eq_iff {op : BitVec 8} {x : LaneWord} {w : BitVec 96} : laneBits op x = w ↔ laneFields w = x ∧ w.extractLsb' 0 8 = op := by
  rw [eq_iff_slice_eq]
  change w.extractLsb' 0 (21 + 21 + 21 + 3 + 3 + 3 + 2 + 7 + 2 + 1 + 3 + 1 + 8) = _ ↔ _
  have hsrc (b : BitVec 21) (y : Src) : b = y.bits ↔ Src.ofBits b = y := eq_comm.trans Src.bits_eq_iff
  obtain ⟨pair, pred, pneg, gsel, dst, clamp, scale, nar, rnd, a, b, c⟩ := x
  simp only [laneBits, slice_eq_append_iff, slice_eq_ofBool_iff, laneFields, LaneWord.mk.injEq, hsrc]
  tauto

/-- The instruction of a lane opcode has the row of that opcode. -/
theorem laneRow_laneInstr (op : BitVec 8) (x : LaneWord) (hassigned : ∀ l op', laneInstr op x ≠ .unassignedOpcode l op') :
    ∃ r, laneRow (laneInstr op x) = some (r, x) ∧ r.op = op := by
  revert hassigned
  unfold laneInstr
  split
  case h_102 => exact fun h => absurd rfl (h _ _)
  all_goals
    rename_i hop
    replace hop := (eq_ofNat_of_toNat hop).symm
    intro _
  -- PMOV, in both directions
  case h_55 =>
    cases x.rnd == 0
    · exact ⟨_, rfl, hop⟩
    · exact ⟨_, rfl, hop⟩
  all_goals exact ⟨_, rfl, hop⟩

section

variable {i : Instr} {r : LaneRow} {x : LaneWord} {w : BitVec 96}

theorem ownOk_of_wellFormed (hassigned : ∀ l op, i ≠ .unassignedOpcode l op) (hrow : laneRow i = some (r, x)) (hfields : WellFormed i) : ownOk i = true := by
  unfold WellFormed fieldsOk at hfields
  split at hfields
  · exact absurd rfl (hassigned _ _)
  · rw [hrow] at hfields
    exact (Bool.and_eq_true_iff.mp hfields).2

/-- The opcode of an instruction's row names it, PMOV with its direction in rnd (R329). -/
theorem laneInstr_laneRow (hrow : laneRow i = some (r, x)) (hfields : WellFormed i) : laneInstr r.op x = i := by
  cases i
  case pmovToWord w =>
    have hrnd : (w.rnd == 0) = true := ownOk_of_wellFormed (by simp) hrow hfields
    cases hrow
    exact if_pos hrnd
  case pmovToPredicate w =>
    have hrnd : (w.rnd == 1) = true := ownOk_of_wellFormed (by simp) hrow hfields
    cases hrow
    exact if_neg (by rw [eq_of_beq hrnd]; decide)
  all_goals cases hrow
  all_goals rfl

theorem encodeLane_of_row (hassigned : ∀ l op, i ≠ .unassignedOpcode l op) (hrow : laneRow i = some (r, x)) : encodeLane i = laneBits r.op x := by
  unfold encodeLane
  split
  · exact absurd rfl (hassigned _ _)
  · rw [hrow]

theorem decodeLane_eq_ok_iff : decodeLane w = .ok i ↔ laneInstr (w.extractLsb' 0 8) (laneFields w) = i ∧ WellFormed i := by
  unfold decodeLane
  dsimp only
  constructor
  · intro h
    split at h
    · next hfields => cases h; exact ⟨rfl, hfields⟩
    · cases h
  · rintro ⟨rfl, hfields⟩
    exact if_pos hfields

theorem decodeLane_encodeLane (hassigned : ∀ l op, i ≠ .unassignedOpcode l op) (hside : sideOf i = .lane) (hfields : WellFormed i) :
    decodeLane (encodeLane i) = .ok i := by
  obtain ⟨r, x, hrow⟩ := laneRow_of_sideOf hassigned hside
  obtain ⟨hx, hop⟩ := laneBits_eq_iff.mp (encodeLane_of_row hassigned hrow).symm
  rw [decodeLane_eq_ok_iff, hx, hop]
  exact ⟨laneInstr_laneRow hrow hfields, hfields⟩

theorem encodeLane_laneInstr (hassigned : ∀ l op, i ≠ .unassignedOpcode l op) (hi : laneInstr (w.extractLsb' 0 8) (laneFields w) = i) :
    encodeLane i = w ∧ sideOf i = .lane := by
  subst hi
  obtain ⟨r, hrow, hop⟩ := laneRow_laneInstr _ _ hassigned
  refine ⟨?_, Machine.sideOf_lane hrow hassigned⟩
  rw [encodeLane_of_row hassigned hrow]
  exact laneBits_eq_iff.mpr ⟨rfl, hop.symm⟩

end

/-! ### Words in memory (R271) -/

theorem bytesLE_succ (n v : Nat) : bytesLE (n + 1) v = BitVec.ofNat 8 v :: bytesLE n (v / 256) := by
  have hshift (i : Nat) : v >>> (8 * (i + 1)) = (v / 256) >>> (8 * i) := by
    rw [Nat.mul_succ, Nat.add_comm, Nat.shiftRight_add, Nat.shiftRight_eq_div_pow v 8]
  simp [bytesLE, List.range_succ_eq_map, hshift]

theorem leBytes_bytesLE (n v : Nat) : leBytes (bytesLE n v) = v % 2 ^ (8 * n) := by
  induction n generalizing v with
  | zero => exact (Nat.mod_one v).symm
  | succ n ih =>
    rw [bytesLE_succ, leBytes, ih, Nat.mul_succ, Nat.add_comm (8 * n), pow_add, Nat.mod_mul, BitVec.toNat_ofNat]
    simp only [Nat.reducePow]

theorem ofNat_leBytes_bytesLE {k n : Nat} (hk : k = 8 * n) (w : BitVec k) : BitVec.ofNat k (leBytes (bytesLE n w.toNat)) = w := by
  rw [leBytes_bytesLE, ← hk, Nat.mod_eq_of_lt w.isLt, BitVec.ofNat_toNat, BitVec.setWidth_eq]

section

variable {i : Instr}

theorem encode_scalar (hside : sideOf i = .scalar) : encode i = bytesLE 4 (encodeScalar i).toNat := by rw [encode, hside]

theorem encode_lane (hside : sideOf i = .lane) : encode i = bytesLE 12 (encodeLane i).toNat := by rw [encode, hside]

theorem decodeBytes_encode_scalar (hside : sideOf i = .scalar) : decodeBytes false (encode i) = decodeScalar (encodeScalar i) := by
  rw [encode_scalar hside, decodeBytes, if_neg Bool.false_ne_true, ofNat_leBytes_bytesLE (by decide)]

theorem decodeBytes_encode_lane (hside : sideOf i = .lane) : decodeBytes true (encode i) = decodeLane (encodeLane i) := by
  rw [encode_lane hside, decodeBytes, if_pos rfl, ofNat_leBytes_bytesLE (by decide)]

end

/-! ### The round trips -/

/-- Settles O55: the word of an instruction has the fields of its row, and memory holds a word's bytes in the order they are read. -/
theorem encodeDecode : Obligations.EncodeDecode := by
  unfold Obligations.EncodeDecode
  intro i hfields hassigned
  constructor
  case left =>
    intro hside
    have hword := decodeScalar_encodeScalar hassigned hside hfields
    exact ⟨hword, (decodeBytes_encode_scalar hside).trans hword⟩
  case right =>
    intro hside
    have hword := decodeLane_encodeLane hassigned hside hfields
    exact ⟨hword, (decodeBytes_encode_lane hside).trans hword⟩

/-- Settles O56: what the decoder accepts has its operands copied from the word, and every bit they do not come from is its row's or 0. -/
theorem decodeEncode : Obligations.DecodeEncode := by
  unfold Obligations.DecodeEncode
  constructor
  case left =>
    intro w i hdecode hassigned
    obtain ⟨hreads, hfields⟩ := decodeScalar_eq_ok_iff.mp hdecode
    obtain ⟨hcode, hside⟩ := hreads.encode hassigned
    exact ⟨hcode, hfields, hside⟩
  case right =>
    intro w i hdecode hassigned
    obtain ⟨hinstr, hfields⟩ := decodeLane_eq_ok_iff.mp hdecode
    obtain ⟨hcode, hside⟩ := encodeLane_laneInstr hassigned hinstr
    exact ⟨hcode, hfields, hside⟩

/-- Settles O54: the decoder evaluated at each word. -/
theorem decodedWords : Obligations.DecodedWords := by
  unfold Obligations.DecodedWords
  decide

end Sys2Proof
end

section
/-! Scalar register operations, divides, immediates, branches and jumps (13 R293 to R298): what each computes, in the terms of their
statements. -/

namespace Sys2Proof.Machine

/-! ### Register operations (R293, Table 13-1) -/

/-- An instruction that the driver of register operations runs computes what it is given to compute. -/
theorem computes_aluOp {i : Instr} {d : SNum} {reads : List SNum} {f v : State → DWord} (hexec : ∀ s, exec i s = aluOp i d reads f s)
    (hv : ∀ s, f s = v s) : Computes i reads d v := by
  intro s hready
  rw [hexec, aluOp_ready f hready, hv]

/-- A shift count is the low six bits of its register. -/
theorem shiftCount_eq (y : DWord) : (y.extractLsb' 0 6).toNat = y.toNat % 64 := by simp

theorem flag_slt (x y : DWord) : flag (x.slt y) = if x.toInt < y.toInt then 1 else 0 := by
  simp [flag, BitVec.slt_iff_toInt_lt]

theorem flag_ult (x y : DWord) : flag (x.ult y) = if x.toNat < y.toNat then 1 else 0 := by
  simp [flag, BitVec.ult_iff_lt, BitVec.lt_def]

theorem sle_min (x y : DWord) : (if x.sle y then x else y) = BitVec.ofInt 64 (min x.toInt y.toInt) := by
  split
  · next h => rw [min_eq_left (BitVec.sle_iff_toInt_le.1 h), BitVec.ofInt_toInt]
  · next h => rw [min_eq_right (not_le.1 (mt BitVec.sle_iff_toInt_le.2 h)).le, BitVec.ofInt_toInt]

theorem sle_max (x y : DWord) : (if x.sle y then y else x) = BitVec.ofInt 64 (max x.toInt y.toInt) := by
  split
  · next h => rw [max_eq_right (BitVec.sle_iff_toInt_le.1 h), BitVec.ofInt_toInt]
  · next h => rw [max_eq_left (not_le.1 (mt BitVec.sle_iff_toInt_le.2 h)).le, BitVec.ofInt_toInt]

theorem ule_min (x y : DWord) : (if x.ule y then x else y) = BitVec.ofNat 64 (min x.toNat y.toNat) := by
  split
  · next h => rw [min_eq_left (BitVec.ule_iff_toNat_le.1 h), BitVec.ofNat_toNat, BitVec.setWidth_eq]
  · next h => rw [min_eq_right (not_le.1 (mt BitVec.ule_iff_toNat_le.2 h)).le, BitVec.ofNat_toNat, BitVec.setWidth_eq]

theorem ule_max (x y : DWord) : (if x.ule y then y else x) = BitVec.ofNat 64 (max x.toNat y.toNat) := by
  split
  · next h => rw [max_eq_right (BitVec.ule_iff_toNat_le.1 h), BitVec.ofNat_toNat, BitVec.setWidth_eq]
  · next h => rw [max_eq_left (not_le.1 (mt BitVec.ule_iff_toNat_le.2 h)).le, BitVec.ofNat_toNat, BitVec.setWidth_eq]

/-- The high half of a double word is its quotient by 2^64, whatever its sign. -/
theorem highHalf_ofInt (p : Int) : (BitVec.ofInt 128 p).extractLsb' 64 64 = BitVec.ofInt 64 (p / 2 ^ 64) := by
  apply BitVec.eq_of_toNat_eq
  simp only [BitVec.extractLsb'_toNat, BitVec.toNat_ofInt, Nat.shiftRight_eq_div_pow]
  omega

theorem highProduct_eq (x y : DWord) : highProduct x y = (x.signExtend 128 * y.signExtend 128).extractLsb' 64 64 := by
  rw [BitVec.signExtend, BitVec.signExtend, ← BitVec.ofInt_mul, highHalf_ofInt]
  rfl

theorem highProductU_eq (x y : DWord) : highProductU x y = (x.setWidth 128 * y.setWidth 128).extractLsb' 64 64 := by
  have hword (z : DWord) : z.setWidth 128 = BitVec.ofInt 128 z.toNat := by
    rw [BitVec.ofInt_natCast, BitVec.ofNat_toNat]
  rw [hword, hword, ← BitVec.ofInt_mul, highHalf_ofInt, highProductU]
  exact_mod_cast rfl

/-- Settles O1: each operation has its driver's form, and its function is the table's result. -/
theorem scalarRegisterResults : Obligations.ScalarRegisterResults := by
  unfold Obligations.ScalarRegisterResults
  intro d a b
  refine ⟨?add, ?sub, ?and, ?or, ?xor, ?andn, ?shl, ?shr, ?sra, ?slt, ?sltu, ?min, ?max, ?minu, ?maxu, ?mul, ?mulh, ?mulhu, ?popc, ?clz, ?ctz⟩
  case add | sub | and | or | xor | andn | mul | popc | clz | ctz => exact computes_aluOp (fun _ => rfl) fun _ => rfl
  case shl => exact computes_aluOp (fun _ => rfl) fun s => congrArg (s.rs a <<< ·) (shiftCount_eq _)
  case shr => exact computes_aluOp (fun _ => rfl) fun s => congrArg (s.rs a >>> ·) (shiftCount_eq _)
  case sra => exact computes_aluOp (fun _ => rfl) fun s => congrArg (s.rs a).sshiftRight (shiftCount_eq _)
  case slt => exact computes_aluOp (fun _ => rfl) fun _ => flag_slt ..
  case sltu => exact computes_aluOp (fun _ => rfl) fun _ => flag_ult ..
  case min => exact computes_aluOp (fun _ => rfl) fun _ => sle_min ..
  case max => exact computes_aluOp (fun _ => rfl) fun _ => sle_max ..
  case minu => exact computes_aluOp (fun _ => rfl) fun _ => ule_min ..
  case maxu => exact computes_aluOp (fun _ => rfl) fun _ => ule_max ..
  case mulh => exact computes_aluOp (fun _ => rfl) fun _ => highProduct_eq ..
  case mulhu => exact computes_aluOp (fun _ => rfl) fun _ => highProductU_eq ..

/-! ### Divides (R294) -/

/-- A divide by a register that is not 0 computes its quotient or remainder. -/
theorem divOp_becomes {i : Instr} {d a b : SNum} {f v : DWord → DWord → DWord} (hexec : ∀ s, exec i s = divOp i d a b f s) (hv : ∀ x y, f x y = v x y) :
    Becomes i [a, b] [d] (fun s => s.rs b ≠ 0) fun s => (s.ws d (v (s.rs a) (s.rs b))).advance := by
  intro s hready hne
  show _ = Host.Outcome.next (s.ws d (v (s.rs a) (s.rs b))).advance
  rw [hexec, ← hv]
  exact (gated_ready _ hready).trans (if_neg hne)

/-- A divide by 0 raises DIVZ, which names the divisor's register. -/
theorem divOp_traps {i : Instr} {d a b : SNum} {f : DWord → DWord → DWord} (hexec : ∀ s, exec i s = divOp i d a b f s) :
    TrapsWhen i [a, b] [d] (fun s => s.rs b = 0) 0x12 fun _ => BitVec.ofNat 64 b.val := by
  intro s hready hzero
  rw [hexec]
  exact (gated_ready _ hready).trans (if_pos hzero)

/-- The signed quotient wraps to −2^63 for −2^63 by −1. -/
theorem ofInt_tdiv (x y : DWord) : BitVec.ofInt 64 (x.toInt.tdiv y.toInt) = x.sdiv y := by
  apply BitVec.eq_of_toInt_eq
  rw [BitVec.toInt_ofInt, BitVec.toInt_sdiv]

theorem ofInt_tmod (x y : DWord) : BitVec.ofInt 64 (x.toInt.tmod y.toInt) = x.srem y := by
  rw [← BitVec.toInt_srem, BitVec.ofInt_toInt]

section

variable (d a b : SNum) (s : State)

theorem exec_sdiv : exec (.sdiv d a b) s = divOp (.sdiv d a b) d a b (fun x y => BitVec.ofInt 64 (x.toInt.tdiv y.toInt)) s := rfl
theorem exec_sdivu : exec (.sdivu d a b) s = divOp (.sdivu d a b) d a b (fun x y => x / y) s := rfl
theorem exec_srem : exec (.srem d a b) s = divOp (.srem d a b) d a b (fun x y => BitVec.ofInt 64 (x.toInt.tmod y.toInt)) s := rfl
theorem exec_sremu : exec (.sremu d a b) s = divOp (.sremu d a b) d a b (fun x y => x % y) s := rfl

end

/-- Settles O2: the quotients and remainders are those of the words' own divisions. -/
theorem scalarDivides : Obligations.ScalarDivides := by
  unfold Obligations.ScalarDivides
  intro d a b
  extract_lets ok zero name
  refine ⟨?sdiv, ?udiv, ?srem, ?umod, ?sdivZero, ?udivZero, ?sremZero, ?umodZero⟩
  case sdiv => exact divOp_becomes (exec_sdiv d a b) ofInt_tdiv
  case udiv => exact divOp_becomes (exec_sdivu d a b) fun _ _ => rfl
  case srem => exact divOp_becomes (exec_srem d a b) ofInt_tmod
  case umod => exact divOp_becomes (exec_sremu d a b) fun _ _ => rfl
  case sdivZero => exact divOp_traps (exec_sdiv d a b)
  case udivZero => exact divOp_traps (exec_sdivu d a b)
  case sremZero => exact divOp_traps (exec_srem d a b)
  case umodZero => exact divOp_traps (exec_sremu d a b)

/-! ### Immediates (R295, R296, Table 13-3) -/

theorem signExtend_shl (u : BitVec 20) : u.signExtend 64 <<< 14 = BitVec.ofInt 64 (u.toInt * 2 ^ 14) := by
  rw [BitVec.shiftLeft_eq_mul_twoPow, BitVec.signExtend, BitVec.ofInt_mul]
  rfl

/-- The address of an instruction and four times an offset, in a register. -/
theorem pc_add_offset (pc : BitVec 57) (u : BitVec 20) : pc.setWidth 64 + 4 * u.signExtend 64 = BitVec.ofInt 64 (pc.toNat + 4 * u.toInt) := by
  rw [BitVec.ofInt_add, BitVec.ofInt_mul, BitVec.ofInt_natCast, BitVec.ofNat_toNat]
  rfl

/-- Settles O3: each immediate form has its driver's form, and its function is the table's result. -/
theorem scalarImmediates : Obligations.ScalarImmediates := by
  unfold Obligations.ScalarImmediates
  intro d a imm n u
  refine ⟨?addi, ?andi, ?ori, ?xori, ?shli, ?shri, ?srai, ?slti, ?sltiu, ?lui, ?addpc⟩
  case addi | andi | ori | xori | shli | shri | srai => exact computes_aluOp (fun _ => rfl) fun _ => rfl
  case slti =>
    refine computes_aluOp (fun _ => rfl) fun s => (flag_slt ..).trans ?_
    rw [BitVec.toInt_signExtend_of_le (by decide)]
  case sltiu => exact computes_aluOp (fun _ => rfl) fun _ => flag_ult ..
  case lui => exact computes_aluOp (fun _ => rfl) fun _ => signExtend_shl u
  case addpc => exact computes_aluOp (fun _ => rfl) fun s => pc_add_offset s.cur.pc u

/-! ### Branches and jumps (R297, R298) -/

/-- The address a number of words from an instruction, modulo 2^57. -/
theorem pcPlus_eq {n : Nat} (pc : BitVec 57) (off : BitVec n) : pcPlus pc off = BitVec.ofInt 57 (pc.toNat + 4 * off.toInt) := by
  rw [BitVec.ofInt_add, BitVec.ofInt_mul, BitVec.ofInt_natCast, BitVec.ofNat_toNat, BitVec.setWidth_eq]
  rfl

/-- The conditions of SBR as relations of what its registers hold. -/
theorem branchTaken_iff {c : BitVec 3} (x y : DWord) (hc : c ≠ 7) : branchTaken c x y = true ↔
    c = 0 ∧ x = y ∨ c = 1 ∧ x ≠ y ∨ c = 2 ∧ x.toInt < y.toInt ∨ c = 3 ∧ y.toInt ≤ x.toInt ∨ c = 4 ∧ x.toNat < y.toNat ∨ c = 5 ∧ y.toNat ≤ x.toNat ∨
      c = 6 ∧ x &&& y ≠ 0 := by
  have hcases : c = 0 ∨ c = 1 ∨ c = 2 ∨ c = 3 ∨ c = 4 ∨ c = 5 ∨ c = 6 := by
    revert c
    decide
  rcases hcases with rfl | rfl | rfl | rfl | rfl | rfl | rfl
  · simp [branchTaken]
  · simp [branchTaken]
  · simp [branchTaken, BitVec.slt_iff_toInt_lt]
  · simp [branchTaken, BitVec.slt_iff_toInt_lt, Bool.eq_false_iff]
  · simp [branchTaken, BitVec.ult_iff_toNat_lt]
  · simp [branchTaken, BitVec.ult_iff_toNat_lt, Bool.eq_false_iff]
  · simp [branchTaken]

/-- A ready instruction has its fields in range. -/
theorem fieldsOk_of_ready {i : Instr} {reads writes : List SNum} {s : State} (h : scalarReady i reads writes s = true) : fieldsOk i = true := by
  simp only [scalarReady, scalarLegal, Bool.and_eq_true] at h
  exact h.1.1.2

/-- A condition of 7 is a field out of range. -/
theorem fieldsOk_sbr (c : BitVec 3) (a b : SNum) (off : BitVec 11) : fieldsOk (.sbr c a b off) = (c != 7) := rfl

theorem fop_sbr (c : BitVec 3) (a b : SNum) (off : BitVec 11) : fop (encodeScalar (.sbr c a b off)) = 0x10 :=
  (sb_eq_iff.1 (rfl : sb 0x10 a b c off = _)).1.1.1.1

/-- The register that holds a link: the address after the jump (log 28). -/
theorem link_eq (pc : BitVec 57) : pc.setWidth 64 + 4 = BitVec.ofNat 64 (pc.toNat + 4) := by
  rw [BitVec.ofNat_add, BitVec.ofNat_toNat]
  rfl

/-- A target is a word of code where its low two bits are 0, and lies in the address space where its high seven are. -/
theorem target_aligned (x : DWord) : x.extractLsb' 0 2 = 0 ↔ x.toNat % 4 = 0 := by
  rw [← BitVec.toNat_inj]
  simp

theorem target_near (x : DWord) : x.extractLsb' 57 7 = 0 ↔ x.toNat < 2 ^ 57 := by
  have hlt := x.isLt
  have hzero : (0 : BitVec 7).toNat = 0 := rfl
  rw [← BitVec.toNat_inj, BitVec.extractLsb'_toNat, Nat.shiftRight_eq_div_pow, hzero]
  omega

theorem addressInfo_eq (x : DWord) : (x.extractLsb' 0 57).setWidth 64 = BitVec.ofNat 64 (x.toNat % 2 ^ 57) :=
  BitVec.eq_of_toNat_eq (by simp)

section

variable {s : State} {a b d : SNum}

/-- A ready branch goes to its target where its condition holds, else on. -/
theorem exec_sbr {c : BitVec 3} {off : BitVec 11} (hready : scalarReady (.sbr c a b off) [a, b] [] s = true) :
    exec (.sbr c a b off) s = .next (if branchTaken c (s.rs a) (s.rs b) then s.jumpTo (pcPlus s.cur.pc off) else s.advance) := gated_ready _ hready

theorem exec_sj {far : BitVec 26} (hready : scalarReady (.sj far) [] [] s = true) : exec (.sj far) s = .next (s.jumpTo (pcPlus s.cur.pc far)) :=
  gated_ready _ hready

theorem exec_sjl {far : BitVec 26} (hready : scalarReady (.sjl far) [] [63] s = true) :
    exec (.sjl far) s = .next ((s.ws 63 (s.cur.pc.setWidth 64 + 4)).jumpTo (pcPlus s.cur.pc far)) := gated_ready _ hready

/-- SJL waits for an empty link register, but in a handler for one that the trapped instruction left so. -/
theorem exec_sjl_waits {far : BitVec 26} (hlegal : scalarLegal (.sjl far) s = true) (hempty : s.cur.sfull 63 = false)
    (hown : s.cur.ownEmpties.contains 63 = false) (hquiet : (s.cur.fe.getLsbD 0 && s.cur.slaneEmpty 63) = false) : exec (.sjl far) s = blockedOut s := by
  refine (scalarGate_legal _ hlegal).trans ?_
  unfold needRegs
  extract_lets g own blocked
  have hblocked : blocked = [63] := by
    have hnot : 63 ∉ own := fun h => Bool.false_ne_true (hown.symm.trans (List.contains_iff_mem.2 h))
    simp [blocked, g, hempty, hnot]
  rw [hblocked, List.find?_singleton, hquiet]
  rfl

/-- A ready SJR answers by its target. -/
theorem exec_sjr (hready : scalarReady (.sjr d a) [a] [d] s = true) : exec (.sjr d a) s =
    if (s.rs a).extractLsb' 0 2 ≠ 0 then trapAt s cAlign (((s.rs a).extractLsb' 0 57).setWidth 64)
    else if (s.rs a).extractLsb' 57 7 ≠ 0 then trapAt s cAccess (((s.rs a).extractLsb' 0 57).setWidth 64)
    else .next ((s.ws d (s.cur.pc.setWidth 64 + 4)).jumpTo ((s.rs a).extractLsb' 0 57)) := gated_ready _ hready

end

/-- Settles O4, instruction by instruction. -/
theorem scalarBranches : Obligations.ScalarBranches := by
  unfold Obligations.ScalarBranches
  intro c d a b off far
  extract_lets taken go link
  have htaken {s : State} (hready : scalarReady (.sbr c a b off) [a, b] [] s = true) : branchTaken c (s.rs a) (s.rs b) = true ↔ taken s :=
    branchTaken_iff _ _ (bne_iff_ne.1 (fieldsOk_of_ready hready))
  have hgo {n : Nat} (s : State) (o : BitVec n) : s.jumpTo (pcPlus s.cur.pc o) = go s o.toInt := congrArg s.jumpTo (pcPlus_eq ..)
  refine ⟨?taken, ?falls, ?jump, ?jumpLink, ?register, ?align, ?access, ?condition, ?waits⟩
  case taken => exact fun s hready h => by rw [exec_sbr hready, if_pos ((htaken hready).2 h), hgo]
  case falls => exact fun s hready h => by rw [exec_sbr hready, if_neg (mt (htaken hready).1 h)]
  case jump => exact fun s hready _ => by rw [exec_sj hready, hgo]
  case jumpLink =>
    intro s hready _
    have hpc : (go s far.toInt).cur.pc = pcPlus s.cur.pc far := by rw [← hgo, State.jumpTo_cur]; rfl
    show _ = Host.Outcome.next ((s.ws 63 (link s)).jumpTo (go s far.toInt).cur.pc)
    rw [exec_sjl hready, link_eq, hpc]
  case register =>
    rintro s hready ⟨halign, hnear⟩
    have htarget : (s.rs a).extractLsb' 0 57 = BitVec.ofNat 57 (s.rs a).toNat := BitVec.eq_of_toNat_eq (by simp)
    rw [exec_sjr hready, if_neg (not_not_intro ((target_aligned _).2 halign)), if_neg (not_not_intro ((target_near _).2 hnear)), link_eq, htarget]
  case align =>
    intro s hready hmis
    rw [exec_sjr hready, if_pos (mt (target_aligned _).1 hmis), addressInfo_eq]
    rfl
  case access =>
    rintro s hready ⟨halign, hfar⟩
    rw [exec_sjr hready, if_neg (not_not_intro ((target_aligned _).2 halign)), if_pos (mt (target_near _).1 (not_lt.2 hfar)), addressInfo_eq]
    rfl
  case condition =>
    intro s
    have hinfo : opInfo (.sbr 7 a b off) = 0x10 := by rw [opInfo, fop_sbr]; rfl
    have hbare : ((s.who.isStream && streamIllegal (.sbr 7 a b off)) || s.illopNow (.sbr 7 a b off)) = false :=
      Bool.or_eq_false_iff.2 ⟨Bool.and_false _, rfl⟩
    rw [← hinfo]
    exact scalarGate_illField (i := .sbr 7 a b off) _ hbare rfl rfl
  case waits => exact fun s hlegal hempty hown hquiet => exec_sjl_waits hlegal hempty hown hquiet

end Sys2Proof.Machine
end

section
/-! The system instructions of the scalar stream (12 R276; 13 R308 to R310; 16 R378, R392 to R396; 10 R239; 06 R156): NOP, TRAP and unassigned
opcodes, control registers, the format, the allowance and PAUSE, and the expert counters. -/

namespace Sys2Proof.Machine

/-! ### Legal instructions that need no register -/

theorem scalarLegal_of_ready {i : Instr} {reads writes : List SNum} {s : State} (h : scalarReady i reads writes s = true) : scalarLegal i s = true := by
  simp only [scalarReady, Bool.and_eq_true] at h
  exact h.1.1

/-- A ready instruction whose meaning asks for no register is past the gate. -/
theorem gate_ready {i : Instr} {reads writes : List SNum} {s : State} (body : Out) (h : scalarReady i reads writes s = true) : scalarGate i s body = body :=
  scalarGate_legal body (scalarLegal_of_ready h)

theorem exec_nop {s : State} (hready : scalarReady .nop [] [] s = true) : exec .nop s = .next s.advance := gate_ready _ hready

/-! ### Unassigned opcodes (R276) -/

/-- Outside a trap block a word that traps leaves a trap with its cause, lanes and place to its group. -/
theorem laneTrapOut_waits {s : State} {b : Block} (pos : Nat) (q : Split) {cause : Nat} (info : DWord) (mask redo : Mask) (first : Bool) (empties : List Nat)
    (hblock : b.entry.trap = false) (hcause : (BitVec.ofNat 8 cause).toNat ≠ cMemerr) :
    ∃ t, laneTrapOut s b pos q cause info mask redo first empties = .next t ∧
      ∃ l ∈ t.cur.laneTraps, l.cause = BitVec.ofNat 8 cause ∧ l.info = info ∧ l.mask = mask ∧ l.redo = redo ∧ l.word = q.pc := by
  unfold laneTrapOut
  rw [hblock, if_neg Bool.false_ne_true]
  extract_lets id t
  refine ⟨_, rfl, ?_⟩
  have hwho : t.who = s.who := State.updCur_who ..
  let l : LaneTrap := ⟨id, BitVec.ofNat 8 cause, info, mask, redo, q.pc, b.slotOf pos, q.second, first, empties, s.cur.laneTraps.isEmpty⟩
  show ∃ l' ∈ (t.raiseLane s.who l).cur.laneTraps, _
  rw [State.raiseLane_waits (l := l) hcause, State.cur, State.updGrp_who, hwho, State.updGrp_grp]
  refine ⟨l, ?_, rfl, rfl, rfl, rfl, rfl⟩
  dsimp only
  split <;> simp

/-- Settles O12, instruction by instruction. -/
theorem trapInstruction : Obligations.TrapInstruction := by
  unfold Obligations.TrapInstruction
  refine ⟨fun s hready _ => exec_nop hready, fun s => execRft_illegal, rfl, fun imm s hready _ => gate_ready _ hready, fun op s => rfl, ?lane⟩
  intro op s b pos q hblock hpos hrec htrap
  have hexec : exec (.unassignedOpcode true op) s = laneTrapOut s b pos q cIllop (op.setWidth 64) (s.cur.eff q) (s.cur.eff q) false [] := by
    show execUnassignedOpcode true op s = _
    simp only [execUnassignedOpcode, hblock, hpos, hrec]
    rfl
  rw [hexec]
  exact laneTrapOut_waits pos q _ _ _ _ _ htrap (by decide)

/-! ### Control registers (R393, R396) -/

/-- Settles O14: each register is read from the field of the group that its write changed. -/
theorem controlRegistersReadBack : Obligations.ControlRegistersReadBack := by
  unfold Obligations.ControlRegistersReadBack
  intro s h k v p rd
  have hread (r : Nat) : (s.setGrp p ((s.grp p).csrWrite r v)).grp p = (s.grp p).csrWrite r v := State.grp_setGrp ..
  refine ⟨congrArg Group.tvec (hread 0x010), congrArg Group.tinfo (hread 0x012), congrArg Group.tmask (hread 0x013), congrArg Group.tredo (hread 0x014),
    congrArg Group.tret (hread 0x015), congrArg Group.fe (hread 0x020), congrArg Group.gstat (hread 0x022), congrArg Group.wrstall (hread 0x031),
    congrArg Group.cbstall (hread 0x032), congrArg Group.pairser (hread 0x033), fun r hr => ?unlisted⟩
  case unlisted =>
    simp only [List.mem_cons, List.not_mem_nil, or_false, not_or] at hr
    unfold Group.csrWrite
    split
    case h_13 => rfl
    all_goals omega

/-- The registers that a CSRW may not name on this party, whatever it writes (R393, R396). -/
def State.csrBarred (s : State) (r : BitVec 12) : Bool := csrReadOnly r || (s.who.isStream && csrLaneSide r.toNat)

theorem opInfo_csrw (d : SNum) (r : BitVec 12) : opInfo (.csrw d r) = 0x3E := by
  have hop : fop (encodeScalar (.csrw d r)) = 0x3E := (csrWord_eq_iff.1 (rfl : (0x3E : BitVec 6) ++ BitVec.ofFin (w := 6) d ++ r ++ (4 : BitVec 8) = _)).1.1.1
  rw [opInfo, hop]
  rfl

theorem State.csrBarred_iff {s : State} {r : BitVec 12} : s.csrBarred r = true ↔ csrReadOnly r = true ∨ (s.who.isStream = true ∧ csrLaneSide r.toNat = true) := by
  simp [State.csrBarred]

section

variable {s : State} {d a : SNum} {r : BitVec 12}

/-- A barred register raises ILLFLD before the source is looked at. -/
theorem exec_csrw_barred (hlegal : scalarLegal (.csrw d r) s = true) (hbarred : s.csrBarred r = true) :
    exec (.csrw d r) s = trapAt s cIllfld 0x3E := by
  refine (scalarGate_legal _ hlegal).trans ?_
  rw [opInfo_csrw]
  exact if_pos hbarred

/-- A write of another register answers by its source: `c.tcause` keeps its `inh`. -/
theorem exec_csrw (hready : scalarReady (.csrw d r) [d] [] s = true) (hfree : s.csrBarred r = false) : exec (.csrw d r) s =
    if r == 0x011 && (s.rs d).getLsbD 12 != s.cur.inh then trapAt s cIllfld 0x3E else .next (s.updCur fun g => g.csrWrite r.toNat (s.rs d)).advance := by
  have hready' := hready
  simp only [scalarReady, Bool.and_eq_true] at hready'
  obtain ⟨⟨hlegal, hreads⟩, hwrites⟩ := hready'
  refine (scalarGate_legal _ hlegal).trans ?_
  dsimp only
  rw [opInfo_csrw]
  exact (if_neg (by simpa [State.csrBarred] using hfree)).trans (needRegs_full _ hreads hwrites)

end

/-! ### The format and the allowance (R308, R309) -/

theorem opInfo_sr {i : Instr} {op : BitVec 6} {d a b : SNum} {f : BitVec 8} (h : sr op d a b f = encodeScalar i) : opInfo i = op.setWidth 64 := by
  rw [opInfo, (sr_eq_iff.1 h).1.1.1.1]

/-- A word of which only the low half may be used. -/
theorem highHalf_zero (v : DWord) : v.extractLsb' 32 32 = 0 ↔ v.toNat < 2 ^ 32 := by
  have hlt := v.isLt
  have hzero : (0 : BitVec 32).toNat = 0 := rfl
  rw [← BitVec.toNat_inj, BitVec.extractLsb'_toNat, Nat.shiftRight_eq_div_pow, hzero]
  omega

theorem exec_setfmt {s : State} {a : SNum} (hready : scalarReady (.setfmt a) [a] [] s = true) : exec (.setfmt a) s =
    if (s.rs a).extractLsb' 32 32 ≠ 0 ∨ ¬ fmtLegal ((s.rs a).setWidth 32) then trapAt s cIllfld 0x22
    else .next (s.updCur fun g => { g with fmt := (s.rs a).setWidth 32 }).advance := by
  refine (gated_ready _ hready).trans ?_
  rw [opInfo_sr (i := .setfmt a) rfl]
  rfl

theorem exec_setalw {s : State} {a : SNum} (hready : scalarReady (.setalw a) [a] [] s = true) : exec (.setalw a) s =
    if !allowLegal (s.rs a) then trapAt s cIllfld 0x23 else if !allowWithin (s.rs a) s.ceiling then trapAt s cAlwdeny 0
    else .next (s.updCur fun g => { g with alw := s.rs a }).advance := by
  refine (gated_ready _ hready).trans ?_
  rw [opInfo_sr (i := .setalw a) rfl]
  rfl

/-! ### PAUSE (R310) -/

theorem exec_pause {s : State} {n : BitVec 20} (hready : scalarReady (.pause n) [] [] s = true) : exec (.pause n) s =
    if s.suspendMode s.who then trapAt s cWaitmode 0
    else .next (if n = 0 then s else s.updCur fun g => { g with
      demoteEnd := if g.demoteEnd.ult (s.cyc s.who + n.setWidth 64) then s.cyc s.who + n.setWidth 64 else g.demoteEnd }).advance := gate_ready _ hready

/-- Settles O13, instruction by instruction. -/
theorem systemInstructions : Obligations.SystemInstructions := by
  unfold Obligations.SystemInstructions
  intro d a r n
  refine ⟨?nop, ?ifence, ?csrr, ⟨?writes, ?bad, ?barred⟩, ⟨?format, ?badFormat⟩, ?allowance, ?badAllowance, ?denied, ?pause, ?noPause, ?suspended⟩
  case nop => exact fun s hready _ => exec_nop hready
  case ifence => exact fun s hready _ => gate_ready _ hready
  case csrr => exact computes_aluOp (f := fun s => s.csr s.who r.toNat) (fun _ => rfl) fun _ => rfl
  case writes =>
    intro s hready hgood
    have hfree : s.csrBarred r = false := Bool.eq_false_iff.2 fun h => hgood ((State.csrBarred_iff.1 h).imp_right .inr)
    rw [exec_csrw hready hfree]
    exact if_neg fun h => hgood (.inr (.inl (by simpa using h)))
  case bad =>
    intro s hready hbad
    by_cases hbarred : s.csrBarred r = true
    · exact exec_csrw_barred (scalarLegal_of_ready hready) hbarred
    · rw [exec_csrw hready (Bool.eq_false_iff.2 hbarred)]
      rw [State.csrBarred_iff] at hbarred
      exact if_pos (by simpa using (show r = 0x011 ∧ (s.rs d).getLsbD 12 ≠ s.cur.inh by tauto))
  case barred => exact fun s hlegal h => exec_csrw_barred hlegal (State.csrBarred_iff.2 h)
  case format =>
    rintro s hready ⟨hlow, hlegal⟩
    rw [exec_setfmt hready]
    exact if_neg (by simp [(highHalf_zero _).2 hlow, hlegal])
  case badFormat =>
    intro s hready hbad
    rw [exec_setfmt hready]
    refine if_pos ?_
    rw [Ne, highHalf_zero]
    tauto
  case allowance =>
    rintro s hready ⟨hlegal, hwithin⟩
    rw [exec_setalw hready, hlegal, hwithin]
    rfl
  case badAllowance =>
    intro s hready hbad
    rw [exec_setalw hready, hbad]
    rfl
  case denied =>
    rintro s hready ⟨hlegal, hover⟩
    rw [exec_setalw hready, hlegal, hover]
    rfl
  case pause =>
    rintro s hready ⟨hmode, hn⟩
    rw [exec_pause hready, hmode, if_neg Bool.false_ne_true, if_neg hn]
    simp only [BitVec.ult_iff_toNat_lt]
  case noPause =>
    rintro s hready ⟨hmode, hn⟩
    rw [exec_pause hready, hmode, if_neg Bool.false_ne_true, if_pos hn]
  case suspended =>
    intro s hready hmode
    rw [exec_pause hready, hmode]
    rfl

/-! ### Expert counters (R378) -/

/-- Settles O19, instruction by instruction. -/
theorem expertCounters : Obligations.ExpertCounters := by
  unfold Obligations.ExpertCounters
  intro d a die tag
  refine ⟨?reads, ?clears, ?badRead, ?badClear⟩
  case reads =>
    intro s hready hsel
    refine (gated_ready _ hready).trans ?_
    rw [hsel]
    rfl
  case clears =>
    intro s hready hsel
    refine (gated_ready _ hready).trans ?_
    dsimp only
    rw [hsel]
    rfl
  case badRead =>
    intro s hready hnone
    refine (gated_ready _ hready).trans ?_
    rw [hnone, opInfo_sr (i := .ecrd d a) rfl]
    rfl
  case badClear =>
    intro s hready hnone
    refine (gated_ready _ hready).trans ?_
    dsimp only
    rw [hnone, opInfo_sr (i := .ecclr a) rfl]
    rfl

end Sys2Proof.Machine
end

section
/-! Lane words whose results are stored (10 Table 10-5; 14 R315 to R337): how the value a lane word computes is the one its statement gives,
and the statements about bit words, integer words, float words and the others. -/

namespace Sys2Proof.Machine

/-! ### A word that writes one register -/

/-- A word run by `vecOp` has the results that it computes. -/
theorem vecOp_laneResult {i : Instr} {r : LaneRow} {w : LaneWord} {f : State → LaneRun → Nat → LaneRes} {g : LaneCtx → Nat → LaneRes}
    (hrow : laneRow i = some (r, w)) (hexec : ∀ s, exec i s = vecOp i g s) (hres : ∀ s x n, x.c.w = w → f s x n = g x.c n) : LaneResult i f := by
  intro s x hready hallowed
  have hf : f s x = g x.c := funext fun n => hres s x n (laneReady_word hready hrow).1
  rw [hf] at hallowed ⊢
  rw [hexec]
  exact vecOp_result g s x hready hallowed

/-! ### Bit words -/

theorem exactOr_one (b : Bound) : exactOr [b] = if b = 0 then 0 else 0xFFFF := by
  simp [exactOr, bInf]

theorem exactOr_two (a b : Bound) : exactOr [a, b] = if a = 0 ∧ b = 0 then 0 else 0xFFFF := by
  simp [exactOr, bInf]

theorem exactOr_three (a b c : Bound) : exactOr [a, b, c] = if a = 0 ∧ b = 0 ∧ c = 0 then 0 else 0xFFFF := by
  simp [exactOr, bInf]

section

variable {i : Instr} {r : LaneRow} {w : LaneWord} {v : LaneRun → Nat → Word} (hrow : laneRow i = some (r, w))
include hrow

theorem calcBits1_laneResult {u : Word → Word} (hexec : ∀ s, exec i s = vecOp i (calcBits1 u) s) (hv : ∀ x n, v x n = u (x.c.srcX w.a n).1) :
    LaneResult i fun _ x n => writeBits (fmtD x.c.fmt) (v x n) (if (x.c.srcX w.a n).2 = 0 then 0 else 0xFFFF) :=
  vecOp_laneResult hrow hexec fun _ x n hw => by
    subst hw
    rw [hv, ← exactOr_one]
    rfl

theorem calcBitsI_laneResult {u : Word → Word → Word} (hexec : ∀ s, exec i s = vecOp i (calcBitsI u) s)
    (hv : ∀ x n, v x n = u (x.c.srcX w.a n).1 (w.c.bits.signExtend 32)) :
    LaneResult i fun _ x n => writeBits (fmtD x.c.fmt) (v x n) (if (x.c.srcX w.a n).2 = 0 then 0 else 0xFFFF) :=
  vecOp_laneResult hrow hexec fun _ x n hw => by
    subst hw
    rw [hv, ← exactOr_one]
    rfl

theorem calcBits2_laneResult {u : Word → Word → Word} (hexec : ∀ s, exec i s = vecOp i (calcBits2 u) s)
    (hv : ∀ x n, v x n = u (x.c.srcX w.a n).1 (x.c.srcX w.b n).1) :
    LaneResult i fun _ x n => writeBits (fmtD x.c.fmt) (v x n) (if (x.c.srcX w.a n).2 = 0 ∧ (x.c.srcX w.b n).2 = 0 then 0 else 0xFFFF) :=
  vecOp_laneResult hrow hexec fun _ x n hw => by
    subst hw
    rw [hv, ← exactOr_two]
    rfl

theorem calcBits3_laneResult {u : Word → Word → Word → Word} (hexec : ∀ s, exec i s = vecOp i (calcBits3 u) s)
    (hv : ∀ x n, v x n = u (x.c.srcX w.a n).1 (x.c.srcX w.b n).1 (x.c.srcX w.c n).1) :
    LaneResult i fun _ x n => writeBits (fmtD x.c.fmt) (v x n)
      (if (x.c.srcX w.a n).2 = 0 ∧ (x.c.srcX w.b n).2 = 0 ∧ (x.c.srcX w.c n).2 = 0 then 0 else 0xFFFF) :=
  vecOp_laneResult hrow hexec fun _ x n hw => by
    subst hw
    rw [hv, ← exactOr_three]
    rfl

end

/-- A count of an immediate shift is its low five bits (R325). -/
theorem toNat_and_31 (b : Word) : (b &&& 31).toNat = b.toNat % 32 := by
  rw [BitVec.toNat_and]
  exact Nat.and_two_pow_sub_one_eq_mod b.toNat 5

theorem fieldN_eq {w : Nat} (x : BitVec w) (lo n : Nat) : fieldN x lo n = x.toNat / 2 ^ lo % 2 ^ n := by
  rw [fieldN, BitVec.extractLsb'_toNat, Nat.shiftRight_eq_div_pow]

theorem bfeW_eq (a b : Word) : bfeW a b = (a >>> (b.toNat % 32)) &&& BitVec.ofNat 32 (2 ^ min (b.toNat / 256 % 64) 32 - 1) := by
  simp [bfeW, fieldN_eq]

theorem bfiW_eq (a b c : Word) :
    bfiW a b c =
      let m : Word := BitVec.ofNat 32 ((2 ^ min (c.toNat / 256 % 64) 32 - 1) * 2 ^ (c.toNat % 32))
      (b &&& ~~~m) ||| ((a <<< (c.toNat % 32)) &&& m) := by
  simp [bfiW, fieldN_eq, Nat.shiftLeft_eq]

/-- Settles O21: each word runs by `vecOp` on a function of its source words, exact where every source is. -/
theorem laneWordResults : Obligations.LaneWordResults := by
  unfold Obligations.LaneWordResults
  intro w a b c ba bb bc one two three imm
  have bits1 {i r u v} (hrow : laneRow i = some (r, w)) (hexec : ∀ s, exec i s = vecOp i (calcBits1 u) s)
      (hv : ∀ x n, v x n = u (a x n)) : LaneResult i (one v) := calcBits1_laneResult hrow hexec hv
  have bitsI {i r u v} (hrow : laneRow i = some (r, w)) (hexec : ∀ s, exec i s = vecOp i (calcBitsI u) s)
      (hv : ∀ x n, v x n = u (a x n) imm) : LaneResult i (one v) := calcBitsI_laneResult hrow hexec hv
  have bits2 {i r u v} (hrow : laneRow i = some (r, w)) (hexec : ∀ s, exec i s = vecOp i (calcBits2 u) s)
      (hv : ∀ x n, v x n = u (a x n) (b x n)) : LaneResult i (two v) := calcBits2_laneResult hrow hexec hv
  have bits3 {i r u v} (hrow : laneRow i = some (r, w)) (hexec : ∀ s, exec i s = vecOp i (calcBits3 u) s)
      (hv : ∀ x n, v x n = u (a x n) (b x n) (c x n)) : LaneResult i (three v) := calcBits3_laneResult hrow hexec hv
  refine ⟨bits2 rfl (fun _ => rfl) fun _ _ => rfl, bits2 rfl (fun _ => rfl) fun _ _ => rfl, bits2 rfl (fun _ => rfl) fun _ _ => rfl,
    bits2 rfl (fun _ => rfl) fun _ _ => rfl, bits2 rfl (fun _ => rfl) fun _ _ => rfl, bits2 rfl (fun _ => rfl) fun _ _ => rfl,
    bits2 rfl (fun _ => rfl) fun _ _ => rfl, bits2 rfl (fun _ => rfl) fun _ _ => rfl, bits2 rfl (fun _ => rfl) fun _ _ => rfl,
    bitsI rfl (fun _ => rfl) fun _ _ => rfl, bitsI rfl (fun _ => rfl) fun _ _ => rfl, bitsI rfl (fun _ => rfl) fun _ _ => rfl,
    bitsI rfl (fun _ => rfl) fun _ _ => ?shli, bitsI rfl (fun _ => rfl) fun _ _ => ?shri, bitsI rfl (fun _ => rfl) fun _ _ => ?srai,
    bits1 rfl (fun _ => rfl) fun _ _ => rfl, bits1 rfl (fun _ => rfl) fun _ _ => rfl, bits1 rfl (fun _ => rfl) fun _ _ => rfl,
    bits2 rfl (fun _ => rfl) fun _ _ => (bfeW_eq ..).symm, bits3 rfl (fun _ => rfl) fun _ _ => (bfiW_eq ..).symm,
    bits3 rfl (fun _ => rfl) fun _ _ => rfl, bits3 rfl (fun _ => rfl) fun _ _ => rfl, ?movi, ?vmov, ?vsel, ?pmov, ?clrb⟩
  case shli => exact (congrArg (_ <<< ·) (toNat_and_31 imm)).symm
  case shri => exact (congrArg (_ >>> ·) (toNat_and_31 imm)).symm
  case srai => exact (congrArg (BitVec.sshiftRight _) (toNat_and_31 imm)).symm
  case vsel =>
    refine vecOp_laneResult (w := w) rfl (fun _ => rfl) fun _ x n hw => ?_
    subst hw
    show _ = calcSel x.c n
    unfold calcSel
    split <;> rfl
  all_goals exact vecOp_laneResult (w := w) rfl (fun _ => rfl) fun _ x n hw => by subst hw; rfl

/-! ### Integer words -/

theorem ofNat_min_toNat (a b : Word) : BitVec.ofNat 32 (min a.toNat b.toNat) = if b < a then b else a := by
  split
  next h => rw [Nat.min_eq_right (Nat.le_of_lt h), BitVec.ofNat_toNat, BitVec.setWidth_eq]
  next h => rw [Nat.min_eq_left (Nat.le_of_not_lt h), BitVec.ofNat_toNat, BitVec.setWidth_eq]

theorem ofNat_max_toNat (a b : Word) : BitVec.ofNat 32 (max a.toNat b.toNat) = if a < b then b else a := by
  split
  next h => rw [Nat.max_eq_right (Nat.le_of_lt h), BitVec.ofNat_toNat, BitVec.setWidth_eq]
  next h => rw [Nat.max_eq_left (Nat.le_of_not_lt h), BitVec.ofNat_toNat, BitVec.setWidth_eq]

/-- Settles O22: each word runs by `vecOp` on the exact integer with its propagated bound. -/
theorem laneIntegerResults : Obligations.LaneIntegerResults := by
  unfold Obligations.LaneIntegerResults
  intro w a b c ba bb bc prod out sum big
  refine ⟨?_, ?_, ?_, ?_, ?_, ?_, ?_, ?iminu, ?imaxu⟩
  case iminu =>
    exact vecOp_laneResult (w := w) rfl (fun _ => rfl) fun _ x n hw => by
      subst hw
      rw [ofNat_min_toNat]
      rfl
  case imaxu =>
    exact vecOp_laneResult (w := w) rfl (fun _ => rfl) fun _ x n hw => by
      subst hw
      rw [ofNat_max_toNat]
      rfl
  all_goals exact vecOp_laneResult (w := w) rfl (fun _ => rfl) fun _ x n hw => by subst hw; rfl

/-! ### Float words -/

/-- Settles O23: each word gives its exact products and addends to the unit policy with their propagated bound. -/
theorem laneFloatResults : Obligations.LaneFloatResults := by
  unfold Obligations.LaneFloatResults
  intro w a b c k el em pt
  refine ⟨?_, ?_, ?_, ?_, ?_, ?_, ?_, ?_, ?_⟩
  all_goals exact vecOp_laneResult (w := w) rfl (fun _ => rfl) fun _ x n hw => by subst hw; rfl

/-! ### Rounding to an integer (Table 9-5) and saturation (R217) -/

theorem ratCeil_eq (q : Rat) : q.ceil = ⌈q⌉ := Rat.ceil_eq_neg_floor_neg q

theorem ratFloor_eq (q : Rat) : q.floor = ⌊q⌋ := rfl

section

variable {n : Nat} {r : Rat} (h0 : 0 ≤ r) (h1 : r < 1)
include h0 h1

theorem floor_natCast_add : ⌊(n : Rat) + r⌋ = n := by
  rw [Int.floor_natCast_add, Int.floor_eq_zero_iff.2 ⟨h0, h1⟩, add_zero]

theorem ceil_natCast_add : ⌈(n : Rat) + r⌉ = if 0 < r then (n : Int) + 1 else n := by
  rw [Int.ceil_natCast_add]
  split
  next hr => rw [(Int.ceil_eq_iff (z := 1)).2 (by simp [hr, h1.le])]
  next hr => rw [le_antisymm (not_lt.1 hr) h0, Int.ceil_zero, add_zero]

theorem floor_natCast_add_half : ⌊(n : Rat) + r + 1 / 2⌋ = if 1 / 2 ≤ r then (n : Int) + 1 else n := by
  rw [add_assoc, Int.floor_natCast_add]
  split
  next hr => rw [(Int.floor_eq_iff (a := r + 1 / 2) (z := 1)).2]; constructor <;> push_cast <;> linarith
  next hr => rw [(Int.floor_eq_iff (a := r + 1 / 2) (z := 0)).2, add_zero]; constructor <;> push_cast <;> linarith

theorem roundInt_nonneg (m : Nat) : roundInt (rmode m) (n + r) = nearInt m (n + r) := by
  have hpos : ¬ (n : Rat) + r < 0 := by have := n.cast_nonneg (α := Rat); linarith
  have heven : (if 2⁻¹ < r ∨ r = 2⁻¹ ∧ n % 2 = 1 then (n : Int) + 1 else n) = if r < 2⁻¹ ∨ r = 2⁻¹ ∧ (2 : Int) ∣ n then (n : Int) else n + 1 := by
    grind
  unfold roundInt roundNat nearInt
  simp only [ratCeil_eq, ratFloor_eq, qabs, hpos, if_false, floor_natCast_add h0 h1, ceil_natCast_add h0 h1,
    floor_natCast_add_half h0 h1]
  rcases m with _ | _ | _ | _ | _ | m
  all_goals simp [rmode, heven]

theorem roundInt_neg (m : Nat) (hne : 0 < (n : Rat) + r) : roundInt (rmode m) (-(n + r)) = nearInt m (-(n + r)) := by
  have hlt : -((n : Rat) + r) < 0 := by linarith
  have hhalf : -((n : Rat) + r) - 1 / 2 = -(n + r + 1 / 2) := by ring
  unfold roundInt roundNat nearInt
  simp only [ratCeil_eq, ratFloor_eq, qabs, hlt, if_true, neg_neg, hhalf, Int.ceil_neg, Int.floor_neg, floor_natCast_add h0 h1,
    ceil_natCast_add h0 h1, floor_natCast_add_half h0 h1]
  rcases h0.eq_or_lt with rfl | hr
  · rcases m with _ | _ | _ | _ | _ | m
    all_goals simp [rmode]
  · simp only [hr, if_true]
    rcases m with _ | _ | _ | _ | _ | m
    all_goals simp [rmode]
    all_goals grind

end

/-- The model's rounding of a magnitude with a sign is the rounding of Table 9-5. -/
theorem roundInt_eq_nearInt (m : Nat) (q : Rat) : roundInt (rmode m) q = nearInt m q := by
  have split {a : Rat} (ha : 0 ≤ a) : a = (⌊a⌋₊ : Nat) + Int.fract a := by
    rw [natCast_floor_eq_intCast_floor ha, Int.floor_add_fract]
  rcases le_or_gt 0 q with h | h
  · rw [split h]
    exact roundInt_nonneg (Int.fract_nonneg q) (Int.fract_lt_one q) m
  · have hpos : 0 < -q := neg_pos.2 h
    have heq := split hpos.le
    rw [← neg_neg q, heq]
    exact roundInt_neg (Int.fract_nonneg _) (Int.fract_lt_one _) m (heq ▸ hpos)

theorem intLo_nonpos_intHi_nonneg (code : Nat) : intLo code ≤ 0 ∧ 0 ≤ intHi code := by
  unfold intLo intHi
  have h1 : (0 : Int) < 2 ^ (fmtWidth code - 1) := by positivity
  have h2 : (0 : Int) < 2 ^ fmtWidth code := by positivity
  split <;> omega

theorem satInt_eq (code : Nat) (r : Int) : satInt code r = max (intLo code) (min (intHi code) r) := by
  obtain ⟨hlo, hhi⟩ := intLo_nonpos_intHi_nonneg code
  unfold satInt
  split
  · omega
  · split <;> omega
/-! ### The other words -/

/-- FRND's integer: the value rounded, a zero with the sign of what it rounds (R321). -/
theorem calcRnd_eq (c : LaneCtx) (n : Nat) :
    calcRnd c n =
      let v := (c.srcF (fmtA c.fmt) c.w.a n).1.scale (scaleOf c.w)
      writeFloat (fmtD c.fmt) c.w.rnd.toNat c.w.clamp.toNat false false
        (match v with
          | .num q => if nearInt c.w.rnd.toNat q = 0 then .zero (decide (q < 0)) else .num (nearInt c.w.rnd.toNat q : Rat)
          | u => u)
        v (bmul (some (pow2 (scaleOf c.w))) (c.srcF (fmtA c.fmt) c.w.a n).2) 0 := by
  simp only [← roundInt_eq_nearInt]
  rfl

theorem clamp_600 (n : Int) : (if n < -600 then -600 else if 600 < n then 600 else n) = max (-600) (min 600 n) := by
  omega

theorem calcLdexp_eq (c : LaneCtx) (n : Nat) :
    calcLdexp c n =
      let k := max (-600) (min 600 (c.srcI (fmtB c.fmt) c.w.b n).1)
      c.plainF n ((c.srcF (fmtA c.fmt) c.w.a n).1.scale k)
        (if (c.srcI (fmtB c.fmt) c.w.b n).2 = some 0 then bmul (some (pow2 k)) (c.srcF (fmtA c.fmt) c.w.a n).2 else none) := by
  simp only [← clamp_600]
  rfl

/-- FFRAC keeps the bound where no value within it has another floor (R321). -/
theorem calcFrac_eq (c : LaneCtx) (n : Nat) :
    calcFrac c n =
      let a := c.srcF (fmtA c.fmt) c.w.a n
      let q := a.1.toRat
      if a.1.isFinite then
        c.plainF n (FVal.ofRat (q - (q.floor : Rat))) (match a.2 with | some b => if (q - b).floor = (q + b).floor then some b else none | none => none)
      else c.plainF n .nan none := by
  unfold calcFrac
  rcases c.srcF (fmtA c.fmt) c.w.a n with ⟨v, _ | b⟩
  · rfl
  · simp only [decide_eq_true_eq]

/-- CVTFI saturates the rounded value; NaN gives 0 and an infinity the end of the range on its side (R331). -/
theorem calcCvtfi_eq (c : LaneCtx) (n : Nat) :
    calcCvtfi c n =
      let a := c.srcF (fmtA c.fmt) c.w.a n
      let y : Int := match a.1 with
        | .nan | .zero _ => 0
        | .inf neg => if neg then intLo (fmtD c.fmt) else intHi (fmtD c.fmt)
        | .num q => max (intLo (fmtD c.fmt)) (min (intHi (fmtD c.fmt)) (nearInt c.w.rnd.toNat q))
      { code := (y % 2 ^ fmtWidth (fmtD c.fmt)).toNat, y := some (y : Rat), res := none,
        bnd := roundUpB16 (if a.1.isFinite then badd a.2 (some (qabs (a.1.toRat - (y : Rat)))) else none) } := by
  obtain ⟨hlo, hhi⟩ := intLo_nonpos_intHi_nonneg (fmtD c.fmt)
  have hzero : satInt (fmtD c.fmt) 0 = 0 := by rw [satInt_eq]; omega
  have hbot : satInt (fmtD c.fmt) (intLo (fmtD c.fmt)) = intLo (fmtD c.fmt) := by rw [satInt_eq]; omega
  have htop : satInt (fmtD c.fmt) (intHi (fmtD c.fmt)) = intHi (fmtD c.fmt) := by rw [satInt_eq]; omega
  unfold calcCvtfi LaneCtx.fd
  rcases c.srcF (fmtA c.fmt) c.w.a n with ⟨_ | (_ | _) | _ | q, b⟩
  case num => simp only [satInt_eq, roundInt_eq_nearInt]
  all_goals simp [hzero, hbot, htop]

theorem calcScaleblk_eq (c : LaneCtx) (n : Nat) :
    calcScaleblk c n =
      let word := (c.raw c.w.a n).1
      let code := word.toNat / 2 ^ (fmtWidth (fmtA c.fmt) * c.w.a.sub.toNat) % 2 ^ fmtWidth (fmtA c.fmt)
      let v := widenPair (fmtA c.fmt) code ((c.srcX c.w.b n).1.toNat % 2 ^ 16)
      let v := if c.w.a.abs then v.abs else v
      c.plainF n (if c.w.a.neg then v.negate else v) (if (c.srcX c.w.b n).2 = 0 then bval (c.raw c.w.a n).2 else none) := by
  simp [calcScaleblk, fieldN_eq, elem]

/-- Settles O24: each word runs by `vecOp` on the value and the bound of its rule. -/
theorem laneOtherResults : Obligations.LaneOtherResults := by
  unfold Obligations.LaneOtherResults
  intro w a b sp
  refine ⟨?_, ?_, ?fclass, ?frnd, ?ffrac, ?fldexp, ?_, ?_, ?_, ?_, ?_, ?_, ?_, ?_, ?_, ?_, ?cvtfi, ?scaleblk, ?_, ?_, ?_, ?_, ?_⟩
  case fclass => exact vecOp_laneResult (w := w) rfl (fun _ => rfl) fun _ x n hw => by subst hw; rw [← exactOr_one]; rfl
  case frnd => exact vecOp_laneResult (w := w) rfl (fun _ => rfl) fun _ x n hw => by subst hw; exact (calcRnd_eq x.c n).symm
  case ffrac => exact vecOp_laneResult (w := w) rfl (fun _ => rfl) fun _ x n hw => by subst hw; exact (calcFrac_eq x.c n).symm
  case fldexp => exact vecOp_laneResult (w := w) rfl (fun _ => rfl) fun _ x n hw => by subst hw; exact (calcLdexp_eq x.c n).symm
  case cvtfi => exact vecOp_laneResult (w := w) rfl (fun _ => rfl) fun _ x n hw => by subst hw; exact (calcCvtfi_eq x.c n).symm
  case scaleblk => exact vecOp_laneResult (w := w) rfl (fun _ => rfl) fun _ x n hw => by subst hw; exact (calcScaleblk_eq x.c n).symm
  all_goals exact vecOp_laneResult (w := w) rfl (fun _ => rfl) fun _ x n hw => by subst hw; rfl

end Sys2Proof.Machine
end

section
/-! Lane words that write a predicate, a quantised block or more than one lane (14 R319, R324, R329, R333, R336, R337; 15 R349 to R355), and
the control words of a block (15 R356, R357). -/

namespace Sys2Proof.Machine

/-! ### Predicates (R245, R246) -/

/-- A word run by `predOp` decides its predicate by what it computes. -/
theorem predOp_lanePredicate {i : Instr} {r : LaneRow} {w : LaneWord} {int : Bool} {f : LaneRun → Nat → Bool × Bool} {g : LaneCtx → Nat → Bool × Bool}
    (hrow : laneRow i = some (r, w)) (hdst : r.dst = .pred) (hexec : ∀ s, exec i s = predOp i int g s)
    (hres : ∀ x n, x.c.w = w → x.w = w → f x n = g x.c n) : LanePredicate i f := by
  intro s x hready unc hunc
  obtain ⟨hc, hw, hr⟩ := laneReady_word hready hrow
  have hf : f x = g x.c := funext fun n => hres x n hc hw
  unfold unc at hunc ⊢
  rw [hf] at hunc ⊢
  rw [hexec]
  exact predOp_result g s x hready (hr ▸ hdst) hunc

/-- Settles O25: each word runs by `predOp` on its outcome and whether that is uncertain. -/
theorem lanePredicates : Obligations.LanePredicates := by
  unfold Obligations.LanePredicates
  intro w fa fb ia ib ua ub cond int
  refine ⟨?_, ?_, ?_, ?_, ?_, ?_⟩
  all_goals exact predOp_lanePredicate (w := w) rfl rfl (fun _ => rfl) fun x n hc _ => by subst hc; rfl

/-! ### Words that are done with the group changed (R315) -/

/-- A word is done: of the device only the executing group differs, and that is g but for its scalar registers and its block. -/
structure State.DoneAs (s t : State) (g : Group) : Prop where
  lane : laneOnly s t
  vregs : t.cur.vregs = g.vregs
  gstat : t.cur.gstat = g.gstat
  resid : t.cur.resid = g.resid
  preds : t.cur.preds = g.preds
  pleats : t.cur.pleats = g.pleats
  watched : t.cur.watched = g.watched

/-- A word that changes nothing of its group but what a lane word writes is done so. -/
theorem LaneRun.done_as (x : LaneRun) (s : State) (f : Group → Group)
    (hf : f s.cur = { s.cur with vregs := (f s.cur).vregs, gstat := (f s.cur).gstat, resid := (f s.cur).resid, preds := (f s.cur).preds,
                                 pleats := (f s.cur).pleats, watched := (f s.cur).watched }) :
    ∃ t, x.done s f = .next t ∧ s.DoneAs t (f s.cur) := by
  obtain ⟨t, ht, hs, hgroup, -⟩ := x.done_ok s f
  refine ⟨t, ht, ⟨hs, ?_⟩, ?_, ?_, ?_, ?_, ?_, ?_⟩
  · rw [hgroup, hf]
  all_goals rw [hgroup]

theorem State.DoneAs.vreg {s t : State} {g : Group} (h : s.DoneAs t g) (r : Nat) : t.cur.vreg r = g.vreg r := by
  rw [Group.vreg, h.vregs]
  rfl

theorem State.DoneAs.res {s t : State} {g : Group} (h : s.DoneAs t g) (e n : Nat) : t.cur.res e n = g.res e n := by
  rw [Group.res, h.resid]
  rfl

theorem State.DoneAs.predMask {s t : State} {g : Group} (h : s.DoneAs t g) (q : Nat) : t.cur.predMask q = g.predMask q := by
  rw [Group.predMask, h.preds]
  rfl

/-! ### QBLK (R333) -/

/-- The group after QBLK. -/
def LaneRun.quantised (x : LaneRun) (bad : Bool) (g : Group) : Group :=
  let g := if bad then g.setStat 1 else g
  g.putV x.w.dst.toNat (qblkLanes x.c.fd) (qblkWrite (g.vreg x.w.dst.toNat) x.c.fd x.perf (qblkOf x.c).1 (qblkOf x.c).2)

/-- An element that QBLK writes under a check breaches the allowance (R242). -/
def LaneRun.qblkBreach (x : LaneRun) (i : Nat) : Bool :=
  let el : QElem := ((qblkOf x.c).2[i]?).getD ⟨0, none, .nan, none⟩
  (allow x.c.alw).chkall && breaches (allow x.c.alw) (roundUpB16 el.bnd) el.y

theorem any_lanesOf_iff {m : Mask} {f : Nat → Bool} : (lanesOf m).any f = true ↔ (maskOf fun i => m.getLsbD i && f i) ≠ 0 := by
  rw [maskOf_ne_zero, List.any_eq_true]
  simp only [mem_lanesOf, Bool.and_eq_true]
  exact ⟨fun ⟨n, hn, hf⟩ => ⟨n, getLsbD_lt hn, hn, hf⟩, fun ⟨n, _, hn, hf⟩ => ⟨n, hn, hf⟩⟩

/-- QBLK that does not trap is done with its block written. -/
theorem execQblk_done {w : LaneWord} {s : State} {x : LaneRun} (hready : laneReady (.qblk w) s = some x)
    (hallowed : ((lanesOf x.perf).any x.qblkBreach && (allow x.c.alw).bte) = false) :
    exec (.qblk w) s = x.done s (x.quantised ((lanesOf x.perf).any x.qblkBreach)) := by
  have hbad : (maskOf fun i => (allow x.c.alw).chkall && x.perf.getLsbD i &&
      breaches (allow x.c.alw) (roundUpB16 (((qblkOf x.c).2[i]?).getD ⟨0, none, .nan, none⟩).bnd) (((qblkOf x.c).2[i]?).getD ⟨0, none, .nan, none⟩).y) ≠ 0 ↔
      (lanesOf x.perf).any x.qblkBreach = true := by
    rw [any_lanesOf_iff]
    simp only [LaneRun.qblkBreach, Bool.and_left_comm, Bool.and_assoc]
  rw [show exec (.qblk w) s = _ from laneGo_ready _ hready]
  dsimp only
  simp only [hbad]
  rw [if_neg (by simpa using hallowed)]
  rfl

/-- Settles O27: QBLK is done with the words and the scale pair of its block. -/
theorem qblkResult : Obligations.QblkResult := by
  unfold Obligations.QblkResult
  intro w s x hready pair els el bad hallowed
  obtain ⟨-, rfl, -⟩ := laneReady_word hready rfl
  obtain ⟨t, ht, hdone⟩ := x.done_as s (x.quantised bad) (by
    unfold LaneRun.quantised Group.putV Group.touch Group.setV Group.setStat
    dsimp only
    repeat' split
    all_goals rfl)
  have hvreg (r : Nat) : (x.quantised bad s.cur).vreg r =
      if r = x.w.dst.toNat ∧ x.w.dst.toNat < 112 then qblkWrite (s.cur.vreg x.w.dst.toNat) (fmtD x.c.fmt) x.perf pair els else s.cur.vreg r := by
    have hstat (r : Nat) : (if bad then s.cur.setStat 1 else s.cur).vreg r = s.cur.vreg r := by
      split <;> rfl
    unfold LaneRun.quantised
    dsimp only
    rw [Group.vreg_putV, hstat, hstat]
    rfl
  refine ⟨t, (execQblk_done hready hallowed).trans ht, hdone.lane, fun hdst => ?word, fun r hr => ?others, ?stat⟩
  case word => rw [hdone.vreg, hvreg, if_pos ⟨rfl, hdst⟩]
  case others => rw [hdone.vreg, hvreg, if_neg fun h => hr h.1]
  case stat =>
    rw [hdone.gstat]
    unfold LaneRun.quantised Group.putV Group.touch Group.setV Group.setStat
    dsimp only
    repeat' split
    all_goals rfl

/-! ### Collectives that write a register (R350, R351, R353, R354) -/

/-- A word whose issue is the write of its results, where what comes before it leaves the group as it is. -/
theorem laneResult_of_write {i : Instr} {pre : State → State} {f : State → LaneRun → Nat → LaneRes} (hpre : ∀ s, (pre s).cur = s.cur)
    (hexec : ∀ s x, laneReady i s = some x → exec i s = x.write (pre s) false 0 (f s x)) : LaneResult i f pre := by
  intro s x hready hallowed
  obtain ⟨t, ht, hlane, hstored⟩ := x.write_ok (pre s) false 0 (f s x) hallowed
  exact ⟨t, (hexec s x hready).trans ht, hlane, hpre s ▸ hstored⟩

/-- A ballot writes the places of the participants whose predicate holds. -/
theorem execVote_ballot {w : LaneWord} {s : State} {x : LaneRun} (hready : laneReady (.vote w) s = some x) (hmode : w.rnd = 3) :
    exec (.vote w) s = x.write s false 0 fun n => writeBits x.c.fd (posBits x.c.width ((x.peers n).filter (x.c.srcP w.a))) 0 :=
  (laneGo_ready _ hready).trans (if_pos hmode)

/-- The outcome of a vote that writes a predicate (R350). -/
def LaneRun.voted (x : LaneRun) (mode : Nat) (n : Nat) : Bool :=
  let l := (x.peers n).map (x.c.srcP x.w.a)
  match mode with
  | 0 => l.all id
  | 1 => l.any id
  | _ => l.all id || !l.any id

/-- A word that issues is the running block's, and its fields fit. -/
theorem laneReady_fits {i : Instr} {s : State} {x : LaneRun} (h : laneReady i s = some x) :
    laneRunOf i s = some x ∧ laneFits i x.r x.w s.cur x.b.entry.dmask x.q.fmt = true := by
  unfold laneReady at h
  split at h
  · cases h
  · rename_i y hrun
    split at h
    · rename_i hissues
      cases h
      simp only [Bool.and_eq_true] at hissues
      obtain ⟨⟨⟨⟨⟨-, hfits⟩, -⟩, -⟩, -⟩, -⟩ := hissues
      exact ⟨hrun, hfits⟩
    · cases h

theorem laneReady_fieldsOk {i : Instr} {s : State} {x : LaneRun} (h : laneReady i s = some x) : fieldsOk i = true := by
  have hfits := (laneReady_fits h).2
  unfold laneFits at hfits
  simp only [Bool.and_eq_true] at hfits
  obtain ⟨⟨⟨⟨⟨⟨hfields, -⟩, -⟩, -⟩, -⟩, -⟩, -⟩ := hfits
  exact hfields

theorem laneReady_width {i : Instr} {s : State} {x : LaneRun} (h : laneReady i s = some x) : x.c.width = s.cur.pleatW x.w.gsel := by
  have hrun := (laneReady_fits h).1
  unfold laneRunOf at hrun
  repeat' split at hrun
  all_goals cases hrun
  rfl

/-- A pleat has 4, 8, 16 or 32 places (R129). -/
theorem Group.pleatW_pow (g : Group) (n : BitVec 2) : ∃ k, k ≤ 5 ∧ g.pleatW n = 2 ^ k := by
  unfold Group.pleatW pleatWidth
  repeat' split
  · exact ⟨5, by decide, rfl⟩
  · exact ⟨2, by decide, rfl⟩
  · exact ⟨3, by decide, rfl⟩
  · exact ⟨4, by decide, rfl⟩
  · exact ⟨5, by decide, rfl⟩

/-- A vote that writes a predicate names one of p0 to p6. -/
theorem vote_pdst {w : LaneWord} {s : State} {x : LaneRun} (hready : laneReady (.vote w) s = some x) (hmode : w.rnd ≠ 3) : w.pdst.toNat < 7 := by
  have hok := laneReady_fieldsOk hready
  have hdst : w.dst.toNat < 7 := by
    simp only [fieldsOk, laneRow, Bool.and_eq_true] at hok
    have hown := hok.2
    simp only [ownOk, Bool.and_eq_true, Bool.or_eq_true, beq_iff_eq, decide_eq_true_eq] at hown
    exact hown.2.resolve_left hmode
  have : w.pdst.toNat ≤ w.dst.toNat := by
    unfold LaneWord.pdst
    rw [BitVec.extractLsb'_toNat, Nat.shiftRight_zero]
    exact Nat.mod_le _ _
  omega

/-- A vote that writes a predicate is done with its outcome in the performed lanes. -/
theorem execVote_predicate {w : LaneWord} {s : State} {x : LaneRun} (hready : laneReady (.vote w) s = some x) (hmode : w.rnd ≠ 3) :
    exec (.vote w) s = x.done s fun g => g.setPred x.w.pdst.toNat (blend x.perf (g.predMask x.w.pdst.toNat) (maskOf (x.voted w.rnd.toNat))) := by
  obtain ⟨-, rfl, -⟩ := laneReady_word hready rfl
  exact (laneGo_ready _ hready).trans (if_neg hmode)

theorem blend_getLsbD (mask old : Mask) (f : Nat → Bool) {n : Nat} (h : n < 32) :
    (blend mask old (maskOf f)).getLsbD n = if mask.getLsbD n then f n else old.getLsbD n := by
  unfold blend
  rw [BitVec.getLsbD_or, BitVec.getLsbD_and, BitVec.getLsbD_and, BitVec.getLsbD_not, maskOf_getLsbD _ h]
  cases mask.getLsbD n <;> simp [h]

/-- A word done with a predicate blended by its outcomes decides them. -/
theorem LaneRun.decided_of_done {x : LaneRun} {s t : State} {p : Nat} {f : Nat → Bool} (hp : p < 7)
    (h : s.DoneAs t (s.cur.setPred p (blend x.perf (s.cur.predMask p) (maskOf f)))) : x.decided s.cur t.cur p f := by
  have honly (m : Mask) : s.cur.setPred p m = { s.cur with preds := (s.cur.setPred p m).preds } := by
    unfold Group.setPred
    rw [dif_pos hp]
  refine ⟨fun n hn => ?_, fun q hq => ?_, ?_, ?_, ?_, ?_⟩
  · rw [h.predMask, Group.predMask_setPred, if_pos ⟨rfl, hp⟩, blend_getLsbD _ _ _ hn]
  · rw [h.predMask, Group.predMask_setPred, if_neg fun hqp => hq hqp.1]
  · rw [h.vregs, honly]
  · rw [h.pleats, honly]
  · rw [h.resid, honly]
  · rw [h.watched, honly]

/-! ### The tree of REDUCE and the rounds of SCAN (R226, R227) -/

section

variable {α : Type} (f : α → α → α)

theorem pairUp_map_range (v : Nat → α) (m : Nat) :
    pairUp f ((List.range (2 * m)).map v) = (List.range m).map fun i => f (v (2 * i)) (v (2 * i + 1)) := by
  induction m generalizing v with
  | zero => rfl
  | succ m ih =>
    rw [show 2 * (m + 1) = 2 * m + 1 + 1 from rfl, List.range_succ_eq_map, List.range_succ_eq_map, List.range_succ_eq_map]
    simp only [List.map_cons, List.map_map, pairUp]
    exact congrArg _ (ih _)

theorem treeFold_succ (k : Nat) (l : List α) : treeFold f (k + 1) l = pairUp f (treeFold f k l) := by
  induction k generalizing l with
  | zero => rfl
  | succ k ih => exact ih (pairUp f l)

theorem treeFold_add (j k : Nat) (l : List α) : treeFold f (j + k) l = treeFold f k (treeFold f j l) := by
  induction k with
  | zero => rfl
  | succ k ih => rw [← Nat.add_assoc, treeFold_succ, treeFold_succ, ih]

/-- Level k of the tree holds its nodes. -/
theorem treeFold_map_range (v : Nat → α) (k m : Nat) : treeFold f k ((List.range (2 ^ k * m)).map v) = (List.range m).map (treeNode f v k) := by
  induction k generalizing m with
  | zero => simp [treeFold, treeNode]
  | succ k ih =>
    rw [treeFold_succ, show 2 ^ (k + 1) * m = 2 ^ k * (2 * m) by ring, ih, pairUp_map_range]
    rfl

theorem treeFold_singleton (k : Nat) (a : α) : treeFold f k [a] = [a] := by
  induction k with
  | zero => rfl
  | succ k ih => exact ih

/-- The tree over 2^k positions has one root, which further levels keep. -/
theorem treeFold_root (v : Nat → α) {k : Nat} (hk : k ≤ 5) : treeFold f 5 ((List.range (2 ^ k)).map v) = [treeNode f v k 0] := by
  rw [show 5 = k + (5 - k) by omega, treeFold_add, ← Nat.mul_one (2 ^ k), treeFold_map_range]
  exact treeFold_singleton f _ _

theorem scanRound_map_range (u : Nat → α) (d m : Nat) :
    scanRound f d ((List.range m).map u) = (List.range m).map fun j => if d ≤ j then f (u (j - d)) (u j) else u j := by
  unfold scanRound
  refine List.ext_getElem (by simp) fun j hj _ => ?_
  have hjm : j < m := by simpa using hj
  simp [show j - d < m by omega]

/-- The first j rounds leave at each place what k rounds give, where no more than k are within the width. -/
theorem scanRounds_map_range (u : Nat → α) (k j : Nat) :
    ((List.range j).map (2 ^ ·)).foldl (fun l d => if d < 2 ^ k then scanRound f d l else l) ((List.range (2 ^ k)).map u) =
      (List.range (2 ^ k)).map (scanValue f u (min j k)) := by
  induction j with
  | zero => simp [scanValue]
  | succ j ih =>
    rw [List.range_succ, List.map_append, List.foldl_append, ih]
    by_cases hj : j < k
    · rw [Nat.min_eq_left (Nat.le_of_lt hj), Nat.min_eq_left hj]
      simp only [List.map_cons, List.map_nil, List.foldl_cons, List.foldl_nil, if_pos (Nat.pow_lt_pow_right Nat.one_lt_two hj), scanRound_map_range]
      rfl
    · rw [Nat.min_eq_right (Nat.le_of_not_lt hj), Nat.min_eq_right (by omega)]
      simp only [List.map_cons, List.map_nil, List.foldl_cons, List.foldl_nil]
      rw [if_neg (Nat.not_lt.2 (Nat.pow_le_pow_right Nat.two_pos (Nat.le_of_not_lt hj)))]

theorem scanFold_map_range (u : Nat → α) {k : Nat} (hk : k ≤ 5) : scanFold f (2 ^ k) ((List.range (2 ^ k)).map u) = (List.range (2 ^ k)).map (scanValue f u k) := by
  have h := scanRounds_map_range f u k 5
  rwa [Nat.min_eq_right hk] at h

theorem cons_dropLast_map_range (idn : α) (v : Nat → α) {m : Nat} (hm : 0 < m) :
    idn :: ((List.range m).map v).dropLast = (List.range m).map fun q => if q = 0 then idn else v (q - 1) := by
  obtain ⟨k, rfl⟩ := Nat.exists_eq_succ_of_ne_zero (Nat.pos_iff_ne_zero.1 hm)
  rw [List.range_succ, List.map_append, List.map_singleton, List.dropLast_concat, ← List.range_succ, List.range_succ_eq_map]
  simp [Function.comp_def]

/-- The model's fold of a pleat is the tree or the scan of its places. -/
theorem foldAt_eq_folded {x : LaneRun} {k : Nat} (hk : k ≤ 5) (hwidth : x.c.width = 2 ^ k) (scan excl : Bool) (idn : α) (v : Nat → α) (n : Nat) :
    foldAt x scan excl f idn v n = x.folded scan excl f idn v n := by
  have hn : n % 2 ^ k < 2 ^ k := Nat.mod_lt _ (Nat.two_pow_pos k)
  unfold foldAt LaneRun.folded LaneRun.sequence
  rw [hwidth, Nat.log2_two_pow]
  cases scan
  · simp [treeFold_root f _ hk]
  · cases excl
    · simp [scanFold_map_range f _ hk, hn]
    · simp [cons_dropLast_map_range _ _ (Nat.two_pow_pos k), scanFold_map_range f _ hk, hn]

end

/-- The identity of a float fold (Table 15-6). -/
theorem foldIdF_eq {op : Nat} (hop : op ≤ 2) : foldIdF op = if op = 0 then .zero true else .inf (op = 2) := by
  obtain rfl | rfl | rfl : op = 0 ∨ op = 1 ∨ op = 2 := by omega
  all_goals rfl

/-- REDUCE and SCAN write what the folds of their pleats give. -/
theorem foldResult_eq {x : LaneRun} {k : Nat} (hk : k ≤ 5) (hwidth : x.c.width = 2 ^ k) (scan : Bool) (free : Word) (n : Nat) :
    foldResult x scan free n =
      let w := x.c.w
      let op := w.c.bits.toNat % 16
      let excl := w.c.bits.getLsbD 4
      if op ≤ 2 then
        let r := x.folded scan excl (foldNodeF x.c op) (if op = 0 then .zero true else .inf (op = 2), some 0) (x.c.srcF (fmtA x.c.fmt) w.a) n
        writeFloat (fmtD x.c.fmt) w.rnd.toNat 0 false false r.1 r.1 r.2 0
      else if op ≤ 5 then
        let r := x.folded scan excl (foldNodeI (fmtD x.c.fmt) op) (if op = 3 then some 0 else none, some 0)
          (fun t => (some (x.c.srcI (fmtA x.c.fmt) w.a t).1, (x.c.srcI (fmtA x.c.fmt) w.a t).2)) n
        match r.1 with
        | some v => writeInt (fmtD x.c.fmt) 0 v r.2
        | none => { code := free.toNat % 2 ^ fmtWidth (fmtD x.c.fmt), bnd := 0, y := none, res := none }
      else
        let r := x.folded scan excl (foldNodeX op) (if op = 6 ∨ op = 8 then 0xFFFFFFFF else 0, 0) (x.c.srcX w.a) n
        writeBits (fmtD x.c.fmt) r.1 r.2 := by
  have hop : fieldN x.c.w.c.bits 0 4 = x.c.w.c.bits.toNat % 16 := by rw [fieldN_eq, Nat.pow_zero, Nat.div_one, show 2 ^ 4 = 16 from rfl]
  unfold foldResult
  simp only [hop, foldAt_eq_folded _ hk hwidth]
  split
  next hfloat => rw [foldIdF_eq hfloat]; rfl
  next => rfl

/-- A fold is run by `foldOp`. -/
theorem foldOp_laneResult {i : Instr} {r : LaneRow} {w : LaneWord} {scan : Bool} {f : State → LaneRun → Nat → LaneRes}
    (hrow : laneRow i = some (r, w)) (hexec : ∀ s, exec i s = foldOp i scan s)
    (hres : ∀ s x k, x.c.w = w → k ≤ 5 → x.c.width = 2 ^ k → f s x = foldResult x scan (Config.freeWord s.fresh)) : LaneResult i f State.bump :=
  laneResult_of_write (fun _ => rfl) fun s x hready => by
    obtain ⟨k, hk, hwidth⟩ := s.cur.pleatW_pow x.w.gsel
    rw [hexec, hres s x k (laneReady_word hready hrow).1 hk ((laneReady_width hready).trans hwidth)]
    exact laneGo_ready _ hready

/-! ### The statement about the collectives -/

theorem voted_eq (x : LaneRun) (mode : BitVec 3) (n : Nat) :
    x.voted mode.toNat n =
      if mode = 0 then (x.peers n).all (x.c.srcP x.w.a) else if mode = 1 then (x.peers n).any (x.c.srcP x.w.a)
      else (x.peers n).all (x.c.srcP x.w.a) || !(x.peers n).any (x.c.srcP x.w.a) := by
  simp only [← BitVec.toNat_inj, LaneRun.voted, List.all_map, List.any_map, Function.id_comp]
  rcases mode.toNat with _ | _ | _
  all_goals rfl

/-- MATCH gives the mask, the count or the rank of the participants with the slot's key. -/
theorem execVmatch_writes {w : LaneWord} {s : State} {x : LaneRun} (hready : laneReady (.vmatch w) s = some x) :
    exec (.vmatch w) s = x.write s false 0 fun n =>
      let same := (x.peers n).filter fun t => (x.c.srcX w.a t).1 == (x.c.srcX w.a n).1
      writeBits x.c.fd (if w.rnd = 0 then posBits x.c.width same else if w.rnd = 1 then BitVec.ofNat 32 same.length
        else BitVec.ofNat 32 (same.countP fun t => t < n)) 0 := by
  refine (laneGo_ready _ hready).trans (congrArg (x.write s false 0) (funext fun n => ?_))
  simp only [← BitVec.toNat_inj]
  rcases w.rnd.toNat with _ | _ | _
  all_goals rfl

/-- LID gives the slot, its position, its thread, its group or its pleat. -/
theorem execLid_writes {w : LaneWord} {s : State} {x : LaneRun} (hready : laneReady (.lid w) s = some x) :
    exec (.lid w) s = x.write s false 0 fun n =>
      writeBits x.c.fd (if w.rnd = 0 then BitVec.ofNat 32 n else if w.rnd = 1 then BitVec.ofNat 32 (n % x.c.width)
        else if w.rnd = 2 then ((s.cur.vtids[n]?).getD 0).setWidth 32 else if w.rnd = 3 then BitVec.ofNat 32 s.who.gidOf.val
        else BitVec.ofNat 32 (n / x.c.width)) 0 := by
  refine (laneGo_ready _ hready).trans (congrArg (x.write s false 0) (funext fun n => ?_))
  simp only [← BitVec.toNat_inj, ← laneReady_cur hready]
  rcases w.rnd.toNat with _ | _ | _ | _ | _
  all_goals rfl

/-- A word done with residues of one register set in the performed lanes. -/
theorem LaneRun.done_setResid (x : LaneRun) (s : State) (k : Nat) (v : Nat → Word) :
    ∃ t, x.done s (fun g => g.setResid (k % 8) fun n => if x.perf.getLsbD n then some (v n) else none) = .next t ∧ laneOnly s t ∧
      (∀ e n, t.cur.res e n = if e = k % 8 ∧ x.perf.getLsbD n then v n else s.cur.res e n) ∧ t.cur.vregs = s.cur.vregs ∧ t.cur.preds = s.cur.preds := by
  have honly (f : Nat → Option Word) : s.cur.setResid (k % 8) f = { s.cur with resid := (s.cur.setResid (k % 8) f).resid } := by
    unfold Group.setResid
    split <;> rfl
  obtain ⟨t, ht, hdone⟩ := x.done_as s (fun g => g.setResid (k % 8) fun n => if x.perf.getLsbD n then some (v n) else none) (by rw [honly])
  refine ⟨t, ht, hdone.lane, fun e n => ?_, ?_, ?_⟩
  · rw [hdone.res, Group.res_setResid]
    have hk : k % 8 < 8 := Nat.mod_lt _ (by decide)
    cases hp : x.perf.getLsbD n
    · simp
    · simp [hk, getLsbD_lt hp]
  · rw [hdone.vregs, honly]
  · rw [hdone.preds, honly]

/-- Settles O26, word by word. -/
theorem laneCollectives : Obligations.LaneCollectives := by
  unfold Obligations.LaneCollectives
  intro w mates place out same
  refine ⟨fun hmode => ?ballot, fun hmode s x hready => ?vote, ?vmatch, ?folds, ?lid, ?lslot, fun s x hready => ?chkb,
    fun s x hready => ?efclr, fun s x hready => ?efset, fun s x hready => ?pleat⟩
  case ballot => exact laneResult_of_write (fun _ => rfl) fun s x hready => execVote_ballot hready hmode
  case vote =>
    obtain ⟨hc, hw, -⟩ := laneReady_word hready rfl
    subst hw
    obtain ⟨t, ht, hdone⟩ := x.done_as s (fun g => g.setPred x.w.pdst.toNat (blend x.perf (g.predMask x.w.pdst.toNat) (maskOf (x.voted x.w.rnd.toNat)))) (by
      unfold Group.setPred
      split <;> rfl)
    have hf : x.voted x.w.rnd.toNat = _ := funext fun n => voted_eq x x.w.rnd n
    rw [hf] at hdone
    exact ⟨t, (execVote_predicate hready hmode).trans ht, hdone.lane, LaneRun.decided_of_done (vote_pdst hready hmode) hdone⟩
  case vmatch => exact laneResult_of_write (fun _ => rfl) fun s x hready => execVmatch_writes hready
  case folds =>
    intro op fold
    refine ⟨foldOp_laneResult (w := w) rfl (fun _ => rfl) fun s x k hw hk hwidth => ?_, foldOp_laneResult (w := w) rfl (fun _ => rfl) fun s x k hw hk hwidth => ?_⟩
    all_goals
      subst hw
      exact funext fun n => (foldResult_eq hk hwidth _ _ n).symm
  case lid => exact laneResult_of_write (fun _ => rfl) fun s x hready => execLid_writes hready
  case lslot => exact laneResult_of_write (fun _ => rfl) fun s x hready => laneGo_ready _ hready
  case chkb =>
    intro f hallowed
    obtain ⟨hc, -, -⟩ := laneReady_word hready rfl
    subst hc
    obtain ⟨t, ht, hlane, hstored⟩ := x.write_ok s true 2 f hallowed
    exact ⟨t, (laneGo_ready _ hready).trans ht, hlane, hstored⟩
  case efclr =>
    obtain ⟨t, ht, h⟩ := x.done_setResid s w.dst.toNat fun _ => 0
    exact ⟨t, (laneGo_ready _ hready).trans ht, h⟩
  case efset =>
    obtain ⟨t, ht, h⟩ := x.done_setResid s w.dst.toNat fun n =>
      let v := (x.c.srcF (fmtA x.c.fmt) w.a n).1
      if v.isFinite then BitVec.ofNat 32 (encodeF (ffmt 0) v) else 0
    exact ⟨t, (laneGo_ready _ hready).trans ht, h⟩
  case pleat =>
    obtain ⟨t, ht, hdone⟩ := x.done_as s (fun g => { g with pleats := g.pleats.set (w.dst.toNat % 4) (w.c.bits.extractLsb' 0 2) (by omega) }) rfl
    refine ⟨t, (laneGo_ready _ hready).trans ht, hdone.lane, fun g => ?_, hdone.vregs, hdone.preds⟩
    rw [hdone.pleats, vec_get_set]
    simp only [eq_comm]

/-! ### Control words (R125, R127, R356, R357) -/

theorem set_modify_self {α : Type} (l : List α) (n : Nat) (a : α) (f : α → α) : (l.set n a).modify n f = l.set n (f a) := by
  induction l generalizing n with
  | nil => simp
  | cons b l ih =>
    cases n with
    | zero => simp
    | succ n => simp [ih]

/-- The block of a record that jumps: the record is marked at its place. -/
theorem LaneRun.jump_block (x : LaneRun) :
    { x.b with stack := x.b.stack.set x.pos x.record }.jump x.pos = { x.b with stack := x.b.stack.set x.pos { x.record with jumped := true } } := by
  unfold Block.jump
  rw [set_modify_self]

section

variable {w : LaneWord} {s : State} {x : LaneRun}

/-- The lanes whose predicate takes the branch of LBR. -/
def LaneRun.branchMask (x : LaneRun) : Mask := if x.w.pneg then ~~~(x.c.g.predMask x.w.pred.toNat) else x.c.g.predMask x.w.pred.toNat

theorem execLbr_ready (hready : laneReady (.lbr w) s = some x)
    (hok : x.q.pc < x.w.reconv.toNat ∧ x.w.reconv.toNat ≤ x.q.rpc ∧ x.w.target.toNat < x.b.entry.len) :
    exec (.lbr w) s =
      if x.c.g.eff x.q &&& x.branchMask = 0 then x.control s fun g b => g.moveTo b x.pos (x.q.pc + 1)
      else if x.c.g.eff x.q &&& ~~~x.branchMask = 0 then x.control s fun g b => g.moveTo (b.jump x.pos) x.pos x.w.target.toNat
      else
        match lbrStack x.c.g (x.b.stack.set x.pos x.record) x.pos x.branchMask x.w.target.toNat x.w.reconv.toNat with
        | none => x.trap s cBobbin 0 (x.c.g.eff x.q)
        | some st => x.control s fun g b => g.setStack b st := by
  obtain ⟨-, rfl, -⟩ := laneReady_word hready rfl
  exact (laneGo_ready _ hready).trans (if_neg (not_not_intro hok))

/-- A divergent branch of the only runnable record (R125). -/
theorem lbrStack_diverges {g : Group} {q : Split} {rest st : List Split} {c : Mask} {tgt r : Nat} (h : lbrStack g (q :: rest) 0 c tgt r = some st)
    (htaken : g.eff q &&& c ≠ 0) (hfall : g.eff q &&& ~~~c ≠ 0) (htgt : tgt ≠ r) (hnext : q.pc + 1 ≠ r) :
    st = { pc := tgt, mask := g.eff q &&& c, rpc := r, fmt := q.fmt, sib := true, redo := none, second := false, jumped := true, traps := [] } ::
      { pc := q.pc + 1, mask := g.eff q &&& ~~~c, rpc := r, fmt := q.fmt, sib := if r = q.rpc then q.sib else false, redo := none, second := false,
        jumped := false, traps := [] } :: if r = q.rpc then rest else { q with pc := r } :: rest := by
  simp only [lbrStack, List.getElem?_cons_zero, htaken, hfall, if_false, htgt, hnext, ne_eq, not_false_eq_true, if_true, List.tail_cons] at h
  rw [Option.ite_none_left_eq_some] at h
  exact (Option.some.inj h.2).symm

end

/-- The lanes of a mask that branch and those that do not part it. -/
theorem mask_parts (m c : Mask) : (m &&& c) &&& (m &&& ~~~c) = 0 ∧ (m &&& c) ||| (m &&& ~~~c) = m := by
  constructor
  · ext n hn
    simp
    grind
  · ext n hn
    simp
    grind

/-- Settles O29: each control word is its change of the group, and a divergent branch is `lbrStack_diverges`. -/
theorem laneControl : Obligations.LaneControl := by
  unfold Obligations.LaneControl
  refine ⟨fun w s x => ?words, fun g q rest st c tgt r hst htaken hfall htgt hnext => ?diverges⟩
  case words =>
    intro eff q' b' j' p c ok
    refine ⟨fun hready hok hnone => ?fall, fun hready hok hsome hall => ?taken, fun st hready hok hsome hleft hst => ?split, fun hready hlt => ?ljmp,
      fun hready => ?lend, fun hready => ?lexit, fun hready hlegal => ?lfmt, fun hready => ?lnop⟩
    all_goals
      obtain ⟨-, rfl, -⟩ := laneReady_word hready rfl
      have hcur := laneReady_cur hready
    case fall =>
      rw [execLbr_ready hready hok, LaneRun.branchMask, hcur, if_pos hnone]
      rfl
    case taken =>
      rw [execLbr_ready hready hok, LaneRun.branchMask, hcur, if_neg hsome, if_pos hall]
      unfold LaneRun.control
      simp only [x.jump_block]
      rfl
    case split =>
      have hstack : lbrStack s.cur (x.b.stack.set x.pos x.record) x.pos c x.w.target.toNat x.w.reconv.toNat = some st := hst
      rw [execLbr_ready hready hok, LaneRun.branchMask, hcur, if_neg hsome, if_neg hleft, hstack]
      rfl
    case ljmp =>
      refine (laneGo_ready _ hready).trans ((if_neg (Nat.not_le.2 hlt)).trans ?_)
      unfold LaneRun.control
      simp only [x.jump_block]
      rfl
    case lend => exact laneGo_ready _ hready
    case lexit => exact laneGo_ready _ hready
    case lfmt =>
      refine (laneGo_ready _ hready).trans ((if_neg (by simp [hlegal])).trans ?_)
      simp only [LaneRun.control, List.set_set]
      rfl
    case lnop => exact laneGo_ready _ hready
  case diverges =>
    obtain ⟨hdisjoint, hunion⟩ := mask_parts (g.eff q) c
    refine ⟨_, _, _, lbrStack_diverges hst htaken hfall htgt hnext, rfl, rfl, rfl, rfl, rfl, rfl, rfl, hdisjoint, hunion, rfl, rfl, fun hr => if_neg hr, fun hr => if_pos hr⟩

end Sys2Proof.Machine
end

section
/-! What a load takes (07 R169, R170; 08 R196; 13 R299; 15 R343): the sector it sees byte by byte, the record that receives it, and the value of
a scalar and of a lane load. -/

namespace Sys2Proof.Machine

/-! ### The sector a load sees -/

section

variable {s : State} {q : MemReq} {i n : Nat}

/-- A buffered entry's bytes lie over those of the sector below (R170). -/
theorem State.overBuffer_byte (core : Nat) (p : Party) (sec : Nat) (base : Sector × Vector Bound 16) (hn : n < 64) :
    (s.overBuffer core p sec base).1.byte n =
      match s.buffered core p sec with
      | some e => if e.store.mask.getLsbD n then e.store.data.byte n else base.1.byte n
      | none => base.1.byte n := by
  unfold State.overBuffer
  cases s.buffered core p sec with
  | some e => exact mergeData_byte _ _ hn
  | none => rfl

/-- Outside the save area a lane sees at each byte of its sector what was last performed there. -/
theorem State.seeSector_byte (hsave : s.inSave q.party (q.va i) = false) {k : Nat} (hk : q.va i % 64 + k < 64) :
    (s.seeSector q i).1.1.byte (q.va i % 64 + k) = s.lastByte q i k := by
  have hplace : q.paOf i / 64 * 64 = 64 * (q.paOf i / 64) := Nat.mul_comm ..
  unfold State.seeSector State.lastByte
  rw [hsave, if_neg Bool.false_ne_true]
  cases hhit : s.loadHits q i with
  | true =>
    have hl1 : (s.inL1 (s.coreOf q.party) q.party (q.va i / 64)).isSome = true := by
      unfold State.loadHits at hhit
      simp only [Bool.and_eq_true] at hhit
      exact hhit.2
    obtain ⟨l, hl⟩ := Option.isSome_iff_exists.1 hl1
    simp only [if_true, State.viewSector, State.overBuffer_byte _ _ _ _ hk, hl] <;> rfl
  | false =>
    simp only [Bool.false_eq_true, if_false, State.overBuffer_byte _ _ _ _ hk, State.homeLoad, readSector_byte _ _ hk, hplace] <;> rfl

/-- A sector from a peer's response holds the response's bytes. -/
theorem respSector_byte {data : List Byte} (hlen : 64 ≤ data.length) (hn : n < 64) : (respSector data).1.byte n = (data[n]?).getD 0 := by
  have htake : (data.take 64).length = 64 := by simp [hlen]
  rw [respSector, sectorOfBytes_byte _ htake (by rw [htake]; exact hn)]
  simp [show n < data.length by omega]

end

/-! ### The record that receives a load (05 R115) -/

section

variable (s : State) (q : MemReq) (lanes : Mask) (see : Nat → (Sector × Vector Bound 16) × Option Nat)

/-- A load's result record with the values of some lanes given to it. -/
def Outst.given (o : Outst) (s : State) (q : MemReq) (lanes : Mask) (see : Nat → (Sector × Vector Bound 16) × Option Nat) : Outst :=
  { o with
    words := if q.lane then putWords o.words lanes (fun i => loadWords q.width (see i).1 (q.va i % 64)) else o.words
    free := o.free ||| s.saveLanes q lanes
    sval := if q.lane then o.sval else BitVec.ofNat 64 (fieldN (see 0).1.1 (8 * (q.va 0 % 64)) (8 * q.bytes))
    poison := match o.poison with | some a => some a | none => (lanesOf lanes).findSome? fun i => (see i).2 }

theorem find?_updOutst (g : Group) (id : Nat) (f : Outst → Outst) (hf : ∀ o, (f o).id = o.id) :
    (g.updOutst id f).outst.find? (·.id == id) = (g.outst.find? (·.id == id)).map f := by
  unfold Group.updOutst
  rw [List.find?_map]
  have hsame : ((fun o : Outst => o.id == id) ∘ fun o => if o.id = id then f o else o) = fun o : Outst => o.id == id := by
    funext o
    show ((if o.id = id then f o else o).id == id) = _
    split
    · rw [hf]
    · rfl
  rw [hsame]
  cases h : g.outst.find? (·.id == id) with
  | none => rfl
  | some o => exact congrArg some (if_pos (by simpa using List.find?_some h))

theorem State.giveLoad_record {o : Outst} (h : (s.grp q.party).outst.find? (·.id == q.id) = some o) :
    ((s.giveLoad q lanes see).grp q.party).outst.find? (·.id == q.id) = some (o.given s q lanes see) := by
  unfold State.giveLoad
  rw [State.updGrp_grp, find?_updOutst, h]
  · rfl
  · exact fun _ => rfl

/-- After the values are given, the fills of a load change no group. -/
theorem State.doLoad_grp (p : Party) : (s.doLoad q lanes).grp p = (s.giveLoad (s.placed q) lanes fun i => s.seeSector (s.placed q) i).grp p := by
  unfold State.doLoad
  extract_lets core q' v w
  have hw : w.still = v.still := by
    unfold w
    split <;> rfl
  refine (State.grp_of_actors (State.actors_of_still (foldl_keeps State.still _ (fun u i => ?_) _ w)) p).trans
    (State.grp_of_actors (State.actors_of_still hw) p)
  split
  · rfl
  · dsimp only
    split <;> simp

theorem State.placed_id : (s.placed q).id = q.id := by
  unfold State.placed
  rfl

theorem State.doLoad_record {o : Outst} (h : (s.grp q.party).outst.find? (·.id == q.id) = some o) :
    ((s.doLoad q lanes).grp q.party).outst.find? (·.id == q.id) = some (o.given s (s.placed q) lanes fun i => s.seeSector (s.placed q) i) := by
  have hgive := s.giveLoad_record (s.placed q) lanes (fun i => s.seeSector (s.placed q) i) (o := o)
  rw [State.placed_party, State.placed_id] at hgive
  rw [State.doLoad_grp]
  exact hgive h

/-- What a peer sent for some lanes is given, and the other results of the group are as they were. -/
theorem State.answerLoad_record {o : Outst} (data : List Byte) (h : (s.grp q.party).outst.find? (·.id == q.id) = some o) :
    ((s.answerLoad q lanes data).grp q.party).outst.find? (·.id == q.id) =
      some (o.given s q lanes fun i => if s.inSave q.party (q.va i) then (freeSector (s.fresh + 16 * i), none) else (respSector data, none)) := by
  unfold State.answerLoad
  extract_lets t u v
  have ht := s.giveLoad_record q lanes (fun i => if s.inSave q.party (q.va i) then (freeSector (s.fresh + 16 * i), none) else (respSector data, none)) h
  have hu : u.still = t.still := by
    unfold u
    split <;> rfl
  have hv : v.still = u.still := by
    unfold v State.fillL1With
    split
    · rfl
    · split <;> rfl
  have hgrp (w : State) (hw : w.actors = v.actors) : w.grp q.party = t.grp q.party :=
    State.grp_of_actors ((hw.trans (State.actors_of_still hv)).trans (State.actors_of_still hu)) q.party
  unfold State.answered
  extract_lets left w
  have hacq : ((w.acqDone q).grp q.party).outst = (w.grp q.party).outst := by
    unfold State.acqDone
    split
    · split
      · rfl
      · next sc _ _ =>
        obtain ⟨-, ⟨n, hn⟩, -, -⟩ := w.acquireAt_keeps q.party sc.toNat
        rw [hn]
    · rfl
  split
  · rw [hacq, hgrp w rfl]
    exact ht
  · rw [hgrp _ (State.actors_of_still ((w.pump_still _).trans rfl))]
    exact ht

end

/-! ### The values of loads -/

theorem ofNat_fieldN {w : Nat} (x : BitVec w) (lo n : Nat) : BitVec.ofNat n (fieldN x lo n) = x.extractLsb' lo n := by
  rw [fieldN, BitVec.ofNat_toNat, BitVec.setWidth_eq]

/-- A field that follows another is above it. -/
theorem extractLsb'_add {w : Nat} (x : BitVec w) (lo m n : Nat) : x.extractLsb' lo (m + n) = x.extractLsb' (lo + n) m ++ x.extractLsb' lo n := by
  refine BitVec.eq_of_getLsbD_eq fun i hi => ?_
  rw [BitVec.getLsbD_append]
  simp only [BitVec.getLsbD_extractLsb', decide_eq_true hi, Bool.true_and]
  by_cases hn : i < n
  · simp [hn]
  · simp [hn, show i - n < m by omega, show lo + n + (i - n) = lo + i by omega]

/-- A field of whole bytes is its upper bytes over its lowest. -/
theorem extractLsb'_bytes (x : Sector) (m k : Nat) : x.extractLsb' (8 * m) (8 * k + 8) = x.extractLsb' (8 * (m + 1)) (8 * k) ++ x.byte m :=
  extractLsb'_add x (8 * m) (8 * k) 8

/-- A word extended by its width is the word of the bytes at its place. -/
theorem extendW_eq_loadedWord (width : BitVec 3) (x : Sector) (m : Nat) :
    extendW width (fieldN x (8 * m) (8 * min 4 (widthBytes width))) = loadedWord width fun k => x.byte (m + k) := by
  have hbyte : BitVec.ofNat 8 (fieldN x (8 * m) 8) = x.byte m := ofNat_fieldN x (8 * m) 8
  have hhalf : BitVec.ofNat 16 (fieldN x (8 * m) 16) = x.byte (m + 1) ++ x.byte m := (ofNat_fieldN x (8 * m) 16).trans (extractLsb'_bytes x m 1)
  have hword : BitVec.ofNat 32 (fieldN x (8 * m) 32) = x.byte (m + 3) ++ x.byte (m + 2) ++ x.byte (m + 1) ++ x.byte m := by
    rw [ofNat_fieldN, show x.extractLsb' (8 * m) 32 = _ from extractLsb'_bytes x m 3,
      show x.extractLsb' (8 * (m + 1)) (8 * 3) = _ from extractLsb'_bytes x (m + 1) 2,
      show x.extractLsb' (8 * (m + 1 + 1)) (8 * 2) = _ from extractLsb'_bytes x (m + 1 + 1) 1]
    rfl
  have hlt : width.toNat < 8 := width.isLt
  unfold extendW loadedWord widthBytes
  generalize width.toNat = n at hlt
  interval_cases n
  · exact congrArg (BitVec.signExtend 32) hbyte
  · exact congrArg (BitVec.setWidth 32) hbyte
  · exact congrArg (BitVec.signExtend 32) hhalf
  · exact congrArg (BitVec.setWidth 32) hhalf
  all_goals exact hword

theorem loadWords_get (width : BitVec 3) (sec : Sector × Vector Bound 16) (off : Nat) {j : Nat} (hj : j < widthRegs width) :
    ∃ b, (loadWords width sec off)[j]? = some ⟨loadedWord width fun k => sec.1.byte (off + 4 * j + k), b⟩ := by
  refine ⟨(sec.2[(off + 4 * j) / 4]?).getD 0, ?_⟩
  rw [loadWords, List.getElem?_map, List.getElem?_range hj, Option.map_some, extendW_eq_loadedWord]

theorem putWords_get {old : List (Vector LaneVal 32)} {lanes : Mask} (f : Nat → List LaneVal) {j : Nat} (hj : j < old.length) {n : Fin 32}
    (hn : lanes.getLsbD n.val = true) : ∃ v, (putWords old lanes f)[j]? = some v ∧ v[n] = ((f n.val)[j]?).getD LaneVal.zero := by
  refine ⟨Vector.ofFn fun i => if lanes.getLsbD i.val then ((f i.val)[j]?).getD LaneVal.zero else old[j][i], ?_, ?_⟩
  · simp [putWords, hj]
  · simp [hn]

/-- A lane of a load whose record was given a sector holds the loaded word of its bytes. -/
theorem Outst.given_word {o : Outst} (s : State) {q : MemReq} {lanes : Mask} (see : Nat → (Sector × Vector Bound 16) × Option Nat) {n : Fin 32} {j : Nat}
    (hlane : q.lane = true) (hlen : o.words.length = widthRegs q.width) (hj : j < widthRegs q.width) (hn : lanes.getLsbD n.val = true) :
    ∃ v, (o.given s q lanes see).words[j]? = some v ∧ v[n].val = loadedWord q.width fun k => (see n.val).1.1.byte (q.va n.val % 64 + 4 * j + k) := by
  obtain ⟨v, hv, hword⟩ := putWords_get (old := o.words) (fun i => loadWords q.width (see i).1 (q.va i % 64)) (hlen ▸ hj) hn
  obtain ⟨b, hb⟩ := loadWords_get q.width (see n.val).1 (q.va n.val % 64) hj
  refine ⟨v, ?_, ?_⟩
  · unfold Outst.given
    dsimp only
    rw [if_pos hlane, hv]
  · rw [hword, hb]
    rfl

/-- The bytes that a loaded word takes. -/
theorem loadedWord_congr {width : BitVec 3} {b c : Nat → Byte} (h : ∀ k < min 4 (widthBytes width), b k = c k) : loadedWord width b = loadedWord width c := by
  have hlt : width.toNat < 8 := width.isLt
  unfold widthBytes at h
  unfold loadedWord
  generalize width.toNat = w at hlt h
  interval_cases w
  all_goals simp [h]

/-- The bytes of an aligned access lie in one sector (R167). -/
theorem aligned_byte_lt {width : BitVec 3} {a j k : Nat} (halign : a % widthBytes width = 0) (hj : j < widthRegs width) (h7 : width ≠ 7)
    (hk : k < min 4 (widthBytes width)) : a % 64 + (4 * j + k) < 64 := by
  have hlt : width.toNat < 7 := by
    have : width.toNat ≠ 7 := fun hw => h7 (BitVec.eq_of_toNat_eq hw)
    have := width.isLt
    omega
  have hregs : widthRegs width = if width.toNat = 5 then 2 else if width.toNat = 6 then 4 else 1 := by
    unfold widthRegs
    simp only [← BitVec.toNat_inj]
    rfl
  rw [hregs] at hj
  unfold widthBytes at halign hk
  generalize width.toNat = w at hlt hj halign hk
  interval_cases w
  all_goals
    simp only [Nat.reduceEqDiff, if_true, if_false] at hj halign hk
    omega

theorem State.placed_width (s : State) (q : MemReq) : (s.placed q).width = q.width := by
  unfold State.placed
  rfl

theorem State.placed_bytes (s : State) (q : MemReq) : (s.placed q).bytes = q.bytes := by
  unfold State.placed
  rfl

theorem State.placed_lane (s : State) (q : MemReq) : (s.placed q).lane = q.lane := by
  unfold State.placed
  rfl

section

variable {s : State} {q : MemReq} {o : Outst} {lanes : Mask} {n : Fin 32} {j : Nat}
  (hlane : q.lane = true) (h7 : q.width ≠ 7) (hrecord : (s.grp q.party).outst.find? (·.id == q.id) = some o) (hlen : o.words.length = widthRegs q.width)
  (hj : j < widthRegs q.width) (hn : lanes.getLsbD n.val = true) (hsave : s.inSave q.party (q.va n.val) = false)
  (halign : q.va n.val % widthBytes q.width = 0)
include hlane h7 hrecord hlen hj hn hsave halign

/-- A lane load of this device's memory takes what was last performed at the lane's address. -/
theorem State.doLoad_word : ∃ u v, ((s.doLoad q lanes).grp q.party).outst.find? (·.id == q.id) = some u ∧ u.words[j]? = some v ∧
    v[n].val = loadedWord q.width fun k => s.lastByte (s.placed q) n.val (4 * j + k) := by
  obtain ⟨v, hv, hword⟩ := Outst.given_word s (q := s.placed q) (fun i => s.seeSector (s.placed q) i) ((s.placed_lane q).trans hlane)
    (hlen.trans (by rw [s.placed_width])) (j := j) (by rwa [s.placed_width]) hn
  refine ⟨_, v, s.doLoad_record q lanes hrecord, hv, hword.trans ?_⟩
  rw [s.placed_width]
  refine loadedWord_congr fun k hk => ?_
  rw [Nat.add_assoc]
  exact State.seeSector_byte (by rwa [s.placed_party, s.placed_va]) (by rw [s.placed_va]; exact aligned_byte_lt halign hj h7 hk)

/-- A lane load of a peer's sector takes what the response carries. -/
theorem State.answerLoad_word {data : List Byte} (hdata : 64 ≤ data.length) :
    ∃ u v, ((s.answerLoad q lanes data).grp q.party).outst.find? (·.id == q.id) = some u ∧ u.words[j]? = some v ∧
      v[n].val = loadedWord q.width fun k => (data[q.va n.val % 64 + 4 * j + k]?).getD 0 := by
  obtain ⟨v, hv, hword⟩ := Outst.given_word s (q := q) (lanes := lanes)
    (fun i => if s.inSave q.party (q.va i) then (freeSector (s.fresh + 16 * i), none) else (respSector data, none)) hlane hlen hj hn
  refine ⟨_, v, s.answerLoad_record q lanes data hrecord, hv, hword.trans (loadedWord_congr fun k hk => ?_)⟩
  rw [hsave, if_neg Bool.false_ne_true]
  exact respSector_byte hdata (by rw [Nat.add_assoc]; exact aligned_byte_lt halign hj h7 hk)

end

/-- A scalar load takes, zero-extended, what was last performed at its address. -/
theorem State.doLoad_scalar {s : State} {q : MemReq} {o : Outst} (hlane : q.lane = false) (hrecord : (s.grp q.party).outst.find? (·.id == q.id) = some o)
    (hsave : s.inSave q.party (q.va 0) = false) (hbytes : q.bytes ≤ 8) (hfit : q.va 0 % 64 + q.bytes ≤ 64) :
    ∃ u, ((s.doLoad q 1).grp q.party).outst.find? (·.id == q.id) = some u ∧ u.dest = o.dest ∧ u.sval.toNat < 256 ^ q.bytes ∧
      ∀ k < q.bytes, u.sval.extractLsb' (8 * k) 8 = s.lastByte (s.placed q) 0 k := by
  refine ⟨_, s.doLoad_record q 1 hrecord, rfl, ?_⟩
  have hval : (o.given s (s.placed q) 1 fun i => s.seeSector (s.placed q) i).sval =
      BitVec.ofNat 64 (fieldN (s.seeSector (s.placed q) 0).1.1 (8 * (q.va 0 % 64)) (8 * q.bytes)) := by
    unfold Outst.given
    dsimp only
    rw [s.placed_lane, hlane, if_neg Bool.false_ne_true, s.placed_va, s.placed_bytes]
  have hlt : fieldN (s.seeSector (s.placed q) 0).1.1 (8 * (q.va 0 % 64)) (8 * q.bytes) < 256 ^ q.bytes := by
    rw [show 256 = 2 ^ 8 from rfl, ← Nat.pow_mul]
    exact BitVec.isLt _
  have h64 : 256 ^ q.bytes ≤ 2 ^ 64 := Nat.pow_le_pow_right (by decide : 0 < 256) hbytes
  rw [hval]
  refine ⟨?_, fun k hk => ?_⟩
  · rwa [BitVec.toNat_ofNat, Nat.mod_eq_of_lt (Nat.lt_of_lt_of_le hlt h64)]
  · have hsee := State.seeSector_byte (s := s) (q := s.placed q) (i := 0) (k := k) (by rwa [s.placed_party, s.placed_va]) (by rw [s.placed_va]; omega)
    rw [s.placed_va] at hsee
    rw [← hsee]
    refine BitVec.eq_of_getLsbD_eq fun j hj => ?_
    simp only [fieldN, Sector.byte, BitVec.getLsbD_extractLsb', BitVec.getLsbD_ofNat, BitVec.testBit_toNat, hj, decide_true, Bool.true_and,
      show 8 * k + j < 8 * q.bytes by omega, show 8 * k + j < 64 by omega]
    rw [show 8 * (q.va 0 % 64) + (8 * k + j) = 8 * (q.va 0 % 64 + k) + j by omega]

end Sys2Proof.Machine
end

section
/-! Scalar and lane accesses that issue (07 R168, R170; 08 R196, R200; 13 R299 to R305; 15 R339, R342 to R346), and a fence whose own acquire
finds a lost peer (02 R47, R48; 07 R190). -/

namespace Sys2Proof.Machine

/-! ### Scalar accesses (R299, R300, R303, R305) -/

theorem scalarLoad_ready {s : State} {t : SNum} {ea : DWord} {bytes : Nat} {acq : Option (BitVec 2)}
    (h : s.requestReady { scalarReq s.who .load bytes ea with acq := acq } none = true) :
    scalarLoad s t ea bytes acq = .next (s.loading { scalarReq s.who .load bytes ea with acq := acq } none t) :=
  congrArg (fun r => scalarIssued s r (·.sempty t .pending)) (State.issue_ready (.sreg t) .scalar none h)

theorem scalarStore_ready {s : State} {x ea : DWord} {bytes : Nat} {rel : Option Nat}
    (h : s.requestReady { scalarReq s.who .store bytes ea with x := x } rel = true) :
    scalarStore s x ea bytes rel = .next (s.storing { scalarReq s.who .store bytes ea with x := x } rel) := by
  unfold scalarStore
  rw [State.issue_ready .none .scalar none h]
  rfl

/-- The core that SACQP names is not there (R305). -/
theorem acqpGone_iff (s : State) (n : Nat) :
    (Config.coreCount ≤ n ∨ ¬ s.dev.dmap.getLsbD (dieOfCore n) = true) ↔ (1728 ≤ n ∨ s.dev.dmap.getLsbD (n / 288) = false) := by
  unfold dieOfCore
  rw [show Config.coreCount = 1728 from rfl, show Config.coresPerDie = 288 from rfl]
  by_cases h : n < 1728
  · simp [h]
  · simp [h, Nat.le_of_not_lt h]

/-- Settles O5, instruction by instruction; a load's value is `State.doLoad_scalar`. -/
theorem scalarMemoryIssues : Obligations.ScalarMemoryIssues := by
  unfold Obligations.ScalarMemoryIssues
  intro t base d a b sz sc ord off op
  refine ⟨fun s hready hissue => exec_sld hready hissue, fun s hready hissue => ?slda, fun s hready hissue => exec_sst hready hissue,
    fun s hready hissue => ?sstl, fun s q o => State.doLoad_scalar, fun s hready hissue => ?satom, fun s hready hpre => ?gone, fun s hready hpre => ?probe⟩
  case slda =>
    refine (gated_ready _ hready).trans ?_
    rw [smAddr_eq]
    exact scalarLoad_ready hissue
  case sstl =>
    refine (gated_ready _ hready).trans ?_
    rw [smAddr_eq]
    exact scalarStore_ready hissue
  case satom =>
    refine (gated_ready _ hready).trans ?_
    exact congrArg (fun r => scalarIssued s r (·.sempty d .pending)) (State.issue_ready (.sreg d) .scalar none hissue)
  case gone =>
    obtain ⟨hgone, hissue⟩ := hpre
    refine (gated_ready _ hready).trans ((if_pos ((acqpGone_iff s _).2 hgone)).trans ?_)
    exact scalarLoad_ready hissue
  case probe =>
    obtain ⟨hthere, hfault, hheld, hacq⟩ := hpre
    refine (gated_ready _ hready).trans ((if_neg (mt (acqpGone_iff s _).1 hthere)).trans ?_)
    dsimp only
    rw [hfault]
    dsimp only
    rw [hheld, hacq]
    rfl

/-! ### A fence that finds a lost peer (R47, R48, R190) -/

/-- A running group on a device that has lost peer 5, to which another core of the group's die has a buffered store; the die's
invalidation log covers its sector, so that the next acquire at device scope or wider drains it. -/
def lostStoreBehindInval : State :=
  let s : State := { State.reset.load false [] with who := .group 1 0 }
  let entry : CbEntry := { pasid := 0, va := 0x400, pa := 0, peer := some 5, store := secStore 0 8 0 0, by_ := [] }
  let t := (s.setPeer 5 { s.peer 5 with lost := true, ports := 1 }).setCore 1 { s.core 1 with cbuf := [entry] }
  t.setDie 0 { t.die 0 with invlog := [{ pasid := 0, va := 0x10000, size := 64, seq := 0, removed := false, ids := [], posted := [] }] }

/-- `c.fstat` of the executing party after an instruction. -/
def fstatAfter (o : Out) : Option DWord := match o with | .next t => some t.cur.fstat | _ => none

theorem lostStoreBehindInval_meets : scalarReady (.sfence 2 false 3) [] [] lostStoreBehindInval = true ∧
    lostStoreBehindInval.fenceReady 2 false 3 = true ∧ lostStoreBehindInval.lostBits = 0 := by decide +kernel

/-- The fence reports the store that its own acquire dropped. -/
theorem fence_reports_dropped : fstatAfter (exec (.sfence 2 false 3) lostStoreBehindInval) = some 1 := by decide +kernel

theorem acquire_reports_nothing : fstatAfter (.next (lostStoreBehindInval.acquireAt lostStoreBehindInval.who 3).advance) = some 0 := by decide +kernel

/-- Refutes O7: a full system fence that finds no lost link (`lostBits` 0) makes its acquire; the acquire drains another core's buffered
store to a lost peer, which is dropped and marks the link, and the fence then reports that in `c.fstat`. -/
theorem not_scratchLoadAndFence : ¬ Obligations.ScratchLoadAndFence := by
  unfold Obligations.ScratchLoadAndFence
  intro h
  obtain ⟨hready, hfence, hlost⟩ := lostStoreBehindInval_meets
  have hexec := (h 0 0 0 3 2 false 0).2 lostStoreBehindInval hready ⟨hfence, .inr (.inr hlost)⟩
  have hfstat := congrArg fstatAfter hexec
  rw [fence_reports_dropped] at hfstat
  exact absurd (hfstat.trans acquire_reports_nothing) (by decide)

/-! ### Global lane accesses (R342 to R346) -/

section

variable {i : Instr} {addr : LaneCtx → Nat → DWord} {s : State} {x : LaneRun}

theorem laneLoad_idle (hready : laneReady i s = some x) (hperf : x.perf = 0) : laneLoad i addr s = .next (x.past s id) :=
  (laneGo_ready _ hready).trans (if_pos hperf)

theorem laneStore_idle (hready : laneReady i s = some x) (hperf : x.perf = 0) : laneStore i addr s = .next (x.past s id) :=
  (laneGo_ready _ hready).trans (if_pos hperf)

theorem laneAtomic_idle {kind : BitVec 4 → MemKind} (hready : laneReady i s = some x) (hperf : x.perf = 0) :
    laneAtomic i kind s = .next (x.past s id) :=
  (laneGo_ready _ hready).trans (if_pos hperf)

theorem laneLoad_issues (hready : laneReady i s = some x) (hperf : x.perf ≠ 0) (hissue : s.requestReady (x.loadReq s (addr x.c)) none = true) :
    laneLoad i addr s = .next (x.past (s.requested (x.loadReq s (addr x.c)) none x.dest x.origin x.check) (·.emptyDest x.dest (widthRegs x.w.width))) :=
  (laneGo_ready _ hready).trans ((if_neg hperf).trans
    (congrArg (fun r => x.issued s r (·.emptyDest x.dest (widthRegs x.w.width))) (State.issue_ready x.dest x.origin x.check hissue)))

/-- A store without a fault whose words do not breach goes on. -/
theorem LaneRun.checked_ok {data : List (Vector LaneVal 32)} (go : State → Out) (hbreach : (x.storeBreach data).1 = 0) :
    x.checked s none data go = go s := by
  unfold LaneRun.checked
  dsimp only
  rw [hbreach, if_neg fun h => h.1 rfl, if_neg fun h => h rfl]

theorem laneStore_issues (hready : laneReady i s = some x) (hperf : x.perf ≠ 0) (hbreach : (x.storeBreach x.storeData).1 = 0)
    (hissue : s.requestReady (x.storeReq s (addr x.c)) (laneRel x.w) = true) :
    laneStore i addr s = .next (x.past (s.requested (x.storeReq s (addr x.c)) (laneRel x.w) .none x.origin none) id) := by
  have hfault := State.addrFault_of_ready hissue
  refine (laneGo_ready _ hready).trans ((if_neg hperf).trans ?_)
  dsimp only [LaneRun.storeReq] at hfault hissue ⊢
  rw [hfault, LaneRun.checked_ok _ hbreach, State.issue_ready .none x.origin none hissue]
  rfl

theorem laneAtomic_issues {kind : BitVec 4 → MemKind} (hready : laneReady i s = some x) (hperf : x.perf ≠ 0)
    (hissue : s.requestReady (x.atomReq s (kind x.w.atomOp) x.c.addrGlobal) (relOf x.w.atomOrd x.w.scope) = true) :
    laneAtomic i kind s = .next (x.past (s.requested (x.atomReq s (kind x.w.atomOp) x.c.addrGlobal) (relOf x.w.atomOrd x.w.scope) x.dest x.origin x.check)
      (·.emptyDest x.dest 1)) :=
  (laneGo_ready _ hready).trans ((if_neg hperf).trans
    (congrArg (fun r => x.issued s r (·.emptyDest x.dest 1)) (State.issue_ready x.dest x.origin x.check hissue)))

end

/-- Settles O30: the accesses issue by `laneLoad_issues`, `laneStore_issues` and `laneAtomic_issues`; a load's values are `State.doLoad_word`
and `State.answerLoad_word`. -/
theorem laneGlobalAccess : Obligations.LaneGlobalAccess := by
  unfold Obligations.LaneGlobalAccess
  intro w idle load store atom
  have hload {i : Instr} {r : LaneRow} {ad : LaneCtx → Nat → DWord} (hrow : laneRow i = some (r, w)) (hexec : ∀ s, exec i s = laneLoad i ad s) : load i ad := by
    rintro s x hready ⟨hperf, hissue⟩
    obtain ⟨-, rfl, -⟩ := laneReady_word hready hrow
    exact (hexec s).trans (laneLoad_issues hready hperf hissue)
  have hstore {i : Instr} {r : LaneRow} {ad : LaneCtx → Nat → DWord} (hrow : laneRow i = some (r, w)) (hexec : ∀ s, exec i s = laneStore i ad s) : store i ad := by
    rintro s x hready ⟨hperf, hbreach, hissue⟩
    obtain ⟨-, rfl, -⟩ := laneReady_word hready hrow
    exact (hexec s).trans (laneStore_issues hready hperf hbreach hissue)
  have hatom {i : Instr} {r : LaneRow} {kind : BitVec 4 → MemKind} (hrow : laneRow i = some (r, w)) (hexec : ∀ s, exec i s = laneAtomic i kind s) :
      atom i (kind w.atomOp) := by
    rintro s x hready ⟨hperf, hissue⟩
    obtain ⟨-, rfl, -⟩ := laneReady_word hready hrow
    exact (hexec s).trans (laneAtomic_issues hready hperf hissue)
  refine ⟨fun s x => laneLoad_idle, fun s x => laneLoad_idle, fun s x => laneStore_idle, fun s x => laneStore_idle, fun s x => laneAtomic_idle (kind := fun op => .atomic op false),
    fun s x => laneAtomic_idle (kind := .agg), hload rfl fun _ => rfl, hload rfl fun _ => rfl, hstore rfl fun _ => rfl, hstore rfl fun _ => rfl,
    hatom (kind := fun op => .atomic op false) rfl fun _ => rfl, hatom (kind := .agg) rfl fun _ => rfl, ?values⟩
  intro s q o lanes n j hlane h7 hrecord hlen hj hn hsave halign
  exact ⟨State.doLoad_word hlane h7 hrecord hlen hj hn hsave halign, fun data hdata => State.answerLoad_word hlane h7 hrecord hlen hj hn hsave halign hdata⟩

/-! ### Lane accesses to scratch (R168, R343 to R345) -/

/-- Settles O31, word by word. -/
theorem laneScratchAccess : Obligations.LaneScratchAccess := by
  unfold Obligations.LaneScratchAccess
  intro w idle acq put
  refine ⟨fun s x hready hperf => (laneGo_ready _ hready).trans (if_pos hperf), fun s x hready hperf => (laneGo_ready _ hready).trans (if_pos hperf),
    fun s x hready hperf => (laneGo_ready _ hready).trans (if_pos hperf), fun s x hready hpre => ?lds, fun s x hready hpre => ?sts,
    fun s x hready hpre => ?atoms⟩
  all_goals obtain ⟨-, rfl, -⟩ := laneReady_word hready rfl
  case lds =>
    obtain ⟨hperf, hfault, hacq⟩ := hpre
    refine (laneGo_ready _ hready).trans ((if_neg hperf).trans ?_)
    dsimp only [LaneRun.loadReq] at hfault ⊢
    rw [hfault]
    exact if_neg (by rw [hacq]; exact Bool.false_ne_true)
  case sts =>
    obtain ⟨hperf, hbreach, hfault, hacq, hrel⟩ := hpre
    refine (laneGo_ready _ hready).trans ((if_neg hperf).trans ((congrArg (fun r => x.checked s r x.storeData _) hfault).trans
      ((LaneRun.checked_ok _ hbreach).trans (if_neg ?_))))
    rw [hacq]
    cases hsc : laneRel x.w with
    | none => exact Bool.false_ne_true
    | some sc => simp [hrel sc hsc]
  case atoms =>
    obtain ⟨hperf, hfault, hacq, hrel⟩ := hpre
    refine (laneGo_ready _ hready).trans ((if_neg hperf).trans ?_)
    dsimp only [LaneRun.atomReq] at hfault ⊢
    rw [hfault]
    refine if_neg ?_
    rw [hacq]
    cases hsc : relOf x.w.atomOrd x.w.scope with
    | none => exact Bool.false_ne_true
    | some sc => simp [hrel sc hsc]

end Sys2Proof.Machine
end

section
/-! Lane references and tiles (07 R177 to R179; 08 R205, R207; 15 R347, R348): the checks of a reference, the word and the T bit that its store
leaves, the lanes of an STREF, and the attempts of a TLDA. -/

namespace Sys2Proof.Machine

/-! ### Metadata of a sector (R176 to R179) -/

/-- Codes of three bits each, one above the other, take three bits each. -/
theorem foldl_codes_lt {α : Type} (code : α → Nat) (hcode : ∀ v, code v < 8) (l : List α) (k acc : Nat) (hacc : acc < 2 ^ (3 * k)) :
    ((l.zipIdx k).map fun (v, i) => code v * 2 ^ (3 * i)).foldl (· + ·) acc < 2 ^ (3 * (k + l.length)) := by
  induction l generalizing k acc with
  | nil => exact hacc
  | cons v l ih =>
    rw [List.zipIdx_cons, List.map_cons, List.foldl_cons, List.length_cons, show k + (l.length + 1) = k + 1 + l.length by omega]
    refine ih (k + 1) _ ?_
    have hmul : code v * 2 ^ (3 * k) ≤ 7 * 2 ^ (3 * k) := Nat.mul_le_mul_right _ (Nat.le_of_lt_succ (hcode v))
    rw [Nat.mul_succ, pow_add]
    show acc + code v * 2 ^ (3 * k) < _
    omega

/-- The exponent and the codes of a sector's bounds take the 55 bits below T (R176). -/
theorem storeMeta_lt (b : Vector Bound 16) : storeMeta b < 2 ^ 55 := by
  unfold storeMeta
  extract_lets vals fin mx n sx code
  have hsx : (sx + 96).toNat < 128 := by
    unfold sx
    split
    · decide
    · split
      · decide
      · split <;> omega
  have hcode : ∀ v, code v < 8 := by
    intro v
    unfold code
    split
    · decide
    · split
      · decide
      · split
        · decide
        · cases hc : [1, 2, 3, 4, 5].find? fun (c : Nat) => decide (_ ≤ pow2 (sx - 3 * (6 - (c : Int)))) with
          | none => decide
          | some c =>
            have := List.mem_of_find?_eq_some hc
            simp only [List.mem_cons, List.not_mem_nil, or_false] at this
            show c < 8
            omega
  have hcodes := foldl_codes_lt code hcode vals 0 0 (by decide)
  rw [show vals.length = 16 by simp [vals]] at hcodes
  refine Nat.lt_of_lt_of_le (Nat.add_lt_add_left hcodes _) ?_
  omega

theorem mdT_mdMake (h : Bool) (t : BitVec 8) (b : Vector Bound 16) : mdT (mdMake h t b) = t := by
  have hlt := storeMeta_lt b
  have ht := t.isLt
  refine BitVec.eq_of_toNat_eq ?_
  rw [mdT, mdMake, BitVec.extractLsb'_toNat, BitVec.toNat_ofNat, Nat.shiftRight_eq_div_pow]
  cases h
  · simp only [Bool.false_eq_true, if_false]
    omega
  · simp only [if_true]
    omega

/-- The T bit of a word that a store touches is the store's (R179). -/
theorem mergeT_getLsbD (old : BitVec 8) (st : SecStore) {j : Nat} (hj : j < 8) :
    (mergeT old st).getLsbD j = if fieldN st.mask (8 * j) 8 = 0 then old.getLsbD j else st.tset.getLsbD j := by
  have hbits := (maskSum_bits (fun i => if fieldN st.mask (8 * i) 8 = 0 then old.getLsbD i else st.tset.getLsbD i) 8).2 j
  have hsum : (fun a i => a + 2 ^ i * (if fieldN st.mask (8 * i) 8 = 0 then old.getLsbD i else st.tset.getLsbD i).toNat) =
      fun a i => if (if fieldN st.mask (8 * i) 8 = 0 then old.getLsbD i else st.tset.getLsbD i) = true then a + 2 ^ i else a := by
    funext a i
    cases (if fieldN st.mask (8 * i) 8 = 0 then old.getLsbD i else st.tset.getLsbD i) <;> simp
  rw [mergeT, hsum, BitVec.getLsbD_ofNat, hbits]
  simp [hj]

/-! ### The store of a reference (R179, R207) -/

/-- Where the party's core buffers nothing, taking a sector from it leaves the map, memory and the registers as they are. -/
theorem State.settleSector_empty {s : State} {p : Party} (h : (s.core (s.coreOf p)).cbuf = []) (va : Nat) :
    (s.settleSector p va).maps = s.maps ∧ (s.settleSector p va).still = s.still ∧ (s.settleSector p va).dev = s.dev ∧
      ((s.settleSector p va).core ((s.settleSector p va).coreOf p)).cbuf = [] := by
  have hnone : s.buffered (s.coreOf p) p (va / 64) = none := by
    unfold State.buffered
    rw [h]
    rfl
  have hsettle : s.settleSector p va =
      s.updCore (s.coreOf p) fun c => { c with l1 := c.l1.filter fun l => !((s.ctx l.ctx).pasid == s.pasidOf p && l.va == va / 64) } := by
    unfold State.settleSector
    simp only [hnone]
  have hmaps : (s.settleSector p va).maps = s.maps := by
    rw [hsettle]
    exact s.updCore_maps fun _ => rfl
  refine ⟨hmaps, by rw [hsettle]; rfl, by rw [hsettle]; rfl, ?_⟩
  rw [State.coreOf_of_maps hmaps, hsettle, State.updCore_core, if_pos rfl]
  exact h

/-- Traffic touches no register of the device. -/
theorem State.haul_dev (s : State) (p : Party) (core die bytes : Nat) : (s.haul p core die bytes).dev = s.dev := by
  have hdrain : (s.drainTokens (s.tenantOf p) bytes).dev = s.dev := by
    unfold State.drainTokens
    split <;> rfl
  unfold State.haul
  obtain ⟨_, _, h⟩ := (if die < 6 then s.drainTokens (s.tenantOf p) bytes else s).carryFor_only p (dieOfCore core) die bytes
  rw [h]
  show (if die < 6 then s.drainTokens (s.tenantOf p) bytes else s).dev = s.dev
  split
  · exact hdrain
  · rfl

theorem State.homeStore_dev (s : State) (sec : Nat) (st : SecStore) (copy : Bool) : (s.homeStore sec st copy).dev = s.dev := rfl

/-- A store of an 8-byte word that clears or sets its T bit. -/
def refSec (off : Nat) (r : DWord) : SecStore := { secStore off 8 r.toNat 0 with tset := BitVec.ofNat 8 (2 ^ (off / 8)) }

/-- Where the party's core buffers nothing, a reference to this device's memory is stored at its home. -/
theorem State.refStore_here {s : State} {p : Party} {h r : DWord} {w pa : Nat} (hbuf : (s.core (s.coreOf p)).cbuf = [])
    (hlook : s.lookAt p (refWord h w).toNat true = .here pa) :
    ∃ t : State, (s.refStore p h w r).still = (t.homeStore (pa / 64) (refSec (pa % 64) r) false).still ∧
      (s.refStore p h w r).dev = s.dev ∧ t.still = s.still ∧ t.dev = s.dev := by
  obtain ⟨hm1, hs1, hd1, hb1⟩ := State.settleSector_empty hbuf h.toNat
  obtain ⟨hm2, hs2, hd2, hb2⟩ := State.settleSector_empty hb1 r.toNat
  obtain ⟨-, hs3, hd3, -⟩ := State.settleSector_empty hb2 (refWord h w).toNat
  have hlook2 : ((s.settleSector p h.toNat).settleSector p r.toNat).lookAt p (refWord h w).toNat true = .here pa := by
    have hmaps := hm2.trans hm1
    unfold State.lookAt at hlook ⊢
    rw [State.coreOf_of_maps hmaps, State.pasidOf_of_maps hmaps, State.look_of_maps hmaps, hlook]
  have hdev := hd3.trans (hd2.trans hd1)
  refine ⟨_, ?_, ?_, hs3.trans (hs2.trans hs1), hdev⟩
  · unfold State.refStore
    dsimp only
    rw [hlook2]
    exact State.haul_still ..
  · unfold State.refStore
    dsimp only
    rw [hlook2]
    rw [State.haul_dev, State.homeStore_dev]
    exact hdev

/-- A word whose bytes memory holds from an address on is what is read there. -/
theorem State.read64_eq_of_bytes {s : State} {pa : Nat} {r : DWord} (h : ∀ k < 8, readByte s.mem (pa + k) = r.extractLsb' (8 * k) 8) : s.read64 pa = r := by
  refine BitVec.eq_of_getLsbD_eq fun j hj => ?_
  have hlen : (readBytes s.mem pa 8).length = 8 := by simp [readBytes, KMap.getRange]
  have hbit := testBit_leBytes (readBytes s.mem pa 8) (j / 8) (j % 8) (by omega) (by omega)
  rw [Nat.div_add_mod] at hbit
  rw [State.read64, BitVec.getLsbD_ofNat, decide_eq_true hj, Bool.true_and, readLE, hbit]
  have hget : (readBytes s.mem pa 8)[j / 8]'(by omega) = readByte s.mem (pa + j / 8) := by simp [readBytes, KMap.getRange, readByte]
  rw [hget, h _ (by omega), BitVec.getLsbD_extractLsb', Nat.div_add_mod, decide_eq_true (Nat.mod_lt j (by decide)), Bool.true_and]

/-- The home of a stored reference holds it. -/
theorem State.homeStore_refSec_read64 (t : State) {pa : Nat} (r : DWord) (halign : pa % 8 = 0) :
    (t.homeStore (pa / 64) (refSec (pa % 64) r) false).read64 pa = r := by
  refine State.read64_eq_of_bytes fun k hk => ?_
  show readByte (writeMasked t.mem (64 * (pa / 64)) (refSec (pa % 64) r)) (pa + k) = _
  have hplace : (pa + k) % 64 = pa % 64 + k := by omega
  have hmask : (refSec (pa % 64) r).mask.getLsbD ((pa + k) % 64) = true := (secStore_mask r.toNat 0 _ (by omega)).2 (by omega)
  rw [readByte_writeMasked, if_pos ⟨by omega, hmask⟩, hplace]
  exact secStore_byte r 0 hk (Nat.le_refl 8) (by omega)

/-- The T bit of a stored reference's word is set. -/
theorem mergeMd_refSec (m : DWord) {off : Nat} (r : DWord) (halign : off % 8 = 0) (hoff : off < 64) :
    (mdT (mergeMd m (refSec off r) false)).getLsbD (off / 8) = true := by
  have hmask : fieldN (refSec off r).mask (8 * (off / 8)) 8 ≠ 0 := by
    intro hzero
    have hbit : (refSec off r).mask.getLsbD off = true := (secStore_mask r.toNat 0 _ (by omega)).2 (by omega)
    have hfield : ((refSec off r).mask.extractLsb' (8 * (off / 8)) 8).getLsbD 0 = false := by
      rw [BitVec.eq_of_toNat_eq (y := 0) hzero]
      rfl
    rw [BitVec.getLsbD_extractLsb', show 8 * (off / 8) + 0 = off by omega, hbit] at hfield
    exact absurd hfield (by decide)
  rw [mergeMd, mdT_mdMake, mergeT_getLsbD _ _ (by omega), if_neg hmask]
  show (BitVec.ofNat 8 (2 ^ (off / 8))).getLsbD (off / 8) = true
  rw [BitVec.getLsbD_ofNat, Nat.testBit_two_pow_self, decide_eq_true (by omega)]
  rfl

/-- Only the map of memory and the metadata regions say whether a region covers an address. -/
theorem State.inRegion_of_still {s t : State} (hstill : t.still = s.still) (hdev : t.dev = s.dev) (pa : Nat) : t.inRegion pa = s.inRegion pa := by
  have hmp : t.mp = s.mp := congrArg (fun a => a.1.2.2.2.1) hstill
  unfold State.inRegion State.isHbm State.hbmEnd
  rw [hmp, hdev]

/-- A stored reference is at its word's home with its T bit (R179, R207). -/
theorem State.refStore_stored {s : State} {p : Party} {h r : DWord} {w pa : Nat} (hlook : s.lookAt p (refWord h w).toNat true = .here pa)
    (halign : pa % 8 = 0) (hbuf : (s.core (s.coreOf p)).cbuf = []) :
    (s.refStore p h w r).read64 pa = r ∧
      (s.inRegion (64 * (pa / 64)) = true → (mdT ((s.refStore p h w r).mdOf (pa / 64))).getLsbD (pa % 64 / 8) = true) := by
  obtain ⟨t, hstore, hdev, hstill, htdev⟩ := State.refStore_here (r := r) hbuf hlook
  obtain ⟨hmem, hmd⟩ := State.mem_of_still hstore
  refine ⟨?_, fun hin => ?_⟩
  · rw [State.read64, hmem]
    exact t.homeStore_refSec_read64 r halign
  · have htin : t.inRegion (64 * (pa / 64)) = true := (State.inRegion_of_still hstill htdev _).trans hin
    have hregion : (s.refStore p h w r).inRegion (64 * (pa / 64)) = true :=
      (State.inRegion_of_still (s := t.homeStore (pa / 64) (refSec (pa % 64) r) false) hstore (hdev.trans htdev.symm) _).trans htin
    have hset : (t.homeStore (pa / 64) (refSec (pa % 64) r) false).md =
        KMap.set 0 t.md (pa / 64) (mergeMd (KMap.get 0 t.md (pa / 64)) (refSec (pa % 64) r) false) := if_pos htin
    rw [State.mdOf, if_pos hregion, hmd, hset, KMap.get_set_same]
    exact mergeMd_refSec _ r (by omega) (by omega)

/-! ### The checks of a reference (R207) -/

theorem extractLsb'_high_eq_zero {x : DWord} : x.extractLsb' 57 7 = 0 ↔ x.toNat < 2 ^ 57 := by
  rw [← BitVec.toNat_inj, BitVec.extractLsb'_toNat, Nat.shiftRight_eq_div_pow]
  have := x.isLt
  simp
  omega

theorem refFields_eq_store {h r : DWord} (hh : placeOk h 64) (hr : placeOk r 64) : refFields h r = .store := by
  obtain ⟨hh64, hhlt⟩ := hh
  obtain ⟨hr64, hrlt⟩ := hr
  simp [refFields, hh64, hr64, extractLsb'_high_eq_zero.2 hhlt, extractLsb'_high_eq_zero.2 hrlt]

section

variable {s : State} {p : Party} {h r : DWord} {w : Nat}

theorem State.refCheck_fields (hne : refFields h r ≠ .store) : s.refCheck p h w r = refFields h r := if_pos hne

theorem State.refCheck_zero (hh : placeOk h 64) (hr : placeOk r 64) : s.refCheck p h 0 r = .access h :=
  (if_neg (not_not.2 (refFields_eq_store hh hr))).trans (if_pos rfl)

variable {o : Bool} {hdr : DWord}

/-- A word beyond the object of its header is not reached. -/
theorem State.refCheck_beyond (hh : placeOk h 64) (hr : placeOk r 64) (hw : 0 < w) (hhdr : s.header p h.toNat = .is o hdr)
    (hobj : o = true) (hfar : 64 * fieldN hdr 40 24 ≤ 8 * w) : s.refCheck p h w r = .access (refWord h w) := by
  have hlen : o = true ∧ hdrLenOf hdr * 64 ≤ 8 * w := ⟨hobj, by unfold hdrLenOf; omega⟩
  unfold State.refCheck
  rw [if_neg (not_not.2 (refFields_eq_store hh hr)), if_neg (by omega), hhdr]
  exact if_pos hlen

/-- What the header of a reference comes to beside the scope of its container (R207). -/
def Header.refOutcome (x : Header) (r : DWord) (sigma : Nat) : RefResult :=
  match x with
  | .is isRef rh => if !isRef then .access r else if hdrScope rh < sigma then .escape (BitVec.ofNat 64 (sigma + 8 * hdrScope rh)) else .store
  | x => x.miss r

/-- The word of a reference is there: its container's header covers it and its page has a translation. -/
structure State.RefPlaced (s : State) (p : Party) (h r : DWord) (w : Nat) (o : Bool) (hdr : DWord) (pa : Nat) : Prop where
  container : placeOk h 64
  referent : placeOk r 64
  offset : 0 < w
  header : s.header p h.toNat = .is o hdr
  covered : o = true → 8 * w < 64 * fieldN hdr 40 24
  near : h.toNat + 8 * w < 2 ^ 57
  look : s.lookAt p (refWord h w).toNat true = .here pa

variable {pa : Nat} (hp : s.RefPlaced p h r w o hdr pa)
include hp

/-- Where the word is there, the reference's own header alone decides. -/
theorem State.RefPlaced.refCheck_eq : s.refCheck p h w r =
    if r = 0 then .store else (s.header p r.toNat).refOutcome r (if o then hdrScope hdr else 4) := by
  obtain ⟨hh, hr, hw, hhdr, hcov, hnear, hlook⟩ := hp
  have hlen : ¬ (o = true ∧ hdrLenOf hdr * 64 ≤ 8 * w) := fun ⟨ho, hle⟩ => by
    have := hcov ho
    unfold hdrLenOf at hle
    omega
  have hfar : ¬ (2 ^ 57 ≤ h.toNat + 8 * w ∨ Look.here pa = .bad) := fun hor => hor.elim (by omega) nofun
  unfold State.refCheck
  rw [if_neg (not_not.2 (refFields_eq_store hh hr)), if_neg (by omega), hhdr]
  dsimp only
  rw [if_neg hlen, hlook, if_neg hfar, if_neg (show ¬ Look.here pa = .miss by nofun)]
  rfl

theorem State.RefPlaced.refCheck_null (h0 : r = 0) : s.refCheck p h w r = .store := hp.refCheck_eq.trans (if_pos h0)

/-- A reference to what is no object is refused. -/
theorem State.RefPlaced.refCheck_noObject (b : DWord) (h0 : r ≠ 0) (hrh : s.header p r.toNat = .is false b) : s.refCheck p h w r = .access r := by
  rw [hp.refCheck_eq, if_neg h0, hrh]
  rfl

/-- A reference to an object escapes where the container outlives it. -/
theorem State.RefPlaced.refCheck_object (b : DWord) (h0 : r ≠ 0) (hrh : s.header p r.toNat = .is true b) :
    s.refCheck p h w r = if fieldN b 37 3 < (if o then fieldN hdr 37 3 else 4) then
      .escape (BitVec.ofNat 64 ((if o then fieldN hdr 37 3 else 4) + 8 * fieldN b 37 3)) else .store := by
  rw [hp.refCheck_eq, if_neg h0, hrh]
  rfl

end

/-- The checks of R207 in their order, and the store. -/
theorem refCheck_and_refStore (s : State) (p : Party) (h r : DWord) (w pa : Nat) (o : Bool) (hdr : DWord) :
    let word : DWord := h + BitVec.ofNat 64 (8 * w)
    (h.toNat % 64 ≠ 0 → s.refCheck p h w r = .align h) ∧
    (placeOk h 64 → r.toNat % 64 ≠ 0 → s.refCheck p h w r = .align r) ∧
    (h.toNat % 64 = 0 → r.toNat % 64 = 0 → 2 ^ 57 ≤ h.toNat → s.refCheck p h w r = .access h) ∧
    (placeOk h 64 → placeOk r 64 → w = 0 → s.refCheck p h w r = .access h) ∧
    (placeOk h 64 → placeOk r 64 → 0 < w → s.header p h.toNat = .is o hdr →
      let sigma := if o then fieldN hdr 37 3 else 4
      (o = true → 64 * fieldN hdr 40 24 ≤ 8 * w → s.refCheck p h w r = .access word) ∧
      ((o = true → 8 * w < 64 * fieldN hdr 40 24) → h.toNat + 8 * w < 2 ^ 57 → s.lookAt p word.toNat true = .here pa →
        (r = 0 → s.refCheck p h w r = .store) ∧
        (∀ b, r ≠ 0 → s.header p r.toNat = .is false b → s.refCheck p h w r = .access r) ∧
        (∀ b, r ≠ 0 → s.header p r.toNat = .is true b → sigma ≤ fieldN b 37 3 → s.refCheck p h w r = .store) ∧
        (∀ b, r ≠ 0 → s.header p r.toNat = .is true b → fieldN b 37 3 < sigma →
          s.refCheck p h w r = .escape (BitVec.ofNat 64 (sigma + 8 * fieldN b 37 3))) ∧
        (pa % 8 = 0 → (s.core (s.coreOf p)).cbuf = [] → (s.refStore p h w r).read64 pa = r ∧
          (s.inRegion (64 * (pa / 64)) = true → (mdT ((s.refStore p h w r).mdOf (pa / 64))).getLsbD (pa % 64 / 8) = true)))) := by
  have hnz : r.toNat % 64 ≠ 0 → r ≠ 0 := fun h0 hr => h0 (by rw [hr]; rfl)
  refine ⟨fun hh => ?_, fun hh hr => ?_, fun hh hr hfar => ?_, fun hh hr hw => hw ▸ State.refCheck_zero hh hr,
    fun hh hr hw hhdr => ⟨fun ho hfar => State.refCheck_beyond hh hr hw hhdr ho hfar, fun hcov hnear hlook => ?_⟩⟩
  · have hfields : refFields h r = .align h := if_pos hh
    rw [State.refCheck_fields (by rw [hfields]; nofun), hfields]
  · have hfields : refFields h r = .align r := (if_neg (not_not.2 hh.1)).trans (if_pos ⟨hnz hr, hr⟩)
    rw [State.refCheck_fields (by rw [hfields]; nofun), hfields]
  · have hfields : refFields h r = .access h := by
      unfold refFields
      rw [if_neg (not_not.2 hh), if_neg (fun hand => hand.2 hr), if_pos fun hzero => Nat.not_lt.2 hfar (extractLsb'_high_eq_zero.1 hzero)]
    rw [State.refCheck_fields (by rw [hfields]; nofun), hfields]
  · have hp : s.RefPlaced p h r w o hdr pa := ⟨hh, hr, hw, hhdr, hcov, hnear, hlook⟩
    exact ⟨hp.refCheck_null, hp.refCheck_noObject, fun b h0 hrh hle => (hp.refCheck_object b h0 hrh).trans (if_neg (Nat.not_lt.2 hle)),
      fun b h0 hrh hlt => (hp.refCheck_object b h0 hrh).trans (if_pos hlt), State.refStore_stored hlook⟩

/-! ### A lane STREF (R347) -/

/-- A lane of an STREF stores its reference where its checks pass. -/
def State.refLane (s : State) (p : Party) (e : DWord × Nat × DWord) : State × RefResult :=
  let res := s.refCheck p e.1 e.2.1 e.2.2
  (if res = .store then s.refStore p e.1 e.2.1 e.2.2 else s, res)

/-- Where every lane's checks pass, its stores are those of the fold that only remembers so. -/
theorem doRefs_fold {q : MemReq} {f : Nat → DWord × Nat × DWord} (l : List Nat) (hof : ∀ i ∈ l, q.refOf i = f i) (s : State) (b : Bool)
    (res : List (Nat × RefResult)) :
    let done := l.foldl (fun (acc : State × List (Nat × RefResult)) i =>
      ((acc.1.refLane q.party (q.refOf i)).1, acc.2 ++ [(i, (acc.1.refLane q.party (q.refOf i)).2)])) (s, res)
    let all := l.foldl (fun (acc : State × Bool) i => ((acc.1.refLane q.party (f i)).1, acc.2 && (acc.1.refLane q.party (f i)).2 == .store)) (s, b)
    done.1 = all.1 ∧ (all.2 = true → (b = true ∧ ((∀ e ∈ res, e.2 = .store) → ∀ e ∈ done.2, e.2 = .store))) := by
  induction l generalizing s b res with
  | nil => exact ⟨rfl, fun hb => ⟨hb, id⟩⟩
  | cons i l ih =>
    obtain ⟨hstate, hall⟩ := ih (fun j hj => hof j (List.mem_cons_of_mem i hj)) (s.refLane q.party (f i)).1
      (b && (s.refLane q.party (f i)).2 == .store) (res ++ [(i, (s.refLane q.party (f i)).2)])
    simp only [List.foldl_cons, hof i List.mem_cons_self]
    refine ⟨hstate, fun htrue => ?_⟩
    obtain ⟨hb, hres⟩ := hall htrue
    obtain ⟨hb, hstore⟩ := Bool.and_eq_true_iff.1 hb
    refine ⟨hb, fun hprev => hres fun e he => ?_⟩
    rcases List.mem_append.1 he with he | he
    · exact hprev e he
    · rw [List.mem_singleton.1 he]
      exact eq_of_beq hstore

/-- Where every lane stores, no lane is at fault. -/
theorem refFault_eq_none {l : List (Nat × RefResult)} (h : ∀ e ∈ l, e.2 = .store) : refFault l = none := by
  unfold refFault
  extract_lets pick low
  have hpick (cause : Nat) (f : RefResult → Option DWord) (hf : f .store = none) : pick cause f = none := by
    have hnone : (l.findSome? fun e => f e.2) = none := List.findSome?_eq_none_iff.2 fun e he => by rw [h e he, hf]
    unfold pick
    rw [hnone]
    rfl
  rw [hpick, hpick, hpick, hpick, hpick] <;> rfl

section

variable {w : LaneWord} {s : State} {x : LaneRun} {q : MemReq}

/-- Lanes of references stored while their checks pass, and whether all did. -/
def State.refAll (s : State) (p : Party) (f : Nat → DWord × Nat × DWord) (l : List Nat) : State × Bool :=
  l.foldl (fun acc i => ((acc.1.refLane p (f i)).1, acc.2 && (acc.1.refLane p (f i)).2 == .store)) (s, true)

/-- An STREF whose lanes all pass their checks goes on. -/
theorem State.issueRef_go {f : Nat → DWord × Nat × DWord} {rel : Option Nat} (origin : Origin) (hof : ∀ i ∈ lanesOf q.lanes, q.refOf i = f i)
    (hacq : s.acqPending q.party q.lane = false) (hheld : s.pageHeld q = false) (hrel : ∀ sc, rel = some sc → s.released q.party sc = true)
    (hmiss : s.missLanes q = 0) (hask : s.askHeader q = none) (hall : (s.refAll q.party f (lanesOf q.lanes)).2 = true) :
    s.issueRef q rel origin = .go ((s.refAll q.party f (lanesOf q.lanes)).1.dropHeaders q) := by
  obtain ⟨hstate, hres⟩ := doRefs_fold (lanesOf q.lanes) hof s true []
  have hdo : s.doRefs q = ((lanesOf q.lanes).foldl (fun (acc : State × List (Nat × RefResult)) i =>
      ((acc.1.refLane q.party (q.refOf i)).1, acc.2 ++ [(i, (acc.1.refLane q.party (q.refOf i)).2)])) (s, [])) := rfl
  have hfault := refFault_eq_none ((hres hall).2 nofun)
  rw [← hdo] at hfault hstate
  unfold State.issueRef
  rw [if_neg ?hwait, hask]
  case hwait =>
    rw [hheld, hacq]
    cases hsc : rel with
    | none => exact Bool.false_ne_true
    | some sc => simp [hrel sc hsc]
  dsimp only
  rw [hfault]
  dsimp only
  rw [if_pos hmiss, hstate]
  rfl

/-- What a lane STREF stores: the lane's container, word offset and reference. -/
theorem stref_refOf (hlane : q.lane = true) {h r : Nat → DWord} {reg : Nat → Word} {imm : BitVec 12} (haddr : q.addr = Vector.ofFn fun i => h i.val)
    (hx : q.x = imm.setWidth 64)
    (hdata : q.data = [Vector.ofFn fun i => ⟨reg i.val, 0⟩, Vector.ofFn fun i => ⟨(r i.val).setWidth 32, 0⟩,
      Vector.ofFn fun i => ⟨(r i.val).extractLsb' 32 32, 0⟩]) {i : Nat} (hi : i < 32) : q.refOf i = (h i, (reg i).toNat + imm.toNat, r i) := by
  have hword : (r i).extractLsb' 32 32 ++ (r i).setWidth 32 = r i := by
    refine BitVec.eq_of_getLsbD_eq fun j hj => ?_
    rw [BitVec.getLsbD_append]
    split
    · simp [*]
    · rw [BitVec.getLsbD_extractLsb', decide_eq_true (by omega), Bool.true_and]
      congr 1
      omega
  unfold MemReq.refOf
  rw [if_pos hlane, haddr, hx, hdata]
  simp [hi, hword]
  omega

end

/-! ### The attempts of a TLDA (R205, R348) -/

/-- The state once an acquire at a scope has read the sectors of some lanes. -/
def State.tileRead (s : State) (r : MemReq) (scope : Nat) (l : List Nat) : State :=
  l.foldl (fun u i => u.haulSector r.party (u.coreOf r.party) (r.paOf i)) (s.acquireAt r.party scope)

/-- A lane's sector lies at this device and is not poisoned. -/
def State.tileNear (s : State) (r : MemReq) (i : Nat) : Prop := (s.placed r).peerOf i = none ∧ (s.seeSector (s.placed r) i).2 = none

/-- The version that an attempt reads. -/
def State.tileVersion (s : State) (t : TileTry) : DWord :=
  (s.seeSector (s.placed t.qv) (lowestLane t.q.lanes)).1.1.extractLsb' (8 * (t.qv.va (lowestLane t.q.lanes) % 64)) 64

/-- The acquire scope of a loop. -/
def TileTry.scope (t : TileTry) : Nat := (t.q.acq.getD 0).toNat

theorem lowestLane_lt (m : Mask) : lowestLane m < 32 := by
  unfold lowestLane
  cases hl : (lanesOf m).head? with
  | none => decide
  | some n => exact BitVec.lt_of_getLsbD (mem_lanesOf.1 (List.mem_of_mem_head? hl))

theorem State.placed_lanes (s : State) (q : MemReq) : (s.placed q).lanes = q.lanes := by
  unfold State.placed
  rfl

/-- Only the words of the lanes named are put. -/
theorem putWords_congr {old : List (Vector LaneVal 32)} {lanes : Mask} {f f' : Nat → List LaneVal} (h : ∀ i, lanes.getLsbD i = true → f i = f' i) :
    putWords old lanes f = putWords old lanes f' := by
  refine List.map_congr_left fun e _ => congrArg Vector.ofFn (funext fun i => ?_)
  split
  · next hi => rw [h i.val hi]
  · rfl

theorem lanesOf_one_shiftLeft {n : Nat} (hn : n < 32) : lanesOf (1 <<< n) = [n] := by
  have hall : ∀ k : Fin 32, lanesOf (1 <<< k.val) = [k.val] := by decide
  exact hall ⟨n, hn⟩

section

variable {s : State} {t : TileTry} {r : MemReq}

theorem State.tileSector_here {i : Nat} (h : r.peerOf i = none) : s.tileSector r i t = some (s.seeSector r i) := by
  unfold State.tileSector
  rw [h]

/-- Nothing is asked of a peer where no sector lies at one. -/
theorem State.askTile_here {lanes : Mask} (h : ∀ i ∈ lanesOf lanes, r.peerOf i = none) : s.askTile r lanes t = none :=
  List.findSome?_eq_none_iff.2 fun i hi => by rw [h i hi]

theorem State.tileRead_here {l : List Nat} (scope : Nat) (h : ∀ i ∈ l, r.peerOf i = none) :
    l.foldl (fun s i => if (r.peerOf i).isSome then s else s.haulSector r.party (s.coreOf r.party) (r.paOf i)) (s.acquireAt r.party scope) =
      s.tileRead r scope l :=
  List.foldl_ext _ _ _ fun u i hi => by rw [h i hi]; rfl

theorem State.findSome_tile_poison {l : List Nat} (h : ∀ i ∈ l, s.tileNear r i) :
    l.findSome? (fun i => ((s.tileSector (s.placed r) i t).getD ((0, Vector.replicate 16 0), none)).2) = none :=
  List.findSome?_eq_none_iff.2 fun i hi => by rw [State.tileSector_here (h i hi).1]; exact (h i hi).2

variable (hpoison : t.poison = none)
include hpoison

/-- The first phase: the version, an odd one being a failed attempt. -/
theorem State.tilePhase_version (h1 : t.v1 = none) (hnear : s.tileNear t.qv (lowestLane t.q.lanes)) :
    s.tilePhase t =
      if (s.tileVersion t).getLsbD 0 then ({ t with got := [] } : TileTry).failed (s.tileRead (s.placed t.qv) t.scope [lowestLane t.q.lanes])
      else .go (s.tileRead (s.placed t.qv) t.scope [lowestLane t.q.lanes]) { t with got := [], v1 := some (s.tileVersion t) } := by
  obtain ⟨q, qv, fails, v1, words, last, poison, got⟩ := t
  obtain rfl : v1 = none := h1
  obtain rfl : poison = none := hpoison
  have hone := lanesOf_one_shiftLeft (lowestLane_lt q.lanes)
  have hpeer : ∀ i ∈ [lowestLane q.lanes], (s.placed qv).peerOf i = none := fun i hi => List.mem_singleton.1 hi ▸ hnear.1
  unfold State.tilePhase
  dsimp only
  rw [if_pos rfl, if_pos rfl, State.askTile_here (by rw [hone]; exact hpeer)]
  dsimp only
  rw [if_pos rfl, State.findSome_tile_poison fun i hi => List.mem_singleton.1 hi ▸ hnear, State.tileRead_here _ hpeer]
  simp only [State.tileSector_here hnear.1]
  rfl

/-- The second phase: the tile. -/
theorem State.tilePhase_tile {v : DWord} (h1 : t.v1 = some v) (hw : t.words = none) (hnear : ∀ i ∈ lanesOf t.q.lanes, s.tileNear t.q i) :
    s.tilePhase t = .go (s.tileRead (s.placed t.q) t.scope (lanesOf t.q.lanes)) { t with
      got := []
      words := some (putWords (List.replicate (widthRegs t.q.width) (Vector.replicate 32 LaneVal.zero)) t.q.lanes fun i =>
        loadWords t.q.width (s.seeSector (s.placed t.q) i).1 (t.q.va i % 64)) } := by
  obtain ⟨q, qv, fails, v1, words, last, poison, got⟩ := t
  obtain rfl : v1 = some v := h1
  obtain rfl : words = none := hw
  obtain rfl : poison = none := hpoison
  have hpeer : ∀ i ∈ lanesOf q.lanes, (s.placed q).peerOf i = none := fun i hi => (hnear i hi).1
  unfold State.tilePhase
  dsimp only
  rw [if_neg Bool.false_ne_true, if_neg Bool.false_ne_true, s.placed_lanes, State.askTile_here hpeer]
  dsimp only
  rw [if_neg Bool.false_ne_true, State.findSome_tile_poison (r := q) hnear, State.tileRead_here (r := s.placed q) _ hpeer, s.placed_width,
    putWords_congr fun i hi => by rw [State.tileSector_here (hpeer i (mem_lanesOf.2 hi)), s.placed_va]]
  rfl

/-- The third phase: the version again. -/
theorem State.tilePhase_again {v : DWord} {words : List (Vector LaneVal 32)} (h1 : t.v1 = some v) (hw : t.words = some words)
    (hnear : s.tileNear t.qv (lowestLane t.q.lanes)) (hver : s.tileVersion t = v) :
    s.tilePhase t = .over (s.tileRead (s.placed t.qv) t.scope [lowestLane t.q.lanes]) { t with got := [] } false := by
  obtain ⟨q, qv, fails, v1, words', last, poison, got⟩ := t
  obtain rfl : v1 = some v := h1
  obtain rfl : words' = some words := hw
  obtain rfl : poison = none := hpoison
  have hone := lanesOf_one_shiftLeft (lowestLane_lt q.lanes)
  have hpeer : ∀ i ∈ [lowestLane q.lanes], (s.placed qv).peerOf i = none := fun i hi => List.mem_singleton.1 hi ▸ hnear.1
  unfold State.tilePhase
  dsimp only
  rw [if_pos rfl, if_pos rfl, State.askTile_here (by rw [hone]; exact hpeer)]
  dsimp only
  rw [if_pos rfl, State.findSome_tile_poison fun i hi => List.mem_singleton.1 hi ▸ hnear, State.tileRead_here _ hpeer]
  simp only [State.tileSector_here hnear.1]
  exact if_pos hver

end

theorem State.tileRead_grp (s : State) (r : MemReq) (scope : Nat) (l : List Nat) :
    ∃ n, (s.tileRead r scope l).grp r.party = { s.grp r.party with invalTill := n } := by
  obtain ⟨-, hgrp, -, -⟩ := s.acquireAt_keeps r.party scope
  have hstill : (s.tileRead r scope l).still = (s.acquireAt r.party scope).still :=
    foldl_keeps State.still _ (fun u i => u.haulSector_still ..) l _
  rwa [State.grp_of_actors (State.actors_of_still hstill)]

/-- The loop of a TLDA replaced in its group by others. -/
def State.putTile (s : State) (t : TileTry) (u : List TileTry) : State :=
  s.updGrp t.q.party fun g => { g with tiles := g.tiles.flatMap fun x => if x.q.id = t.q.id then u else [x] }

theorem State.putTile_tiles (s : State) (t : TileTry) (u : List TileTry) :
    ((s.putTile t u).grp t.q.party).tiles = (s.grp t.q.party).tiles.flatMap fun x => if x.q.id = t.q.id then u else [x] := by
  rw [State.putTile, State.updGrp_grp]

theorem State.putTile_outst (s : State) (t : TileTry) (u : List TileTry) : ((s.putTile t u).grp t.q.party).outst = (s.grp t.q.party).outst := by
  rw [State.putTile, State.updGrp_grp]

theorem State.tileTurn_wait {s s' : State} {t u : TileTry} (h : s.tileLoop t 3 = .wait s' u) : s.tileTurn t = s'.putTile t [u] := by
  unfold State.tileTurn
  rw [h]
  rfl

/-- What the end of a loop that has read its tile leaves in its result: the words, for its lanes, and a clear failure predicate. -/
def State.tileDone (s : State) (t u : TileTry) (words : List (Vector LaneVal 32)) (o : Outst) : Outst :=
  { o with words := words, lanes := t.q.lanes, poison := u.poison, pred := o.pred.map fun e => (e.1, false), free := o.free ||| s.saveLanes t.q t.q.lanes }

theorem State.tileTurn_over {s s' : State} {t u : TileTry} {words : List (Vector LaneVal 32)} (h : s.tileLoop t 3 = .over s' u false)
    (hw : u.words = some words) :
    s.tileTurn t = ((s'.putTile t []).updGrp t.q.party fun g => g.updOutst t.q.id (s'.tileDone t u words)).bumpBy 512 := by
  unfold State.tileTurn
  rw [h]
  dsimp only
  rw [if_neg Bool.false_ne_true, hw]
  rfl

section

variable {s : State} {t : TileTry} (hparty : t.qv.party = t.q.party) (hpoison : t.poison = none) (h1 : t.v1 = none)
  (hnear : s.tileNear t.qv (lowestLane t.q.lanes))
include hparty hpoison h1 hnear

/-- An attempt that reads an odd version has failed, and the loop goes on. -/
theorem State.tileTurn_odd (hmem : t ∈ (s.grp t.q.party).tiles) (hodd : (s.tileVersion t).getLsbD 0 = true) (hfails : t.fails < 63) :
    ∃ y ∈ ((s.tileTurn t).grp t.q.party).tiles, y.q.id = t.q.id ∧ y.fails = t.fails + 1 := by
  obtain ⟨n, hgrp⟩ := s.tileRead_grp (s.placed t.qv) t.scope [lowestLane t.q.lanes]
  rw [s.placed_party, hparty] at hgrp
  have hphase := State.tilePhase_version hpoison h1 hnear
  rw [if_pos hodd, TileTry.failed, if_neg (show ¬ 64 ≤ t.fails + 1 by omega)] at hphase
  refine ⟨{ t with fails := t.fails + 1, v1 := none, words := none, last := t.words <|> t.last, got := [] }, ?_, rfl, rfl⟩
  rw [State.tileTurn_wait (by rw [State.tileLoop, hphase]), State.putTile_tiles, hgrp]
  exact List.mem_flatMap.2 ⟨t, hmem, by rw [if_pos rfl]; exact List.mem_singleton.2 rfl⟩

/-- An attempt whose versions are even and agree ends the loop: the tile is there and the failure predicate clear. -/
theorem State.tileTurn_even {o : Outst} (hw : t.words = none) (ho : o ∈ (s.grp t.q.party).outst) (hid : o.id = t.q.id)
    (heven : (s.tileVersion t).getLsbD 0 = false) {s1 s2 : State} (hs1 : s.tileRead (s.placed t.qv) t.scope [lowestLane t.q.lanes] = s1)
    (hs2 : s1.tileRead (s1.placed t.q) t.scope (lanesOf t.q.lanes) = s2) (htile : ∀ i ∈ lanesOf t.q.lanes, s1.tileNear t.q i)
    (hagain : s2.tileNear t.qv (lowestLane t.q.lanes)) (hver : s2.tileVersion t = s.tileVersion t) :
    (∀ y ∈ ((s.tileTurn t).grp t.q.party).tiles, y.q.id ≠ t.q.id) ∧
      ∃ o' ∈ ((s.tileTurn t).grp t.q.party).outst, o'.id = o.id ∧ o'.dest = o.dest ∧ o'.lanes = t.q.lanes ∧ o'.pred = o.pred.map (fun e => (e.1, false)) ∧
        o'.words = putWords (List.replicate (widthRegs t.q.width) (Vector.replicate 32 LaneVal.zero)) t.q.lanes
          fun i => loadWords t.q.width (s1.seeSector (s1.placed t.q) i).1 (t.q.va i % 64) := by
  obtain ⟨_, hgrp1⟩ := s.tileRead_grp (s.placed t.qv) t.scope [lowestLane t.q.lanes]
  obtain ⟨_, hgrp2⟩ := s1.tileRead_grp (s1.placed t.q) t.scope (lanesOf t.q.lanes)
  obtain ⟨_, hgrp3⟩ := s2.tileRead_grp (s2.placed t.qv) t.scope [lowestLane t.q.lanes]
  rw [s.placed_party, hparty, hs1] at hgrp1
  rw [s1.placed_party, hs2] at hgrp2
  rw [s2.placed_party, hparty] at hgrp3
  have hphase1 := State.tilePhase_version hpoison h1 hnear
  rw [if_neg (by rw [heven]; exact Bool.false_ne_true), hs1] at hphase1
  set t1 : TileTry := { t with got := [], v1 := some (s.tileVersion t) }
  have hphase2 := State.tilePhase_tile (s := s1) (t := t1) hpoison rfl hw htile
  set words := putWords (List.replicate (widthRegs t.q.width) (Vector.replicate 32 LaneVal.zero)) t.q.lanes fun i =>
    loadWords t.q.width (s1.seeSector (s1.placed t.q) i).1 (t.q.va i % 64)
  set t2 : TileTry := { t1 with got := [], words := some words }
  have hs2' : s1.tileRead (s1.placed t1.q) t1.scope (lanesOf t1.q.lanes) = s2 := hs2
  rw [hs2'] at hphase2
  have hphase3 := State.tilePhase_again (s := s2) (t := t2) hpoison rfl rfl hagain hver
  set s3 := s2.tileRead (s2.placed t.qv) t.scope [lowestLane t.q.lanes]
  have hloop : s.tileLoop t 3 = .over s3 { t2 with got := [] } false := by
    rw [State.tileLoop, hphase1]
    dsimp only
    rw [State.tileLoop, hphase2]
    dsimp only
    rw [State.tileLoop, hphase3]
    rfl
  have hturn := State.tileTurn_over (words := words) hloop rfl
  have hafter : (s.tileTurn t).grp t.q.party = ((s3.putTile t []).grp t.q.party).updOutst t.q.id (s3.tileDone t { t2 with got := [] } words) := by
    rw [hturn]
    exact (s3.putTile t []).updGrp_grp ..
  rw [hafter]
  refine ⟨fun y hy => ?_, s3.tileDone t { t2 with got := [] } words o, ?_, rfl, rfl, rfl, rfl, rfl⟩
  · have htiles : y ∈ ((s3.putTile t []).grp t.q.party).tiles := hy
    rw [State.putTile_tiles] at htiles
    obtain ⟨x, -, hx⟩ := List.mem_flatMap.1 htiles
    split at hx
    · exact absurd hx List.not_mem_nil
    · next hne => exact List.mem_singleton.1 hx ▸ hne
  · have hout : o ∈ ((s3.putTile t []).grp t.q.party).outst := by
      rw [State.putTile_outst, hgrp3, hgrp2, hgrp1]
      exact ho
    exact List.mem_map.2 ⟨o, hout, if_pos hid⟩

end

/-- What the lanes of an STREF come to for the word. -/
def LaneRun.refOut (x : LaneRun) (r : RefIssue) : Out :=
  match r with
  | .wait t => waitOut t
  | .trap t c i m stored => laneTrapOut t x.b x.pos x.q c i m (x.allRedo &&& ~~~stored) x.pairs []
  | .go t => x.done t id

/-- Settles O32: the lanes of an STREF by `State.issueRef_go`, the checks and the store by `refCheck_and_refStore`, an attempt of a TLDA by
its phases. -/
theorem laneReferencesAndTiles : Obligations.LaneReferencesAndTiles := by
  unfold Obligations.LaneReferencesAndTiles
  refine ⟨fun w s x hready => ?stref, refCheck_and_refStore,
    fun w => ⟨fun s x hready hperf => (laneGo_ready _ hready).trans (if_pos hperf), fun s x hready hperf => ?issue, fun s t o => ?turn⟩⟩
  case stref =>
    intro h r reg off word q all hacq hheld hrel hmiss hask hall
    obtain ⟨-, rfl, -⟩ := laneReady_word hready rfl
    have hof : ∀ i ∈ lanesOf q.lanes, q.refOf i = (h i, off i, r i) := fun i hi =>
      stref_refOf (q := q) (h := h) (r := r) (reg := reg) (imm := x.w.imm12) rfl rfl rfl rfl (BitVec.lt_of_getLsbD (mem_lanesOf.1 hi))
    have hfold : s.refAll s.who (fun i => (h i, off i, r i)) (lanesOf q.lanes) = all := rfl
    have hgo : s.issueRef q (laneRel x.w) x.origin = .go (all.1.dropHeaders q) :=
      (State.issueRef_go x.origin hof hacq hheld hrel hmiss hask ((congrArg Prod.snd hfold).trans hall)).trans
        (congrArg (fun a : State × Bool => RefIssue.go (a.1.dropHeaders q)) hfold)
    exact (laneGo_ready _ hready).trans (congrArg x.refOut hgo)
  case issue =>
    intro v q qv log o t hqv hq hheld hheldv hacq hmiss
    obtain ⟨-, rfl, -⟩ := laneReady_word hready rfl
    have hfault : firstFault (s.addrFault qv) (s.addrFault q) = none := by rw [hqv, hq]; rfl
    have hgo : ¬ (s.pageHeld q || s.pageHeld qv || s.acqPending s.who true || (s.missLanes log != 0 && s.logFull (s.coreOf s.who))) = true := by
      rw [hheld, hheldv, hacq]
      rcases hmiss with hmiss | hroom
      · simp [hmiss]
      · simp [State.logFull, hroom]
    refine (laneGo_ready _ hready).trans ((if_neg hperf).trans ?_)
    show (match firstFault (s.addrFault qv) (s.addrFault q) with
      | some (c, i, m) => x.trap s c i m
      | none => if s.pageHeld q || s.pageHeld qv || s.acqPending s.who true || (s.missLanes log != 0 && s.logFull (s.coreOf s.who)) then waitOut s else _) = _
    rw [hfault]
    exact if_neg hgo
  case turn =>
    intro p n scope after near ver s1 s2 ht ho hid hparty _ h1 hw hpoison hnear
    refine ⟨State.tileTurn_odd hparty hpoison h1 hnear ht, fun heven htile hagain hver => ?_⟩
    exact State.tileTurn_even hparty hpoison h1 hnear hw ho hid heven rfl rfl htile hagain hver

end Sys2Proof.Machine
end

section
/-! Waits of a stream, rendezvous, code maintenance and the end of a group (13 R306, R307, R311, R312; 16 R379 to R382, R394; 05 R130, R134, R141;
03 R58). -/

namespace Sys2Proof.Machine

/-! ### LDRAIN, SLEEPU, SUSP (R307, R311, R312) -/

/-- The continuation of a SUSP, counted in words from it (R311). -/
theorem execSusp_pcAt (pc : BitVec 57) (off : BitVec 11) : execSusp.pcAt pc off = BitVec.ofInt 57 (pc.toNat + 4 * off.toInt) := by
  refine BitVec.eq_of_toInt_eq ?_
  rw [execSusp.pcAt, BitVec.toInt_add, BitVec.toInt_mul, BitVec.toInt_signExtend_of_le (by decide), BitVec.toInt_ofInt, show (4 : BitVec 57).toInt = 4 by decide,
    BitVec.toInt_eq_toNat_bmod]
  simp

/-- A party that waits without a watch entry is demoted, which watches nothing. -/
theorem polling_watches {t u : State} (h : polling (.next t) = .next u) : u.watches = t.watches := by
  have hsame {f : Group → Group} (hu : (.next (t.updCur f) : Out) = .next u) : u.watches = t.watches := by
    obtain rfl := Host.Outcome.next.inj hu
    exact State.setGrp_watches ..
  unfold polling at h
  dsimp only at h
  split at h
  · exact hsame h
  · exact hsame h
  · obtain rfl := Host.Outcome.next.inj h
    rfl

section

variable {s : State} {a b : SNum}

/-- A SLEEPU whose cycle has come, with no copy within its promise, goes on. -/
theorem wakeSleep_next (h : s.covered s.who (s.cyc s.who) = []) :
    wakeSleep s = .next (((s.updCur fun g => { g with wait := .none, wakeAt := some (s.cyc s.who) }).advance).updCur fun g => { g with wakeAt := none }) := by
  refine wakeChecks_none ?_
  rw [State.advance, State.covered_updCur, State.covered_updCur, State.updCur_who, State.updCur_who]
  exact h

theorem execSleepu_waits (hready : scalarReady (.sleepu a) [a] [] s = true) (hbefore : (s.cyc s.who).toNat < (s.rs a).toNat) :
    exec (.sleepu a) s = .next (s.updCur fun g => { g with wait := .sleep (s.rs a) }) := by
  have hule : (s.rs a).ule (s.cyc s.who) = false := decide_eq_false (Nat.not_le.2 hbefore)
  show execSleepu a s = _
  rw [execSleepu, scalarOp_ready _ hready, if_neg]
  rw [hule]
  exact Bool.false_ne_true

theorem execSleepu_wakes (hready : scalarReady (.sleepu a) [a] [] s = true) (hdue : (s.rs a).toNat ≤ (s.cyc s.who).toNat)
    (hcopies : s.covered s.who (s.cyc s.who) = []) : exec (.sleepu a) s = wakeSleep s := by
  have hule : (s.rs a).ule (s.cyc s.who) = true := decide_eq_true hdue
  have hheld : s.wakeHeld s.who = false := by simp [State.wakeHeld, hcopies]
  show execSleepu a s = _
  rw [execSleepu, scalarOp_ready _ hready, if_pos]
  rw [hule, hheld]
  rfl

variable {off : BitVec 11} {pa : Nat}

/-- A SUSP whose counter lies at an address that fits and is a multiple of 8 looks at it. -/
theorem execSusp_looks (hready : scalarReady (.susp a b off) [a, b] [] s = true) (hplace : placeOk (s.rs a) 8) :
    exec (.susp a b off) s = polling (waitCounter s true (s.rs a) (s.rs b) (.susp (s.rs a) (s.rs b) (execSusp.pcAt s.cur.pc off))
      (suspReached (execSusp.pcAt s.cur.pc off))) := by
  obtain ⟨h8, hlt⟩ := hplace
  have hfault : wordFault (s.rs a) 8 = none := by
    unfold wordFault
    rw [if_neg (not_not.2 h8), if_neg (not_not.2 (extractLsb'_high_eq_zero.2 hlt))]
  show execSusp a b off s = _
  rw [execSusp, scalarOp_ready _ hready, hfault]

variable (hready : scalarReady (.susp a b off) [a, b] [] s = true) (hplace : placeOk (s.rs a) 8) (hthere : s.counterThere s.who (s.rs a) pa)
include hready hplace hthere

theorem execSusp_reached (hreached : (s.rs b).toNat ≤ (s.readCounter s.who (s.rs a).toNat pa).2.toNat) :
    ∃ t, exec (.susp a b off) s = .next t ∧ t.cur.pc = execSusp.pcAt s.cur.pc off ∧ t.cur.wait = .none ∧
      t.watches = (s.readCounter s.who (s.rs a).toNat pa).1.watches := by
  have hult : (s.readCounter s.who (s.rs a).toNat pa).2.ult (s.rs b) = false := decide_eq_false (Nat.not_lt.2 hreached)
  obtain ⟨u, hu, -, huwait, hupc⟩ := polling_keeps ((s.acquireAt s.who 3).reached (execSusp.pcAt s.cur.pc off))
  have hcur := (s.acquireAt s.who 3).reached_cur (execSusp.pcAt s.cur.pc off)
  refine ⟨u, ?_, hupc.trans (by rw [hcur]; rfl), huwait.trans (by rw [hcur]; rfl), (polling_watches hu).trans ?_⟩
  · rw [execSusp_looks hready hplace, waitCounter_there true hthere, hult]
    exact hu
  · exact (State.setGrp_watches ..).trans (State.setGrp_watches ..)

theorem execSusp_waits (hbelow : (s.readCounter s.who (s.rs a).toNat pa).2.toNat < (s.rs b).toNat) :
    let r := (s.readCounter s.who (s.rs a).toNat pa).1
    ∃ t, exec (.susp a b off) s = .next t ∧ t.cur.pc = s.cur.pc ∧
      t.cur.wait = .susp (s.rs a) (s.rs b) (execSusp.pcAt s.cur.pc off) (r.watchRoom (s.homeOf pa)) ∧
      t.watches = r.watches ++ if r.watchRoom (s.homeOf pa) then [{ home := s.homeOf pa, party := s.who, pa := pa, target := s.rs b, hit := false }] else [] := by
  intro r
  have hult : (s.readCounter s.who (s.rs a).toNat pa).2.ult (s.rs b) = true := decide_eq_true hbelow
  obtain ⟨hwho, ⟨n, hgrp⟩, hhome, -⟩ := s.acquireAt_keeps s.who 3
  have hexec := (execSusp_looks hready hplace).trans (congrArg polling (waitCounter_there true hthere))
  rw [hult, if_neg (by decide), Bool.true_and, hhome] at hexec
  change r.who = s.who at hwho
  change r.grp s.who = _ at hgrp
  have hpc : r.cur.pc = s.cur.pc := by rw [State.cur, hwho, hgrp]; rfl
  change _ = polling (if r.watchRoom (s.homeOf pa) = true then .next (r.watching pa (s.rs b) (.susp (s.rs a) (s.rs b) (execSusp.pcAt s.cur.pc off) true))
    else .next (r.pollingOn (.susp (s.rs a) (s.rs b) (execSusp.pcAt s.cur.pc off) false) (s.cyc s.who + 256))) at hexec
  obtain ⟨u, hu, -, hupc, huwait⟩ := r.waitsOn (r.watchRoom (s.homeOf pa)) (.susp (s.rs a) (s.rs b) (execSusp.pcAt s.cur.pc off)) pa (s.rs b) (s.cyc s.who + 256)
  obtain ⟨v, hv, -, hvwait, hvpc⟩ := polling_keeps u
  rw [hu, hv] at hexec
  refine ⟨v, hexec, hvpc.trans (hupc.trans hpc), hvwait.trans huwait, (polling_watches hv).trans ?_⟩
  cases hroom : r.watchRoom (s.homeOf pa) with
  | true =>
    rw [hroom, if_pos rfl] at hu
    rw [← Host.Outcome.next.inj hu, if_pos rfl, ← hwho, ← hhome]
    exact State.setGrp_watches ..
  | false =>
    rw [hroom, if_neg Bool.false_ne_true] at hu
    rw [← Host.Outcome.next.inj hu, if_neg Bool.false_ne_true, List.append_nil]
    exact State.setGrp_watches ..

end

/-- Settles O15: LDRAIN at once, SLEEPU by `wakeSleep_next`, SUSP by what it reads at its counter. -/
theorem streamWaits : Obligations.StreamWaits := by
  unfold Obligations.StreamWaits
  refine ⟨fun a => ⟨fun s hready hdrained => ?drained, fun s hready hdrained => ?waits, fun s hready hbefore => execSleepu_waits hready hbefore,
    fun s hready hdue hcopies => ?sleepu⟩, fun a b off pa => ?susp⟩
  case drained => exact (gated_ready (reads := []) (writes := []) _ hready).trans (if_pos hdrained)
  case waits => exact (gated_ready (reads := []) (writes := []) _ hready).trans (if_neg (by rw [hdrained]; exact Bool.false_ne_true))
  case sleepu =>
    refine ⟨_, (execSleepu_wakes hready hdue hcopies).trans (wakeSleep_next hcopies), ?_⟩
    simp [State.advance]
  case susp =>
    intro ea there read value cont s hready ⟨h8, hlt, hlook, hpoison, hacq, hheld⟩
    have hthere : s.counterThere s.who (s.rs a) pa := ⟨hlook, hpoison, hacq, hheld⟩
    rw [show cont s = execSusp.pcAt s.cur.pc off from (execSusp_pcAt ..).symm]
    refine ⟨execSusp_reached hready ⟨h8, hlt⟩ hthere, fun hbelow hroom => ?_, fun hbelow hroom => ?_⟩
    all_goals
      obtain ⟨t, ht, hpc, hwait, hwatches⟩ := execSusp_waits hready ⟨h8, hlt⟩ hthere hbelow
      rw [show (s.readCounter s.who (s.rs a).toNat pa).1.watchRoom (s.homeOf pa) = _ from hroom] at hwait hwatches
    · exact ⟨t, ht, hwait, hpc, hwatches⟩
    · exact ⟨t, ht, hwait, hpc, hwatches.trans (List.append_nil _)⟩

/-! ### Rendezvous (R130, R379 to R382) -/

section

variable (s : State) (f : Group → Group)

/-- The same change made at parties that are all different reaches each of them once, and no other party. -/
theorem State.foldl_updGrp_grp (ps : List Party) (hnodup : ps.Nodup) (p : Party) :
    (ps.foldl (fun t q => t.updGrp q f) s).grp p = if p ∈ ps then f (s.grp p) else s.grp p := by
  induction ps generalizing s with
  | nil => rfl
  | cons q ps ih =>
    obtain ⟨hnot, hnodup⟩ := List.nodup_cons.1 hnodup
    rw [List.foldl_cons, ih _ hnodup]
    by_cases hpq : p = q
    · rw [hpq, if_neg hnot, if_pos List.mem_cons_self, State.updGrp_grp]
    · rw [State.updGrp_grp_other _ _ hpq]
      simp [hpq]

theorem State.foldl_updGrp_mem (ps : List Party) : (ps.foldl (fun t q => t.updGrp q f) s).mem = s.mem :=
  foldl_keeps State.mem _ (fun _ _ => State.updGrp_mem ..) ps s

end

section

variable {s : State} {h : Nat}

/-- An election that opens again changes no group. -/
theorem State.setTeam_elected_grp (k : Fin 16) : (s.setTeam h { s.team h with elected := false }).grp (.group h k) = s.grp (.group h k) := by
  show ((s.setTeam h _).team h).groups.get k = _
  rw [State.team_setTeam]
  rfl

theorem State.mem_partiesOf {p : Party} : p ∈ s.partiesOf h ↔ ∃ g, p = .group h g ∧ (s.grp (.group h g)).used = true ∧ (s.grp (.group h g)).ended = false := by
  simp only [State.partiesOf, Team.liveGroups, List.mem_map, List.mem_filter, List.mem_finRange, true_and, Bool.and_eq_true, Bool.not_eq_true']
  exact ⟨fun ⟨g, hlive, hp⟩ => ⟨g, hp.symm, hlive⟩, fun ⟨g, hp, hlive⟩ => ⟨g, hlive, hp.symm⟩⟩

theorem State.partiesOf_nodup : (s.partiesOf h).Nodup :=
  ((List.nodup_finRange 16).filter _).map fun _ _ hgk => (Party.group.inj hgk).2

/-- What a completed BAR leaves: every group at its next instruction, and the team's election open again. -/
theorem State.tryBar_complete (hlive : s.partiesOf h ≠ []) (hall : ∀ p ∈ s.partiesOf h, (s.grp p).rdv = some .bar) :
    s.tryBar h = let u := (s.partiesOf h).foldl (fun t q => t.updGrp q fun g => { g with rdv := none, pc := g.pc + 4 }) s
      u.setTeam h { u.team h with elected := false } := by
  unfold State.tryBar
  dsimp only
  rw [if_neg]
  · rfl
  · rintro (hempty | hany)
    · exact hlive (List.isEmpty_iff.1 hempty)
    · obtain ⟨p, hp, hne⟩ := List.any_eq_true.1 hany
      rw [hall p hp] at hne
      exact absurd hne (by decide)

theorem State.tryBar_waits (hwaits : ∃ p ∈ s.partiesOf h, (s.grp p).rdv ≠ some .bar) : s.tryBar h = s := by
  obtain ⟨p, hp, hne⟩ := hwaits
  exact if_pos (.inr (List.any_eq_true.2 ⟨p, hp, by simpa using hne⟩))

end

/-- Settles O17: the arrivals at once, and BAR's completion by `State.tryBar_complete`. -/
theorem rendezvousArrivals : Obligations.RendezvousArrivals := by
  unfold Obligations.RendezvousArrivals
  refine ⟨fun d key => ?arrivals, fun s h => ?completion⟩
  case arrivals =>
    intro h
    refine ⟨fun s hready ⟨_, hrel⟩ => ?bar, fun s hready ⟨_, hrel⟩ => ?cbar, fun s hready ⟨_, hrel⟩ => ?cbarL, fun hk s hready => ?regather,
      fun s hready hstream => ?stream, fun s hready hstream => ?group⟩
    case bar => exact (gated_ready (reads := []) (writes := []) _ hready).trans (if_neg (by rw [hrel]; exact Bool.false_ne_true))
    case cbar => exact (gated_ready (reads := []) (writes := []) _ hready).trans (if_neg (by rw [hrel]; exact Bool.false_ne_true))
    case cbarL => exact (gated_ready (reads := []) (writes := []) _ hready).trans (if_neg (by rw [hrel]; exact Bool.false_ne_true))
    case regather =>
      rintro ⟨-, hkey, -, hdrained, hrel, hfull⟩
      have hregs : (List.range s.cur.nreg).any (fun v => !(s.cur.vreg v).full) = false :=
        List.any_eq_false.2 fun v hv => by simp [hfull v (List.mem_range.1 hv)]
      have hmod : (⟨key.toNat % 112, Nat.mod_lt _ (by decide)⟩ : Fin 112) = ⟨key.toNat, hk⟩ := Fin.ext (Nat.mod_eq_of_lt hk)
      refine (gated_ready (reads := []) (writes := []) _ hready).trans ((if_neg (Nat.not_le.2 hkey)).trans ?_)
      dsimp only
      rw [hmod, if_neg]
      rw [hdrained, hrel, hregs]
      exact Bool.false_ne_true
    case stream => exact (gated_ready _ hready).trans (if_pos hstream)
    case group => exact (gated_ready _ hready).trans (if_neg (by rw [hstream]; exact Bool.false_ne_true))
  case completion =>
    intro live t
    have hmem (g : Fin 16) : live g ↔ .group h g ∈ s.partiesOf h := by
      rw [State.mem_partiesOf]
      exact ⟨fun hg => ⟨g, rfl, hg⟩, fun ⟨k, hk, hg⟩ => by obtain rfl := (Party.group.inj hk).2; exact hg⟩
    refine ⟨fun ⟨g, hg⟩ hall => ?_, fun ⟨g, hg, hne⟩ => State.tryBar_waits ⟨_, (hmem g).1 hg, hne⟩⟩
    have hcomplete : t = _ := State.tryBar_complete (List.ne_nil_of_mem ((hmem g).1 hg)) fun p hp => by
      obtain ⟨k, rfl, hk⟩ := State.mem_partiesOf.1 hp
      exact hall k hk
    have hgrp (k : Fin 16) (hk : live k) : t.grp (.group h k) = { s.grp (.group h k) with rdv := none, pc := (s.grp (.group h k)).pc + 4 } := by
      rw [hcomplete]
      dsimp only
      rw [State.setTeam_elected_grp, State.foldl_updGrp_grp _ _ _ State.partiesOf_nodup, if_pos ((hmem k).1 hk)]
    refine ⟨fun k hk => ?_, ?_, ?_⟩
    · rw [hgrp k hk]
      exact ⟨rfl, rfl, rfl, rfl⟩
    · rw [hcomplete]
      dsimp only
      rw [State.team_setTeam]
    · rw [hcomplete]
      exact State.foldl_updGrp_mem ..

/-! ### Code maintenance and GEND (R394, R141, R58) -/

section

variable {s : State} {a b : SNum}

theorem execCwb_none (hready : scalarReady (.cwb a b) [a, b] [] s = true) (hlt : (s.rs a).toNat < 2 ^ 57) (hzero : s.rs b = 0) :
    exec (.cwb a b) s = .next s.advance := by
  show execCwb a b s = _
  rw [execCwb, scalarOp_ready _ hready]
  dsimp only
  rw [if_neg (not_not.2 (extractLsb'_high_eq_zero.2 hlt)), if_pos (by rw [hzero]; rfl)]
  rfl

theorem execCwb_far (hready : scalarReady (.cwb a b) [a, b] [] s = true) (hfar : 2 ^ 57 ≤ (s.rs a).toNat) :
    exec (.cwb a b) s = trapAt s cAccess (BitVec.ofNat 64 ((s.rs a).toNat % 2 ^ 57)) := by
  have hinfo : ((s.rs a).extractLsb' 0 57).setWidth 64 = BitVec.ofNat 64 ((s.rs a).toNat % 2 ^ 57) := by
    refine BitVec.eq_of_toNat_eq ?_
    simp
  show execCwb a b s = _
  rw [execCwb, scalarOp_ready _ hready]
  dsimp only
  rw [if_pos fun hzero => Nat.not_lt.2 hfar (extractLsb'_high_eq_zero.1 hzero), hinfo]

/-- A range of which the core buffers nothing, nothing is logged and nothing is under way is written back. -/
theorem execCwb_clean (hready : scalarReady (.cwb a b) [a, b] [] s = true) (hlt : (s.rs a).toNat < 2 ^ 57) (hbuf : (s.core (s.coreOf s.who)).cbuf = [])
    (hlog : s.logOf s.who = []) (hposted : s.postedFrom (s.coreOf s.who) (fun _ => true) = false) : exec (.cwb a b) s = .next s.advance := by
  have hnone (f : TSent → Bool) : s.postedFrom (s.coreOf s.who) f = false := by
    simp only [State.postedFrom, List.any_eq_false, Bool.and_true] at hposted ⊢
    refine fun e he hany => hposted e he ?_
    simp only [List.any_eq_true, Bool.and_eq_true] at hany ⊢
    obtain ⟨x, hx, hboth, -⟩ := hany
    exact ⟨x, hx, hboth⟩
  show execCwb a b s = _
  rw [execCwb, scalarOp_ready _ hready]
  dsimp only
  rw [if_neg (not_not.2 (extractLsb'_high_eq_zero.2 hlt)), hbuf]
  split
  · rfl
  · rw [if_neg]
    · rfl
    · show ¬ ((s.logOf s.who).any _ || [].any _ || s.postedFrom (s.coreOf s.who) _) = true
      rw [hlog, hnone]
      exact Bool.false_ne_true

end

/-- Settles O18: each instruction from its own equation. -/
theorem codeMaintenanceAndEnd : Obligations.CodeMaintenanceAndEnd := by
  unfold Obligations.CodeMaintenanceAndEnd
  intro c a b
  refine ⟨fun s hready ⟨hlt, hzero⟩ => execCwb_none hready hlt hzero, fun s hready hfar => execCwb_far hready hfar,
    fun s hready hlt _ hbuf hlog hposted => execCwb_clean hready hlt hbuf hlog hposted, fun s hready => ?icinv, fun s h g hwho hready hrel hidle hquiet => ?group,
    fun s k hwho hready hrel => ?stream⟩
  case icinv =>
    show ∃ t, execIcinv c a b s = .next t ∧ _
    rw [execIcinv, scalarOp_ready _ hready]
    refine ⟨_, rfl, ?_⟩
    simp [State.advance]
  case group =>
    refine (gated_ready (reads := []) (writes := []) _ hready).trans ((if_neg (by rw [hrel]; exact Bool.false_ne_true)).trans ?_)
    rw [hwho] at hquiet ⊢
    exact if_pos (by rw [hidle, hquiet]; rfl)
  case stream =>
    refine ⟨s.endStream k 0 0, (gated_ready (reads := []) (writes := []) _ hready).trans ((if_neg (by rw [hrel]; exact Bool.false_ne_true)).trans ?_), ?_⟩
    · rw [hwho]
    · have hcur : (s.endStream k 0 0).cur = { s.grp (.stream k) with wait := .ending 0 0, outst := [] } := by
        rw [State.cur, show (s.endStream k 0 0).who = .stream k from (s.updGrp_who ..).trans hwho]
        exact s.updGrp_grp (.stream k) fun g => { g with wait := .ending 0 0, outst := [] }
      rw [hcur]
      exact ⟨rfl, rfl, State.updGrp_mem ..⟩

/-! ### LRUN (R118, R306) -/

theorem Group.slaneEmpty_of_sfull {g : Group} {r : SNum} (h : g.sfull r = true) : g.slaneEmpty r = false := by
  unfold Group.sfull at h
  unfold Group.slaneEmpty
  rcases Bool.or_eq_true_iff.1 h with h | h
  · simp [of_decide_eq_true h]
  · rw [eq_of_beq h]
    simp

/-- What LRUN comes to once its block's first sector is there. -/
def lrunFetched (a b : SNum) (blk : DWord) (t : State) (x : Sector) : Out :=
  let w : BitVec 96 := x.extractLsb' (8 * (blk.toNat % 64)) 96
  if (if hdrOk w && hdrTrap w && t.cur.inh then Config.trapQueue ≤ t.cur.trapBlocks else Config.spoolEntries ≤ t.cur.spool.length) then blockedOut t
  else if hdrOp w == 0xEF && hdrTrap w && !t.cur.inh then trapAt t cIllfld (opInfo (.lrun a b))
  else if !hdrOk w then trapAt t cBadblk 0
  else .next (({ t with handles := t.handles + 1 }.updCur fun g => g.push (g.entryOf t.handles blk ((t.rs b).setWidth 32) w (blk.toNat / 64) x)).advance)

theorem execLrun_fetched {a b : SNum} {s t : State} {x : Sector} (hready : scalarReady (.lrun a b) ([a, b] ++ laneSRegs) [] s = true)
    (h16 : (s.rs a).toNat % 16 = 0) (hlt : (s.rs a).toNat < 2 ^ 57) (hgot : s.fetchLaneSector s.who (s.rs a).toNat = .got t x) :
    exec (.lrun a b) s = lrunFetched a b (s.rs a) t x := by
  unfold scalarReady at hready
  obtain ⟨hrest, hw⟩ := Bool.and_eq_true_iff.1 hready
  obtain ⟨hlegal, hr⟩ := Bool.and_eq_true_iff.1 hrest
  rw [List.all_append] at hr
  obtain ⟨hab, hlanes⟩ := Bool.and_eq_true_iff.1 hr
  have hfind : (if s.cur.fe.getLsbD 0 then laneSRegs.find? s.cur.slaneEmpty else none) = none := by
    split
    · exact List.find?_eq_none.2 fun r hr => by rw [Group.slaneEmpty_of_sfull (List.all_eq_true.1 hlanes r hr)]; exact Bool.false_ne_true
    · rfl
  have hempty : ¬ laneSRegs.any (fun r => !s.cur.sfull r) = true := by
    simpa using List.all_eq_true.1 hlanes
  have halign : (s.rs a).extractLsb' 0 4 = 0 := by
    refine BitVec.eq_of_toNat_eq ?_
    simpa using h16
  show execLrun a b s = _
  rw [execLrun, scalarGate_legal _ hlegal]
  dsimp only
  rw [hfind]
  dsimp only
  rw [needRegs_full _ hab hw, if_neg (not_not.2 halign), if_neg (not_not.2 (extractLsb'_high_eq_zero.2 hlt)), if_neg hempty, hgot]
  rfl

section

variable {w : BitVec 96}

theorem hdrOk_iff : hdrOk w = true ↔ w.extractLsb' 0 8 = 0xEF ∧ 2 ≤ (w.extractLsb' 24 16).toNat ∧ w.extractLsb' 41 55 = 0 := by
  unfold hdrOk hdrOp hdrLen fieldN
  rw [Bool.and_eq_true, Bool.and_eq_true, beq_iff_eq, decide_eq_true_iff, beq_iff_eq, and_assoc, show 0 = (0 : BitVec 55).toNat from rfl, BitVec.toNat_inj]

variable {g : Group}

theorem Group.sfull_sempty_same {d : SNum} (hd : d ≠ 0) {why : RegFill} (hwhy : why ≠ .full) : (g.sempty d why).sfull d = false := by
  have hfill : (why == .full) = false := by simpa using hwhy
  simp [Group.sempty, Group.sfull, hd, vec_get_set, hfill]

/-- Registers emptied for the lanes of a block, one for each bit of its mask. -/
theorem Group.sfull_foldl_sempty (m : BitVec 16) (l : List (Fin 16)) (g : Group) (r : SNum) :
    (l.foldl (fun (g : Group) i => if m.getLsbD i.val then g.sempty ⟨16 + i.val, by omega⟩ .lane else g) g).sfull r =
      (g.sfull r && !l.any fun i => m.getLsbD i.val && r.val == 16 + i.val) := by
  induction l generalizing g with
  | nil => simp
  | cons i l ih =>
    rw [List.foldl_cons, ih, List.any_cons]
    cases hbit : m.getLsbD i.val with
    | false => simp
    | true =>
      have hne : (⟨16 + i.val, by omega⟩ : SNum) ≠ 0 := fun h0 => absurd (congrArg Fin.val h0) (by simp)
      by_cases hr : r = ⟨16 + i.val, by omega⟩
      · rw [if_pos rfl, hr, Group.sfull_sempty_same hne (by decide)]
        simp
      · have hval : (r.val == 16 + i.val) = false := by simpa using fun h => hr (Fin.ext h)
        rw [if_pos rfl, Group.sfull_sempty_other _ _ _ hr, hval]
        simp

theorem Group.push_sfull (g : Group) (e : SpoolEntry) (i : Fin 16) :
    (g.push e).sfull ⟨16 + i.val, by omega⟩ = (g.sfull ⟨16 + i.val, by omega⟩ && !e.dmask.getLsbD i.val) := by
  have hany : ((List.finRange 16).any fun j => e.dmask.getLsbD j.val && 16 + i.val == 16 + j.val) = e.dmask.getLsbD i.val := by
    rw [Bool.eq_iff_iff, List.any_eq_true]
    refine ⟨fun ⟨j, _, hj⟩ => ?_, fun hi => ⟨i, List.mem_finRange i, by simp [hi]⟩⟩
    obtain ⟨hbit, hval⟩ := Bool.and_eq_true_iff.1 hj
    rwa [show i.val = j.val by simpa using hval]
  unfold Group.push
  rw [Group.sfull_foldl_sempty, hany]
  cases e.trap <;> rfl

/-- Registers emptied change the fill of registers alone. -/
theorem Group.foldl_sempty_only (m : BitVec 16) (l : List (Fin 16)) (g : Group) : ∃ r,
    l.foldl (fun (g : Group) i => if m.getLsbD i.val then g.sempty ⟨16 + i.val, by omega⟩ .lane else g) g = { g with sregs := r } := by
  induction l generalizing g with
  | nil => exact ⟨_, rfl⟩
  | cons i l ih =>
    obtain ⟨r, hr⟩ := ih (if m.getLsbD i.val then g.sempty ⟨16 + i.val, by omega⟩ .lane else g)
    refine ⟨r, hr.trans ?_⟩
    split
    · rw [Group.sempty_only]
    · rfl

/-- An entry pushed goes to its queue; the pc stays. -/
theorem Group.push_keeps (g : Group) (e : SpoolEntry) : (g.push e).pc = g.pc ∧
    (g.push e).spool = (if e.trap then g.spool else g.spool ++ [e]) ∧ (g.push e).trapq = (if e.trap then g.trapq ++ [e] else g.trapq) := by
  unfold Group.push
  obtain ⟨r, hr⟩ := Group.foldl_sempty_only e.dmask (List.finRange 16) (if e.trap then { g with trapq := g.trapq ++ [e] } else { g with spool := g.spool ++ [e] })
  rw [hr]
  cases e.trap
  · exact ⟨rfl, rfl, rfl⟩
  · exact ⟨rfl, rfl, rfl⟩

end

/-- There is room for a block with a header: in the spool, for a trap block of a handler in the queue of four. -/
def lrunRoom (w : BitVec 96) (t : State) : Prop :=
  if hdrOk w = true ∧ hdrTrap w = true ∧ t.cur.inh = true then t.cur.trapBlocks < 4 else t.cur.spool.length < 16

section

variable {a b : SNum} {blk : DWord} {t : State} {x : Sector} {w : BitVec 96}

theorem lrunRoom_iff :
    lrunRoom w t ↔ ¬ (if hdrOk w && hdrTrap w && t.cur.inh then Config.trapQueue ≤ t.cur.trapBlocks else Config.spoolEntries ≤ t.cur.spool.length) := by
  unfold lrunRoom
  simp only [Bool.and_eq_true, and_assoc]
  split
  · exact Nat.not_le.symm
  · exact Nat.not_le.symm

variable (hw : x.extractLsb' (8 * (blk.toNat % 64)) 96 = w)
include hw

theorem lrunFetched_full (hfull : ¬ lrunRoom w t) : lrunFetched a b blk t x = blockedOut t := by
  subst hw
  exact if_pos (not_not.1 fun hnot => hfull (lrunRoom_iff.2 hnot))

variable (hroom : lrunRoom w t)
include hroom

theorem lrunFetched_outside (hop : hdrOp w = 0xEF) (htrap : hdrTrap w = true) (hinh : t.cur.inh = false) :
    lrunFetched a b blk t x = trapAt t cIllfld (opInfo (.lrun a b)) := by
  subst hw
  refine (if_neg (lrunRoom_iff.1 hroom)).trans (if_pos ?_)
  rw [hop, htrap, hinh]
  rfl

theorem lrunFetched_bad (hok : ¬ hdrOk w = true) (hin : ¬ (hdrOp w = 0xEF ∧ hdrTrap w = true ∧ t.cur.inh = false)) :
    lrunFetched a b blk t x = trapAt t cBadblk 0 := by
  subst hw
  refine (if_neg (lrunRoom_iff.1 hroom)).trans ((if_neg ?_).trans (if_pos (by simpa using hok)))
  simpa [and_assoc] using hin

theorem lrunFetched_pushes (hok : hdrOk w = true) (hin : ¬ (hdrTrap w = true ∧ t.cur.inh = false)) :
    lrunFetched a b blk t x =
      .next (({ t with handles := t.handles + 1 }.updCur fun g => g.push (g.entryOf t.handles blk ((t.rs b).setWidth 32) w (blk.toNat / 64) x)).advance) := by
  subst hw
  refine (if_neg (lrunRoom_iff.1 hroom)).trans ((if_neg ?_).trans (if_neg (by rw [hok]; decide)))
  intro hand
  obtain ⟨hboth, hinh⟩ := Bool.and_eq_true_iff.1 hand
  exact hin ⟨(Bool.and_eq_true_iff.1 hboth).2, by simpa using hinh⟩

end

/-- The group once LRUN has pushed an entry. -/
theorem State.pushed_cur (t : State) (f : Group → SpoolEntry) :
    ((({ t with handles := t.handles + 1 } : State).updCur fun g => g.push (f g)).advance).cur =
      { t.cur.push (f t.cur) with pc := (t.cur.push (f t.cur)).pc + 4 } := by
  rw [State.advance_cur, State.cur_updCur]
  rfl

/-- Settles O16: what the block's header says, by `lrunFetched`. -/
theorem lrunPushes : Obligations.LrunPushes := by
  unfold Obligations.LrunPushes
  intro a b s t x hready h16 hlt hgot hdr op len ok room
  have hexec := execLrun_fetched hready h16 hlt hgot
  have hok : hdrOk hdr = true ↔ ok := hdrOk_iff
  have hroom : lrunRoom hdr t ↔ room := iff_of_eq (if_congr (and_congr hok Iff.rfl) rfl rfl)
  have hinfo : opInfo (.lrun a b) = 0x20 := by rw [opInfo_sr (i := .lrun a b) rfl]; rfl
  have hblk : (s.rs a).extractLsb' 0 57 = BitVec.ofNat 57 (s.rs a).toNat := BitVec.eq_of_toNat_eq (by simp)
  rw [hexec]
  refine ⟨fun hfull => lrunFetched_full rfl (hroom.not.2 hfull), fun hbad hin hr => lrunFetched_bad rfl (hroom.2 hr) (hok.not.2 hbad) hin,
    fun hgood htrap hlen => ?spool, fun hop htrap hinh hr => ?outside, fun hgood htrap hinh hlen => ?trapBlock⟩
  case outside =>
    rw [lrunFetched_outside rfl (hroom.2 hr) hop htrap hinh, hinfo]
    rfl
  case spool =>
    have hr : lrunRoom hdr t := by
      unfold lrunRoom
      rw [if_neg fun hand => absurd (htrap.symm.trans hand.2.1) Bool.false_ne_true]
      exact hlen
    obtain ⟨hpc, hspool, -⟩ := t.cur.push_keeps (t.cur.entryOf t.handles (s.rs a) ((t.rs b).setWidth 32) hdr ((s.rs a).toNat / 64) x)
    refine ⟨_, t.cur.entryOf t.handles (s.rs a) ((t.rs b).setWidth 32) hdr ((s.rs a).toNat / 64) x,
      lrunFetched_pushes rfl hr (hok.2 hgood) fun hand => absurd (htrap.symm.trans hand.1) Bool.false_ne_true, ?_⟩
    rw [State.pushed_cur]
    refine ⟨congrArg (· + 4) hpc, hspool.trans (if_neg (by show ¬ hdr.getLsbD 40 = true; rw [htrap]; exact Bool.false_ne_true)), hblk, rfl, rfl, rfl, rfl, rfl, htrap,
      fun i => ?_, fun i => Group.push_sfull .., ?_⟩
    · simp [Group.entryOf, Group.snapshot]
    · simp [State.advance]
  case trapBlock =>
    have hr : lrunRoom hdr t := by
      unfold lrunRoom
      rw [if_pos ⟨hok.2 hgood, htrap, hinh⟩]
      exact hlen
    obtain ⟨hpc, hspool, htrapq⟩ := t.cur.push_keeps (t.cur.entryOf t.handles (s.rs a) ((t.rs b).setWidth 32) hdr ((s.rs a).toNat / 64) x)
    refine ⟨_, t.cur.entryOf t.handles (s.rs a) ((t.rs b).setWidth 32) hdr ((s.rs a).toNat / 64) x,
      lrunFetched_pushes rfl hr (hok.2 hgood) fun hand => absurd (hinh.symm.trans hand.2) Bool.true_eq_false.mp, ?_⟩
    rw [State.pushed_cur]
    refine ⟨congrArg (· + 4) hpc, htrapq.trans (if_pos htrap), hspool.trans (if_pos htrap), hblk, rfl, htrap⟩

end Sys2Proof.Machine
end

section
/-! What a step runs (13 R292, 15 R356; log 6): the event or the decoded instruction that is next, and what the passage of time leaves alone. -/

namespace Sys2Proof.Machine

/-! ### The passage of time -/

/-- What time alone never changes: memory, the teams and their groups, cores and dies, the device's registers, the host's requests. -/
def State.lasting (s : State) : (List Host.Cell × KMap DWord) × (KMap Team × KMap Core × KMap Die) × Dev × List HostReq :=
  ((s.mem, s.md), (s.teams, s.cores, s.dies), s.dev, s.hostq)

section

variable (s t : State) (ran : Option (Party × Bool × Nat))

theorem State.noteStarved_lasting : (s.noteStarved ran).lasting = s.lasting ∧ (s.noteStarved ran).time = s.time := by
  unfold State.noteStarved
  split <;> exact ⟨rfl, rfl⟩

theorem State.noteWaits_lasting (start : Nat) : (s.noteWaits start).lasting = s.lasting ∧ (s.noteWaits start).time = s.time := by
  unfold State.noteWaits
  split <;> exact ⟨rfl, rfl⟩

theorem State.settle_lasting : (s.settle t).lasting = t.lasting ∧ t.time ≤ (s.settle t).time := by
  unfold State.settle
  extract_lets n u v w
  have hv : v.lasting = t.lasting ∧ t.time ≤ v.time := by
    obtain ⟨h1, htime1⟩ := u.noteStarved_lasting s.ran
    obtain ⟨h2, htime2⟩ := (u.noteStarved s.ran).noteWaits_lasting s.moment
    exact ⟨h2.trans h1, Nat.le_trans (Nat.le_add_right t.time n) (Nat.le_of_eq (htime2.trans htime1).symm)⟩
  split
  · exact hv
  · exact hv

theorem State.turnOver_lasting (issued : Bool) : (s.turnOver ran issued).lasting = s.lasting ∧ (s.turnOver ran issued).time = s.time := by
  unfold State.turnOver
  extract_lets held u v
  have hu : u.lasting = s.lasting ∧ u.time = s.time := by
    unfold u
    split
    · unfold State.hadTurn
      dsimp only
      split <;> exact ⟨rfl, rfl⟩
    · exact ⟨rfl, rfl⟩
  split
  · exact ⟨rfl, rfl⟩
  · unfold v
    split
    · exact hu
    · exact hu

theorem State.goOn_lasting : (s.goOn t).lasting = t.lasting ∧ t.time ≤ (s.goOn t).time := by
  obtain ⟨h1, htime1⟩ := s.settle_lasting t
  obtain ⟨h2, htime2⟩ := ((s.settle t).noteReady s.ran).turnOver_lasting s.ran (!t.stalled)
  exact ⟨h2.trans h1, Nat.le_trans htime1 (Nat.le_of_eq htime2.symm)⟩

end

/-! ### The next instruction -/

theorem step_of_run {s t : State} {i : Instr} (h : s.pick = .run i t) :
    step s = match exec i t with | .next u => .next (s.goOn u) | .fault f => .fault f | .refused r => .refused r := by
  unfold step
  rw [h]
  rfl

/-- The device as a stream's turn begins. -/
def State.turnOf (s : State) (p : Party) (slot : Nat) : State := { s with who := p, lslot := slot, stalled := false, starved := false }

theorem State.pick_turn {s : State} {p : Party} {lane : Bool} {slot : Nat} (hagenda : s.agenda = []) (hstart : s.dev.starting = false)
    (hturn : s.nextTurn = some (p, lane, slot)) : s.pick = s.issueTurn p lane slot := by
  unfold State.pick
  rw [hagenda]
  dsimp only
  rw [if_neg (by rw [hstart]; exact Bool.false_ne_true), hturn]

section

variable {s : State} {p : Party} {slot : Nat} {i : Instr}

/-- A scalar stream to which nothing is due runs the instruction it fetches. -/
theorem State.issueTurn_scalar {t : State} (htrap : (s.grp p).trapDue = false) (hovfq : (s.grp p).ovfqDue = false) (hwake : (s.grp p).wakeAt = none)
    (hwait : (s.grp p).wait = .none) (hfetch : (s.turnOf p slot).fetchScalar p = .word t (.ok i)) : s.issueTurn p false slot = .run i t := by
  unfold State.issueTurn
  dsimp only
  rw [if_neg Bool.false_ne_true, if_neg (by rw [htrap]; exact Bool.false_ne_true), if_neg (by rw [hovfq]; exact Bool.false_ne_true),
    if_neg (by rw [hwake]; exact Bool.false_ne_true), hwait]
  dsimp only
  unfold State.turnOf at hfetch
  rw [hfetch]

/-- A buffered sector that no ICINV ran over gives the instruction. -/
theorem State.fetchScalar_buffered {x : Sector} {mark : Nat} (hbuf : (s.grp p).sfetch = some ((s.grp p).pc.toNat / 64, x, mark)) (hmark : mark ≠ 1) :
    s.fetchScalar p = .word s (decodeBytes false ((List.range 4).map fun k => x.byte ((s.grp p).pc.toNat % 64 + k))) := by
  unfold State.fetchScalar
  dsimp only
  rw [hbuf]
  dsimp only
  rw [if_neg (not_not.2 rfl), if_pos hmark]

/-- Code that the instruction cache does not hold comes from its home. -/
theorem State.fetchSector_home {va pa : Nat} (hmiss : (s.core (s.coreOf p)).icS.find? (fun x => x.pasid == s.pasidOf p && x.va == va / 64) = none)
    (hlook : s.look (s.coreOf p) (s.pasidOf p) (64 * (va / 64)) false = .here pa) (hpoison : s.poison.contains (pa / 64) = false) :
    ∃ t, s.fetchSector p false va = .got t (readSector s.mem (pa / 64)) ∧ t.still = s.still := by
  have hempty : ((s.core (s.coreOf p)).icOf false).find? (fun x => x.pasid == s.pasidOf p && x.va == va / 64) = none := hmiss
  unfold State.fetchSector
  dsimp only
  rw [hempty]
  dsimp only
  rw [hlook]
  dsimp only
  rw [if_neg (by rw [hpoison]; exact Bool.false_ne_true)]
  exact ⟨_, rfl, by simp⟩

/-- An aligned instruction's bytes lie in one sector of memory. -/
theorem readSector_code (m : List Host.Cell) (sec : Nat) {off : Nat} (halign : off % 4 = 0) (hoff : off < 64) :
    ((List.range 4).map fun k => (readSector m sec).byte (off + k)) = readBytes m (64 * sec + off) 4 := by
  unfold readBytes KMap.getRange
  refine List.map_congr_left fun k hk => ?_
  rw [readSector_byte _ _ (by have := List.mem_range.1 hk; omega), Nat.add_assoc]
  rfl

/-- An instruction whose sector is not buffered is fetched from its home, and its sector buffered. -/
theorem State.fetchScalar_home {pa : Nat} (hbuf : (s.grp p).sfetch = none)
    (hmiss : (s.core (s.coreOf p)).icS.find? (fun x => x.pasid == s.pasidOf p && x.va == (s.grp p).pc.toNat / 64) = none)
    (hlook : s.look (s.coreOf p) (s.pasidOf p) (64 * ((s.grp p).pc.toNat / 64)) false = .here pa) (hpoison : s.poison.contains (pa / 64) = false)
    (halign : (s.grp p).pc.toNat % 4 = 0) :
    ∃ t x, s.fetchScalar p = .word t (decodeBytes false (readBytes s.mem (64 * (pa / 64) + (s.grp p).pc.toNat % 64) 4)) ∧
      t.who = s.who ∧ t.mem = s.mem ∧ t.md = s.md ∧ t.grp p = { s.grp p with sfetch := some ((s.grp p).pc.toNat / 64, x, 0) } := by
  obtain ⟨u, hu, hstill⟩ := State.fetchSector_home hmiss hlook hpoison
  obtain ⟨hmem, hmd⟩ := State.mem_of_still hstill
  have hactors := State.actors_of_still hstill
  refine ⟨u.updGrp p fun g => { g with sfetch := some ((s.grp p).pc.toNat / 64, readSector s.mem (pa / 64), 0) }, readSector s.mem (pa / 64), ?_,
    (State.updGrp_who ..).trans (State.who_of_actors hactors), (State.updGrp_mem ..).trans hmem, (State.updGrp_md ..).trans hmd, ?_⟩
  · unfold State.fetchScalar
    dsimp only
    rw [hbuf]
    dsimp only
    rw [hu]
    dsimp only
    rw [readSector_code _ _ (by omega) (Nat.mod_lt _ (by decide))]
  · rw [State.updGrp_grp, State.grp_of_actors hactors]

/-- A place of some code lies in the sector that it is in. -/
theorem codePlaces_sector {va n a : Nat} (h : a ∈ codePlaces va n) : a / 64 ∈ codeSectors va n := by
  obtain ⟨sec, hsec, rfl⟩ := List.mem_map.1 h
  obtain ⟨k, -, hk⟩ := List.mem_map.1 hsec
  have : max va (64 * sec) / 64 = sec := by
    rcases Nat.le_total va (64 * sec) with hle | hle
    · rw [Nat.max_eq_right hle]
      omega
    · rw [Nat.max_eq_left hle]
      omega
  rwa [this]

theorem mem_codeSectors {va n k : Nat} (hn : 0 < n) : k ∈ codeSectors va n ↔ va / 64 ≤ k ∧ k ≤ (va + n - 1) / 64 := by
  simp only [codeSectors, List.mem_map, List.mem_range]
  refine ⟨fun ⟨j, hj, hk⟩ => by omega, fun ⟨hle, hge⟩ => ⟨k - va / 64, by omega, by omega⟩⟩

/-- Sectors that the block's entry holds are not fetched again. -/
theorem State.fetchBlock_held {b : Block} (hblock : (s.grp p).block = some b) (l : List Nat)
    (hheld : ∀ a ∈ l, b.entry.code.any (fun e => e.1 == a / 64) = true) : s.fetchBlock p l = .got s 0 := by
  induction l with
  | nil => rfl
  | cons a l ih =>
    unfold State.fetchBlock
    rw [hblock]
    dsimp only
    rw [if_pos (hheld a List.mem_cons_self)]
    exact ih fun c hc => hheld c (List.mem_cons_of_mem a hc)

/-- A record that did not jump fetches its word, and the next where it asks for a pair with it, from the block's own copy. -/
theorem State.fetchLane_held {b : Block} {q : Split} {pos : Nat} {bytes : List Byte} (hblock : (s.grp p).block = some b) (hpos : b.posOf slot = some pos)
    (hrec : b.rec? pos = some q) (hjump : q.jumped = false)
    (hheld : ∀ n ∈ codeSectors (b.entry.blk.toNat + 12 * q.pc) 24, b.entry.code.any (fun e => e.1 == n) = true)
    (hbytes : codeBytes b.entry.code (b.entry.blk.toNat + 12 * q.pc) 12 = some bytes) : s.fetchLane p slot = .word s (decodeBytes true bytes) := by
  have hword : s.fetchBlock p (codePlaces (b.entry.blk.toNat + 12 * q.pc) 12) = .got s 0 := State.fetchBlock_held hblock _ fun a ha => by
    have hsec := (mem_codeSectors (by decide)).1 (codePlaces_sector ha)
    exact hheld _ ((mem_codeSectors (by decide)).2 (by omega))
  have hnext : s.fetchBlock p (codePlaces (b.entry.blk.toNat + 12 * q.pc + 12) 12) = .got s 0 := State.fetchBlock_held hblock _ fun a ha => by
    have hsec := (mem_codeSectors (by decide)).1 (codePlaces_sector ha)
    exact hheld _ ((mem_codeSectors (by decide)).2 (by omega))
  unfold State.fetchLane
  rw [hblock]
  dsimp only
  rw [hpos, Option.bind_some, hrec]
  dsimp only
  rw [hword]
  dsimp only
  rw [hblock, Option.map_some, Option.getD_some, hbytes, hnext]
  dsimp only
  rw [hjump]
  split
  · rfl
  · rfl

/-- A lane stream to which nothing is due runs the word it fetches. -/
theorem State.issueTurn_lane (hstart : (s.grp p).startDue = false) (htraps : (s.grp p).laneTraps = [])
    (hfetch : (s.turnOf p slot).fetchLane p slot = .word (s.turnOf p slot) (.ok i)) : s.issueTurn p true slot = .run i (s.turnOf p slot) := by
  unfold State.issueTurn
  dsimp only
  rw [if_pos rfl, if_neg (by rw [hstart]; exact fun h => Bool.false_ne_true h.2), htraps, if_pos List.isEmpty_nil]
  unfold State.turnOf at hfetch
  rw [hfetch]
  rfl

end

/-- Settles O53: what `pick` names, and `State.goOn_lasting`. -/
theorem stepRunsWhatIsNext : Obligations.StepRunsWhatIsNext := by
  unfold Obligations.StepRunsWhatIsNext
  intro after
  refine ⟨fun s e rest hagenda => ?event, fun s p slot i hagenda hstart hturn htrap hovfq hwake hwait => ?scalar,
    fun s p slot b q pos i bytes hagenda hstart hturn hdue htraps hblock hpos hrec hjump hheld hbytes hdec => ?lane, fun s t => ?goOn⟩
  case event =>
    refine (step_of_run (i := e) (t := { s with agenda := rest, stalled := false, starved := false }) ?_).trans ?_
    · unfold State.pick
      rw [hagenda]
    · rfl
  case scalar =>
    intro s0 pc
    refine ⟨fun x mark hbuf hmark hdec => ?_, fun pa hbuf hmiss hlook hpoison halign hdec => ?_⟩
    · have hfetch := State.fetchScalar_buffered (s := s.turnOf p slot) hbuf hmark
      replace hfetch := hfetch.trans (congrArg (Fetch.word _) hdec)
      exact step_of_run ((State.pick_turn hagenda hstart hturn).trans (State.issueTurn_scalar htrap hovfq hwake hwait hfetch))
    · obtain ⟨t, x, hfetch, hwho, hmem, hmd, hgrp⟩ := State.fetchScalar_home (s := s.turnOf p slot) hbuf hmiss hlook hpoison halign
      replace hfetch := hfetch.trans (congrArg (Fetch.word _) hdec)
      exact ⟨t, x, step_of_run ((State.pick_turn hagenda hstart hturn).trans (State.issueTurn_scalar htrap hovfq hwake hwait hfetch)), hwho, hmem, hmd, hgrp⟩
  case lane =>
    have hfetch := State.fetchLane_held (s := s.turnOf p slot) hblock hpos hrec hjump hheld hbytes
    rw [hdec] at hfetch
    exact step_of_run ((State.pick_turn hagenda hstart hturn).trans (State.issueTurn_lane hdue htraps hfetch))
  case goOn =>
    obtain ⟨hview, htime⟩ := s.goOn_lasting t
    simp only [State.lasting, Prod.mk.injEq] at hview
    obtain ⟨⟨hmem, hmd⟩, ⟨hteams, hcores, hdies⟩, hdev, hhostq⟩ := hview
    exact ⟨hmem, hmd, hteams, hcores, hdies, hdev, hhostq, htime⟩

end Sys2Proof.Machine
end

section
/-! LAUNCH and JOIN (04 R83 to R85, R91, R92; 05 R140; 16 R390, R391). -/

namespace Sys2Proof.Machine

/-- A load changes the outstanding results of its group and until when it waits for the invalidation log, and no other part of the group. -/
theorem State.requested_load_grp (s : State) (q : MemReq) (hkind : q.kind = .load) (dest : Dest) (origin : Origin) (check : Option (DWord × Word)) :
    (s.requested q none dest origin check).who = s.who ∧
      ∃ l n, (s.requested q none dest origin check).grp q.party = { s.grp q.party with outst := l, invalTill := n } := by
  unfold State.requested
  extract_lets miss q' u v
  have hu : State.OutstOnly q.party s u := .of_still rfl
  have hv : State.OutstOnly q.party s v := .ite hu (hu.trans (.updGrp u fun _ => rfl))
  have hlanes : State.OutstOnly q.party v (v.doLanes q') := by
    unfold State.doLanes
    extract_lets here peer
    rw [show q'.kind = .load from hkind]
    exact (v.doPeer_outstOnly q' peer).trans ((v.doPeer q' peer).doLoad_outstOnly q' here)
  have hall := (hv.trans hlanes).trans (.of_still (State.logLanes_still _ q' miss origin))
  generalize (v.doLanes q').logLanes q' miss origin = w at hall
  have hsame : w.who = s.who ∧ ∃ l n, w.grp q.party = { s.grp q.party with outst := l, invalTill := n } := ⟨hall.who, _, _, hall.grp⟩
  unfold State.acqDone
  split
  · split
    · exact hsame
    · next sc _ _ =>
      obtain ⟨hwho, ⟨n, hn⟩, -, -⟩ := w.acquireAt_keeps q.party sc.toNat
      exact ⟨hwho.trans hall.who, (w.grp q.party).outst, n, by rw [show (w.acquireAt q'.party sc.toNat).grp q.party = _ from hn, hall.grp]⟩
  · exact hsame

/-- A party that issues a scalar load goes on, its destination empty. -/
theorem State.loading_cur (s : State) {q : MemReq} (hparty : q.party = s.who) (hkind : q.kind = .load) (d : SNum) :
    ∃ l n, (s.loading q none d).cur = { s.cur.sempty d .pending with pc := s.cur.pc + 4, outst := l, invalTill := n } := by
  obtain ⟨hwho, l, n, hgrp⟩ := s.requested_load_grp q hkind (.sreg d) .scalar none
  refine ⟨l, n, ?_⟩
  have hcur : (s.requested q none (.sreg d) .scalar none).cur = { s.cur with outst := l, invalTill := n } := by
    rw [State.cur, hwho, ← hparty, hgrp, hparty]
    rfl
  rw [State.loading, State.advance_cur, State.cur_updCur, hcur]
  unfold Group.sempty
  split <;> rfl

/-- A party that waits for nothing is not demoted. -/
theorem polling_none {t : State} (h : t.cur.wait = .none) : polling (.next t) = .next t := by
  unfold polling
  dsimp only
  rw [h]

section

variable {d a : SNum} {s : State}

theorem globalCheck_eq_none {v : DWord} : globalCheck v = none ↔ v.toNat < 2 ^ 57 := by
  rw [globalCheck, check_eq_none, bne_eq_false_iff_eq, extractLsb'_high_eq_zero]

/-! ### LAUNCH (R83, R390) -/

/-- A LAUNCH that reads its record hands it to the launch unit. -/
theorem execLaunch_reads {t : State} {bs : List Byte} (hready : scalarReady (.launch a) [a] [] s = true) (hplace : placeOk (s.rs a) 64)
    (hfence : s.fenceReady 1 true 3 = true) (hgot : s.homeSectors s.who (codeSectors (s.rs a).toNat 128) = .got t bs) :
    exec (.launch a) s = launchRecord t (s.rs a) bs := by
  show execLaunch a s = _
  rw [execLaunch, commandOp_ready _ hready (by simp [hplace.1, globalCheck_eq_none.2 hplace.2]), if_neg (by rw [hfence]; decide), hgot]

variable {t : State} {bs : List Byte} {ad : DWord}

theorem launchRecord_full (hfull : Config.gridsPerContext ≤ t.openGrids (BitVec.ofNat 8 (t.ctxOf t.who))) :
    let g := t.gridOf (BitVec.ofNat 8 (t.ctxOf t.who)) ad bs
    launchRecord t ad bs = .next { t.updCur (fun x => { x with wait := .launch ad g.ccnt g.stat }) with stalled := true } := by
  unfold launchRecord
  dsimp only
  split
  · exact if_pos hfull
  · exact if_pos (.inl hfull)

theorem launchRecord_refuses {c : Nat} (hfault : t.recordFault (t.gridOf (BitVec.ofNat 8 (t.ctxOf t.who)) ad bs) bs = some c)
    (hroom : ¬ Config.gridsPerContext ≤ t.openGrids (BitVec.ofNat 8 (t.ctxOf t.who))) :
    let g := t.gridOf (BitVec.ofNat 8 (t.ctxOf t.who)) ad bs
    launchRecord t ad bs = .next (((t.newGrid (refusedGrid { g with handed := true } (.faulted (BitVec.ofNat 8 c)))).1.updCur
      fun x => { x with wait := .none }).advance) := by
  unfold launchRecord
  dsimp only
  rw [hfault]
  exact if_neg hroom

theorem launchRecord_takes (hfault : t.recordFault (t.gridOf (BitVec.ofNat 8 (t.ctxOf t.who)) ad bs) bs = none)
    (hroom : ¬ Config.gridsPerContext ≤ t.openGrids (BitVec.ofNat 8 (t.ctxOf t.who)))
    (hdeps : t.depEntries + (t.gridOf (BitVec.ofNat 8 (t.ctxOf t.who)) ad bs).deps.length ≤ Config.depTable)
    (hpages : let g := t.gridOf (BitVec.ofNat 8 (t.ctxOf t.who)) ad bs
      ∀ e ∈ (g.ccnt.toNat, true) :: g.deps.map (fun d => (d.1.toNat, false)), t.lookHub (BitVec.ofNat 8 (t.ctxOf t.who)).toNat e.1 e.2 ≠ .miss) :
    launchRecord t ad bs = .next (((t.takeGrid (t.gridOf (BitVec.ofNat 8 (t.ctxOf t.who)) ad bs)).updCur fun x => { x with wait := .none }).advance) := by
  unfold launchRecord
  dsimp only
  rw [hfault]
  dsimp only
  rw [if_neg fun h => h.elim hroom (Nat.not_lt.2 hdeps), List.find?_eq_none.2 fun e he => ?_]
  cases hlook : t.lookHub (BitVec.ofNat 8 (t.ctxOf t.who)).toNat e.1 e.2 with
  | miss => exact absurd hlook (hpages e he)
  | _ => exact Bool.false_ne_true

/-! ### JOIN (R140, R391) -/

variable {pa : Nat}

/-- A JOIN whose addresses fit looks at its counter. -/
theorem execJoin_looks (hready : scalarReady (.join d a) (blockRegs a 3) [d] s = true) (hea : placeOk (s.par a 0) 8) (hstat : placeOk (s.par a 2) 8) :
    exec (.join d a) s = polling (waitCounter s (s.feature 6) (s.par a 0) (s.par a 1) (.join (s.par a 0) (s.par a 1) (s.par a 2) d) (joinLoad d (s.par a 2))) := by
  show execJoin d a s = _
  rw [execJoin, commandOp_ready _ hready]
  simp [hea.1, hstat.1, globalCheck_eq_none.2 hea.2, globalCheck_eq_none.2 hstat.2]

variable (hready : scalarReady (.join d a) (blockRegs a 3) [d] s = true) (hea : placeOk (s.par a 0) 8) (hstat : placeOk (s.par a 2) 8)
  (hthere : s.counterThere s.who (s.par a 0) pa)
include hready hea hstat hthere

/-- A JOIN whose counter has its target loads the status and goes on. -/
theorem execJoin_reached (hreached : (s.par a 1).toNat ≤ (s.readCounter s.who (s.par a 0).toNat pa).2.toNat)
    (hissue : ((s.acquireAt s.who 3).updCur fun g => { g with wait := .none }).requestReady
      { scalarReq (s.acquireAt s.who 3).who .load 8 (s.par a 2) with acq := some 3 } none = true) :
    ∃ v, exec (.join d a) s = .next v ∧ v.cur.pc = s.cur.pc + 4 ∧ v.cur.wait = .none ∧ (d ≠ 0 → v.cur.sfull d = false) := by
  have hult : (s.readCounter s.who (s.par a 0).toNat pa).2.ult (s.par a 1) = false := decide_eq_false (Nat.not_lt.2 hreached)
  obtain ⟨hwho, ⟨n, hgrp⟩, -, -⟩ := s.acquireAt_keeps s.who 3
  generalize hr : s.acquireAt s.who 3 = r at hissue hwho hgrp
  have hrcur : r.cur = { s.cur with invalTill := n } := by rw [State.cur, hwho, hgrp]; rfl
  set u := r.updCur fun g => { g with wait := .none } with hu
  have huwho : u.who = r.who := State.updCur_who ..
  rw [← huwho] at hissue
  have hload : joinLoad d (s.par a 2) r = .next (u.loading { scalarReq u.who .load 8 (s.par a 2) with acq := some 3 } none d) := scalarLoad_ready hissue
  obtain ⟨l, m, hcur⟩ := u.loading_cur (q := { scalarReq u.who .load 8 (s.par a 2) with acq := some 3 }) rfl rfl d
  rw [hu, State.cur_updCur, hrcur] at hcur
  have hsempty : (({ s.cur with invalTill := n, wait := .none } : Group).sempty d .pending).wait = .none := by rw [Group.sempty_only]
  refine ⟨u.loading { scalarReq u.who .load 8 (s.par a 2) with acq := some 3 } none d, ?_, ?_⟩
  · rw [execJoin_looks hready hea hstat, waitCounter_there _ hthere, hult, hr]
    exact (congrArg polling hload).trans (polling_none (by rw [hcur]; exact hsempty))
  · rw [hcur]
    exact ⟨rfl, hsempty, fun hd => Group.sfull_sempty_same hd (by decide)⟩

/-- A JOIN whose counter is below its target takes a watch entry where the table of its home has room. -/
theorem execJoin_waits (hbelow : (s.readCounter s.who (s.par a 0).toNat pa).2.toNat < (s.par a 1).toNat) (hfeature : s.feature 6 = true)
    (hroom : (s.acquireAt s.who 3).watchRoom (s.homeOf pa) = true) :
    ∃ v, exec (.join d a) s = .next v ∧ v.cur.wait = .join (s.par a 0) (s.par a 1) (s.par a 2) d true ∧ v.cur.pc = s.cur.pc ∧
      v.watches = (s.acquireAt s.who 3).watches ++ [{ home := s.homeOf pa, party := s.who, pa := pa, target := s.par a 1, hit := false }] := by
  have hult : (s.readCounter s.who (s.par a 0).toNat pa).2.ult (s.par a 1) = true := decide_eq_true hbelow
  obtain ⟨hwho, ⟨n, hgrp⟩, hhome, -⟩ := s.acquireAt_keeps s.who 3
  have hexec := (execJoin_looks hready hea hstat).trans (congrArg polling (waitCounter_there _ hthere))
  rw [hult, if_neg (by decide), hfeature, Bool.true_and, hhome, if_pos hroom] at hexec
  generalize s.acquireAt s.who 3 = r at hexec hwho hgrp hhome
  have hpc : r.cur.pc = s.cur.pc := by rw [State.cur, hwho, hgrp]; rfl
  have hcur : (r.watching pa (s.par a 1) (.join (s.par a 0) (s.par a 1) (s.par a 2) d true)).cur =
      { r.cur with wait := .join (s.par a 0) (s.par a 1) (s.par a 2) d true } := State.cur_updCur ..
  obtain ⟨v, hv, -, hvwait, hvpc⟩ := polling_keeps (r.watching pa (s.par a 1) (.join (s.par a 0) (s.par a 1) (s.par a 2) d true))
  rw [hv] at hexec
  rw [hcur] at hvwait hvpc
  refine ⟨v, hexec, hvwait, hvpc.trans hpc, (polling_watches hv).trans ?_⟩
  rw [← hwho, ← hhome]
  exact State.setGrp_watches ..

end

/-- Settles O38: LAUNCH by `launchRecord`, JOIN by what it reads at its counter. -/
theorem launchAndJoin : Obligations.LaunchAndJoin := by
  unfold Obligations.LaunchAndJoin
  intro d a s t bs ctx g past full read
  refine ⟨fun hready ⟨hplace, hfence, hgot⟩ => ?_, fun pa => ?_⟩
  · rw [execLaunch_reads hready hplace hfence hgot]
    exact ⟨fun hfault hroom hdeps hpages => launchRecord_takes hfault hroom hdeps hpages, fun c hfault hroom => launchRecord_refuses hfault hroom,
      fun hfull => launchRecord_full hfull⟩
  · intro p ea there r q u hready ⟨hea, hstat, hlook, hpoison, hacq, hheld⟩
    have hthere : s.counterThere s.who (s.par a 0) pa := ⟨hlook, hpoison, hacq, hheld⟩
    exact ⟨fun hreached hissue => execJoin_reached hready hea hstat hthere hreached hissue,
      fun hbelow hfeature hroom => execJoin_waits hready hea hstat hthere hbelow hfeature hroom⟩

end Sys2Proof.Machine
end

section
/-! Objects and their publication by the scalar stream (08 R206 to R209; 16 R386 to R389). -/

namespace Sys2Proof.Machine

/-! ### STREF (R207, R387) -/

/-- The request of a scalar STREF: container, word offset and reference. -/
def scalarRef (p : Party) (h x r : DWord) : MemReq := { scalarReq p .ref 8 h with x := x, y := r }

section

variable {s : State} {p : Party} {h x r : DWord}

theorem lanesOf_scalarRef : lanesOf (scalarRef p h x r).lanes = [0] := by
  show lanesOf 1 = [0]
  decide

theorem refOf_scalarRef : (scalarRef p h x r).refOf 0 = (h, x.toNat, r) := by
  unfold MemReq.refOf scalarRef scalarReq MemReq.blank
  simp

/-- The lanes of a request that all need no page. -/
theorem State.missLanes_eq_zero {q : MemReq} (hneeds : ∀ i ∈ lanesOf q.lanes, s.laneNeeds q i = none) : s.missLanes q = 0 := by
  by_contra hne
  obtain ⟨i, -, hi⟩ := maskOf_ne_zero.1 hne
  obtain ⟨hbit, hsome⟩ := Bool.and_eq_true_iff.1 hi
  rw [hneeds i (mem_lanesOf.2 hbit)] at hsome
  exact absurd hsome (by decide)

theorem State.doRefs_scalar : s.doRefs (scalarRef p h x r) =
    (if s.refCheck p h x.toNat r = .store then s.refStore p h x.toNat r else s, [(0, s.refCheck p h x.toNat r)]) := by
  unfold State.doRefs
  rw [lanesOf_scalarRef]
  simp only [List.foldl_cons, List.foldl_nil, refOf_scalarRef]
  rfl

/-- A reference whose check comes to no page needs none. -/
theorem State.missLanes_scalarRef (hneed : ∀ va write, s.refCheck p h x.toNat r ≠ .need va write) : s.missLanes (scalarRef p h x r) = 0 := by
  refine State.missLanes_eq_zero fun i hi => ?_
  rw [lanesOf_scalarRef, List.mem_singleton] at hi
  subst hi
  show (match s.refCheck p ((scalarRef p h x r).refOf 0).1 ((scalarRef p h x r).refOf 0).2.1 ((scalarRef p h x r).refOf 0).2.2 with
    | .need va write => some (va, write)
    | _ => none) = none
  rw [refOf_scalarRef]
  cases hcheck : s.refCheck p h x.toNat r with
  | need va write => exact absurd hcheck (hneed va write)
  | _ => rfl

/-- A reference whose check comes to no peer's header asks for none. -/
theorem State.askHeader_scalarRef (haway : ∀ va d pa, s.refCheck p h x.toNat r ≠ .away va d pa) : s.askHeader (scalarRef p h x r) = none := by
  unfold State.askHeader
  rw [lanesOf_scalarRef]
  simp only [List.findSome?_cons, List.findSome?_nil, refOf_scalarRef]
  rw [show (scalarRef p h x r).party = p from rfl]
  cases hcheck : s.refCheck p h x.toNat r with
  | away va d pa => exact absurd hcheck (haway va d pa)
  | _ => rfl

variable {rel : Option Nat} (hheld : s.pageHeld (scalarRef p h x r) = false) (hacq : s.acqPending p false = false)
  (hrel : ∀ sc, rel = some sc → s.released p sc = true) (haway : ∀ va d pa, s.refCheck p h x.toNat r ≠ .away va d pa)
include hheld hacq hrel haway

omit hheld hacq hrel haway in
theorem State.dropHeaders_cur {q : MemReq} (hparty : q.party = s.who) : (s.dropHeaders q).cur = { s.cur with hdrs := (s.dropHeaders q).cur.hdrs } := by
  unfold State.dropHeaders
  rw [State.cur, State.updGrp_who, hparty, State.updGrp_grp]
  rfl

/-- A scalar STREF that has nothing to wait for comes to what its check says. -/
theorem State.issueRef_scalar (hneed : ∀ va write, s.refCheck p h x.toNat r ≠ .need va write) :
    s.issueRef (scalarRef p h x r) rel .scalar =
      let t := (if s.refCheck p h x.toNat r = .store then s.refStore p h x.toNat r else s).dropHeaders (scalarRef p h x r)
      match refFault [(0, s.refCheck p h x.toNat r)] with
      | some (c, i, m) => .trap t c i m (refLanes [(0, s.refCheck p h x.toNat r)] (· == .store))
      | none => .go t := by
  unfold State.issueRef
  rw [if_neg ?hwait, State.askHeader_scalarRef haway]
  case hwait =>
    rw [hheld, show s.acqPending (scalarRef p h x r).party (scalarRef p h x r).lane = false from hacq]
    cases hsc : rel with
    | none => exact Bool.false_ne_true
    | some sc => simp [show s.released (scalarRef p h x r).party sc = true from hrel sc hsc]
  dsimp only
  rw [State.doRefs_scalar]
  dsimp only
  cases refFault [(0, s.refCheck p h x.toNat r)] with
  | none => exact if_pos (State.missLanes_scalarRef hneed)
  | some e => rfl

theorem State.issueRef_scalar_store (hstore : s.refCheck p h x.toNat r = .store) :
    s.issueRef (scalarRef p h x r) rel .scalar = .go ((s.refStore p h x.toNat r).dropHeaders (scalarRef p h x r)) := by
  rw [State.issueRef_scalar hheld hacq hrel haway (by rw [hstore]; nofun), hstore, refFault_eq_none fun e he => by rw [List.mem_singleton.1 he],
    if_pos rfl]

/-- A scalar STREF whose check fails traps, and stores nothing. -/
theorem State.issueRef_scalar_fault {c : Nat} {i : DWord} (hneed : ∀ va write, s.refCheck p h x.toNat r ≠ .need va write)
    (hfault : ∃ m, refFault [(0, s.refCheck p h x.toNat r)] = some (c, i, m)) (hstore : s.refCheck p h x.toNat r ≠ .store) :
    ∃ m l, s.issueRef (scalarRef p h x r) rel .scalar = .trap (s.dropHeaders (scalarRef p h x r)) c i m l := by
  obtain ⟨m, hm⟩ := hfault
  refine ⟨m, refLanes [(0, s.refCheck p h x.toNat r)] (· == .store), ?_⟩
  rw [State.issueRef_scalar hheld hacq hrel haway hneed, hm, if_neg hstore]

end

theorem execStref_issues {s : State} {a : SNum} {rel : Bool} {sc : BitVec 2} (hready : scalarReady (.stref a rel sc) (blockRegs a 3) [] s = true)
    (hfields : refFields (s.par a 0) (s.par a 2) = .store) :
    exec (.stref a rel sc) s =
      match s.issueRef (scalarRef s.who (s.par a 0) (s.par a 1) (s.par a 2)) (if rel then some sc.toNat else none) .scalar with
      | .wait t => waitOut t
      | .trap t c i _ _ => trapAt t c i
      | .go t => doneAt t := by
  show execStref a rel sc s = _
  rw [execStref, commandOp_ready _ hready (by rw [hfields]; simp)]
  rfl

/-! ### MKOBJ (R206, R386) -/

section

variable {d a : SNum} {s : State}

/-- Places given one for each piece are those that the pieces have. -/
theorem filterMap_eq_of_zip {α β : Type} {f : α → Option β} {l : List α} {m : List β} (hlen : l.length = m.length) (h : ∀ e ∈ l.zip m, f e.1 = some e.2) :
    l.filterMap f = m := by
  induction l generalizing m with
  | nil => exact (List.length_eq_zero_iff.1 hlen.symm).symm
  | cons x l ih =>
    cases m with
    | nil => exact absurd hlen (by simp)
    | cons y m =>
      rw [List.filterMap_cons_some (h (x, y) List.mem_cons_self), ih (Nat.succ.inj hlen) fun e he => h e (List.mem_cons_of_mem (x, y) he)]

/-- What MKOBJ clears and stores: the T bits of its sectors, then the header. -/
theorem execMkobj_writes {places : List (Nat × Nat)} (hready : scalarReady (.mkobj a) (blockRegs a 2) [] s = true) (hpos : 0 < (s.par a 1).toNat)
    (hlen : (s.par a 1).toNat < 2 ^ 24) (hplace : placeOk (s.par a 0) 64) (hend : (s.par a 0).toNat + 64 * (s.par a 1).toNat ≤ 2 ^ 57)
    (hacq : s.acqPending s.who false = false)
    (hheld : s.pagesHeld s.who ((pageParts (s.par a 0).toNat (64 * (s.par a 1).toNat)).map (·.1)) = false)
    (hcount : places.length = (pageParts (s.par a 0).toNat (64 * (s.par a 1).toNat)).length)
    (hplaces : ∀ e ∈ (pageParts (s.par a 0).toNat (64 * (s.par a 1).toNat)).zip places,
      s.lookAt s.who e.1.1 true = .here e.2.1 ∧ s.isHbm e.2.1 = true ∧ e.2.2 = e.1.2)
    (hregion : ∃ r ∈ s.dev.mdrgn.toList, ∀ e ∈ places, regionHolds r e.1 e.2 = true)
    (hroom : s.roomFor (s.coreOf s.who) (s.pasidOf s.who) [(s.par a 0).toNat / 64] = true) :
    ∃ u : State, exec (.mkobj a) s = .next (u.putStore (s.coreOf s.who) s.who ((s.par a 0).toNat / 64) ((places.headD (0, 0)).1 / 64) none
        { secStore 0 8 ((s.par a 1).toNat * 2 ^ 40) 0 with hset := true }).advance ∧ u.mem = s.mem ∧ u.cur = s.cur ∧
      u.md = places.foldl (fun m e => clearT m (e.1 / 64) (e.2 / 64)) s.md := by
  generalize hparts : pageParts (s.par a 0).toNat (64 * (s.par a 1).toNat) = parts at hheld hcount hplaces
  have hhere : ∀ e ∈ parts, ∃ pa, s.lookAt s.who e.1 true = .here pa := fun e he => by
    rw [← List.map_fst_zip hcount.symm.le] at he
    obtain ⟨y, hy, rfl⟩ := List.mem_map.1 he
    exact ⟨_, (hplaces y hy).1⟩
  have hlacks : s.lacks s.who true (parts.map (·.1)) = none := by
    have hfind : (parts.map (·.1)).find? (fun a => match s.lookAt s.who a true with | .miss => true | _ => false) = none := by
      refine List.find?_eq_none.2 fun va hva => ?_
      obtain ⟨e, he, rfl⟩ := List.mem_map.1 hva
      obtain ⟨pa, hpa⟩ := hhere e he
      rw [hpa]
      exact Bool.false_ne_true
    exact congrArg (Option.map _) hfind
  have hfilter : parts.filterMap (fun e => match s.lookAt s.who e.1 true with
      | .here pa => if s.isHbm pa then some (pa, e.2) else none
      | _ => none) = places := filterMap_eq_of_zip hcount.symm fun e he => by
    obtain ⟨hlook, hhbm, hsize⟩ := hplaces e he
    rw [hlook]
    dsimp only
    rw [if_pos hhbm, ← hsize]
  have hinside : (places.length == parts.length && s.dev.mdrgn.toList.any fun r => places.all fun e => regionHolds r e.1 e.2) = true := by
    obtain ⟨r, hr, hall⟩ := hregion
    rw [Bool.and_eq_true, beq_iff_eq, List.any_eq_true]
    exact ⟨hcount, r, hr, List.all_eq_true.2 hall⟩
  have hheader : (newHeader (s.par a 1).toNat).toNat = (s.par a 1).toNat * 2 ^ 40 := by
    rw [newHeader, BitVec.toNat_ofNat]
    omega
  have hstill : (parts.foldl (fun t e => t.fillFor (s.coreOf s.who) (s.pasidOf s.who) e.1 true) s).still = s.still :=
    foldl_keeps State.still _ (fun t e => t.fillFor_still ..) parts s
  obtain ⟨hmem, hmd⟩ := State.mem_of_still hstill
  have hactors := State.actors_of_still hstill
  show ∃ u : State, execMkobj a s = _ ∧ _
  rw [execMkobj, commandOp_ready _ hready (by simp [hplace.1, globalCheck_eq_none.2 hplace.2]; omega)]
  dsimp only
  rw [hparts, if_neg (Nat.not_lt.2 hend), if_neg (by rw [hacq, hheld]; exact Bool.false_ne_true), hlacks]
  dsimp only
  generalize hgiven : parts.filterMap _ = given
  obtain rfl : given = places := hgiven.symm.trans hfilter
  rw [hinside, hroom, if_neg (by decide), if_neg (by decide), hheader]
  generalize parts.foldl (fun t e => t.fillFor (s.coreOf s.who) (s.pasidOf s.who) e.1 true) s = v at hmem hmd hactors ⊢
  refine ⟨{ v with md := given.foldl (fun m e => clearT m (e.1 / 64) (e.2 / 64)) v.md }, rfl, hmem, ?_, by rw [hmd]⟩
  exact (congrArg (State.grp _) (State.who_of_actors hactors)).trans (State.grp_of_actors hactors s.who)

/-- The scope of the acquire that LDHDR makes: device scope, system scope for a host or pool address (R389). -/
def State.hdrScopeAt (s : State) (va : Nat) : Nat :=
  match s.lookAt s.who va false with
  | .here pa => if s.isHost pa then 3 else 2
  | _ => 2

/-- What LDHDR leaves before its acquire: the header's sector taken from the core, its page in the TLB, the peer's header used up. -/
def State.hdrTaken (s : State) (va : Nat) : State :=
  ((s.settleSector s.who va).fillFor (s.coreOf s.who) (s.pasidOf s.who) va false).updCur fun g => { g with hdrs := g.hdrs.filter (·.1 != va / 64) }

theorem execLdhdr_is {o : Bool} {hdr : DWord} (hready : scalarReady (.ldhdr d a) [a] [d] s = true) (hplace : placeOk (s.rs a) 64)
    (hacq : s.acqPending s.who false = false) (hheld : s.pagesHeld s.who [(s.rs a).toNat] = false) (hhdr : s.header s.who (s.rs a).toNat = .is o hdr) :
    exec (.ldhdr d a) s = lateResult ((s.hdrTaken (s.rs a).toNat).acquireAt s.who (s.hdrScopeAt (s.rs a).toNat)) d (if o then hdr else 0) := by
  show execLdhdr d a s = _
  rw [execLdhdr, commandOp_ready _ hready (by simp [hplace.1, globalCheck_eq_none.2 hplace.2])]
  dsimp only
  rw [if_neg (by rw [hacq, hheld]; exact Bool.false_ne_true), hhdr]
  rfl

/-- A header of this device's memory, where the party's core buffers nothing. -/
theorem State.header_here {p : Party} {va pa : Nat} (hlook : s.lookAt p va false = .here pa) (hpoison : s.poison.contains (pa / 64) = false)
    (hbuf : (s.core (s.coreOf p)).cbuf = []) : s.header p va = .is (mdH (s.mdOf (pa / 64))) (s.read64 pa) := by
  obtain ⟨-, hstill, hdev, -⟩ := State.settleSector_empty hbuf va
  obtain ⟨hmem, hmd⟩ := State.mem_of_still hstill
  unfold State.header
  rw [hlook]
  dsimp only
  rw [if_neg (by rw [hpoison]; exact Bool.false_ne_true), State.mdOf, State.inRegion_of_still hstill hdev, hmd, State.read64, hmem]
  rfl

/-! ### PUB (R208, R388) -/

/-- The walk that a PUB begins. -/
def State.pubWalk (s : State) (a : SNum) (w : Nat) : Walk :=
  { seq := nextSeq (s.die w).walkSeq, party := s.who, id := s.handles + 4, pasid := s.pasidOf s.who, sigma := (s.par a 1).toNat, root := s.par a 0,
    rst := s.par a 2, ver := s.par a 3, queue := [s.par a 0], scan := none, n := 0, deps := [], stamped := false, failed := false,
    rooted := false, rootAt := none }

/-- The device once a PUB has begun its walk. -/
def State.pubBegun (s : State) (d a : SNum) (w : Nat) : State :=
  let t := (s.awaitScalar d).1
  (t.setDie w { t.die w with walkSeq := nextSeq (s.die w).walkSeq, walks := (t.die w).walks ++ [s.pubWalk a w] }).advance

theorem Group.sempty_outst (g : Group) (d : SNum) (why : RegFill) (l : List Outst) :
    ({ g with outst := l } : Group).sempty d why = { g.sempty d why with outst := l } := by
  unfold Group.sempty
  split <;> rfl

theorem State.updCur_die (s : State) (f : Group → Group) (n : Nat) : (s.updCur f).die n = s.die n :=
  congrArg (KMap.get Die.empty · n) (State.setGrp_dies ..)

theorem State.pubBegun_keeps (s : State) (d a : SNum) (w : Nat) : ((s.pubBegun d a w).die w).walks = (s.die w).walks ++ [s.pubWalk a w] ∧
    (∃ l, (s.pubBegun d a w).cur = { s.cur.sempty d .pending with pc := s.cur.pc + 4, outst := l }) ∧ (s.pubBegun d a w).mem = s.mem := by
  have hdie : (s.awaitScalar d).1.die w = s.die w := congrArg (KMap.get Die.empty · w) (State.setGrp_dies ..)
  have hmem : (s.awaitScalar d).1.mem = s.mem := by simp [State.awaitScalar]
  have hcur : ∃ l, (s.awaitScalar d).1.cur = { s.cur.sempty d .pending with outst := l } := by
    have h : (s.awaitScalar d).1.cur = _ := State.cur_updCur ..
    rw [Group.sempty_outst] at h
    exact ⟨_, h⟩
  obtain ⟨l, hcur⟩ := hcur
  unfold State.pubBegun
  extract_lets t
  refine ⟨?_, ⟨l, ?_⟩, (State.updCur_mem ..).trans hmem⟩
  · rw [State.advance, State.updCur_die, State.die_setDie, hdie]
  · rw [State.advance_cur, show (t.setDie w _).cur = t.cur from rfl, hcur]
    exact congrArg (fun n => ({ s.cur.sempty d .pending with pc := n + 4, outst := l } : Group)) (by rw [Group.sempty_only])

/-- The die of the walker of a PUB. -/
def State.pubDie (s : State) (a : SNum) : Nat := if s.par a 1 = 4 ∨ s.who.isStream = true then 6 else s.dieOf s.who

theorem execPub_begins (hready : scalarReady (.pub d a) (blockRegs a 4) [d] s = true) (hpos : 0 < (s.par a 1).toNat) (hmost : (s.par a 1).toNat ≤ 4)
    (hroot : placeOk (s.par a 0) 64) (hrst : s.par a 2 = 0 ∨ placeOk (s.par a 2) 8) (hzero : (s.par a 1).toNat ≠ 4 → s.par a 3 = 0)
    (hver : (s.par a 1).toNat = 4 → placeOk (s.par a 3) 8 ∧ (∃ pa, s.lookAt s.who (s.par a 3).toNat true = .here pa ∧ s.isHostMem pa = true) ∧ s.lostBits = 0)
    (hfence : s.fenceReady 1 true ((s.par a 1).toNat - 1) = true)
    (hroom : ((s.die (s.pubDie a)).walks.countP fun x => !x.stamped && !x.failed) < Config.walksMax) :
    exec (.pub d a) s = .next (s.pubBegun d a (s.pubDie a)) := by
  have hdie : (if (decide ((s.par a 1).toNat = 4) || s.who.isStream) = true then 6 else s.dieOf s.who) = s.pubDie a :=
    if_congr (by simp [← BitVec.toNat_inj]) rfl rfl
  have hbits : (if (s.par a 1).toNat = 4 then s.lostBits else 0) = 0 := by
    split
    · next h4 => exact (hver h4).2.2
    · rfl
  show execPub d a s = _
  rw [execPub, commandOp_ready _ hready ?checks]
  case checks =>
    obtain ⟨hroot64, hrootlt⟩ := hroot
    have hfields : ¬ (s.par a 1).toNat = 4 → s.par a 3 = 0 := hzero
    rintro c hc
    simp only [List.mem_cons, List.not_mem_nil, or_false] at hc
    obtain rfl | rfl | rfl | rfl | rfl | rfl | rfl := hc
    · simpa [hpos.ne', Nat.not_lt.2 hmost] using hfields
    · simp [hroot64]
    · rcases hrst with h0 | hrst
      · exact if_pos h0
      · exact (ite_eq_left_iff.2 fun _ => alignCheck_eq_none.2 hrst.1)
    · exact ite_eq_right_iff.2 fun h4 => alignCheck_eq_none.2 (hver h4).1.1
    · exact globalCheck_eq_none.2 hrootlt
    · rcases hrst with h0 | hrst
      · rw [h0]
        rfl
      · exact globalCheck_eq_none.2 hrst.2
    · exact ite_eq_right_iff.2 fun h4 => globalCheck_eq_none.2 (hver h4).1.2
  have hwait : ¬ (!s.fenceReady 1 true ((s.par a 1).toNat - 1) ||
      decide (Config.walksMax ≤ (s.die (s.pubDie a)).walks.countP fun x => !x.stamped && !x.failed)) = true := by
    rw [hfence, decide_eq_false (Nat.not_le.2 hroom)]
    exact Bool.false_ne_true
  dsimp only
  rw [hdie, hbits]
  by_cases h4 : (s.par a 1).toNat = 4
  · obtain ⟨-, ⟨pa, hlook, hhost⟩, -⟩ := hver h4
    rw [if_neg (not_not.2 h4), hlook]
    dsimp only
    rw [if_pos hhost, if_neg hwait, if_pos rfl]
    exact if_neg fun h => h.1 rfl
  · rw [if_pos h4, if_neg hwait, if_pos rfl]
    exact if_neg fun h => h.1 rfl

end

/-- Settles O37, instruction by instruction. -/
theorem objectInstructions : Obligations.ObjectInstructions := by
  unfold Obligations.ObjectInstructions
  intro d a rel sc s p h len parts
  refine ⟨fun places hready hpos hlen hplace hend hacq hheld hcount hplaces hregion hroom => ?mkobj, ?stref, fun o hdr hready hplace hacq hheld hhdr => ?ldhdr,
    fun pa va hlook hpoison hbuf => State.header_here hlook hpoison hbuf, ?pub⟩
  case mkobj =>
    obtain ⟨u, hexec, hmem, hcur, hmd⟩ := execMkobj_writes hready hpos hlen hplace hend hacq hheld hcount hplaces hregion hroom
    exact ⟨_, u, hexec, rfl, hmem, hcur, hmd⟩
  case stref =>
    intro w r q hready hfields hheld hacq hrel
    have hrel' : ∀ n, (if rel then some sc.toNat else none) = some n → s.released s.who n = true := fun n hn => by
      cases rel with
      | true => exact Option.some.inj hn ▸ hrel rfl
      | false => exact nomatch hn
    have htrap {c : Nat} {i : DWord} (hneed : ∀ va write, s.refCheck p h w r ≠ .need va write) (haway : ∀ va d pa, s.refCheck p h w r ≠ .away va d pa)
        (hstore : s.refCheck p h w r ≠ .store) (hfault : ∃ m, refFault [(0, s.refCheck p h w r)] = some (c, i, m)) :
        exec (.stref a rel sc) s = .next ((s.dropHeaders q).scalarTrap p c i s.cur.pc []) := by
      obtain ⟨m, l, hissue⟩ := State.issueRef_scalar_fault (x := s.par a 1) hheld hacq hrel' haway hneed hfault hstore
      rw [execStref_issues hready hfields, hissue]
      have hcur : (s.dropHeaders q).cur.pc = s.cur.pc := by rw [State.dropHeaders_cur rfl]
      exact congrArg₂ (fun w pc => Host.Outcome.next ((s.dropHeaders q).scalarTrap w c i pc [])) (State.updGrp_who ..) hcur
    refine ⟨fun hcheck => ?_,
      fun v hcheck => htrap (by rw [hcheck]; nofun) (by rw [hcheck]; nofun) (by rw [hcheck]; nofun) (by rw [hcheck]; exact ⟨_, rfl⟩),
      fun i hcheck => htrap (by rw [hcheck]; nofun) (by rw [hcheck]; nofun) (by rw [hcheck]; nofun) (by rw [hcheck]; exact ⟨_, rfl⟩)⟩
    rw [execStref_issues hready hfields, State.issueRef_scalar_store (x := s.par a 1) hheld hacq hrel' (by rw [hcheck]; nofun) hcheck]
    rfl
  case ldhdr => exact execLdhdr_is hready hplace hacq hheld hhdr
  case pub =>
    intro w ver hready hpos hmost hroot hrst hzero hver hfence hroom
    refine ⟨s.pubBegun d a w, s.pubWalk a w, execPub_begins hready hpos hmost hroot hrst hzero hver hfence hroom, ?_⟩
    obtain ⟨hwalks, ⟨l, hcur⟩, hmem⟩ := s.pubBegun_keeps d a w
    rw [hwalks, hcur]
    exact ⟨rfl, rfl, rfl, rfl, rfl, rfl, rfl, rfl, rfl, fun hd => Group.sfull_sempty_same hd (by decide), hmem⟩

end Sys2Proof.Machine
end

section
/-! What a group takes back from its core's matrix sequencer: MWAIT's end or trap and MLDC's columns (06 R147; 08 R204; 16 R370, R373). -/

namespace Sys2Proof.Machine

/-! ### MWAIT (R370) -/

/-- The earlier issued of the command found so far and another one. -/
def SeqFault.earlier (m : Option SeqFault) (f : SeqFault) : Option SeqFault :=
  match m with
  | none => some f
  | some x => if f.id < x.id then some f else some x

theorem SeqFault.foldl_earlier_some (l : List SeqFault) (x : SeqFault) :
    ∃ f, l.foldl SeqFault.earlier (some x) = some f ∧ f ∈ x :: l ∧ ∀ g ∈ x :: l, f.id ≤ g.id := by
  induction l generalizing x with
  | nil => exact ⟨x, rfl, by simp, by simp⟩
  | cons y l ih =>
    obtain ⟨z, hz, hmem, hle⟩ : ∃ z, SeqFault.earlier (some x) y = some z ∧ z ∈ [x, y] ∧ z.id ≤ x.id ∧ z.id ≤ y.id := by
      by_cases h : y.id < x.id
      · exact ⟨y, if_pos h, by simp, h.le, le_rfl⟩
      · exact ⟨x, if_neg h, by simp, le_rfl, not_lt.1 h⟩
    obtain ⟨f, hf, hin, hleast⟩ := ih z
    have hfz : f.id ≤ z.id := hleast z List.mem_cons_self
    refine ⟨f, by rw [List.foldl_cons, hz]; exact hf, ?member, ?least⟩
    case member => simp only [List.mem_cons, List.not_mem_nil, or_false] at hin hmem ⊢; grind
    case least =>
      intro g hg
      obtain rfl | rfl | hg := by simpa using hg
      · exact hfz.trans hle.1
      · exact hfz.trans hle.2
      · exact hleast g (List.mem_cons_of_mem _ hg)

/-- The command that MWAIT reports is the earliest issued of those that stopped. -/
theorem SeqFault.foldl_earlier {l : List SeqFault} (hne : l ≠ []) : ∃ f ∈ l, l.foldl SeqFault.earlier none = some f ∧ ∀ g ∈ l, f.id ≤ g.id := by
  obtain ⟨x, l, rfl⟩ := List.exists_cons_of_ne_nil hne
  obtain ⟨f, hf, hin, hleast⟩ := SeqFault.foldl_earlier_some l x
  exact ⟨f, hin, hf, hleast⟩

section

variable {s : State} {slot : Option Nat}

/-- The stopped commands of the executing group on a slot, or on all. -/
def State.stoppedOn (s : State) (slot : Option Nat) : List SeqFault := s.cur.seqFaults.filter fun f => slot = none ∨ slot = some f.slot

theorem mwaitOn_eq : mwaitOn slot s =
    if s.seqBusy slot then blockedOut s
    else match (s.stoppedOn slot).foldl SeqFault.earlier none with
      | some f => trapAt (s.updCur fun g => { g with seqFaults := g.seqFaults.erase f }) f.cause.toNat f.info
      | none => doneAt (s.settleSlots slot) := by
  have hon : (fun f : SeqFault => match slot with | some k => f.slot == k | none => true) = fun f => decide (slot = none ∨ slot = some f.slot) := by
    funext f
    cases slot with
    | none => simp
    | some k => exact Bool.eq_iff_iff.2 (by simp only [beq_iff_eq, reduceCtorEq, Option.some.injEq, false_or, decide_eq_true_eq, eq_comm (a := k)])
  unfold mwaitOn State.stoppedOn
  rw [← hon]
  rfl

/-- What the MWAIT of a slot, or of all, comes to (R370). -/
def State.mwaitOuts (s : State) (slot : Option Nat) (o : Out) : Prop :=
  (s.seqBusy slot = true → o = .next { s with stalled := true, starved := true }) ∧
  (s.seqBusy slot = false → s.stoppedOn slot = [] → o = .next (s.settleSlots slot).advance) ∧
  (s.seqBusy slot = false → s.stoppedOn slot ≠ [] → ∃ f ∈ s.stoppedOn slot, (∀ g ∈ s.stoppedOn slot, f.id ≤ g.id) ∧
    o = .next ((s.updCur fun g => { g with seqFaults := g.seqFaults.erase f }).scalarTrap s.who f.cause.toNat f.info s.cur.pc []))

theorem mwaitOn_outs : s.mwaitOuts slot (mwaitOn slot s) := by
  refine ⟨fun hbusy => ?busy, fun hidle hnone => ?done, fun hidle hsome => ?trap⟩
  case busy => rw [mwaitOn_eq, if_pos hbusy]; rfl
  case done => rw [mwaitOn_eq, hidle, hnone]; rfl
  case trap =>
    obtain ⟨f, hf, hfirst, hleast⟩ := SeqFault.foldl_earlier hsome
    refine ⟨f, hf, hleast, ?_⟩
    rw [mwaitOn_eq, hidle, hfirst]
    show trapAt _ _ _ = _
    rw [trapAt, State.cur_updCur, State.updCur_who]

end

/-! ### MLDC (R373) -/

section

variable {s : State} {a : SNum}

/-- The registers that a load into n vector registers empties. -/
theorem Group.vreg_emptyDest (g : Group) (b n r : Nat) : (g.emptyDest (.vec b) n).vreg r =
    if b ≤ r ∧ r < b + n ∧ r < 112 then { g.vreg r with full := false } else g.vreg r := by
  induction n with
  | zero =>
    rw [if_neg (by omega)]
    rfl
  | succ n ih =>
    have hsucc : g.emptyDest (.vec b) (n + 1) =
        (g.emptyDest (.vec b) n).setV (b + n) { (g.emptyDest (.vec b) n).vreg (b + n) with full := false } := by
      simp only [Group.emptyDest, List.range_succ, List.foldl_append, List.foldl_cons, List.foldl_nil]
    rw [hsucc, Group.vreg_setV, ih]
    by_cases hr : r = b + n
    · subst hr
      rw [ih]
      grind
    · grind

/-- Emptying vector registers touches nothing else of the group. -/
theorem Group.emptyDest_vec_only (g : Group) (b n : Nat) : g.emptyDest (.vec b) n = { g with vregs := (g.emptyDest (.vec b) n).vregs } := by
  refine List.foldlRecOn (motive := fun h : Group => h = { g with vregs := h.vregs }) _ _ rfl fun h hh j _ => ?_
  rw [Group.setV_only, hh]

/-- The request under which MLDC's columns reach their registers. -/
def State.columnReq (s : State) : MemReq := { MemReq.blank s.who false with lanes := s.cur.live }

/-- A slot on which no command of the group's team is open to it: none but an output, or one that the group has observed (R204). -/
def State.slotSettled (s : State) (slot : Nat) : Prop :=
  ∀ q ∈ s.curCore.seq ++ s.curCore.past, q.onTeam = s.who.teamOf → q.slot = slot → (∃ m, q.kind = .mout m) ∨ s.who.gidOf.val ∈ q.seen

theorem State.slotSettled_closed {slot : Nat} (h : s.slotSettled slot) :
    ((s.curCore.seq ++ s.curCore.past).any fun q => q.onTeam == s.who.teamOf && q.slot == slot && !q.settledFor s.who.teamOf s.who.gidOf.val &&
      (match q.kind with | .mout _ => false | _ => true)) = false := by
  refine List.any_eq_false.2 fun q hq hopen => ?_
  simp only [Bool.and_eq_true, beq_iff_eq, Bool.not_eq_true'] at hopen
  obtain ⟨⟨⟨hteam, hslot⟩, hunseen⟩, hkind⟩ := hopen
  rcases h q hq hteam hslot with ⟨m, hm⟩ | hseen
  · rw [hm] at hkind
    exact absurd hkind Bool.false_ne_true
  · have hsettled : q.settledFor s.who.teamOf s.who.gidOf.val = true := by simp [SeqCmd.settledFor, hteam, hseen]
    exact absurd (hsettled.symm.trans hunseen) (by decide)

theorem State.updGrp_cur {p : Party} (hparty : p = s.who) (f : Group → Group) : (s.updGrp p f).cur = f s.cur := by
  subst hparty
  exact State.cur_updCur s f

/-- A result that is there at once and reaches its register later is the group's newest. -/
theorem State.late_cur {q : MemReq} (hparty : q.party = s.who) (dest : Dest) (origin : Origin) (check : Option (DWord × Word)) (f : Outst → Outst) :
    ∃ o, (s.late q dest origin check f).cur = { s.cur with outst := s.cur.outst ++ [f o] } ∧ o.dest = dest ∧ o.lanes = q.lanes := by
  refine ⟨outstOf { s with handles := s.handles + 1 } { q with id := s.handles + 4 } dest origin check, ?_, rfl, rfl⟩
  exact State.updGrp_cur (s := { s with handles := s.handles + 1 }) hparty _

/-- MLDC of a legal word takes its columns for registers that fill later; where the slot is settled they are the accumulator's. -/
theorem execMldc_late {vb nc slot row col : Nat} (hvb : fieldN (s.rs a) 4 7 = vb) (hnc : fieldN (s.rs a) 23 7 = nc) (hslot : fieldN (s.rs a) 0 4 = slot)
    (hrow : fieldN (s.rs a) 11 6 = row) (hcol : fieldN (s.rs a) 17 6 = col) (hready : scalarReady (.mldc a) [a] [] s = true)
    (hzero : fieldN (s.rs a) 30 34 = 0) (hrows : row ≤ 32) (hsome : nc ≠ 0) (hcols : col + nc ≤ 64) (hregs : vb + nc ≤ s.cur.nreg)
    (hslots : slot < s.curTeam.accMap.length) (hfull : ∀ j < nc, (s.cur.vreg (vb + j)).full = true) :
    ∃ (words : List (Vector LaneVal 32)) (check : Option (DWord × Word)) (n : Nat),
      exec (.mldc a) s = .next (((s.late s.columnReq (.vec vb) .scalar check fun o => { o with words := words }).updCur
        (·.emptyDest (.vec vb) nc)).bumpBy n).advance ∧ words.length = nc ∧
      (s.slotSettled slot → ∀ j < nc, ∀ i : Fin 32, ((words[j]?).map fun v => v[i]) =
        some ⟨s.curCore.accWord (s.curTeam.accSlot slot) (row + i.val) (col + j), s.curCore.rowBound (s.curTeam.accSlot slot) (row + i.val)⟩) := by
  show ∃ words check n, execMldc a s = _ ∧ _
  subst hvb hnc hslot hrow hcol
  rw [execMldc, commandOp_ready _ hready (by simp [State.slotCheck, hzero, hsome]; omega)]
  extract_lets w nc vb own c slot ps unset word words q t
  have hfree : (List.range nc).any (fun j => !(s.cur.vreg (vb + j)).full && !own.contains (vb + j)) = false := by
    refine List.any_eq_false.2 fun j hj => ?_
    simp [vb, w, hfull j (List.mem_range.1 hj)]
  rw [if_neg (Bool.eq_false_iff.1 hfree)]
  refine ⟨words, if (allow s.cur.alw).chkall && !unset then some (s.cur.alw, s.cur.fmt) else none, if unset then 2048 else 0, rfl, by simp [words, nc, w], ?_⟩
  intro hsettled j hj i
  have hclosed : unset = false := State.slotSettled_closed hsettled
  have hget : (List.range nc)[j]? = some j := List.getElem?_range hj
  simp only [words, List.getElem?_map, hget, Option.map_some, Fin.getElem_fin, Vector.getElem_ofFn, word, hclosed]
  rfl

end

/-! ### The statement -/

/-- Settles O36: MWAIT waits, ends or reports the earliest stopped command of its slot, and MLDC's columns are those of a settled slot. -/
theorem matrixResults : Obligations.MatrixResults := by
  unfold Obligations.MatrixResults
  intro a n s
  refine ⟨fun hready hslot => ?mwait, fun hready => ?mwaitAll, ?mldc⟩
  case mwait =>
    have hexec : exec (.mwait n) s = mwaitOn (some n.toNat) s := by
      show execMwait n s = _
      rw [execMwait, commandOp_ready _ hready (by simpa [State.slotCheck] using hslot)]
    exact (congrArg (s.mwaitOuts _) hexec).mpr mwaitOn_outs
  case mwaitAll =>
    have hexec : exec .mwaitAll s = mwaitOn none s := by
      show execMwaitAll s = _
      rw [execMwaitAll, commandOp_ready _ hready (by simp)]
    exact (congrArg (s.mwaitOuts _) hexec).mpr mwaitOn_outs
  case mldc =>
    intro w slot vb row col nc ps hready hzero hrows hsome hcols hregs hslots hfull
    obtain ⟨words, check, k, hexec, hlen, hwords⟩ := execMldc_late (a := a) rfl rfl rfl rfl rfl hready hzero hrows hsome hcols hregs hslots hfull
    obtain ⟨o, hlate, hdest, hlanes⟩ := State.late_cur (s := s) (q := s.columnReq) rfl (.vec vb) .scalar check fun o => { o with words := words }
    have hmem : (s.late s.columnReq (.vec vb) .scalar check fun o => { o with words := words }).mem = s.mem := State.updGrp_mem ..
    generalize (s.late s.columnReq (.vec vb) .scalar check fun o => { o with words := words }) = t at hexec hlate hmem
    have hcur : (((t.updCur (·.emptyDest (.vec vb) nc)).bumpBy k).advance).cur =
        { t.cur with vregs := (t.cur.emptyDest (.vec vb) nc).vregs, pc := t.cur.pc + 4 } := by
      have hbump : ((t.updCur (·.emptyDest (.vec vb) nc)).bumpBy k).cur = (t.updCur (·.emptyDest (.vec vb) nc)).cur := rfl
      rw [State.advance_cur, hbump, State.cur_updCur, Group.emptyDest_vec_only]
    refine ⟨_, hexec, ?pc, ?sregs, ?mem, ?empty, ?result⟩
    case pc => rw [hcur, hlate]
    case sregs => rw [hcur, hlate]
    case mem => simpa using hmem
    case empty =>
      intro hfit j hj
      have hvreg (g : Group) (pc : BitVec 57) (r : Nat) : ({ t.cur with vregs := g.vregs, pc := pc } : Group).vreg r = g.vreg r := rfl
      rw [hcur, hvreg, Group.vreg_emptyDest, if_pos (by omega)]
    case result =>
      exact ⟨{ o with words := words }, by rw [hcur, hlate], hdest, hlanes, hlen, hwords⟩

end Sys2Proof.Machine
end

section
/-! The commands that a group gives to its core's matrix sequencer: MLOOP, MZERO, MOUT, MGANG, MREADY (06 R147, R163; 08 R204; 16 R365 to R369,
R371, R372). -/

namespace Sys2Proof.Machine

/-! ### A command's checks (R253, R360) -/

theorem checked_none (s : State) (l : List (Option (Nat × DWord))) (body : Out) : checked s (none :: l) body = checked s l body := rfl

theorem checked_some (s : State) (c : Nat) (x : DWord) (l : List (Option (Nat × DWord))) (body : Out) :
    checked s (some (c, x) :: l) body = trapAt s c x := rfl

theorem checked_pass {s : State} {l : List (Option (Nat × DWord))} (h : ∀ c ∈ l, c = none) (body : Out) : checked s l body = body := by
  have hnone : l.findSome? id = none := List.findSome?_eq_none_iff.2 h
  rw [checked, hnone]

section

variable {i : Instr} {reads writes : List SNum} {s : State}

/-- Registers that are full raise no EMPTY. -/
theorem raisesEmpty_ready (hready : scalarReady i reads writes s = true) : raisesEmpty reads writes s = false := by
  unfold scalarReady at hready
  simp only [Bool.and_eq_true] at hready
  rw [raisesEmpty, needRegs_full _ hready.1.2 hready.2]
  rfl

/-- A ready command makes its checks, and those before its registers are among them. -/
theorem commandOp_checked (checks : State → List (Option (Nat × DWord))) (f : State → Out) (pre : List (Option (Nat × DWord)))
    (hready : scalarReady i reads writes s = true) : commandOp i reads writes checks f s pre = checked s (checks s) (f s) := by
  rw [commandOp, raisesEmpty_ready hready, Bool.and_false, if_neg Bool.false_ne_true]
  exact gated_ready _ hready

end

/-! ### The sequencer's queue (R365 to R367, R371, R372) -/

section

variable {s : State} {a b : SNum} {n : BitVec 6}

/-- A command takes its place in the queue where there is room, and waits elsewhere. -/
theorem State.queueCmd_outs (s : State) (slot : Nat) (kind : SeqKind) :
    (s.curCore.seqRoom = true → s.queueCmd slot kind = .next (s.commanded slot kind)) ∧
      (¬ s.curCore.seqRoom = true → s.queueCmd slot kind = .next { s with stalled := true }) := by
  refine ⟨fun hroom => ?_, fun hfull => ?_⟩
  · rw [State.queueCmd, hroom]
    rfl
  · rw [State.queueCmd, Bool.eq_false_iff.2 hfull]
    rfl

/-- The checks that a loop and a gang share pass (R366, R367, R411). -/
def State.loopSound (s : State) (a : SNum) : Prop :=
  s.loopFeature (s.loopOf a) = none ∧ s.loopIll a (s.loopOf a) = false ∧ fieldN (s.par a 0) 0 4 < s.curTeam.accMap.length ∧
    (∀ e ∈ (s.loopOf a).aligns, e = none) ∧ ∀ e ∈ s.loopAccess (s.loopOf a) ++ s.streamAccess (s.loopOf a), e = none

theorem State.slotCheck_eq_none {slot : Nat} : s.slotCheck slot = none ↔ slot < s.curTeam.accMap.length := by
  simp [State.slotCheck]

theorem exec_mloop (hready : scalarReady (.mloop a) (blockRegs a 6) [] s = true) (hsound : s.loopSound a) (hphase : s.phaseCheck (s.loopOf a) = none) :
    exec (.mloop a) s = s.queueCmd (fieldN (s.par a 0) 0 4) (.loop (s.loopOf a)) := by
  obtain ⟨hfeature, hill, hslot, haligns, haccess⟩ := hsound
  show execMloop a s = _
  rw [execMloop, commandOp_checked _ _ _ hready]
  refine checked_pass (fun c hc => ?_) _
  simp only [hfeature, hill, hphase, State.slotCheck_eq_none.2 hslot, List.append_assoc, List.mem_append, List.mem_cons, List.not_mem_nil,
    or_false] at hc
  rcases hc with (rfl | rfl | rfl | rfl) | hc | hc
  · rfl
  · rfl
  · rfl
  · rfl
  · exact haligns c hc
  · exact haccess c (List.mem_append.2 hc)

theorem exec_mzero (hready : scalarReady (.mzero n) [] [] s = true) : exec (.mzero n) s = checked s [s.slotCheck n.toNat] (s.queueCmd n.toNat .zero) := by
  show execMzero n s = _
  rw [execMzero, commandOp_checked _ _ _ hready]

/-- The block of an MOUT is legal (R372). -/
structure State.OutSound (s : State) (a : SNum) : Prop where
  whole : (s.moutOf a).aon = true → s.feature 9 = true ∧ (s.moutOf a).dspc = false ∧ (s.moutOf a).dadr.toNat % 8 = 0 ∧ 8 ≤ (s.moutOf a).dadr.toNat
  scope : (s.moutOf a).aon = false → (s.moutOf a).sc = 0
  format : (s.moutOf a).ofmt.toNat < 14
  exactRound : 8 ≤ (s.moutOf a).ofmt.toNat → (s.moutOf a).rnd = 0
  round : (s.moutOf a).rnd.toNat ≤ 4
  zeroHigh : fieldN (s.par a 0) 28 36 = 0
  zeroStride : fieldN (s.par a 2) 32 32 = 0
  slot : fieldN (s.par a 0) 0 4 < s.curTeam.accMap.length
  aligned : (s.moutOf a).dadr.toNat % 4 = 0
  strideAligned : (s.moutOf a).rstr % 4 = 0

/-- Bytes of a row that an MOUT writes. -/
def MoutParams.rowBytes (o : MoutParams) : Nat := 4 * ceilDiv o.n (fmtElems o.ofmt.toNat)

theorem exec_mout (hready : scalarReady (.mout a) (blockRegs a 3) [] s = true) (hsound : s.OutSound a)
    (hscratch : (s.moutOf a).dspc = true → ∀ i < (s.moutOf a).m,
      s.scratchRowOk s.who.teamOf ((s.moutOf a).dadr.toNat + i * (s.moutOf a).rstr) (s.moutOf a).rowBytes = true)
    (hglobal : (s.moutOf a).dspc = false → spanIn (s.moutOf a).dadr.toNat [((s.moutOf a).rowBytes, 1), ((s.moutOf a).m, (s.moutOf a).rstr)] (2 ^ 57) = true ∧
      ((s.moutOf a).aon = true → s.absent s.who ((s.moutOf a).dadr.toNat - 8) 8 true = none) ∧
      s.absentRow s.who (s.moutOf a).m (s.moutOf a).rowBytes (fun i => (s.moutOf a).dadr.toNat + i * (s.moutOf a).rstr) true = none) :
    exec (.mout a) s = s.queueCmd (fieldN (s.par a 0) 0 4) (.mout (s.moutOf a)) := by
  obtain ⟨hwhole, hscope, hformat, hexact, hround, hhigh, hstride, hslot, haligned, hstrideAligned⟩ := hsound
  show execMout a s = _
  rw [execMout, commandOp_checked _ _ _ hready]
  refine checked_pass ?_ _
  dsimp only
  unfold MoutParams.rowBytes at hscratch hglobal
  generalize s.moutOf a = o at *
  simp only [List.forall_mem_cons, check_eq_none, State.slotCheck_eq_none, alignCheck_eq_none]
  refine ⟨?feature, ?fields, hslot, haligned, ?stride, ?whole, ?outside, ?absent, by simp⟩
  case feature =>
    cases haon : o.aon with
    | false => rfl
    | true => simp [(hwhole haon).1]
  case fields =>
    have hrnd : (if 8 ≤ o.ofmt.toNat then o.rnd != 0 else decide (4 < o.rnd.toNat)) = false := by
      split
      · simp [hexact ‹_›]
      · simpa using hround
    have hown : (!o.aon && o.sc != 0) = false ∧ (o.aon && o.dspc) = false := by
      cases haon : o.aon with
      | false => simp [hscope haon]
      | true => simp [(hwhole haon).2.1]
    rw [hrnd, hown.1, hown.2]
    simp [hformat, hhigh, hstride]
  case stride => simp [hstrideAligned]
  case whole =>
    cases haon : o.aon with
    | false => rfl
    | true => simp [(hwhole haon).2.2.1]
  case outside =>
    cases hspace : o.dspc with
    | true =>
      have hrows : ((List.range o.m).all fun i => s.scratchRowOk s.who.teamOf (o.dadr.toNat + i * o.rstr) (4 * ceilDiv o.n (fmtElems o.ofmt.toNat))) = true :=
        List.all_eq_true.2 fun i hi => hscratch hspace i (List.mem_range.1 hi)
      rw [if_pos rfl, hrows]
      rfl
    | false =>
      rw [if_neg Bool.false_ne_true, (hglobal hspace).1]
      cases haon : o.aon with
      | false => rfl
      | true => simp [(hwhole haon).2.2.2]
  case absent =>
    cases hspace : o.dspc with
    | true => rfl
    | false =>
      obtain ⟨-, hversion, hrows⟩ := hglobal hspace
      rw [if_neg Bool.false_ne_true, hrows]
      cases haon : o.aon with
      | false => rfl
      | true => rw [if_pos rfl, hversion haon]; rfl

/-- What MGANG adds to a loop's block: it is legal, and the members it names are of the cluster (R163, R368). -/
structure State.GangSound (s : State) (a b : SNum) : Prop where
  loop : s.loopSound a
  memory : (s.loopOf a).asrcReg = false
  mask : (s.loopOf a).cmask = 0
  event : (s.par a 6).toNat < 2 ^ 19
  named : (s.rs b).toNat < 2 ^ 12
  aligned : (s.par a 6).toNat % 8 = 0
  inside : (s.par a 6).toNat + 8 ≤ (s.grid s.curTeam.grid).scrBytes
  members : s.badMembers (s.rs b) = 0

/-- The record of a gang from its issue (R163). -/
def State.gangOf (s : State) (a b : SNum) : Gang :=
  { team := s.who.teamOf, gid := s.who.gidOf, slot := fieldN (s.par a 0) 0 4, members := s.members (s.rs b), pending := s.members (s.rs b),
    evoff := (s.par a 6).toNat, faults := [] }

/-- The shares of a gang put in the queues of its members change no group and no memory. -/
theorem State.foldl_updCore_keeps (l : List Nat) (place : State → Nat → Nat) (f : Nat → Core → Core) (s : State) :
    (l.foldl (fun t h => t.updCore (place t h) (f h)) s).cur = s.cur ∧ (l.foldl (fun t h => t.updCore (place t h) (f h)) s).mem = s.mem ∧
      (l.foldl (fun t h => t.updCore (place t h) (f h)) s).gangs = s.gangs := by
  simpa only [Prod.mk.injEq] using
    foldl_keeps (fun t : State => (t.cur, t.mem, t.gangs)) _ (fun t h => by rw [State.updCore_cur]; rfl) l s

theorem State.advance_gangs : s.advance.gangs = s.gangs := by
  obtain ⟨teams, streams, h⟩ := State.updCur_only (s := s) fun g => { g with pc := g.pc + 4 }
  rw [State.advance, h]

theorem exec_mgang (hready : scalarReady (.mgang a b) (blockRegs a 7 ++ [b]) [] s = true) (hsound : s.GangSound a b) :
    (s.members (s.rs b) = [] → exec (.mgang a b) s = .next s.advance) ∧
      (s.members (s.rs b) ≠ [] → (∀ h ∈ s.members (s.rs b), (s.core (s.team h).core).seqRoom = true) →
        ∃ t, exec (.mgang a b) s = .next t ∧ t.cur = { s.cur with pc := s.cur.pc + 4 } ∧ t.mem = s.mem ∧
          t.gangs = KMap.ins s.gangs (s.handles + 4) (s.gangOf a b)) := by
  show (_ → execMgang a b s = _) ∧ (_ → _ → ∃ t, execMgang a b s = _ ∧ _)
  rw [execMgang, commandOp_checked _ _ _ hready, checked_pass ?checks]
  case checks =>
    obtain ⟨⟨hfeature, hill, hslot, haligns, haccess⟩, hmemory, hmask, hevent, hnamed, haligned, hinside, hmembers⟩ := hsound
    intro c hc
    simp only [hfeature, hill, hmemory, hmask, zeroAbove_of_lt hevent, zeroAbove_of_lt hnamed, State.slotCheck_eq_none.2 hslot,
      alignCheck_eq_none.2 haligned, State.ownCheck_eq_none.2 hinside, hmembers, List.append_assoc, List.mem_append, List.mem_cons,
      List.not_mem_nil, or_false] at hc
    rcases hc with (rfl | rfl | rfl) | hc | rfl | hc | hc | rfl | rfl
    · rfl
    · rfl
    · rfl
    · exact haligns c hc
    · rfl
    · exact haccess c (List.mem_append_left _ hc)
    · exact haccess c (List.mem_append_right _ hc)
    · rfl
    · rfl
  extract_lets ms id slot loop p g cmd t
  refine ⟨fun hnone => ?none, fun hsome hroom => ?some⟩
  case none =>
    have hempty : ms.isEmpty = true := List.isEmpty_iff.2 hnone
    rw [if_pos hempty]
    rfl
  case some =>
    have hmembers : ¬ ms.isEmpty = true := fun h => hsome (List.isEmpty_iff.1 h)
    have hfits : ¬ (ms.any fun h => !(s.core (s.team h).core).seqRoom) = true := by simpa using hroom
    rw [if_neg hmembers, if_neg hfits]
    obtain ⟨hcur, hmem, hgangs⟩ := State.foldl_updCore_keeps ms (fun t h => (t.team h).core) (fun h c => { c with seq := c.seq ++ [cmd h] }) t
    refine ⟨_, rfl, ?cur, ?mem, ?gangs⟩
    case cur => rw [State.advance_cur, hcur]; rfl
    case mem => rw [State.advance_mem, hmem]
    case gangs => rw [State.advance_gangs, hgangs]; rfl

/-! ### The tokens (R204, R369) -/

theorem State.setGrp_gangToken (p : Party) (g : Group) (n : Nat) : ((s.setGrp p g).team n).gangToken = (s.team n).gangToken := by
  cases p with
  | stream k => rfl
  | group h k =>
    by_cases hn : n = h
    · subst hn
      rw [State.setGrp, State.team_setTeam]
      rfl
    · rw [State.setGrp, State.team_setTeam_other _ _ hn]

/-- The group after its writes went to its tokens: they are watched anew (R204). -/
def Group.watchedAnew (g : Group) : Group := { g with ready := g.ready.map (·.union ((g.watched).getD ⟨[], []⟩)), watched := some ⟨[], []⟩ }

/-- The team's gang token is no part of its groups. -/
theorem State.setTeam_gangToken_grp (h : Nat) (k : Fin 16) (tok : Option (Fin 16 × Touched)) :
    (s.setTeam h { s.team h with gangToken := tok }).grp (.group h k) = s.grp (.group h k) := by
  show ((s.setTeam h _).team h).groups.get k = _
  rw [State.team_setTeam]
  rfl

/-- What watching anew leaves of the state (R204). -/
theorem State.watch_keeps (h : Nat) (k : Fin 16) :
    (s.watch h k).grp (.group h k) = (s.grp (.group h k)).watchedAnew ∧ (s.watch h k).mem = s.mem ∧ (s.watch h k).who = s.who := by
  unfold State.watch
  extract_lets w add t u v
  have hgrp : v.grp (.group h k) = s.grp (.group h k) := State.setTeam_gangToken_grp h k _
  refine ⟨?grp, ?mem, ?who⟩
  case grp => rw [State.updGrp_grp, hgrp]; rfl
  case mem => rw [State.updGrp_mem]; rfl
  case who => rw [State.updGrp_who]; rfl

/-- MREADY and MREADY.gang are for groups alone (R369). -/
theorem State.who_group {i : Instr} {reads writes : List SNum} (hready : scalarReady i reads writes s = true) (hill : streamIllegal i = true) :
    ∃ h k, s.who = .group h k := by
  have hlegal := scalarLegal_of_ready hready
  simp only [scalarLegal, hill, Bool.and_true, Bool.and_eq_true, Bool.not_eq_true'] at hlegal
  cases hwho : s.who with
  | group h k => exact ⟨h, k, rfl⟩
  | stream k =>
    obtain ⟨⟨⟨hgroup, -⟩, -⟩, -⟩ := hlegal
    rw [hwho] at hgroup
    exact Bool.noConfusion hgroup

/-- The executing group's writes are watched anew. -/
theorem State.watch_cur {h : Nat} {k : Fin 16} (hwho : s.who = .group h k) : (s.watch s.who.teamOf s.who.gidOf).cur = s.cur.watchedAnew := by
  obtain ⟨hgrp, -, hsame⟩ := s.watch_keeps h k
  show (s.watch s.who.teamOf s.who.gidOf).grp (s.watch s.who.teamOf s.who.gidOf).who = _
  simp only [hwho, Party.teamOf, Party.gidOf, State.cur]
  rw [hsame, hwho, hgrp]

/-- The team's gang token given by the executing group (R369). -/
def State.giveGangToken (s : State) : State := s.setTeam s.who.teamOf { s.curTeam with gangToken := some (s.who.gidOf, ⟨[], []⟩) }

theorem State.giveGangToken_cur {h : Nat} {k : Fin 16} (hwho : s.who = .group h k) : s.giveGangToken.cur = s.cur := by
  show s.giveGangToken.grp s.who = s.grp s.who
  unfold State.giveGangToken State.curTeam
  rw [hwho]
  exact State.setTeam_gangToken_grp h k _

/-- The token that a team has once the executing group has given it and gone on. -/
theorem State.giveGangToken_token : s.giveGangToken.advance.curTeam.gangToken = some (s.who.gidOf, ⟨[], []⟩) := by
  unfold State.curTeam
  rw [State.advance_who]
  show ((s.giveGangToken.setGrp _ _).team s.who.teamOf).gangToken = _
  rw [State.setGrp_gangToken, State.giveGangToken, State.team_setTeam]

theorem exec_mready (hready : scalarReady .mready [] [] s = true) (hrel : s.released s.who 0 = true) (hquiet : s.cur.vecsQuiet = true) :
    exec .mready s = .next (if s.cur.ready.isSome then s.advance
      else ((s.watch s.who.teamOf s.who.gidOf).updCur fun g => { g with ready := some ⟨[], []⟩ }).advance) := by
  refine (gate_ready _ hready).trans ?_
  rw [if_neg (by simp [hrel, hquiet])]
  by_cases h : s.cur.ready.isSome = true
  · rw [if_pos h, if_pos h]; rfl
  · rw [if_neg h, if_neg h]; rfl

theorem exec_mreadyGang (hready : scalarReady .mreadyGang [] [] s = true) (hrel : s.released s.who 0 = true) (hquiet : s.cur.vecsQuiet = true) :
    exec .mreadyGang s = .next (if s.curTeam.gangToken.isSome then s.advance
      else (s.watch s.who.teamOf s.who.gidOf).giveGangToken.advance) := by
  refine (gate_ready _ hready).trans ?_
  rw [if_neg (by simp [hrel, hquiet])]
  by_cases h : s.curTeam.gangToken.isSome = true
  · rw [if_pos h, if_pos h]; rfl
  · rw [if_neg h, if_neg h]; rfl

end

/-! ### The statement -/

/-- Settles O35: each command's checks pass, and what it does is then its place in the queue, its gang or its token. -/
theorem matrixCommands : Obligations.MatrixCommands := by
  unfold Obligations.MatrixCommands
  intro a b n s slot slots room p sound stop
  refine ⟨?mloop, ?mzero, ?accslot, ?mout, ?mgang, ?mready, ?mreadyGang⟩
  case mloop =>
    intro hready hsound hphase
    have hexec : exec (.mloop a) s = s.queueCmd slot (.loop p) := exec_mloop hready hsound hphase
    simp only [stop, hexec]
    exact s.queueCmd_outs slot (.loop p)
  case mzero =>
    intro hready hslot
    have hexec : exec (.mzero n) s = s.queueCmd n.toNat .zero := by
      rw [exec_mzero hready, State.slotCheck_eq_none.2 hslot]
      rfl
    simp only [stop, hexec]
    exact s.queueCmd_outs n.toNat .zero
  case accslot =>
    intro hready hslot
    rw [exec_mzero hready, State.slotCheck, check, if_pos (decide_eq_true hslot)]
    rfl
  case mout =>
    intro o w len hready hwhole hscope hformat hexact hround hhigh hstride hslot haligned hstrideAligned hscratch hglobal
    have hexec : exec (.mout a) s = s.queueCmd slot (.mout o) :=
      exec_mout hready ⟨hwhole, hscope, hformat, hexact, hround, hhigh, hstride, hslot, haligned, hstrideAligned⟩ hscratch hglobal
    simp only [stop, hexec]
    exact s.queueCmd_outs slot (.mout o)
  case mgang =>
    intro hready hsound hmemory hmask hevent hnamed haligned hinside hmembers
    exact exec_mgang hready ⟨hsound, hmemory, hmask, hevent, hnamed, haligned, hinside, hmembers⟩
  case mready =>
    intro hready hrel hquiet
    obtain ⟨h, k, hwho⟩ := State.who_group hready rfl
    refine ⟨_, exec_mready hready hrel hquiet, ?_⟩
    by_cases htoken : s.cur.ready.isSome = true
    · rw [if_pos htoken, State.advance_cur, State.advance_mem]
      refine ⟨rfl, rfl, rfl, rfl, fun _ => rfl, fun hnone => ?_⟩
      exact absurd (hnone ▸ htoken) (by decide)
    · obtain ⟨-, hmem, -⟩ := s.watch_keeps s.who.teamOf s.who.gidOf
      rw [if_neg htoken, State.advance_cur, State.advance_mem, State.cur_updCur, State.watch_cur hwho, State.updCur_mem, hmem]
      exact ⟨rfl, rfl, rfl, rfl, fun hsome => absurd hsome htoken, fun _ => ⟨rfl, rfl⟩⟩
  case mreadyGang =>
    intro hready hrel hquiet
    obtain ⟨h, k, hwho⟩ := State.who_group hready rfl
    refine ⟨_, exec_mreadyGang hready hrel hquiet, ?_⟩
    by_cases htoken : s.curTeam.gangToken.isSome = true
    · rw [if_pos htoken, State.advance_cur, State.advance_mem]
      refine ⟨rfl, rfl, rfl, rfl, fun _ => rfl, fun hnone => ?_⟩
      exact absurd (hnone ▸ htoken) (by decide)
    · obtain ⟨-, hmem, hsame⟩ := s.watch_keeps s.who.teamOf s.who.gidOf
      have hcur := State.watch_cur hwho
      rw [if_neg htoken]
      generalize s.watch s.who.teamOf s.who.gidOf = t at hmem hsame hcur
      have hgiven := State.giveGangToken_token (s := t)
      rw [State.advance_cur, State.advance_mem, State.giveGangToken_cur (hsame.trans hwho), hcur, hgiven, hsame]
      exact ⟨rfl, rfl, rfl, hmem, fun hsome => absurd hsome htoken, fun _ => ⟨rfl, rfl⟩⟩

end Sys2Proof.Machine
end

section
/-! The weight store's instructions: WLOAD, WDIR and RFSH (06 R148, R152, R153, R161; 16 R375 to R377). -/

namespace Sys2Proof.Machine

/-! ### A copy takes its place in the queue (R183, R185, R362) -/

section

variable {s : State} {c : Copy}

/-- The copy that enters the queue, with its promise. -/
def State.promised (s : State) (c : Copy) : Copy := { c with id := s.handles + 4, promise := s.promiseOf c, term := (s.copyTerm c).1 }

/-- Room in the queue takes the copy in at its end; the cache sectors that go with it are no register and no memory. -/
theorem State.enqueue_room (hroom : s.copyRoom) : ∃ f : Core → Core, s.enqueue c =
    some ({ s with handles := s.handles + 1 }.updCore (s.coreOf s.who) f, s.promiseOf c) ∧
      ∀ k, (f k).copies = k.copies ++ [s.promised c] ∧ (f k).scratch = k.scratch ∧ (f k).wdir = k.wdir := by
  unfold State.enqueue
  extract_lets core
  rw [if_neg (Nat.not_le.2 hroom)]
  exact ⟨_, rfl, fun k => ⟨rfl, rfl, rfl⟩⟩

theorem Group.ws_pc (g : Group) (d : SNum) (v : DWord) : (g.ws d v).pc = g.pc := by
  unfold Group.ws
  split <;> rfl

/-- The state after a copy took its place: the group has its promise and goes on. -/
theorem State.queued_is (d : SNum) {f : Core → Core} (hcopies : ∀ k, (f k).copies = k.copies ++ [s.promised c]) (hscratch : ∀ k, (f k).scratch = k.scratch) :
    s.copyQueued ((({ s with handles := s.handles + 1 }.updCore (s.coreOf s.who) f).ws d (s.promiseOf c)).advance) d c := by
  refine ⟨?copies, ?cur, ?mem, ?scratch⟩
  case copies =>
    rw [State.advance_core, State.ws_core, State.updCore_core, if_pos rfl, hcopies]
    rfl
  case cur =>
    rw [State.advance_cur, State.ws_cur, State.updCore_cur, Group.ws_pc]
    rfl
  case mem => rw [State.advance_mem, State.ws_mem, State.updCore_mem]
  case scratch =>
    rw [State.advance_core, State.ws_core, State.updCore_core, if_pos rfl, hscratch]
    rfl

end

/-! ### The directory (R153) -/

/-- A change of directory entries changes each by its number and its own old value. -/
theorem KMap.get_foldl_set {α : Type} [DecidableEq α] (z : α) (f : Nat → α → α) (n : Nat) (m : KMap α) (i : Nat) :
    KMap.get z ((List.range n).foldl (fun m i => KMap.set z m i (f i (KMap.get z m i))) m) i = if i < n then f i (KMap.get z m i) else KMap.get z m i := by
  induction n with
  | zero => rfl
  | succ n ih =>
    rw [List.range_succ, List.foldl_append, List.foldl_cons, List.foldl_nil]
    by_cases hi : i = n
    · subst hi
      rw [KMap.get_set_same, ih, if_neg (Nat.lt_irrefl i), if_pos (Nat.lt_succ_self i)]
    · rw [KMap.get_set_other _ _ _ hi, ih]
      simp only [show i < n + 1 ↔ i < n by omega]

theorem Core.mapDir_get (c : Core) (f : Nat → DWord → DWord) {i : Nat} (hi : i < 64) : KMap.get 0 (c.mapDir f).wdir i = f i (KMap.get 0 c.wdir i) :=
  (KMap.get_foldl_set 0 f 64 c.wdir i).trans (if_pos hi)

/-- A change of the directory leaves a queued copy as it is. -/
theorem State.copyQueued.mapDir {s t : State} {d : SNum} {c : Copy} (h : s.copyQueued t d c) (f : Nat → DWord → DWord) :
    s.copyQueued (t.updCore (s.coreOf s.who) fun k => k.mapDir f) d c := by
  obtain ⟨hcopies, hcur, hmem, hscratch⟩ := h
  refine ⟨?_, (State.updCore_cur ..).trans hcur, hmem, ?_⟩
  · rw [State.updCore_core, if_pos rfl]
    exact hcopies
  · rw [State.updCore_core, if_pos rfl]
    exact hscratch

/-! ### WLOAD (R375) -/

section

variable {s : State} {d a b : SNum}

/-- The block of a WLOAD names a region of the weight store (R375). -/
structure State.WloadFields (s : State) (a : SNum) : Prop where
  zeroMid : fieldN (s.par a 1) 19 13 = 0
  some : fieldN (s.par a 1) 32 32 ≠ 0
  units : fieldN (s.par a 1) 32 32 % 64 = 0
  fits : 64 * fieldN (s.par a 1) 0 13 + fieldN (s.par a 1) 32 32 ≤ Config.sliceBytes
  stride : fieldN (s.par a 2) 0 32 % 64 = 0
  zeroHigh : fieldN (s.par a 2) 32 32 = 0

/-- A WLOAD with fields that Table 16-8 has no meaning for. -/
def State.wloadIll (s : State) (a : SNum) : Bool :=
  fieldN (s.par a 1) 19 13 != 0 || fieldN (s.par a 1) 32 32 == 0 || fieldN (s.par a 1) 32 32 % 64 != 0 ||
    Config.sliceBytes < 64 * fieldN (s.par a 1) 0 13 + fieldN (s.par a 1) 32 32 || fieldN (s.par a 2) 0 32 % 64 != 0 || fieldN (s.par a 2) 32 32 != 0

theorem State.WloadFields.wloadIll (h : s.WloadFields a) : s.wloadIll a = false := by
  obtain ⟨hmid, hsome, hunits, hfits, hstride, hhigh⟩ := h
  simp [State.wloadIll, hmid, hsome, hunits, hfits, hstride, hhigh]

/-- The copy of a WLOAD (R375). -/
def State.wloadOf (s : State) (a : SNum) : Copy :=
  { id := 0, team := s.who.teamOf, gid := s.who.gidOf, kind := .wload (fieldN (s.par a 1) 0 13) (fieldN (s.par a 1) 13 6), sadr := (s.par a 0).toNat,
    dadr := 0, sspc := false, dspc := false, xlen := fieldN (s.par a 1) 32 32, ny := fieldN (s.par a 1) 13 6 + 1, nz := 1, nw := 1,
    sstr := fieldN (s.par a 2) 0 32, dstr := 0, szs := 0, dzs := 0, sws := 0, dws := 0, ev := none, promise := 0, term := 0, pos := 0,
    waiting := [], stopped := none, resumed := false, unbound := false, failed := none }

/-- A directory entry after a WLOAD: cleared where its region meets the one written (R375). -/
def dirAfter (off len : Nat) (e : DWord) : DWord :=
  if dirValid e && 64 * dirOff e < 64 * off + len && 64 * off < 64 * dirOff e + dirSize e then dirClear e else e

/-- The region that a WLOAD reads exists (R375, R411). -/
structure State.WloadReads (s : State) (a : SNum) : Prop where
  aligned : (s.par a 0).toNat % 64 = 0
  inside : (s.par a 0).toNat + fieldN (s.par a 1) 13 6 * fieldN (s.par a 2) 0 32 + fieldN (s.par a 1) 32 32 ≤ 2 ^ 57
  present : s.absentRow s.who (fieldN (s.par a 1) 13 6 + 1) (fieldN (s.par a 1) 32 32)
    (fun k => (s.par a 0).toNat + k * fieldN (s.par a 2) 0 32) false = none

theorem exec_wload_queues (hready : scalarReady (.wload d a) (blockRegs a 3) [d] s = true) (hrun : s.stalled = false) (hfields : s.WloadFields a)
    (hphase : s.curCore.wphase ≠ none) (hreads : s.WloadReads a) (hrel : s.released s.who 0 = true) (hroom : s.copyRoom) :
    ∃ t, exec (.wload d a) s =
        .next (t.updCore (s.coreOf s.who) fun k => k.mapDir fun _ e => dirAfter (fieldN (s.par a 1) 0 13) (fieldN (s.par a 1) 32 32) e) ∧
      s.copyQueued t d (s.wloadOf a) ∧ (t.core (s.coreOf s.who)).wdir = (s.core (s.coreOf s.who)).wdir := by
  obtain ⟨f, hf, hkeeps⟩ := State.enqueue_room (c := s.wloadOf a) hroom
  refine ⟨_, ?exec, State.queued_is d (fun k => (hkeeps k).1) fun k => (hkeeps k).2.1, ?wdir⟩
  case exec =>
    show execWload d a s = _
    rw [execWload, commandOp_checked _ _ _ hready, checked_pass ?checks]
    case checks =>
      obtain ⟨haligned, hinside, hexists⟩ := hreads
      simp only [List.forall_mem_cons, check_eq_none, alignCheck_eq_none]
      refine ⟨hfields.wloadIll, ?phase, haligned, ?inside, ?absent, by simp⟩
      case phase => simpa [Option.isSome_iff_ne_none] using hphase
      case inside => simpa using hinside
      case absent => rw [hexists]; rfl
    have hgo : (!s.released s.who 0) = false := by rw [hrel]; rfl
    have hqueue : s.queueCopy d (s.wloadOf a) = .next
        (({ s with handles := s.handles + 1 }.updCore (s.coreOf s.who) f).ws d (s.promiseOf (s.wloadOf a))).advance := by
      rw [State.queueCopy, hf]
      rfl
    extract_lets q off nm1 len c
    rw [if_neg (by rw [hgo]; decide)]
    generalize hout : s.queueCopy d c = out
    obtain rfl := hout.symm.trans hqueue
    dsimp only
    rw [if_neg (by rw [State.advance_stalled, State.ws_stalled]; simp [State.updCore, State.setCore, hrun])]
    rfl
  case wdir =>
    rw [State.advance_core, State.ws_core, State.updCore_core, if_pos rfl, (hkeeps _).2.2]
    rfl

theorem exec_wload_outside (hready : scalarReady (.wload d a) (blockRegs a 3) [d] s = true) (hfields : s.WloadFields a)
    (hphase : s.curCore.wphase = none) : exec (.wload d a) s = trapAt s 0x14 0 := by
  have hill : check (s.wloadIll a) cIllfld (opInfo (.wload d a)) = none := check_eq_none.2 hfields.wloadIll
  have hoff : check s.curCore.wphase.isNone cWsphase 0 = some (cWsphase, 0) := by rw [hphase]; rfl
  show execWload d a s = _
  rw [execWload, commandOp_checked _ _ _ hready]
  show checked s (check (s.wloadIll a) cIllfld (opInfo (.wload d a)) :: check s.curCore.wphase.isNone cWsphase 0 :: _) _ = _
  rw [hill, checked_none, hoff, checked_some]
  rfl

/-! ### WDIR (R376, R153) -/

/-- An entry of the directory after a WDIR of entry `e` into place `n` (R153, R376). -/
def dirPut (n : Nat) (e : DWord) (i : Nat) (old : DWord) : DWord :=
  if i = n then (if dirValid e then e else dirClear old)
  else if dirValid e && dirValid old && dirTag old == dirTag e then dirClear old else old

theorem exec_wdir (hready : scalarReady (.wdir a b) [a, b] [] s = true) (hplace : (s.rs b).toNat < 64)
    (hentry : dirValid (s.rs a) = true → dirOk (s.rs a) = true) : exec (.wdir a b) s =
      if s.curCore.wphase = none then trapAt s 0x14 (BitVec.ofNat 64 (dirTag (s.rs a)))
      else .next (s.updCore (s.coreOf s.who) fun k => k.mapDir (dirPut (s.rs b).toNat (s.rs a))).advance := by
  have hill : check (64 ≤ (s.rs b).toNat || (dirValid (s.rs a) && !dirOk (s.rs a))) cIllfld (opInfo (.wdir a b)) = none := by
    simpa [hplace] using hentry
  show execWdir a b s = _
  rw [execWdir, commandOp_checked _ _ _ hready, hill, checked_none]
  by_cases hphase : s.curCore.wphase = none
  · rw [if_pos hphase, hphase]
    rfl
  · rw [if_neg hphase, checked_pass (by simpa [Option.isSome_iff_ne_none] using hphase)]
    rfl

end

/-! ### RFSH (R161, R377) -/

section

variable {s : State}

theorem State.report_cur (type source sev loc pa count ctx detail : Nat) : (s.report type source sev loc pa count ctx detail).cur = s.cur := by
  obtain ⟨_, _, _, _, _, h⟩ := s.report_frame type source sev loc pa count ctx detail
  rw [h]
  rfl

/-- A scrub of banks changes no group. -/
theorem State.scrubBanks_cur (s : State) (core : Nat) (bank : Nat → Bool) : (s.scrubBanks core bank).cur = s.cur := by
  unfold State.scrubBanks
  extract_lets here soft env t
  refine (foldl_keeps State.cur _ (fun u e => ?_) _ _).trans (State.updCore_cur ..)
  rw [State.report_cur]
  exact State.updCore_cur ..

/-- A refresh that is over is settled: no group and no memory changes, and the core has none in progress. -/
theorem State.settleRfsh_keeps (core : Nat) : (s.settleRfsh core).cur = s.cur ∧ (s.settleRfsh core).mem = s.mem ∧
    ((s.settleRfsh core).core core).rfshEnd = if s.rfshOver core = none then (s.core core).rfshEnd else none := by
  unfold State.settleRfsh
  cases hover : s.rfshOver core with
  | none => exact ⟨rfl, rfl, rfl⟩
  | some e =>
    dsimp only
    rw [State.updCore_cur, State.scrubBanks_cur, State.updCore_mem, State.scrubBanks_mem, State.updCore_core, if_pos rfl]
    exact ⟨rfl, rfl, rfl⟩

/-- RFSH's mark on its core: the refresh in progress is left, and else one begins. -/
def Core.refreshFrom (e : DWord) (k : Core) : Core := match k.rfshEnd with | some _ => k | none => { k with rfshEnd := some e }

theorem Core.refreshFrom_end (e : DWord) (k : Core) : (k.refreshFrom e).rfshEnd = some (k.rfshEnd.getD e) := by
  unfold Core.refreshFrom
  cases h : k.rfshEnd with
  | none => rfl
  | some x => exact h

theorem exec_rfsh (hready : scalarReady .rfsh [] [] s = true) : exec .rfsh s =
    .next ((s.settleRfsh (s.coreOf s.who)).updCore (s.coreOf s.who) (Core.refreshFrom (s.coreCyc (s.coreOf s.who) + 1536))).advance :=
  gate_ready _ hready

end

/-! ### The statement -/

/-- Settles O34: WLOAD queues its copy and clears what it writes over, WDIR puts its entry, RFSH begins a refresh or finds one. -/
theorem weightStoreInstructions : Obligations.WeightStoreInstructions := by
  unfold Obligations.WeightStoreInstructions
  intro d a b s core dir q r off nm1 len c
  refine ⟨?wload, ?wdir, ?wloadOff, ?wdirOff, ?rfsh⟩
  case wload =>
    intro hready hrun hmid hsome hunits hfits hstride hhigh hphase haligned hinside hexists hrel hroom
    obtain ⟨t, hexec, hqueued, hdir⟩ := exec_wload_queues hready hrun ⟨hmid, hsome, hunits, hfits, hstride, hhigh⟩ hphase
      ⟨haligned, hinside, hexists⟩ hrel hroom
    refine ⟨_, hexec, hqueued.mapDir _, fun i hi => ?_⟩
    show KMap.get 0 ((t.updCore core _).core core).wdir i = _
    rw [State.updCore_core, if_pos rfl, Core.mapDir_get _ _ hi, hdir, dirAfter]
    simp only [Bool.and_eq_true, decide_eq_true_eq, and_assoc]
    rfl
  case wdir =>
    intro hready hplace hentry hphase
    refine ⟨_, (exec_wdir hready hplace hentry).trans (if_neg hphase), ?_, ?_, fun i hi => ?_⟩
    · rw [State.advance_cur, State.updCore_cur]
    · rw [State.advance_mem, State.updCore_mem]
    · show KMap.get 0 ((State.advance _).core core).wdir i = _
      rw [State.advance_core, State.updCore_core, if_pos rfl, Core.mapDir_get _ _ hi, dirPut]
      simp only [Bool.and_eq_true, beq_iff_eq, and_assoc]
      rfl
  case wloadOff =>
    intro hready hmid hsome hunits hfits hstride hhigh hphase
    exact exec_wload_outside hready ⟨hmid, hsome, hunits, hfits, hstride, hhigh⟩ hphase
  case wdirOff =>
    intro hready hplace hentry hphase
    exact (exec_wdir hready hplace hentry).trans (if_pos hphase)
  case rfsh =>
    intro hready _
    obtain ⟨hcur, hmem, hend⟩ := s.settleRfsh_keeps core
    refine ⟨_, exec_rfsh hready, ?_, ?_, ?_⟩
    · rw [State.advance_cur, State.updCore_cur, hcur]
    · rw [State.advance_mem, State.updCore_mem, hmem]
    · rw [State.advance_core, State.updCore_core, if_pos rfl, Core.refreshFrom_end, hend]
      split <;> rfl

end Sys2Proof.Machine
end

section
/-! The copy engine's instructions: COPY, COPYM and CWAIT (07 R183, R185 to R187, R191; 16 R360 to R364). -/

namespace Sys2Proof.Machine

/-! ### A copy issues (R253, R361, R411) -/

/-- What a copy's issue reads of its extension: nothing where it has none, else its 48 bytes where its page is there. -/
def State.extRead (s : State) (x : Bool) (ad : DWord) (t : State) (ext : List Byte) : Prop :=
  (x = false ∧ t = s ∧ ext = []) ∨
    (x = true ∧ placeOk ad 8 ∧ s.pagesHeld s.who [ad.toNat, ad.toNat + 47] = false ∧ s.paramNeeds s.who ad.toNat 48 = none ∧
      s.paramBytes s.who ad.toNat 48 = .got t ext)

/-- The checks of a copy's block before its extension pass. -/
structure State.BlockSound (s : State) (f : CopyForm) (ops : List DWord) : Prop where
  legal : copyIll (s.copyWith f.kind ops false []) ops [] = false
  own : f.ill (s.copyWith f.kind ops false []) = false
  counter : ∀ v m, (s.copyWith f.kind ops false []).ev = some (v, m) → ∀ c ∈ f.ev v, c = none

section

variable {s t : State} {f : CopyForm} {ops : List DWord} {ext : List Byte}

theorem State.BlockSound.counterChecks (h : s.BlockSound f ops) :
    ∀ c ∈ (match (s.copyWith f.kind ops false []).ev with | some (v, _) => f.ev v | none => []), c = none := by
  cases hev : (s.copyWith f.kind ops false []).ev with
  | none => simp
  | some e => exact h.counter e.1 e.2 hev

/-- Checks that all pass do so too where some of them, those of ALIGN, are made once more before (R411). -/
theorem checks_twice {l : List (Option (Nat × DWord))} (h : ∀ c ∈ l, c = none) (test : Option (Nat × DWord) → Bool) : ∀ c ∈ l.filter test ++ l, c = none := by
  intro c hc
  rcases List.mem_append.1 hc with hc | hc
  · exact h c (List.mem_of_mem_filter hc)
  · exact h c hc

theorem extChecks_pass {ad : DWord} (h : placeOk ad 8) : ∀ c ∈ [alignCheck ad 8, globalCheck ad], c = none := by
  simp [h.1, globalCheck_eq_none.2 h.2]

/-- A copy whose checks pass goes to its queue. -/
theorem State.copyIssue_goes (hsound : s.BlockSound f ops) (hread : s.extRead f.x ((ops[5]?).getD 0) t ext)
    (hlegal : copyIll (t.copyWith f.kind ops f.x ext) ops ext = false) (hrest : ∀ c ∈ f.rest t (t.copyWith f.kind ops f.x ext), c = none) :
    s.copyIssue f ops = t.copyGo f.d (t.copyWith f.kind ops f.x ext) := by
  have hcounter := hsound.counterChecks
  obtain ⟨hblock, hown, -⟩ := hsound
  unfold State.copyIssue
  extract_lets extA plain extOk now ill late
  rcases hread with ⟨hx, rfl, rfl⟩ | ⟨hx, hplace, hheld, hneeds, hgot⟩
  case inl =>
    rw [hx] at hlegal hrest ⊢
    have hnow : now = .wait t := if_neg fun h => Bool.false_ne_true (hx.symm.trans h.1)
    have hill : ill = false := by simp only [ill, hnow]
    have hlate : ∀ c ∈ late, c = none := by
      intro c hc
      simp only [late, hx, Bool.false_eq_true, if_false, List.append_nil] at hc
      exact hcounter c hc
    have hpass : (copyIll plain ops [] || f.ill plain || ill) = false := by simp only [plain, hblock, hown, hill, Bool.or_false]
    rw [hpass, if_neg Bool.false_ne_true, checked_pass (checks_twice hlate _), if_pos Bool.not_false]
    exact checked_pass hrest _
  case inr =>
    rw [hx] at hlegal hrest ⊢
    have hnow : now = .got t ext := (if_pos ⟨hx, hplace.1, extractLsb'_high_eq_zero.2 hplace.2⟩).trans hgot
    have hill : ill = false := by
      simp only [ill, hnow]
      exact hlegal
    have hlate : ∀ c ∈ late, c = none := by
      intro c hc
      simp only [late, hx, if_true] at hc
      exact (List.mem_append.1 hc).elim (hcounter c) (extChecks_pass hplace c)
    have hpass : (copyIll plain ops [] || f.ill plain || ill) = false := by simp only [plain, hblock, hown, hill, Bool.or_false]
    rw [hpass, if_neg Bool.false_ne_true, checked_pass (checks_twice hlate _), if_neg (by decide), hheld, if_neg Bool.false_ne_true, hneeds,
      if_neg (by decide), hnow]
    exact checked_pass hrest _

/-- The page of the extension has no translation yet: the copy waits in the operand log (R191, R361). -/
theorem State.copyIssue_logs (hsound : s.BlockSound f ops) (hx : f.x = true) (hplace : placeOk ((ops[5]?).getD 0) 8)
    (hheld : s.pagesHeld s.who [((ops[5]?).getD 0).toNat, ((ops[5]?).getD 0).toNat + 47] = false)
    (hneeds : (s.paramNeeds s.who ((ops[5]?).getD 0).toNat 48).isSome = true)
    (haway : ∀ u y, s.paramBytes s.who ((ops[5]?).getD 0).toNat 48 ≠ .got u y) : s.copyIssue f ops = s.logCopy f ops ((ops[5]?).getD 0).toNat := by
  have hcounter := hsound.counterChecks
  obtain ⟨hblock, hown, -⟩ := hsound
  unfold State.copyIssue
  extract_lets extA plain extOk now ill late
  have hnow : now = s.paramBytes s.who extA.toNat 48 := if_pos ⟨hx, hplace.1, extractLsb'_high_eq_zero.2 hplace.2⟩
  have hill : ill = false := by
    simp only [ill, hnow]
    cases hread : s.paramBytes s.who extA.toNat 48 with
    | got u y => exact absurd hread (haway u y)
    | wait u => rfl
    | trap u c i => rfl
  have hlate : ∀ c ∈ late, c = none := by
    intro c hc
    simp only [late, hx, if_true] at hc
    exact (List.mem_append.1 hc).elim (hcounter c) (extChecks_pass hplace c)
  have hpass : (copyIll plain ops [] || f.ill plain || ill) = false := by simp only [plain, hblock, hown, hill, Bool.or_false]
  rw [hpass, if_neg Bool.false_ne_true, checked_pass (checks_twice hlate _), if_neg (by rw [hx]; decide), hheld, if_neg Bool.false_ne_true,
    if_pos hneeds]

/-! ### The copy starts, completes at once, or is logged (R50, R183, R191, R363) -/

variable {c : Copy} {d : SNum}

/-- A copy to somebody takes its place in a queue that has room. -/
theorem State.copyGo_queues (hmulti : c.kind ≠ .multi 0) (hpeers : c.kind ≠ .peers []) (hrel : s.released s.who 0 = true) (hroom : s.copyRoom) :
    ∃ u, s.copyGo d c = .next u ∧ s.copyQueued u d c := by
  obtain ⟨g, hg, hkeeps⟩ := State.enqueue_room (c := c) hroom
  have hstart : s.copyStart c = some ({ s with handles := s.handles + 1 }.updCore (s.coreOf s.who) g, s.promiseOf c) := by
    rw [← hg]
    exact (if_neg hmulti).trans (if_neg hpeers)
  refine ⟨_, ?_, State.queued_is d (fun k => (hkeeps k).1) fun k => (hkeeps k).2.1⟩
  rw [State.copyGo, if_neg (by simp [hrel]), hstart]
  rfl

/-- A multicast to no member of the cluster is complete at its issue. -/
theorem State.copyGo_nobody (hkind : c.kind = .multi 0) : s.copyGo d c = .next (s.ws d (s.cyc s.who)).advance := by
  have hstart : s.copyStart c = some (s, s.cyc s.who) := if_pos hkind
  rw [State.copyGo, if_neg (fun h => h.1 hkind), hstart]
  rfl

/-- A copy to no peer has its issue's cycle as its promise. -/
theorem State.copyGo_noPeer (hkind : c.kind = .peers []) :
    ∃ u, s.copyGo d c = .next u ∧ u.cur = { s.cur.ws d (s.cyc s.who) with pc := s.cur.pc + 4 } ∧ u.mem = s.mem := by
  have hmulti : c.kind ≠ .multi 0 := by rw [hkind]; exact CopyKind.noConfusion
  obtain ⟨g, hstart⟩ : ∃ g, s.copyStart c = some ({ s with handles := s.handles + 1 }.updCore (s.coreOf s.who) g, s.cyc s.who) :=
    ⟨_, (if_neg hmulti).trans (if_pos hkind)⟩
  refine ⟨(({ s with handles := s.handles + 1 }.updCore (s.coreOf s.who) g).ws d (s.cyc s.who)).advance, ?_, ?_, ?_⟩
  · rw [State.copyGo, if_neg (fun h => h.2.1 hkind), hstart]
    rfl
  · rw [State.advance_cur, State.ws_cur, State.updCore_cur, Group.ws_pc]
    rfl
  · rw [State.advance_mem, State.ws_mem, State.updCore_mem]

theorem State.askEngine_cores (die : Nat) (pasid : BitVec 20) (va : Nat) (write : Bool) : (s.askEngine die pasid va write).cores = s.cores := by
  unfold State.askEngine State.askPageFor
  extract_lets d page here same
  split
  · rfl
  · split <;> rfl

/-- The log entry of a request's lanes is the newest of its core; what asks for its pages changes no group, memory or core. -/
theorem State.logLanes_log (q : MemReq) {lanes : Mask} (hlanes : lanes ≠ 0) (origin : Origin) :
    ∃ l, ((s.logLanes q lanes origin).core (s.coreOf q.party)).olog = (s.core (s.coreOf q.party)).olog ++ [l] ∧ l.req = { q with lanes := lanes } := by
  unfold State.logLanes
  rw [if_neg hlanes]
  extract_lets core u
  have hcores : u.cores = s.cores := by
    refine foldl_keeps State.cores _ (fun w i => ?_) _ s
    split
    · exact State.askEngine_cores ..
    · rfl
  refine ⟨⟨{ q with lanes := lanes }, 0, origin, (u.grp q.party).pc, u.inHandler q⟩, ?_, rfl⟩
  rw [State.updCore_core, if_pos rfl]
  exact congrArg (fun x : KMap Core => (KMap.get Core.empty x core).olog ++ _) hcores

/-- A copy whose extension's page has no translation leaves its destination empty and its operands in the log (R191, R361). -/
theorem State.logCopy_logs {va : Nat} (hrel : s.released s.who 0 = true) (hfree : s.logFull (s.coreOf s.who) = false) :
    ∃ u l, s.logCopy f ops va = .next u ∧ u.cur.sregs = (s.cur.sempty f.d .pending).sregs ∧ u.cur.pc = s.cur.pc + 4 ∧ u.mem = s.mem ∧
      (u.core (s.coreOf s.who)).olog = (s.core (s.coreOf s.who)).olog ++ [l] ∧
      l.req = { scalarReq s.who (.command f.i) 4 (BitVec.ofNat 64 va) with id := s.handles + 4, ops := ops, lanes := 1 } := by
  unfold State.logCopy
  rw [if_neg (by rw [hrel, hfree]; decide)]
  extract_lets blank q t
  obtain ⟨l, hlog, hreq⟩ := t.logLanes_log q (lanes := 1) (by decide) .scalar
  have hstill := t.logLanes_still (q := q) 1 .scalar
  have hcur : ∃ o, t.cur = { s.cur.sempty f.d .pending with outst := o } :=
    ⟨_, (State.cur_updCur ..).trans (Group.sempty_outst ..)⟩
  obtain ⟨o, hcur⟩ := hcur
  have hsame : (t.logLanes q 1 .scalar).cur = t.cur := by
    rw [State.cur, State.who_of_actors (State.actors_of_still hstill), State.grp_of_actors (State.actors_of_still hstill)]
    rfl
  have hcoreOf : t.coreOf q.party = s.coreOf s.who := State.updCur_coreOf ..
  have hcore : t.core (s.coreOf s.who) = s.core (s.coreOf s.who) := State.updCur_core ..
  have hpc : (s.cur.sempty f.d .pending).pc = s.cur.pc := by rw [Group.sempty_only]
  rw [hcoreOf] at hlog
  refine ⟨_, l, rfl, ?sregs, ?pc, ?mem, ?log, hreq⟩
  case sregs => rw [State.advance_cur, hsame, hcur]
  case pc => rw [State.advance_cur, hsame, hcur, hpc]
  case mem => rw [State.advance_mem, (State.mem_of_still hstill).1]; exact State.updCur_mem ..
  case log =>
    rw [State.advance_core, hlog, hcore]

end

/-! ### CWAIT (R364) -/

section

variable {s : State} {a : SNum} {p : Bool}

/-- The copies that a CWAIT covers: the group's, or those whose promise is due by its register. -/
def State.waitedCopies (s : State) (a : SNum) (p : Bool) : List Copy := (s.copiesOf s.who).filter fun c => !p || c.promise.ule (s.rs a)

/-- A copy that CWAIT covers is still in the operand log. -/
def State.loggedCopy (s : State) (a : SNum) (p : Bool) : Prop :=
  ∃ l ∈ s.logOf s.who, ∃ i, l.req.kind = .command i ∧ l.req.lanes ≠ 0 ∧ (p = true → (s.cyc s.who).ule (s.rs a) = true)

theorem State.loggedCopy_iff : s.loggedCopy a p ↔ ((s.logOf s.who).any fun e =>
    (match e.req.kind with | .command _ => true | _ => false) && e.req.lanes != 0 && (!p || (s.cyc s.who).ule (s.rs a))) = true := by
  have hkind (k : MemKind) : (match k with | .command _ => true | _ => false) = true ↔ ∃ i, k = .command i := by
    cases k <;> simp
  have hdue : (!p || (s.cyc s.who).ule (s.rs a)) = true ↔ (p = true → (s.cyc s.who).ule (s.rs a) = true) := by
    cases p <;> simp
  rw [List.any_eq_true, State.loggedCopy]
  refine exists_congr fun l => and_congr_right fun _ => ?_
  rw [Bool.and_eq_true, Bool.and_eq_true, hkind, hdue, bne_iff_ne]
  exact ⟨fun ⟨i, h, hl, hp⟩ => ⟨⟨⟨i, h⟩, hl⟩, hp⟩, fun ⟨⟨⟨i, h⟩, hl⟩, hp⟩ => ⟨i, h, hl, hp⟩⟩

/-- A ready CWAIT waits for a copy it covers, ends, or raises the trap of the oldest that stopped. -/
theorem exec_cwait (hready : scalarReady (.cwait a p) (if p then [a] else []) [] s = true) :
    ((s.loggedCopy a p ∨ ∃ c ∈ s.waitedCopies a p, c.stopped = none) → exec (.cwait a p) s = blockedOut s) ∧
    (¬ s.loggedCopy a p → s.waitedCopies a p = [] → exec (.cwait a p) s = .next (s.acquireAt s.who 0).advance) ∧
    (∀ c rest, ¬ s.loggedCopy a p → s.waitedCopies a p = c :: rest → (∀ y ∈ s.waitedCopies a p, y.stopped.isSome = true) → ∀ k i,
      c.stopped = some (k, i) → exec (.cwait a p) s = trapAt (s.dropCopy (s.coreOf s.who) c.id) k.toNat i) := by
  show (_ → execCwait a p s = _) ∧ (_ → _ → execCwait a p s = _) ∧ ∀ c rest, _ → _ → _ → ∀ k i, _ → execCwait a p s = _
  rw [execCwait, scalarOp_ready _ hready, State.loggedCopy_iff]
  extract_lets mine logged
  refine ⟨fun hwait => ?wait, fun hlogged hnone => ?done, fun c rest hlogged hmine hall k i hstopped => ?trap⟩
  case wait =>
    have hblocked : (mine.any (·.stopped.isNone) || logged) = true := by
      rcases hwait with hlogged | ⟨c, hc, hruns⟩
      · exact Bool.or_eq_true_iff.2 (.inr hlogged)
      · exact Bool.or_eq_true_iff.2 (.inl (List.any_eq_true.2 ⟨c, hc, by rw [hruns]; rfl⟩))
    rw [if_pos hblocked]
  case done =>
    have hmine : mine = [] := hnone
    have hfree : ¬ (mine.any (·.stopped.isNone) || logged) = true := by
      rw [hmine]
      exact hlogged
    rw [if_neg hfree, hmine]
    rfl
  case trap =>
    have hover : mine.any (·.stopped.isNone) = false := List.any_eq_false.2 fun y hy hruns => by
      have hsome := hall y hy
      rw [Option.isNone_iff_eq_none.1 hruns] at hsome
      exact absurd hsome (by decide)
    have hfree : ¬ (mine.any (·.stopped.isNone) || logged) = true := by
      rw [hover]
      exact hlogged
    have hmine' : mine = c :: rest := hmine
    rw [if_neg hfree, hmine']
    dsimp only
    rw [hstopped]
    rfl

/-- A trap at the dropping of a copy is the executing group's at its instruction. -/
theorem trapAt_dropCopy (core id cause : Nat) (info : DWord) :
    trapAt (s.dropCopy core id) cause info = .next ((s.dropCopy core id).scalarTrap s.who cause info s.cur.pc []) := by
  rw [trapAt, State.dropCopy, State.updCore_who, State.updCore_cur]

end

/-! ### The forms of a copy (R361, R363) -/

section

variable {s t : State} {d a b : SNum} {x : Bool} {ext : List Byte}

/-- A copy's extension as its operands name it. -/
theorem State.extRead_of {m : DWord} (h : (x = false ∧ t = s ∧ ext = []) ∨ (x = true ∧ placeOk (s.par a 5) 8 ∧
    s.pagesHeld s.who [(s.par a 5).toNat, (s.par a 5).toNat + 47] = false ∧ s.paramNeeds s.who (s.par a 5).toNat 48 = none ∧
      s.paramBytes s.who (s.par a 5).toNat 48 = .got t ext)) : s.extRead x (((s.copyOps a x m)[5]?).getD 0) t ext := by
  rcases h with h | ⟨rfl, h⟩
  · exact .inl h
  · exact .inr ⟨rfl, h⟩

/-- A counter in the global space that is aligned and exists. -/
theorem counterChecks_global {v : DWord} (h : v.toNat % 8 = 0 ∧ s.absentCheck v 8 true = none) :
    ∀ c ∈ [alignCheck v 8, s.absentCheck v 8 true], c = none := by
  simp [h.1, h.2]

/-- A counter in each member's scratch that is aligned and inside. -/
theorem counterChecks_scratch {v : DWord} {scr : Nat} (h : fieldN v 0 19 % 8 = 0 ∧ fieldN v 0 19 + 8 ≤ scr) :
    ∀ c ∈ [alignCheck ((v.extractLsb' 0 19).setWidth 64) 8, check (scr < fieldN v 0 19 + 8) cAccess (addrInfo v)], c = none := by
  have hfield : ((v.extractLsb' 0 19).setWidth 64).toNat = fieldN v 0 19 := BitVec.toNat_setWidth_of_le (by decide)
  simp [hfield, h.1, h.2]

theorem dstOutside_eq_none {c : Copy} {top : Nat} (h : spanIn c.dadr c.ddims top = true) : dstOutside c top = none := by
  rw [dstOutside, h]
  rfl

/-- A member mask that fits its field names somebody where it is not 0. -/
theorem mask_ne_zero {m : DWord} (hm : m.toNat < 2 ^ 12) (hne : m ≠ 0) : m.setWidth 12 ≠ 0 := by
  bv_omega

/-- A peer mask that is not 0 names a device. -/
theorem State.peerDevs_ne_nil {m : DWord} (hne : m ≠ 0) : s.peerDevs m ≠ [] := by
  obtain ⟨i, hi⟩ : ∃ i, m.getLsbD i = true := by
    by_contra h
    refine hne (BitVec.eq_of_getLsbD_eq fun i _ => ?_)
    simpa using fun hi => h ⟨i, hi⟩
  have hmem : i ∈ (List.range 64).filter fun i => m.getLsbD i := List.mem_filter.2 ⟨List.mem_range.2 (BitVec.lt_of_getLsbD hi), hi⟩
  unfold State.peerDevs
  extract_lets c
  obtain ⟨j, l, hl⟩ := List.exists_cons_of_ne_nil (List.ne_nil_of_mem hmem)
  rw [hl, List.map_cons, List.eraseDups_cons]
  exact List.cons_ne_nil _ _

theorem State.peerDevs_zero : s.peerDevs 0 = [] := by
  have hnone : ((List.range 64).filter fun i => (0 : DWord).getLsbD i) = [] := by simp
  unfold State.peerDevs
  extract_lets c
  rw [hnone]
  rfl

end

/-! ### The statement -/

/-- Settles O33: what a copy's issue reads and checks leads to its queue, its log entry or its end, and CWAIT to its wait, end or trap. -/
theorem copyInstructions : Obligations.CopyInstructions := by
  unfold Obligations.CopyInstructions
  intro d a b x p s t ext regs ops plain cp e read legal src aligned scr toTeams inCluster toPeers atPeers
  refine ⟨?copy, ?cluster, ?peers, ?logged, ?cwait⟩
  case copy =>
    intro hready hread hlegal haligned hsrc hdst hrel hroom
    have hissue : exec (.copy d a x) s = t.copyGo d (cp .copy) := (gated_ready _ hready).trans
      (State.copyIssue_goes (f := s.copyForm d a x) ⟨hlegal.1, rfl, fun v m h => counterChecks_global (haligned v m h)⟩ (State.extRead_of hread) hlegal.2
        (by simpa [State.copyForm] using ⟨hsrc, hdst⟩))
    rw [hissue]
    exact State.copyGo_queues CopyKind.noConfusion CopyKind.noConfusion hrel hroom
  case cluster =>
    intro hready hread hlegal hsrc ⟨hmask, hscratch, hlow, hcounter, hspan, hmembers⟩
    have hown : (s.clusterForm d a b x (s.rs b)).ill (s.copyWith toTeams (s.copyOps a x (s.rs b)) false []) = false := by
      show (!zeroAbove (s.rs b) 12 || !(plain toTeams).dspc || (BitVec.ofInt 64 ((s.par a 1).toNat : Int)).getLsbD 24) = false
      rw [zeroAbove_of_lt hmask, hscratch, BitVec.ofInt_natCast, BitVec.ofNat_toNat, BitVec.setWidth_eq, hlow]
      rfl
    have hrest : ∀ c ∈ (s.clusterForm d a b x (s.rs b)).rest t (cp toTeams), c = none := by
      simp only [State.clusterForm, List.forall_mem_cons]
      exact ⟨hsrc, dstOutside_eq_none hspan, by rw [hmembers]; rfl, by simp⟩
    have hissue : exec (.copym d a b x false) s = t.copyGo d (cp toTeams) := (gated_ready _ hready).trans
      (State.copyIssue_goes (f := s.clusterForm d a b x (s.rs b)) ⟨hlegal.1, hown, fun v m h => counterChecks_scratch (hcounter v m h)⟩
        (State.extRead_of hread) hlegal.2 hrest)
    refine ⟨fun hsome hrel hroom => ?_, fun hnone => ?_⟩
    · rw [hissue]
      exact State.copyGo_queues (fun h => mask_ne_zero hmask hsome (CopyKind.multi.inj h)) CopyKind.noConfusion hrel hroom
    · rw [hissue]
      exact State.copyGo_nobody (show toTeams = .multi 0 by simp only [toTeams, hnone]; rfl)
  case peers =>
    intro hready hread hlegal hsrc ⟨hspace, haligned, hspan, hpeers⟩
    have hrest : ∀ c ∈ (s.peerForm d a b x (s.rs b)).rest t (cp toPeers), c = none := by
      simp only [State.peerForm, List.forall_mem_cons]
      exact ⟨hsrc, dstOutside_eq_none hspan, by rw [hpeers]; rfl, by simp⟩
    have hissue : exec (.copym d a b x true) s = t.copyGo d (cp toPeers) := (gated_ready _ hready).trans
      (State.copyIssue_goes (f := s.peerForm d a b x (s.rs b)) ⟨hlegal.1, hspace, fun v m h => counterChecks_global (haligned v m h)⟩
        (State.extRead_of hread) hlegal.2 hrest)
    refine ⟨fun hsome hrel hroom => ?_, fun hnone => ?_⟩
    · rw [hissue]
      exact State.copyGo_queues CopyKind.noConfusion (fun h => State.peerDevs_ne_nil hsome (CopyKind.peers.inj h)) hrel hroom
    · rw [hissue]
      exact State.copyGo_noPeer (show toPeers = .peers [] by simp only [toPeers, hnone, State.peerDevs_zero])
  case logged =>
    intro hready hx hblock haligned hplace hheld hneeds haway hrel hfree
    subst hx
    obtain ⟨u, l, hlogs, hsregs, hpc, hmem, holog, hreq⟩ := State.logCopy_logs (f := s.copyForm d a true) (ops := ops 0) (va := e) hrel hfree
    have hissue : exec (.copy d a true) s = .next u := ((gated_ready _ hready).trans
      (State.copyIssue_logs (f := s.copyForm d a true) ⟨hblock, rfl, fun v m h => counterChecks_global (haligned v m h)⟩ rfl hplace hheld hneeds haway)).trans hlogs
    refine ⟨u, l, hissue, hsregs, hpc, hmem, holog, ?_⟩
    rw [hreq]
    refine ⟨rfl, rfl, rfl, ?_, rfl⟩
    show (((Vector.replicate 32 (BitVec.ofNat 64 e))[0]?).getD 0).toNat = e
    simp [e]
  case cwait =>
    intro mine logged hready
    obtain ⟨hwait, hdone, htrap⟩ := exec_cwait hready
    exact ⟨fun h => hwait (.inl h), fun hnone hfree => hdone hfree hnone, fun h => hwait (.inr h),
      fun c rest k i hmine hall hfree hstopped => (htrap c rest hfree hmine hall k i hstopped).trans (trapAt_dropCopy ..)⟩

end Sys2Proof.Machine
end
